-- ==== Sys2Proof/Word.lean ====
section
/-! DEFINITION. The word and byte types of the block (names only; everything computed with them is in Machine/). -/

namespace Sys2Proof

abbrev Byte := BitVec 8
abbrev W12 := BitVec 12
abbrev W16 := BitVec 16
abbrev W32 := BitVec 32
abbrev W48 := BitVec 48
abbrev W64 := BitVec 64

/-- A byte with its slag mark (R105, R428). -/
abbrev SByte := Byte × Bool

end Sys2Proof
end

