-- ==== Sys2Proof/Syntax.lean ====
section
/-! DEFINITION. The commands of the block: one constructor of `Instr` per row of spec/opcode_table.json, with its operands.
A row that is a Polast opcode takes the packet (`Req`) that has come to execution: it has passed steps 1 to 5 of R95.
A row that is an event takes what the event brings from outside (a received frame, a measured value, a host's register write). -/

namespace Sys2Proof

/-- The authentication block of a command whose CMAC has verified at step 5 of R95. -/
structure MacInfo where
  slot : Fin 8
  seq : W48
  /-- word A0 [15:3], reserved (R68, R10) -/
  rsv : BitVec 13 := 0#13
  deriving DecidableEq, Repr

/-- A command packet at step 6 of R95: the header fields of R67 that the later steps use, and the parameter words.
`cq` is the command queue it was taken from; its reply goes to reply queue `cq + 6`. -/
structure Req where
  cq : Fin 6 := 0
  quiet : Bool := false
  src : W12 := 0#12
  /-- TARGET as received -/
  tgt : W12 := 0#12
  tag : W16 := 0#16
  cmt : Bool := false
  commit : W48 := 0#48
  /-- header word 2 [18:16], reserved (R68) -/
  rsv : BitVec 3 := 0#3
  mac : Option MacInfo := none
  params : List W32 := []
  deriving DecidableEq, Repr, Inhabited

/-- The severe faults and the latched key-engine fault (R402). -/
inductive SevereFault where
  | thermTrip | railFault | pllUnlock | coreLoss | keFail
  deriving DecidableEq, Repr

/-- JTAG instructions (R472, R473). `other`: any instruction that the device does not offer. -/
inductive JtagInstr where
  | bypass | idcode | sample | preload | extest | extestPulse | extestTrain | clamp | highz | other
  deriving DecidableEq, Repr, Inhabited

/-- The output pins that have a cell in the scan chain. The line analog pins, HKA_IN, HKB_IN, HTR, CTLV and VREF_EXT have none, and the TXDIS cells only observe (R472). -/
inductive ScanPin where
  | client (lane : Nat) | fabric (lane : Nat) | pcie (lane : Nat)
  | strkOut | refout (k : Nat) | intN | fltN | rplcN
  | spitMiso | spibSck | spibCsN | spibDq (k : Nat) | i2cScl (m : Nat) | i2cSda (m : Nat)
  deriving DecidableEq, Repr

/-- A load of the JTAG instruction register (R458, R472, R473): the instruction; the cells that the data scans before it have shifted in; TRST_N is low, so the TAP is held in reset. -/
structure JtagLoad where
  instr : JtagInstr := .bypass
  cells : List (ScanPin × Bool) := []
  trstLow : Bool := false
  deriving DecidableEq, Repr, Inhabited

/-- The failing conditions of a reference candidate (R50). -/
inductive RefCause where
  | edge | freq | source | announcement
  deriving DecidableEq, Repr

/-- What takes container frames: the sink of a container (R129) or the monitor of a group's copy (R155). -/
inductive SinkKind where
  | cont | working | protect
  deriving DecidableEq, Repr

/-- The rails whose monitor declares RAIL_FAULT (R402, R460). -/
inductive Rail where
  | vddCore | vddSram | vddSerdes | vddConv | vddHbm | vddqHbm | vddIo
  deriving DecidableEq, Repr

/-- What falls in the Bellows clock cycle in which a packet is committed to a command queue (R81): nothing, a flush of the queue, or the taking of its oldest packet. -/
inductive CycleOf where
  | alone | flush | removal
  deriving DecidableEq, Repr, Inhabited

/-- How a packet is fetched from a command ring (R85, R81): whether the transport delivers every beat of it, and what falls in the cycle of its commit. -/
structure Fetched where
  good : Bool := true
  cyc : CycleOf := .alone
  deriving DecidableEq, Repr

/-- The bytes that a PKT_WRITE brings (R89), and what falls in the cycle of its commit (R81). -/
structure SpiPacket where
  bytes : List Byte := []
  cyc : CycleOf := .alone
  deriving DecidableEq, Repr

/-- A write into the reply ring of a channel (R87), and the value that the host writes to RPL_HEAD in its cycle (R81), if any. -/
structure RingWrite where
  ch : Fin 4
  head : Option W32 := none
  deriving DecidableEq, Repr

/-- What the lanes of a fabric port receive in the time of one link row (R183, R311). -/
structure LinkRow where
  /-- it has not arrived 2 rows after its expected instant -/
  missing : Bool := false
  /-- per lane: the 3,400 symbols of 10 bits received, deskewed with the offsets of training -/
  lanes : List (Nat × List Nat) := []
  /-- symbol offset at which the row was cut out of the stream (R311) -/
  off : Int := 0
  /-- arrival after the start of this device's stroke, 10 ps units -/
  arr : Int := 0
  deriving DecidableEq, Repr

/-- What timing recovery and dispersion compensation hand on of a receiver's signal: two polarisations, I and Q in 2⁻³² codes, at fifths of a symbol, of which Ts is four (R213).
`first`: the symbol of the first point, counted from the start of the header in question. -/
structure RxWave where
  first : Int := 0
  x : List (Int × Int) := []
  y : List (Int × Int) := []
  deriving DecidableEq, Repr

/-- The signal about an offset that the correlator judges (R250, R251): symbol at which the header would start, the signal from 2,048 symbols before the correlation part to the end of the header,
and the level of the four lanes before gain control, against the working level, in 0.01 dB (R246). -/
structure Peak where
  pos : Nat := 0
  wave : RxWave := {}
  level : List Int := []
  deriving DecidableEq, Repr

/-- The signal of a superframe that ends in a predicted header window (R252): to the end of that header, counted from its predicted start; the level of the lanes, and the header's arrival after the start of this device's stroke, 10 ps units (R261). -/
structure HeaderWindow where
  wave : RxWave := {}
  level : List Int := []
  arr : Int := 0
  deriving DecidableEq, Repr

/-- A codeword at the decoder (R262, R272–R276): the candidate phase under which it was cut, its data symbols as the carrier recovery hands them on (four dimensions in 2⁻³² of the smallest amplitude),
the deviations of the last 64 pilots in the same unit, what the LDPC decoder made of it, the iterations used, and the rows since its decoding began. -/
structure CodewordIn where
  phase : Nat := 0
  syms : List (List Int) := []
  pilots : List (List Int) := []
  word : List Bool := []
  iter : Nat := 1
  began : Nat := 0
  deriving DecidableEq, Repr

/-- What terminates an OTUCn, or an OTUC of it: a line engine, or an instance of a FlexO client port (R302). -/
inductive OtnId where
  | line (e : Fin 4)
  | flexo (p : Fin 48) (i : Fin 16)
  deriving DecidableEq, Repr

/-- A frame period of the OTUC that an instance of a FlexO port brings: out of frame, every bit offset at which its FAS appears, with the MFAS that follows it, lowest first (R279);
in frame, the frame as it stands in the stream, scrambled, 15,296 bytes, alone in the list. -/
structure OtucFrame where
  hits : List (Nat × Byte) := []
  slices : List (List SByte) := []
  deriving DecidableEq, Repr

/-- A port that trains: a fabric port, or a client port whose TRAIN_MODE is 1 (R315). -/
inductive TrainPort where
  | fab (p : Fin 12)
  | cli (p : Fin 48)
  deriving DecidableEq, Repr

/-- What the bus does in one unit of an I2C transfer, an address or a byte (R392): the target acknowledges it, how long it holds SCL low in µs, the byte it sends. Nothing answers: the lines stay high. -/
structure I2cUnit where
  ack : Bool := false
  held : Nat := 0
  data : Byte := 0xFF#8
  deriving DecidableEq, Repr

/-- The bus over an I2C transfer (R392): SDA is still low after 9 clock pulses before START; else the pulses after which it is high; and the units in order. -/
structure I2cResult where
  sdaLow : Bool := false
  pulses : Fin 10 := 0
  units : List I2cUnit := []
  deriving DecidableEq, Repr

/-- What a read of the switching memory met (R121, R427, R436). `oneBad`: one copy uncorrectable; `differ`: both copies pass and differ, in TEMPER. -/
inductive SwKind where
  | mended | oneBad | bothBad | differ
  deriving DecidableEq, Repr

/-- A physical error met by a read of the switching memory in a row: bank (and partner bank in TEMPER), egress position, byte. -/
structure SwErr where
  bank : Nat
  bank2 : Nat := 0
  pos : Nat
  byte : Nat
  kind : SwKind
  deriving DecidableEq, Repr

/-- Client bytes that enter in a row (R131): an Ethernet frame of an ETH port, destination address through FCS, or ODU bytes of tributary entry `entry` of a FLEXO port. -/
structure ClientIn where
  port : Nat
  entry : Nat := 0
  bytes : List SByte
  /-- the frame was received with an error (R133 ERR) -/
  err : Bool := false
  deriving DecidableEq, Repr

/-- The on-chip memories for traffic and packets that store check bits (R426): the row aligners by port, or by engine and slice, and stored row; the mapper stage of a container; the
cipher stage of a container by frame; the stage of a grooming slot; the grooming queues and the command and reply queues by packet. -/
inductive Buffer where
  | fabAligner (p row : Nat) | lineAligner (e slice row : Nat)
  | mapper (c : Nat) | cipher (c frame : Nat) | groomStage (slot : Nat)
  | groomIn (p pkt : Nat) | groomOut (p pkt : Nat) | command (q pkt : Nat) | reply (q pkt : Nat)
  deriving DecidableEq, Repr

/-- Stored bits of byte `idx` of a memory that have flipped when it is read: 0–7 data, 8–13 check bits C0–C5 (R427). In an aligner byte 2k + j is byte j of the cell in place k. -/
structure BufUpset where
  buf : Buffer
  idx : Nat := 0
  bits : List Nat := []
  deriving DecidableEq, Repr

/-- What comes from outside in a row. -/
structure RowIn where
  /-- queues of which the next two changes, after this row's work, fall in one clock cycle: a commit with a removal or a flush (R81) -/
  oneCycle : List Nat := []
  /-- errors met by the reads of the traffic and packet memories (R427, R429) -/
  bufUpsets : List BufUpset := []
  client : List ClientIn := []
  swErrs : List SwErr := []
  /-- words at which the read-back of a table-writing command differs in TEMPER (R121, R398): (table, word) -/
  readBack : List (Nat × Nat) := []
  /-- PAM4 levels received on a lane in the row as pairs of bits, for the checker and LOOPBACK FAR: (lane, levels); none for a lane that is not named (R320, R321) -/
  laneRx : List (Nat × List Nat) := []
  /-- client ports in training whose lanes brought a row without a MARKER (R315) -/
  clientData : List Nat := []
  /-- lanes in dLLOS that were in lock throughout the row (R319) -/
  lanesLocked : List Nat := []
  /-- alignment store: (group, protection copy, what, stack) — 0 the stored row read fails its CRC, 1 the stack reports it uncorrectable, 2 the write, 3 the read did not complete (R169, R172, R430) -/
  store : List (Nat × Bool × Nat × Nat) := []
  /-- phase slips of the carrier recovery: (engine, number) (R257) -/
  slips : List (Nat × Nat) := []
  /-- memory upsets (R427, R429): (table of R432, word, stored bit 0–55 as `flips` of the state numbers them); (11, entry, 0) makes a word of the fragment table uncorrectable, (12, group, 0) the selector state of a group -/
  upsets : List (Nat × Nat × Nat) := []
  /-- event counters (EVENT_ID) and snapshot counters (entity, instance) whose word turns uncorrectable (R429) -/
  ctrUpsets : List Nat := []
  snapUpsets : List (Nat × Nat) := []
  /-- table words granted to the scrubber in this row: map words, other words (R41) -/
  scrubMap : Nat := 22
  scrubTab : Nat := 42
  /-- golden copies that turn unreadable: table, word, whether the CRC fails rather than the ECC, stack (R430, R435) -/
  goldBad : List (Nat × Nat × Bool × Nat) := []
  /-- corrections made by a stack: (stack, number) (R430) -/
  hbmCe : List (Nat × Nat) := []
  /-- slot buffer blocks read with an error: slot, whether the CRC fails, stack, first staged byte, bytes (R430) -/
  grmHbm : List (Nat × Bool × Nat × Nat × Nat) := []
  deriving DecidableEq, Repr
/-- A reseed of the DRBG: whether the entropy source delivers, and what it delivers (R370). -/
structure Reseed where
  ok : Bool := true
  entropy : List (BitVec 8) := []
  deriving DecidableEq, Repr
/-- What comes from outside at a stroke boundary: results of measurements made during the stroke that ends. -/
structure StrokeIn where
  /-- what comes from outside in row 0 of the stroke that begins -/
  row : RowIn := {}
  /-- HBM requesters 1–4 whose grant moved no beat in the stroke (R445) -/
  hbmStuck : List Nat := []
  /-- bytes that HBM blocking let a slot's read-out move in the stroke: (slot, bytes); a slot not named was not limited (R339) -/
  readLimit : List (Nat × Nat) := []
  /-- the sequence that holds KEY_LOCK does not end in the stroke (R369) -/
  keyStuck : Bool := false
  /-- requests that the DRBG served in the stroke (R370) -/
  drbgRequests : Nat := 0
  /-- reference candidates at which no edge was seen for 4 rows of the stroke (R50) -/
  refDark : List Nat := []
  /-- mean frequency of a candidate against OSCIN over the stroke, signed, 10⁻⁶ ppm; a candidate not named keeps the last one (R43, R50) -/
  refFreq : List (Nat × Int) := []
  /-- phase of a candidate against the output at the end of the stroke, signed, 10 ps; a candidate not named keeps the last one (R47, R48) -/
  refPhase : List (Nat × Int) := []
  /-- per lane: the heights of the three eyes at the slicer in 2⁻¹⁶ of the nominal, and the skew in symbol periods, as measured (R314) -/
  lanes : List (Nat × (Nat × Nat × Nat) × W16) := []
  /-- per ETH client port: high symbol error rate, local fault, remote fault received (R319, R322) -/
  cli : List (Nat × Bool × Bool × Bool) := []
  /-- transmitter calibration: (engine, loop 0–5 or 32 × (family − 5) + slice, what the sense taps show over the last 10 or 50 strokes, in hundredths of a step); one not named keeps its value (R232, R233) -/
  txCal : List (Nat × Nat × Int) := []
  /-- receiver calibration: (engine, 8 × lane + slice, mean in hundredths of 1/16 code, power, cross-correlation with its neighbours) over the last 50 strokes; a slice not named keeps its values (R241) -/
  rxCal : List (Nat × Nat × Int × Nat × Int) := []
  /-- offset of the far symbol clock from the sample clock, 10⁻⁶ ppm; an engine not named keeps the last one (R245) -/
  rxClock : List (Nat × Int) := []
  /-- tone powers of the values that a receiver in SCAN has tried so far, in order: (engine, powers); an engine not named keeps the last ones (R249) -/
  rxTones : List (Nat × List Nat) := []
  /-- receivers at which the RMS of every lane lay below LOS_THR (R247) -/
  rxDark : List Nat := []
  /-- dispersion that the equaliser taps show beyond the value applied: (engine, 10 ps/nm) (R258) -/
  rxCd : List (Nat × Int) := []
  /-- quality estimates of the stroke that ends: (engine, SNR_X, SNR_Y, DGD, SOP_RATE, PDL, TXIQ_SKEW_X, TXIQ_SKEW_Y, TX_XY_SKEW, TXIQ_GAIN_X, TXIQ_GAIN_Y, RMS0–RMS3, in the units of RX_QUALITY); an engine not named keeps the last ones (R263) -/
  rxQuality : List (Nat × List Int) := []
  /-- VREF_EXT as the reference monitor measures it at a judgement; 32,768 is 1.2500 V (R388) -/
  vref : W16 := 0x8000#16
  /-- HTR outputs whose sink failed to hold its current in the stroke (R382) -/
  htrFail : List Nat := []
  /-- the hottest on-die sensor at the end of the stroke, 0.1 °C (R402) -/
  tj : Int := 0
  deriving DecidableEq, Repr

/-- The commands of the block, in the order of spec/opcode_table.json: those with operands, then those without. -/
inductive Instr where
  /-- RSTN_LOW (R464) -/
  | rstnLow (ns : Nat)
  /-- POWER_LOSS (R463) -/
  | powerLoss (vddIoMv : Nat)
  /-- RAIL_FAULT (R402) -/
  | railFault (rail : Rail) (uv : Nat) (rows : Nat)
  /-- THERM_TRIP (R402) -/
  | thermTrip (temp : Int) (rows : Nat)
  /-- THERM_WARN (R402) -/
  | thermWarn (temp : Int) (rows : Nat)
  /-- PLL_UNLOCK (R402) -/
  | pllUnlock (rows : Nat)
  /-- SEVERE_FAULT_CLEAR (R402) -/
  | severeFaultClear (f : SevereFault) (strokes : Nat)
  /-- JTAG_INSTRUCTION_LOAD (R473) -/
  | jtagInstructionLoad (j : JtagLoad)
  /-- STRK_IN_EDGE (R53) -/
  | strkInEdge (t : Int)
  /-- ROW_TICK (R30) -/
  | rowTick (x : RowIn)
  /-- STROKE_BOUNDARY (R29) -/
  | strokeBoundary (x : StrokeIn)
  /-- REF_FAIL (R50) -/
  | refFail (c : Fin 24) (why : RefCause)
  /-- REF_WTR_CLEAR (R50) -/
  | refWtrClear (c : Fin 24)
  /-- CMD_TAIL_DOORBELL (R85) -/
  | cmdTailDoorbell (ch : Fin 4) (v : W32)
  /-- CMD_SIZE_WRITE (R84) -/
  | cmdSizeWrite (ch : Fin 4) (v : W32)
  /-- RPL_SIZE_WRITE (R84) -/
  | rplSizeWrite (ch : Fin 4) (v : W32)
  /-- RPL_HEAD_WRITE (R87) -/
  | rplHeadWrite (ch : Fin 4) (v : W32)
  /-- CMD_FLUSH (R86) -/
  | cmdFlush (mask : BitVec 4)
  /-- RPL_FLUSH (R79) -/
  | rplFlush (mask : BitVec 4)
  /-- INT_STATUS_W1C (R83) -/
  | intStatusW1c (w : W32)
  /-- BAR0_REGISTER_WRITE (R83) -/
  | bar0RegisterWrite (off : W12) (v : W32)
  /-- PCIE_PACKET_FETCH (R85) -/
  | pciePacketFetch (ch : Fin 4) (ws : List W32) (f : Fetched)
  /-- REPLY_RING_WRITE (R87) -/
  | replyRingWrite (w : RingWrite)
  /-- PKT_WRITE (R89) -/
  | pktWrite (p : SpiPacket)
  /-- RPL_READ (R90) -/
  | rplRead (clocked : Nat)
  /-- FLUSH (R88) -/
  | flush (b : Byte)
  /-- SPI_BAD (R88) -/
  | spiBad (b : Byte)
  /-- FABRIC_REPLY_RX (R93) -/
  | fabricReplyRx (ws : List W32)
  /-- ECHO (R104) -/
  | echo (rq : Req)
  /-- CAPS_READ (R4) -/
  | capsRead (rq : Req)
  /-- SYS_STATUS_READ (R104) -/
  | sysStatusRead (rq : Req)
  /-- QUEUE_STATUS_READ (R104) -/
  | queueStatusRead (rq : Req)
  /-- QUEUE_CFG (R80) -/
  | queueCfg (rq : Req)
  /-- QUEUE_FLUSH (R79) -/
  | queueFlush (rq : Req)
  /-- ACCESS_POLICY_READ (R104) -/
  | accessPolicyRead (rq : Req)
  /-- ACCESS_POLICY_WRITE (R96) -/
  | accessPolicyWrite (rq : Req)
  /-- INT_CLEAR (R104) -/
  | intClear (rq : Req)
  /-- STROKE_READ (R65) -/
  | strokeRead (rq : Req)
  /-- STROKE_SET (R36) -/
  | strokeSet (rq : Req)
  /-- STROKE_CFG (R66) -/
  | strokeCfg (rq : Req)
  /-- STROKE_JOIN (R64) -/
  | strokeJoin (rq : Req)
  /-- REF_CFG (R45) -/
  | refCfg (rq : Req)
  /-- REF_STATUS_READ (R65) -/
  | refStatusRead (rq : Req)
  /-- REF_FORCE (R45) -/
  | refForce (rq : Req)
  /-- CLK_CFG (R47) -/
  | clkCfg (rq : Req)
  /-- COMMIT_LIST_READ (R65) -/
  | commitListRead (rq : Req)
  /-- COMMIT_CANCEL (R65) -/
  | commitCancel (rq : Req)
  /-- MAP_WRITE (R110) -/
  | mapWrite (rq : Req)
  /-- MAP_COMMIT (R113) -/
  | mapCommit (rq : Req)
  /-- MAP_SYNC (R115) -/
  | mapSync (rq : Req)
  /-- MAP_READ (R147) -/
  | mapRead (rq : Req)
  /-- MAP_STATUS_READ (R147) -/
  | mapStatusRead (rq : Req)
  /-- CONT_CFG (R123) -/
  | contCfg (rq : Req)
  /-- CONT_READ (R147) -/
  | contRead (rq : Req)
  /-- CONT_STATUS_READ (R147) -/
  | contStatusRead (rq : Req)
  /-- CONTAINER_FRAME_RX (R129) -/
  | containerFrameRx (sink : SinkKind) (n : Nat) (rho : Nat)
  /-- BA_CFG (R149) -/
  | baCfg (rq : Req)
  /-- BA_READ (R145) -/
  | baRead (rq : Req)
  /-- TEST_READ (R144) -/
  | testRead (rq : Req)
  /-- ERR_INJECT (R146) -/
  | errInject (rq : Req)
  /-- PG_CFG (R152) -/
  | pgCfg (rq : Req)
  /-- PG_READ (R176) -/
  | pgRead (rq : Req)
  /-- PG_STATUS_READ (R176) -/
  | pgStatusRead (rq : Req)
  /-- PG_CMD (R177) -/
  | pgCmd (rq : Req)
  /-- ALN_REALIGN (R167) -/
  | alnRealign (rq : Req)
  /-- ALN_STATUS_READ (R176) -/
  | alnStatusRead (rq : Req)
  /-- PG_SUMMARY_READ (R176) -/
  | pgSummaryRead (rq : Req)
  /-- PG_HOLDOFF_EXPIRY (R156) -/
  | pgHoldoffExpiry (g : Nat) (copy : Bool)
  /-- PG_WTR_EXPIRY (R157) -/
  | pgWtrExpiry (g : Nat)
  /-- DFOP_PM (R164) -/
  | dfopPm (g : Nat)
  /-- DFOP_NR (R164) -/
  | dfopNr (g : Nat)
  /-- FAB_LINK_ROW_RX (R183) -/
  | fabLinkRowRx (p : Fin 12) (row : LinkRow)
  /-- FAB_HUNT_TIMEOUT (R187) -/
  | fabHuntTimeout (p : Fin 12)
  /-- ENVELOPE_TRANSMIT (R194) -/
  | envelopeTransmit (p : Fin 12)
  /-- HELLO_RX (R198) -/
  | helloRx (p : Fin 12) (ws : List W32)
  /-- HELLO_SEND (R197) -/
  | helloSend (p : Fin 12)
  /-- HELLO_LOSS (R198) -/
  | helloLoss (p : Fin 12)
  /-- LSP_RX (R203) -/
  | lspRx (p : Fin 12) (ws : List W32)
  /-- POLAST_ENVELOPE_RX (R196) -/
  | polastEnvelopeRx (p : Fin 12) (ws : List W32)
  /-- PATH_HOP_RX (R209) -/
  | pathHopRx (p : Fin 12) (ws : List W32)
  /-- FAB_CFG (R200) -/
  | fabCfg (rq : Req)
  /-- FAB_STATUS_READ (R212) -/
  | fabStatusRead (rq : Req)
  /-- FAB_PORT_CFG (R187) -/
  | fabPortCfg (rq : Req)
  /-- FAB_PORT_STATUS_READ (R212) -/
  | fabPortStatusRead (rq : Req)
  /-- FAB_ROUTE_READ (R212) -/
  | fabRouteRead (rq : Req)
  /-- FAB_LSDB_READ (R212) -/
  | fabLsdbRead (rq : Req)
  /-- FAB_PATH_SET (R208) -/
  | fabPathSet (rq : Req)
  /-- TX_CFG (R228) -/
  | txCfg (rq : Req)
  /-- TX_READ (R237) -/
  | txRead (rq : Req)
  /-- TX_STATUS_READ (R237) -/
  | txStatusRead (rq : Req)
  /-- TX_PREEMPH (R223) -/
  | txPreemph (rq : Req)
  /-- TX_PREEMPH_READ (R237) -/
  | txPreemphRead (rq : Req)
  /-- LINE_BOND_CFG (R229) -/
  | lineBondCfg (rq : Req)
  /-- TX_CAL_CFG (R233) -/
  | txCalCfg (rq : Req)
  /-- TX_CAL_READ (R237) -/
  | txCalRead (rq : Req)
  /-- TX_LASER_WAIT_END (R225) -/
  | txLaserWaitEnd (e : Fin 4)
  /-- TX_RAMP_DONE (R226) -/
  | txRampDone (e : Fin 4)
  /-- CAL_LIMIT (R232) -/
  | calLimit (e : Fin 4) (loop : Nat)
  /-- SLICE_RETIRE (R403) -/
  | sliceRetire (e : Fin 4) (dac : Bool) (lane : Fin 4) (slice : Fin 8)
  /-- RX_CFG (R239) -/
  | rxCfg (rq : Req)
  /-- RX_READ (R265) -/
  | rxRead (rq : Req)
  /-- RX_STATUS_READ (R265) -/
  | rxStatusRead (rq : Req)
  /-- RX_QUALITY_READ (R263) -/
  | rxQualityRead (rq : Req)
  /-- RX_CAL_READ (R265) -/
  | rxCalRead (rq : Req)
  /-- RX_REACQUIRE (R265) -/
  | rxReacquire (rq : Req)
  /-- DRXLOS (R247) -/
  | drxlos (e : Fin 4) (lanes : List Nat) (rows : Nat)
  /-- DRXLOS_CLEAR (R247) -/
  | drxlosClear (e : Fin 4) (lanes : List Nat) (rows : Nat)
  /-- CD_SCAN_DONE (R249) -/
  | cdScanDone (e : Fin 4) (tones : List Nat)
  /-- HEADER_CANDIDATE (R251) -/
  | headerCandidate (e : Fin 4) (pk : Peak)
  /-- HEADER_WINDOW_END (R252) -/
  | headerWindowEnd (e : Fin 4) (hw : HeaderWindow)
  /-- HUNT_TIMEOUT (R248) -/
  | huntTimeout (e : Fin 4)
  /-- CD_TRACK_LIMIT (R258) -/
  | cdTrackLimit (e : Fin 4)
  /-- CODEWORD_DECODE (R275) -/
  | codewordDecode (e : Fin 4) (cw : CodewordIn)
  /-- OTUC_FRAME_TX (R283) -/
  | otucFrameTx (id : OtnId) (opu : List (List Byte))
  /-- OTUC_FRAME_RX (R280) -/
  | otucFrameRx (id : OtnId) (fr : OtucFrame)
  /-- DLOF (R280) -/
  | dlof (id : OtnId)
  /-- DLOM (R281) -/
  | dlom (id : OtnId)
  /-- ROW_BLOCK_RX (R284) -/
  | rowBlockRx (e : Fin 4) (slice : Nat)
  /-- LINE_OH_CFG (R287) -/
  | lineOhCfg (rq : Req)
  /-- LINE_OH_READ (R295) -/
  | lineOhRead (rq : Req)
  /-- LINE_TTI_WRITE (R289) -/
  | lineTtiWrite (rq : Req)
  /-- LINE_TTI_READ (R295) -/
  | lineTtiRead (rq : Req)
  /-- LINE_OTN_STATUS_READ (R295) -/
  | lineOtnStatusRead (rq : Req)
  /-- LINE_FEC_STATUS_READ (R295) -/
  | lineFecStatusRead (rq : Req)
  /-- LINE_REALIGN (R285) -/
  | lineRealign (rq : Req)
  /-- CL_PORT_CFG (R298) -/
  | clPortCfg (rq : Req)
  /-- CL_PORT_READ (R322) -/
  | clPortRead (rq : Req)
  /-- CL_PORT_STATUS_READ (R322) -/
  | clPortStatusRead (rq : Req)
  /-- FLEXO_TRIB_CFG (R304) -/
  | flexoTribCfg (rq : Req)
  /-- FLEXO_TRIB_READ (R322) -/
  | flexoTribRead (rq : Req)
  /-- LANE_CFG (R320) -/
  | laneCfg (rq : Req)
  /-- LANE_STATUS_READ (R322) -/
  | laneStatusRead (rq : Req)
  /-- LANE_PRBS_READ (R321) -/
  | lanePrbsRead (rq : Req)
  /-- DLLOS (R319) -/
  | dllos (lane : Nat)
  /-- TRAINING_FRAME_RX (R313) -/
  | trainingFrameRx (p : TrainPort) (ws : List W32)
  /-- TRAIN_TIMEOUT (R316) -/
  | trainTimeout (p : Fin 12)
  /-- LANE_TEST_END (R317) -/
  | laneTestEnd (lane : Nat) (pass : Bool)
  /-- CLIENT_FRAME_RX (R324) -/
  | clientFrameRx (p : Nat) (bs : List SByte) (bad : Bool)
  /-- FLUX_PASS (R330) -/
  | fluxPass (ctx : Nat)
  /-- PACKET_RETIRE (R326) -/
  | packetRetire (p : Nat)
  /-- UNPACK_FRAME (R340) -/
  | unpackFrame (slot : Nat)
  /-- EGRESS_MAC_TAKE (R340) -/
  | egressMacTake (p : Nat)
  /-- GROOM_CFG (R334) -/
  | groomCfg (rq : Req)
  /-- GROOM_READ (R345) -/
  | groomRead (rq : Req)
  /-- GROOM_STATUS_READ (R345) -/
  | groomStatusRead (rq : Req)
  /-- SLOT_CFG (R337) -/
  | slotCfg (rq : Req)
  /-- SLOT_READ (R345) -/
  | slotRead (rq : Req)
  /-- SLOT_STATUS_READ (R345) -/
  | slotStatusRead (rq : Req)
  /-- PROG_WRITE (R329) -/
  | progWrite (rq : Req)
  /-- RULE_WRITE (R335) -/
  | ruleWrite (rq : Req)
  /-- RULE_COMMIT (R335) -/
  | ruleCommit (rq : Req)
  /-- RULE_SYNC (R336) -/
  | ruleSync (rq : Req)
  /-- RULE_READ (R345) -/
  | ruleRead (rq : Req)
  /-- GRM_QUEUE_CFG (R324) -/
  | grmQueueCfg (rq : Req)
  /-- GRM_QUEUE_FLUSH (R324) -/
  | grmQueueFlush (rq : Req)
  /-- SEC_CFG (R352) -/
  | secCfg (rq : Req)
  /-- SEC_READ (R371) -/
  | secRead (rq : Req)
  /-- SEC_STATUS_READ (R371) -/
  | secStatusRead (rq : Req)
  /-- KEY_LOAD (R357) -/
  | keyLoad (rq : Req)
  /-- KEY_SWITCH (R358) -/
  | keySwitch (rq : Req)
  /-- KEY_CLEAR (R357) -/
  | keyClear (rq : Req)
  /-- SEC_CLEAR_LOSS (R364) -/
  | secClearLoss (rq : Req)
  /-- KE_STATUS_READ (R371) -/
  | keStatusRead (rq : Req)
  /-- DRBG_RESEED (R370) -/
  | drbgReseed (r : Reseed)
  /-- HK_CFG (R373) -/
  | hkCfg (rq : Req)
  /-- HK_READ (R393) -/
  | hkRead (rq : Req)
  /-- HK_TRIGGER (R374) -/
  | hkTrigger (rq : Req)
  /-- HK_RESULT_READ (R393) -/
  | hkResultRead (rq : Req)
  /-- HK_CONVERSION_DONE (R374) -/
  | hkConversionDone (conv : Fin 2) (entry : Nat) (vin : List (Fin 32 × Int))
  /-- OUT_CFG (R381) -/
  | outCfg (rq : Req)
  /-- OUT_READ (R393) -/
  | outRead (rq : Req)
  /-- OUT_STATUS_READ (R393) -/
  | outStatusRead (rq : Req)
  /-- BL_CFG (R383) -/
  | blCfg (rq : Req)
  /-- BL_READ (R393) -/
  | blRead (rq : Req)
  /-- BL_STATUS_READ (R393) -/
  | blStatusRead (rq : Req)
  /-- BL_WINDOW_END (R386) -/
  | blWindowEnd (loop : Fin 8)
  /-- I2C_CFG (R391) -/
  | i2cCfg (rq : Req)
  /-- I2C_XFER (R392) -/
  | i2cXfer (rq : Req)
  /-- I2C_XFER_DONE (R392) -/
  | i2cXferDone (m : Fin 4) (r : I2cResult)
  /-- OPT_STATUS_READ (R393) -/
  | optStatusRead (rq : Req)
  /-- MODE_SET (R395) -/
  | modeSet (rq : Req)
  /-- QUENCH (R400) -/
  | quench (rq : Req)
  /-- QUENCH_EXIT (R400) -/
  | quenchExit (rq : Req)
  /-- MODE_CFG (R399) -/
  | modeCfg (rq : Req)
  /-- MODE_STATUS_READ (R425) -/
  | modeStatusRead (rq : Req)
  /-- FAULT_ACK (R402) -/
  | faultAck (rq : Req)
  /-- LOCKSTEP_MISCOMPARE (R398) -/
  | lockstepMiscompare (pair : Fin 2)
  /-- CORE_SELF_TEST_DONE (R398) -/
  | coreSelfTestDone (core : Fin 4) (pass : Bool)
  /-- IMAGE_LOAD_DONE (R406) -/
  | imageLoadDone (copy : Bool)
  /-- FW_START_DONE (R406) -/
  | fwStartDone (badBanks : List Nat)
  /-- BOOT_STATUS_READ (R425) -/
  | bootStatusRead (rq : Req)
  /-- IMAGE_STAGE (R411) -/
  | imageStage (rq : Req)
  /-- BOOT_EXEC (R411) -/
  | bootExec (rq : Req)
  /-- IMAGE_INSTALL (R411) -/
  | imageInstall (rq : Req)
  /-- ROLLBACK_ADVANCE (R410) -/
  | rollbackAdvance (rq : Req)
  /-- SIGNER_SLOT_PROGRAM (R409) -/
  | signerSlotProgram (rq : Req)
  /-- SIGNER_REVOKE (R409) -/
  | signerRevoke (rq : Req)
  /-- SYS_RESTART (R412) -/
  | sysRestart (rq : Req)
  /-- PK_SET (R413) -/
  | pkSet (rq : Req)
  /-- AUTH_KEY_LOAD (R414) -/
  | authKeyLoad (rq : Req)
  /-- TK_LOAD (R414) -/
  | tkLoad (rq : Req)
  /-- KEY_SLOTS_READ (R425) -/
  | keySlotsRead (rq : Req)
  /-- ID_READ (R416) -/
  | idRead (rq : Req)
  /-- ATTEST (R417) -/
  | attest (rq : Req)
  /-- STORE (R419) -/
  | store (rq : Req)
  /-- STORE_STATUS_READ (R425) -/
  | storeStatusRead (rq : Req)
  /-- PROFILE_RESTORE (R421) -/
  | profileRestore (rq : Req)
  /-- PROFILE_ERASE (R422) -/
  | profileErase (rq : Req)
  /-- FAULT_READ (R425) -/
  | faultRead (rq : Req)
  /-- FAULT_EXPORT (R424) -/
  | faultExport (rq : Req)
  /-- RETIRE_READ (R425) -/
  | retireRead (rq : Req)
  /-- GOLD_RESTORE (R434) -/
  | goldRestore (table : Nat) (index : Nat)
  /-- BUS_DECERR (R440) -/
  | busDecerr (master : Fin 8) (inCmd : Bool)
  /-- ARB_WDOG (R445) -/
  | arbWdog (requester : Nat) (inCmd : Bool)
  /-- EVC_READ (R451) -/
  | evcRead (rq : Req)
  /-- PM_READ (R448) -/
  | pmRead (rq : Req)
  /-- PM_SNAP (R448) -/
  | pmSnap (rq : Req)
  /-- WIN_CFG (R452) -/
  | winCfg (rq : Req)
  /-- WIN_READ (R455) -/
  | winRead (rq : Req)
  /-- EVT_MASK_WRITE (R454) -/
  | evtMaskWrite (rq : Req)
  /-- EVT_MASK_READ (R455) -/
  | evtMaskRead (rq : Req)
  /-- EVT_POP (R454) -/
  | evtPop (rq : Req)
  /-- INTEG_STATUS_READ (R455) -/
  | integStatusRead (rq : Req)
  /-- ARB_CFG (R442) -/
  | arbCfg (rq : Req)
  /-- DLOA (R319) -/
  | dloa (p : Nat) (lost : Bool)
  /-- RSTN_RELEASE (R406) -/
  | rstnRelease
  /-- PERST_N_ASSERT (R465) -/
  | perstNAssert
  /-- PERST_N_RELEASE (R465) -/
  | perstNRelease
  /-- CLOCK_LOCK (R48) -/
  | clockLock
  /-- ACQ_TIMEOUT (R48) -/
  | acqTimeout
  /-- HISTORY_VALID (R49) -/
  | historyValid
  /-- HOLDOVER_EXPIRED (R48) -/
  | holdoverExpired
  /-- LOST_LIST_EXPIRY (R57) -/
  | lostListExpiry
  /-- ROOT_CANDIDATE_TIMEOUT (R56) -/
  | rootCandidateTimeout
  /-- STATUS_READ (R88) -/
  | statusRead
  /-- COMMAND_TAKE (R95) -/
  | commandTake
  /-- FWD_TIMEOUT (R94) -/
  | fwdTimeout
  /-- MAP_SYNC_DONE (R115) -/
  | mapSyncDone
  /-- LSP_ORIGINATE (R203) -/
  | lspOriginate
  /-- LSP_AGEING (R203) -/
  | lspAgeing
  /-- ROUTE_RECOMPUTE (R205) -/
  | routeRecompute
  /-- ADDR_WAIT_END (R200) -/
  | addrWaitEnd
  /-- ADDR_CLAIMED (R200) -/
  | addrClaimed
  /-- BROADCAST_RECORD_EXPIRY (R196) -/
  | broadcastRecordExpiry
  /-- FLUX_DISPATCH (R325) -/
  | fluxDispatch
  /-- FRAG_AGE_EXPIRY (R332) -/
  | fragAgeExpiry
  /-- RULE_SYNC_DONE (R336) -/
  | ruleSyncDone
  /-- KEY_LOCK_GRANT (R367) -/
  | keyLockGrant
  /-- KEY_LOCK_WAIT_EXPIRY (R369) -/
  | keyLockWaitExpiry
  /-- KEY_LOCK_TIMEOUT (R369) -/
  | keyLockTimeout
  /-- ENT_FAIL (R370) -/
  | entFail
  /-- KE_FAIL (R370) -/
  | keFail
  /-- DEPTH_SETTLED (R397) -/
  | depthSettled
  /-- ROM_START_DONE (R406) -/
  | romStartDone
  /-- KINDLE_CALIBRATION_DONE (R235) -/
  | kindleCalibrationDone
  /-- RESTORE_DONE (R421) -/
  | restoreDone
  /-- IMAGE_INSTALL_DONE (R411) -/
  | imageInstallDone
  /-- SYS_RESTART_PULSE (R412) -/
  | sysRestartPulse
  /-- ATTEST_DONE (R417) -/
  | attestDone
  /-- STORE_DONE (R419) -/
  | storeDone
  /-- PROFILE_ERASE_DONE (R422) -/
  | profileEraseDone
  /-- POWER_UP (R463) -/
  | powerUp
  /-- ENTROPY_RESTART_PASS (R370) -/
  | entropyRestartPass
  /-- ROLLBACK_ADVANCE_DONE (R410) -/
  | rollbackAdvanceDone
  /-- DEBUG_PORT_ACCESS (R444) -/
  | debugPortAccess
  deriving DecidableEq, Repr

end Sys2Proof
end

