-- ==== Sys2Proof/Decode.lean ====
section
/-! DEFINITION. Commands from the bits of the opcode table. No row of spec/opcode_table.json gives bits: the block's commands are packets, register writes
and events, which are no words of a program. So no word spells a command. -/

namespace Sys2Proof

/-- The command that a word spells by the table's bits: none, since no row of the table has bits. -/
def decodeTableWord (_nbits _w : Nat) : Option Instr := none

end Sys2Proof
end

