-- ==== Sys2Proof/Config.lean ====
section
/-! DEFINITION. What an implementation fixes or the spec leaves open: constants without a body, of which nothing can be evaluated. -/

namespace Sys2Proof.Config

/-- FREE VALUE. The n-th value that the spec leaves open; `State.free` counts the draws (log entry 10). -/
opaque freeValue : Nat → Nat

/-- FREE VALUE. The first m bits of pseudo-random sequence c, bit 0 first (R143 numbers its bits from an origin it does not state; log entry 22). -/
opaque prbsOrigin : Nat → Nat

/-- FREE VALUE. Whether a reported value that is the quotient of its two arguments, and no whole number, is rounded up: the spec states no rounding (log entry 34). -/
opaque roundsUp : Nat → Nat → Bool

/-- FREE VALUE. Where PRBS-13 of the training frames of a lane starts (R312, log entry 98). -/
opaque trainSeed : Nat → Nat
/-- FREE VALUE. Whether a test pattern of a lane is sent inverted: 1 PRBS13Q, 2 PRBS31Q (R321; log entry 106). -/
opaque patternInverted : Nat → Bool
/-- FREE VALUE. Levels of a FlexO lane in a row, within the range of the SerDes, at rate class + 1 (R297; log entry 106). -/
opaque flexoLevels : Nat → Nat

/-- FREE VALUE. What the loop takes of a frequency difference in a stroke at LOOP_BW: the spec gives the bandwidth and no response (R47, log entry 82). -/
opaque loopPull : Nat → Nat → Nat

/-- FREE VALUE. What the stroke phase takes in a stroke of its distance from the STRK_IN edge: the spec gives no rate (R53, log entry 82). -/
opaque phasePull : Nat → Nat

/-- FREE VALUE. What the pulse filter of a DAC (engine × 4 + lane) makes of its response at a roll-off and a frequency of the grid: thousandths of a dB in the passband, an amplitude beyond it, before the bounds of R222 (log entry 100). -/
opaque shapeDev : Nat → Nat → Nat → Int

/-- FREE VALUE. Where PRBS-31 of the calibration waveform of an engine starts (R233, log entry 101). -/
opaque calSeed : Nat → Nat

/-- FREE VALUE. How far a lane of a receiver (engine × 4 + lane) settles beside its level in FAST gain control, 0.01 dB, before the bound of R246 (log entry 102). -/
opaque agcDev : Nat → Int → Int

/-- FREE VALUE. What a receiver tracks of a clock offset or a carrier beyond the range of R245 and R257 (log entry 102). -/
opaque trackBeyond : Nat → Int → Int

/-- FREE VALUE. The timing error, in hundredths of a step, that a cross-correlation of a slice with its neighbours stands for (R241, log entry 103). -/
opaque sliceTiming : Int → Int

/-- FREE VALUE. A tap that the least squares over the correlation part leave open (R259, log entry 104). -/
opaque tapOpen : Nat → Nat → Int

/-- FREE VALUE. The step of least mean squares of an engine (R259, log entry 104). -/
opaque lmsGain : Nat → Int

/-- FREE VALUE. What decisions add to the interpolated carrier phase of an engine at a body symbol (R257, log entry 104). -/
opaque phaseTrim : Nat → Nat → Int

/-- The shift value of a block row and block column of the base matrix, as 0 for −1 and s + 1 for s, before reduction: it stands in a companion file that is no part of the spec (R268, log entry 38). -/
opaque ldpcShift : Nat → Nat → Nat

/-- FREE VALUE. The device store key, under which STORE wraps the secrets (R366, R419, log entry 24). -/
opaque storeKey : BitVec 256

/-- The private exponent of the device's RSA identity key, a secret of manufacture (R413, R416, log entry 24). -/
opaque rsaPrivate : Nat

/-- The private half of the device's SLH-DSA identity key: bytes 0–15 SK.seed, 16–31 SK.prf (R416, log entry 24). -/
opaque slhPrivate : Nat → Byte

/-- Word i of the identity that manufacture fixes: words 2–2,166 of the ID_READ result (R416, log entry 24). -/
opaque identity : Nat → W32

/-- Word i of the SHA-384 of the boot ROM (R417, log entry 24). -/
opaque romHash : Nat → W32

end Sys2Proof.Config
end

