-- ==== Sys2Proof/Machine/Bits.lean ====
section
/-! DEFINITION. Bit fields, byte order and signed fields: how the spec's `[msb:lsb]` notation and "most significant byte first" are read. -/

namespace Sys2Proof.Machine

/-- Field `[hi:lo]` of a word (00_scope, Notation). -/
def fld (w : W32) (hi lo : Nat) : Nat := (w.toNat >>> lo) % 2 ^ (hi + 1 - lo)

/-- Bit `i` of a word. -/
def bit (w : W32) (i : Nat) : Bool := w.getLsbD i

def flag (b : Bool) : Nat := if b then 1 else 0

/-- A word put together from its fields, each given as (value, lowest bit). -/
def word (parts : List (Nat × Nat)) : W32 :=
  BitVec.ofNat 32 (parts.foldl (fun a p => a + p.1 <<< p.2) 0)

/-- Bit map with the bits of `l` set. -/
def bitsOf (l : List Nat) : Nat := l.foldl (fun a i => a ||| 1 <<< i) 0

/-- The bits of a map that are set, among bits 0 to n - 1. -/
def bitList (n v : Nat) : List Nat := (List.range n).filter (fun i => v.testBit i)

/-- Two's-complement reading of the low `n` bits of `v`. -/
def signed (n v : Nat) : Int :=
  let u := v % 2 ^ n
  if u < 2 ^ (n - 1) then (u : Int) else (u : Int) - 2 ^ n

/-- Two's-complement field of `n` bits that holds `i`. -/
def unsigned (n : Nat) (i : Int) : Nat := (i % (2 ^ n : Int)).toNat

/-- `i` held within `[lo, hi]`. -/
def clamp (lo hi i : Int) : Int := if i < lo then lo else if hi < i then hi else i

/-- Division rounding up. -/
def ceilDiv (a b : Nat) : Nat := (a + b - 1) / b

/-- The upper 16 and lower 32 bits of a stroke number. -/
def hi16 (v : W48) : Nat := v.toNat >>> 32
def lo32 (v : W48) : Nat := v.toNat % 2 ^ 32

/-- A stroke number from its upper 16 and lower 32 bits. -/
def w48 (hi lo : W32) : W48 := BitVec.ofNat 48 ((hi.toNat % 2 ^ 16) <<< 32 + lo.toNat)

/-- The four bytes of a word, most significant byte first. -/
def bytesOf (w : W32) : List Byte :=
  [BitVec.ofNat 8 (fld w 31 24), BitVec.ofNat 8 (fld w 23 16), BitVec.ofNat 8 (fld w 15 8), BitVec.ofNat 8 (fld w 7 0)]

def bytesOfWords (ws : List W32) : List Byte := ws.flatMap bytesOf

/-- The value of bytes read most significant byte first. -/
def natOfBytes (bs : List Byte) : Nat := bs.foldl (fun a b => a * 256 + b.toNat) 0

/-- `n` bytes of a value, most significant byte first. -/
def bytesOfNat : Nat → Nat → List Byte
  | 0, _ => []
  | n + 1, v => BitVec.ofNat 8 (v >>> (8 * n)) :: bytesOfNat n v

/-- Words of bytes sent most significant byte first; a last incomplete word is left out. -/
def wordsOfBytes : List Byte → List W32
  | a :: b :: c :: d :: r => BitVec.ofNat 32 (natOfBytes [a, b, c, d]) :: wordsOfBytes r
  | _ => []

/-- `n` words of a value, most significant word first. -/
def wordsOfNat : Nat → Nat → List W32
  | 0, _ => []
  | n + 1, v => BitVec.ofNat 32 (v >>> (32 * n)) :: wordsOfNat n v

/-- The value of words, most significant word first. -/
def natOfWords (ws : List W32) : Nat := ws.foldl (fun a w => a * 2 ^ 32 + w.toNat) 0

/-- Bits of a byte, most significant first (R105). -/
def bitsOfByte (b : Byte) : List Bool := (List.range 8).map (fun i => b.getLsbD (7 - i))

/-- Number of 1 bits of a byte. -/
def ones (b : Byte) : Nat := ((List.range 8).filter (fun i => b.getLsbD i)).length

/-- List with element `i` replaced. -/
def setAt {α : Type} : List α → Nat → α → List α
  | [], _, _ => []
  | _ :: r, 0, v => v :: r
  | a :: r, n + 1, v => a :: setAt r n v

/-- Value added with a limit (a saturating counter). -/
def satAdd (lim a b : Nat) : Nat := if a + b < lim then a + b else lim

end Sys2Proof.Machine
end

