-- ==== Sys2Proof/Machine/Aes.lean ====
section
/-! DEFINITION. AES-256 (FIPS 197), AES-CMAC (NIST SP 800-38B), the RFC 3394 key wrap and unwrap, GCM (NIST SP 800-38D) and CTR_DRBG (NIST SP 800-90A), which R70, R357, R366, R370, R414 and the container cipher name.
PRESUMED (log entry 21): the algorithms are those of the named standards, which the spec does not repeat. -/

namespace Sys2Proof.Machine

/-- Product by x in GF(2⁸) modulo x⁸ + x⁴ + x³ + x + 1. -/
def xtime (a : Nat) : Nat := if 128 ≤ a then ((a * 2) % 256) ^^^ 0x1B else a * 2

/-- Product in GF(2⁸), by the lowest `n` bits of `b`. -/
def gmulN : Nat → Nat → Nat → Nat
  | 0, _, _ => 0
  | n + 1, a, b => (if b % 2 = 1 then a else 0) ^^^ gmulN n (xtime a) (b / 2)

def gmul (a b : Nat) : Nat := gmulN 8 a b

/-- Inverse in GF(2⁸) as the 254th power; 0 for 0. -/
def ginv (a : Nat) : Nat :=
  let a2 := gmul a a
  let a3 := gmul a2 a
  let a6 := gmul a3 a3
  let a7 := gmul a6 a
  let a14 := gmul a7 a7
  let a15 := gmul a14 a
  let a30 := gmul a15 a15
  let a31 := gmul a30 a
  let a62 := gmul a31 a31
  let a63 := gmul a62 a
  let a126 := gmul a63 a63
  let a127 := gmul a126 a
  gmul a127 a127

def rotl8 (a n : Nat) : Nat := ((a <<< n) ||| (a >>> (8 - n))) % 256

/-- The S-box: inverse and affine map. -/
def sbox (a : Nat) : Nat :=
  let b := ginv a
  b ^^^ rotl8 b 1 ^^^ rotl8 b 2 ^^^ rotl8 b 3 ^^^ rotl8 b 4 ^^^ 0x63

/-- The inverse S-box. -/
def invSbox (a : Nat) : Nat := ginv (rotl8 a 1 ^^^ rotl8 a 3 ^^^ rotl8 a 6 ^^^ 0x05)

def subWord (w : List Nat) : List Nat := w.map sbox
def rotWord : List Nat → List Nat
  | a :: r => r ++ [a]
  | [] => []
def xorL (a b : List Nat) : List Nat := List.zipWith (· ^^^ ·) a b

/-- Key schedule: words `i`, `i + 1`, … from the eight words before them (newest first in `prev`). -/
def expandFrom : Nat → Nat → Nat → List (List Nat) → List (List Nat)
  | 0, _, _, prev => prev
  | n + 1, i, rc, prev =>
    let t := prev.headD []
    let u :=
      if i % 8 = 0 then xorL (subWord (rotWord t)) [rc, 0, 0, 0]
      else if i % 8 = 4 then subWord t
      else t
    expandFrom n (i + 1) (if i % 8 = 0 then xtime rc else rc) (xorL (prev.getD 7 []) u :: prev)

def chunk4 : List Nat → List (List Nat)
  | a :: b :: c :: d :: r => [a, b, c, d] :: chunk4 r
  | _ => []

/-- The 15 round keys of a 256-bit key, each as 16 bytes. -/
def roundKeys (key : List Nat) : List (List Nat) :=
  let ws := (expandFrom 52 8 1 (chunk4 key).reverse).reverse
  (List.range 15).map (fun r => ((ws.drop (4 * r)).take 4).flatten)

/-- Shift rows of a state held column by column. -/
def shiftRows (s : List Nat) : List Nat := (List.range 16).map (fun i => s.getD ((i + 4 * (i % 4)) % 16) 0)
def invShiftRows (s : List Nat) : List Nat := (List.range 16).map (fun i => s.getD ((i + 12 * (i % 4)) % 16) 0)

def mixCol (m : List Nat) : List Nat → List Nat
  | c =>
    (List.range 4).map (fun r =>
      ((List.range 4).map (fun k => gmul (m.getD ((k + 4 - r) % 4) 0) (c.getD k 0))).foldl (· ^^^ ·) 0)

def mixCols (m : List Nat) (s : List Nat) : List Nat := (chunk4 s).flatMap (mixCol m)

def aesRounds : List (List Nat) → List Nat → List Nat
  | [], s => s
  | [k], s => xorL (shiftRows (s.map sbox)) k
  | k :: r, s => aesRounds r (xorL (mixCols [2, 3, 1, 1] (shiftRows (s.map sbox))) k)

def natsOf (n v : Nat) : List Nat := (List.range n).map (fun i => (v >>> (8 * (n - 1 - i))) % 256)
def natOf (l : List Nat) : Nat := l.foldl (fun a b => a * 256 + b) 0

/-- The AES-256 cipher on one block. -/
def aesEnc (key : BitVec 256) (blk : Nat) : Nat :=
  match roundKeys (natsOf 32 key.toNat) with
  | [] => 0
  | k :: r => natOf (aesRounds r (xorL (natsOf 16 blk) k))

def aesInvRounds : List (List Nat) → List Nat → List Nat
  | [], s => s
  | [k], s => xorL ((invShiftRows s).map invSbox) k
  | k :: r, s => aesInvRounds r (mixCols [14, 11, 13, 9] (xorL ((invShiftRows s).map invSbox) k))

/-- The inverse AES-256 cipher on one block. -/
def aesDec (key : BitVec 256) (blk : Nat) : Nat :=
  match (roundKeys (natsOf 32 key.toNat)).reverse with
  | [] => 0
  | k :: r => natOf (aesInvRounds r (xorL (natsOf 16 blk) k))

/-- Doubling in GF(2¹²⁸) for the CMAC subkeys. -/
def cmacDbl (v : Nat) : Nat := if 2 ^ 127 ≤ v then ((v * 2) % 2 ^ 128) ^^^ 0x87 else v * 2

def chunk16 : Nat → List Byte → List (List Byte)
  | 0, _ => []
  | n + 1, l => if l.length ≤ 16 then [l] else l.take 16 :: chunk16 n (l.drop 16)

def cmacFold (key : BitVec 256) (k1 k2 : Nat) : Nat → List (List Byte) → Nat
  | x, [] => x
  | x, [l] =>
    if l.length = 16 then aesEnc key (x ^^^ natOfBytes l ^^^ k1)
    else aesEnc key (x ^^^ natOfBytes (l ++ 0x80#8 :: List.replicate (15 - l.length) 0#8) ^^^ k2)
  | x, l :: r => cmacFold key k1 k2 (aesEnc key (x ^^^ natOfBytes l)) r

/-- AES-CMAC under a 256-bit key (R70). -/
def cmac (key : BitVec 256) (bs : List Byte) : BitVec 128 :=
  let k1 := cmacDbl (aesEnc key 0)
  let k2 := cmacDbl k1
  BitVec.ofNat 128 (cmacFold key k1 k2 0 (chunk16 (bs.length + 1) bs))

/-- One step of the RFC 3394 unwrap: `a` and the registers `rs`, for counter `t` and register `i`. -/
def unwrapStep (key : BitVec 256) (a : Nat) (rs : List Nat) (t i : Nat) : Nat × List Nat :=
  let b := aesDec key (((a ^^^ t) <<< 64) + rs.getD i 0)
  (b >>> 64, setAt rs i (b % 2 ^ 64))

def unwrapLoop (key : BitVec 256) (n : Nat) : Nat → Nat × List Nat → Nat × List Nat
  | 0, st => st
  | t + 1, (a, rs) => unwrapLoop key n t (unwrapStep key a rs (t + 1) (t % n))

/-- RFC 3394 unwrap of a wrapped 256-bit key given as ten words; none if its integrity check fails. -/
def keyUnwrap (kek : BitVec 256) (ws : List W32) : Option (BitVec 256) :=
  let v := natOfWords ws
  let rs := (List.range 4).map (fun i => (v >>> (64 * (3 - i))) % 2 ^ 64)
  let (a, out) := unwrapLoop kek 4 24 (v >>> 256, rs)
  if a = 0xA6A6A6A6A6A6A6A6 then some (BitVec.ofNat 256 (out.foldl (fun x y => x * 2 ^ 64 + y) 0)) else none

/-- One step of the RFC 3394 wrap, for counter `t` + 1 and register `i`. -/
def wrapStep (key : BitVec 256) (t i : Nat) (st : Nat × List Nat) : Nat × List Nat :=
  let b := aesEnc key ((st.1 <<< 64) + st.2.getD i 0)
  ((b >>> 64) ^^^ (t + 1), setAt st.2 i (b % 2 ^ 64))

/-- The steps with counters 1 to the first argument. -/
def wrapLoop (key : BitVec 256) (n : Nat) : Nat → Nat × List Nat → Nat × List Nat
  | 0, st => st
  | t + 1, st => wrapStep key t (t % n) (wrapLoop key n t st)

/-- RFC 3394 wrap of a 256-bit key, as ten words (R366). -/
def keyWrap (kek key : BitVec 256) : List W32 :=
  let r := wrapLoop kek 4 24 (0xA6A6A6A6A6A6A6A6, (List.range 4).map fun i => (key.toNat >>> (64 * (3 - i))) % 2 ^ 64)
  wordsOfNat 10 (r.2.foldl (fun x y => x * 2 ^ 64 + y) r.1)

/-- Product in GF(2¹²⁸) of GHASH: `n` bits of `x` left, most significant first. -/
def ghashMulN : Nat → Nat → Nat → Nat → Nat
  | 0, _, _, z => z
  | n + 1, x, v, z =>
    ghashMulN n x (if v % 2 = 1 then (v / 2) ^^^ (0xE1 <<< 120) else v / 2) (if x.testBit n then z ^^^ v else z)

def ghashMul (x h : Nat) : Nat := ghashMulN 128 x h 0

def padBlock (l : List Byte) : Nat := natOfBytes (l ++ List.replicate (16 - l.length) 0#8)

def ghashBlocks (h : Nat) (y : Nat) (bs : List Byte) : Nat :=
  if bs.isEmpty then y
  else (chunk16 (bs.length + 1) bs).foldl (fun y l => ghashMul (y ^^^ padBlock l) h) y

/-- Counter mode from counter block `ctr` on. -/
def ctrBlocks (key : BitVec 256) : Nat → List (List Byte) → List Byte
  | _, [] => []
  | ctr, l :: r =>
    let ks := bytesOfNat 16 (aesEnc key ctr)
    List.zipWith (· ^^^ ·) l ks ++ ctrBlocks key ((ctr >>> 32 <<< 32) + (ctr % 2 ^ 32 + 1) % 2 ^ 32) r

/-- GCM counter-mode encryption or decryption with a 96-bit IV. -/
def gcmCrypt (key : BitVec 256) (iv : BitVec 96) (bs : List Byte) : List Byte :=
  if bs.isEmpty then [] else ctrBlocks key ((iv.toNat <<< 32) + 2) (chunk16 (bs.length + 1) bs)

/-- GCM tag of additional data `aad` and ciphertext `ct`. -/
def gcmTag (key : BitVec 256) (iv : BitVec 96) (aad ct : List Byte) : BitVec 128 :=
  let h := aesEnc key 0
  let y := ghashBlocks h (ghashBlocks h 0 aad) ct
  let z := ghashMul (y ^^^ (((8 * aad.length) <<< 64) + 8 * ct.length)) h
  BitVec.ofNat 128 (z ^^^ aesEnc key ((iv.toNat <<< 32) + 1))

/-! ### CTR_DRBG with AES-256 and a derivation function (R370) -/

/-- The first 384 bits of counter mode: blocks V + 1, V + 2 and V + 3. -/
def drbgBlocks (key : BitVec 256) (v : BitVec 128) : Nat :=
  (List.range 3).foldl (fun a i => a * 2 ^ 128 + aesEnc key ((v.toNat + i + 1) % 2 ^ 128)) 0

/-- CTR_DRBG_Update with 384 bits of provided data. -/
def drbgUpdate (seed : Nat) (key : BitVec 256) (v : BitVec 128) : BitVec 256 × BitVec 128 :=
  let t := drbgBlocks key v ^^^ seed
  (BitVec.ofNat 256 (t >>> 128), BitVec.ofNat 128 t)

/-- BCC: the CBC-MAC of a string of whole blocks. -/
def drbgBcc (key : BitVec 256) (bs : List Byte) : Nat := (chunk16 (bs.length + 1) bs).foldl (fun x l => aesEnc key (x ^^^ natOfBytes l)) 0

/-- The key of the derivation function: bytes 0x00 to 0x1F. -/
def dfKey : BitVec 256 := BitVec.ofNat 256 (natOf (List.range 32))

/-- Block_Cipher_df to 384 bits. -/
def drbgDf (input : List Byte) : Nat :=
  let s := bytesOfNat 4 input.length ++ bytesOfNat 4 48 ++ input ++ [0x80#8]
  let s := s ++ List.replicate ((16 - s.length % 16) % 16) 0#8
  let t := (List.range 3).foldl (fun a i => a * 2 ^ 128 + drbgBcc dfKey (bytesOfNat 4 i ++ List.replicate 12 0#8 ++ s)) 0
  let key := BitVec.ofNat 256 (t >>> 128)
  let x1 := aesEnc key (t % 2 ^ 128)
  let x2 := aesEnc key x1
  (x1 * 2 ^ 128 + x2) * 2 ^ 128 + aesEnc key x2

/-- CTR_DRBG_Generate of one block, without additional input: the state after it. -/
def drbgAfter (key : BitVec 256) (v : BitVec 128) : BitVec 256 × BitVec 128 := drbgUpdate 0 key (v + 1#128)

/-- The state after `n` requests. -/
def drbgRun : Nat → BitVec 256 × BitVec 128 → BitVec 256 × BitVec 128
  | 0, st => st
  | n + 1, st => drbgRun n (drbgAfter st.1 st.2)

/-- CTR_DRBG_Reseed with an entropy input; the first one instantiates, from Key and V of 0. -/
def drbgReseed (entropy : List Byte) (key : BitVec 256) (v : BitVec 128) : BitVec 256 × BitVec 128 := drbgUpdate (drbgDf entropy) key v

end Sys2Proof.Machine
end

