-- ==== Sys2Proof/Machine/Crc.lean ====
section
/-! DEFINITION. The CRCs of the spec: CRC-32C (R69) and the CRC-8 of overheads (R126). -/

namespace Sys2Proof.Machine

/-- One bit of the reflected CRC-32C register; 0x82F6_3B78 is the polynomial of R69 with its bits reversed. -/
def crcBit (c : Nat) : Nat := if c % 2 = 1 then (c / 2) ^^^ 0x82F63B78 else c / 2

def crcByte (c : Nat) (b : Byte) : Nat :=
  crcBit (crcBit (crcBit (crcBit (crcBit (crcBit (crcBit (crcBit (c ^^^ b.toNat))))))))

/-- CRC-32C of bytes (R69). -/
def crc32c (bs : List Byte) : W32 := BitVec.ofNat 32 ((bs.foldl crcByte 0xFFFFFFFF) ^^^ 0xFFFFFFFF)

/-- CRC-32C of words sent most significant byte first. -/
def crcWords (ws : List W32) : W32 := crc32c (bytesOfWords ws)

/-- One bit of the CRC-8 register, polynomial x⁸ + x² + x + 1 (R126). -/
def crc8Bit (c : Nat) : Nat := if 128 ≤ c then ((c * 2) % 256) ^^^ 0x07 else c * 2

def crc8Byte (c : Nat) (b : Byte) : Nat :=
  crc8Bit (crc8Bit (crc8Bit (crc8Bit (crc8Bit (crc8Bit (crc8Bit (crc8Bit (c ^^^ b.toNat))))))))

/-- CRC-8 with initial value 0, most significant bit first (R126, R133). -/
def crc8 (bs : List Byte) : Byte := BitVec.ofNat 8 (bs.foldl crc8Byte 0)

/-- Even bit-interleaved parity of bytes (R127, R184). -/
def bip8 (bs : List Byte) : Byte := bs.foldl (fun a b => a ^^^ b) 0#8

end Sys2Proof.Machine
end

