-- ==== Sys2Proof/Machine/Events.lean ====
section
/-! DEFINITION. The event classes and codes of R450 and which of them bear an interrupt (the Reported columns of the event tables). -/

namespace Sys2Proof.Machine

/-- An event: class and code (R450). -/
structure Ev where
  cls : Nat
  code : Nat
  deriving DecidableEq, Repr

/-- REF_FAIL -/
def evStkRefFail : Ev := ⟨0x01, 0x01⟩
/-- ACQ_TIMEOUT -/
def evStkAcqTimeout : Ev := ⟨0x01, 0x02⟩
/-- HOLDOVER_ENTRY -/
def evStkHoldoverEntry : Ev := ⟨0x01, 0x03⟩
/-- HOLDOVER_EXPIRED -/
def evStkHoldoverExpired : Ev := ⟨0x01, 0x04⟩
/-- ROOT_LOSS -/
def evStkRootLoss : Ev := ⟨0x01, 0x05⟩
/-- STROKE_STEP -/
def evStkStrokeStep : Ev := ⟨0x01, 0x06⟩
/-- FOREIGN_ROOT -/
def evStkForeignRoot : Ev := ⟨0x01, 0x07⟩
/-- COMMIT_DISCARD -/
def evStkCommitDiscard : Ev := ⟨0x01, 0x08⟩
/-- SA_ERR -/
def evStkSaErr : Ev := ⟨0x01, 0x09⟩
/-- CMDQ_REWIND -/
def evCmdCmdqRewind : Ev := ⟨0x02, 0x01⟩
/-- CMDQ_FLUSH_DISCARD -/
def evCmdCmdqFlushDiscard : Ev := ⟨0x02, 0x02⟩
/-- AUTH_FAIL -/
def evCmdAuthFail : Ev := ⟨0x02, 0x03⟩
/-- FWD_DROP -/
def evCmdFwdDrop : Ev := ⟨0x02, 0x04⟩
/-- FWD_LATE -/
def evCmdFwdLate : Ev := ⟨0x02, 0x05⟩
/-- FWD_TIMEOUT -/
def evCmdFwdTimeout : Ev := ⟨0x02, 0x06⟩
/-- RPL_DROP -/
def evCmdRplDrop : Ev := ⟨0x02, 0x07⟩
/-- SPI_BAD -/
def evCmdSpiBad : Ev := ⟨0x02, 0x08⟩
/-- MAP_SLAG -/
def evAnvMapSlag : Ev := ⟨0x03, 0x01⟩
/-- TEMPER_FIX -/
def evAnvTemperFix : Ev := ⟨0x03, 0x02⟩
/-- TEMPER_MISCOMPARE -/
def evAnvTemperMiscompare : Ev := ⟨0x03, 0x03⟩
/-- CONT_SLAG -/
def evConContSlag : Ev := ⟨0x04, 0x01⟩
/-- JC_ERR -/
def evConJcErr : Ev := ⟨0x04, 0x02⟩
/-- SLAG_RX -/
def evConSlagRx : Ev := ⟨0x04, 0x03⟩
/-- STREAM_LOSS -/
def evConStreamLoss : Ev := ⟨0x04, 0x04⟩
/-- FRAME_LOST -/
def evConFrameLost : Ev := ⟨0x04, 0x05⟩
/-- BIP_VIOL -/
def evConBipViol : Ev := ⟨0x04, 0x06⟩
/-- BEI_VIOL -/
def evConBeiViol : Ev := ⟨0x04, 0x07⟩
/-- dAIS -/
def evConDAis : Ev := ⟨0x04, 0x08⟩
/-- dLCK -/
def evConDLck : Ev := ⟨0x04, 0x09⟩
/-- dUNEQ -/
def evConDUneq : Ev := ⟨0x04, 0x0A⟩
/-- dCFA -/
def evConDCfa : Ev := ⟨0x04, 0x0B⟩
/-- dRSZ -/
def evConDRsz : Ev := ⟨0x04, 0x0C⟩
/-- dPTM -/
def evConDPtm : Ev := ⟨0x04, 0x0D⟩
/-- dCMM -/
def evConDCmm : Ev := ⟨0x04, 0x0E⟩
/-- dCSF -/
def evConDCsf : Ev := ⟨0x04, 0x0F⟩
/-- dBDI -/
def evConDBdi : Ev := ⟨0x04, 0x10⟩
/-- dDEG -/
def evConDDeg : Ev := ⟨0x04, 0x11⟩
/-- dSECMM -/
def evConDSecmm : Ev := ⟨0x04, 0x12⟩
/-- PS_SWITCH -/
def evPgPsSwitch : Ev := ⟨0x05, 0x01⟩
/-- PS_CMD_REJECT -/
def evPgPsCmdReject : Ev := ⟨0x05, 0x02⟩
/-- APS_INVALID -/
def evPgApsInvalid : Ev := ⟨0x05, 0x03⟩
/-- BOTH_BAD -/
def evPgBothBad : Ev := ⟨0x05, 0x04⟩
/-- BOTH_FAILED -/
def evPgBothFailed : Ev := ⟨0x05, 0x05⟩
/-- MISMATCH -/
def evPgMismatch : Ev := ⟨0x05, 0x06⟩
/-- ALN_OVERRUN -/
def evPgAlnOverrun : Ev := ⟨0x05, 0x07⟩
/-- PLAY_STEP -/
def evPgPlayStep : Ev := ⟨0x05, 0x08⟩
/-- ROWS_W -/
def evPgRowsW : Ev := ⟨0x05, 0x09⟩
/-- ROWS_P -/
def evPgRowsP : Ev := ⟨0x05, 0x0A⟩
/-- dFOP-PM -/
def evPgDFopPm : Ev := ⟨0x05, 0x0B⟩
/-- dFOP-NR -/
def evPgDFopNr : Ev := ⟨0x05, 0x0C⟩
/-- dLATE -/
def evPgDLate : Ev := ⟨0x05, 0x0D⟩
/-- dDIFF -/
def evPgDDiff : Ev := ⟨0x05, 0x0E⟩
/-- BIP_VIOL -/
def evMonBipViol : Ev := ⟨0x06, 0x01⟩
/-- BEI_VIOL -/
def evMonBeiViol : Ev := ⟨0x06, 0x02⟩
/-- dFLOS -/
def evFabDFlos : Ev := ⟨0x07, 0x01⟩
/-- dSBDI -/
def evFabDSbdi : Ev := ⟨0x07, 0x02⟩
/-- dSDEG -/
def evFabDSdeg : Ev := ⟨0x07, 0x03⟩
/-- dNBR_MM -/
def evFabDNbrMm : Ev := ⟨0x07, 0x04⟩
/-- ALIGN_SLIP -/
def evFabAlignSlip : Ev := ⟨0x07, 0x05⟩
/-- RENUMBER -/
def evFabRenumber : Ev := ⟨0x07, 0x06⟩
/-- SLAG_OVF_RX -/
def evFabSlagOvfRx : Ev := ⟨0x07, 0x07⟩
/-- SBIP_VIOL -/
def evFabSbipViol : Ev := ⟨0x07, 0x08⟩
/-- SBEI_VIOL -/
def evFabSbeiViol : Ev := ⟨0x07, 0x09⟩
/-- CC_ERR -/
def evFabCcErr : Ev := ⟨0x07, 0x0A⟩
/-- CTL_DROP -/
def evFabCtlDrop : Ev := ⟨0x07, 0x0B⟩
/-- HOP_EXPIRED -/
def evFabHopExpired : Ev := ⟨0x07, 0x0C⟩
/-- BC_DUP -/
def evFabBcDup : Ev := ⟨0x07, 0x0D⟩
/-- HELLO_LOSS -/
def evFabHelloLoss : Ev := ⟨0x07, 0x0E⟩
/-- TX_STUFF -/
def evFabTxStuff : Ev := ⟨0x07, 0x0F⟩
/-- FAB_FEC_CORR -/
def evFabFabFecCorr : Ev := ⟨0x07, 0x10⟩
/-- FAB_FEC_UNCORR -/
def evFabFabFecUncorr : Ev := ⟨0x07, 0x11⟩
/-- ADDR_CONFLICT -/
def evFdevAddrConflict : Ev := ⟨0x08, 0x01⟩
/-- LSDB_FULL -/
def evFdevLsdbFull : Ev := ⟨0x08, 0x02⟩
/-- TX_CLIP -/
def evLinTxClip : Ev := ⟨0x09, 0x01⟩
/-- CAL_LIMIT -/
def evLinCalLimit : Ev := ⟨0x09, 0x02⟩
/-- CAL_REF_HOLD -/
def evLinCalRefHold : Ev := ⟨0x09, 0x03⟩
/-- TX_RATE_LIMIT -/
def evLinTxRateLimit : Ev := ⟨0x09, 0x04⟩
/-- TX_RAMP_DONE -/
def evLinTxRampDone : Ev := ⟨0x09, 0x05⟩
/-- dRXLOS -/
def evLinDRxlos : Ev := ⟨0x09, 0x06⟩
/-- dLOSF -/
def evLinDLosf : Ev := ⟨0x09, 0x07⟩
/-- DESC_MM -/
def evLinDescMm : Ev := ⟨0x09, 0x08⟩
/-- FALSE_ACQ -/
def evLinFalseAcq : Ev := ⟨0x09, 0x09⟩
/-- PREEMPT -/
def evLinPreempt : Ev := ⟨0x09, 0x0A⟩
/-- AFC_RANGE -/
def evLinAfcRange : Ev := ⟨0x09, 0x0B⟩
/-- HUNT_TIMEOUT -/
def evLinHuntTimeout : Ev := ⟨0x09, 0x0C⟩
/-- HDR_MISS -/
def evLinHdrMiss : Ev := ⟨0x09, 0x0D⟩
/-- MIMO_SINGULAR -/
def evLinMimoSingular : Ev := ⟨0x09, 0x0E⟩
/-- CYCLE_SLIP -/
def evLinCycleSlip : Ev := ⟨0x09, 0x0F⟩
/-- CD_TRACK_LIMIT -/
def evLinCdTrackLimit : Ev := ⟨0x09, 0x10⟩
/-- JOINT_FALLBACK -/
def evLinJointFallback : Ev := ⟨0x09, 0x11⟩
/-- DM_ERR -/
def evLinDmErr : Ev := ⟨0x09, 0x12⟩
/-- RX_CAL_LIMIT -/
def evLinRxCalLimit : Ev := ⟨0x09, 0x13⟩
/-- RX_CAL_REF_HOLD -/
def evLinRxCalRefHold : Ev := ⟨0x09, 0x14⟩
/-- RX_RATE_LIMIT -/
def evLinRxRateLimit : Ev := ⟨0x09, 0x15⟩
/-- RX_RESTART -/
def evLinRxRestart : Ev := ⟨0x09, 0x16⟩
/-- FEC_CW -/
def evLinFecCw : Ev := ⟨0x09, 0x17⟩
/-- FEC_CORR_BITS -/
def evLinFecCorrBits : Ev := ⟨0x09, 0x18⟩
/-- FEC_UNCORR -/
def evLinFecUncorr : Ev := ⟨0x09, 0x19⟩
/-- dFEC_SD -/
def evLinDFecSd : Ev := ⟨0x09, 0x1A⟩
/-- LINE_SLIP -/
def evLinLineSlip : Ev := ⟨0x09, 0x40⟩
/-- C_ERR -/
def evLinCErr : Ev := ⟨0x09, 0x41⟩
/-- RB_HEC_ERR -/
def evLinRbHecErr : Ev := ⟨0x09, 0x42⟩
/-- SM_BIP_VIOL -/
def evLinSmBipViol : Ev := ⟨0x09, 0x43⟩
/-- SM_BEI_VIOL -/
def evLinSmBeiViol : Ev := ⟨0x09, 0x44⟩
/-- PM_BIP_VIOL -/
def evLinPmBipViol : Ev := ⟨0x09, 0x45⟩
/-- PM_BEI_VIOL -/
def evLinPmBeiViol : Ev := ⟨0x09, 0x46⟩
/-- dCWL -/
def evLinDCwl : Ev := ⟨0x09, 0x47⟩
/-- dLOF -/
def evLinDLof : Ev := ⟨0x09, 0x48⟩
/-- dLOM -/
def evLinDLom : Ev := ⟨0x09, 0x49⟩
/-- dRBL -/
def evLinDRbl : Ev := ⟨0x09, 0x4A⟩
/-- dTIM-SM -/
def evLinDTimSm : Ev := ⟨0x09, 0x4B⟩
/-- dTIM-PM -/
def evLinDTimPm : Ev := ⟨0x09, 0x4C⟩
/-- dBDI-SM -/
def evLinDBdiSm : Ev := ⟨0x09, 0x4D⟩
/-- dBDI-PM -/
def evLinDBdiPm : Ev := ⟨0x09, 0x4E⟩
/-- dIAE -/
def evLinDIae : Ev := ⟨0x09, 0x4F⟩
/-- dBIAE -/
def evLinDBiae : Ev := ⟨0x09, 0x50⟩
/-- dAIS -/
def evLinDAis : Ev := ⟨0x09, 0x51⟩
/-- dOCI -/
def evLinDOci : Ev := ⟨0x09, 0x52⟩
/-- dLCK -/
def evLinDLck : Ev := ⟨0x09, 0x53⟩
/-- dPLM -/
def evLinDPlm : Ev := ⟨0x09, 0x54⟩
/-- dDEG-SM -/
def evLinDDegSm : Ev := ⟨0x09, 0x55⟩
/-- dDEG-PM -/
def evLinDDegPm : Ev := ⟨0x09, 0x56⟩
/-- dLOA -/
def evCliDLoa : Ev := ⟨0x0B, 0x01⟩
/-- dHI_SER -/
def evCliDHiSer : Ev := ⟨0x0B, 0x02⟩
/-- GRM_RX_BAD -/
def evCliGrmRxBad : Ev := ⟨0x0B, 0x03⟩
/-- GRM_IN_DROP -/
def evCliGrmInDrop : Ev := ⟨0x0B, 0x04⟩
/-- CLS_MISS -/
def evCliClsMiss : Ev := ⟨0x0B, 0x05⟩
/-- CLS_DEPTH -/
def evCliClsDepth : Ev := ⟨0x0B, 0x06⟩
/-- CLS_MAL -/
def evCliClsMal : Ev := ⟨0x0B, 0x07⟩
/-- CLS_FRAG_MISS -/
def evCliClsFragMiss : Ev := ⟨0x0B, 0x08⟩
/-- FLX_BUDGET -/
def evCliFlxBudget : Ev := ⟨0x0B, 0x09⟩
/-- RULE_DROP -/
def evCliRuleDrop : Ev := ⟨0x0B, 0x0A⟩
/-- SLOT_OFF_DROP -/
def evCliSlotOffDrop : Ev := ⟨0x0B, 0x0B⟩
/-- GRM_FEED_MM -/
def evCliGrmFeedMm : Ev := ⟨0x0B, 0x0C⟩
/-- GRM_UNPACK_BAD -/
def evCliGrmUnpackBad : Ev := ⟨0x0B, 0x0D⟩
/-- GRM_TX_DROP -/
def evCliGrmTxDrop : Ev := ⟨0x0B, 0x0E⟩
/-- RX_FRAMES -/
def evCliRxFrames : Ev := ⟨0x0B, 0x0F⟩
/-- RX_BYTES -/
def evCliRxBytes : Ev := ⟨0x0B, 0x10⟩
/-- TX_FRAMES -/
def evCliTxFrames : Ev := ⟨0x0B, 0x11⟩
/-- TX_BYTES -/
def evCliTxBytes : Ev := ⟨0x0B, 0x12⟩
/-- dLLOS -/
def evLaneDLlos : Ev := ⟨0x0C, 0x01⟩
/-- LANE_RETIRED -/
def evLaneLaneRetired : Ev := ⟨0x0C, 0x02⟩
/-- LANE_EXT_FAIL -/
def evLaneLaneExtFail : Ev := ⟨0x0C, 0x03⟩
/-- SLOT_DROP -/
def evSlotSlotDrop : Ev := ⟨0x0D, 0x01⟩
/-- SLOT_DISCARD -/
def evSlotSlotDiscard : Ev := ⟨0x0D, 0x02⟩
/-- PACKETS -/
def evSlotPackets : Ev := ⟨0x0D, 0x03⟩
/-- PACKET_BYTES -/
def evSlotPacketBytes : Ev := ⟨0x0D, 0x04⟩
/-- GRM_FLUSH_DISCARD -/
def evGrqGrmFlushDiscard : Ev := ⟨0x0E, 0x01⟩
/-- GRM_LEVEL -/
def evGrqGrmLevel : Ev := ⟨0x0E, 0x02⟩
/-- FRAG_FULL -/
def evGrdFragFull : Ev := ⟨0x0F, 0x01⟩
/-- dSECLCK -/
def evSecDSeclck : Ev := ⟨0x10, 0x01⟩
/-- dSECMM -/
def evSecDSecmm : Ev := ⟨0x10, 0x02⟩
/-- SEC_FAIL -/
def evSecSecFail : Ev := ⟨0x10, 0x03⟩
/-- SEC_KEY_LOSS -/
def evSecSecKeyLoss : Ev := ⟨0x10, 0x04⟩
/-- SEC_FAIL_FE -/
def evSecSecFailFe : Ev := ⟨0x10, 0x05⟩
/-- SEC_UNCHECKED -/
def evSecSecUnchecked : Ev := ⟨0x10, 0x06⟩
/-- SEC_IV_HOLD -/
def evSecSecIvHold : Ev := ⟨0x10, 0x07⟩
/-- SEC_UNITS -/
def evSecSecUnits : Ev := ⟨0x10, 0x08⟩
/-- KEY_LOCK_TIMEOUT -/
def evKeKeyLockTimeout : Ev := ⟨0x11, 0x01⟩
/-- ENT_FAIL -/
def evKeEntFail : Ev := ⟨0x11, 0x02⟩
/-- HK_OVERRUN -/
def evOptHkOverrun : Ev := ⟨0x12, 0x01⟩
/-- dOPEN -/
def evOptDOpen : Ev := ⟨0x12, 0x02⟩
/-- HK_OVRNG -/
def evOptHkOvrng : Ev := ⟨0x12, 0x03⟩
/-- dHTR_OPEN -/
def evOptDHtrOpen : Ev := ⟨0x12, 0x04⟩
/-- BL_LIMIT -/
def evOptBlLimit : Ev := ⟨0x12, 0x05⟩
/-- BL_NODATA -/
def evOptBlNodata : Ev := ⟨0x12, 0x06⟩
/-- VREF_OOR -/
def evOptVrefOor : Ev := ⟨0x12, 0x07⟩
/-- I2C_FAIL -/
def evOptI2cFail : Ev := ⟨0x12, 0x08⟩
/-- THERM_TRIP -/
def evModThermTrip : Ev := ⟨0x13, 0x01⟩
/-- RAIL_FAULT -/
def evModRailFault : Ev := ⟨0x13, 0x02⟩
/-- PLL_UNLOCK -/
def evModPllUnlock : Ev := ⟨0x13, 0x03⟩
/-- CORE_LOSS -/
def evModCoreLoss : Ev := ⟨0x13, 0x04⟩
/-- KE_FAIL -/
def evModKeFail : Ev := ⟨0x13, 0x05⟩
/-- THERM_WARN -/
def evModThermWarn : Ev := ⟨0x13, 0x06⟩
/-- AUTO_TEMPER_BLOCKED -/
def evModAutoTemperBlocked : Ev := ⟨0x13, 0x07⟩
/-- PROFILE_BAD -/
def evModProfileBad : Ev := ⟨0x13, 0x08⟩
/-- PROFILE_MODE_FALLBACK -/
def evModProfileModeFallback : Ev := ⟨0x13, 0x09⟩
/-- CHK_CORR -/
def evIntChkCorr : Ev := ⟨0x14, 0x01⟩
/-- SW_CE -/
def evIntSwCe : Ev := ⟨0x14, 0x02⟩
/-- SW_UE -/
def evIntSwUe : Ev := ⟨0x14, 0x03⟩
/-- SCRUB_CE -/
def evIntScrubCe : Ev := ⟨0x14, 0x04⟩
/-- SCRUB_UE -/
def evIntScrubUe : Ev := ⟨0x14, 0x05⟩
/-- SCRUB_SHORT -/
def evIntScrubShort : Ev := ⟨0x14, 0x06⟩
/-- GOLD_RESTORE -/
def evIntGoldRestore : Ev := ⟨0x14, 0x07⟩
/-- GOLD_FAIL -/
def evIntGoldFail : Ev := ⟨0x14, 0x08⟩
/-- TABLE_SLAG -/
def evIntTableSlag : Ev := ⟨0x14, 0x09⟩
/-- HBM_ECC_CE -/
def evIntHbmEccCe : Ev := ⟨0x14, 0x0A⟩
/-- HBM_UE -/
def evIntHbmUe : Ev := ⟨0x14, 0x0B⟩
/-- HBM_CRC -/
def evIntHbmCrc : Ev := ⟨0x14, 0x0C⟩
/-- HBM_UNWRITTEN -/
def evIntHbmUnwritten : Ev := ⟨0x14, 0x0D⟩
/-- BUS_DECERR -/
def evIntBusDecerr : Ev := ⟨0x14, 0x0E⟩
/-- ARB_WDOG -/
def evIntArbWdog : Ev := ⟨0x14, 0x0F⟩
/-- DBG_ACCESS -/
def evIntDbgAccess : Ev := ⟨0x14, 0x10⟩
/-- EVT_LOG_OVF -/
def evIntEvtLogOvf : Ev := ⟨0x14, 0x11⟩

/-- The same event of a FlexO instance (class 0x0A, R450). -/
def Ev.flexo (e : Ev) : Ev := ⟨0x0A, e.code⟩

/-- Codes of a class: how many from 0x01, and how many from 0x40 (R450). -/
def codesOf : Nat → Nat × Nat
  | 0x01 => (9, 0)
  | 0x02 => (8, 0)
  | 0x03 => (3, 0)
  | 0x04 => (18, 0)
  | 0x05 => (14, 0)
  | 0x06 => (2, 0)
  | 0x07 => (17, 0)
  | 0x08 => (2, 0)
  | 0x09 => (26, 23)
  | 0x0A => (0, 23)
  | 0x0B => (18, 0)
  | 0x0C => (3, 0)
  | 0x0D => (4, 0)
  | 0x0E => (2, 0)
  | 0x0F => (1, 0)
  | 0x10 => (8, 0)
  | 0x11 => (2, 0)
  | 0x12 => (8, 0)
  | 0x13 => (9, 0)
  | 0x14 => (17, 0)
  | _ => (0, 0)

/-- The class and code stand in the table of R450. -/
def evAssigned (cls code : Nat) : Bool :=
  (1 ≤ code && code ≤ (codesOf cls).1) || (0x40 ≤ code && code < 0x40 + (codesOf cls).2)

/-- Codes whose table names an interrupt, GRM_LEVEL and DESC_MM among them (R454, R455). -/
def intrCodes : Nat → List Nat
  | 0x01 => [0x01, 0x02, 0x03, 0x04, 0x05, 0x06, 0x07]
  | 0x04 => [0x08, 0x09, 0x0A, 0x0B, 0x0C, 0x0D, 0x0E, 0x0F, 0x10, 0x11, 0x12]
  | 0x05 => [0x08, 0x0B, 0x0C, 0x0D, 0x0E]
  | 0x07 => [0x01, 0x02, 0x03, 0x04, 0x05, 0x0E]
  | 0x08 => [0x01, 0x02]
  | 0x09 => [0x02, 0x03, 0x04, 0x05, 0x06, 0x07, 0x08, 0x0E, 0x10, 0x11, 0x13, 0x14, 0x15, 0x1A, 0x47, 0x48, 0x49, 0x4A, 0x4B, 0x4C, 0x4D, 0x4E, 0x4F, 0x50, 0x51, 0x52, 0x53, 0x54, 0x55, 0x56]
  | 0x0A => [0x47, 0x48, 0x49, 0x4A, 0x4B, 0x4C, 0x4D, 0x4E, 0x4F, 0x50, 0x51, 0x52, 0x53, 0x54, 0x55, 0x56]
  | 0x0B => [0x01, 0x02]
  | 0x0C => [0x01, 0x02, 0x03]
  | 0x0E => [0x02]
  | 0x0F => [0x01]
  | 0x10 => [0x01, 0x02, 0x04, 0x07]
  | 0x11 => [0x01, 0x02]
  | 0x12 => [0x01, 0x02, 0x04, 0x05, 0x07]
  | 0x13 => [0x01, 0x02, 0x03, 0x04, 0x05, 0x06]
  | 0x14 => [0x03, 0x05, 0x08, 0x0B, 0x0C, 0x0E, 0x0F]
  | _ => []

def evIntr (cls code : Nat) : Bool := (intrCodes cls).contains code

/-- EVENT_ID of an instance (R450). -/
def evId (e : Ev) (inst : Nat) : Nat := e.cls * 2 ^ 24 + (inst % 2 ^ 16) * 2 ^ 8 + e.code

end Sys2Proof.Machine
end

