-- ==== Sys2Proof/Machine/Table.lean ====
section
/-! DEFINITION. Sparse tables: (index, value) pairs with strictly rising indices and no entry equal to what an unlisted index reads as. -/

namespace Sys2Proof.Machine

/-- Entry `k` of a table whose unlisted entries read `d`. -/
def tget {α : Type} (d : α) (t : List (Nat × α)) (k : Nat) : α :=
  match t with
  | [] => d
  | (j, v) :: r => if j = k then v else tget d r k

/-- An entry put before the first one with a higher index. -/
def tput {α : Type} (t : List (Nat × α)) (k : Nat) (v : α) : List (Nat × α) :=
  match t with
  | [] => [(k, v)]
  | (j, w) :: r => if j < k then (j, w) :: tput r k v else (k, v) :: (j, w) :: r

/-- The table with entry `k` set to `v`; an entry equal to `d` is not listed. -/
def tset {α : Type} [DecidableEq α] (d : α) (t : List (Nat × α)) (k : Nat) (v : α) : List (Nat × α) :=
  let r := t.filter fun x => x.1 ≠ k
  if v = d then r else tput r k v

/-- The table with entry `k` changed by `f`. -/
def tmod {α : Type} [DecidableEq α] (d : α) (t : List (Nat × α)) (k : Nat) (f : α → α) : List (Nat × α) :=
  tset d t k (f (tget d t k))

/-- Every index of `t` is at least `lo` and they rise strictly, and no entry equals `d`. -/
def tsorted {α : Type} [DecidableEq α] (d : α) : Nat → List (Nat × α) → Bool
  | _, [] => true
  | lo, (j, v) :: r => decide (lo ≤ j) && decide (v ≠ d) && tsorted d (j + 1) r

/-- The canonical form of a table. -/
abbrev twf {α : Type} [DecidableEq α] (d : α) (t : List (Nat × α)) : Bool := tsorted d 0 t

/-- Entries `k`, `k + 1`, … set to the values of a list. -/
def tsetMany {α : Type} [DecidableEq α] (d : α) (t : List (Nat × α)) (k : Nat) (vs : List α) : List (Nat × α) :=
  match vs with
  | [] => t
  | v :: r => tsetMany d (tset d t k v) (k + 1) r

/-- `n` entries from `k` on. -/
def tgetMany {α : Type} (d : α) (t : List (Nat × α)) (k n : Nat) : List α :=
  (List.range n).map (fun i => tget d t (k + i))

/-- Members of a set held as a list: with `k` in it, and without it. -/
def ins (l : List Nat) (k : Nat) : List Nat := if k ∈ l then l else k :: l
def del {α : Type} [DecidableEq α] (l : List α) (k : α) : List α := l.filter (fun x => x ≠ k)
def setIf (b : Bool) (l : List Nat) (k : Nat) : List Nat := if b then ins l k else del l k

end Sys2Proof.Machine
end

