-- ==== Sys2Proof/Machine/State.lean ====
section
/-! DEFINITION. The state of the block, as plain data: every register, table, queue, counter and mode the spec gives it. -/

namespace Sys2Proof.Machine

/-- States of the stroke unit (R48). -/
inductive ClkState where
  | freeRun | acquiring | locked | holdover | lost
  deriving DecidableEq, Repr, Inhabited

/-- Shadow state of the connection map (R115). -/
inductive ShadowState where
  | synced | modified | stale
  deriving DecidableEq, Repr, Inhabited

/-- States of a fabric port (R187). -/
inductive PortState where
  | down | train | hunt | sync | up
  deriving DecidableEq, Repr, Inhabited

/-- Adjacency of a fabric port (R198). -/
inductive Adj where
  | none | oneWay | twoWay
  deriving DecidableEq, Repr, Inhabited

/-- ADDR_STATE of the fabric (R200). -/
inductive AddrState where
  | none | tentative | claimed | commanded
  deriving DecidableEq, Repr, Inhabited

/-- What the transmit side of a client port puts out (R23, R27): electrical idle; its client signal; in the row after which it goes off, the error control block that ends
an Ethernet frame, or the FlexO frame whose codeword is marked uncorrectable. -/
inductive ClientTx where
  | idle | sending | errorBlock | uncorrectable
  deriving DecidableEq, Repr, Inhabited

/-- States of a line transmitter (R225). -/
inductive TxState where
  | dark | laserWait | rampUp | on | rampDown
  deriving DecidableEq, Repr, Inhabited

/-- States of a line receiver (R246). -/
inductive RxState where
  | off | nosig | scan | hunt | verify | locked
  deriving DecidableEq, Repr, Inhabited

/-- Gain control of a line receiver (R246). -/
inductive Agc where
  | fast | frozen | slow
  deriving DecidableEq, Repr, Inhabited

/-- State of the PENDING generation (R336). -/
inductive GenState where
  | synced | modified | stale | draining
  deriving DecidableEq, Repr, Inhabited

/-- States of a security context (R354). -/
inductive CtxState where
  | off | keyLoss | locked | noKey | ivHold | run
  deriving DecidableEq, Repr, Inhabited

/-- Modes (R394). -/
inductive Mode where
  | quench | kindle | forge | draw | temper | anneal
  deriving DecidableEq, Repr, Inhabited

/-- Boot stages (R406). -/
inductive BootStage where
  | romStart | loading | waitHost | fwStart | calibrating | restoring | ready
  deriving DecidableEq, Repr, Inhabited

/-- The two bytes of a billet in one row, each with its slag mark (R105). -/
structure Cell where
  b0 : Byte := 0#8
  b1 : Byte := 0#8
  s0 : Bool := false
  s1 : Bool := false
  deriving DecidableEq, Repr, Inhabited

/-- Fill values (R107); `slag` is UNEQUIPPED with both slag marks. -/
inductive Fill where
  | unequipped | ais | lock | slag
  deriving DecidableEq, Repr, Inhabited

/-- A write that waits for a row 0: with a commit stroke it is an entry of the pending-commit table (R33), without one it
takes effect at the next row 0 (R12). -/
structure Commit where
  stroke : Option W48 := none
  opcode : Nat := 0
  tag : W16 := 0#16
  params : List W32 := []
  deriving DecidableEq, Repr, Inhabited

/-- A command whose reply waits for the end of its operation; `key` is the key its CMAC verified under (R72). -/
structure Deferred where
  opcode : Nat := 0
  req : Req := {}
  key : Option (BitVec 256) := none
  deriving DecidableEq, Repr, Inhabited

/-- A forwarding record (R92): queue, TAG, TARGET, and what the TIMEOUT reply of R94 echoes. -/
structure FwdRec where
  queue : Fin 6 := 0
  tag : W16 := 0#16
  target : W12 := 0#12
  /-- SOURCE of the command as it arrived -/
  src : W12 := 0#12
  opcode : W16 := 0#16
  /-- this device's address when it was made (R201) -/
  own : W12 := 0#12
  /-- strokes run when it was made -/
  since : Nat := 0
  deriving DecidableEq, Repr, Inhabited

/-- A symbol of a line engine: XI, XQ, YI, YQ in units of the smallest amplitude, or, for header and pilots, in units of A (R217, R219). -/
structure LineSym where
  ref : Bool := false
  v : List Int := []
  deriving DecidableEq, Repr, Inhabited

/-- An event-log entry (R454). -/
structure LogEntry where
  id : Nat := 0
  clear : Bool := false
  ovf : Bool := false
  occur : Nat := 1
  scnt : W48 := 0#48
  deriving DecidableEq, Repr, Inhabited

/-- A windowed counter (R452): its configuration, the counter's value when the window in progress began, and the last result. -/
structure WinSt where
  enable : Bool := false
  window : Nat := 50
  id : Nat := 0
  base : Option W48 := none
  valid : Bool := false
  count : W48 := 0#48
  endAt : W48 := 0#48
  deriving DecidableEq, Repr, Inhabited

/-- An injection of KIND 1 in progress (R146): ingress position and rows left. -/
structure Injection where
  pos : Nat := 0
  left : Nat := 0
  deriving DecidableEq, Repr, Inhabited

/-- A container entry (R122): words 0-3 and its run words. -/
structure ContEntry where
  w0 : W32 := 0#32
  w1 : W32 := 0#32
  w2 : W32 := 0x1D4C7001#32
  w3 : W32 := 0#32
  runs : List W32 := []
  deriving DecidableEq, Repr, Inhabited

/-- A self-synchronising checker (R144): state of the shift register, last 64 outcomes, counts. -/
structure Checker where
  sync : Bool := false
  /-- the last m bits received, newest in bit 0 -/
  hist : Nat := 0
  /-- bits received since the start, up to m -/
  seen : Nat := 0
  /-- errors among the last 64 bits checked, newest in bit 0 -/
  errs : W64 := 0#64
  run : Nat := 0
  bits : W48 := 0#48
  err : W48 := 0#48
  slag : W32 := 0#32
  deriving DecidableEq, Repr, Inhabited

/-- Configuration of a billet analyser (R149). -/
structure BaCfg where
  w1 : W32 := 0#32
  w2 : W32 := 0#32
  deriving DecidableEq, Repr, Inhabited

/-- Container path defects (R141) with dSECMM (R365). -/
inductive Defect where
  | cfa | ais | lck | uneq | cmm | ptm | bdi | deg | rsz | csf | secmm
  deriving DecidableEq, Repr, Inhabited

/-- A stroke announcement as received: its eight words and its arrival time t_in in 10 ps units, from the start of this device's stroke
with the announcement's SCNT (R55, R62). -/
structure AnnRx where
  ws : List W32 := []
  tIn : Int := 0
  deriving DecidableEq, Repr, Inhabited

/-- A row that a sink has read: its row index, the stroke count in it, and the bytes of its billets in frame order (R125, R129). -/
structure SinkRow where
  row : Nat := 0
  scnt : W48 := 0#48
  bytes : List SByte := []
  deriving DecidableEq, Repr, Inhabited

/-- A container frame whose rows a sink takes and releases (R125, R132, R361). -/
structure BodyRx where
  n : Nat := 0
  /-- overhead bytes H: 24 or 48 -/
  h : Nat := 24
  cm : Nat := 0
  /-- a wrong JCRC: every Ethernet frame that overlaps it ends with an error (R132) -/
  jcBad : Bool := false
  /-- SCNT of its row 0 -/
  scnt : W48 := 0#48
  /-- rows received, frame bytes received, rows released -/
  got : Nat := 0
  fr : List SByte := []
  rel : Nat := 0
  /-- the payload is delivered as LOCK fill (R354, R365) -/
  locked : Bool := false
  /-- the payload was received as it is delivered outside LOCKED and KEY_LOSS: neither a security unit nor a mismatch (R354) -/
  plain : Bool := false
  /-- the payload is a security unit that is decrypted (R361) -/
  unit : Bool := false
  /-- the check of the unit is due -/
  due : Bool := false
  /-- frame rows whose payload bytes leave as 0x00 with the slag mark (R356, R363) -/
  marks : List Nat := []
  deriving DecidableEq, Repr, Inhabited

/-- What a container's sink hands to its client side in a row (R133, R142): an Ethernet packet with preamble and delimiter, whether it ends with an error, and the gap that follows it; ordered sets; ODU bytes; ODU-AIS. -/
inductive CliOut where
  | packet (bytes : List Byte) (err : Bool) (gap : Nat)
  | localFault | remoteFault
  | odu (bytes : List Byte)
  | oduAis
  deriving DecidableEq, Repr, Inhabited

/-- What a demapper holds (R397): the time at which it leaves, in 5 ps from reset, the tributary entry of a FLEXO port, and the item. -/
structure Demapped where
  due : Nat
  entry : Nat := 0
  item : CliOut
  deriving DecidableEq, Repr

/-- What an I2C master sends (R392): a clock pulse before START, START or repeated START, a byte, the acknowledge of a byte read or its absence, STOP. -/
inductive I2cSym where
  | pulse | start | byte (b : Byte) | ack | nack | stop
  deriving DecidableEq, Repr

/-- A stored row of the alignment store (R166, R169): slot tag, N of its frame, class (0 GOOD, 1 SLAGGED, 2 FAILED), the bytes of the LEN billets. -/
structure RingRow where
  tag : Option Nat := none
  n : Nat := 0
  cls : Nat := 0
  cells : List Cell := []
  deriving DecidableEq, Repr, Inhabited

/-- An adjacency block of a link-state packet (R202). -/
structure AdjBlk where
  nbr : W64 := 0#64
  port : Nat := 0
  nbrPort : Nat := 0
  metric : Nat := 1
  up : Bool := false
  deriving DecidableEq, Repr, Inhabited

/-- A link-state packet of the database (R202, R203), with the strokes since it was refreshed. -/
structure Lsp where
  uid : W64 := 0#64
  seq : W32 := 0#32
  state : Nat := 0
  addr : Nat := 0
  adj : List AdjBlk := []
  age : Nat := 0
  deriving DecidableEq, Repr, Inhabited

/-- The broadcast record of an ORIGIN (R196): the highest BSEQ, which of the 32 below it were seen (bit 0: one below), and its age in strokes. -/
structure BcRec where
  origin : Nat := 0
  high : Nat := 0
  seen : W32 := 0#32
  age : Nat := 0
  deriving DecidableEq, Repr, Inhabited

/-- A candidate or runner-up of a receiver (R251–R255): start of its header in symbols, PFR as a ratio, Δf as 2⁻³² turns of eight symbols, descriptor of its header,
number of the next predicted header, SFC of the last correct descriptor with the number of its header, Δf of each verified header, and the equaliser fitted over it. -/
structure Cand where
  pos : Nat := 0
  pfr : Nat × Nat := (0, 0)
  df : Int := 0
  desc : W64 := 0#64
  next : Nat := 1
  sfc : Option (Nat × Nat) := none
  dfs : List Int := []
  taps : List (Int × Int) := []
  deriving DecidableEq, Repr, Inhabited

/-- A frame candidate (R279): bit offset in the frame period, consecutive matches, MFAS last seen, consecutive matches whose MFAS advanced. -/
structure FasCand where
  off : Nat := 0
  hits : Nat := 1
  mfas : Byte := 0#8
  adv : Nat := 0
  deriving DecidableEq, Repr, Inhabited

/-- Line defects, in the order of LINE_OTN_STATUS DEFECTS. -/
inductive LineDefect where
  | cwl | lof | lom | timSm | bdiSm | iae | biae | degSm | ais | oci | lck | timPm | bdiPm | degPm | plm | fecSd
  deriving DecidableEq, Repr, Inhabited

/-- Decoder counts of a stroke (R276): codewords, correctable ones, hard decisions that differ in these, uncorrectable ones, most and summed iterations. -/
structure FecStroke where
  cw : Nat := 0
  good : Nat := 0
  diff : Nat := 0
  uncorr : Nat := 0
  iterMax : Nat := 0
  iterSum : Nat := 0
  deriving DecidableEq, Repr, Inhabited

/-- The identity of a fragment (R332): ingress port, V_D and KW0–KW7. -/
abbrev FragId := Nat × Nat × List Nat

/-- How the passes of a packet ended (R329–R334). -/
inductive PktEnd where
  | miss | depth | malformed
  | slot (g : Nat)
  | ruleDrop
  /-- a later fragment: the fragment table decides at retire (R332) -/
  | later (f : FragId)
  deriving DecidableEq, Repr, Inhabited

/-- A packet in flight in the flux engines (R325–R332). `ended` is none while a pass runs or waits. -/
structure Packet where
  port : Nat := 0
  no : Nat := 0
  ctx : Nat := 0
  /-- the generation captured at the start of the first pass (R336): bank 1 -/
  gen1 : Bool := false
  bytes : List Byte := []
  second : Bool := false
  /-- first instruction of the pass -/
  start : Nat := 0
  /-- offset of the header window in the frame -/
  base : Nat := 0
  v : List Nat := []
  kw : List Nat := [0, 0, 0, 0, 0, 0, 0, 0]
  layer : Nat := 0
  eq : Bool := false
  lt : Bool := false
  first : Option FragId := none
  ended : Option PktEnd := none
  deriving DecidableEq, Repr, Inhabited

/-- An entry of the fragment table (R332): identity, outcome (a slot, or a drop), strokes run when it was last used, and whether its word is slag-marked (R429). -/
structure FragEntry where
  id : FragId := (0, 0, [])
  out : Option Nat := none
  used : Nat := 0
  slag : Bool := false
  deriving DecidableEq, Repr, Inhabited

/-- A command that needs KEY_LOCK (R369): its request, and the strokes run when it began to wait. -/
structure KeyWait where
  cmd : Deferred
  since : Nat := 0
  deriving DecidableEq, Repr

/-- The working state of CTR_DRBG (NIST SP 800-90A, R370): Key and V; `seeded` once it has been instantiated. -/
structure Drbg where
  key : BitVec 256 := 0#256
  v : BitVec 128 := 0#128
  seeded : Bool := false
  deriving DecidableEq, Repr, Inhabited

/-- A key in the profile store: the level it is bound to, and the ten words of the wrapped key (R366, R419). -/
structure StoredKey where
  level : Nat := 0
  wrapped : List W32 := []
  deriving DecidableEq, Repr, Inhabited

/-- A housekeeping sequence that runs (R374, R376): the HK_CFG words it started under, strokes run and SCNT at its start, the next entry to deliver, and the entries whose filters take no result from it. -/
structure HkRun where
  cfg : List W32 := []
  start : Nat := 0
  scnt : W48 := 0#48
  next : Nat := 0
  stale : List Nat := []
  deriving DecidableEq, Repr, Inhabited

/-- The filter and the open-wire test of an entry (R377, R378): results since it was last emptied, newest first (RAW, OVRNG), at most 1,024; last result; dOPEN and its runs. -/
structure HkFilter where
  res : List (Nat × Bool) := []
  raw : Nat := 0
  ovr : Bool := false
  opn : Bool := false
  openRun : Nat := 0
  okRun : Nat := 0
  deriving DecidableEq, Repr, Inhabited

/-- A signer slot of OTP (R409). -/
structure SignerSlot where
  hash : List W32 := []
  programmed : Bool := false
  revoked : Bool := false
  deriving DecidableEq, Repr, Inhabited

/-- An authentication key slot (R71, R414): key, bound level (1 OBSERVER, 2 OPERATOR, 3 ADMIN), last accepted sequence number. -/
structure AuthKey where
  key : Option (BitVec 256) := none
  level : Nat := 0
  seq : W48 := 0#48
  deriving DecidableEq, Repr, Inhabited

/-- What has befallen a queue in a clock cycle that brings it two changes (R81): nothing yet, a change of FILL from a value, a flush. -/
inductive InCycle where
  | opened
  | changed (before : Nat)
  | flushed
  deriving DecidableEq, Repr, Inhabited

/-- What UNAUTH_LEVEL may be: never ADMIN (R96). -/
inductive UnauthLevel where
  | observer | operator
  deriving DecidableEq, Repr, Inhabited

/-- A fault-record entry (R423), without its CRC word. -/
structure FaultEntry where
  code : Nat := 0
  unit : Nat := 0
  detail : Nat := 0
  scnt : W48 := 0#48
  fwVersion : W32 := 0#32
  modes : Nat := 0
  tj : W16 := 0#16
  bootCount : W32 := 0#32
  serial : W32 := 0#32
  deriving DecidableEq, Repr, Inhabited

/-- A second that is not yet decided (R447). -/
structure SecCount where
  es : Bool := false
  ses : Bool := false
  bbe : Nat := 0
  deriving DecidableEq, Repr, Inhabited

/-- What manufacture fixes (R4, R197, R416): never changed by reset, mode or ANNEAL. -/
structure Fused where
  /-- 00_scope R4; reset: fused; DESIGN CHOICE ATG-3216, log 1 -/
  partCode : W16 := 0x3216#16
  /-- 00_scope R4; reset: fused; DESIGN CHOICE 1, log 1 -/
  stepping : BitVec 4 := 1#4
  /-- 00_scope R1/R4; reset: fused; DESIGN CHOICE present, log 1 -/
  secPresent : Bool := true
  /-- 06_fistan_fabric R197; reset: fused; DESIGN CHOICE 1, log 1 -/
  uid : W64 := 1#64
  /-- 16_package R472; reset: fused; DESIGN CHOICE 0, log 1 -/
  mfr : BitVec 11 := 0#11
  deriving DecidableEq, Repr, Inhabited

/-- Levels the outside drives on the package and what R401/R463 make of them. -/
structure PinSt where
  /-- 16_package R463; reset: powered -/
  powered : Bool := true
  /-- 16_package R464; reset: released (state right after reset) -/
  rstnLow : Bool := false
  /-- 16_package R465; reset: released -/
  perstLow : Bool := false
  /-- 16_package R473; reset: no JTAG QUENCH -/
  jtagForced : Bool := false
  /-- 16_package R472 (JTAG instruction register); reset: PRESUMED IDCODE (IEEE 1149.1), log 43 -/
  jtag : JtagInstr := .idcode
  /-- 16_package R472 (boundary register, levels that drive the pins under EXTEST and CLAMP); reset: PRESUMED 0 (IEEE 1149.1), log 125 -/
  scan : List (ScanPin × Bool) := []
  deriving DecidableEq, Repr, Inhabited

/-- The stroke unit's numbering (R29, R36, R65) and the strokes run since reset (R38: durations count strokes run). -/
structure StrokeSt where
  /-- 02 R29; reset: 0 -/
  scnt : W48 := 0#48
  /-- 02 R29; reset: 0 -/
  row : Nat := 0
  /-- 02 R38 (durations are counted in strokes run); reset: 0 -/
  run : Nat := 0
  /-- 02 R36, STROKE_STATUS; reset: 0 -/
  stepCount : W16 := 0#16
  /-- 02 R36 (STROKE_SET awaiting the next row 0); reset: none -/
  setTo : Option W48 := none
  /-- 02 STROKE_CFG word 0; reset: 0x0000_800F -/
  cfg0 : W32 := 0x0000_800F#32
  /-- 02 STROKE_CFG word 1; reset: 0 -/
  cfg1 : W32 := 0#32
  /-- 02 R31/R38 (the stroke begun at this row 0 ended a second); reset: false -/
  secondEnd : Bool := false
  /-- 02 R38 (the stroke begun at this row 0 began with a step); reset: false -/
  stepped : Bool := false
  /-- 02 R53 (row 0 as the last STRK_IN edge of this stroke asks for it); reset: none -/
  strkIn : Option Int := none
  deriving DecidableEq, Repr, Inhabited

/-- Reference candidates and clock states (R43-R51). -/
structure ClkSt where
  /-- 02 REF_CFG; reset: each 0x0F00_0900 -/
  refCfg : List (Nat × W32) := []
  /-- 02 REF_FORCE R45; reset: none -/
  forced : Option Nat := none
  /-- 02 CLK_CFG word 0; reset: LOOP_BW 1, QL_MODE 1, HOLDOVER_LIMIT 86,400 -/
  clk0 : W32 := 0x6001_5180#32
  /-- 02 CLK_CFG word 1; reset: WTR 300 -/
  clk1 : W32 := 0x012C_0000#32
  /-- 02 CLK_CFG word 2; reset: FREQ 3, SQ_LOST 1 for both -/
  clk2 : W32 := 0x3400_3400#32
  /-- 02 CLK_STATUS R48; reset: FREE-RUN -/
  state : ClkState := .freeRun
  /-- 02 CLK_STATUS; reset: 31 -/
  selected : Nat := 31
  /-- 02 CLK_STATUS CAUSE; reset: 3 -/
  cause : Nat := 3
  /-- 02 CLK_STATUS FAILED R50; reset: none -/
  failed : List Nat := []
  /-- 02 R50 (failing conditions that hold, bit set); reset: 0 -/
  failWhy : List (Nat × Nat) := []
  /-- 02 R50 (the last stroke run in which a condition held); reset: 0 -/
  okSince : List (Nat × Nat) := []
  /-- 02 CLK_STATUS R49; reset: 0 -/
  histValid : Bool := false
  /-- 02 R48 (consecutive strokes within 2 ns); reset: 0 -/
  lockRun : Nat := 0
  /-- 02 R48 (strokes in ACQUIRING); reset: 0 -/
  acqRun : Nat := 0
  /-- 02 R49 (consecutive strokes in LOCKED); reset: 0 -/
  lockedRun : Nat := 0
  /-- 02 HOLDOVER_ELAPSED (strokes in HOLDOVER); reset: 0 -/
  holdRun : Nat := 0
  /-- 02 R51 (QL of the last locked candidate); reset: 15 -/
  lastQl : BitVec 4 := 15#4
  /-- 02 CLK_STATUS FREQ_OFFSET, R47, R49 (output frequency against OSCIN); reset: 0 -/
  freq : Int := 0
  /-- 02 R49 (holdover frequency); reset: DESIGN CHOICE 0, log 2 -/
  histFreq : Int := 0
  /-- 02 R49 (frequency of the strokes run, newest first: number of strokes, frequency); reset: empty -/
  freqLog : List (Nat × Int) := []
  /-- 02 R50 (measured frequency of the candidates against OSCIN, 10⁻⁶ ppm); reset: none; DESIGN CHOICE an unmeasured one reads 0, log 2 -/
  candFreq : List (Nat × Int) := []
  /-- 02 R47 (measured phase of the candidates against the output, 10 ps); reset: none; DESIGN CHOICE an unmeasured one reads 0, log 2 -/
  candPhase : List (Nat × Int) := []
  /-- 02 R47 (phase offset measured at the last switch and built out); reset: 0 -/
  buildOut : Int := 0
  /-- 02 R50 (strokes of the 1,000-stroke window in progress, sum of the offsets); reset: none -/
  freqWin : List (Nat × Nat × Int) := []
  deriving DecidableEq, Repr, Inhabited

/-- Stroke root election and alignment (R55-R66). -/
structure RootSt where
  /-- 02 R55 (valid announcements of this stroke per port); reset: none -/
  anns : List (Nat × AnnRx) := []
  /-- 02 R57 (those of the previous stroke); reset: none -/
  prevAnns : List (Nat × AnnRx) := []
  /-- 02 R56 (strokes without a valid announcement); reset: 0 -/
  noAnn : Nat := 0
  /-- 02 R56; reset: false -/
  candidateByTimeout : Bool := false
  /-- 02 STROKE_STATUS ALIGNED R63; reset: 0 -/
  aligned : Bool := false
  /-- 02 STROKE_STATUS IS_ROOT; reset: 0 -/
  isRoot : Bool := false
  /-- 02 STROKE_STATUS ROOT_ADDR; reset: 0 -/
  rootAddr : W12 := 0#12
  /-- 02 STROKE_STATUS ROOT_PRIO; reset: 0 -/
  rootPrio : Byte := 0#8
  /-- 02 STROKE_STATUS UPSTREAM; reset: 15 -/
  upstream : Nat := 15
  /-- 02 STROKE_STATUS HOPS; reset: 0 -/
  hops : Byte := 0#8
  /-- 02 R57/R58 (ROOT_SEQ forwarded); reset: 0 -/
  rootSeq : W16 := 0#16
  /-- 02 STROKE_STATUS STANDBY_ADDR; reset: 0 -/
  standbyAddr : W12 := 0#12
  /-- 02 R57; reset: 0 -/
  standbyPrio : Byte := 0#8
  /-- 02 STROKE_STATUS LOST_ADDR; reset: 0 -/
  lostAddr : W12 := 0#12
  /-- 02 R57 (root, strokes since declared); reset: empty -/
  lostList : List (W12 × Nat) := []
  /-- 02 R58/R59 (loss declared, acted on at the next row 0); reset: false -/
  lossPending : Bool := false
  /-- 02 R55 ARR_ECHO (arrival time of the partner's last announcement, 10 ps); reset: none -/
  lastArr : List (Nat × Int) := []
  /-- 02 STROKE_STATUS FOREIGN R64; reset: 0 -/
  foreign : List Nat := []
  /-- 02 STROKE_STATUS THETA; reset: 0 -/
  theta : W32 := 0#32
  /-- 02 R53, R62 (how far row 0 has been moved forward in all by θ and the STRK_IN edge); reset: 0 -/
  phaseAdj : Int := 0
  /-- 02 R55 (announcement sent per port in this row 0); reset: none -/
  sent : List (Nat × List W32) := []
  /-- 02 R55 (QL forwarded); reset: 15 -/
  ql : BitVec 4 := 15#4
  /-- 02 R59, R66 (row 0s at which the root was a standby taken to which no port led); reset: 0 -/
  held : Nat := 0
  deriving DecidableEq, Repr, Inhabited

/-- One PCIe channel's ring registers (R83). -/
structure ChanSt where
  /-- 03 BAR0; reset: 0 -/
  cmdBaseLo : W32 := 0#32
  /-- 03 BAR0; reset: 0 -/
  cmdBaseHi : W32 := 0#32
  /-- 03 BAR0 R84; reset: 0 -/
  cmdSize : W32 := 0#32
  /-- 03 BAR0 R85; reset: 0 -/
  cmdTail : W32 := 0#32
  /-- 03 BAR0; reset: 0 -/
  cmdHead : W32 := 0#32
  /-- 03 BAR0; reset: 0 -/
  rplBaseLo : W32 := 0#32
  /-- 03 BAR0; reset: 0 -/
  rplBaseHi : W32 := 0#32
  /-- 03 BAR0 R84; reset: 0 -/
  rplSize : W32 := 0#32
  /-- 03 BAR0; reset: 0 -/
  rplTail : W32 := 0#32
  /-- 03 BAR0; reset: 0 -/
  rplHead : W32 := 0#32
  /-- 03 R86 (channel stopped on an unusable LENGTH); reset: false -/
  stopped : Bool := false
  /-- 03 R87 (words written to the host's reply ring, last packet); reset: none -/
  rplOut : List W32 := []
  deriving DecidableEq, Repr, Inhabited

/-- Queues, rings, interrupts, policy and forwarding of the command interface (R76-R104). -/
structure CmdSt where
  /-- 03 R76; reset: empty -/
  cq : List (Nat × List (List W32)) := []
  /-- 03 R76; reset: empty -/
  rq : List (Nat × List (List W32)) := []
  /-- 03 QUEUE_CFG; reset: 0 for q<=5, 1 for q>=6 -/
  levels : List Nat := [0, 0, 0, 0, 0, 0, 1, 1, 1, 1, 1, 1]
  /-- 03 BAR0; reset: reset values -/
  chan : List (Nat × ChanSt) := []
  /-- 03 INT_STATUS (W1C bits only; FAULT and EVENT are computed); reset: 0 -/
  intStatus : W32 := 0#32
  /-- 03 INT_MASK; reset: 0 -/
  intMask : W32 := 0#32
  /-- 03 BAR_CTRL INT_PIN_EN; reset: 0 -/
  intPinEn : Bool := false
  /-- 03 QUEUE_CFG word 12; reset: 5,000 -/
  fwdTimeout : W32 := 5000#32
  /-- 03 ACCESS_POLICY UNAUTH_LEVEL of CQ0–CQ5 (R96); reset: OPERATOR for CQ0–CQ4, OBSERVER for CQ5 (0x06AA) -/
  unauth : Vector UnauthLevel 6 := #v[.operator, .operator, .operator, .operator, .operator, .observer]
  /-- 03 ACCESS_POLICY; reset: 1 -/
  obsCounters : Bool := true
  /-- 03 R92; reset: none -/
  fwd : List FwdRec := []
  /-- 03 R93 (replies from the fabric for this device, not yet matched); reset: none -/
  fabRpl : List (List W32) := []
  /-- 03 R99 (queue served last); reset: DESIGN CHOICE 5 (CQ0 is served first), log 3 -/
  rr : Nat := 5
  /-- 03 R99 (queues whose packet has not finished); reset: none -/
  busyCq : List Nat := []
  /-- 03 R74 (last accepted number before the command of a queue whose reply waits); reset: none -/
  heldSeq : List (Nat × W48) := []
  /-- 03 R87 (replies that wait for room in their queue, oldest first); reset: none -/
  late : List (Nat × List W32) := []
  /-- 03 R81 (MODEL: queues whose next two changes fall in one cycle, and FILL before the first of them); reset: none -/
  joined : List (Nat × InCycle) := []
  /-- 03 R88/R90 (words the SPI target clocked out last); reset: none -/
  spiOut : List W32 := []
  /-- 16 R465 (endpoint running); reset: DESIGN CHOICE true, log 4 -/
  pcieUp : Bool := true
  deriving DecidableEq, Repr, Inhabited

/-- Event counters, event log, mask, windowed counters (R449-R454). -/
structure EvSt where
  /-- 15 R449; reset: 0 -/
  counters : List (Nat × W48) := []
  /-- 07 R221 (counts of TX_CLIP, kept apart from the other counters); reset: 0 -/
  clips : List (Nat × W48) := []
  /-- 15 R454; reset: empty -/
  log : List LogEntry := []
  /-- 15 R454 (EVT_MASK: the disabled codes, class x 256 + code); reset: DESIGN CHOICE all enabled from reset to the KINDLE sweep (R11), log 113 -/
  maskOff : List Nat := []
  /-- 15 R454 (an entry was lost since the last one made); reset: false -/
  ovf : Bool := false
  /-- 15 WIN_CFG, WIN_RESULT R452; reset: reset values -/
  win : List (Nat × WinSt) := []
  /-- 15 R429 (event counters with a slag mark); reset: none -/
  bad : List Nat := []
  deriving DecidableEq, Repr, Inhabited

/-- Connection map, banks, switch banks (R108-R121). -/
structure AnvilSt where
  /-- 04 R108/R111; reset: 0 -/
  bankA : List (Nat × W32) := []
  /-- 04 R108/R111; reset: 0 -/
  bankB : List (Nat × W32) := []
  /-- 15 R434 golden copy; reset: 0 -/
  goldA : List (Nat × W32) := []
  /-- 15 R434 golden copy; reset: 0 -/
  goldB : List (Nat × W32) := []
  /-- 04 MAP_STATUS ACTIVE; reset: 0 -/
  activeB : Bool := false
  /-- 04 MAP_STATUS SHADOW_STATE; reset: SYNCED -/
  shadow : ShadowState := .synced
  /-- 04 R115 (running MAP_SYNC); reset: none -/
  sync : Option Deferred := none
  /-- 04 R121, 14 R398 ((table, word) at which the next read-back in TEMPER differs); reset: none -/
  backBad : List (Nat × Nat) := []
  /-- 04 R120 (limit being shed to); reset: none -/
  shedLimit : Option Nat := none
  /-- 15 R436 (banks that counted SW_UE in this second); reset: none -/
  swUeNow : List Nat := []
  /-- 15 R436 (consecutive seconds with SW_UE); reset: 0 -/
  swUeRuns : List (Nat × Nat) := []
  /-- 15 INTEG_STATUS SW_UE_LAST; reset: 0 -/
  swUeLast : List Nat := []
  deriving DecidableEq, Repr, Inhabited

/-- The datapath's bytes (R19, R105). -/
structure RowSt where
  /-- 04 R105 (ingress row in progress); reset: UNEQUIPPED (sweep, 15 R431) -/
  ingress : List (Nat × Cell) := []
  /-- 01 R14/R23, 06 R187 (fill that replaces a window's ingress); reset: none -/
  winFill : List (Nat × Fill) := []
  /-- 01 R19 (ingress row r-1); reset: UNEQUIPPED -/
  prevIngress : List (Nat × Cell) := []
  /-- 01 R19; reset: none -/
  prevFill : List (Nat × Fill) := []
  /-- 01 R19 (egress row r); reset: UNEQUIPPED -/
  egress : List (Nat × Cell) := []
  /-- 04 R146; reset: none -/
  inject : List Injection := []
  /-- 04 R146 (ingress positions marked in this row); reset: none -/
  marked : List Nat := []
  /-- 04 R146, 01 R19 (those of the row before); reset: none -/
  prevMarked : List Nat := []
  deriving DecidableEq, Repr, Inhabited

/-- A container's source side (R125-R131). -/
structure SrcSt where
  /-- 04 R125 (N in force for this frame); reset: 0 -/
  n : Nat := 0
  /-- 04 R126 (stroke of the frame formed); reset: none -/
  frameNo : Option W48 := none
  /-- 04 R126, 12 R348; reset: none -/
  oh : List Byte := []
  /-- 04 R131; reset: 0 -/
  cm : Nat := 0
  /-- 04 R126; reset: 0 -/
  csf : Bool := false
  /-- 04 R131 (mapper buffer); reset: empty -/
  buf : List SByte := []
  /-- 04 R131 (client bytes that entered in this stroke); reset: 0 -/
  arrived : Nat := 0
  /-- 04 R127 (BIP-8 of the frame so far); reset: 0 -/
  parity : Byte := 0#8
  /-- 04 R127/R138 (a byte of the frame went out as fill); reset: 0 -/
  slagSent : Bool := false
  /-- 12 R347 (unit bytes sent, ciphertext); reset: none -/
  sent : List Byte := []
  /-- 04 R130 (frame bytes sent); reset: 0 -/
  sentIdx : Nat := 0
  /-- 12 R348 UNIT of this frame; reset: 0 -/
  unit : Bool := false
  /-- 12 R348 KP of this frame; reset: 0 -/
  slot : Nat := 0
  /-- 12 R347 (IV of this frame's unit); reset: 0 -/
  iv : BitVec 96 := 0#96
  /-- 04 R128 (BEI of the next frame); reset: 0 -/
  beiOwed : Nat := 0
  /-- 12 R363 (SECF of the next frame); reset: 0 -/
  secfOwed : Bool := false
  /-- 04 R146 (frames left with BIP8 inverted); reset: 0 -/
  bipFlip : Nat := 0
  /-- 04 R144 (PRBS-31 state of a TEST source); reset: DESIGN CHOICE all ones, log 5 -/
  prbs : Nat := 2147483647
  deriving DecidableEq, Repr, Inhabited

/-- A container sink or a group's copy monitor (R129, R141, R155). -/
structure SinkSt where
  /-- 04 R129 CONT_STATUS IN_FRAME; reset: 0 -/
  inFrame : Bool := false
  /-- 04 R129; reset: false -/
  everInFrame : Bool := false
  /-- 04 R129; reset: 0 -/
  rho : Nat := 0
  /-- 04 R129 (per offset, FW and NN of the last frame with correct JCRC); reset: none -/
  cands : List (Nat × Option (Nat × Nat)) := []
  /-- 04 R129; reset: 0 -/
  lastFw : W16 := 0#16
  /-- 04 R129 (consecutive failing frames); reset: 0 -/
  failRun : Nat := 0
  /-- 04 R129/R141 (strokes without alignment since enable); reset: 0 -/
  noAlign : Nat := 0
  /-- 04 CONT_STATUS N_RX; reset: 0 -/
  nRx : Nat := 0
  /-- 04 R136 (NN of the last good frame); reset: 0 -/
  nNext : Nat := 0
  /-- 04 CONT_STATUS CM_RX; reset: 0 -/
  cmRx : Nat := 0
  /-- 04 CONT_STATUS; reset: 0 -/
  rxPlbl : W16 := 0#16
  /-- 04 CONT_STATUS; reset: 0 -/
  rxPt : Byte := 0#8
  /-- 04 CONT_STATUS; reset: 0 -/
  rxSohp : Bool := false
  /-- 04 CONT_STATUS DLY_ROWS; reset: 0 -/
  dlyRows : Nat := 0
  /-- 04 R127 (BIP-8 of the last frame received); reset: 0 -/
  parity : Byte := 0#8
  /-- 04 R127 (a previous frame was received in frame); reset: false -/
  parityOk : Bool := false
  /-- 04 R139 (the last frame received had a slag-marked byte); reset: false -/
  prevSlag : Bool := false
  /-- 04 R129 (the last frame received has been counted as errored); reset: false -/
  prevErr : Bool := false
  /-- 04 CONT_STATUS DEFECTS; reset: 0 -/
  defects : List Defect := []
  /-- 04 R141 (consecutive frames or strokes with the condition); reset: 0 -/
  onRun : List (Nat × Nat) := []
  /-- 04 R141 (consecutive ones without); reset: 0 -/
  offRun : List (Nat × Nat) := []
  /-- 04 R141 (fills that every byte of billet 0 has shown in this stroke: 0 AIS, 1 LOCK, 2 UNEQUIPPED); reset: none -/
  fillNow : List Nat := []
  /-- 04 R141 dDEG (errored frames of the second); reset: 0 -/
  errSec : Nat := 0
  /-- 04 dDEG consecutive degraded seconds; reset: 0 -/
  degRun : Nat := 0
  /-- 04 dDEG consecutive seconds without; reset: 0 -/
  okRun : Nat := 0
  /-- 04 R133 (Ethernet stream established); reset: 0 -/
  strmSync : Bool := false
  /-- 04 R133, R139 (stream bytes not yet parsed, a slag-marked one as 0x00; mark: the frame that contains it ends with an error); reset: empty -/
  strmBuf : List SByte := []
  /-- 04 R133, R142 (what the client side gets in this row); reset: none -/
  out : List CliOut := []
  /-- 11 R340 (frames of a groomed container that have not been unpacked; true: with an error); reset: none -/
  frames : List (List Byte × Bool) := []
  /-- 04 R142 (client replacement sent); reset: 0 -/
  replace : Bool := false
  /-- 04 R123, R129 (rows read last, newest first); reset: none -/
  rows : List SinkRow := []
  /-- 04 R129, 12 R361 (the frame before, while its rows are in the release delay, and the frame in progress); reset: none -/
  flow : List BodyRx := []
  /-- 12 R361 (rows since the last one that belonged to a frame); reset: 0 -/
  stale : Nat := 0
  /-- 11 R324 (the frame in progress of a groomed stream is discarded up to its end); reset: 0 -/
  skip : Bool := false
  deriving DecidableEq, Repr, Inhabited

/-- Container table and the two sides of each container (R122-R142). -/
structure ContSt where
  /-- 04 R122; reset: reset fields -/
  table : List (Nat × ContEntry) := []
  /-- 15 R434; reset: reset -/
  gold : List (Nat × ContEntry) := []
  /-- 04 R125-R131; reset: reset -/
  src : List (Nat × SrcSt) := []
  /-- 04 R129; reset: reset -/
  snk : List (Nat × SinkSt) := []
  /-- 04 R144 TEST checker; reset: 0 -/
  chk : List (Nat × Checker) := []
  deriving DecidableEq, Repr, Inhabited

/-- Billet analysers (R145, R149). -/
structure DiagSt where
  /-- 04 BA_CFG; reset: 0 -/
  baCfg : List (Nat × BaCfg) := []
  /-- 04 BA_RESULT R145 (one checker per position of each analyser); reset: 0 -/
  baPos : List (Nat × Checker) := []
  deriving DecidableEq, Repr, Inhabited

/-- One copy of a protection group. -/
structure MonSt where
  /-- 05 R155 (non-intrusive monitor); reset: reset -/
  snk : SinkSt := {}
  /-- 05 PG_STATUS W/P_SERVER_SF R154; reset: 0 -/
  serverSf : Bool := false
  /-- 05 R155; reset: 0 -/
  sfRaw : Bool := false
  /-- 05 R155; reset: 0 -/
  sdRaw : Bool := false
  /-- 05 R156 (strokes run at which SF became true); reset: none -/
  sfSince : Option Nat := none
  /-- 05 R156; reset: none -/
  sdSince : Option Nat := none
  /-- 05 PG_STATUS SF_W/SF_P (after hold-off); reset: 0 -/
  sf : Bool := false
  /-- 05 PG_STATUS SD_W/SD_P (after hold-off); reset: 0 -/
  sd : Bool := false
  /-- 05 dLATE; reset: 0 -/
  lateRun : Nat := 0
  /-- 05 dDIFF; reset: 0 -/
  earlyRun : Nat := 0
  /-- 05 R170; reset: 0 -/
  late : Bool := false
  /-- 05 R170; reset: 0 -/
  early : Bool := false
  /-- 05 R166, R169 (first and last row, counted in rows run, of the times the copy was out of frame); reset: none -/
  outSpans : List (Nat × Nat) := []
  deriving DecidableEq, Repr, Inhabited

/-- A protection group (R150-R177). -/
structure GroupSt where
  /-- 05 R155 working copy; reset: reset -/
  w : MonSt := {}
  /-- 05 R155 protection copy; reset: reset -/
  p : MonSt := {}
  /-- 05 PG_STATUS SEL; reset: 0 -/
  sel : Bool := false
  /-- 05 PG_STATUS REQ; reset: 0 -/
  req : BitVec 4 := 0#4
  /-- 05 PG_STATUS CMD_REJ; reset: 0 -/
  cmdRej : Bool := false
  /-- 05 PG_STATUS EXT_CMD; reset: 0 -/
  extCmd : Nat := 0
  /-- 05 R158, 01 R25 (PG_CMD of this row 0 that is in force, not yet judged); reset: none -/
  cmdDue : Option Nat := none
  /-- 05 R157 (strokes of wait-to-restore run); reset: none -/
  wtr : Option Nat := none
  /-- 05 R157 (WTR expired; acts at the next row 0); reset: false -/
  wtrDone : Bool := false
  /-- 05 R160 (copies whose SF acts on the selection: 0 working, 1 protection); reset: none -/
  eSf : List Nat := []
  /-- 05 R160 (copies whose SD acts on the selection); reset: none -/
  eSd : List Nat := []
  /-- 05 R159, R160 (accepted far-end request that acts, its requested signal); reset: NR -/
  eFar : Nat × Bool := (0, false)
  /-- 05 R164 (last received APS); reset: none -/
  rxAps : List Byte := []
  /-- 05 R164 (identical in-frame frames); reset: 0 -/
  rxRun : Nat := 0
  /-- 05 PG_STATUS RX_APS0, RX_RS, RX_BS; reset: 0 -/
  accAps : List Byte := []
  /-- 05 PG_STATUS TX_APS0 R163; reset: 0 -/
  txAps : List Byte := [0#8,0#8,0#8,0#8]
  /-- 05 PG_STATUS dFOP_PM; reset: 0 -/
  fopPm : Bool := false
  /-- 05 PG_STATUS dFOP_NR; reset: 0 -/
  fopNr : Bool := false
  /-- 05 R164; reset: none -/
  fopPmSince : Option Nat := none
  /-- 05 R164; reset: none -/
  fopNrSince : Option Nat := none
  /-- 05 ALN_STATUS ALN_SEL; reset: AUTO -/
  alnSel : Nat := 0
  /-- 05 ALN_STATUS CUR; reset: working -/
  cur : Bool := false
  /-- 05 ALN_STATUS PLAY_VALID, PLAY_ROWS R167; reset: not set -/
  play : Option Nat := none
  /-- 05 ALN_STATUS PROVISIONAL; reset: 0 -/
  provisional : Bool := false
  /-- 05 R168 (playout step waiting for the next output frame); reset: none -/
  stepTo : Option Nat := none
  /-- 05 R169 (rows not stored because their copy was early at their ingress: copy, FW, row); reset: none -/
  earlyRows : List (Nat × Nat × Nat) := []
  /-- 05 R168 (output carries slag-marked UNEQUIPPED); reset: false -/
  gap : Bool := false
  /-- 05 R166; reset: empty -/
  ring : List (Nat × RingRow) := []
  /-- 05 R167 (FW of the output frame in progress); reset: none -/
  outFw : Option W16 := none
  /-- 05 R167 (frames with no usable copy); reset: 0 -/
  badRun : Nat := 0
  /-- 15 R429 (the selection waits for a readable entry); reset: false -/
  selDue : Bool := false
  /-- 15 R429 (the selector state holds a slag-marked byte); reset: false -/
  selSlag : Bool := false
  /-- 05 R174 (output range of a disabled group that carries AIS fill: OUT_POS, LEN); reset: none -/
  offOut : Option (Nat × Nat) := none
  /-- 05 R167 (copies that have been in frame since enable); reset: none -/
  snkOn : List Nat := []
  deriving DecidableEq, Repr, Inhabited

/-- Protection groups (R150). -/
structure ProtSt where
  /-- 05 PG_CFG; reset: reset fields -/
  cfg : List (Nat × List W32) := []
  /-- 15 R434; reset: reset -/
  gold : List (Nat × List W32) := []
  /-- 05 R150; reset: reset -/
  grp : List (Nat × GroupSt) := []
  deriving DecidableEq, Repr, Inhabited

/-- Training of a fabric port, or of a client port whose TRAIN_MODE is 1 (R312-R316). -/
structure TrainSt where
  /-- 10 R316 (strokes since the timer started); reset: 0 -/
  run : Nat := 0
  /-- 10 R315 (training frames received since TRAIN was entered); reset: false -/
  seen : Bool := false
  /-- 10 R316 (training frames received since the timer started); reset: false -/
  got : Bool := false
  /-- 10 R315 (consecutive frames with everything ready); reset: 0 -/
  readyRun : Nat := 0
  /-- 10 R312 RX_SET received; reset: 0 -/
  rxSet : Byte := 0#8
  /-- 10 R312 TX_SET received; reset: 0 -/
  txSet : Byte := 0#8
  /-- 10 R315 RX_READY received; reset: 0 -/
  ready : Byte := 0#8
  /-- 10 R315 (transmitter sends data); reset: false -/
  data : Bool := false
  /-- 10 R315 (a row without a MARKER has been received at a client port); reset: false -/
  rxData : Bool := false
  /-- 10 R315 (lanes of the sent set); reset: none -/
  sent : List Nat := []
  /-- 10 R312 (training frames sent, modulo the 8,191 of PRBS-13); reset: 0 -/
  frames : Nat := 0
  deriving DecidableEq, Repr, Inhabited

/-- A fabric port (R178-R199). -/
structure PortSt where
  /-- 06 FAB_PORT_STATUS STATE; reset: DOWN -/
  state : PortState := .down
  /-- 06 FAB_PORT_STATUS ALIGN_ROWS R185; reset: 0 -/
  align : Nat := 0
  /-- 06 FAB_PORT_STATUS LINK_DELAY (d, 10 ps); reset: 0 -/
  delay : Nat := 0
  /-- 02 theta of the port, 10 ps; reset: 0 -/
  theta : Int := 0
  /-- 06 R188 (strokes with theta above 80 ns); reset: 0 -/
  thetaBad : Nat := 0
  /-- 06 FAB_PORT_STATUS; reset: 0 -/
  lanes6Rx : Bool := false
  /-- 06 FAB_PORT_STATUS; reset: 0 -/
  lanes6Tx : Bool := false
  /-- 06 R189; reset: 0 -/
  dFlos : Bool := false
  /-- 06 R211; reset: 0 -/
  dSbdi : Bool := false
  /-- 06 R211 (consecutive rows towards a change of dSBDI); reset: 0 -/
  sbdiRun : Nat := 0
  /-- 06 R211; reset: 0 -/
  dSdeg : Bool := false
  /-- 06 R211 (errored link rows of the second); reset: 0 -/
  errSec : Nat := 0
  /-- 06 R211; reset: 0 -/
  degRun : Nat := 0
  /-- 06 R211; reset: 0 -/
  okRun : Nat := 0
  /-- 06 R199; reset: 0 -/
  dNbrMm : Bool := false
  /-- 06 R183 (125 x SCNT16 + ROW of the last valid row); reset: none -/
  lastRow : Option Nat := none
  /-- 06 R187; reset: 0 -/
  validRun : Nat := 0
  /-- 06 R189; reset: 0 -/
  badRun : Nat := 0
  /-- 06 R185; reset: empty -/
  aligner : List (Nat × List (Nat × Cell)) := []
  /-- 06 R185 (last link row released); reset: none -/
  released : Option Nat := none
  /-- 06 R184 (BIP-8 of the last row received); reset: none -/
  rxBip : Option Byte := none
  /-- 06 R184 (SBEI of the next row sent); reset: 0 -/
  sbei : Nat := 0
  /-- 06 R180 (BIP-8 of the last row sent); reset: 0 -/
  txBip : Byte := 0#8
  /-- 06 R180 (the link row sent); reset: none -/
  txRow : List Byte := []
  /-- 06 R182 (slag list sent); reset: none -/
  txSlag : List W16 := []
  /-- 06 R187 (strokes in HUNT); reset: 0 -/
  huntRun : Nat := 0
  /-- 10 R315; reset: reset -/
  tr : TrainSt := {}
  /-- 10 R311 (rows with wrong M bits); reset: 0 -/
  mBad : Nat := 0
  /-- 10 R311; reset: false -/
  frameLost : Bool := false
  /-- 10 R311 (agreeing rows in HUNT); reset: 0 -/
  frameGood : Nat := 0
  /-- 10 R311 (offset of the last row that agreed); reset: 0 -/
  frameOff : Int := 0
  /-- 06 FAB_PORT_STATUS ADJ R198; reset: NONE -/
  adj : Adj := .none
  /-- 06 FAB_PORT_STATUS NBR_UID; reset: 0 -/
  nbrUid : W64 := 0#64
  /-- 06 FAB_PORT_STATUS NBR_PORT; reset: 0 -/
  nbrPort : Nat := 0
  /-- 06 FAB_PORT_STATUS NBR_ADDR; reset: 0 -/
  nbrAddr : W12 := 0#12
  /-- 06 R198; reset: 0 -/
  helloAge : Nat := 0
  /-- 06 R197 HELLO_SEQ; reset: DESIGN CHOICE 0, log 6 -/
  helloSeq : W16 := 0#16
  /-- 06 R197 (a change or entry into SYNC asks for a HELLO); reset: false -/
  helloDue : Bool := false
  /-- 06 R197 (strokes since the last change-driven HELLO); reset: DESIGN CHOICE 50 (one may be sent), log 6 -/
  helloGap : Nat := 50
  /-- 06 R194 (HELLO and LSP); reset: empty -/
  q0 : List (List W32) := []
  /-- 06 R194 (POLAST and PATH_HOP); reset: empty -/
  q1 : List (List W32) := []
  /-- 06 R192 (envelopes sent in this stroke); reset: none -/
  wire : List (List W32) := []
  /-- 06 R192 (bytes of the envelope being received; none: discarding to the next CC_PTR); reset: none -/
  ccIn : Option (List Byte) := none
  /-- 06 R192 (envelopes received whole and not yet taken); reset: none -/
  ccGot : List (List W32) := []
  /-- 10 R309, R315 (lanes in use of the received direction); reset: none -/
  rxUse : List Nat := []
  /-- 06 R191 (fabric loss in force until UP again); reset: false -/
  sfHeld : Bool := false
  /-- 06 R192 (control-channel bytes to send; true: an envelope starts); reset: none -/
  ccOut : List (Byte × Bool) := []
  /-- 06 R185, R190 (A waits for a measurement of d); reset: false -/
  alignDue : Bool := false
  /-- 06 R186 (the next local row is the slip's); reset: false -/
  slip : Bool := false
  /-- 06 R197 (the HELLO of the entry into SYNC is due); reset: false -/
  helloSync : Bool := false
  /-- 06 R198 HELLO_LOSS declared; reset: false -/
  helloLost : Bool := false
  deriving DecidableEq, Repr, Inhabited

/-- Fabric: ports, address, link state, routes (R178-R212). -/
structure FabSt where
  /-- 06 FAB_CFG; reset: 0x8020_0000 -/
  cfg : W32 := 0x8020_0000#32
  /-- 06 FAB_PORT_CFG; reset: 0x000A_0000, 0x186A_7000 -/
  portCfg : List (Nat × List W32) := []
  /-- 06 R187; reset: reset -/
  port : List (Nat × PortSt) := []
  /-- 06 FAB_STATUS ADDR_STATE; reset: none -/
  addrState : AddrState := .none
  /-- 06 FAB_STATUS NODE_ADDR; reset: 0 -/
  nodeAddr : W12 := 0#12
  /-- 06 R201 (firm address due at the next row 0); reset: none -/
  nextAddr : Option W12 := none
  /-- 06 FAB_STATUS TENT_ADDR; reset: 0 -/
  tentAddr : W12 := 0#12
  /-- 06 R200 step 1 (strokes run when ADDR_MODE 1 came into force); reset: none -/
  waitSince : Option Nat := none
  /-- 06 R200 step 1 (strokes run at the first port enable); reset: none -/
  firstEnable : Option Nat := none
  /-- 06 R200 step 1 (a port has reached SYNC); reset: false -/
  anySync : Bool := false
  /-- 06 R200 (link state exchanged on a TWO_WAY adjacency); reset: false -/
  exchanged : Bool := false
  /-- 06 R200 step 4; reset: 0 -/
  claimRun : Nat := 0
  /-- 06 FAB_STATUS ADDR_CONFLICT; reset: 0 -/
  conflict : Bool := false
  /-- 06 R203; reset: empty -/
  lsdb : List Lsp := []
  /-- 06 FAB_STATUS LSEQ; reset: 0 -/
  lseq : W32 := 0#32
  /-- 06 R203 (the content changed in this stroke); reset: false -/
  lspPend : Bool := false
  /-- 06 R203 (originate at row 0); reset: false -/
  lspDue : Bool := false
  /-- 06 R203 (the LSP originated last); reset: none -/
  lspLast : Lsp := {}
  /-- 06 R203 (strokes since origination); reset: 0 -/
  lspAge : Nat := 0
  /-- 06 route entry; reset: 0xF000_0000 each -/
  routes : List (Nat × W32) := []
  /-- 06 R205; reset: false -/
  routesDue : Bool := false
  /-- 06 R205 (takes effect at row 0); reset: none -/
  routesNew : Option (List (Nat × W32)) := none
  /-- 06 R196 BSEQ; reset: DESIGN CHOICE 0, log 6 -/
  bseq : W16 := 0#16
  /-- 06 R196; reset: none -/
  bc : List BcRec := []
  deriving DecidableEq, Repr, Inhabited

/-- A line transmitter (R213-R237). -/
structure TxSt where
  /-- 07 TX_CFG; reset: reset fields -/
  cfg : List W32 := [0x0402_8000#32, 0x2861_A800#32, 0x2800_0000#32]
  /-- 07 TX_PREEMPH; reset: 0 -/
  pre : List W32 := []
  /-- 07 TX_STATUS STATE; reset: DARK -/
  state : TxState := .dark
  /-- 07 R225 (strokes of LASER_WAIT run); reset: 0 -/
  wait : Nat := 0
  /-- 07 R226 (row of the ramp curve); reset: 0 -/
  j : Nat := 0
  /-- 07 R226 (rows of a full ramp); reset: 0 -/
  m : Nat := 0
  /-- 07 TX_STATUS RATE_LIMIT; reset: 0 -/
  rateLimit : Bool := false
  /-- 07 TX_STATUS MAX_RS; reset: 280,000,000 -/
  maxRs : W32 := 280000000#32
  /-- 07 TX_STATUS SFC; reset: 0 -/
  sfc : W16 := 0#16
  /-- 07 R216 (position in the superframe at the start of the next row, in symbols x 6,250 x denominator of Rs); reset: 0 -/
  symPos : Nat := 0
  /-- 07 R216 (position in the superframe at the start of this row); reset: 0 -/
  symAt : Nat := 0
  /-- 07 R218 (superframe count at the start of this row); reset: 0 -/
  sfcAt : W16 := 0#16
  /-- 07 R226 (the row in progress is the first of its ramp); reset: false -/
  fresh : Bool := false
  /-- 07 R216 (symbol of the superframe that the row begins with); reset: 0 -/
  first : Nat := 0
  /-- 07 R216 (symbols sent in this row); reset: none -/
  sent : List LineSym := []
  /-- 07 R222 (symbols before them that the pulses still reach); reset: none -/
  past : List LineSym := []
  /-- 09 R270 (OTUCn bits formed and not yet taken by a codeword); reset: none -/
  bits : List Bool := []
  /-- 09 R270 label queue; reset: empty -/
  labels : List Bool := []
  /-- 09 R271 (data symbols formed and not yet sent); reset: none -/
  queue : List LineSym := []
  /-- 09 R271 (index of the next codeword); reset: 0 -/
  cwNext : Nat := 0
  /-- 09 R271 (index of the next data symbol of the stream); reset: 0 -/
  symNext : Nat := 0
  /-- 07 R233 (PRBS-31 state of the calibration waveform; 0: not begun); reset: 0 -/
  prbs : Nat := 0
  /-- 07 R233 (symbols of the calibration waveform in this row; `sent` holds those of traffic); reset: 0 -/
  calLen : Nat := 0
  /-- 07 R233 (PRBS-31 state at the start of this row); reset: 0 -/
  calFrom : Nat := 0
  /-- 07 R218 (superframe count before this row); reset: 0 -/
  calSfc : W16 := 0#16
  /-- 07 R235 (loops 6-8 hold until the transmitter is first enabled); reset: false -/
  famHold : Bool := false
  /-- 07 TX_CAL_CFG MODE; reset: TRACK -/
  calMode : List (Nat × Nat) := []
  /-- 07 TX_CAL_CFG TARGET; reset: 0 -/
  calTarget : List (Nat × Int) := []
  /-- 07 TX_CAL_RESULT CORRECTION; reset: 0 -/
  calCorr : List (Nat × Int) := []
  /-- 07 TX_CAL_RESULT ERROR; reset: 0 -/
  calErr : List (Nat × Int) := []
  /-- 07 R232 (last measurement at the sense taps); reset: 0 -/
  calMeas : List (Nat × Int) := []
  /-- 07 R232 (strokes of the measurement run); reset: 0 -/
  calRun : List (Nat × Nat) := []
  /-- 07 CAL_LIMIT (strokes at a limit); reset: 0 -/
  calLim : List (Nat × Nat) := []
  /-- 07 CAL_LIMIT declared; reset: none -/
  calLimDecl : List Nat := []
  /-- 07 TX_CAL_RESULT REF_HOLD; reset: 0 -/
  refHold : Bool := false
  /-- 07 R235 (retired: lane, slice); reset: none -/
  dacSlices : List (Nat × Nat) := []
  /-- 14 R403 (second slice: direction retired); reset: false -/
  retired : Bool := false
  deriving DecidableEq, Repr, Inhabited

/-- The four transmitters and bonding (R213, R229). -/
structure LineTxSt where
  /-- 07; reset: reset -/
  eng : List (Nat × TxSt) := []
  /-- 07 LINE_BOND_CFG; reset: SPACING 600 -/
  bond : W32 := 0x2580_0000#32
  deriving DecidableEq, Repr, Inhabited

/-- A line receiver (R238-R265). -/
structure RxSt where
  /-- 08 RX_CFG; reset: reset fields -/
  cfg : List W32 := [0x0402_B400#32, 0x0000_C804#32, 0x6124_0000#32, 0#32, 0#32]
  /-- 08 RX_STATUS STATE; reset: OFF -/
  state : RxState := .off
  /-- 08 RX_STATUS dRXLOS; reset: 0 -/
  los : Bool := false
  /-- 08 RX_STATUS dLOSF; reset: 0 -/
  losf : Bool := false
  /-- 08 RX_STATUS dDESC_MM; reset: 0 -/
  descMm : Bool := false
  /-- 08 RX_STATUS ACQ_CD, ACQ_CD_VALID; reset: invalid -/
  acqCd : Option Int := none
  /-- 08 R249/R258 (value applied, 10 ps/nm); reset: 0 -/
  cd : Int := 0
  /-- 08 R258 (tracked correction, 10 ps/nm); reset: 0 -/
  cdTrack : Int := 0
  /-- 08 R258; reset: 0 -/
  cdLimRun : Nat := 0
  /-- 08 RX_STATUS CD_LIMIT; reset: 0 -/
  cdLimit : Bool := false
  /-- 08 R248 (expiry held in VERIFY); reset: false -/
  huntHeld : Bool := false
  /-- 08 R248 HUNT timer, in symbols at the scale of TxSt.symPos, to the end of the row; reset: 0 -/
  huntSym : Nat := 0
  /-- 08 R249 (time in SCAN, as huntSym); reset: 0 -/
  scanSym : Nat := 0
  /-- 08 R245 (tracked offset of the far symbol clock, 10^-6 ppm); reset: 0 -/
  clkOff : Int := 0
  /-- 08 R246 (gain of a lane, 0.01 dB); reset: 0 -/
  gain : List (Nat × Int) := []
  /-- 08 R250 (most recent coarse estimate, 2^-32 turns of eight symbols); reset: 0 -/
  afc : Int := 0
  /-- 08 R259 (equaliser: output, polarisation, tap); reset: none -/
  taps : List (Int × Int) := []
  /-- 08 R260 (re-initialisation at the next header); reset: false -/
  refit : Bool := false
  /-- 08 R257 (carrier frequency, 2^-37 turns of a symbol); reset: 0 -/
  car : Int := 0
  /-- 08 R257, R261 (smoothed phase at the pilots of the last superframes with their SFC, newest first, 2^-32 turns); reset: none -/
  pilots : List (Nat × List Int) := []
  /-- 08 R249 (tone powers of the values tried, in order); reset: none -/
  tones : List Nat := []
  /-- 08 R261 (arrival of the last header, 10 ps, from run 0); reset: 0 -/
  arr : Int := 0
  /-- 08 R241 (strokes for which a loop has measured); reset: 0 -/
  calRun : List (Nat × Nat) := []
  /-- 08 R263 (estimates of the last 50 strokes, newest first); reset: none -/
  est : List (List Int) := []
  /-- 08 RX_QUALITY VALID; reset: 0 -/
  valid : Bool := false
  /-- 08 R251-R254; reset: none -/
  cand : Option Cand := none
  /-- 08 R255; reset: none -/
  runner : Option Cand := none
  /-- 08 RX_STATUS VERIFIED; reset: 0 -/
  verified : Nat := 0
  /-- 08 R253 (descriptors with wrong DCRC); reset: 0 -/
  dcrcBad : Nat := 0
  /-- 08 R256; reset: 0 -/
  misses : Nat := 0
  /-- 08 RX_STATUS LAST_PFR; reset: 0 -/
  lastPfr : Byte := 0#8
  /-- 08 RX_STATUS DESC_HI/LO; reset: 0 -/
  desc : W64 := 0#64
  /-- 08 RX_STATUS RATE_LIMIT; reset: 0 -/
  rateLimit : Bool := false
  /-- 08 RX_STATUS MAX_RS; reset: 280,000,000 -/
  maxRs : W32 := 280000000#32
  /-- 08 R244 (delay applied); reset: 0 -/
  deskew : List (Nat × Int) := []
  /-- 08 R260 (superframes with both outputs alike); reset: 0 -/
  mimoRun : Nat := 0
  /-- 08 RX_QUALITY without VALID, as updated at row 0; reset: 0 -/
  quality : List W32 := []
  /-- 08 R263 (strokes LOCKED throughout); reset: 0 -/
  lockedRun : Nat := 0
  /-- 08 RX_CAL_RESULT; reset: 0 -/
  corr : List (Nat × Int) := []
  /-- 08 RX_CAL_RESULT; reset: 0 -/
  err : List (Nat × Int) := []
  /-- 08 RX_CAL_LIMIT (strokes at a limit); reset: 0 -/
  lim : List (Nat × Nat) := []
  /-- 08 RX_CAL_LIMIT; reset: none -/
  limDecl : List Nat := []
  /-- 08 RX_CAL_RESULT REF_HOLD; reset: 0 -/
  refHold : Bool := false
  /-- 08 R243 (retired: lane, slice); reset: none -/
  adcSlices : List (Nat × Nat) := []
  /-- 14 R403; reset: false -/
  retired : Bool := false
  deriving DecidableEq, Repr, Inhabited

/-- The four receivers and joint recovery (R261). -/
structure LineRxSt where
  /-- 08; reset: reset -/
  eng : List (Nat × RxSt) := []
  /-- 08 RX_STATUS JOINT; reset: 0 -/
  joint : Bool := false
  /-- 08 JOINT_FALLBACK; reset: 0 -/
  fallback : Bool := false
  /-- 08 R261 (common phase-noise estimate every 32 symbols, 2^-32 turns); reset: none -/
  common : List Int := []
  /-- 08 R248 (engines whose four lanes were below LOS_THR when last measured at a row 0); reset: none -/
  dark : List Nat := []
  deriving DecidableEq, Repr, Inhabited

/-- One OTUC slice or FlexO instance of a receiver (R282-R286). -/
structure SliceSt where
  /-- 09 R284; reset: 0 -/
  sync : Bool := false
  /-- 09 R284; reset: 0 -/
  goodRun : Nat := 0
  /-- 09 R284; reset: 0 -/
  badRun : Nat := 0
  /-- 09 R284 (125 x SCNT16 + ROW); reset: none -/
  last : Option Nat := none
  /-- 09 LINE_OTN_STATUS RBL; reset: 0 -/
  dRbl : Bool := false
  /-- 09 R285 row aligner; reset: empty -/
  queue : List (Nat × List (Nat × Cell)) := []
  /-- 09 R284 (C taken); reset: 0 -/
  c : Nat := 0
  /-- 09 R284 (row-block bytes taken from the OPUC and not yet framed); reset: empty -/
  rx : List SByte := []
  /-- 09 R284 (payloads without a valid C since the place in the stream was known); reset: 0 -/
  resync : Nat := 0
  /-- 09 R283 (row-block bytes queued); reset: empty -/
  tx : List Byte := []
  /-- 09 R288 (parities of the last two frames received); reset: none -/
  par : List Byte := []
  /-- 09 R288 (BEI of the next frame sent); reset: 0 -/
  smBei : Nat := 0
  /-- 09 R288; reset: 0 -/
  pmBei : Nat := 0
  /-- 09 LINE_OTN_STATUS SSF; reset: 0 -/
  ssf : Bool := false
  /-- 09 R283 C of the frame formed; reset: 0 -/
  txC : Nat := 0
  /-- 09 R288 (parities of the last two frames sent); reset: none -/
  txPar : List Byte := []
  deriving DecidableEq, Repr, Inhabited

/-- OTUCn framing and monitoring of an engine, or of a FlexO port (R266-R295, R302). -/
structure OtnSt where
  /-- 09 LINE_OH_CFG; reset: reset fields -/
  oh : List W32 := [0x0080_0000#32, 0x1500_2700#32, 0x1500_2700#32, 0x07D0_0000#32]
  /-- 09 LINE_TTI_WRITE; reset: 0 -/
  ttiTx : List (Nat × List W32) := []
  /-- 09 LINE_TTI_WRITE; reset: 0 -/
  ttiExp : List (Nat × List W32) := []
  /-- 09 R289; reset: 0 -/
  ttiAcc : List (Nat × List W32) := []
  /-- 09 R289 (multiframe being collected); reset: none -/
  ttiNow : List (Nat × List Byte) := []
  /-- 09 R289; reset: none -/
  ttiPrev : List (Nat × List Byte) := []
  /-- 09 R289; reset: 0 -/
  ttiRun : List (Nat × Nat) := []
  /-- 09 LINE_OTN_STATUS CW_LOCK; reset: 0 -/
  cwLock : Bool := false
  /-- 09 R272 (phase accepted); reset: 0 -/
  cwPhase : Nat := 0
  /-- 09 R273 (iteration limit of the row); reset: 16 (FORGE) -/
  lim : Nat := 16
  /-- 09 R273 (limit before it moved); reset: 16 -/
  limPrev : Nat := 16
  /-- 09 R273 (rows since it moved); reset: 41 -/
  limRows : Nat := 41
  /-- 09 R270, R279 (decoded OTUCn bits with slag marks, not yet framed); reset: empty -/
  rxBits : List (Bool × Bool) := []
  /-- 09 R279 (bits still to come that belong to no frame); reset: 0 -/
  rxSkip : Nat := 0
  /-- 09 R262, R270 (label bits of a matcher block not yet complete); reset: none -/
  labels : List (Bool × Bool) := []
  /-- 09 R262 (place of the matcher blocks found); reset: false -/
  lblSync : Bool := false
  /-- 09 R272 (first candidate phase under test); reset: 0 -/
  cwGroup : Nat := 0
  /-- 09 R272 (phase, tried, correctable); reset: none -/
  cwTest : List (Nat × Nat × Nat) := []
  /-- 09 R272; reset: 0 -/
  cwBad : Nat := 0
  /-- 09 LINE_OTN_STATUS IN_FRAME; reset: 0 -/
  inFrame : Bool := false
  /-- 09 LINE_OTN_STATUS IN_MF; reset: 0 -/
  inMf : Bool := false
  /-- 09 R279; reset: none -/
  fasCands : List FasCand := []
  /-- 09 R279; reset: 0 -/
  frameOff : Nat := 0
  /-- 09 R280; reset: 0 -/
  fasBad : Nat := 0
  /-- 09 R281 (last received); reset: 0 -/
  mfas : Byte := 0#8
  /-- 09 R287 (of the next frame sent); reset: 0 -/
  txMfas : Byte := 0#8
  /-- 09 R277, R278 (the frame sent, slice by slice, scrambled); reset: none -/
  txFrame : List (List Byte) := []
  /-- 09 R281; reset: 0 -/
  mfBad : Nat := 0
  /-- 09 R281; reset: 0 -/
  mfGood : Nat := 0
  /-- 09 R280 (strokes in OOF); reset: 0 -/
  oofRun : Nat := 0
  /-- 09 R280 (row of its stroke in which OOF began); reset: 0 -/
  oofRow : Nat := 0
  /-- 09 R280 (strokes in frame); reset: 0 -/
  ifRun : Nat := 0
  /-- 09 R280 (row of its stroke in which the time in frame began); reset: 0 -/
  ifRow : Nat := 0
  /-- 09 R281; reset: 0 -/
  oomRun : Nat := 0
  /-- 09 R281 (row of its stroke in which OOM began); reset: 0 -/
  oomRow : Nat := 0
  /-- 09 R281; reset: 0 -/
  imRun : Nat := 0
  /-- 09 R281 (row of its stroke in which the time in multiframe began); reset: 0 -/
  imRow : Nat := 0
  /-- 09 LINE_OTN_STATUS LAT_CLASS; reset: FORGE -/
  latDraw : Bool := false
  /-- 09 LINE_OTN_STATUS ALIGN_ROWS; reset: 0 -/
  align : Option Nat := none
  /-- 09 LINE_OTN_STATUS LAST_REALIGN; reset: 0 -/
  lastRealign : Int := 0
  /-- 09 R285 (rows of slag-marked fill left); reset: 0 -/
  gapRows : Nat := 0
  /-- 09 R285; reset: none -/
  released : Option Nat := none
  /-- 09 LINE_OTN_STATUS DEFECTS; reset: 0 -/
  defects : List LineDefect := []
  /-- 09 line defects; reset: 0 -/
  onRun : List (Nat × Nat) := []
  /-- 09 line defects; reset: 0 -/
  offRun : List (Nat × Nat) := []
  /-- 09 LINE_OTN_STATUS RX_PT; reset: 0 -/
  pt : Byte := 0#8
  /-- 09 R291; reset: 0 -/
  ptLast : Byte := 0#8
  /-- 09 R291; reset: 0 -/
  ptRun : Nat := 0
  /-- 09 R282; reset: reset -/
  slices : List (Nat × SliceSt) := []
  /-- 09 R294 (frames that ended in the second); reset: 0 -/
  frames : Nat := 0
  /-- 09 dDEG-SM errored blocks of the second; reset: 0 -/
  smErr : Nat := 0
  /-- 09 dDEG-PM; reset: 0 -/
  pmErr : Nat := 0
  /-- 09 dDEG-SM runs; reset: 0 -/
  smDeg : Nat × Nat := (0, 0)
  /-- 09 dDEG-PM runs; reset: 0 -/
  pmDeg : Nat × Nat := (0, 0)
  /-- 09 R276; reset: none -/
  fec50 : List FecStroke := []
  /-- 09 R276 (the stroke in progress); reset: 0 -/
  fecNow : FecStroke := {}
  /-- 09 LINE_FEC_STATUS PRE_FEC_BER; reset: 0 -/
  preFec : W32 := 0#32
  /-- 09 LINE_FEC_STATUS VALID (strokes with codeword lock); reset: 0 -/
  cwRun : Nat := 0
  deriving DecidableEq, Repr, Inhabited

/-- A serial lane (R296, R312-R321). -/
structure LaneSt where
  /-- 10 LANE_CFG word 1; reset: 0 client, 0x2000_0000 fabric -/
  cfg1 : W32 := 0#32
  /-- 10 LANE_CFG word 2; reset: PRE 4, MAIN 52, POST 8, FOM_MIN 96 -/
  cfg2 : W32 := 0x2344_3000#32
  /-- 10 LANE_STATUS dLLOS; reset: 0 -/
  los : Bool := false
  /-- 10 R319 (rows in lock towards clearing); reset: 0 -/
  goodRows : Nat := 0
  /-- 10 LANE_STATUS RX_READY; reset: 0 -/
  rxReady : Bool := false
  /-- 10 LANE_STATUS RETIRED; reset: 0 -/
  retired : Bool := false
  /-- 10 LANE_STATUS EXT_FAIL; reset: 0 -/
  extFail : Bool := false
  /-- 10 LANE_STATUS FOM; reset: 0 -/
  fom : Byte := 0#8
  /-- 10 LANE_STATUS SKEW; reset: 0 -/
  skew : W16 := 0#16
  /-- 10 LANE_STATUS TX_PRE in force; reset: 4 -/
  pre : Nat := 4
  /-- 10 LANE_STATUS TX_MAIN in force; reset: 52 -/
  main : Nat := 52
  /-- 10 LANE_STATUS TX_POST in force; reset: 8 -/
  post : Nat := 8
  /-- 10 R309, R312, R320, R321 (PAM4 levels sent in this row: link row, training frame, pattern, or the signal received; ahead of TX_INVERT); reset: none -/
  out : List Nat := []
  /-- 10 R321 (register of the pattern generator, 0 before it starts); reset: 0 -/
  gen : Nat := 0
  /-- 10 R310 (last level sent); reset: 0 -/
  lvl : Nat := 0
  /-- 10 R310 (how often in a row); reset: 0 -/
  lvlRun : Nat := 0
  /-- 10 R313 responses sent; reset: NOT_UPDATED -/
  rsp : List Nat := [0, 0, 0]
  /-- 10 R313 last request received per tap; reset: HOLD -/
  lastReq : List Nat := [0, 0, 0]
  /-- 10 R313 requests sent; reset: HOLD -/
  req : List Nat := [0, 0, 0]
  /-- 10 R317 (strokes of the loop test run); reset: none -/
  test : Option Nat := none
  /-- 10 R320 (loopback waiting for the test's end); reset: none -/
  loopPend : Option Nat := none
  /-- 10 LANE_PRBS_READ; reset: 0 -/
  chk : Checker := {}
  deriving DecidableEq, Repr, Inhabited

/-- A client port (R297-R305). -/
structure CliPortSt where
  /-- 10 CL_PORT_STATUS dLOA; reset: 0 -/
  loa : Bool := false
  /-- 10 CL_PORT_STATUS dHI_SER; reset: 0 -/
  hiSer : Bool := false
  /-- 10 CL_PORT_STATUS LF_RX; reset: 0 -/
  lfRx : Bool := false
  /-- 10 CL_PORT_STATUS RF_RX; reset: 0 -/
  rfRx : Bool := false
  /-- 14 R397 (demapper depth: a row is 32,000); reset: DESIGN CHOICE 20 rows (KINDLE target), log 8 -/
  depth : Nat := 640000
  /-- 14 R397 (what the demapper holds for the client side); reset: empty -/
  held : List Demapped := []
  /-- 10 R315 (TRAIN_MODE 1); reset: reset -/
  tr : TrainSt := {}
  /-- 10 R302 (the OTUC and ODUC of each FlexO instance); reset: reset -/
  otn : List (Nat × OtnSt) := []
  /-- 01 R23, R27 (output of the transmit side); reset: electrical idle -/
  tx : ClientTx := .idle
  /-- 11 R340 (frame that the transmit MAC of a groomed port took last); reset: none -/
  txFrame : List Byte := []
  deriving DecidableEq, Repr, Inhabited

/-- Client ports, FlexO tributaries and all lanes (R296-R322). -/
structure CliSt where
  /-- 10 CL_PORT_CFG; reset: 0x0100_0000 -/
  portCfg : List (Nat × W32) := []
  /-- 10 R297; reset: reset -/
  port : List (Nat × CliPortSt) := []
  /-- 10 tributary entry; reset: 0 -/
  trib : List (Nat × (W32 × W32)) := []
  /-- 10 R296; reset: reset -/
  lane : List (Nat × LaneSt) := []
  /-- 10 R296; reset: reset -/
  flane : List (Nat × LaneSt) := []
  deriving DecidableEq, Repr, Inhabited

/-- A groom slot (R337-R342). -/
structure SlotSt where
  /-- 11 R338 slot buffer, whole packets not yet staged; reset: empty -/
  buf : List (List Byte) := []
  /-- 11 R339 on-chip stage (R430 slag marks); reset: empty -/
  staged : List SByte := []
  /-- 11 SLOT_STATUS CM_LAST; reset: 0 -/
  cmLast : Nat := 0
  deriving DecidableEq, Repr, Inhabited

/-- Packet grooming (R323-R345). -/
structure GrmSt where
  /-- 11 GROOM_CFG; reset: DEPTH 8, all drop -/
  cfg : List W32 := [0x0000_0008#32, 0x8000_8000#32, 0x8000_8000#32]
  /-- 11 SLOT_CFG; reset: 0x0000_0004, 0xFFF0_0000 -/
  slotCfg : List (Nat × (W32 × W32)) := []
  /-- 11 R337; reset: reset -/
  slot : List (Nat × SlotSt) := []
  /-- 11 R323 ingress queues; reset: empty -/
  inq : List (Nat × List (List Byte)) := []
  /-- 11 R323 egress queues (slot, frame); reset: empty -/
  outq : List (Nat × List (Nat × List Byte)) := []
  /-- 11 GRM_QUEUE_CFG; reset: 0 -/
  levels : List (Nat × W32) := []
  /-- 11 R325 round robin (port served last); reset: DESIGN CHOICE 47, log 3 -/
  rr : Nat := 47
  /-- 11 R340 slot served last per port; reset: none -/
  rrOut : List (Nat × Nat) := []
  /-- 11 R325 packets in flight, per port in commit order; reset: none -/
  flight : List Packet := []
  /-- 11 R326 (packet number); reset: 0 -/
  ordNo : Nat := 0
  /-- 11 R335 (bank that is ACTIVE); reset: 0 -/
  activeIs1 : Bool := false
  /-- 11 R339 (bytes that HBM let the read-out of a slot move in the stroke before); reset: none -/
  readLimit : List (Nat × Nat) := []
  /-- 11 program banks; reset: 0 -/
  prog : List (Nat × W32) := []
  /-- 11 rule banks; reset: 0 -/
  rules : List (Nat × List W32) := []
  /-- 15 R434; reset: 0 -/
  goldProg : List (Nat × W32) := []
  /-- 15 R434; reset: 0 -/
  goldRules : List (Nat × List W32) := []
  /-- 11 GROOM_STATUS PENDING_STATE; reset: SYNCED -/
  pend : GenState := .synced
  /-- 11 GROOM_STATUS GEN_NUM; reset: 0 -/
  genNum : W32 := 0#32
  /-- 11 R336 running RULE_SYNC; reset: none -/
  sync : Option Deferred := none
  /-- 11 R332; reset: empty -/
  frag : List FragEntry := []
  deriving DecidableEq, Repr, Inhabited

/-- A security context (R351-R365). -/
structure CtxSt where
  /-- 12 R357 slot 0; reset: EMPTY -/
  key0 : Option (BitVec 256) := none
  /-- 12 R357 slot 1; reset: EMPTY -/
  key1 : Option (BitVec 256) := none
  /-- 12 R350 LAST_TX; reset: cleared -/
  lastTx : List (Nat × W48) := []
  /-- 12 R361 HIGH_RX; reset: cleared -/
  highRx : List (Nat × W48) := []
  /-- 12 R350 (slots whose LAST_TX holds a value); reset: none -/
  txUsed : List Nat := []
  /-- 12 R361 (slots whose HIGH_RX holds a value); reset: none -/
  rxUsed : List Nat := []
  /-- 12 R357 (strokes run at which the sink last used the slot); reset: none -/
  usedAt : List (Nat × Nat) := []
  /-- 12 SEC_STATUS CUR; reset: 0 -/
  cur : Nat := 0
  /-- 12 SEC_STATUS STATE R354; reset: OFF -/
  state : CtxState := .off
  /-- 12 R364; reset: 0 -/
  keyLoss : Bool := false
  /-- 12 R364 (declared at the next row 0); reset: false -/
  lossDue : Bool := false
  /-- 12 SEC_STATUS FAIL_RUN; reset: 0 -/
  failRun : Nat := 0
  /-- 12 SEC_STATUS LAST_FAIL; reset: 0 -/
  lastFail : W48 := 0#48
  /-- 12 SEC_STATUS dSECLCK; reset: 0 -/
  secLck : Bool := false
  /-- 12 dSECLCK clearing frames; reset: 0 -/
  secLckOk : Nat := 0
  /-- 12 SEC_STATUS dSECMM; reset: 0 -/
  secMm : Bool := false
  deriving DecidableEq, Repr, Inhabited

/-- Security contexts and the key engine (R346-R371). -/
structure SecSt where
  /-- 12 SEC_CFG; reset: 0x0002_0000, 0, 0, 0 -/
  cfg : List (Nat × List W32) := []
  /-- 15 R434; reset: reset -/
  gold : List (Nat × List W32) := []
  /-- 12 R357; reset: reset -/
  ctx : List (Nat × CtxSt) := []
  /-- 12 KE_STATUS OWNER R367; reset: 0 -/
  owner : Nat := 0
  /-- 12 KE_STATUS HELD; reset: 0 -/
  held : Nat := 0
  /-- 12 R369 (commands waiting for KEY_LOCK); reset: none -/
  wait : List KeyWait := []
  /-- 12 R367 (command whose sequence holds KEY_LOCK as the key service); reset: none -/
  seq : Option Deferred := none
  /-- 12 KE_STATUS ENT_FAIL; reset: 0 -/
  entFail : Bool := false
  /-- 12 KE_STATUS KE_FAILED; reset: 0 -/
  keFailed : Bool := false
  /-- 12 KE_STATUS RESEED_AGE; reset: 0 -/
  reseedAge : Nat := 0
  /-- 12 R370 (the entropy source has passed its start-up test); reset: 0 -/
  entUp : Bool := false
  /-- 12 R370 (state of the DRBG at its last reseed); reset: not seeded -/
  drbg : Drbg := {}
  /-- 12 R370 (generate requests since the last reseed); reset: 0 -/
  gens : Nat := 0
  deriving DecidableEq, Repr, Inhabited

/-- A housekeeping converter (R372-R378). -/
structure HkSt where
  /-- 13 HK_CFG; reset: COUNT 1, LEN 1 -/
  cfg : List W32 := [0x0001_0000#32, 0#32, 0x0000_0040#32]
  /-- 13 R374 (commanded trigger due at this row 0); reset: false -/
  trig : Bool := false
  /-- 13 HK_RESULT RUNNING R374; reset: not running -/
  running : Option HkRun := none
  /-- 13 HK_RESULT OVR; reset: 0 -/
  ovr : Bool := false
  /-- 13 HK_RESULT SEQ_SCNT_LO; reset: 0 -/
  seqScnt : W32 := 0#32
  /-- 13 R378; reset: empty -/
  filt : List (Nat × HkFilter) := []
  deriving DecidableEq, Repr, Inhabited

/-- A heater or control-voltage output (R379-R382). -/
structure OutSt where
  /-- 13 OUT_CFG word 1; reset: 0 -/
  cfg1 : W32 := 0#32
  /-- 13 R380 VALUE; reset: 0 -/
  value : Nat := 0
  /-- 13 R382; reset: 0 -/
  openRun : Nat := 0
  /-- 13 R382; reset: 0 -/
  okRun : Nat := 0
  /-- 13 OUT_STATUS FAULT; reset: 0 -/
  htrOpen : Bool := false
  deriving DecidableEq, Repr, Inhabited

/-- A bias loop (R383-R387). -/
structure BlSt where
  /-- 13 BL_CFG; reset: reset fields -/
  cfg : List W32 := [0x0000_100A#32, 0x0001_0010#32, 0#32]
  /-- 13 R384/R387 (T0; none: not running); reset: not running -/
  t0 : Option Nat := none
  /-- 13 BL_STATUS BASE; reset: 0 -/
  base : Nat := 0
  /-- 13 BL_STATUS SIGN; reset: 0 -/
  sign : Bool := false
  /-- 13 R385 (stroke run, RAW); reset: none -/
  samples : List (Nat × Nat) := []
  /-- 13 R385 (window number j); reset: 0 -/
  window : Nat := 0
  /-- 13 BL_STATUS LIMIT; reset: 0 -/
  limit : Bool := false
  /-- 13 BL_STATUS LAST_C; reset: 0 -/
  lastC : Int := 0
  /-- 13 BL_STATUS CORR_SCNT_LO; reset: 0 -/
  corrScnt : W32 := 0#32
  /-- 13 R386 (move due at the next row 0); reset: none -/
  newBase : Option Nat := none
  deriving DecidableEq, Repr, Inhabited

/-- An I2C master (R391, R392). -/
structure I2cSt where
  /-- 13 I2C_CFG; reset: STRETCH_MS 25 -/
  cfg : W32 := 0x0000_0019#32
  /-- 13 R392 running transfer; reset: none -/
  xfer : Option Deferred := none
  /-- 13 R392 (QUENCH ends the transfer); reset: false -/
  abort : Bool := false
  /-- 13 R392 (what the master sent in its last transfer); reset: none -/
  sent : List I2cSym := []
  deriving DecidableEq, Repr, Inhabited

/-- Optics control (R372-R393). -/
structure OptSt where
  /-- 13 R372; reset: reset -/
  hk : List (Nat × HkSt) := []
  /-- 13 R379; reset: reset -/
  out : List (Nat × OutSt) := []
  /-- 13 OUT_CFG word 2; reset: 0xFFFF_0052 -/
  htrCfg2 : List (Nat × W32) := []
  /-- 13 OUT_CFG word 2; reset: 0xFFFF_028F -/
  ctlvCfg2 : List (Nat × W32) := []
  /-- 13 R383; reset: reset -/
  bl : List (Nat × BlSt) := []
  /-- 13 R391; reset: reset -/
  i2c : List (Nat × I2cSt) := []
  /-- 13 OPT_STATUS VREF_OOR; reset: 0 -/
  vrefOor : Bool := false
  /-- 13 R388 (judgement at the start of KINDLE calibration is due); reset: false -/
  vrefDue : Bool := false
  /-- 13 R388 (consecutive judgements in range); reset: 0 -/
  vrefOk : Nat := 0
  /-- 13 OPT_STATUS VREF_CODE; reset: 0 -/
  vrefCode : W16 := 0#16
  /-- 13 OPT_STATUS VREF_SCNT_LO; reset: 0 -/
  vrefScnt : W32 := 0#32
  deriving DecidableEq, Repr, Inhabited

/-- Modes, severe faults, management cores (R394-R405). -/
structure ModeSt where
  /-- 03 SYS_STATUS MODE R394; reset: KINDLE -/
  mode : Mode := .kindle
  /-- 03 SYS_STATUS ORIGIN; reset: KINDLE -/
  origin : Mode := .kindle
  /-- 14 MODE_CFG; reset: CFI_LIMIT 16, CFI_WINDOW 60 -/
  cfg : W32 := 0x0010_003C#32
  /-- 14 MODE_STATUS AUTO_BLOCKED; reset: 0 -/
  autoBlocked : Bool := false
  /-- 14 MODE_STATUS DEPTH_SETTLED; reset: 1 -/
  depthSettled : Bool := true
  /-- 14 R399 (faults of the second in progress); reset: 0 -/
  cfiNow : Nat := 0
  /-- 14 R399; reset: none -/
  cfiPast : List Nat := []
  /-- 14 MODE_STATUS FAULT; reset: 0 -/
  latched : List SevereFault := []
  /-- 14 R402 (conditions that hold); reset: none -/
  present : List SevereFault := []
  /-- 14 R402; reset: 0 -/
  thermWarn : Bool := false
  /-- 14 R402 (strokes with every sensor below 100.0 °C); reset: 0 -/
  coolRun : Nat := 0
  /-- 14 MODE_STATUS TJ; reset: 0 -/
  tj : W16 := 0#16
  /-- 14 R403 retired cores; reset: none -/
  coresLost : List Nat := []
  /-- 14 R398 (cores in self-test); reset: none -/
  coreTest : List Nat := []
  /-- 14 R398; reset: false -/
  lockstep : Bool := false
  /-- 14 R398 (the command in progress returns INTERNAL); reset: false -/
  miscompare : Bool := false
  /-- 14 R404 RPLC_N asserted; reset: 0 -/
  rplc : Bool := false
  /-- 14 R404 (retirements that take effect at the next row 0: fault-record CODE, UNIT, DETAIL); reset: none -/
  retireDue : List (Nat × Nat × Nat) := []
  /-- 14 R403 retired switch banks; reset: none -/
  swBanksLost : List Nat := []
  deriving DecidableEq, Repr, Inhabited

/-- Boot, images and OTP (R406-R412). -/
structure BootSt where
  /-- 14 BOOT_STATUS STAGE; reset: ROM_START -/
  stage : BootStage := .romStart
  /-- 03 SYS_STATUS BOOT_ROM; reset: 1 -/
  rom : Bool := true
  /-- 14 BOOT_STATUS LAST_ERR; reset: 0 -/
  lastErr : Nat := 0
  /-- 14 BOOT_STATUS BOOT_AUTH; reset: 0 -/
  bootAuth : Bool := false
  /-- 14 BOOT_STATUS SOURCE; reset: 0 -/
  source : Nat := 0
  /-- 14 BOOT_STATUS SIGNER; reset: 0 -/
  signer : Nat := 0
  /-- 14 BOOT_STATUS RUN_SVN; reset: 0 -/
  runSvn : Byte := 0#8
  /-- 03 SYS_STATUS FW_VERSION; reset: 0 -/
  fwVersion : W32 := 0#32
  /-- 14 R417 (bytes 0-511 of the running image); reset: none -/
  runHead : List (Nat × W32) := []
  /-- 14 BOOT_STATUS BOOT_COUNT; reset: stored; DESIGN CHOICE 0, log 9 -/
  bootCount : W32 := 0#32
  /-- 14 R406 flash copy A; reset: DESIGN CHOICE erased, log 9 -/
  flashA : List (Nat × W32) := []
  /-- 14 R406 flash copy B; reset: DESIGN CHOICE erased, log 9 -/
  flashB : List (Nat × W32) := []
  /-- 14 R411; reset: empty -/
  staged : List (Nat × W32) := []
  /-- 14 R411 (a word has been staged since the area was emptied); reset: false -/
  stagedAny : Bool := false
  /-- 14 R409; reset: fused; DESIGN CHOICE slot 0 programmed with hash 0, log 9 -/
  slots : List (Nat × SignerSlot) := [(0, { hash := List.replicate 12 0#32, programmed := true })]
  /-- 14 BOOT_STATUS FUSES R410; reset: fused; DESIGN CHOICE 0, log 9 -/
  fuses : Nat := 0
  /-- 14 R406 (copies read in full); reset: none -/
  tried : List Nat := []
  /-- 14 R411 running IMAGE_INSTALL (true: copy B; the staged image); reset: none -/
  install : Option (Bool × List (Nat × W32) × Deferred) := none
  /-- 14 R410 running ROLLBACK_ADVANCE; reset: none -/
  rollback : Option Deferred := none
  /-- 14 R412 (strokes run at which SYS_RESTART executed); reset: none -/
  restart : Option Nat := none
  /-- 14 R400 (a severe fault stopped the boot); reset: false -/
  stopped : Bool := false
  /-- 14 R400 (calibration after QUENCH_EXIT); reset: false -/
  calib : Bool := false
  deriving DecidableEq, Repr, Inhabited

/-- Authentication, transport and provisioning keys (R413-R415). -/
structure KeySt where
  /-- 14 R414; reset: empty (stored; log 9) -/
  ak : List (Nat × AuthKey) := []
  /-- 14 R414; reset: empty (stored; log 9) -/
  tk : List (Nat × BitVec 256) := []
  /-- 14 R413; reset: none -/
  pk : Option (BitVec 256) := none
  deriving DecidableEq, Repr, Inhabited

/-- The content of a profile slot (R419). -/
structure Profile where
  /-- 14 R420 (the header is written and the content matches its hash); reset: true -/
  valid : Bool := true
  /-- 14 R419 SEQ; reset: 0 -/
  seq : W32 := 0#32
  /-- 14 R419; reset: 0 -/
  restoreAtBoot : Bool := false
  /-- 14 STORE_STATUS USED_KIB; reset: 0 -/
  kib : Nat := 0
  /-- 14 R419 SHA-384 of the content; reset: 0 -/
  hash : List W32 := []
  /-- 14 R419; reset: empty -/
  map : List (Nat × W32) := []
  /-- 14 R419; reset: reset -/
  cont : List (Nat × ContEntry) := []
  /-- 14 R419; reset: reset -/
  pg : List (Nat × List W32) := []
  /-- 14 R419; reset: reset -/
  refCfg : List (Nat × W32) := []
  /-- 14 R419; reset: reset -/
  clk : List W32 := []
  /-- 14 R419; reset: reset -/
  stroke : List W32 := []
  /-- 14 R419 QUEUE_CFG; reset: reset -/
  levels : List Nat := []
  /-- 14 R419 QUEUE_CFG words 12-14; reset: reset -/
  queue : List W32 := []
  /-- 14 R419 ACCESS_POLICY; reset: reset -/
  policy : List W32 := []
  /-- 14 R419; reset: reset -/
  modeCfg : W32 := 0#32
  /-- 14 R419 (ORIGIN in ANNEAL); reset: FORGE -/
  mode : Mode := .forge
  /-- 14 R419 FAB_CFG; reset: reset -/
  fab : W32 := 0#32
  /-- 14 R419; reset: reset -/
  fabPort : List (Nat × List W32) := []
  /-- 14 R419 TX_CFG; reset: reset -/
  tx : List (Nat × List W32) := []
  /-- 14 R419 TX_PREEMPH; reset: reset -/
  txPre : List (Nat × List W32) := []
  /-- 14 R419 TX_CAL_CFG targets; reset: reset -/
  txTarget : List (Nat × List (Nat × Int)) := []
  /-- 14 R419 LINE_BOND_CFG; reset: reset -/
  bond : W32 := 0#32
  /-- 14 R419 RX_CFG; reset: reset -/
  rx : List (Nat × List W32) := []
  /-- 14 R419 LINE_OH_CFG; reset: reset -/
  oh : List (Nat × List W32) := []
  /-- 14 R419 the TTIs; reset: reset -/
  tti : List (Nat × List W32) := []
  /-- 14 R419 CL_PORT_CFG; reset: reset -/
  cliPort : List (Nat × W32) := []
  /-- 14 R419; reset: reset -/
  trib : List (Nat × (W32 × W32)) := []
  /-- 14 R419 LANE_CFG; reset: reset -/
  lane : List (Nat × (W32 × W32)) := []
  /-- 14 R419 GROOM_CFG; reset: reset -/
  groom : List W32 := []
  /-- 14 R419; reset: reset -/
  slot : List (Nat × (W32 × W32)) := []
  /-- 14 R419; reset: reset -/
  prog : List (Nat × W32) := []
  /-- 14 R419 (valid rules of ACTIVE); reset: reset -/
  rules : List (Nat × List W32) := []
  /-- 14 R419; reset: reset -/
  sec : List (Nat × List W32) := []
  /-- 14 R419 HK_CFG; reset: reset -/
  hk : List (Nat × List W32) := []
  /-- 14 R419 OUT_CFG; reset: reset -/
  out : List (Nat × (W32 × W32)) := []
  /-- 14 R419 BL_CFG with B as SETPOINT; reset: reset -/
  bl : List (Nat × List W32) := []
  /-- 14 R419; reset: reset -/
  i2c : List (Nat × W32) := []
  /-- 14 R419 (wrapped); reset: empty -/
  ak : List (Nat × StoredKey) := []
  /-- 14 R419 (wrapped); reset: empty -/
  tk : List (Nat × StoredKey) := []
  deriving DecidableEq, Repr, Inhabited

/-- A running STORE (R419). -/
structure StoreRun where
  /-- 14 R419; reset: none -/
  cmd : Deferred := default
  /-- 14 R419; reset: 0 -/
  restoreAtBoot : Bool := false
  /-- 14 R419 (the slot that is written); reset: A -/
  toB : Bool := false
  /-- 14 R419 (captured at the row 0 after its execution); reset: none -/
  content : Option Profile := none
  /-- 14 R419, 12 R367 (the sequence that wraps the secrets has ended); reset: false -/
  wrapped : Bool := false
  deriving DecidableEq, Repr, Inhabited

/-- Profile store, fault record and retirement map (R418-R424). -/
structure StoreSt where
  /-- 14 R418; reset: stored; DESIGN CHOICE none, log 9 -/
  slotA : Option Profile := none
  /-- 14 R418; reset: stored; DESIGN CHOICE none, log 9 -/
  slotB : Option Profile := none
  /-- 14 STORE_STATUS COUNT_A; reset: stored; 0, log 9 -/
  countA : W16 := 0#16
  /-- 14 STORE_STATUS COUNT_B; reset: stored; 0, log 9 -/
  countB : W16 := 0#16
  /-- 14 R419 running STORE; reset: none -/
  store : Option StoreRun := none
  /-- 14 R422 running PROFILE_ERASE; reset: none -/
  erase : Option Deferred := none
  /-- 14 R417 running ATTESTs; reset: none -/
  attest : List Deferred := []
  /-- 14 STORE_STATUS RESTORED; reset: 0 -/
  restored : Bool := false
  /-- 14 R421 (restore stroke is the next row 0); reset: false -/
  restoreDue : Bool := false
  /-- 14 R423; reset: stored; DESIGN CHOICE empty, log 9 -/
  record : List FaultEntry := []
  /-- 14 R423; reset: stored; 0, log 9 -/
  serial : W32 := 0#32
  /-- 14 RETIRE_MAP; reset: stored; DESIGN CHOICE 0, log 9 -/
  retire : List W32 := []
  deriving DecidableEq, Repr, Inhabited

/-- One monitored entity (R446, R447). -/
structure PmRec where
  /-- 15 R446 near-end errored blocks of the second; reset: 0 -/
  errNe : Nat := 0
  /-- 15 R446 far-end; reset: 0 -/
  errFe : Nat := 0
  /-- 15 R446 near-end defect in this second; reset: 0 -/
  defNe : Bool := false
  /-- 15 R446 far-end; reset: 0 -/
  defFe : Bool := false
  /-- 15 R446 (not enabled throughout); reset: false -/
  off : Bool := false
  /-- 15 PEND_NE; reset: none -/
  openNe : List SecCount := []
  /-- 15 PEND_FE; reset: none -/
  openFe : List SecCount := []
  /-- 15 UNAV_NE; reset: 0 -/
  unavNe : Bool := false
  /-- 15 UNAV_FE; reset: 0 -/
  unavFe : Bool := false
  /-- 15 NE_ES..NE_UAS; reset: 0 -/
  ne : List Nat := [0, 0, 0, 0]
  /-- 15 FE_ES..FE_UAS; reset: 0 -/
  fe : List Nat := [0, 0, 0, 0]
  /-- 15 ENABLED; reset: 0 -/
  enabled : Bool := false
  deriving DecidableEq, Repr, Inhabited

/-- Performance monitoring and snapshots (R446-R448). -/
structure PmSt where
  /-- 15 R446; reset: 0 -/
  ent : List (Nat × PmRec) := []
  /-- 15 R448 SNAP registers; reset: 0 -/
  snap : List (Nat × PmRec) := []
  /-- 15 SNAP_SEQ; reset: 0 -/
  snapSeq : W32 := 0#32
  /-- 15 CAUSE; reset: 0 -/
  snapCause : Nat := 0
  /-- 15 SNAP_SCNT; reset: 0 -/
  snapScnt : W48 := 0#48
  /-- 15 R448 (PM_SNAP at this row 0); reset: false -/
  snapAsked : Bool := false
  /-- 15 R429 (snapshot counters with a slag mark); reset: none -/
  bad : List Nat := []
  deriving DecidableEq, Repr, Inhabited

/-- Memory integrity and arbitration (R426-R445). -/
structure IntegSt where
  /-- 15 ARB_CFG word 0; reset: 32, 64, 64, 16 -/
  arb0 : W32 := 0x2040_4010#32
  /-- 15 ARB_CFG word 1; reset: 0, 64, 8 -/
  arb1 : W32 := 0x0000_4008#32
  /-- 15 INTEG_STATUS UE_TABLE; reset: 0 -/
  ueTable : Byte := 0#8
  /-- 15 INTEG_STATUS UE_INDEX; reset: 0 -/
  ueIndex : BitVec 24 := 0#24
  /-- 15 INTEG_STATUS GF_TABLE; reset: 0 -/
  gfTable : Byte := 0#8
  /-- 15 INTEG_STATUS GF_INDEX; reset: 0 -/
  gfIndex : BitVec 24 := 0#24
  /-- 15 INTEG_STATUS MAP_PASSES; reset: 0 -/
  mapPasses : W16 := 0#16
  /-- 15 INTEG_STATUS TABLE_PASSES; reset: 0 -/
  tablePasses : W16 := 0#16
  /-- 15 R432 (next map word); reset: 0 -/
  mapPos : Nat := 0
  /-- 15 R432 (next word of tables 2-10); reset: 0 -/
  tablePos : Nat := 0
  /-- 15 R40 (map words left in this stroke); reset: 0 -/
  mapLeft : Nat := 0
  /-- 15 R40 (other words left); reset: 0 -/
  tableLeft : Nat := 0
  /-- 15 R434 (table, index) restorations awaited; reset: none -/
  restore : List (Nat × Nat) := []
  /-- 15 R430, R435 (golden copies unreadable: table, index, CRC, stack); reset: none -/
  goldBad : List (Nat × Nat × Bool × Nat) := []
  /-- 15 R427, R428 (flipped bits of a stored table word: 0-31 data, 32 + 6k + c check bit Cc of byte k; all check bits of a slag-marked word); reset: none -/
  flips : List (Nat × List Nat) := []
  /-- 15 R444 (debug access in this stroke); reset: false -/
  dbg : Bool := false
  /-- 15 R445 (requester, strokes without a beat); reset: none -/
  hbmOwner : List (Nat × Nat) := []
  deriving DecidableEq, Repr, Inhabited

/-- The whole block. `pending` is the queue of commands that wait, first in, first out; `free` counts the free values drawn. -/
structure State where
  pending : List Instr := []
  /-- the pending-commit table in execution order (R33), with the writes that carry no commit stroke (R12) -/
  commits : List Commit := []
  /-- MODEL: number of free values drawn so far (log entry 10) -/
  free : Nat := 0
  /-- OTUCn units of engines 0-3 (R266-R295) -/
  otn : List (Nat × OtnSt) := []
  fused : Fused := {}
  pins : PinSt := {}
  stk : StrokeSt := {}
  clk : ClkSt := {}
  root : RootSt := {}
  cmd : CmdSt := {}
  ev : EvSt := {}
  anvil : AnvilSt := {}
  rows : RowSt := {}
  cont : ContSt := {}
  diag : DiagSt := {}
  prot : ProtSt := {}
  fab : FabSt := {}
  tx : LineTxSt := {}
  rx : LineRxSt := {}
  cli : CliSt := {}
  grm : GrmSt := {}
  sec : SecSt := {}
  opt : OptSt := {}
  mode : ModeSt := {}
  boot : BootSt := {}
  keys : KeySt := {}
  store : StoreSt := {}
  pm : PmSt := {}
  integ : IntegSt := {}
  deriving DecidableEq, Repr, Inhabited

/-- The block right after reset: every field at its default, which is the value INVENTORY.md lists for it. -/
def State.reset : State := {}

/-- Reasons a step can stop for good. No command of the spec stops the block, so no meaning raises one. -/
inductive Fault where
  /-- raised by nothing; safe -/
  | none
  deriving DecidableEq, Repr

/-- Reasons a command can be refused by the model. -/
inductive Refusal where
  /-- raised by an arm of `exec` whose command has no meaning yet; safe, since nothing is claimed of it -/
  | notModelled (mnemonic : String)
  deriving DecidableEq, Repr

end Sys2Proof.Machine
end

