-- ==== Sys2Proof/Machine/Update.lean ====
section
/-! DEFINITION. One named update per field of `State`; every meaning writes the state through these. -/

namespace Sys2Proof.Machine

def State.onPending (s : State) (f : List Instr → List Instr) : State := { s with pending := f s.pending }
def State.onCommits (s : State) (f : List Commit → List Commit) : State := { s with commits := f s.commits }
def State.onFree (s : State) (f : Nat → Nat) : State := { s with free := f s.free }
def State.onOtn (s : State) (f : List (Nat × OtnSt) → List (Nat × OtnSt)) : State := { s with otn := f s.otn }
def State.onFused (s : State) (f : Fused → Fused) : State := { s with fused := f s.fused }
def State.onPins (s : State) (f : PinSt → PinSt) : State := { s with pins := f s.pins }
def State.onStk (s : State) (f : StrokeSt → StrokeSt) : State := { s with stk := f s.stk }
def State.onClk (s : State) (f : ClkSt → ClkSt) : State := { s with clk := f s.clk }
def State.onRoot (s : State) (f : RootSt → RootSt) : State := { s with root := f s.root }
def State.onCmd (s : State) (f : CmdSt → CmdSt) : State := { s with cmd := f s.cmd }
def State.onEv (s : State) (f : EvSt → EvSt) : State := { s with ev := f s.ev }
def State.onAnvil (s : State) (f : AnvilSt → AnvilSt) : State := { s with anvil := f s.anvil }
def State.onRows (s : State) (f : RowSt → RowSt) : State := { s with rows := f s.rows }
def State.onCont (s : State) (f : ContSt → ContSt) : State := { s with cont := f s.cont }
def State.onDiag (s : State) (f : DiagSt → DiagSt) : State := { s with diag := f s.diag }
def State.onProt (s : State) (f : ProtSt → ProtSt) : State := { s with prot := f s.prot }
def State.onFab (s : State) (f : FabSt → FabSt) : State := { s with fab := f s.fab }
def State.onTx (s : State) (f : LineTxSt → LineTxSt) : State := { s with tx := f s.tx }
def State.onRx (s : State) (f : LineRxSt → LineRxSt) : State := { s with rx := f s.rx }
def State.onCli (s : State) (f : CliSt → CliSt) : State := { s with cli := f s.cli }
def State.onGrm (s : State) (f : GrmSt → GrmSt) : State := { s with grm := f s.grm }
def State.onSec (s : State) (f : SecSt → SecSt) : State := { s with sec := f s.sec }
def State.onOpt (s : State) (f : OptSt → OptSt) : State := { s with opt := f s.opt }
def State.onMode (s : State) (f : ModeSt → ModeSt) : State := { s with mode := f s.mode }
def State.onBoot (s : State) (f : BootSt → BootSt) : State := { s with boot := f s.boot }
def State.onKeys (s : State) (f : KeySt → KeySt) : State := { s with keys := f s.keys }
def State.onStore (s : State) (f : StoreSt → StoreSt) : State := { s with store := f s.store }
def State.onPm (s : State) (f : PmSt → PmSt) : State := { s with pm := f s.pm }
def State.onInteg (s : State) (f : IntegSt → IntegSt) : State := { s with integ := f s.integ }

end Sys2Proof.Machine
end

