-- ==== Sys2Proof/Machine/Flags.lean ====
section
/-! DEFINITION. What every event does to the status and interrupt flags: its counter, and its entry in the event log (R449, R454). -/

namespace Sys2Proof.Machine

/-! ### Counters and log (R449, R454) -/

/-- An occurrence or clearing enters the event log while its class and code are enabled (R454). -/
def logEvent (e : Ev) (inst n : Nat) (clear : Bool) (s : State) : State :=
  if (s.ev.maskOff.contains (e.cls * 256 + e.code)) then s
  else
    let id := evId e inst
    if s.ev.log.any (fun x => x.id = id && x.clear == clear) then
      s.onEv fun v => { v with log := v.log.map fun x => if x.id = id && x.clear == clear then { x with occur := satAdd 65535 x.occur n } else x }
    else if s.ev.log.length < 256 then
      s.onEv fun v => { v with log := v.log ++ [{ id := id, clear := clear, ovf := v.ovf, occur := satAdd 65535 0 n, scnt := s.stk.scnt }], ovf := false }
    else
      s.onEv fun v => { v with ovf := true, counters := tmod 0#48 v.counters (evId evIntEvtLogOvf 0) (· + 1#48) }

/-- `n` occurrences of an event: its counter, and the log where the event bears an interrupt. -/
def note (e : Ev) (inst n : Nat) (s : State) : State :=
  if n = 0 then s
  else
    let s := s.onEv fun v => { v with counters := tmod 0#48 v.counters (evId e inst) (· + BitVec.ofNat 48 n) }
    if evIntr e.cls e.code then logEvent e inst n false s else s

/-- A declared event clears. -/
def noteClear (e : Ev) (inst : Nat) (s : State) : State :=
  if evIntr e.cls e.code then logEvent e inst 1 true s else s

/-- A declared event changes from `was` to `now`. -/
def noteChange (e : Ev) (inst : Nat) (was now : Bool) (s : State) : State :=
  if now && !was then note e inst 1 s else if was && !now then noteClear e inst s else s

/-- Count of an event. -/
def counter (s : State) (e : Ev) (inst : Nat) : W48 := tget 0#48 s.ev.counters (evId e inst)

/-- `n` occurrences of an event that bears no interrupt, or whose declaration is logged apart: its counter alone. -/
def tally (e : Ev) (inst n : Nat) (s : State) : State :=
  s.onEv fun v => { v with counters := tmod 0#48 v.counters (evId e inst) (· + BitVec.ofNat 48 n) }

/-- A row of engine e with a limited sample counts in TX_CLIP, or not (R221). The counts of this one event stand apart: only they depend on the samples. -/
def noteClip (e : Nat) (limited : Bool) (s : State) : State :=
  s.onEv fun v => { v with clips := tmod 0#48 v.clips (evId evLinTxClip e) (· + BitVec.ofNat 48 (flag limited)) }

def isClip (id : Nat) : Bool := decide (id % 256 = evLinTxClip.code) && decide (id / 2 ^ 24 % 256 = evLinTxClip.cls)

/-- What the counter of an EVENT_ID shows. -/
def countOf (s : State) (id : Nat) : W48 := if isClip id then tget 0#48 s.ev.counters id + tget 0#48 s.ev.clips id else tget 0#48 s.ev.counters id

end Sys2Proof.Machine
end

