-- ==== Sys2Proof/Machine/Opcodes.lean ====
section
/-! DEFINITION. The opcode tables of the spec: code, access level, commit-stroke rule and the modes in which each opcode is accepted. -/

namespace Sys2Proof.Machine

/-- Level column; `counter` is R97. -/
inductive LevelRule where
  | observer | operator | admin | counter
  deriving DecidableEq, Repr

/-- Commit-stroke column. -/
inductive CmtRule where
  | never | optional | required
  deriving DecidableEq, Repr

/-- One row of an opcode table. `q`: accepted in QUENCH (R98). `rom`: served by the boot ROM (R98). -/
structure OpInfo where
  code : Nat
  level : LevelRule
  cmt : CmtRule
  q : Bool
  rom : Bool := false
  deriving DecidableEq, Repr

/-- ECHO (03_polast_commands.md) -/
def opEcho : OpInfo := { code := 0x0001, level := .observer, cmt := .never, q := true, rom := true }
/-- CAPS_READ (03_polast_commands.md) -/
def opCapsRead : OpInfo := { code := 0x0002, level := .observer, cmt := .never, q := false }
/-- SYS_STATUS_READ (03_polast_commands.md) -/
def opSysStatusRead : OpInfo := { code := 0x0003, level := .observer, cmt := .never, q := true, rom := true }
/-- QUEUE_STATUS_READ (03_polast_commands.md) -/
def opQueueStatusRead : OpInfo := { code := 0x0004, level := .observer, cmt := .never, q := true }
/-- QUEUE_CFG (03_polast_commands.md) -/
def opQueueCfg : OpInfo := { code := 0x0005, level := .operator, cmt := .never, q := true }
/-- QUEUE_FLUSH (03_polast_commands.md) -/
def opQueueFlush : OpInfo := { code := 0x0006, level := .operator, cmt := .never, q := true }
/-- ACCESS_POLICY_READ (03_polast_commands.md) -/
def opAccessPolicyRead : OpInfo := { code := 0x0007, level := .observer, cmt := .never, q := true }
/-- ACCESS_POLICY_WRITE (03_polast_commands.md) -/
def opAccessPolicyWrite : OpInfo := { code := 0x0008, level := .admin, cmt := .never, q := false }
/-- INT_CLEAR (03_polast_commands.md) -/
def opIntClear : OpInfo := { code := 0x0009, level := .operator, cmt := .never, q := true }
/-- STROKE_READ (02_stroke_and_clocks.md) -/
def opStrokeRead : OpInfo := { code := 0x0100, level := .observer, cmt := .never, q := true }
/-- STROKE_SET (02_stroke_and_clocks.md) -/
def opStrokeSet : OpInfo := { code := 0x0101, level := .admin, cmt := .never, q := false }
/-- STROKE_CFG (02_stroke_and_clocks.md) -/
def opStrokeCfg : OpInfo := { code := 0x0102, level := .admin, cmt := .optional, q := false }
/-- STROKE_JOIN (02_stroke_and_clocks.md) -/
def opStrokeJoin : OpInfo := { code := 0x0103, level := .admin, cmt := .required, q := false }
/-- REF_CFG (02_stroke_and_clocks.md) -/
def opRefCfg : OpInfo := { code := 0x0110, level := .operator, cmt := .optional, q := false }
/-- REF_STATUS_READ (02_stroke_and_clocks.md) -/
def opRefStatusRead : OpInfo := { code := 0x0111, level := .observer, cmt := .never, q := true }
/-- REF_FORCE (02_stroke_and_clocks.md) -/
def opRefForce : OpInfo := { code := 0x0112, level := .operator, cmt := .optional, q := false }
/-- CLK_CFG (02_stroke_and_clocks.md) -/
def opClkCfg : OpInfo := { code := 0x0113, level := .operator, cmt := .optional, q := false }
/-- COMMIT_LIST_READ (02_stroke_and_clocks.md) -/
def opCommitListRead : OpInfo := { code := 0x0120, level := .observer, cmt := .never, q := true }
/-- COMMIT_CANCEL (02_stroke_and_clocks.md) -/
def opCommitCancel : OpInfo := { code := 0x0121, level := .admin, cmt := .never, q := false }
/-- MAP_WRITE (04_anvil_cross_connect.md) -/
def opMapWrite : OpInfo := { code := 0x0200, level := .operator, cmt := .never, q := false }
/-- MAP_COMMIT (04_anvil_cross_connect.md) -/
def opMapCommit : OpInfo := { code := 0x0201, level := .operator, cmt := .optional, q := false }
/-- MAP_SYNC (04_anvil_cross_connect.md) -/
def opMapSync : OpInfo := { code := 0x0202, level := .operator, cmt := .never, q := false }
/-- MAP_READ (04_anvil_cross_connect.md) -/
def opMapRead : OpInfo := { code := 0x0203, level := .observer, cmt := .never, q := true }
/-- MAP_STATUS_READ (04_anvil_cross_connect.md) -/
def opMapStatusRead : OpInfo := { code := 0x0204, level := .observer, cmt := .never, q := true }
/-- CONT_CFG (04_anvil_cross_connect.md) -/
def opContCfg : OpInfo := { code := 0x0210, level := .operator, cmt := .optional, q := false }
/-- CONT_READ (04_anvil_cross_connect.md) -/
def opContRead : OpInfo := { code := 0x0211, level := .observer, cmt := .never, q := true }
/-- CONT_STATUS_READ (04_anvil_cross_connect.md) -/
def opContStatusRead : OpInfo := { code := 0x0212, level := .observer, cmt := .never, q := true }
/-- PG_CFG (05_errorless_protection.md) -/
def opPgCfg : OpInfo := { code := 0x0300, level := .operator, cmt := .optional, q := false }
/-- PG_READ (05_errorless_protection.md) -/
def opPgRead : OpInfo := { code := 0x0301, level := .observer, cmt := .never, q := true }
/-- PG_STATUS_READ (05_errorless_protection.md) -/
def opPgStatusRead : OpInfo := { code := 0x0302, level := .observer, cmt := .never, q := true }
/-- PG_CMD (05_errorless_protection.md) -/
def opPgCmd : OpInfo := { code := 0x0303, level := .operator, cmt := .optional, q := false }
/-- ALN_REALIGN (05_errorless_protection.md) -/
def opAlnRealign : OpInfo := { code := 0x0304, level := .operator, cmt := .optional, q := false }
/-- ALN_STATUS_READ (05_errorless_protection.md) -/
def opAlnStatusRead : OpInfo := { code := 0x0305, level := .observer, cmt := .never, q := true }
/-- PG_SUMMARY_READ (05_errorless_protection.md) -/
def opPgSummaryRead : OpInfo := { code := 0x0306, level := .observer, cmt := .never, q := true }
/-- FAB_CFG (06_fistan_fabric.md) -/
def opFabCfg : OpInfo := { code := 0x0400, level := .admin, cmt := .optional, q := false }
/-- FAB_STATUS_READ (06_fistan_fabric.md) -/
def opFabStatusRead : OpInfo := { code := 0x0401, level := .observer, cmt := .never, q := true }
/-- FAB_PORT_CFG (06_fistan_fabric.md) -/
def opFabPortCfg : OpInfo := { code := 0x0402, level := .operator, cmt := .optional, q := false }
/-- FAB_PORT_STATUS_READ (06_fistan_fabric.md) -/
def opFabPortStatusRead : OpInfo := { code := 0x0403, level := .observer, cmt := .never, q := true }
/-- FAB_ROUTE_READ (06_fistan_fabric.md) -/
def opFabRouteRead : OpInfo := { code := 0x0404, level := .observer, cmt := .never, q := true }
/-- FAB_LSDB_READ (06_fistan_fabric.md) -/
def opFabLsdbRead : OpInfo := { code := 0x0405, level := .observer, cmt := .never, q := true }
/-- FAB_PATH_SET (06_fistan_fabric.md) -/
def opFabPathSet : OpInfo := { code := 0x0410, level := .operator, cmt := .optional, q := false }
/-- TX_CFG (07_line_transmitter.md) -/
def opTxCfg : OpInfo := { code := 0x0500, level := .operator, cmt := .optional, q := false }
/-- TX_READ (07_line_transmitter.md) -/
def opTxRead : OpInfo := { code := 0x0501, level := .observer, cmt := .never, q := true }
/-- TX_STATUS_READ (07_line_transmitter.md) -/
def opTxStatusRead : OpInfo := { code := 0x0502, level := .observer, cmt := .never, q := true }
/-- TX_PREEMPH (07_line_transmitter.md) -/
def opTxPreemph : OpInfo := { code := 0x0503, level := .operator, cmt := .optional, q := false }
/-- TX_PREEMPH_READ (07_line_transmitter.md) -/
def opTxPreemphRead : OpInfo := { code := 0x0504, level := .observer, cmt := .never, q := true }
/-- LINE_BOND_CFG (07_line_transmitter.md) -/
def opLineBondCfg : OpInfo := { code := 0x0505, level := .admin, cmt := .optional, q := false }
/-- TX_CAL_CFG (07_line_transmitter.md) -/
def opTxCalCfg : OpInfo := { code := 0x0506, level := .operator, cmt := .optional, q := false }
/-- TX_CAL_READ (07_line_transmitter.md) -/
def opTxCalRead : OpInfo := { code := 0x0507, level := .observer, cmt := .never, q := true }
/-- RX_CFG (08_line_receiver.md) -/
def opRxCfg : OpInfo := { code := 0x0510, level := .operator, cmt := .optional, q := false }
/-- RX_READ (08_line_receiver.md) -/
def opRxRead : OpInfo := { code := 0x0511, level := .observer, cmt := .never, q := true }
/-- RX_STATUS_READ (08_line_receiver.md) -/
def opRxStatusRead : OpInfo := { code := 0x0512, level := .observer, cmt := .never, q := true }
/-- RX_QUALITY_READ (08_line_receiver.md) -/
def opRxQualityRead : OpInfo := { code := 0x0513, level := .observer, cmt := .never, q := true }
/-- RX_CAL_READ (08_line_receiver.md) -/
def opRxCalRead : OpInfo := { code := 0x0514, level := .observer, cmt := .never, q := true }
/-- RX_REACQUIRE (08_line_receiver.md) -/
def opRxReacquire : OpInfo := { code := 0x0515, level := .operator, cmt := .optional, q := false }
/-- LINE_OH_CFG (09_line_fec_and_overhead.md) -/
def opLineOhCfg : OpInfo := { code := 0x0520, level := .operator, cmt := .optional, q := false }
/-- LINE_OH_READ (09_line_fec_and_overhead.md) -/
def opLineOhRead : OpInfo := { code := 0x0521, level := .observer, cmt := .never, q := true }
/-- LINE_TTI_WRITE (09_line_fec_and_overhead.md) -/
def opLineTtiWrite : OpInfo := { code := 0x0522, level := .operator, cmt := .optional, q := false }
/-- LINE_TTI_READ (09_line_fec_and_overhead.md) -/
def opLineTtiRead : OpInfo := { code := 0x0523, level := .observer, cmt := .never, q := true }
/-- LINE_OTN_STATUS_READ (09_line_fec_and_overhead.md) -/
def opLineOtnStatusRead : OpInfo := { code := 0x0524, level := .observer, cmt := .never, q := true }
/-- LINE_FEC_STATUS_READ (09_line_fec_and_overhead.md) -/
def opLineFecStatusRead : OpInfo := { code := 0x0525, level := .observer, cmt := .never, q := true }
/-- LINE_REALIGN (09_line_fec_and_overhead.md) -/
def opLineRealign : OpInfo := { code := 0x0526, level := .operator, cmt := .optional, q := false }
/-- CL_PORT_CFG (10_client_and_lanes.md) -/
def opClPortCfg : OpInfo := { code := 0x0600, level := .operator, cmt := .optional, q := false }
/-- CL_PORT_READ (10_client_and_lanes.md) -/
def opClPortRead : OpInfo := { code := 0x0601, level := .observer, cmt := .never, q := true }
/-- CL_PORT_STATUS_READ (10_client_and_lanes.md) -/
def opClPortStatusRead : OpInfo := { code := 0x0602, level := .observer, cmt := .never, q := true }
/-- FLEXO_TRIB_CFG (10_client_and_lanes.md) -/
def opFlexoTribCfg : OpInfo := { code := 0x0603, level := .operator, cmt := .optional, q := false }
/-- FLEXO_TRIB_READ (10_client_and_lanes.md) -/
def opFlexoTribRead : OpInfo := { code := 0x0604, level := .observer, cmt := .never, q := true }
/-- LANE_CFG (10_client_and_lanes.md) -/
def opLaneCfg : OpInfo := { code := 0x0610, level := .operator, cmt := .optional, q := false }
/-- LANE_STATUS_READ (10_client_and_lanes.md) -/
def opLaneStatusRead : OpInfo := { code := 0x0611, level := .observer, cmt := .never, q := true }
/-- LANE_PRBS_READ (10_client_and_lanes.md) -/
def opLanePrbsRead : OpInfo := { code := 0x0612, level := .counter, cmt := .never, q := true }
/-- GROOM_CFG (11_packet_grooming.md) -/
def opGroomCfg : OpInfo := { code := 0x0700, level := .operator, cmt := .optional, q := false }
/-- GROOM_READ (11_packet_grooming.md) -/
def opGroomRead : OpInfo := { code := 0x0701, level := .observer, cmt := .never, q := true }
/-- GROOM_STATUS_READ (11_packet_grooming.md) -/
def opGroomStatusRead : OpInfo := { code := 0x0702, level := .observer, cmt := .never, q := true }
/-- SLOT_CFG (11_packet_grooming.md) -/
def opSlotCfg : OpInfo := { code := 0x0703, level := .operator, cmt := .optional, q := false }
/-- SLOT_READ (11_packet_grooming.md) -/
def opSlotRead : OpInfo := { code := 0x0704, level := .observer, cmt := .never, q := true }
/-- SLOT_STATUS_READ (11_packet_grooming.md) -/
def opSlotStatusRead : OpInfo := { code := 0x0705, level := .observer, cmt := .never, q := true }
/-- PROG_WRITE (11_packet_grooming.md) -/
def opProgWrite : OpInfo := { code := 0x0706, level := .operator, cmt := .never, q := false }
/-- RULE_WRITE (11_packet_grooming.md) -/
def opRuleWrite : OpInfo := { code := 0x0707, level := .operator, cmt := .never, q := false }
/-- RULE_COMMIT (11_packet_grooming.md) -/
def opRuleCommit : OpInfo := { code := 0x0708, level := .operator, cmt := .optional, q := false }
/-- RULE_SYNC (11_packet_grooming.md) -/
def opRuleSync : OpInfo := { code := 0x0709, level := .operator, cmt := .never, q := false }
/-- RULE_READ (11_packet_grooming.md) -/
def opRuleRead : OpInfo := { code := 0x070A, level := .observer, cmt := .never, q := true }
/-- GRM_QUEUE_CFG (11_packet_grooming.md) -/
def opGrmQueueCfg : OpInfo := { code := 0x070B, level := .operator, cmt := .never, q := true }
/-- GRM_QUEUE_FLUSH (11_packet_grooming.md) -/
def opGrmQueueFlush : OpInfo := { code := 0x070C, level := .operator, cmt := .never, q := true }
/-- SEC_CFG (12_container_security.md) -/
def opSecCfg : OpInfo := { code := 0x0800, level := .admin, cmt := .optional, q := false }
/-- SEC_READ (12_container_security.md) -/
def opSecRead : OpInfo := { code := 0x0801, level := .observer, cmt := .never, q := true }
/-- SEC_STATUS_READ (12_container_security.md) -/
def opSecStatusRead : OpInfo := { code := 0x0802, level := .observer, cmt := .never, q := true }
/-- KEY_LOAD (12_container_security.md) -/
def opKeyLoad : OpInfo := { code := 0x0803, level := .admin, cmt := .never, q := false }
/-- KEY_SWITCH (12_container_security.md) -/
def opKeySwitch : OpInfo := { code := 0x0804, level := .admin, cmt := .required, q := false }
/-- KEY_CLEAR (12_container_security.md) -/
def opKeyClear : OpInfo := { code := 0x0805, level := .admin, cmt := .never, q := false }
/-- SEC_CLEAR_LOSS (12_container_security.md) -/
def opSecClearLoss : OpInfo := { code := 0x0806, level := .operator, cmt := .optional, q := false }
/-- KE_STATUS_READ (12_container_security.md) -/
def opKeStatusRead : OpInfo := { code := 0x0810, level := .observer, cmt := .never, q := true }
/-- HK_CFG (13_optics_control.md) -/
def opHkCfg : OpInfo := { code := 0x0900, level := .operator, cmt := .optional, q := false }
/-- HK_READ (13_optics_control.md) -/
def opHkRead : OpInfo := { code := 0x0901, level := .observer, cmt := .never, q := true }
/-- HK_TRIGGER (13_optics_control.md) -/
def opHkTrigger : OpInfo := { code := 0x0902, level := .operator, cmt := .optional, q := true }
/-- HK_RESULT_READ (13_optics_control.md) -/
def opHkResultRead : OpInfo := { code := 0x0903, level := .observer, cmt := .never, q := true }
/-- OUT_CFG (13_optics_control.md) -/
def opOutCfg : OpInfo := { code := 0x0910, level := .operator, cmt := .optional, q := false }
/-- OUT_READ (13_optics_control.md) -/
def opOutRead : OpInfo := { code := 0x0911, level := .observer, cmt := .never, q := true }
/-- OUT_STATUS_READ (13_optics_control.md) -/
def opOutStatusRead : OpInfo := { code := 0x0912, level := .observer, cmt := .never, q := true }
/-- BL_CFG (13_optics_control.md) -/
def opBlCfg : OpInfo := { code := 0x0920, level := .operator, cmt := .optional, q := false }
/-- BL_READ (13_optics_control.md) -/
def opBlRead : OpInfo := { code := 0x0921, level := .observer, cmt := .never, q := true }
/-- BL_STATUS_READ (13_optics_control.md) -/
def opBlStatusRead : OpInfo := { code := 0x0922, level := .observer, cmt := .never, q := true }
/-- I2C_CFG (13_optics_control.md) -/
def opI2cCfg : OpInfo := { code := 0x0930, level := .operator, cmt := .never, q := true }
/-- I2C_XFER (13_optics_control.md) -/
def opI2cXfer : OpInfo := { code := 0x0931, level := .operator, cmt := .never, q := true }
/-- OPT_STATUS_READ (13_optics_control.md) -/
def opOptStatusRead : OpInfo := { code := 0x0940, level := .observer, cmt := .never, q := true }
/-- MODE_SET (14_modes_boot_and_trust.md) -/
def opModeSet : OpInfo := { code := 0x0A00, level := .admin, cmt := .optional, q := false }
/-- QUENCH (14_modes_boot_and_trust.md) -/
def opQuench : OpInfo := { code := 0x0A01, level := .admin, cmt := .never, q := true }
/-- QUENCH_EXIT (14_modes_boot_and_trust.md) -/
def opQuenchExit : OpInfo := { code := 0x0A02, level := .admin, cmt := .never, q := true }
/-- MODE_CFG (14_modes_boot_and_trust.md) -/
def opModeCfg : OpInfo := { code := 0x0A03, level := .admin, cmt := .optional, q := false }
/-- MODE_STATUS_READ (14_modes_boot_and_trust.md) -/
def opModeStatusRead : OpInfo := { code := 0x0A04, level := .observer, cmt := .never, q := true }
/-- FAULT_ACK (14_modes_boot_and_trust.md) -/
def opFaultAck : OpInfo := { code := 0x0A05, level := .operator, cmt := .never, q := true }
/-- BOOT_STATUS_READ (14_modes_boot_and_trust.md) -/
def opBootStatusRead : OpInfo := { code := 0x0A10, level := .observer, cmt := .never, q := true, rom := true }
/-- IMAGE_STAGE (14_modes_boot_and_trust.md) -/
def opImageStage : OpInfo := { code := 0x0A11, level := .admin, cmt := .never, q := true, rom := true }
/-- BOOT_EXEC (14_modes_boot_and_trust.md) -/
def opBootExec : OpInfo := { code := 0x0A12, level := .admin, cmt := .never, q := false, rom := true }
/-- IMAGE_INSTALL (14_modes_boot_and_trust.md) -/
def opImageInstall : OpInfo := { code := 0x0A13, level := .admin, cmt := .never, q := true }
/-- ROLLBACK_ADVANCE (14_modes_boot_and_trust.md) -/
def opRollbackAdvance : OpInfo := { code := 0x0A14, level := .admin, cmt := .never, q := true }
/-- SIGNER_SLOT_PROGRAM (14_modes_boot_and_trust.md) -/
def opSignerSlotProgram : OpInfo := { code := 0x0A15, level := .admin, cmt := .never, q := true }
/-- SIGNER_REVOKE (14_modes_boot_and_trust.md) -/
def opSignerRevoke : OpInfo := { code := 0x0A16, level := .admin, cmt := .never, q := true }
/-- SYS_RESTART (14_modes_boot_and_trust.md) -/
def opSysRestart : OpInfo := { code := 0x0A17, level := .admin, cmt := .never, q := true }
/-- PK_SET (14_modes_boot_and_trust.md) -/
def opPkSet : OpInfo := { code := 0x0A20, level := .admin, cmt := .never, q := true }
/-- AUTH_KEY_LOAD (14_modes_boot_and_trust.md) -/
def opAuthKeyLoad : OpInfo := { code := 0x0A21, level := .admin, cmt := .never, q := true }
/-- TK_LOAD (14_modes_boot_and_trust.md) -/
def opTkLoad : OpInfo := { code := 0x0A22, level := .admin, cmt := .never, q := true }
/-- KEY_SLOTS_READ (14_modes_boot_and_trust.md) -/
def opKeySlotsRead : OpInfo := { code := 0x0A23, level := .observer, cmt := .never, q := true }
/-- ID_READ (14_modes_boot_and_trust.md) -/
def opIdRead : OpInfo := { code := 0x0A30, level := .observer, cmt := .never, q := true }
/-- ATTEST (14_modes_boot_and_trust.md) -/
def opAttest : OpInfo := { code := 0x0A31, level := .observer, cmt := .never, q := true }
/-- STORE (14_modes_boot_and_trust.md) -/
def opStore : OpInfo := { code := 0x0A40, level := .admin, cmt := .never, q := true }
/-- STORE_STATUS_READ (14_modes_boot_and_trust.md) -/
def opStoreStatusRead : OpInfo := { code := 0x0A41, level := .observer, cmt := .never, q := true }
/-- PROFILE_RESTORE (14_modes_boot_and_trust.md) -/
def opProfileRestore : OpInfo := { code := 0x0A42, level := .admin, cmt := .optional, q := false }
/-- PROFILE_ERASE (14_modes_boot_and_trust.md) -/
def opProfileErase : OpInfo := { code := 0x0A43, level := .admin, cmt := .never, q := true }
/-- FAULT_READ (14_modes_boot_and_trust.md) -/
def opFaultRead : OpInfo := { code := 0x0A50, level := .counter, cmt := .never, q := true }
/-- FAULT_EXPORT (14_modes_boot_and_trust.md) -/
def opFaultExport : OpInfo := { code := 0x0A51, level := .counter, cmt := .never, q := true }
/-- RETIRE_READ (14_modes_boot_and_trust.md) -/
def opRetireRead : OpInfo := { code := 0x0A52, level := .observer, cmt := .never, q := true }
/-- EVC_READ (15_memory_integrity_and_counters.md) -/
def opEvcRead : OpInfo := { code := 0x0B00, level := .counter, cmt := .never, q := true }
/-- PM_READ (15_memory_integrity_and_counters.md) -/
def opPmRead : OpInfo := { code := 0x0B01, level := .counter, cmt := .never, q := true }
/-- PM_SNAP (15_memory_integrity_and_counters.md) -/
def opPmSnap : OpInfo := { code := 0x0B02, level := .operator, cmt := .required, q := true }
/-- WIN_CFG (15_memory_integrity_and_counters.md) -/
def opWinCfg : OpInfo := { code := 0x0B03, level := .operator, cmt := .optional, q := false }
/-- WIN_READ (15_memory_integrity_and_counters.md) -/
def opWinRead : OpInfo := { code := 0x0B04, level := .counter, cmt := .never, q := true }
/-- EVT_MASK_WRITE (15_memory_integrity_and_counters.md) -/
def opEvtMaskWrite : OpInfo := { code := 0x0B05, level := .operator, cmt := .never, q := true }
/-- EVT_MASK_READ (15_memory_integrity_and_counters.md) -/
def opEvtMaskRead : OpInfo := { code := 0x0B06, level := .observer, cmt := .never, q := true }
/-- EVT_POP (15_memory_integrity_and_counters.md) -/
def opEvtPop : OpInfo := { code := 0x0B07, level := .operator, cmt := .never, q := true }
/-- INTEG_STATUS_READ (15_memory_integrity_and_counters.md) -/
def opIntegStatusRead : OpInfo := { code := 0x0B08, level := .observer, cmt := .never, q := true }
/-- ARB_CFG (15_memory_integrity_and_counters.md) -/
def opArbCfg : OpInfo := { code := 0x0B09, level := .admin, cmt := .never, q := false }
/-- BA_CFG (04_anvil_cross_connect.md) -/
def opBaCfg : OpInfo := { code := 0x0C00, level := .operator, cmt := .optional, q := false }
/-- BA_READ (04_anvil_cross_connect.md) -/
def opBaRead : OpInfo := { code := 0x0C01, level := .counter, cmt := .never, q := true }
/-- TEST_READ (04_anvil_cross_connect.md) -/
def opTestRead : OpInfo := { code := 0x0C02, level := .counter, cmt := .never, q := true }
/-- ERR_INJECT (04_anvil_cross_connect.md) -/
def opErrInject : OpInfo := { code := 0x0C03, level := .admin, cmt := .required, q := false }

end Sys2Proof.Machine
end

