-- ==== Sys2Proof/Machine/Operands.lean ====
section
/-! DEFINITION. The operands of a command packet, its parameter words, and what their checks answer: status codes (R74, R75) and the
checks of step 11 of R95 on the number, the range and the reserved bits of the words. -/

namespace Sys2Proof

/-- Parameter word `i`; words not sent read 0. -/
def Req.p (rq : Req) (i : Nat) : W32 := rq.params.getD i 0#32

end Sys2Proof

namespace Sys2Proof.Machine

/-! ### Status codes (R74) -/

inductive Status where
  | ok | busy | badOpcode | badParam | badCrc | authFail | notPermitted | unitAbsent | retired | strokePast
  | capacity | modeRefused | queueFull | timeout | slagged | internal
  deriving DecidableEq, Repr

def Status.code : Status → Nat
  | .ok => 0 | .busy => 1 | .badOpcode => 2 | .badParam => 3 | .badCrc => 4 | .authFail => 5 | .notPermitted => 6
  | .unitAbsent => 7 | .retired => 8 | .strokePast => 9 | .capacity => 10 | .modeRefused => 11 | .queueFull => 12
  | .timeout => 13 | .slagged => 14 | .internal => 15

/-- A refusal: STATUS and DETAIL. -/
structure Rej where
  st : Status
  detail : Nat := 0
  deriving DecidableEq, Repr

def statusWord (r : Rej) : W32 := word [(r.st.code, 16), (r.detail, 0)]

/-! ### Checks of parameter words (R10, R74, R75) -/

abbrev Check := Option Rej

/-- A check that fails with `r` unless `ok`. -/
def need (ok : Bool) (r : Rej) : Check := if ok then none else some r

/-- Word `i` of the parameters is valid; DETAIL is its offset from the start of the packet (R74). -/
def wordOk (i : Nat) (ok : Bool) : Check := need ok { st := .badParam, detail := 4 + i }

/-- A BAD_PARAM that names a cause (R75). -/
def causeOk (cause : Nat) (ok : Bool) : Check := need ok { st := .badParam, detail := cause }

def firstFail : List Check → Option Rej
  | [] => none
  | some r :: _ => some r
  | none :: l => firstFail l

/-- Of two refusals of step 11, the one that names the earlier word (R74, R75). -/
def earlier (a b : Rej) : Rej := if b.detail < a.detail then b else a

/-- The refusal of step 11: the first invalid word of the packet; a cause code only where no word is invalid. -/
def lowestFail : List Check → Option Rej
  | [] => none
  | none :: l => lowestFail l
  | some r :: l =>
    match lowestFail l with
    | some r' => some (earlier r r')
    | none => some r

/-- The packet carries `n` parameter words. DETAIL names the first surplus word, or the word that stands where the first missing one belongs (DEDUCED, log entry 13). -/
def countIs (n : Nat) (rq : Req) : Check :=
  need (rq.params.length = n) { st := .badParam, detail := 4 + min n rq.params.length }

/-- The packet carries `lo` to `hi` parameter words. -/
def countIn (lo hi : Nat) (rq : Req) : Check :=
  need (lo ≤ rq.params.length && rq.params.length ≤ hi)
    { st := .badParam, detail := 4 + (if rq.params.length < lo then rq.params.length else hi) }

/-- Word `i` sets no bit outside `mask` (R10). -/
def onlyBits (i : Nat) (mask : W32) (rq : Req) : Check := wordOk i (rq.p i &&& ~~~mask = 0#32)

end Sys2Proof.Machine
end

