-- ==== Sys2Proof/Machine/Ops.lean ====
section
/-! DEFINITION. Operations every family shares: queues and replies, the order of checks of a command
(R95, R475), the fault record, and the list of writes that wait for a row 0 (R12, R33). -/

namespace Sys2Proof.Machine

/-- The next free value (log entry 10), and the state with the draw counted. -/
def freeNat (s : State) : Nat := Config.freeValue s.free
def drawn (s : State) : State := s.onFree (· + 1)

/-! ### Reported quotients -/

/-- A reported fraction; the spec states no rounding (log entry 34). -/
def fracShow (a : Nat × Nat) : Nat := a.1 / a.2 + (if a.1 % a.2 = 0 then 0 else flag (Config.roundsUp a.1 a.2))

/-- The same of a signed value over a positive divisor. -/
def fracShowInt (a : Int) (b : Nat) : Int := if a < 0 then -(fracShow (a.natAbs, b) : Int) else fracShow (a.natAbs, b)

/-! ### Variant and mode -/

/-- Line engines built (R4 LINE_PRESENT). -/
def engines (s : State) : Nat :=
  if s.fused.partCode = 0x3216#16 then 4 else if s.fused.partCode = 0x3208#16 then 2 else 0

def enginePresent (s : State) (e : Nat) : Bool := e < engines s

/-- Flux engines and W30 are built (R4 GROOM_PRESENT). -/
def groomPresent (s : State) : Bool := s.fused.partCode = 0x3216#16 || s.fused.partCode = 0x3208#16

/-- The bonded superchannel is available (R4 BOND_CAPABLE). -/
def bondCapable (s : State) : Bool := s.fused.partCode = 0x3216#16

/-- Window `w` is mapped (R4 WINDOW_MAP, R14). -/
def windowMapped (s : State) (w : Nat) : Bool :=
  w < 32 && (w ≥ 8 || w < 2 * engines s) && (w ≠ 30 || groomPresent s)

def inQuench (s : State) : Bool := s.mode.mode = .quench

/-- The mode that rules capacity and pairing: the mode of origin in ANNEAL (R394). -/
def baseMode (s : State) : Mode := if s.mode.mode = .anneal then s.mode.origin else s.mode.mode

/-- The device is supplied and out of reset. -/
def alive (s : State) : Bool := s.pins.powered && !s.pins.rstnLow

/-- The stroke number as a natural number. -/
def scnt (s : State) : Nat := s.stk.scnt.toNat

/-! ### Queues (R76–R81) -/

def cqOf (s : State) (q : Nat) : List (List W32) := tget [] s.cmd.cq q
def rqOf (s : State) (q : Nat) : List (List W32) := tget [] s.cmd.rq q

/-- FILL of a queue as a number of committed words (R77). Queues 0–5 are CQ0–CQ5, 6–11 are RQ0–RQ5. -/
def wordsIn (l : List (List W32)) : Nat := (l.map List.length).sum
def qfill (s : State) (q : Nat) : Nat := if q ≤ 5 then wordsIn (cqOf s q) else wordsIn (rqOf s (q - 6))

/-- FILL of the host reply ring of a channel (R87). -/
def chanOf (s : State) (c : Nat) : ChanSt := tget {} s.cmd.chan c
def onChan (c : Nat) (f : ChanSt → ChanSt) (s : State) : State :=
  s.onCmd fun v => { v with chan := tmod {} v.chan c f }
def ringFill (h : ChanSt) : Nat :=
  if h.rplSize = 0#32 then 0 else (h.rplTail.toNat + h.rplSize.toNat - h.rplHead.toNat) % h.rplSize.toNat

def levelOf (s : State) (q : Nat) : Nat := s.cmd.levels.getD q 0

/-- FILL changes from below LEVEL to LEVEL or above, and LEVEL is not 0 (R80). -/
def crosses (level before after : Nat) : Bool := level ≠ 0 && before < level && level ≤ after

/-- The INT_STATUS bit of a level event of queue `q` (R80). -/
def levelBit (q : Nat) : Nat := if q ≤ 5 ∨ q = 11 then 9 else if q = 10 then 8 else q - 6

def raiseInt (i : Nat) (s : State) : State := s.onCmd fun v => { v with intStatus := v.intStatus ||| BitVec.ofNat 32 (1 <<< i) }

/-- The level event where FILL of queue `q` goes from `before` to `after`. -/
def levelCross (q before after : Nat) (s : State) : State := if crosses (levelOf s q) before after then raiseInt (levelBit q) s else s

/-- What queue `q` has seen of a cycle that brings it two changes. -/
def inCycle (s : State) (q : Nat) : Option InCycle := (s.cmd.joined.find? fun j => j.1 = q).map Prod.snd
def setCycle (q : Nat) (c : Option InCycle) (s : State) : State :=
  s.onCmd fun v => { v with joined := v.joined.filter (fun j => j.1 ≠ q) ++ (match c with | some c => [(q, c)] | none => []) }

/-- The level event of a change of FILL of queue `q`. For queues 6–9 FILL is that of the host reply ring. Of two changes in one clock cycle the net change counts (R81). -/
def levelEvent (q before after : Nat) (s : State) : State :=
  match inCycle s q with
  | none => levelCross q before after s
  | some .opened => setCycle q (some (.changed before)) s
  | some (.changed b) => levelCross q b after (setCycle q none s)
  | some .flushed => levelCross q before after (setCycle q none s)

/-- A row names the queues of which the next two changes fall in one clock cycle; what is left of the last row's was a change by itself. -/
def joinChanges (qs : List Nat) (s : State) : State :=
  if qs.isEmpty && s.cmd.joined.isEmpty then s
  else
    let s := s.cmd.joined.foldl (fun s j => match j.2 with | .changed b => levelCross j.1 b (qfill s j.1) s | _ => s) s
    s.onCmd fun v => { v with joined := qs.map (·, .opened) }

/-- A packet committed to queue `q` in the cycle of a flush: the flush has acted, and the packet is discarded and counted (R81). -/
def flushedPush (q : Nat) (s : State) : State := note evCmdCmdqFlushDiscard q 1 (setCycle q none s)

/-- Commits a packet to command queue `q` (R77). -/
def cqPush (q : Nat) (p : List W32) (s : State) : State :=
  let b := qfill s q
  if inCycle s q = some .flushed then flushedPush q s
  else levelEvent q b (b + p.length) (s.onCmd fun v => { v with cq := tset [] v.cq q (cqOf s q ++ [p]) })

/-- Reply queue `q` of 6–11 has room for `n` words more, and no earlier reply waits for it (R76, R87). -/
def rqRoom (q n : Nat) (s : State) : Bool := decide (qfill s q + n ≤ 8192) && !(s.cmd.late.any fun x => x.1 = q)

/-- Commits a reply to reply queue `q` of 6–11. A reply for which RQ4 lacks room is discarded and counted (R89); a local reply to
another queue is never discarded and waits for room (R87). -/
def rqPush (q : Nat) (p : List W32) (s : State) : State :=
  if inCycle s q = some .flushed then flushedPush q s
  else if !rqRoom q p.length s then
    (if q = 10 then note evCmdRplDrop 0 1 s else s.onCmd fun v => { v with late := v.late ++ [(q, p)] })
  else
    let b := qfill s q
    let s' := s.onCmd fun v => { v with rq := tset [] v.rq (q - 6) (rqOf s (q - 6) ++ [p]) }
    if q = 10 || q = 11 then levelEvent q b (b + p.length) s' else s'

/-- Replies that waited for room are committed as far as it reaches, in their order. -/
def rqRefill (s : State) : State := s.cmd.late.foldl (fun s x => rqPush x.1 x.2 s) (s.onCmd fun v => { v with late := [] })

/-- The oldest reply leaves RQc. -/
def rqPop (c : Nat) (s : State) : State :=
  let s' := s.onCmd fun v => { v with rq := tset [] v.rq c (rqOf s c).tail }
  rqRefill (if 4 ≤ c then levelEvent (c + 6) (qfill s (c + 6)) (wordsIn (rqOf s c).tail) s' else s')

/-- The oldest packet leaves CQq, whose turn it was (R77, R99). -/
def cqPop (q : Nat) (s : State) : State :=
  levelEvent q (qfill s q) (wordsIn (cqOf s q).tail) (s.onCmd fun v => { v with cq := tset [] v.cq q (cqOf s q).tail, rr := q })

/-- Empties queue `q`, each committed packet counted in CMDQ_FLUSH_DISCARD (R79). Replies that waited for room enter after it. A packet committed before it in its cycle goes too (R81). -/
def flushQueue (q : Nat) (s : State) : State :=
  let t := setCycle q none s
  let t := if q ≤ 5 then note evCmdCmdqFlushDiscard q (cqOf s q).length (t.onCmd fun v => { v with cq := tset [] v.cq q [] })
    else rqRefill (note evCmdCmdqFlushDiscard q (rqOf s (q - 6)).length (t.onCmd fun v => { v with rq := tset [] v.rq (q - 6) [] }))
  if inCycle s q = some .opened then setCycle q (some .flushed) t else t

/-! ### Status codes and replies (R72–R75) -/

def akOf (s : State) (n : Nat) : AuthKey := tget {} s.keys.ak n

/-- The key a command's CMAC verified under, if it carried one. -/
def keyOf (rq : Req) (s : State) : Option (BitVec 256) :=
  match rq.mac with
  | some m => (akOf s m.slot).key
  | none => none

/-- A CMAC is computed over the header and words A0–A1, with SOURCE taken as 0 in a command and TARGET taken as 0 in a reply (R70). -/
def macOver (key : BitVec 256) (mask : W32) (ws : List W32) : List W32 :=
  match ws with
  | [] => []
  | w :: r => wordsOfNat 4 (cmac key (bytesOfWords ((w &&& mask) :: r))).toNat

/-- A reply packet (R72). -/
def mkReply (opcode : Nat) (rq : Req) (key : Option (BitVec 256)) (r : Rej) (res : List W32) (s : State) : List W32 :=
  let n := 4 + 1 + res.length + (if rq.mac.isSome then 6 else 0) + 1
  let h0 := word [(1, 28), (1, 27), (1, 26), (flag rq.mac.isSome, 25), (rq.src.toNat, 12), (s.fab.nodeAddr.toNat, 0)]
  let body := [h0, word [(opcode, 16), (rq.tag.toNat, 0)], word [(n, 19), (hi16 s.stk.scnt, 0)],
    BitVec.ofNat 32 (lo32 s.stk.scnt), statusWord r] ++ res
  let full := match rq.mac with
    | some m =>
      let a := body ++ [word [(hi16 m.seq, 16), (m.slot, 0)], BitVec.ofNat 32 (lo32 m.seq)]
      a ++ macOver (key.getD 0#256) 0xFF000FFF#32 a
    | none => body
  full ++ [crcWords full]

/-- The reply of a command goes to the reply queue of its command queue; a QUIET command that ends with OK has none (R73). -/
def reply (opcode : Nat) (rq : Req) (key : Option (BitVec 256)) (r : Rej) (res : List W32) (s : State) : State :=
  if rq.quiet && r.st = .ok then s else rqPush (rq.cq + 6) (mkReply opcode rq key r res s) s

/-! ### Checks (R95, R475) -/

/-- Whether a key slot holds a key bound to ADMIN (R96, SYS_STATUS PROVISIONED). -/
def provisioned (s : State) : Bool := (List.range 8).any fun n => (akOf s n).key.isSome && (akOf s n).level = 3

/-- The code of an UNAUTH_LEVEL: 1 OBSERVER, 2 OPERATOR. -/
def unauthCode : UnauthLevel → Nat
  | .observer => 1
  | .operator => 2

/-- Word 0 of ACCESS_POLICY: UNAUTH_LEVEL of CQ0 in bits 1:0, of CQ5 in bits 11:10. -/
def unauthWord (v : Vector UnauthLevel 6) : W32 := word (v.toList.zipIdx.map fun x => (unauthCode x.1, 2 * x.2))
def unauthOf (w : W32) : Vector UnauthLevel 6 := Vector.ofFn fun (q : Fin 6) => if fld w (2 * q.val + 1) (2 * q.val) = 1 then .observer else .operator

/-- UNAUTH_LEVEL of a command queue, with the exception of R96. -/
def unauthLevel (cq : Nat) (s : State) : Nat :=
  if cq ≤ 4 && !provisioned s then 3 else unauthCode (s.cmd.unauth.toList.getD cq .observer)

/-- The packet level: 1 OBSERVER, 2 OPERATOR, 3 ADMIN (R96). -/
def packetLevel (rq : Req) (s : State) : Nat :=
  match rq.mac with
  | some m => if (akOf s m.slot).key.isSome then (akOf s m.slot).level else unauthLevel rq.cq s
  | none => unauthLevel rq.cq s

/-- The opcode level (R97 for the counter reads). -/
def opcodeLevel (o : OpInfo) (s : State) : Nat :=
  match o.level with
  | .observer => 1
  | .operator => 2
  | .admin => 3
  | .counter => if s.cmd.obsCounters then 1 else 2

/-- Step 7: the packet level (R95). -/
def levelCheck (o : OpInfo) (rq : Req) (s : State) : Check :=
  need (opcodeLevel o s ≤ packetLevel rq s) { st := .notPermitted }

/-- Step 8: the boot ROM serves, or the mode is QUENCH (R98). -/
def modeCheck (o : OpInfo) (s : State) : Check :=
  if s.boot.rom && !o.rom then some { st := .busy, detail := 1 }
  else need (!inQuench s || o.q) { st := .modeRefused }

/-- Step 11, the header: CMT against the opcode's rule and the reserved bits (R68), and the range of the commit stroke (R34).
DETAIL names word 0 for a wrong CMT, word 2 or 3 for a reserved bit, a COMMIT field or a stroke too far ahead (DEDUCED, log entry 13). -/
def headerCheck (o : OpInfo) (rq : Req) (s : State) : Check :=
  firstFail [
    need (!(rq.cmt && o.cmt = .never) && !(!rq.cmt && o.cmt = .required)) { st := .badParam, detail := 0 },
    need (rq.rsv = 0#3 && (rq.cmt || hi16 rq.commit = 0)) { st := .badParam, detail := 2 },
    need (rq.cmt || lo32 rq.commit = 0) { st := .badParam, detail := 3 },
    need (!rq.cmt || rq.commit.toNat ≤ scnt s + 16777216)
      { st := .badParam, detail := if hi16 rq.commit > (scnt s + 16777216) >>> 32 then 2 else 3 }]

/-- The reserved bits of word A0 of the authentication block. -/
def macCheck (rq : Req) : Check :=
  match rq.mac with
  | some m => need (m.rsv = 0#13) { st := .badParam, detail := 4 + rq.params.length }
  | none => none

/-- Entries of the pending-commit table: the waiting writes that carry a commit stroke (R33, R12). -/
def pendingCount (s : State) : Nat := (s.commits.filter fun c => c.stroke.isSome).length

/-- Steps 13 and 14 for a command with a commit stroke: room in the table, and row 0 of S not yet begun (R32, R33). -/
def tableCheck (rq : Req) (s : State) : Check :=
  if rq.cmt then
    firstFail [need (pendingCount s < 4096) { st := .capacity, detail := 0 }, need (scnt s < rq.commit.toNat) { st := .strokePast }]
  else none

/-- What the execution of a command that passed its checks answers. -/
inductive Answer where
  /-- OK with result words -/
  | done (s : State) (res : List W32)
  /-- the read met slag-marked data; the index of the first affected result word (R74) -/
  | slagged (s : State) (res : List W32) (idx : Nat)
  /-- refused while it executed; nothing changed -/
  | rej (r : Rej)
  /-- refused with the record that `s` makes of it: the command is undone, its sequence number with it -/
  | fail (s : State) (r : Rej)
  /-- the command runs on and its reply waits; its queue waits with it (R99) -/
  | wait (s : State)

/-- The checks of one command beside those that all share: at step 7 the role, at steps 9 and 10 the unit, at step 11 the parameters, and after them what R475 ranks there
with steps 12 and 13. -/
structure Checks where
  role : List Check := []
  unit : List Check := []
  par : List Check := []
  late : List Check := []

/-- The first refusal of steps 7 to 14 in their order (R95, R475). -/
def refusal (o : OpInfo) (rq : Req) (k : Checks) (s : State) : Option Rej :=
  firstFail ([levelCheck o rq s] ++ k.role ++ [modeCheck o s] ++ k.unit ++ [lowestFail (headerCheck o rq s :: macCheck rq :: k.par)] ++ k.late ++ [tableCheck rq s])

/-- The command's queue is busy until the reply (R99); `old` is the state before the command was accepted. -/
def holdCq (rq : Req) (old s : State) : State :=
  s.onCmd fun v => { v with busyCq := ins v.busyCq rq.cq.val, heldSeq := match rq.mac with | some m => tset 0#48 v.heldSeq rq.cq (akOf old m.slot).seq | none => v.heldSeq }
def freeCq (q : Nat) (s : State) : State := s.onCmd fun v => { v with busyCq := del v.busyCq q }

/-- The last accepted sequence number of the key slot advances with a command that is executed; a refused command changes nothing
(R71, R74; DEDUCED, log entry 14). -/
def accepted (rq : Req) (s : State) : State :=
  match rq.mac with
  | some m => s.onKeys fun v => { v with ak := tmod {} v.ak m.slot fun a => if a.key.isSome then { a with seq := m.seq } else a }
  | none => s

/-- The reply that an executed command's answer brings. -/
def answer (o : OpInfo) (rq : Req) (s : State) (a : Answer) : State :=
  match a with
  | .done s' res => reply o.code rq (keyOf rq s) { st := .ok } res s'
  | .slagged s' res i => reply o.code rq (keyOf rq s) { st := .slagged, detail := i } res (s'.onKeys fun _ => s.keys)
  | .rej r => reply o.code rq (keyOf rq s) r [] s
  | .fail s' r => reply o.code rq (keyOf rq s) r [] (s'.onKeys fun _ => s.keys)
  | .wait s' => holdCq rq s s'

def Mode.code : Mode → Nat
  | .quench => 0 | .kindle => 1 | .forge => 2 | .draw => 3 | .temper => 4 | .anneal => 5

/-- An entry of the fault record: a ring of 64, the oldest overwritten (R423). -/
def faultRecord (code unit detail : Nat) (s : State) : State :=
  let e : FaultEntry := {
    code := code, unit := unit, detail := detail, scnt := s.stk.scnt, fwVersion := if s.boot.rom then 0#32 else s.boot.fwVersion
    modes := s.mode.mode.code * 16 + (if s.mode.mode = .anneal then s.mode.origin else s.mode.mode).code
    tj := s.mode.tj, bootCount := s.boot.bootCount, serial := s.store.serial }
  s.onStore fun v => { v with record := (v.record ++ [e]).drop (v.record.length + 1 - 64), serial := v.serial + 1#32 }

/-- A command that ends with INTERNAL makes a fault-record entry (R74, R423). -/
def internalEntry (opcode : Nat) (s : State) : State := faultRecord 0x20 0 opcode s

/-- INTERNAL with the index of its fault-record entry, numbered as FAULT_READ numbers them (R74, R425). -/
def internalRej (s : State) : Rej := { st := .internal, detail := s.store.record.length - 1 }

/-- The answer of a command that fails inside the firmware. -/
def internalAnswer (o : OpInfo) (s : State) : Answer := .fail (internalEntry o.code s) (internalRej (internalEntry o.code s))

/-- A command at step 6 of R95: refused by the first check that fails, or executed; and its reply. A device held in reset executes no command (R464).
A fault of the cores, the bus or an HBM grant that met the command in progress makes it return INTERNAL (R398, R440, R445; log entry 45). -/
def command (o : OpInfo) (rq : Req) (k : Checks) (s : State) (eff : State → Answer) : State :=
  if !alive s then s
  else
    match refusal o rq k s with
    | some r => reply o.code rq (keyOf rq s) r [] s
    | none =>
      if s.mode.miscompare then
        let s := s.onMode fun v => { v with miscompare := false }
        answer o rq s (internalAnswer o s)
      else answer o rq s (eff (accepted rq s))

/-- The request whose reply waits, as `Answer.wait` leaves it. -/
def deferred (o : OpInfo) (rq : Req) (s : State) : Deferred := { opcode := o.code, req := rq, key := keyOf rq s }

/-- A command whose reply waited and that ends without OK has changed nothing: the last accepted number of its slot is as before,
unless a later command has been accepted since (R74; DEDUCED, log entry 14). -/
def unaccept (rq : Req) (s : State) : State :=
  match rq.mac with
  | some m => s.onKeys fun v => { v with ak := tmod {} v.ak m.slot fun a => if a.seq = m.seq then { a with seq := tget 0#48 s.cmd.heldSeq rq.cq } else a }
  | none => s

/-- The reply of a command that ran on, and the release of its queue. Its COMMIT fields name the stroke in which it completed (DESIGN CHOICE, log entry 115). -/
def replyDeferred (d : Deferred) (r : Rej) (res : List W32) (s : State) : State :=
  freeCq d.req.cq (reply d.opcode d.req d.key r res (if r.st = .ok then s else unaccept d.req s))

/-- The same for a command whose reply waits. -/
def internalReply (d : Deferred) (s : State) : State :=
  let s := internalEntry d.opcode s
  replyDeferred d (internalRej s) [] s

/-! ### Writes that wait for a row 0 (R12, R33) -/

/-- Enters the command in the list of writes that wait: with its commit stroke, or for the next row 0. -/
def addCommit (o : OpInfo) (rq : Req) (s : State) : State :=
  s.onCommits (· ++ [{ stroke := if rq.cmt then some rq.commit else none, opcode := o.code, tag := rq.tag, params := rq.params }])

/-- The command writes CMT fields only: it waits for its row 0 and replies OK. -/
def commitOnly (o : OpInfo) (rq : Req) (s : State) : Answer := .done (addCommit o rq s) []

/-- The waiting writes of an opcode. -/
def waiting (o : OpInfo) (s : State) : List Commit := s.commits.filter fun c => c.opcode = o.code

/-- The waiting write of an opcode to object `i`, by its first parameter word, that executed last. -/
def lastWaiting (o : OpInfo) (obj : W32 → Nat) (i : Nat) (s : State) : Option Commit :=
  ((waiting o s).reverse).find? fun c => obj (c.params.getD 0 0#32) = i

def Commit.p (c : Commit) (i : Nat) : W32 := c.params.getD i 0#32

/-- The writes that are in force from row 0 of stroke `n`: those without a stroke and those of stroke `n`. -/
def isDue (n : W48) (c : Commit) : Bool :=
  match c.stroke with
  | none => true
  | some k => k = n

/-- The outcome of a meaning: every command of the spec goes on. -/
def ok (s : State) : Host.Outcome State Fault Refusal := .next s

end Sys2Proof.Machine
end

