-- ==== Sys2Proof/Machine/Integrity.lean ====
section
/-! DEFINITION. Check bits, slag marks and reads of table words (15_memory_integrity R426–R435). -/

namespace Sys2Proof.Machine

/-- Check bits C5–C0 of a byte (R426). -/
def checkBits (b : Byte) : BitVec 6 :=
  let d := b.getLsbD
  let p := fun (l : List Bool) => l.foldl xor false
  BitVec.ofNat 6 (flag (p [d 7, d 6, d 5, d 4]) * 32 + flag (p [d 3, d 2, d 1, d 0]) * 16 + flag (p [d 7, d 3]) * 8 + flag (p [d 6, d 2]) * 4
    + flag (p [d 5, d 1]) * 2 + flag (p [d 4, d 0]))

/-- A byte as read: delivered value, slag mark, and whether a mend was counted. -/
structure ByteRead where
  val : Byte
  slag : Bool
  mended : Bool
  deriving DecidableEq, Repr

/-- Syndrome decoding (R427). -/
def decodeByte (b : Byte) (c : BitVec 6) : ByteRead :=
  let syn := c ^^^ checkBits b
  let rows := (List.range 2).filter fun i => syn.getLsbD (5 - i)
  let cols := (List.range 4).filter fun j => syn.getLsbD (3 - j)
  match rows, cols with
  | [], [] => ⟨b, false, false⟩
  | [i], [j] => ⟨b ^^^ BitVec.ofNat 8 (1 <<< (7 - 4 * i - j)), false, true⟩
  | [_], [] => ⟨b, false, true⟩
  | [], [_] => ⟨b, false, true⟩
  | _, _ => ⟨b, true, false⟩

/-- A table word as read: value, slag mark, bytes mended. -/
structure WordRead where
  val : W32
  slag : Bool := false
  mends : Nat := 0
  deriving DecidableEq, Repr

/-- Byte `k` (0 least significant) of a stored word whose bits `fl` are flipped, with its stored check bits. -/
def storedByte (w : W32) (fl : List Nat) (k : Nat) : ByteRead :=
  let b := BitVec.ofNat 8 (w.toNat >>> (8 * k))
  let df := BitVec.ofNat 8 (bitsOf ((List.range 8).filter fun i => fl.contains (8 * k + i)))
  let cf := BitVec.ofNat 6 (bitsOf ((List.range 6).filter fun c => fl.contains (32 + 6 * k + c)))
  decodeByte (b ^^^ df) (checkBits b ^^^ cf)

/-- The read of a word that was written as `w` and whose stored bits `fl` are flipped (R427). -/
def readFlipped (w : W32) (fl : List Nat) : WordRead :=
  if fl.isEmpty then { val := w }
  else
    let bs := (List.range 4).map (storedByte w fl)
    { val := BitVec.ofNat 32 (natOfBytes (bs.reverse.map ByteRead.val)), slag := bs.any ByteRead.slag, mends := (bs.filter ByteRead.mended).length }

/-- Key of word `i` of table `t` (table numbers of R432). -/
def flipKey (t i : Nat) : Nat := t * 2 ^ 24 + i

def flipsOf (s : State) (t i : Nat) : List Nat := tget [] s.integ.flips (flipKey t i)

/-- The read of word `i` of table `t`, which holds `w`. -/
def readWord (s : State) (t i : Nat) (w : W32) : WordRead := readFlipped w (flipsOf s t i)

/-- Some word of an entry of `n` words from word `i` of table `t` is slag-marked when read. -/
def entrySlag (s : State) (t i : Nat) (ws : List W32) : Bool :=
  ((List.range ws.length).any fun k => (readWord s t (i + k) (ws.getD k 0#32)).slag)

/-- The words of table `t` from word `i` on as they are delivered: mended, also wrongly (R427). -/
def delivered (s : State) (t i : Nat) (ws : List W32) : List W32 :=
  if s.integ.flips.isEmpty then ws else (List.range ws.length).map fun k => (readWord s t (i + k) (ws.getD k 0#32)).val

/-- Bytes mended in the read of words `i`, `i + 1`, … of table `t` (R427). -/
def mendsOf (s : State) (t i : Nat) (ws : List W32) : Nat :=
  if s.integ.flips.isEmpty then 0 else ((List.range ws.length).map fun k => (readWord s t (i + k) (ws.getD k 0#32)).mends).sum

/-- All check bits of a word inverted: a slag-marked word (R428). -/
def allCheck : List Nat := (List.range 24).map (· + 32)

/-- Words `i` to `i + n - 1` of table `t` are written: their stored errors end, their golden copies are written anew, and a restoration awaited for them is cancelled (R427, R434, R435). -/
def cleanWords (t i n : Nat) (s : State) : State :=
  if s.integ.flips.isEmpty && s.integ.restore.isEmpty && s.integ.goldBad.isEmpty then s
  else
    s.onInteg fun v => { v with
      flips := v.flips.filter fun x => !(decide (flipKey t i ≤ x.1) && decide (x.1 < flipKey t (i + n)))
      restore := v.restore.filter fun x => !(x.1 = t && decide (i ≤ x.2) && decide (x.2 < i + n))
      goldBad := v.goldBad.filter fun x => !(x.1 = t && decide (i ≤ x.2.1) && decide (x.2.1 < i + n)) }

/-- In TEMPER every table-writing command reads back what it wrote (R121, R398): a word of the `n` written from word `i` of table `t` on differs. -/
def backDiffers (t i n : Nat) (s : State) : Bool :=
  decide (baseMode s = .temper) && s.anvil.backBad.any fun d => d.1 = t && decide (i ≤ d.2) && decide (d.2 < i + n)

/-- Words of an entry of a table (R432). -/
def entrySize (t : Nat) : Nat :=
  match t with
  | 2 | 5 => 4
  | 4 => 8
  | 6 | 7 => 17
  | _ => 1

/-- The first word of the entry that holds word `i` of table `t`. -/
def entryBase (t i : Nat) : Nat := i / entrySize t * entrySize t

/-- A finding at word `i` of table `t`: the restoration of its entry is asked for, one for all findings, or the route table is to be
recomputed (R434, R435). The fragment table has no golden copy (R332). -/
def askRestore (t i : Nat) (s : State) : State :=
  if t = 10 then s.onFab fun v => { v with routesDue := true }
  else if 10 < t then s
  else s.onInteg fun v => { v with restore := if v.restore.contains (t, entryBase t i) then v.restore else v.restore ++ [(t, entryBase t i)] }

/-- A table read that meets a slag mark (R429). -/
def tableSlag (t i : Nat) (s : State) : State := askRestore t i (note evIntTableSlag t 1 s)

/-- Result words of a command read from a table: slag-marked words read zero (R74); each slag-marked read counts TABLE_SLAG (R429), each mend CHK_CORR. -/
def readWords (s : State) (t i : Nat) (ws : List W32) : List WordRead :=
  (List.range ws.length).map fun k => readWord s t (i + k) (ws.getD k 0#32)

def noteReads (t i : Nat) : List WordRead → State → State
  | [], s => s
  | r :: l, s =>
    let s := note evIntChkCorr 0 r.mends s
    noteReads t (i + 1) l (if r.slag then tableSlag t i s else s)

/-- What the read of an entry of words from `i` on counts: each byte mended, and a slag mark in it once (R427, R429). -/
def noteEntry (t i : Nat) (ws : List W32) (s : State) : State :=
  if s.integ.flips.isEmpty then s
  else
    let n := note evIntChkCorr 0 (mendsOf s t i ws) s
    if entrySlag s t i ws then tableSlag t i n else n

/-- The answer of a read command over words `i`, `i + 1`, … of table `t`, after `pre` result words. -/
def readAnswer (t i : Nat) (ws pre : List W32) (s : State) : Answer :=
  let rs := readWords s t i ws
  let res := pre ++ rs.map fun r => if r.slag then 0#32 else r.val
  match rs.findIdx? WordRead.slag with
  | some k => .slagged (noteReads t i rs s) res (pre.length + k)
  | none => .done (noteReads t i rs s) res

end Sys2Proof.Machine
end

