-- ==== Sys2Proof/Machine/Anvil.lean ====
section
/-! DEFINITION. The connection map and its banks, the switch banks and the transit of a row (04_anvil_cross_connect R105–R121, R143, R147, R148). -/

namespace Sys2Proof.Machine

/-! ### Entries and banks -/

def entWin (w : W32) : Nat := fld w 31 27
def entBillet (w : W32) : Nat := fld w 26 13
def entType (w : W32) : Nat := fld w 12 10
def entGroup (w : W32) : Nat := fld w 9 0

/-- An entry is valid for destination position `d` (R109, R110, R7, R18). -/
def entryOk (s : State) (d : Nat) (w : W32) : Bool :=
  let t := entType w
  let dw := d / 16384
  windowMapped s dw && !(26 ≤ dw && dw ≤ 29 && t ≠ 0) &&
    (if t = 1 then entGroup w = 0 && windowMapped s (entWin w)
     else if t = 2 then windowMapped s (entWin w)
     else if t = 3 then entWin w ≤ 2 && entGroup w = 0
     else if t = 0 || t = 4 || t = 5 then entWin w = 0 && entBillet w = 0 && entGroup w = 0
     else false)

def activeBank (s : State) : List (Nat × W32) := if s.anvil.activeB then s.anvil.bankB else s.anvil.bankA
def shadowBank (s : State) : List (Nat × W32) := if s.anvil.activeB then s.anvil.bankA else s.anvil.bankB

/-- Table numbers of the banks (R432). -/
def activeTable (s : State) : Nat := if s.anvil.activeB then 1 else 0
def shadowTable (s : State) : Nat := if s.anvil.activeB then 0 else 1

/-- In-use entries: those whose TYPE is not UNEQUIPPED (R118). -/
def inUse (b : List (Nat × W32)) : Nat := (b.filter fun x => entType x.2 ≠ 0).length

/-- The shadow is sealed: a MAP_COMMIT waits for its row 0 (R113, R114). -/
def mapSealed (s : State) : Bool := !(waiting opMapCommit s).isEmpty

/-- Working switch banks w (R118). -/
def sbWorking (s : State) : Nat := 34 - s.mode.swBanksLost.length

/-- The limit L in a mode with `w` working switch banks (R118), and with those that work now. R118 names no limit of QUENCH, where the one of the modes other than TEMPER is shown (DESIGN CHOICE, log entry 119). -/
def limitOf (m : Mode) (w : Nat) : Nat := if m = .temper then 16384 * (min 32 w / 2) else 16384 * min 32 w
def limitIn (m : Mode) (s : State) : Nat := limitOf m (sbWorking s)

/-- Switch banks that work from the next row 0: a retirement that has been made takes effect there (R119, R404). -/
def sbNext (s : State) : Nat := 34 - (s.mode.swBanksLost ++ (s.mode.retireDue.filter fun x => x.1 = 2).map fun x => x.2.1).dedup.length
def mapLimit (s : State) : Nat := limitIn (baseMode s) s

/-- Mode of a MODE_SET code. -/
def modeOfCode (n : Nat) : Mode := if n = 2 then .forge else if n = 3 then .draw else .temper

/-- The stroke at which a waiting write acts. -/
def actsAt (s : State) (c : Option W48) : Nat := (c.map BitVec.toNat).getD (scnt s + 1)

/-- The latest valid slot of the profile store (R420). -/
def latestProfile (s : State) : Option (Bool × Profile) :=
  let good := fun (p : Option Profile) => match p with | some q => if q.valid then some q else none | none => none
  match good s.store.slotA, good s.store.slotB with
  | some a, some b => if a.seq.toNat < b.seq.toNat then some (true, b) else some (false, a)
  | some a, none => some (false, a)
  | none, some b => some (true, b)
  | none, none => none

/-- Working management cores. -/
def coresWorking (s : State) : Nat := 4 - s.mode.coresLost.length

/-- A bonded group waits for its commit. -/
def bondWaits (s : State) : Bool := (waiting opLineBondCfg s).any fun c => bit (c.p 0) 31

/-- The mode that a restoration enters: the stored one if it passes R395, otherwise FORGE (R421). A stored KINDLE or QUENCH is no target of R395 and fails it (DEDUCED, log entry 49). -/
def restoredMode (p : Profile) (s : State) : Mode :=
  if (p.mode = .draw || p.mode = .temper) && !bit p.bond 31 && !bondWaits s
    && (p.mode ≠ .temper || (decide (2 ≤ coresWorking s) && decide (inUse p.map ≤ limitIn .temper s))) then p.mode else .forge

/-- KINDLE at stage READY. -/
def kindleReady (s : State) : Bool := s.mode.mode = .kindle && s.boot.stage = .ready

/-- The mode in force at the stroke `n`, with every mode change that waits for a stroke at or before it (R119): the last MODE_SET,
and with none a restoration of the profile (R421). -/
def modeAt (s : State) (n : Nat) : Mode :=
  match (waiting opModeSet s).foldl (fun (a : Option (Nat × Mode)) c =>
      let k := actsAt s c.stroke
      if k ≤ n && (a.all fun x => decide (x.1 ≤ k)) then some (k, modeOfCode (fld (c.params.getD 0 0#32) 3 0)) else a) none with
  | some a => a.2
  | none =>
    match latestProfile s with
    | some (_, p) => if kindleReady s && (waiting opProfileRestore s).any fun c => decide (actsAt s c.stroke ≤ n) then restoredMode p s else baseMode s
    | none => baseMode s

/-- The limit L in force at the stroke `n` (R119). -/
def limitAt (s : State) (n : Nat) : Nat := limitOf (modeAt s n) (sbNext s)

/-! ### MAP_WRITE (R110, R112, R148) -/

/-- The entry for destination START + e. -/
def mapEntry (rq : Req) (e : Nat) : W32 :=
  if bit (rq.p 0) 31 then
    (if entType (rq.p 2) = 1 || entType (rq.p 2) = 2 then rq.p 2 + BitVec.ofNat 32 (e <<< 13) else rq.p 2)
  else rq.p (2 + e)

def mapEntries (rq : Req) : List W32 := (List.range (fld (rq.p 1) 14 0)).map (mapEntry rq)

/-- COUNT in its range and equal to the entry words sent, all destinations in one window, and in RUN form with CONNECT or SELECT the last SRC_BILLET at most 16,383 (R148). -/
def mapCountOk (rq : Req) : Bool :=
  let n := fld (rq.p 1) 14 0
  let st := fld (rq.p 0) 18 0
  decide (1 ≤ n) && decide (st / 16384 = (st + n - 1) / 16384) &&
    (if bit (rq.p 0) 31 then
      decide (n ≤ 16384) && (decide (entType (rq.p 2) ≠ 1 ∧ entType (rq.p 2) ≠ 2) || decide (entBillet (rq.p 2) + n - 1 ≤ 16383))
     else decide (n ≤ if rq.mac.isSome then 4083 else 4089) && decide (rq.params.length = 2 + n))

/-- The first invalid entry gives the offset (R110). -/
def mapEntryCheck (rq : Req) (s : State) : Check :=
  let st := fld (rq.p 0) 18 0
  match (List.range (fld (rq.p 1) 14 0)).find? fun e => !entryOk s (st + e) (mapEntry rq e) with
  | none => none
  | some e => some { st := .badParam, detail := 4 + 2 + (if bit (rq.p 0) 31 then 0 else e) }

/-- The unit is sealed or MAP_SYNC runs (R114, R115). -/
def mapBusy (s : State) : Check := need (!mapSealed s && s.anvil.sync.isNone) { st := .busy, detail := 2 }

/-- Entries from `k` on of the shadow bank and of its golden copy (R112, R434). -/
def writeShadow (k : Nat) (ws : List W32) (s : State) : State :=
  let s := cleanWords (shadowTable s) k ws.length s
  s.onAnvil fun v =>
    if v.activeB then { v with bankA := tsetMany 0#32 v.bankA k ws, goldA := tsetMany 0#32 v.goldA k ws }
    else { v with bankB := tsetMany 0#32 v.bankB k ws, goldB := tsetMany 0#32 v.goldB k ws }

/-- MAP_WRITE. In TEMPER the entries are read back before the reply, and a mismatch returns INTERNAL. -/
def doMapWrite (rq : Req) (s : State) : State :=
  command opMapWrite rq
    { par := [countIn (if bit (rq.p 0) 31 then 3 else 2) (if bit (rq.p 0) 31 then 3 else 4096) rq, onlyBits 0 0x8007FFFF#32 rq, onlyBits 1 0x00007FFF#32 rq,
        wordOk 1 (mapCountOk rq), if mapCountOk rq then mapEntryCheck rq s else none],
      late := [mapBusy s] } s
    fun s =>
      if backDiffers (shadowTable s) (fld (rq.p 0) 18 0) (fld (rq.p 1) 14 0) s then internalAnswer opMapWrite (s.onAnvil fun v => { v with backBad := [] })
      else .done ((writeShadow (fld (rq.p 0) 18 0) (mapEntries rq) s).onAnvil fun v =>
        { v with shadow := if v.shadow = .synced then .modified else v.shadow }) []
def execMapWrite (rq : Req) (s : State) : Host.Outcome State Fault Refusal := ok (doMapWrite rq s)

/-- MAP_COMMIT (R113, R119): seals the shadow; answers the bank that is active from S. -/
def doMapCommit (rq : Req) (s : State) : State :=
  command opMapCommit rq
    { par := [countIs 0 rq],
      late := [mapBusy s,
        need (decide (inUse (shadowBank s) ≤ limitAt s (actsAt s (if rq.cmt then some rq.commit else none)))) { st := .capacity, detail := 2 }] } s
    fun s => .done (addCommit opMapCommit rq s) [word [(flag !s.anvil.activeB, 0)]]
def execMapCommit (rq : Req) (s : State) : Host.Outcome State Fault Refusal := ok (doMapCommit rq s)

/-- The bank swap at row 0 of S (R113): the former active bank is the shadow, STALE. A map that fits L clears SHED (R120). A map that was accepted under an L which a retirement
has lowered since is not shed at the swap, and a shed limit in force stays: the spec states no shedding there (DESIGN CHOICE, log entry 94). -/
def applyMapCommit (s : State) : State :=
  let s := s.onAnvil fun v => { v with activeB := !v.activeB, shadow := .stale }
  if inUse (activeBank s) ≤ mapLimit s then s.onAnvil fun v => { v with shedLimit := none } else s

/-- MAP_SYNC (R115). -/
def doMapSync (rq : Req) (s : State) : State :=
  command opMapSync rq { par := [countIs 0 rq], late := [mapBusy s] } s
    fun s => .wait (s.onAnvil fun v => { v with sync := some (deferred opMapSync rq s) })
def execMapSync (rq : Req) (s : State) : Host.Outcome State Fault Refusal := ok (doMapSync rq s)

/-- MAP_SYNC_DONE (R115): the shadow and its golden copy equal the active bank. In TEMPER a read-back that differs ends it with INTERNAL, the shadow as before (R398). -/
def execMapSyncDone (s : State) : Host.Outcome State Fault Refusal :=
  ok (match s.anvil.sync with
    | none => s
    | some d =>
      if backDiffers (shadowTable s) 0 524288 s then internalReply d (s.onAnvil fun v => { v with backBad := [], sync := none }) else
      let s := cleanWords (shadowTable s) 0 524288 s
      replyDeferred d { st := .ok } [] (s.onAnvil fun v =>
        if v.activeB then { v with bankA := v.bankB, goldA := v.bankB, shadow := .synced, sync := none }
        else { v with bankB := v.bankA, goldB := v.bankA, shadow := .synced, sync := none }))

/-- QUENCH aborts a running MAP_SYNC, which replies MODE_REFUSED with DETAIL 1 and leaves the shadow STALE (R115). -/
def abortMapSync (s : State) : State :=
  match s.anvil.sync with
  | none => s
  | some d => replyDeferred d { st := .modeRefused, detail := 1 } [] (s.onAnvil fun v => { v with shadow := .stale, sync := none })

/-- MAP_READ (R147). -/
def doMapRead (rq : Req) (s : State) : State :=
  let sh := bit (rq.p 0) 31
  let st := fld (rq.p 0) 18 0
  let n := fld (rq.p 1) 11 0
  command opMapRead rq
    { par := [countIs 2 rq, onlyBits 0 0x8007FFFF#32 rq, onlyBits 1 0x00000FFF#32 rq, wordOk 1 (decide (1 ≤ n) && decide (n ≤ 4000) && decide (st + n ≤ 524288))] } s
    fun s => readAnswer (if sh then shadowTable s else activeTable s) st (tgetMany 0#32 (if sh then shadowBank s else activeBank s) st n) [] s
def execMapRead (rq : Req) (s : State) : Host.Outcome State Fault Refusal := ok (doMapRead rq s)

def ShadowState.code : ShadowState → Nat
  | .synced => 0 | .modified => 1 | .stale => 2

/-- Entries shed (R120): the in-use entries with the highest positions, as many as exceed the limit shed to. -/
def shedCount (s : State) : Nat :=
  match s.anvil.shedLimit with
  | none => 0
  | some l => inUse (activeBank s) - l

/-- MAP_STATUS words 0–5. COMMIT is that of the waiting MAP_COMMIT, 0 when it carries none. -/
def mapStatusWords (s : State) : List W32 :=
  let c := match waiting opMapCommit s with | c :: _ => c.stroke.getD 0#48 | [] => 0#48
  [word [(flag s.anvil.activeB, 31), (flag (mapSealed s), 30), (s.anvil.shadow.code, 28), (hi16 c, 0)],
   BitVec.ofNat 32 (lo32 c),
   word [(inUse (activeBank s), 0)],
   word [(inUse (shadowBank s), 0)],
   word [(sbWorking s, 20), (mapLimit s, 0)],
   word [(shedCount s, 0)]]

/-- MAP_STATUS_READ. -/
def doMapStatusRead (rq : Req) (s : State) : State :=
  command opMapStatusRead rq { par := [countIs 0 rq] } s fun s => .done s (mapStatusWords s)
def execMapStatusRead (rq : Req) (s : State) : Host.Outcome State Fault Refusal := ok (doMapStatusRead rq s)

/-! ### Pseudo-random sequences (R143) -/

/-- Degree and lower tap of sequence c: bit n is bit n − m XOR bit n − t. -/
def prbsTaps (c : Nat) : Nat × Nat := if c = 0 then (31, 28) else if c = 1 then (23, 18) else (9, 5)

/-- Multiplication by x modulo the sequence's characteristic polynomial xᵐ = x^(m−t) + 1. -/
def polyX (m t a : Nat) : Nat :=
  let b := a * 2
  if b.testBit m then b ^^^ (1 <<< m) ^^^ (1 <<< (m - t)) ^^^ 1 else b

def polyMulN (m t : Nat) : Nat → Nat → Nat → Nat
  | 0, _, _ => 0
  | n + 1, a, b => (if b % 2 = 1 then a else 0) ^^^ polyMulN m t n (polyX m t a) (b / 2)

def polyPow (m t : Nat) : Nat → Nat → Nat
  | 0, _ => 1
  | k + 1, n =>
    let h := polyPow m t k (n / 2)
    let h2 := polyMulN m t m h h
    if n % 2 = 1 then polyX m t h2 else h2

def parityN : Nat → Nat → Bool
  | 0, _ => false
  | k + 1, n => xor (n % 2 = 1) (parityN k (n / 2))

/-- Bits n, n + 1, … of sequence c, from its first m bits. -/
def prbsFrom (c : Nat) : Nat → Nat → List Bool
  | 0, _ => []
  | k + 1, p => parityN 31 (p &&& Config.prbsOrigin c) :: prbsFrom c k (polyX (prbsTaps c).1 (prbsTaps c).2 p)

def byteOfBits (bs : List Bool) : Byte := BitVec.ofNat 8 (bs.foldl (fun a b => 2 * a + flag b) 0)

/-- The two bytes that PATTERN sequence c with a seed sends in row r of stroke S (R143). -/
def patternCell (c seed stroke r : Nat) : Cell :=
  let m := (prbsTaps c).1
  let n := (2000 * stroke + 16 * r + 131072 * seed) % (2 ^ m - 1)
  let bs := prbsFrom c 16 (polyPow m (prbsTaps c).2 32 n)
  { b0 := byteOfBits (bs.take 8), b1 := byteOfBits (bs.drop 8) }

/-! ### Transit (R16, R19, R109, R116, R118–R121) -/

def Fill.cell : Fill → Cell
  | .unequipped => {}
  | .ais => { b0 := 0xFF#8, b1 := 0xFF#8 }
  | .lock => { b0 := 0x55#8, b1 := 0x55#8 }
  | .slag => { s0 := true, s1 := true }

/-- Six-lane operation of a fabric port, by side. -/
def portOf (s : State) (p : Nat) : PortSt := tget {} s.fab.port p

/-- Line rate of an engine's transmitter, and of its receiver, in 100 Gb/s. -/
def txEng (s : State) (e : Nat) : TxSt := tget {} s.tx.eng e
def rxEng (s : State) (e : Nat) : RxSt := tget {} s.rx.eng e
/-- Line rates in force: engine 0 rules all four while BOND is 1 (R230, R238). -/
def ruling (s : State) (e : Nat) : Nat := if bit s.tx.bond 31 then 0 else e
def txRate (s : State) (e : Nat) : Nat := fld ((txEng s (ruling s e)).cfg.getD 0 0#32) 28 24
def rxRate (s : State) (e : Nat) : Nat := fld ((rxEng s (ruling s e)).cfg.getD 0 0#32) 28 24

/-- Billet number of an engine's position (R15). -/
def lineBillet (w i : Nat) : Nat := (w % 2) * 16384 + i

/-- Both bytes of a position carry the slag mark where ERR_INJECT KIND 1 names it (R146). -/
def injected (l : List Nat) (pos : Nat) (c : Cell) : Cell := if l.contains pos then { c with s0 := true, s1 := true } else c

/-- The transported range of the ingress side of a window (R14–R16). -/
def transported (s : State) (w i : Nat) : Bool :=
  if w < 8 then lineBillet w i < min 24000 (rxRate s (w / 2) * 1000)
  else if w < 14 then i < 16000
  else if w < 26 then i < (if (portOf s (w - 14)).lanes6Rx then 11520 else 15360)
  else true

/-- What ingress position `pos` presented in the row before. -/
def ingressCell (s : State) (pos : Nat) : Cell :=
  let w := pos / 16384
  if !transported s w (pos % 16384) then {}
  else injected s.rows.prevMarked pos (match s.rows.prevFill.find? fun x => x.1 = w with
    | some x => x.2.cell
    | none => tget {} s.rows.prevIngress pos)

/-- The cell that an ingress position presents in this row. -/
def ingressNow (s : State) (pos : Nat) : Cell :=
  let w := pos / 16384
  if !transported s w (pos % 16384) then {}
  else injected s.rows.marked pos (match s.rows.winFill.find? fun x => x.1 = w with
    | some x => x.2.cell
    | none => tget {} s.rows.ingress pos)

/-- Selection and protection offset of a group: bit 0 selects protection (R109, R153). -/
def groupOf (s : State) (g : Nat) : GroupSt := tget {} s.prot.grp g

/-- What an active entry delivers in the row in progress, for its word as read (R109). -/
def deliverEntry (s : State) (offset : Nat → Nat) (w : W32) : Cell :=
  let src := entWin w * 16384 + entBillet w
  match entType w with
  | 1 => ingressCell s src
  | 2 => ingressCell s (if (groupOf s (entGroup w)).sel then (src + offset (entGroup w)) % 524288 else src)
  | 3 => patternCell (entWin w) (entBillet w) (scnt s) s.stk.row
  | 4 => Fill.lock.cell
  | 5 => Fill.ais.cell
  | _ => {}

/-- The entries that a row reads and that can deliver or count something: the in-use ones, and UNEQUIPPED ones whose read does not give back 0
(R116). When more are in use than the limit, those with the highest positions are shed: read, and UNEQUIPPED whatever they hold (R120); the
flag says that an entry is not shed. -/
def readEntries (s : State) : List (Nat × W32 × Bool) :=
  let b := activeBank s
  let used := b.filter fun x => entType x.2 ≠ 0
  let l := s.anvil.shedLimit.getD used.length
  let idle := b.filter fun x => entType x.2 = 0
  let upset := (s.integ.flips.filter fun x => x.1 / 2 ^ 24 = activeTable s && !(b.any fun y => y.1 = x.1 % 2 ^ 24)).map fun x => (x.1 % 2 ^ 24, 0#32)
  (used.take l).map (fun x => (x.1, x.2, true)) ++ (used.drop l).map (fun x => (x.1, x.2, false))
    ++ ((idle ++ upset).filter fun x => windowMapped s (x.1 / 16384)).map fun x => (x.1, x.2, true)

/-- What the read of an active entry counts: a slag-marked or invalid one MAP_SLAG and, where it is slag-marked, TABLE_SLAG; either asks for its restoration (R116, R429). -/
def noteMapRead (t d : Nat) (rd : WordRead) (s : State) : State :=
  let bad := rd.slag || !entryOk s d rd.val
  let s := note evIntChkCorr 0 rd.mends s
  if bad then
    let s := note evAnvMapSlag 0 1 s
    if rd.slag then tableSlag t d s else askRestore t d s
  else s

/-- Reads the active entries one by one: a slag-marked or invalid entry gives UNEQUIPPED fill (R116). -/
def transitFrom (t : Nat) (offset : Nat → Nat) : List (Nat × W32 × Bool) → State → List (Nat × Cell) → State × List (Nat × Cell)
  | [], s, out => (s, out)
  | (d, w, live) :: r, s, out =>
    let rd := readWord s t d w
    transitFrom t offset r (noteMapRead t d rd s)
      (if rd.slag || !entryOk s d rd.val || !live then out else tset {} out d (deliverEntry s offset rd.val))

/-- A physical error of the switching memory met in a row (R121, R436). -/
def markSlag (byte : Nat) (c : Cell) : Cell := if byte = 0 then { c with s0 := true } else { c with s1 := true }

def noteSwUe (b : Nat) (s : State) : State :=
  (note evIntSwUe b 1 s).onMode (fun v => { v with cfiNow := v.cfiNow + 1 }) |>.onAnvil fun v => { v with swUeNow := ins v.swUeNow b }

def applySwErr (e : SwErr) (s : State) : State :=
  let mark := fun (s : State) => s.onRows fun v => { v with egress := tmod {} v.egress e.pos (markSlag e.byte) }
  match e.kind with
  | .mended => note evIntSwCe e.bank 1 s
  | .oneBad =>
    if baseMode s = .temper then note evAnvTemperFix 0 1 (noteSwUe e.bank s) else mark (noteSwUe e.bank s)
  | .bothBad =>
    if baseMode s = .temper then mark (note evAnvTemperMiscompare 0 1 (noteSwUe e.bank2 (noteSwUe e.bank s))) else mark (noteSwUe e.bank s)
  | .differ => if baseMode s = .temper then mark (note evAnvTemperMiscompare 0 1 s) else s

def applySwErrs : List SwErr → State → State
  | [], s => s
  | e :: r, s => applySwErrs r (applySwErr e s)

/-- The Anvil transit of one row (R19): the egress row, from the ingress row before and the map active in the egress row. -/
def transit (offset : Nat → Nat) (errs : List SwErr) (s : State) : State :=
  if inQuench s then s.onRows fun v => { v with egress := [] }
  else
    let (s, out) := transitFrom (activeTable s) offset (readEntries s) s []
    applySwErrs errs (s.onRows fun v => { v with egress := out })

/-- At the end of a second: the banks that counted SW_UE (INTEG_STATUS), and the banks with SW_UE in 3 consecutive seconds, which are retired (R436). -/
def swSecond (s : State) : State × List Nat :=
  let runs := (List.range 34).map fun b => (b, if s.anvil.swUeNow.contains b then tget 0 s.anvil.swUeRuns b + 1 else 0)
  let s' := s.onAnvil fun v => { v with swUeLast := v.swUeNow, swUeNow := [], swUeRuns := runs.filter fun x => x.2 ≠ 0 }
  (s', (runs.filter fun x => x.2 = 3 && !s.mode.swBanksLost.contains x.1).map Prod.fst)

/-- After a bank is retired: a map that no longer fits is shed to the new limit from the next row 0 (R120). -/
def shedIfNeeded (s : State) : State :=
  if mapLimit s < inUse (activeBank s) then s.onAnvil fun v => { v with shedLimit := some (mapLimit s) } else s

end Sys2Proof.Machine
end

