-- ==== Sys2Proof/Machine/Checkers.lean ====
section
/-! DEFINITION. Self-synchronising pattern checkers (04_anvil_cross_connect R144, R145) and the PRBS-31 generator of the TEST source. -/

namespace Sys2Proof.Machine

def popCount (n v : Nat) : Nat := ((List.range n).filter fun i => v.testBit i).length

/-- One received bit, against `ref` of the m bits before it, of which bit k came k + 1 bits ago. In sync after 64 error-free bits, out of sync after 16 errored bits in 64. -/
def checkStep (m : Nat) (ref : Nat → Bool) (b : Bool) (x : Checker) : Checker :=
  let hist := (2 * x.hist + flag b) % 2 ^ m
  if x.seen < m then { x with hist := hist, seen := x.seen + 1 }
  else
    let e := xor b (ref x.hist)
    let errs := (2 * x.errs.toNat + flag e) % 2 ^ 64
    let run := if e then 0 else x.run + 1
    let y := { x with
      hist := hist, errs := BitVec.ofNat 64 errs, run := run
      bits := if x.sync then x.bits + 1#48 else x.bits
      err := if x.sync && e then x.err + 1#48 else x.err }
    if x.sync then (if 16 ≤ popCount 64 errs then { y with sync := false, run := 0 } else y)
    else if 64 ≤ run then { y with sync := true, errs := 0#64 } else y

/-- Bit n is compared with bit n − m XOR bit n − t of the same stream. -/
def checkBit (m t : Nat) (b : Bool) (x : Checker) : Checker := checkStep m (fun h => xor (h.testBit (m - 1)) (h.testBit (t - 1))) b x

def checkBits8 (m t : Nat) : List Bool → Checker → Checker
  | [], x => x
  | b :: r, x => checkBits8 m t r (checkBit m t b x)

/-- One received byte. A slag-marked byte is counted and not checked; the bits that follow it are compared once m of them have been received (DEDUCED, log entry 19). -/
def checkByte (m t : Nat) (b : SByte) (x : Checker) : Checker :=
  if b.2 then { x with slag := if x.slag = 0xFFFFFFFF#32 then x.slag else x.slag + 1#32, seen := 0 }
  else checkBits8 m t (bitsOfByte b.1) x

def checkBytes (m t : Nat) : List SByte → Checker → Checker
  | [], x => x
  | b :: r, x => checkBytes m t r (checkByte m t b x)

/-- The next n bits of PRBS-31 from a register whose bit k is the bit sent k + 1 bits ago, newest bit 0. -/
def prbs31 : Nat → Nat → Nat × List Bool
  | 0, v => (v, [])
  | n + 1, v =>
    let b := xor (v.testBit 30) (v.testBit 27)
    let r := prbs31 n ((2 * v + flag b) % 2 ^ 31)
    (r.1, b :: r.2)

/-- BA_RESULT words 0–4 of one or more checkers: in sync when each is, counts added. -/
def checkerWords (xs : List Checker) : List W32 :=
  let bits := (xs.map fun x => x.bits.toNat).sum % 2 ^ 48
  let err := (xs.map fun x => x.err.toNat).sum % 2 ^ 48
  let slag := (xs.map fun x => x.slag.toNat).sum
  [word [(flag (xs.all Checker.sync && !xs.isEmpty), 31), (bits >>> 32, 0)], BitVec.ofNat 32 bits, word [(err >>> 32, 0)], BitVec.ofNat 32 err,
    BitVec.ofNat 32 (min slag 0xFFFFFFFF)]

end Sys2Proof.Machine
end

