-- ==== Sys2Proof/Machine/Context.lean ====
section
/-! DEFINITION. Security contexts as the container sides see them (12_container_security R346–R365), and the configuration of containers and client ports that several families judge. -/

namespace Sys2Proof.Machine

/-! ### Containers in force (R122) -/

def contEntry (s : State) (c : Nat) : ContEntry := tget {} s.cont.table c
def srcOf (s : State) (c : Nat) : SrcSt := tget {} s.cont.src c
def snkOf (s : State) (c : Nat) : SinkSt := tget {} s.cont.snk c
def onSrc (c : Nat) (f : SrcSt → SrcSt) (s : State) : State := s.onCont fun v => { v with src := tmod {} v.src c f }
def onSnk (c : Nat) (f : SinkSt → SinkSt) (s : State) : State := s.onCont fun v => { v with snk := tmod {} v.snk c f }

def ContEntry.srcEn (e : ContEntry) : Bool := bit e.w0 31
def ContEntry.snkEn (e : ContEntry) : Bool := bit e.w0 30
def ContEntry.home (e : ContEntry) : Nat := fld e.w0 29 27
def ContEntry.pt (e : ContEntry) : Nat := fld e.w0 23 16
def ContEntry.unit (e : ContEntry) : Nat := fld e.w0 13 8
def ContEntry.txPlbl (e : ContEntry) : Nat := fld e.w1 31 16
def ContEntry.expPlbl (e : ContEntry) : Nat := fld e.w1 15 0
def ContEntry.degThr (e : ContEntry) : Nat := fld e.w2 31 16
def ContEntry.degM (e : ContEntry) : Nat := fld e.w2 15 12
def ContEntry.cmmAct (e : ContEntry) : Bool := bit e.w2 0
def ContEntry.runCount (e : ContEntry) : Nat := fld e.w3 20 16
def ContEntry.n (e : ContEntry) : Nat := fld e.w3 14 0
def ContEntry.words (e : ContEntry) : List W32 := [e.w0, e.w1, e.w2, e.w3]

/-- Billets of one run, as (first global position, length) (R122). -/
def runSpan (w : W32) : Nat × Nat := (fld w 31 27 * 16384 + fld w 26 13, fld w 12 0 + 1)
def ContEntry.billets (e : ContEntry) : Nat := (e.runs.map fun r => (runSpan r).2).sum

/-- Global position of billet i of a container (R123). -/
def billetPos : List W32 → Nat → Option Nat
  | [], _ => none
  | r :: l, i => if i < (runSpan r).2 then some ((runSpan r).1 + i) else billetPos l (i - (runSpan r).2)

/-- All positions of a container in billet order. -/
def billetList (e : ContEntry) : List Nat := e.runs.flatMap fun r => (List.range (runSpan r).2).map ((runSpan r).1 + ·)

/-- The entry that a waiting CONT_CFG writes. -/
def entryOfParams (ps : List W32) : ContEntry :=
  let w := fun i => ps.getD i 0#32
  { w0 := w 1, w1 := w 2, w2 := w 3, w3 := w 4, runs := ps.drop 5 }

def contObj (w : W32) : Nat := fld w 13 0

/-- A container's entry as last written, a waiting write included. -/
def contLast (s : State) (c : Nat) : ContEntry :=
  match lastWaiting opContCfg contObj c s with
  | some k => entryOfParams k.params
  | none => contEntry s c

/-- Entries of a container in force and pending. -/
def contViews (s : State) (c : Nat) : List ContEntry :=
  contEntry s c :: ((waiting opContCfg s).filter fun k => contObj (k.p 0) = c).map fun k => entryOfParams k.params

/-- Containers that have an entry in force or pending beyond the reset one. -/
def contIds (s : State) : List Nat :=
  (s.cont.table.map Prod.fst ++ (waiting opContCfg s).map fun k => contObj (k.p 0)).dedup

/-- First word of a container's runs in the run pool: the runs of lower-numbered containers stand before them (DESIGN CHOICE, log entry 30). -/
def poolIndex (s : State) (c : Nat) : Nat := ((s.cont.table.filter fun x => x.1 < c).map fun x => x.2.runs.length).sum

/-- A container's entry as the overhead engine reads it (R427). -/
def seenEntry (s : State) (c : Nat) (e : ContEntry) : ContEntry :=
  if s.integ.flips.isEmpty then e
  else
    let w := delivered s 2 (4 * c) e.words
    { e with w0 := w.getD 0 e.w0, w1 := w.getD 1 e.w1, w2 := w.getD 2 e.w2, w3 := w.getD 3 e.w3, runs := delivered s 3 (poolIndex s c) e.runs }
def contSeen (s : State) (c : Nat) : ContEntry := seenEntry s c (contEntry s c)

/-- Containers with a side enabled in force. -/
def seenTable (s : State) : List (Nat × ContEntry) := if s.integ.flips.isEmpty then s.cont.table else s.cont.table.map fun x => (x.1, seenEntry s x.1 x.2)
def enabledSrc (s : State) : List (Nat × ContEntry) := (seenTable s).filter fun x => x.2.srcEn
def enabledSnk (s : State) : List (Nat × ContEntry) := (seenTable s).filter fun x => x.2.snkEn

/-- The read of a container's entry or of its run words meets a slag mark (R140). -/
def contUnread (s : State) (c : Nat) : Bool :=
  let e := contEntry s c
  entrySlag s 2 (4 * c) e.words || entrySlag s 3 (poolIndex s c) e.runs

/-- What a read of the entry and its run words counts: a slag-marked one asks for the restoration of the entry and of each run word that it met (R140), each mend is counted (R427). -/
def contAsk (c : Nat) (s : State) : State :=
  if s.integ.flips.isEmpty then s
  else
    let e := contEntry s c
    noteReads 3 (poolIndex s c) (readWords s 3 (poolIndex s c) e.runs) (noteEntry 2 (4 * c) e.words s)

/-! ### Contexts (R351–R354) -/

def secDefault : List W32 := [0x00020000#32, 0#32, 0#32, 0#32]
def secCfg (s : State) (k : Nat) : List W32 := tget secDefault s.sec.cfg k

/-- SEC_CFG of a context as the cipher reads it (R427). -/
def secSeen (s : State) (k : Nat) : List W32 := delivered s 5 (4 * k) (secCfg s k)

/-- What the cipher's read of SEC_CFG counts (R427, R429). -/
def secAsk (k : Nat) (s : State) : State := noteEntry 5 (4 * k) (secCfg s k) s
def ctxOf (s : State) (k : Nat) : CtxSt := tget {} s.sec.ctx k
def onCtx (k : Nat) (f : CtxSt → CtxSt) (s : State) : State := s.onSec fun v => { v with ctx := tmod {} v.ctx k f }

def ctxEnable (w : List W32) : Bool := bit (w.getD 0 0#32) 31
def ctxBind (w : List W32) : Bool := bit (w.getD 0 0#32) 30
def ctxRequire (w : List W32) : Bool := bit (w.getD 0 0#32) 29
def ctxFailLimit (w : List W32) : Nat := fld (w.getD 0 0#32) 21 14
def ctxCont (w : List W32) : Nat := fld (w.getD 0 0#32) 13 0

/-- The context whose BIND in force is 1 and that names the container; none on a -N part (R365). -/
def boundCtx (s : State) (c : Nat) : Option Nat :=
  if s.fused.secPresent then (s.sec.cfg.find? fun x => ctxBind x.2 && ctxCont x.2 = c).map Prod.fst else none

/-- SEC_CFG words of a context in force and pending. -/
def secViews (s : State) (k : Nat) : List (List W32) :=
  secCfg s k :: ((waiting opSecCfg s).filter fun c => fld (c.p 0) 9 0 = k).map fun c => c.params.drop 1

def secIds (s : State) : List Nat := (s.sec.cfg.map Prod.fst ++ (waiting opSecCfg s).map fun c => fld (c.p 0) 9 0).dedup

/-- A context whose BIND is 1, in force or pending, names the container (R123, R352). -/
def boundEver (s : State) (c : Nat) : Bool :=
  (secIds s).any fun k => (secViews s k).any fun w => ctxBind w && ctxCont w = c

/-- A context reports the dSECMM of the container that it binds (R365). -/
def reportSecMm (k : Nat) (s : State) : State :=
  let now := (snkOf s (ctxCont (secCfg s k))).defects.contains .secmm
  noteChange evSecDSecmm k (ctxOf s k).secMm now (onCtx k (fun y => { y with secMm := now }) s)

/-- Slot `n` of a context. -/
def slotKey (x : CtxSt) (n : Nat) : Option (BitVec 256) := if n = 0 then x.key0 else x.key1
def lastTx (x : CtxSt) (n : Nat) : W48 := tget 0#48 x.lastTx n
def highRx (x : CtxSt) (n : Nat) : W48 := tget 0#48 x.highRx n

/-- A slot has encrypted a unit since its key was loaded (LAST_TX holds a value). -/
def usedTx (x : CtxSt) (n : Nat) : Bool := x.txUsed.contains n
def usedRx (x : CtxSt) (n : Nat) : Bool := x.rxUsed.contains n

/-- The state a context takes at row 0 (R354). -/
def ctxEval (s : State) (k : Nat) : CtxState :=
  let w := secCfg s k
  let x := ctxOf s k
  if !ctxBind w then .off
  else if x.keyLoss then .keyLoss
  else if !ctxEnable w then .locked
  else if (slotKey x x.cur).isNone then .noKey
  else if usedTx x x.cur && decide (scnt s ≤ (lastTx x x.cur).toNat) then .ivHold
  else .run

/-! ### Client rates (R134, R135, R297, R303) -/

def cliPort (s : State) (p : Nat) : W32 := tget 0x01000000#32 s.cli.portCfg p

/-- ceil(rate × (1 + tol) × 20 µs / 8) for a rate in bit/s and a tolerance in ppm (R135). -/
def bytesPerStroke (rate ppm : Nat) : Nat := ceilDiv (rate * (1000000 + ppm) * 20) (8 * 1000000 * 1000000)

/-- c_max of the Ethernet mapping for a rate in units of 100 Gb/s (R134). -/
def ethCmax (r100 : Nat) : Nat :=
  if r100 = 1 then 249610 else if r100 = 2 then 499219 else if r100 = 4 then 998437 else if r100 = 8 then 1996874 else 3993747

def minFor (bytes h : Nat) : Nat := ceilDiv (bytes + h) 250

end Sys2Proof.Machine
end

