-- ==== Sys2Proof/Machine/System.lean ====
section
/-! DEFINITION. System opcodes 0x00xx (03_polast_commands R104). -/

namespace Sys2Proof.Machine

/-- Bits [11:0] of INT_STATUS: the stored W1C bits, with FAULT (R402) and EVENT (R454) as mirrors. -/
def intStatusWord (s : State) : W32 :=
  word [((s.cmd.intStatus &&& 0x3FF#32).toNat, 0), (flag !s.ev.log.isEmpty, 10), (flag !s.mode.latched.isEmpty, 11)]

/-- CAPS words 0–2 (R4). -/
def capsWords (s : State) : List W32 :=
  [word [(s.fused.partCode.toNat, 16), (s.fused.stepping.toNat, 12), (flag (bondCapable s), 2), (flag (groomPresent s), 1), (flag s.fused.secPresent, 0)],
   BitVec.ofNat 32 (bitsOf ((List.range 32).filter (windowMapped s))),
   word [(12, 16), (48, 8), (bitsOf ((List.range 4).filter (enginePresent s)), 0)]]

/-- SYS_STATUS words 0–2. -/
def sysStatusWords (s : State) : List W32 :=
  [word [(s.mode.mode.code, 28), ((if s.mode.mode = .anneal then s.mode.origin else s.mode.mode).code, 24), (flag (provisioned s), 23),
     (flag s.boot.rom, 22), (flag s.mode.rplc, 21), (flag !s.mode.latched.isEmpty, 20), (s.fab.nodeAddr.toNat, 0)],
   if s.boot.rom then 0#32 else s.boot.fwVersion,
   word [(s.store.record.length, 0)]]

/-- The level on an output pin; an open-drain pin is low or high impedance. -/
inductive PinLevel where
  | hiZ | low | high
  deriving DecidableEq, Repr

/-- The level at which the scan holds a pin: that of its cell under EXTEST, EXTEST_PULSE, EXTEST_TRAIN and CLAMP, high impedance under HIGHZ; none where the scan does not hold
the pins (R472, R473; PRESUMED of IEEE 1149.1, log entry 125). -/
def scanPin (s : State) (p : ScanPin) : Option PinLevel :=
  if !s.pins.powered then none
  else
    match s.pins.jtag with
    | .extest | .extestPulse | .extestTrain | .clamp => some (if s.pins.scan.contains (p, true) then .high else .low)
    | .highz => some .hiZ
    | .bypass | .idcode | .sample | .preload | .other => none

/-- A pin that is high, or low, by the scan where it holds the pin, else by `own`. -/
def heldOr (s : State) (p : ScanPin) (l : PinLevel) (own : Bool) : Bool := match scanPin s p with | some x => x = l | none => own

/-- FILL that QUEUE_STATUS shows for queue `q`: the host reply ring for q = 6–9. -/
def shownFill (s : State) (q : Nat) : Nat := if 6 ≤ q ∧ q ≤ 9 then ringFill (chanOf s (q - 6)) else qfill s q

def queueStatusWords (s : State) : List W32 :=
  (List.range 12).map (fun q => word [(shownFill s q, 0)]) ++ [intStatusWord s, word [(s.cmd.fwd.length, 0)]]

/-- ECHO (R104). -/
def doEcho (rq : Req) (s : State) : State :=
  command opEcho rq { par := [countIn 0 (if rq.mac.isSome then 4084 else 4090) rq] } s fun s => .done s rq.params
def execEcho (rq : Req) (s : State) : Host.Outcome State Fault Refusal := ok (doEcho rq s)

/-- CAPS_READ (R4). -/
def doCapsRead (rq : Req) (s : State) : State :=
  command opCapsRead rq { par := [countIs 0 rq] } s fun s => .done s (capsWords s)
def execCapsRead (rq : Req) (s : State) : Host.Outcome State Fault Refusal := ok (doCapsRead rq s)

/-- SYS_STATUS_READ (R104). -/
def doSysStatusRead (rq : Req) (s : State) : State :=
  command opSysStatusRead rq { par := [countIs 0 rq] } s fun s => .done s (sysStatusWords s)
def execSysStatusRead (rq : Req) (s : State) : Host.Outcome State Fault Refusal := ok (doSysStatusRead rq s)

/-- QUEUE_STATUS_READ (R104). -/
def doQueueStatusRead (rq : Req) (s : State) : State :=
  command opQueueStatusRead rq { par := [countIs 0 rq] } s fun s => .done s (queueStatusWords s)
def execQueueStatusRead (rq : Req) (s : State) : Host.Outcome State Fault Refusal := ok (doQueueStatusRead rq s)

/-- Highest LEVEL of queue `q`: 8,192, and for q = 6–9 the RPL_SIZE of the ring; with the ring off, the largest ring
(DEDUCED, log entry 15). -/
def levelMax (s : State) (q : Nat) : Nat :=
  if 6 ≤ q ∧ q ≤ 9 then (if (chanOf s (q - 6)).rplSize = 0#32 then 1048576 else (chanOf s (q - 6)).rplSize.toNat) else 8192

/-- QUEUE_CFG (R80, R94, R104). -/
def doQueueCfg (rq : Req) (s : State) : State :=
  command opQueueCfg rq
    { par := countIs 15 rq ::
        ((List.range 12).map (fun q => wordOk q (decide ((rq.p q).toNat ≤ levelMax s q)))
          ++ [wordOk 12 (decide (50 ≤ (rq.p 12).toNat) && decide ((rq.p 12).toNat ≤ 500000)), wordOk 13 (rq.p 13 &&& 0xFFFFF000#32 = 0#32), onlyBits 14 0x00000001#32 rq]) } s
    fun s => .done (s.onCmd fun v => { v with
      levels := (List.range 12).map (fun q => (rq.p q).toNat), fwdTimeout := (rq.p 12).setWidth 32, intMask := rq.p 13,
      intPinEn := bit (rq.p 14) 0 }) []
def execQueueCfg (rq : Req) (s : State) : Host.Outcome State Fault Refusal := ok (doQueueCfg rq s)

/-- Flushes the queues named by a bit map (R79). -/
def flushMask : List Nat → State → State
  | [], s => s
  | q :: r, s => flushMask r (flushQueue q s)

/-- QUEUE_FLUSH (R79): bit q flushes queue q. The command itself has left its queue, and its reply is committed after the flush. -/
def doQueueFlush (rq : Req) (s : State) : State :=
  command opQueueFlush rq { par := [countIs 1 rq, onlyBits 0 0x00000FFF#32 rq] } s
    fun s => .done (flushMask (bitList 12 (rq.p 0).toNat) s) []
def execQueueFlush (rq : Req) (s : State) : Host.Outcome State Fault Refusal := ok (doQueueFlush rq s)

/-- ACCESS_POLICY_READ (R104). -/
def doAccessPolicyRead (rq : Req) (s : State) : State :=
  command opAccessPolicyRead rq { par := [countIs 0 rq] } s
    fun s => .done s [unauthWord s.cmd.unauth, word [(flag s.cmd.obsCounters, 0)]]
def execAccessPolicyRead (rq : Req) (s : State) : Host.Outcome State Fault Refusal := ok (doAccessPolicyRead rq s)

/-- ACCESS_POLICY_WRITE (R96, R97): each queue's level is 1 or 2. -/
def doAccessPolicyWrite (rq : Req) (s : State) : State :=
  command opAccessPolicyWrite rq
    { par := [countIs 2 rq,
        wordOk 0 (decide ((rq.p 0).toNat < 4096) && (List.range 6).all (fun q => decide (fld (rq.p 0) (2 * q + 1) (2 * q) ∈ [1, 2]))),
        onlyBits 1 0x00000001#32 rq] } s
    fun s => .done (s.onCmd fun v => { v with unauth := unauthOf (rq.p 0), obsCounters := bit (rq.p 1) 0 }) []
def execAccessPolicyWrite (rq : Req) (s : State) : Host.Outcome State Fault Refusal := ok (doAccessPolicyWrite rq s)

/-- INT_CLEAR (R104): 1 clears a W1C bit. FAULT and EVENT are RO, and a 1 written to them is refused as the access code RO states. -/
def doIntClear (rq : Req) (s : State) : State :=
  command opIntClear rq { par := [countIs 1 rq, onlyBits 0 0x000003FF#32 rq] } s
    fun s => .done (s.onCmd fun v => { v with intStatus := v.intStatus &&& ~~~(rq.p 0) }) []
def execIntClear (rq : Req) (s : State) : Host.Outcome State Fault Refusal := ok (doIntClear rq s)

/-! ### Reference candidates (R43, R50) -/

def refCfg (s : State) (c : Nat) : W32 := tget 0x0F000900#32 s.clk.refCfg c

/-- Candidates that the variant does not have (R3, CLK_STATUS ABSENT). -/
def refAbsent (s : State) (c : Nat) : Bool := 4 ≤ c && c ≤ 7 && !enginePresent s (c - 4)

/-- A condition of R50 holds at a candidate in this stroke: it is declared failed, and its wait-to-restore starts anew. -/
def failRef (c : Nat) (s : State) : State :=
  let s := s.onClk fun v => { v with okSince := tset 0 v.okSince c s.stk.run }
  if s.clk.failed.contains c then s else note evStkRefFail c 1 (s.onClk fun v => { v with failed := ins v.failed c })

/-- The source of a candidate declares its loss (R50): an enabled candidate fails. -/
def sourceLost (c : Nat) (s : State) : State :=
  if bit (refCfg s c) 0 && !refAbsent s c then failRef c (s.onClk fun v => { v with failWhy := tmod 0 v.failWhy c (fun m => m ||| 4) }) else s

/-- The client lane `l` is lost: the candidates 20–23 that name it fail. -/
def laneSourceLost (l : Nat) (s : State) : State :=
  ([20, 21, 22, 23].filter fun c => fld (refCfg s c) 21 16 = l).foldl (fun s c => sourceLost c s) s

end Sys2Proof.Machine
end

