-- ==== Sys2Proof/Machine/Faults.lean ====
section
/-! DEFINITION. The fault record, the retirement map and retirements (14_modes_boot_and_trust R403, R404, R423). -/

namespace Sys2Proof.Machine

def faultWords (e : FaultEntry) : List W32 :=
  let ws := [word [(e.code, 24), (e.unit, 16), (e.detail, 0)], word [(hi16 e.scnt, 0)], BitVec.ofNat 32 (lo32 e.scnt), e.fwVersion,
    word [(e.modes, 24), (e.tj.toNat, 0)], e.bootCount, e.serial]
  ws ++ [crcWords ws]

/-- Word and bit of RETIRE_MAP of a retired resource, named as a fault-record entry names it (R423). -/
def retireBit (code unit detail : Nat) : Nat × Nat :=
  if code = 1 then (2 * unit + detail / 256 % 2, 8 * (detail / 16 % 4) + detail % 8)
  else if code = 2 then (8 + unit / 32, unit % 32)
  else if code = 3 then (10 + unit / 4, 8 * (unit % 4) + detail)
  else (13, unit)

def retireWords (s : State) : List W32 := (List.range 14).map fun i => s.store.retire.getD i 0#32

def retireMarked (s : State) (code unit detail : Nat) : Bool :=
  bit (s.store.retire.getD (retireBit code unit detail).1 0#32) (retireBit code unit detail).2

/-- A resource is retired: it enters the retirement map and the fault record, and takes effect at the next row 0 (R403, R404, R423). A resource is retired once. -/
def retireResource (code unit detail : Nat) (s : State) : State :=
  if retireMarked s code unit detail then s
  else
    let p := retireBit code unit detail
    let s := faultRecord code unit detail s
    let ws := retireWords s
    let s := s.onStore fun v => { v with retire := setAt ws p.1 (ws.getD p.1 0#32 ||| BitVec.ofNat 32 (1 <<< p.2)) }
    s.onMode fun v => { v with retireDue := v.retireDue ++ [(code, unit, detail)] }

/-- A correctable internal fault (R437, R399). -/
def countCfi (s : State) : State := s.onMode fun v => { v with cfiNow := v.cfiNow + 1 }


end Sys2Proof.Machine
end

