-- ==== Sys2Proof/Machine/Galois.lean ====
section
/-! DEFINITION. Arithmetic in GF(2^m) and decoding up to the designed distance: what the Reed–Solomon code of the fabric lanes (R308) and the outer BCH code of the line (R267) share. -/

namespace Sys2Proof.Machine

/-- GF(2^width); `low` is the primitive polynomial without its leading term. -/
structure Galois where
  width : Nat
  low : Nat
  deriving DecidableEq, Repr

/-- Multiplication by α. -/
def gfX (f : Galois) (a : Nat) : Nat := if a.testBit (f.width - 1) then ((a * 2) % 2 ^ f.width) ^^^ f.low else a * 2

def gfMulBits (f : Galois) : Nat → Nat → Nat → Nat
  | 0, _, _ => 0
  | n + 1, a, b => (if b % 2 = 1 then a else 0) ^^^ gfMulBits f n (gfX f a) (b / 2)
def gfMul (f : Galois) (a b : Nat) : Nat := gfMulBits f f.width a b

/-- a to a power of which the lowest `n` bits count. -/
def gfPowBits (f : Galois) : Nat → Nat → Nat → Nat
  | 0, _, _ => 1
  | n + 1, a, k => gfMul f (if k % 2 = 1 then a else 1) (gfPowBits f n (gfMul f a a) (k / 2))
/-- α^k. -/
def gfExp (f : Galois) (k : Nat) : Nat := gfPowBits f f.width 2 (k % (2 ^ f.width - 1))
def gfInv (f : Galois) (a : Nat) : Nat := gfPowBits f f.width a (2 ^ f.width - 2)

/-! ### Polynomials, lowest power first -/

def polyAdd (a b : List Nat) : List Nat := (List.range (max a.length b.length)).map fun i => a.getD i 0 ^^^ b.getD i 0
def polyScale (f : Galois) (c : Nat) (a : List Nat) : List Nat := a.map (gfMul f c)
def polyMul (f : Galois) : List Nat → List Nat → List Nat
  | [], _ => []
  | c :: r, b => polyAdd (polyScale f c b) (0 :: polyMul f r b)
def polyEval (f : Galois) (a : List Nat) (x : Nat) : Nat := a.foldr (fun c v => c ^^^ gfMul f v x) 0

/-- The polynomial with the roots α^k for k of a list. -/
def polyRoots (f : Galois) (ks : List Nat) : List Nat := ks.foldl (fun p k => polyMul f [gfExp f k, 1] p) [1]

/-- Formal derivative. -/
def polyDeriv (a : List Nat) : List Nat := (List.range (a.length - 1)).map fun i => if i % 2 = 0 then a.getD (i + 1) 0 else 0

/-! ### Decoding -/

/-- A received word, highest power first, at α^i for `n` exponents from `first` on. -/
def syndromes (f : Galois) (first n : Nat) (word : List Nat) : List Nat :=
  (List.range n).map fun i => polyEval f word.reverse (gfExp f (first + i))

/-- The shortest recurrence that a sequence of syndromes fits, the Berlekamp–Massey algorithm: locator, its length, and the last failed locator with its discrepancy and distance. -/
structure Massey where
  loc : List Nat := [1]
  len : Nat := 0
  old : List Nat := [1]
  disc : Nat := 1
  dist : Nat := 1

def masseyStep (f : Galois) (s : List Nat) (m : Massey) (k : Nat) : Massey :=
  let d := (List.range (m.len + 1)).foldl (fun v i => v ^^^ gfMul f (m.loc.getD i 0) (if i ≤ k then s.getD (k - i) 0 else 0)) 0
  if d = 0 then { m with dist := m.dist + 1 }
  else
    let new := polyAdd m.loc (List.replicate m.dist 0 ++ polyScale f (gfMul f d (gfInv f m.disc)) m.old)
    if 2 * m.len ≤ k then { loc := new, len := k + 1 - m.len, old := m.loc, disc := d, dist := 1 }
    else { m with loc := new, dist := m.dist + 1 }

def massey (f : Galois) (s : List Nat) : Massey := (List.range s.length).foldl (masseyStep f s) {}

/-- Positions i of a word of length n at whose locator α^(n − 1 − i) a polynomial has an inverse root. -/
def locate (f : Galois) (n : Nat) (loc : List Nat) : List Nat :=
  (List.range n).filter fun i => polyEval f loc (gfInv f (gfExp f (n - 1 - i))) = 0

/-- The word with symbol errors corrected, and their number: `n` syndromes from α^0 on, with erasures at the positions `era`. None where more than (n − erasures) / 2 symbols are in error. -/
def rsDecode (f : Galois) (n : Nat) (era : List Nat) (word : List Nat) : Option (List Nat × Nat) :=
  let s := syndromes f 0 n word
  if s.all (· = 0) then some (word, 0)
  else
    let len := word.length
    let gamma := era.foldl (fun p i => polyMul f [1, gfExp f (len - 1 - i)] p) [1]
    let t := ((polyMul f gamma s).take n).drop era.length
    let m := massey f t
    let errs := locate f len m.loc
    let psi := polyMul f m.loc gamma
    let om := (polyMul f s psi).take n
    let fix := (errs ++ era).foldl (fun w i =>
      let x := gfExp f (len - 1 - i)
      let v := gfMul f x (gfMul f (polyEval f om (gfInv f x)) (gfInv f (polyEval f (polyDeriv psi) (gfInv f x))))
      setAt w i (w.getD i 0 ^^^ v)) word
    if errs.length = m.len && decide (2 * m.len + era.length ≤ n) && (errs.all fun i => !era.contains i) && (syndromes f 0 n fix).all (· = 0) then some (fix, errs.length)
    else none

/-- The bits with errors of a binary BCH code corrected, and their number: 2t syndromes from α on. None where more than t bits are in error. -/
def bchDecode (f : Galois) (t : Nat) (word : List Bool) : Option (List Bool × Nat) :=
  let value := word.map flag
  let s := syndromes f 1 (2 * t) value
  if s.all (· = 0) then some (word, 0)
  else
    let m := massey f s
    let errs := locate f word.length m.loc
    let fix := errs.foldl (fun w i => setAt w i (!w.getD i false)) word
    if errs.length = m.len && decide (m.len ≤ t) && (syndromes f 1 (2 * t) (fix.map flag)).all (· = 0) then some (fix, errs.length) else none

end Sys2Proof.Machine
end

