-- ==== Sys2Proof/Machine/LaneCode.lean ====
section
/-! DEFINITION. The lane coding of a link row: blocks, scrambler, RS(544,514), striping and transition stuffing, and their reverse on receipt (10_client_and_lanes R306–R311). -/

namespace Sys2Proof.Machine

/-! ### Bits and blocks -/

def bitsOfBytes (bs : List Byte) : List Bool := bs.flatMap bitsOfByte
def bitsOfNat (n v : Nat) : List Bool := (List.range n).map fun i => v.testBit (n - 1 - i)
def natOfBits (bs : List Bool) : Nat := bs.foldl (fun a b => 2 * a + flag b) 0
/-- `n` pieces of `size` elements each. -/
def pieces {α : Type} (size n : Nat) (l : List α) : List (List α) :=
  ((List.range n).foldl (fun (a : List (List α) × List α) _ => (a.2.take size :: a.1, a.2.drop size)) ([], l)).1.reverse
def bytesOfBits (bs : List Bool) : List Byte := (pieces 8 (bs.length / 8) bs).map fun b => BitVec.ofNat 8 (natOfBits b)

/-- One step of the PRBS-58 generator (R307). -/
def prbs58Step (st : Nat) : Bool × Nat :=
  let b := xor (st.testBit 57) (st.testBit 38)
  (b, (st * 2) % 2 ^ 58 + flag b)

/-- The first `n` bits of the generator from all ones. -/
def prbs58Bits (n : Nat) : List Bool :=
  ((List.range n).foldl (fun (a : List Bool × Nat) _ => let r := prbs58Step a.2; (r.1 :: a.1, r.2)) ([], 2 ^ 58 - 1)).1.reverse
/-- The sequence of a row: it starts anew in each row, which has at most 1,000 blocks. -/
def rowSequence : List Bool := prbs58Bits 256000

/-- Payload bits exclusive-or the sequence of the row; scrambler and descrambler are one (R307). -/
def scrambleRow (bits : List Bool) : List Bool := List.zipWith xor bits rowSequence

/-- Block m of a row: its 256 payload bits and the M bit, 1 in block 0 (R306). -/
def rowBlocks (bytes : List Byte) : List (List Bool) :=
  (pieces 256 (bytes.length / 32) (scrambleRow (bitsOfBytes bytes))).mapIdx fun m b => b ++ [m == 0]

/-! ### The Reed–Solomon code (R308) -/

/-- GF(2¹⁰) with x¹⁰ + x³ + 1. -/
def laneField10 : Galois := { width := 10, low := 9 }
/-- g(x), lowest power first: the roots α⁰ to α²⁹. -/
def laneGenerator : List Nat := polyRoots laneField10 (List.range 30)

/-- Symbols of 10 bits, the first bit most significant. -/
def symbolsOf (bits : List Bool) : List Nat := (pieces 10 (bits.length / 10) bits).map natOfBits

/-- c times g(x) without its leading term, for every c: coefficients of 10 bits, the highest power most significant. -/
def laneMultiples : Array Nat :=
  ((List.range 1024).map fun c => ((polyScale laneField10 c laneGenerator).take 30).reverse.foldl (fun v x => v * 1024 + x) 0).toArray

/-- The parity of a message, highest power first: the remainder of the message times x³⁰. -/
def laneParity (msg : List Nat) : List Nat :=
  let r := msg.foldl (fun r b => (r * 1024) % 2 ^ 300 ^^^ laneMultiples.getD (b ^^^ r / 2 ^ 290) 0) 0
  (List.range 30).map fun i => r / 2 ^ (290 - 10 * i) % 1024

/-- A codeword over 20 blocks, or the short one over the last 10, of which 15 parity symbols are sent. -/
def laneCodeword (blocks : List (List Bool)) : List Nat :=
  let msg := symbolsOf blocks.flatten
  msg ++ (laneParity msg).take (if blocks.length = 20 then 30 else 15)

/-- The symbols of a row in codeword order: 27,200 of 32,000 bytes, 20,400 of 24,000. -/
def rowSymbols (bytes : List Byte) : List Nat :=
  let bl := rowBlocks bytes
  (pieces 20 ((bl.length + 19) / 20) bl).flatMap laneCodeword

/-- The symbols of the i-th of L lanes in use (R309). -/
def laneShare (n i : Nat) (syms : List Nat) : List Nat := (syms.zipIdx.filter fun x => x.2 % n = i).map Prod.fst

/-- A symbol as PAM4 levels of two bits, most significant first. -/
def symbolLevels (v : Nat) : List Nat := [v / 256 % 4, v / 64 % 4, v / 16 % 4, v / 4 % 4, v % 4]
/-- Levels as symbols. -/
def levelSymbols : List Nat → List Nat
  | a :: b :: c :: d :: e :: r => (a * 256 + b * 64 + c * 16 + d * 4 + e) :: levelSymbols r
  | _ => []

/-- What a lane sends: levels, the last one, how often it has been sent in a row, and the inversions made. -/
structure Stuffed where
  out : List Nat := []
  last : Nat := 0
  run : Nat := 0
  n : Nat := 0

/-- Transition stuffing (R310): the level after 24 equal ones is sent with its second bit inverted, whatever it is, and the count restarts (DEDUCED, log entry 98). -/
def stuffLevel (t : Stuffed) (v : Nat) : Stuffed :=
  if t.run = 24 then { out := (v ^^^ 1) :: t.out, last := v ^^^ 1, run := 1, n := t.n + 1 }
  else { t with out := v :: t.out, last := v, run := if v = t.last && t.run ≠ 0 then t.run + 1 else 1 }
def stuffLevels (last run : Nat) (levels : List Nat) : Stuffed :=
  let t := levels.foldl stuffLevel { last := last, run := run }
  { t with out := t.out.reverse }

/-! ### Receipt (R311) -/

/-- The symbols of a row in codeword order, from those of the lanes in use in ascending order. -/
def gatherLanes (lanes : List (List Nat)) : List Nat :=
  let n := lanes.length
  (List.range (3400 * n)).map fun k => (lanes.getD (k % n) []).getD (k / n) 0

/-- A decoded row: its bytes, whether the M bits agree with R306, the uncorrectable codewords, and the symbols corrected. -/
structure RowRx where
  bytes : List Byte := []
  mBits : Bool := false
  bad : List Nat := []
  corr : Nat := 0

/-- A full codeword decoded: its 514 message symbols, and the number corrected where it is correctable. A word with its own parity has no error. -/
def decodeFull (w : List Nat) : List Nat × Option Nat :=
  if w.drop 514 = laneParity (w.take 514) then (w.take 514, some 0)
  else match rsDecode laneField10 30 [] w with
  | some r => (r.1.take 514, some r.2)
  | none => (w.take 514, none)
/-- The short codeword: 257 leading zeros that were not sent, and 15 parity symbols as erasures. -/
def decodeShort (w : List Nat) : List Nat × Option Nat :=
  if w.drop 257 = (laneParity (w.take 257)).take 15 then (w.take 257, some 0)
  else match rsDecode laneField10 30 ((List.range 15).map (529 + ·)) (List.replicate 257 0 ++ w ++ List.replicate 15 0) with
  | some r => ((r.1.drop 257).take 257, some r.2)
  | none => (w.take 257, none)

/-- A row of symbols decoded, then descrambled. -/
def decodeRow (syms : List Nat) : RowRx :=
  let n := syms.length / 544
  let full := (pieces 544 n syms).map decodeFull
  let words := if syms.length = 544 * n then full else full ++ [decodeShort (syms.drop (544 * n))]
  let bits := words.flatMap fun w => w.1.flatMap (bitsOfNat 10)
  let blocks := pieces 257 (bits.length / 257) bits
  { bytes := bytesOfBits (scrambleRow (blocks.flatMap (·.take 256)))
    mBits := (blocks.zipIdx.all fun b => b.1.getLastD false == (b.2 == 0))
    bad := (words.zipIdx.filter fun w => w.1.2.isNone).map Prod.snd
    corr := (words.map fun w => w.2.getD 0).sum }

end Sys2Proof.Machine
end

