-- ==== Sys2Proof/Machine/Client.lean ====
section
/-! DEFINITION. Client ports, FlexO tributaries and all serial lanes (10_client_and_lanes R296–R322). -/

namespace Sys2Proof.Machine

/-! ### Lanes and ports -/

/-- A lane number of R296. -/
def laneValid (n : Nat) : Bool := n < 48 || (64 ≤ n && n < 160)
def fabLane (p l : Nat) : Nat := 64 + 8 * p + l

def fabLaneReset : LaneSt := { cfg1 := 0x20000000#32 }
def laneOf (s : State) (n : Nat) : LaneSt := if n < 48 then tget {} s.cli.lane n else tget fabLaneReset s.cli.flane (n - 64)
def onLane (n : Nat) (f : LaneSt → LaneSt) (s : State) : State :=
  s.onCli fun v => if n < 48 then { v with lane := tmod {} v.lane n f } else { v with flane := tmod fabLaneReset v.flane (n - 64) f }

def lnLoop (x : LaneSt) : Nat := fld x.cfg1 31 30
def lnTrain (x : LaneSt) : Bool := bit x.cfg1 29
def lnGen (x : LaneSt) : Nat := fld x.cfg1 28 27
def lnChk (x : LaneSt) : Nat := fld x.cfg1 26 25
def lnTxInvert (x : LaneSt) : Bool := bit x.cfg1 24
def lnRxInvert (x : LaneSt) : Bool := bit x.cfg1 23
/-- Two bits whose PAM4 level has the other polarity: Gray coding maps 00, 01, 11, 10 to levels 0 to 3. -/
def invertLevel (l : Nat) : Nat := l ^^^ 2
/-- The level at the pins of two bits. -/
def grayLevel (l : Nat) : Nat := if l = 3 then 2 else if l = 2 then 3 else l
/-- Levels that a lane drives (R309, R322 TX_INVERT). -/
def pinLevels (x : LaneSt) : List Nat := x.out.map fun l => grayLevel (if lnTxInvert x then invertLevel l else l)
def lnFomMin (x : LaneSt) : Nat := fld x.cfg2 14 7

def cpEn (w : W32) : Bool := bit w 31
def cpGroomed (w : W32) : Bool := bit w 30
def cpFlexo (w : W32) : Bool := bit w 29
def cpWidth (w : W32) : Nat := fld w 27 24

/-- The rate of an ETH port in units of 100 Gb/s, and m of a FLEXO port (R297). -/
def cpRate (w : W32) : Nat := cpWidth w * (1 + fld w 28 28)

def cliSt (s : State) (p : Nat) : CliPortSt := tget {} s.cli.port p
def onCliPort (p : Nat) (f : CliPortSt → CliPortSt) (s : State) : State := s.onCli fun v => { v with port := tmod {} v.port p f }

def cliObj (w : W32) : Nat := fld w 5 0

/-- CL_PORT_CFG as last written for a port, a pending write included (R298). -/
def cliLast (s : State) (p : Nat) : W32 :=
  match lastWaiting opClPortCfg cliObj p s with
  | some c => c.p 1
  | none => cliPort s p

/-- The values of CL_PORT_CFG in force and pending. -/
def cliViews (s : State) (p : Nat) : List W32 :=
  cliPort s p :: ((waiting opClPortCfg s).filter fun c => cliObj (c.p 0) = p).map fun c => c.p 1

/-! ### Tributaries (R303, R304) -/

def tribKey (p j : Nat) : Nat := p * 16 + j
def tribObj (w : W32) : Nat := tribKey (fld w 5 0) (fld w 11 8)
def tribOf (s : State) (k : Nat) : W32 × W32 := tget (0#32, 0#32) s.cli.trib k
def tribLast (s : State) (k : Nat) : W32 × W32 :=
  match lastWaiting opFlexoTribCfg tribObj k s with
  | some c => (c.p 1, c.p 2)
  | none => tribOf s k
def tribViews (s : State) (k : Nat) : List (W32 × W32) :=
  tribOf s k :: ((waiting opFlexoTribCfg s).filter fun c => tribObj (c.p 0) = k).map fun c => (c.p 1, c.p 2)

def trValid (e : W32 × W32) : Bool := bit e.1 31
def trType (e : W32 × W32) : Nat := fld e.1 30 28
def trCont (e : W32 × W32) : Nat := fld e.1 27 14
def trFirst (e : W32 × W32) : Nat := fld e.1 8 0
def trCount (e : W32 × W32) : Nat := fld e.2 8 0
def trEnd (e : W32 × W32) : Nat := trFirst e + trCount e

/-- Slots that an ODU_TYPE occupies; none for ODUflex, which takes any count. -/
def trSlots (m t : Nat) : Option Nat :=
  if t = 0 ∨ t = 1 then some 2 else if t = 2 then some 8 else if t = 3 then some 20 else if t = 7 then some (20 * m) else none

/-- The rate in bit/s and the tolerance in ppm of an ODU (R135). The rates of ODU2, ODU2e, ODU3 and ODU4 are those of ITU-T G.709 (PRESUMED, log entry 20). -/
def oduRate (m : Nat) (e : W32 × W32) : Nat × Nat :=
  match trType e with
  | 0 => (10037273924, 20)
  | 1 => (10399525316, 20)
  | 2 => (40319218983, 20)
  | 3 => (104794445815, 20)
  | 4 => (trCount e * 5240887000, 100)
  | _ => (m * 105258138000, 20)

/-- The valid tributary entry, as last written, that names a container. -/
def tribNaming (s : State) (c : Nat) : Option (Nat × (W32 × W32)) :=
  ((List.range 768).map fun k => (k, tribLast s k)).find? fun x => trValid x.2 && trCont x.2 = c

/-- The minimum N_BILLETS of R134 or R135 for a container entry of HOME CLIENT and PT ETH or ODU, 0 where none is checked: a PT ETH container at a port whose PROTO is FLEXO has none
(DESIGN CHOICE, log entry 118). -/
def minBillets (s : State) (c : Nat) (e : ContEntry) (h : Nat) : Nat :=
  if e.home ≠ 0 then 0
  else if e.pt = 1 then
    (if cpFlexo (cliLast s e.unit) then 0 else minFor (ethCmax (cpRate (cliLast s e.unit))) h)
  else if e.pt = 2 then
    match tribNaming s c with
    | some (k, t) =>
      let r := oduRate (cpRate (cliLast s (k / 16))) t
      minFor (bytesPerStroke r.1 r.2) h
    | none => 0
  else 0

/-! ### The OTUC of a FlexO instance (R302) -/

/-- Events of the line defects. -/
def LineDefect.ev : LineDefect → Ev
  | .cwl => evLinDCwl | .lof => evLinDLof | .lom => evLinDLom | .timSm => evLinDTimSm | .bdiSm => evLinDBdiSm | .iae => evLinDIae | .biae => evLinDBiae
  | .degSm => evLinDDegSm | .ais => evLinDAis | .oci => evLinDOci | .lck => evLinDLck | .timPm => evLinDTimPm | .bdiPm => evLinDBdiPm | .degPm => evLinDDegPm
  | .plm => evLinDPlm | .fecSd => evLinDFecSd

def LineDefect.all : List LineDefect :=
  [.cwl, .lof, .lom, .timSm, .bdiSm, .iae, .biae, .degSm, .ais, .oci, .lck, .timPm, .bdiPm, .degPm, .plm, .fecSd]

/-- What an instance of a FlexO port holds. -/
def instOf (s : State) (p i : Nat) : OtnSt := tget {} (cliSt s p).otn i

/-- The defects of a port that terminates no OTUCm any more are gone. -/
def instsOff (p : Nat) (s : State) : State :=
  ((cliSt s p).otn.foldl (fun s x => x.2.defects.foldl (fun s d => noteChange d.ev.flexo (16 * p + x.1) true false s) s) s)

/-! ### Receive failure (R305) -/

def portLanes (p : Nat) (w : W32) : List Nat := (List.range (cpWidth w)).map (p + ·)

/-- A failure that affects the whole port. -/
def portFail (s : State) (p : Nat) : Bool :=
  let w := cliPort s p
  (portLanes p w).any (fun n => (laneOf s n).los) || (!cpFlexo w && (cliSt s p).loa)
    || ((portLanes p w).any (fun n => lnTrain (laneOf s n)) && !(cliSt s p).tr.rxData)

def instSsf (s : State) (p i : Nat) : Bool := (tget {} (instOf s p i).slices 0).ssf

/-- Instance aSSF on an instance that the slots of an entry touch. -/
def tribSsf (s : State) (p : Nat) (e : W32 × W32) : Bool :=
  (List.range 16).any fun i => instSsf s p i && decide (trFirst e < 20 * (i + 1)) && decide (20 * i < trEnd e)

/-- RX_FAIL of a port. -/
def rxFail (s : State) (p : Nat) : Bool :=
  portFail s p || (cpFlexo (cliPort s p) && (List.range 16).any (instSsf s p))

/-- The ETH container that a port feeds and serves: of two enabled ones the lower-numbered (R301). -/
def servedCont (s : State) (p : Nat) : Option Nat :=
  (s.cont.table.find? fun x => (x.2.srcEn || x.2.snkEn) && x.2.home = 0 && x.2.pt = 1 && x.2.unit = p).map Prod.fst

/-- The valid tributary entry in force that names a container of PT ODU on port p. -/
def tribInForce (s : State) (p c : Nat) : Option (W32 × W32) :=
  ((List.range 16).map fun j => tribOf s (tribKey p j)).find? fun e => trValid e && trCont e = c

/-- The receive side that feeds a CLIENT container is disabled or failed (R23, R131, R305). -/
def clientFailed (s : State) (c : Nat) (e : ContEntry) : Bool :=
  let w := cliPort s e.unit
  !cpEn w || portFail s e.unit ||
    (e.pt = 2 && match tribInForce s e.unit c with
      | some t => tribSsf s e.unit t
      | none => true)

/-! ### Client port commands (R297–R304, R322) -/

/-- The port's lanes overlap those of another port whose ENABLE is 1 in force or pending. -/
def lanesOverlap (s : State) (p w : Nat) : Bool :=
  (List.range 48).any fun q => q ≠ p && (cliViews s q).any fun v => cpEn v && decide (q < p + w) && decide (p < q + cpWidth v)

/-- A valid tributary entry, in force or pending, that PROTO, CLASS and WIDTH would not allow (R298). -/
def tribsForbid (s : State) (p : Nat) (w : W32) : Bool :=
  (List.range 16).any fun j => (tribViews s (tribKey p j)).any fun e => trValid e && (!cpFlexo w || decide (20 * cpRate w < trEnd e))

/-- PROTO, CLASS or WIDTH changes (R298). -/
def shapeChanges (s : State) (p : Nat) (w : W32) : Bool := (w ^^^ cliLast s p) &&& 0x3F000000#32 ≠ 0#32

def portOk (rq : Req) : List Check := [onlyBits 0 0x0000003F#32 rq, wordOk 0 (decide (cliObj (rq.p 0) < 48))]

/-- CL_PORT_CFG. -/
def doClPortCfg (rq : Req) (s : State) : State :=
  let p := cliObj (rq.p 0)
  let w := rq.p 1
  command opClPortCfg rq
    { unit := [need (!cpGroomed w || groomPresent s) { st := .unitAbsent }],
      par := [countIs 2 rq] ++ portOk rq ++ [onlyBits 1 0xFF000000#32 rq, wordOk 1 (decide (cpWidth w ∈ [1, 2, 4, 8])),
        wordOk 1 (decide (p % cpWidth w = 0)), wordOk 1 (!cpGroomed w || !cpFlexo w), wordOk 1 (!lanesOverlap s p (cpWidth w)),
        causeOk 0x8007 (!tribsForbid s p w)],
      late := [need (!shapeChanges s p w || (!cpEn (cliPort s p) && !((cliViews s p).drop 1).any cpEn)) { st := .busy, detail := 2 }] } s
    (commitOnly opClPortCfg rq)
def execClPortCfg (rq : Req) (s : State) : Host.Outcome State Fault Refusal := ok (doClPortCfg rq s)

/-- Taps in force on a lane: the static taps of LANE_CFG (R312). -/
def staticTaps (x : LaneSt) : LaneSt := { x with pre := fld x.cfg2 31 27, main := fld x.cfg2 26 20, post := fld x.cfg2 19 15, rsp := [0, 0, 0], lastReq := [0, 0, 0], req := [0, 0, 0], rxReady := false }

def eachLane (f : Nat → State → State) : List Nat → State → State
  | [], s => s
  | n :: r, s => eachLane f r (f n s)

/-- Lanes fall silent: electrical idle. -/
def laneIdle (base n : Nat) (s : State) : State := eachLane (fun i s => if (laneOf s (base + i)).out.isEmpty then s else onLane (base + i) (fun x => { x with out := [], lvlRun := 0 }) s) (List.range n) s

/-- A row in 5 ps, the time in which a byte of the fastest port passes. -/
def rowTicks : Nat := 32000

/-- The start of this row. -/
def rowTime (s : State) : Nat := (125 * s.stk.run + s.stk.row) * rowTicks

/-- The demapper depth target, 20 rows and in DRAW 2 (R397). -/
def depthTarget (s : State) : Nat := (if baseMode s = .draw then 2 else 20) * rowTicks

/-- The ETH and FLEXO ports with a demapper that are enabled. -/
def demapPorts (s : State) : List Nat := (s.cli.portCfg.filter fun x => cpEn x.2 && !cpGroomed x.2).map Prod.fst

/-- Every demapper is at its target. -/
def depthsReached (s : State) : Bool := (demapPorts s).all fun p => (cliSt s p).depth = depthTarget s

/-- CL_PORT_CFG at its row 0. An enabled port starts from its static taps, and trains where TRAIN_MODE is 1 (R312, R315); a disabled one keeps no receive defects, and its
transmit side ends what is in progress in this row (R23). Without it the other ports may all be at their depth (R397). -/
def applyClPort (c : Commit) (s : State) : State :=
  let p := cliObj (c.p 0)
  let old := cliPort s p
  let w := c.p 1
  let s := s.onCli fun v => { v with portCfg := tset 0x01000000#32 v.portCfg p w }
  if cpEn w && !cpEn old then
    onCliPort p (fun x => { x with tr := {}, depth := depthTarget s, tx := .sending }) (eachLane (fun n => onLane n staticTaps) (portLanes p w) s)
  else if !cpEn w && cpEn old then
    let s := instsOff p (noteChange evCliDLoa p (cliSt s p).loa false (noteChange evCliDHiSer p (cliSt s p).hiSer false s))
    let s := s.onMode fun v => { v with depthSettled := v.depthSettled || depthsReached s }
    onCliPort p (fun x => { x with held := [], loa := false, hiSer := false, lfRx := false, rfRx := false, tr := {}, otn := [], tx := if cpFlexo old then .uncorrectable else .errorBlock }) (laneIdle p (cpWidth old) s)
  else s

/-- A port that goes off is in electrical idle once row 0 is over (R23). -/
def clientTxIdle (s : State) : State :=
  if s.cli.port.any fun e => e.2.tx = .errorBlock || e.2.tx = .uncorrectable then
    s.onCli fun v => { v with port := v.port.map fun e => (e.1, if e.2.tx = .sending then e.2 else { e.2 with tx := .idle, txFrame := [] }) }
  else s

/-- All client lanes fall silent at once (R27). -/
def clientLanesIdle (s : State) : State :=
  s.onCli fun v => { v with
    port := v.port.map fun e => (e.1, { e.2 with tx := .idle, txFrame := [], held := [] })
    lane := v.lane.map fun e => (e.1, { e.2 with out := [] }) }

/-- What reaches the demapper of a port in this row, by tributary entry: from the containers of its tributaries, or from the one it serves (R301, R303). -/
def demapInput (s : State) (p : Nat) : List (Nat × CliOut) :=
  if cpFlexo (cliPort s p) then
    (List.range 16).flatMap fun j => let t := tribOf s (tribKey p j); if trValid t then (tget {} s.cont.snk (trCont t)).out.map (j, ·) else []
  else match servedCont s p with
    | some c => (tget {} s.cont.snk c).out.map (0, ·)
    | none => []

/-- The gap behind a packet takes up what the depth lacks or has in excess of its target, down to 12 bytes; `byte` is the time of one byte (R397). -/
def gapMove (byte target depth gap : Nat) : Nat × Nat :=
  if target < depth then let cut := min (gap - 12) ((depth - target) / byte); (gap - cut, depth - cut * byte)
  else let add := (target - depth) / byte; (gap + add, depth + add * byte)

/-- What enters a demapper leaves after its depth. -/
def demapItems (byte target now : Nat) : Nat → List (Nat × CliOut) → List Demapped × Nat
  | d, [] => ([], d)
  | d, (j, .packet b err g) :: r =>
    let m := gapMove byte target d g
    let l := demapItems byte target now m.2 r
    ({ due := now + d, entry := j, item := .packet b err m.1 } :: l.1, l.2)
  | d, (j, o) :: r => let l := demapItems byte target now d r; ({ due := now + d, entry := j, item := o } :: l.1, l.2)

/-- A depth moves toward its target by at most `n`. -/
def depthToward (n target d : Nat) : Nat := if d < target then d + min n (target - d) else d - min n (d - target)

/-- The demapper of a port in a row (R397). The output clocks of its ODUs move a FLEXO port by 5 ppm of a stroke, 100 ps; idle moves an ETH port, a row without any packet by
the whole row (DEDUCED, log entry 128). -/
def demapPort (s : State) (p : Nat) (x : CliPortSt) : CliPortSt :=
  let w := cliPort s p
  let t := depthTarget s
  let x := { x with held := x.held.filter fun h => decide (rowTime s ≤ h.due) }
  let d := if cpFlexo w then (if s.stk.row = 0 then depthToward 20 t x.depth else x.depth) else x.depth
  let quiet := match servedCont s p with | some c => let k : SinkSt := tget {} s.cont.snk c; k.out.isEmpty && k.strmBuf.isEmpty | none => true
  if cpFlexo w then { x with depth := d, held := x.held ++ (demapInput s p).map fun i => { due := rowTime s + d, entry := i.1, item := i.2 } }
  else if quiet then { x with depth := depthToward rowTicks t d }
  else let l := demapItems (16 / max 1 (cpRate w)) t (rowTime s) d (demapInput s p); { x with depth := l.2, held := x.held ++ l.1 }

def demapRows : List Nat → State → State
  | [], s => s
  | p :: r, s => demapRows r (onCliPort p (demapPort s p) s)

/-- What leaves the demapper of a port in the row that begins at `t`. -/
def demapped (s : State) (p t : Nat) : List Demapped := if (cliSt s p).tx ≠ .sending then [] else (cliSt s p).held.filter fun h => decide (t ≤ h.due) && decide (h.due < t + rowTicks)

/-- What the client signal of a port is in this row: what leaves its demapper, or the frame that its MAC took from the grooming unit (R299, R301, R340, R397). -/
def clientSignal (s : State) (p : Nat) : List CliOut :=
  if cpGroomed (cliPort s p) then
    (if (cliSt s p).tx ≠ .sending || (cliSt s p).txFrame.isEmpty then [] else [.packet (cliSt s p).txFrame false 12])
  else (demapped s p (rowTime s)).map Demapped.item

/-- Every lane of the port returns its own transmit to its receive (R320). -/
def portNear (s : State) (p : Nat) : Bool := let l := portLanes p (cliPort s p); !l.isEmpty && l.all fun n => lnLoop (laneOf s n) = 1

/-- What a port in LOOPBACK NEAR receives: the packets, or the bytes of the tributaries, that it sent in the row before (R320). -/
def nearClient (s : State) (p : Nat) : List ClientIn :=
  if !cpEn (cliPort s p) || !portNear s p then []
  else
    (demapped s p (rowTime s - rowTicks)).filterMap fun h =>
      match h.item with
      | .odu b => some { port := p, entry := h.entry, bytes := b.map (·, false) }
      | .packet b err _ => some { port := p, bytes := b.map (·, false), err := err }
      | .localFault | .remoteFault | .oduAis => none

/-- Client input of a row: that of the pins, and at a port in LOOPBACK NEAR its own. -/
def clientInput (l : List ClientIn) (s : State) : List ClientIn :=
  let near := (List.range 48).filter (portNear s)
  if near.isEmpty then l else l.filter (fun x => !near.contains x.port) ++ near.flatMap (nearClient s)

/-- CL_PORT_READ. -/
def doClPortRead (rq : Req) (s : State) : State :=
  command opClPortRead rq { par := [countIs 1 rq] ++ portOk rq } s fun s => .done s [cliPort s (cliObj (rq.p 0))]
def execClPortRead (rq : Req) (s : State) : Host.Outcome State Fault Refusal := ok (doClPortRead rq s)

/-- CL_PORT_STATUS words 0 and 1. -/
def cliStatusWords (s : State) (p : Nat) : List W32 :=
  let w := cliPort s p
  let x := cliSt s p
  let llos := (List.range (cpWidth w)).filter fun i => (laneOf s (p + i)).los
  let fails := (List.range 16).filter fun j => trValid (tribOf s (tribKey p j)) && (srcOf s (trCont (tribOf s (tribKey p j)))).csf
  [word [(flag (cpEn w), 31), (flag (rxFail s p), 30), (flag x.loa, 29), (flag x.hiSer, 28), (flag x.lfRx, 27), (flag x.rfRx, 26), (bitsOf llos, 16)],
   word [(bitsOf ((List.range 16).filter (instSsf s p)), 16), (bitsOf fails, 0)]]

/-- CL_PORT_STATUS_READ. -/
def doClPortStatusRead (rq : Req) (s : State) : State :=
  command opClPortStatusRead rq { par := [countIs 1 rq] ++ portOk rq } s fun s => .done s (cliStatusWords s (cliObj (rq.p 0)))
def execClPortStatusRead (rq : Req) (s : State) : Host.Outcome State Fault Refusal := ok (doClPortStatusRead rq s)

/-- The other valid entries of the port, as last written (R304). -/
def otherTribs (s : State) (p j : Nat) : List (W32 × W32) :=
  (((List.range 16).filter (· ≠ j)).map fun i => tribLast s (tribKey p i)).filter trValid

def slotsOverlap (a b : W32 × W32) : Bool := decide (trFirst a < trEnd b) && decide (trFirst b < trEnd a)

/-- The container that a valid entry names is enabled and too small for it (R135). -/
def contTooSmall (s : State) (m : Nat) (e : W32 × W32) : Bool :=
  let c := trCont e
  let r := oduRate m e
  (contViews s c).any (fun x => x.srcEn || x.snkEn) && decide ((contLast s c).n < minFor (bytesPerStroke r.1 r.2) (if boundEver s c then 48 else 24))

/-- FLEXO_TRIB_CFG. -/
def doFlexoTribCfg (rq : Req) (s : State) : State :=
  let p := cliObj (rq.p 0)
  let j := fld (rq.p 0) 11 8
  let e := (rq.p 1, rq.p 2)
  let m := cpRate (cliLast s p)
  let v := trValid e
  command opFlexoTribCfg rq
    { par := [countIs 3 rq, onlyBits 0 0x00000F3F#32 rq, wordOk 0 (decide (p < 48)), onlyBits 1 0xFFFFC1FF#32 rq, wordOk 1 (decide (trType e ≠ 5 ∧ trType e ≠ 6)),
        wordOk 1 (decide (trFirst e < 320)), onlyBits 2 0x000001FF#32 rq, wordOk 2 (decide (trCount e ≤ 320))],
      late := [causeOk 0x8007 (!v || cpFlexo (cliLast s p)),
        lowestFail [wordOk 2 (!v || decide (1 ≤ trCount e)), wordOk 2 (!v || (trSlots m (trType e)).all fun n => decide (trCount e = n)),
          wordOk 2 (!v || decide (trEnd e ≤ 20 * m)), wordOk 1 (!v || !(otherTribs s p j).any (slotsOverlap e)),
          wordOk 1 (!v || (decide (trType e ≠ 7) && (otherTribs s p j).all fun t => decide (trType t ≠ 7)) || (otherTribs s p j).isEmpty), wordOk 2 (!v || !contTooSmall s m e)]] } s (commitOnly opFlexoTribCfg rq)
def execFlexoTribCfg (rq : Req) (s : State) : Host.Outcome State Fault Refusal := ok (doFlexoTribCfg rq s)
def applyTrib (c : Commit) (s : State) : State :=
  s.onCli fun v => { v with trib := tset (0#32, 0#32) v.trib (tribObj (c.p 0)) (c.p 1, c.p 2) }

/-- FLEXO_TRIB_READ. -/
def doFlexoTribRead (rq : Req) (s : State) : State :=
  command opFlexoTribRead rq { par := [countIs 1 rq, onlyBits 0 0x00000F3F#32 rq, wordOk 0 (decide (cliObj (rq.p 0) < 48))] } s
    fun s => .done s [(tribOf s (tribObj (rq.p 0))).1, (tribOf s (tribObj (rq.p 0))).2]
def execFlexoTribRead (rq : Req) (s : State) : Host.Outcome State Fault Refusal := ok (doFlexoTribRead rq s)

/-! ### Lane commands (R313, R320–R322) -/

def laneObj (w : W32) : Nat := fld w 7 0
def laneOk (rq : Req) : List Check := [onlyBits 0 0x000000FF#32 rq, wordOk 0 (laneValid (laneObj (rq.p 0)))]

/-- The lane belongs to an enabled client port in force, or to a fabric port that is not in DOWN (R321). -/
def laneInUse (s : State) (n : Nat) : Bool :=
  if n < 48 then (List.range 48).any fun p => cpEn (cliPort s p) && decide (p ≤ n) && decide (n < p + cpWidth (cliPort s p))
  else (portOf s ((n - 64) / 8)).state ≠ .down

def laneLastCfg1 (s : State) (n : Nat) : W32 :=
  match lastWaiting opLaneCfg laneObj n s with
  | some c => c.p 1
  | none => (laneOf s n).cfg1

/-- LANE_CFG turns on a generator or checker. -/
def turnsOnPrbs (s : State) (n : Nat) (w : W32) : Bool :=
  (fld w 28 27 ≠ 0 && fld (laneLastCfg1 s n) 28 27 = 0) || (fld w 26 25 ≠ 0 && fld (laneLastCfg1 s n) 26 25 = 0)

/-- LANE_CFG. -/
def doLaneCfg (rq : Req) (s : State) : State :=
  let n := laneObj (rq.p 0)
  let w := rq.p 1
  let t := rq.p 2
  command opLaneCfg rq
    { unit := [need (!(laneValid n && (laneOf s n).retired)) { st := .retired }],
      par := [countIs 3 rq] ++ laneOk rq ++ [onlyBits 1 0xFF800000#32 rq, wordOk 1 (decide (fld w 31 30 ≠ 3) && decide (fld w 28 27 ≠ 3) && decide (fld w 26 25 ≠ 3)),
        wordOk 1 (decide (n < 48) || bit w 29), onlyBits 2 0xFFFFFF80#32 rq,
        wordOk 2 (decide (fld t 31 27 ≤ 16) && decide (32 ≤ fld t 26 20) && decide (fld t 26 20 ≤ 64) && decide (fld t 19 15 ≤ 24) && decide (fld t 31 27 + fld t 26 20 + fld t 19 15 ≤ 64))],
      late := [need (!(turnsOnPrbs s n w && laneInUse s n)) { st := .busy, detail := 2 }] } s (commitOnly opLaneCfg rq)
def execLaneCfg (rq : Req) (s : State) : Host.Outcome State Fault Refusal := ok (doLaneCfg rq s)

/-- LANE_CFG at its row 0: the static taps act at once on a lane that does not train; a checker or generator that is turned on restarts; a loopback waits for the end of a test (R320, R321). -/
def applyLaneCfg (c : Commit) (s : State) : State :=
  onLane (laneObj (c.p 0)) (fun x =>
    let w := c.p 1
    let y := { x with
      cfg1 := if x.test.isSome then (w &&& 0x3FFFFFFF#32) ||| (x.cfg1 &&& 0xC0000000#32) else w
      cfg2 := c.p 2
      loopPend := if x.test.isSome then some (fld w 31 30) else none
      chk := if fld w 26 25 ≠ lnChk x then {} else x.chk
      gen := if fld w 28 27 ≠ lnGen x then 0 else x.gen
      out := if fld w 31 27 ≠ fld x.cfg1 31 27 then [] else x.out }
    if lnTrain y then y else { y with pre := fld y.cfg2 31 27, main := fld y.cfg2 26 20, post := fld y.cfg2 19 15 }) s

/-- The lanes in which this device's transmit set and the partner's receive set agree, of n lanes (R315). -/
def ownTxSet (s : State) (base n : Nat) : List Nat := (List.range n).filter fun l => !(laneOf s (base + l)).retired

/-- PAM4 levels that a lane sends in a row: 17,000 at 212.5 Gb/s, half of them at 106.25 Gb/s; at the FlexO rates a number within the range of the SerDes (R297; log entry 106). -/
def laneLevels (s : State) (n : Nat) : Nat :=
  if 48 ≤ n then 17000
  else
    let p := ((List.range 48).find? fun p => cpEn (cliPort s p) && decide (p ≤ n) && decide (n < p + cpWidth (cliPort s p))).getD n
    let c := 1 + fld (cliPort s p) 28 28
    if cpFlexo (cliPort s p) then 8000 * c + Config.flexoLevels c % (1200 * c + 1) else 8500 * c

/-- Receive lanes usable here: not retired, not EXT_FAIL, and skewed by at most ±80 ns, half a row, in symbol periods of the lane (R312, R314). -/
def ownRxSet (s : State) (base n : Nat) : List Nat :=
  (List.range n).filter fun l => let x := laneOf s (base + l); !x.retired && !x.extFail && decide (2 * (signed 16 x.skew.toNat).natAbs ≤ laneLevels s (base + l))

/-- The sent set of a fabric port: 8 lanes, else the lowest six of the intersection, else none (R315). -/
def chooseSet (both : List Nat) : List Nat := if both.length = 8 then both else if 6 ≤ both.length then both.take 6 else []

/-- Lanes common to this device's transmit set and the partner's receive set. -/
def txBoth (s : State) (p : Nat) : List Nat := (ownTxSet s (fabLane p 0) 8).filter fun l => (portOf s p).tr.rxSet.getLsbD l

/-- SPARE: left idle in six-lane operation. -/
def isSpare (s : State) (n : Nat) : Bool :=
  64 ≤ n && (let p := (n - 64) / 8
    (portOf s p).lanes6Tx && (txBoth s p).contains ((n - 64) % 8) && !(portOf s p).tr.sent.contains ((n - 64) % 8))

/-- FOM as read: 0 in dLLOS, on a lane of no enabled client port, and on a fabric port in DOWN (R314). -/
def fomRead (s : State) (n : Nat) : Nat := if (laneOf s n).los || !laneInUse s n then 0 else (laneOf s n).fom.toNat

def laneStatusWords (s : State) (n : Nat) : List W32 :=
  let x := laneOf s n
  [word [(flag x.los, 31), (flag x.rxReady, 30), (flag x.retired, 29), (flag x.extFail, 28), (flag x.chk.sync, 27), (flag (isSpare s n), 26), (fomRead s n, 16), (x.skew.toNat, 0)],
   word [(x.pre, 27), (x.main, 20), (x.post, 15)]]

/-- LANE_STATUS_READ. -/
def doLaneStatusRead (rq : Req) (s : State) : State :=
  command opLaneStatusRead rq { par := [countIs 1 rq] ++ laneOk rq } s fun s => .done s (laneStatusWords s (laneObj (rq.p 0)))
def execLaneStatusRead (rq : Req) (s : State) : Host.Outcome State Fault Refusal := ok (doLaneStatusRead rq s)

/-- LANE_PRBS_READ: BA_RESULT words 0–3 of the lane's checker. -/
def doLanePrbsRead (rq : Req) (s : State) : State :=
  command opLanePrbsRead rq { par := [countIs 1 rq] ++ laneOk rq } s fun s => .done s ((checkerWords [(laneOf s (laneObj (rq.p 0))).chk]).take 4)
def execLanePrbsRead (rq : Req) (s : State) : Host.Outcome State Fault Refusal := ok (doLanePrbsRead rq s)

/-! ### Lane and port defects (R319) -/

/-- DLLOS: no signal above the threshold, or the CDR out of lock. -/
def execDllos (lane : Nat) (s : State) : Host.Outcome State Fault Refusal :=
  ok (if laneValid lane then
    laneSourceLost lane (noteChange evLaneDLlos lane (laneOf s lane).los true (onLane lane (fun x => { x with los := true, goodRows := 0, rxReady := false }) s))
  else s)

/-- A row in lock towards the clearing of dLLOS: 125 consecutive rows clear it; a row without lock restarts the count. -/
def lanesRow (locked : List Nat) (s : State) : State :=
  eachLane (fun n s =>
    let x := laneOf s n
    if !x.los then s
    else if !locked.contains n then onLane n (fun x => { x with goodRows := 0 }) s
    else if 124 ≤ x.goodRows then noteClear evLaneDLlos n (onLane n (fun x => { x with los := false, goodRows := 0 }) s)
    else onLane n (fun x => { x with goodRows := x.goodRows + 1 }) s)
    (s.cli.lane.map Prod.fst ++ s.cli.flane.map fun x => x.1 + 64) s

/-- DLOA: the PCS of an ETH port loses or regains alignment-marker lock. -/
def execDloa (p : Nat) (lost : Bool) (s : State) : Host.Outcome State Fault Refusal :=
  ok (if p < 48 && cpEn (cliPort s p) && !cpFlexo (cliPort s p) then
    noteChange evCliDLoa p (cliSt s p).loa lost (onCliPort p (fun x => { x with loa := lost }) s)
  else s)

/-! ### Training (R312–R317) -/

def tapLimits (i : Nat) : Nat × Nat := if i = 0 then (0, 16) else if i = 1 then (32, 64) else (0, 24)
def tapOf (x : LaneSt) (i : Nat) : Nat := if i = 0 then x.pre else if i = 1 then x.main else x.post
def setTap (x : LaneSt) (i v : Nat) : LaneSt := if i = 0 then { x with pre := v } else if i = 1 then { x with main := v } else { x with post := v }
def presetOf (x : LaneSt) (i : Nat) : Nat := if i = 0 then fld x.cfg2 31 27 else if i = 1 then fld x.cfg2 26 20 else fld x.cfg2 19 15

/-- A request for tap i of a transmit lane: 0 HOLD, 1 INCREMENT, 2 DECREMENT, 3 PRESET. A request counts as new when it follows HOLD; a step that would break a limit is
answered AT_MIN or AT_MAX (R313). -/
def tapRequest (i rqv : Nat) (x : LaneSt) : LaneSt :=
  let last := x.lastReq.getD i 0
  let x' := { x with lastReq := setAt x.lastReq i rqv }
  if rqv = 0 then { x' with rsp := setAt x.rsp i 0 }
  else if last ≠ 0 then x'
  else
    let v := tapOf x i
    let w := if rqv = 1 then v + 1 else if rqv = 2 then v - 1 else presetOf x i
    let tooHigh := decide ((tapLimits i).2 < w) || decide (64 < x.pre + x.main + x.post - v + w)
    let tooLow := decide (w < (tapLimits i).1) || (rqv = 2 && v = 0)
    if tooLow then { x' with rsp := setAt x.rsp i 2 }
    else if tooHigh then { x' with rsp := setAt x.rsp i 3 }
    else { setTap x' i w with rsp := setAt x.rsp i 1 }

/-- The answer to this receiver's request on tap i: it holds a request until an answer, then sends HOLD until it sees NOT_UPDATED. Which change it asks for next
is open, and it asks only while FOM is below FOM_MIN (log entries 10, 23). -/
def tapAnswer (i rsp free : Nat) (x : LaneSt) : LaneSt :=
  let r := x.req.getD i 0
  if r ≠ 0 then (if rsp = 0 then x else { x with req := setAt x.req i 0 })
  else if rsp = 0 && decide (x.fom.toNat < lnFomMin x) then { x with req := setAt x.req i (free / 4 ^ i % 4) }
  else x

/-- The 16-bit field of lane k in words 3–6 of a training frame. -/
def laneField (ws : List W32) (k : Nat) : Nat := (ws.getD (3 + k / 2) 0#32).toNat >>> (if k % 2 = 0 then 16 else 0) % 65536

def trainLane (base : Nat) (ws : List W32) (k : Nat) (s : State) : State :=
  let f := laneField ws k
  let free := freeNat s
  drawn (onLane (base + k) (fun x =>
    let x := (List.range 3).foldl (fun x i => tapRequest i (f >>> (14 - 2 * i) % 4) x) x
    let x := (List.range 3).foldl (fun x i => tapAnswer i (f >>> (6 - 2 * i) % 4) free x) x
    { x with rxReady := decide (lnFomMin x ≤ x.fom.toNat) && x.req.all (· = 0) && !x.los }) s)

/-- A training frame is valid: marker, VERSION and CRC (R312). -/
def trainFrameOk (ws : List W32) : Bool :=
  ws.length = 8 && ws.getD 0 0#32 = 0xF0F0F0F0#32 && ws.getD 1 0#32 = 0x0F0F0F0F#32 && fld (ws.getD 2 0#32) 31 28 = 1 && ws.getD 7 0#32 = crcWords (ws.take 7)

def trainPort (tp : TrainPort) : Nat × Bool := match tp with | .fab p => (p, true) | .cli p => (p, false)
def trOf (s : State) (tp : TrainPort) : TrainSt := match tp with | .fab p => (portOf s p).tr | .cli p => (cliSt s p).tr
def onPort (p : Nat) (f : PortSt → PortSt) (s : State) : State := s.onFab fun v => { v with port := tmod {} v.port p f }
def onTr (tp : TrainPort) (f : TrainSt → TrainSt) (s : State) : State :=
  match tp with
  | .fab p => onPort p (fun x => { x with tr := f x.tr }) s
  | .cli p => onCliPort p (fun x => { x with tr := f x.tr }) s

/-- Lowest lane number and number of lanes of a training port. -/
def trBase (tp : TrainPort) : Nat := match tp with | .fab p => fabLane p 0 | .cli p => p
def trLanes (s : State) (tp : TrainPort) : Nat := match tp with | .fab _ => 8 | .cli p => cpWidth (cliPort s p)

/-- The lanes in use, of those that both sides can use (R315). A client port has no six-lane case. -/
def trPick (s : State) (tp : TrainPort) (both : List Nat) : List Nat :=
  match tp with
  | .fab _ => chooseSet both
  | .cli _ => if both.length = trLanes s tp then both else []

/-- The sent set as it stands (R315). -/
def trSent (s : State) (tp : TrainPort) : List Nat := trPick s tp ((ownTxSet s (trBase tp) (trLanes s tp)).filter fun l => (trOf s tp).rxSet.getLsbD l)

/-- The receive set: the partner's sent set, from its TX_SET and this device's RX_SET (DEDUCED, log entry 98). -/
def trRecv (s : State) (tp : TrainPort) : List Nat := trPick s tp ((ownRxSet s (trBase tp) (trLanes s tp)).filter fun l => (trOf s tp).txSet.getLsbD l)

/-- Everything is ready for data: each lane of this receive set, and at the partner each lane of the sent set (R315). -/
def trReady (s : State) (tp : TrainPort) : Bool :=
  !(trSent s tp).isEmpty && (trSent s tp).all (fun l => (trOf s tp).ready.getLsbD l) && (trRecv s tp).all fun l => (laneOf s (trBase tp + l)).rxReady

/-- The port is in training: a fabric port in TRAIN, an enabled client port whose TRAIN_MODE is 1. -/
def training (s : State) (tp : TrainPort) : Bool :=
  match tp with
  | .fab p => (portOf s p).state = .train
  | .cli p => cpEn (cliPort s p) && (portLanes p (cliPort s p)).any fun n => lnTrain (laneOf s n)

/-! ### Training frames sent (R312) -/

/-- Field of lane k in a training frame: the requests of this device's receive lane k and its RX_READY, the responses of its transmit lane k; 0 for a lane not in the port. -/
def trainField (s : State) (tp : TrainPort) (k : Nat) : Nat :=
  if trLanes s tp ≤ k then 0
  else
    let x := laneOf s (trBase tp + k)
    (List.range 3).foldl (fun v i => v + x.req.getD i 0 <<< (14 - 2 * i) + x.rsp.getD i 0 <<< (6 - 2 * i)) (flag x.rxReady * 512)

/-- Words 0–7 of the training frame that lane k sends. -/
def trainWords (s : State) (tp : TrainPort) (k : Nat) : List W32 :=
  let n := trLanes s tp
  let f := fun i => trainField s tp i
  let ws := [0xF0F0F0F0#32, 0x0F0F0F0F#32, word [(1, 28), (k, 24), (bitsOf (ownRxSet s (trBase tp) n), 16), (bitsOf (ownTxSet s (trBase tp) n), 8)]]
    ++ (List.range 4).map fun i => word [(f (2 * i), 16), (f (2 * i + 1), 0)]
  ws ++ [crcWords ws]

/-- PRBS-13 of the pattern, x¹³ + x¹² + x² + x + 1, in the form of R307: the fed-back bit is sent. Where the sequence starts is not stated (log entry 98). -/
def prbs13Step (st : Nat) : Bool × Nat :=
  let b := xor (xor (st.testBit 12) (st.testBit 11)) (xor (st.testBit 1) (st.testBit 0))
  (b, (st * 2) % 8192 + flag b)
def prbs13Run : Nat → Nat → List Bool → List Bool × Nat
  | 0, st, l => (l.reverse, st)
  | n + 1, st, l => prbs13Run n (prbs13Step st).2 ((prbs13Step st).1 :: l)
def trainSeed (n : Nat) : Nat := 1 + Config.trainSeed n % 8191

/-- Bits as PAM4 levels of two bits. -/
def pairLevels : List Bool → List Nat
  | a :: b :: r => (2 * flag a + flag b) :: pairLevels r
  | _ => []

/-- The 34,000 bits of a frame: bits 0–255, and the pattern, which continues from frame to frame, as PAM4 levels of two bits. -/
def trainLevels (s : State) (tp : TrainPort) (k : Nat) : List Nat :=
  let start := (prbs13Run (33744 * (trOf s tp).frames % 8191) (trainSeed (trBase tp + k)) []).2
  let bits := (trainWords s tp k).flatMap (fun w => (List.range 32).map fun i => w.getLsbD (31 - i)) ++ (prbs13Run 33744 start []).1
  pairLevels bits

/-- A training frame on a lane. The transmitter goes on watching the levels it sends (R310). -/
def sendLevels (levels : List Nat) (y : LaneSt) : LaneSt :=
  let t := levels.foldl stuffLevel { last := y.lvl, run := y.lvlRun }
  { y with out := levels, lvl := t.last, lvlRun := t.run }

/-- Every lane of a port in training that is not retired, looped or under test sends one training frame in the row. -/
def sendTraining (tp : TrainPort) (s : State) : State :=
  onTr tp (fun t => { t with frames := (t.frames + 1) % 8191 })
    (eachLane (fun k s' =>
      let n := trBase tp + k
      let x := laneOf s n
      onLane n (fun y => if lnLoop x = 2 then y else if x.retired || x.test.isSome then { y with out := [], lvlRun := 0 } else sendLevels (trainLevels s tp k) y) s') (List.range (trLanes s tp)) s)

/-- Client ports whose TRAIN_MODE is 1 send training frames until they switch to data (R315). -/
def clientTraining (s : State) : State :=
  (List.range 48).foldl (fun s p =>
    if h : p < 48 then
      let tp := TrainPort.cli ⟨p, h⟩
      if training s tp && !(trOf s tp).data then sendTraining tp s
      else if cpEn (cliPort s p) && (trOf s tp).data && decide ((trOf s tp).frames ≠ 0) then onTr tp (fun t => { t with frames := 0 }) (laneIdle p (cpWidth (cliPort s p)) s)
      else s
    else s) s

/-- LOOPBACK NEAR returns a lane's own transmit: the lane whose training frame comes back (R320). -/
def nearLane (s : State) (tp : TrainPort) : Option Nat := (List.range (trLanes s tp)).find? fun k => let x := laneOf s (trBase tp + k); lnLoop x = 1 && !x.out.isEmpty

/-- TRAINING_FRAME_RX (R312–R315): words 0–7 of the frame hold its fields. A port whose lanes are in LOOPBACK NEAR receives its own frame. -/
def trainingFrameRx (p : TrainPort) (ws : List W32) (s : State) : State :=
  let ws := match nearLane s p with | some k => trainWords s p k | none => ws
  if training s p && trainFrameOk ws then
    let s := onTr p (fun x => { x with
      seen := true, got := true, rxSet := BitVec.ofNat 8 (fld (ws.getD 2 0#32) 23 16), txSet := BitVec.ofNat 8 (fld (ws.getD 2 0#32) 15 8)
      ready := BitVec.ofNat 8 (bitsOf ((List.range 8).filter fun k => (laneField ws k).testBit 9)) }) s
    let s := eachLane (trainLane (trBase p) ws) (List.range (trLanes s p)) s
    onTr p (fun x => { x with readyRun := if trReady s p then x.readyRun + 1 else 0 }) s
  else s
def execTrainingFrameRx (p : TrainPort) (ws : List W32) (s : State) : Host.Outcome State Fault Refusal := ok (trainingFrameRx p ws s)

/-- The first row without a MARKER, once training frames have come, is data: the receive side of a client port carries it (R315). -/
def clientDataRow (ports : List Nat) (s : State) : State :=
  ports.foldl (fun s p =>
    if h : p < 48 then if training s (.cli ⟨p, h⟩) && (trOf s (.cli ⟨p, h⟩)).seen then onTr (.cli ⟨p, h⟩) (fun t => { t with rxData := true }) s else s
    else s) s

/-- The loop test of a lane starts (R317). A retired lane is not tested. -/
def startTest (n : Nat) (s : State) : State := onLane n (fun x => if x.retired || x.test.isSome then x else { x with test := some 0 }) s

/-- TRAIN_TIMEOUT (R316): 2,500 strokes. Without training frames in them the timer restarts; with them every lane that is not RX_READY is tested too. -/
def execTrainTimeout (p : Fin 12) (s : State) : Host.Outcome State Fault Refusal :=
  ok (if (portOf s p).state = .train && 2500 ≤ (portOf s p).tr.run then
    let s' := if (portOf s p).tr.got then
        eachLane (fun l s => if (laneOf s (fabLane p l)).rxReady then s else startTest (fabLane p l) s) (List.range 8) s
      else s
    onPort p (fun x => { x with tr := { x.tr with run := 0, got := false } }) s'
  else s)

/-- LANE_TEST_END (R317): after 50 strokes. A failing lane is retired; a passing one is marked EXT_FAIL. A loopback that waited takes effect (R320). -/
def execLaneTestEnd (lane : Nat) (pass : Bool) (s : State) : Host.Outcome State Fault Refusal :=
  ok (match (laneOf s lane).test with
    | none => s
    | some n =>
      if n < 50 then s
      else
        let s := onLane lane (fun x => { x with
          test := none, loopPend := none, extFail := pass
          cfg1 := match x.loopPend with | some l => (x.cfg1 &&& 0x3FFFFFFF#32) ||| BitVec.ofNat 32 (l <<< 30) | none => x.cfg1 }) s
        if pass then note evLaneLaneExtFail lane 1 s
        else note evLaneLaneRetired lane 1 (retireResource 3 ((lane - 64) / 8) ((lane - 64) % 8) s))

/-! ### Pattern generator and checker (R320, R321) -/

/-- The patterns of IEEE 802.3: PRBS-13 and PRBS-31, of which either may be sent inverted (log entry 106). -/
def patternBits (kind n st : Nat) : List Bool × Nat :=
  let r := if kind = 1 then prbs13Run n st [] else let r := prbs31 n st; (r.2, r.1)
  (r.1.map fun b => xor b (Config.patternInverted kind), r.2)
def patternStart (kind n : Nat) : Nat := if kind = 1 then 1 + Config.trainSeed n % 8191 else 1 + Config.trainSeed n % (2 ^ 31 - 1)

def checkLevels (kind : Nat) : List Nat → Checker → Checker
  | [], x => x
  | l :: r, x =>
    let one := fun b x =>
      if kind = 1 then checkStep 13 (fun h => xor (xor (h.testBit 12) (h.testBit 11)) (xor (h.testBit 1) (h.testBit 0))) b x else checkBit 31 28 b x
    checkLevels kind r (one (xor (l.testBit 0) (Config.patternInverted kind)) (one (xor (l.testBit 1) (Config.patternInverted kind)) x))

/-- What a lane puts out in place of its port's transmit: nothing when retired, under test or in QUENCH, the received signal under LOOPBACK FAR, or its pattern. -/
def laneSource (got : Option (List Nat)) (n : Nat) (s : State) : State :=
  let x := laneOf s n
  if inQuench s || x.retired || x.test.isSome then (if x.out.isEmpty then s else onLane n (fun x => { x with out := [] }) s)
  else if lnLoop x = 2 then
    match got with
    | some l => onLane n (fun x => { x with out := l }) s
    | none => if n < 48 then onLane n (fun x => { x with out := [] }) s else s
  else if lnGen x ≠ 0 then
    let r := patternBits (lnGen x) (2 * laneLevels s n) (if x.gen = 0 then patternStart (lnGen x) n else x.gen)
    onLane n (fun x => { x with out := pairLevels r.1, gen := r.2 }) s
  else s

/-- The checker of a lane takes the levels received in the row; under LOOPBACK NEAR those the lane sends. -/
def laneCheck (got : Option (List Nat)) (n : Nat) (s : State) : State :=
  let x := laneOf s n
  if lnChk x = 0 then s else onLane n (fun x => { x with chk := checkLevels (lnChk x) (if lnLoop x = 1 then x.out else got.getD []) x.chk }) s

/-- Loopbacks, generators and checkers of every lane in a row. -/
def laneSignals (rx : List (Nat × List Nat)) (s : State) : State :=
  eachLane (fun n s =>
    let got := (rx.find? fun x => x.1 = n).map fun x => if lnRxInvert (laneOf s n) then x.2.map invertLevel else x.2
    laneCheck got n (laneSource got n s)) (s.cli.lane.map Prod.fst ++ s.cli.flane.map fun x => x.1 + 64) s

/-- FOM: the smallest of the three eye heights as a fraction of the nominal, times 255, saturating (R314). -/
def fomOf (eyes : Nat × Nat × Nat) : Byte := BitVec.ofNat 8 (min 255 (min eyes.1 (min eyes.2.1 eyes.2.2) * 255 / 65536))

/-- The faults that an ETH port in LOOPBACK NEAR receives are those it sends (R320). -/
def faultsRx (s : State) (p : Nat) (got : Bool × Bool) : Bool × Bool :=
  if portNear s p then ((clientSignal s p).contains .localFault, (clientSignal s p).contains .remoteFault) else got

/-- The per-stroke work of lanes and client ports: measurements, tests and timers that run on, and the switch of a client transmitter to data (R314–R317, R321). -/
def cliStroke (x : StrokeIn) (s : State) : State :=
  let s := x.lanes.foldl (fun s m => onLane m.1 (fun l => { l with fom := fomOf m.2.1, skew := m.2.2 }) s) (clientTxIdle s)
  let s := x.cli.foldl (fun s m =>
    if cpEn (cliPort s m.1) && !cpFlexo (cliPort s m.1) then
      let f := faultsRx s m.1 m.2.2
      noteChange evCliDHiSer m.1 (cliSt s m.1).hiSer m.2.1 (onCliPort m.1 (fun p => { p with hiSer := m.2.1, lfRx := f.1, rfRx := f.2 }) s)
    else s) s
  let s := s.onCli fun v => { v with
    lane := v.lane.map fun e => (e.1, { e.2 with test := e.2.test.map (· + 1) })
    flane := v.flane.map fun e => (e.1, { e.2 with test := e.2.test.map (· + 1) }) }
  (List.range 48).foldl (fun s p =>
    if h : p < 48 then
      let tp := TrainPort.cli ⟨p, h⟩
      if training s tp && !(trOf s tp).data && 8 ≤ (trOf s tp).readyRun then onTr tp (fun t => { t with data := true, sent := trSent s tp }) s else s
    else s) s

end Sys2Proof.Machine
end

