-- ==== Sys2Proof/Machine/Flux.lean ====
section
/-! DEFINITION. The flux engines: instructions, checks and passes (11_packet_grooming R328–R334). -/

namespace Sys2Proof.Machine

/-! ### Frames -/

/-- One bit of the Ethernet FCS register (IEEE 802.3, reflected). -/
def fcsBit (c : Nat) : Nat := if c % 2 = 1 then (c / 2) ^^^ 0xEDB88320 else c / 2
def fcsByte (c : Nat) (b : Byte) : Nat := fcsBit (fcsBit (fcsBit (fcsBit (fcsBit (fcsBit (fcsBit (fcsBit (c ^^^ b.toNat))))))))

/-- The FCS of IEEE 802.3 over frame bytes, in the order sent (PRESUMED, log entry 21). -/
def fcsOf (bs : List Byte) : List Byte := (bytesOfNat 4 ((bs.foldl fcsByte 0xFFFFFFFF) ^^^ 0xFFFFFFFF)).reverse

def fcsOk (bs : List Byte) : Bool := decide (4 < bs.length) && fcsOf (bs.take (bs.length - 4)) == bs.drop (bs.length - 4)

/-! ### Instructions (R329) -/

def inOp (w : W32) : Nat := fld w 31 26
def inD (w : W32) : Nat := fld w 25 23
def inS (w : W32) : Nat := fld w 22 20
def inC (w : W32) : Nat := fld w 19 16
def inImm (w : W32) : Nat := fld w 15 0

/-- Fields that an instruction uses: D, S, C, IMM (R329). -/
def usedFields (op : Nat) : Bool × Bool × Bool × Bool :=
  match op with
  | 0x01 | 0x02 | 0x03 | 0x04 | 0x05 | 0x06 | 0x08 | 0x09 => (true, false, false, true)
  | 0x07 | 0x0A | 0x0F => (true, true, false, false)
  | 0x0B => (false, false, true, true)
  | 0x0C | 0x10 => (false, false, false, true)
  | 0x0D => (false, true, false, true)
  | 0x0E => (false, true, true, false)
  | 0x12 => (false, false, true, false)
  | _ => (false, false, false, false)

/-- An instruction word that PROG_WRITE accepts. -/
def instrOk (w : W32) : Bool :=
  let u := usedFields (inOp w)
  decide (inOp w ≤ 0x12) && (u.1 || inD w = 0) && (u.2.1 || inS w = 0) && (u.2.2.1 || inC w = 0) && (u.2.2.2 || inImm w = 0)
    && (if inOp w = 0x0B then decide (inC w ≤ 4) else if inOp w = 0x0E then decide (inC w ≤ 7) else if inOp w = 0x12 then inC w = 1 || inC w = 2 else true)

/-! ### Generations -/

def bankOf (b : Bool) : Nat := if b then 1 else 0
def progWord (s : State) (bank : Bool) (i : Nat) : W32 := tget 0#32 s.grm.prog (bankOf bank * 256 + i)
def ruleReset : List W32 := List.replicate 17 0#32
def ruleOf (s : State) (bank : Bool) (i : Nat) : List W32 := tget ruleReset s.grm.rules (bankOf bank * 65536 + i)

/-- Listed rules of a bank, as (rule number, words). -/
def bankRules (s : State) (bank : Bool) : List (Nat × List W32) :=
  (s.grm.rules.filter fun x => x.1 / 65536 = bankOf bank).map fun x => (x.1 % 65536, x.2)

/-- A valid rule matches the key (R333). -/
def ruleMatches (kw : List Nat) (r : List W32) : Bool :=
  bit (r.getD 16 0#32) 31 && (List.range 8).all fun i =>
    (BitVec.ofNat 32 (kw.getD i 0)) &&& r.getD (8 + i) 0#32 = r.getD i 0#32 &&& r.getD (8 + i) 0#32

/-- A rule in its place in a list by rule number. -/
def insertRule (x : Nat × List W32) : List (Nat × List W32) → List (Nat × List W32)
  | [] => [x]
  | y :: l => if x.1 < y.1 then x :: y :: l else y :: insertRule x l

/-- The rules of a bank as CLASSIFY reads them: beside those listed, the reset ones of which a stored bit is flipped (R429). -/
def rulesRead (s : State) (bank : Bool) : List (Nat × List W32) :=
  let rs := bankRules s bank
  if s.integ.flips.isEmpty then rs
  else
    let bad := (s.integ.flips.filter fun x => x.1 / 2 ^ 24 = 6 + bankOf bank).map fun x => x.1 % 2 ^ 24 / 17
    (bad.dedup.filter fun i => !(rs.any fun r => r.1 = i)).foldl (fun l i => insertRule (i, ruleReset) l) rs

/-- CLASSIFY: the lowest-numbered matching rule decides, each as it is delivered (R333, R427). A slag-marked rule read ends the pass as MISS (R429). -/
def classify (s : State) (bank : Bool) (kw : List Nat) : PktEnd × Option Nat :=
  let rs := rulesRead s bank
  match rs.find? fun x => entrySlag s (6 + bankOf bank) (17 * x.1) x.2 with
  | some x => (.miss, some x.1)
  | none =>
    match (rs.map fun x => (x.1, delivered s (6 + bankOf bank) (17 * x.1) x.2)).find? fun x => ruleMatches kw x.2 with
    | none => (.miss, none)
    | some x => (if bit (x.2.getD 16 0#32) 30 then .ruleDrop else .slot (fld (x.2.getD 16 0#32) 9 0), none)

def groomDepth (s : State) : Nat := fld (s.grm.cfg.getD 0 0#32) 3 0

/-! ### A pass (R328–R332) -/

/-- The engine during a pass: packet, PTR, next instruction. -/
structure Engine where
  pk : Packet
  ptr : Nat := 0
  pc : Nat := 0

/-- What one instruction does: the pass goes on, ends with a packet end, or starts a second pass; `budget` marks the 65th instruction; `slag` names a slag-marked table word met. -/
inductive FluxStep where
  | go (e : Engine)
  | done (pk : Packet)

def vOf (p : Packet) (i : Nat) : Nat := p.v.getD i 0
def setV (p : Packet) (i v : Nat) : Packet := { p with v := setAt p.v i (v % 2 ^ 32) }
def endWith (p : Packet) (x : PktEnd) : FluxStep := .done { p with ended := some x }

/-- Bytes of the frame before its FCS. -/
def bodyLen (p : Packet) : Nat := p.bytes.length - 4

/-- A load of n bytes (R329), with the frame-end and window checks of R330. -/
def fluxLoad (e : Engine) (d off n : Nat) : FluxStep :=
  let a := e.ptr + off
  if bodyLen e.pk < e.pk.base + a + n then endWith e.pk .malformed
  else if 256 < a + n then endWith e.pk .depth
  else .go { e with pk := setV e.pk d (natOfBytes ((List.range n).map fun k => e.pk.bytes.getD (e.pk.base + a + k) 0#8)) }

/-- An advance (R330): depth, then frame end. -/
def fluxAdvance (depth : Nat) (e : Engine) (by_ : Nat) (layer : Bool) : FluxStep :=
  if layer && decide (depth < e.pk.layer + 1) then endWith e.pk .depth
  else if vOf e.pk 0 < by_ then endWith e.pk .malformed
  else .go { e with ptr := (e.ptr + by_) % 2 ^ 32, pk := { setV e.pk 0 (vOf e.pk 0 - by_) with layer := e.pk.layer + flag layer } }

def setFlags (p : Packet) (a b : Nat) : Packet := { p with eq := a = b, lt := decide (a < b) }

def branchTaken (p : Packet) (c : Nat) : Bool :=
  if c = 0 then true else if c = 1 then p.eq else if c = 2 then !p.eq else if c = 3 then p.lt else !p.lt

/-- RECIRC (R331): the second pass waits for its start. What V1, EQ and LT hold there the spec does not say: free values (log entry 10). -/
def fluxRecirc (e : Engine) (imm free : Nat) : FluxStep :=
  let p := e.pk
  let at_ := p.base + e.ptr
  let bytes := if imm.testBit 8 then (let b := (p.bytes.take (bodyLen p)).drop at_; b ++ fcsOf b) else p.bytes
  if p.second then endWith p .depth
  else if imm.testBit 8 && decide (bytes.length < 64) then endWith p .malformed
  else .done { p with second := true, start := imm % 256, base := if imm.testBit 8 then 0 else at_, bytes := bytes
                      v := setAt p.v 1 (free / 4 % 2 ^ 32), eq := free.testBit 0, lt := free.testBit 1 }

/-- FRAG (R332). -/
def fluxFrag (e : Engine) (d sv : Nat) : FluxStep :=
  let id : FragId := (e.pk.port, vOf e.pk d, e.pk.kw)
  if e.pk.first.isSome then endWith e.pk .malformed
  else if vOf e.pk sv = 0 then .go { e with pk := { e.pk with first := some id } }
  else endWith e.pk (.later id)

/-- One instruction (R329). `cls` is what CLASSIFY answers. -/
def fluxInstr (depth free : Nat) (cls : List Nat → PktEnd) (w : W32) (e : Engine) : FluxStep :=
  let d := inD w
  let sv := inS w
  let c := inC w
  let imm := inImm w
  let p := e.pk
  let n := { e with pc := (e.pc + 1) % 256 }
  match inOp w with
  | 0x00 => endWith p .miss
  | 0x01 => fluxLoad n d (imm % 256) 1
  | 0x02 => fluxLoad n d (imm % 256) 2
  | 0x03 => fluxLoad n d (imm % 256) 4
  | 0x04 => .go { n with pk := setV p d imm }
  | 0x05 => .go { n with pk := setV p d (vOf p d &&& imm) }
  | 0x06 => .go { n with pk := setV p d (vOf p d >>> (imm % 32)) }
  | 0x07 => .go { n with pk := setV p d (vOf p d + vOf p sv) }
  | 0x08 => .go { n with pk := setV p d (vOf p d + imm) }
  | 0x09 => .go { n with pk := setFlags p (vOf p d) imm }
  | 0x0A => .go { n with pk := setFlags p (vOf p d) (vOf p sv) }
  | 0x0B => .go (if branchTaken p c then { e with pc := imm % 256 } else n)
  | 0x0C => fluxAdvance depth n (imm % 512) (imm.testBit 15)
  | 0x0D => fluxAdvance depth n (vOf p sv * 2 ^ (imm % 16) % 2 ^ 32) (imm.testBit 15)
  | 0x0E => .go { n with pk := { p with kw := setAt p.kw c (vOf p sv) } }
  | 0x0F => fluxFrag n d sv
  | 0x10 => fluxRecirc e imm free
  | 0x11 => endWith p (cls p.kw)
  | 0x12 => endWith p (if c = 1 then .malformed else .depth)
  | _ => endWith p .miss

/-- Result of a pass: the packet, whether a 65th instruction was due, a slag-marked instruction or rule met, and the bytes mended in its instructions and, where it classifies, its rules (R427). -/
structure PassEnd where
  pk : Packet
  budget : Bool := false
  slagInstr : Option Nat := none
  mends : Nat := 0
  slagRule : Option Nat := none

/-- What CLASSIFY reads of the rules beside its outcome: a slag-marked rule, or the bytes mended in the bank's rules. -/
def classifyReads (s : State) (bank : Bool) (p : Packet) (m : Nat) : PassEnd :=
  match (classify s bank p.kw).1, (classify s bank p.kw).2 with
  | .miss, some i => { pk := p, mends := m, slagRule := some i }
  | _, _ => { pk := p, mends := m + ((rulesRead s bank).map fun x => mendsOf s (6 + bankOf bank) (17 * x.1) x.2).sum }

/-- Instructions until the pass ends; the first argument is what is left of the budget of 64 (R330). The instruction after number 255 is number 0 (PRESUMED, log entry 25). -/
def fluxRun (s : State) (free : Nat) : Nat → Engine → PassEnd
  | 0, e => { pk := { e.pk with ended := some .depth }, budget := true }
  | k + 1, e =>
    let bank := e.pk.gen1
    let rd := readWord s (8 + bankOf bank) e.pc (progWord s bank e.pc)
    if rd.slag then { pk := { e.pk with ended := some .miss }, slagInstr := some e.pc }
    else if s.integ.flips.isEmpty then
      match fluxInstr (groomDepth s) free (fun kw => (classify s bank kw).1) rd.val e with
      | .done p => { pk := p }
      | .go e' => fluxRun s free k e'
    else
      match fluxInstr (groomDepth s) free (fun kw => (classify s bank kw).1) rd.val e with
      | .done p => if inOp rd.val = 0x11 then classifyReads s bank p rd.mends else { pk := p, mends := rd.mends }
      | .go e' => let r := fluxRun s free k e'; { r with mends := r.mends + rd.mends }

end Sys2Proof.Machine
end

