-- ==== Sys2Proof/Machine/Groom.lean ====
section
/-! DEFINITION. Packet grooming: queues, dispatch and retire, slots, rule generations and their commands (11_packet_grooming R323–R345). -/

namespace Sys2Proof.Machine

/-! ### Queues (R323, R324) -/

/-- FILL in 128-byte words: packets are packed, a partly filled word counts as one. -/
def grmWords (bytes : Nat) : Nat := ceilDiv bytes 128

def inqOf (s : State) (p : Nat) : List (List Byte) := tget [] s.grm.inq p
def outqOf (s : State) (p : Nat) : List (Nat × List Byte) := tget [] s.grm.outq p
def slotOf (s : State) (g : Nat) : SlotSt := tget {} s.grm.slot g
def onSlot (g : Nat) (f : SlotSt → SlotSt) (s : State) : State := s.onGrm fun v => { v with slot := tmod {} v.slot g f }
def slotReset : W32 × W32 := (0x00000004#32, 0xFFF00000#32)
def slotCfg (s : State) (g : Nat) : W32 × W32 := tget slotReset s.grm.slotCfg g

def slEn (w : W32 × W32) : Bool := bit w.1 31
def slCont (w : W32 × W32) : Nat := fld w.1 29 16
def slMib (w : W32 × W32) : Nat := fld w.1 6 0
def slFeed (w : W32 × W32) : Nat := fld w.2 31 26
def slOut (w : W32 × W32) : Nat := fld w.2 25 20

def bytesIn (l : List (List Byte)) : Nat := (l.map List.length).sum

/-- Bytes a grooming queue holds. -/
def grmBytes (s : State) (q : Nat) : Nat :=
  if q < 64 then bytesIn (inqOf s q) else if q < 2048 then bytesIn (slotOf s (q - 64)).buf else bytesIn ((outqOf s (q - 2048)).map Prod.snd)

/-- A queue number of R323. -/
def grmQueueOk (q : Nat) : Bool := q < 48 || (64 ≤ q && q < 1088) || (2048 ≤ q && q < 2096)

/-- GRM_LEVEL: FILL crosses LEVEL from below (R80, R324). -/
def grmLevel (q before after : Nat) (s : State) : State :=
  if crosses (tget 0#32 s.grm.levels q).toNat (grmWords before) (grmWords after) then note evGrqGrmLevel q 1 s else s

/-- A frame in progress: bytes behind its header have been written to the egress queue (R324, R340). -/
def framePart (x : SinkSt) : Bool := x.strmSync && !x.skip && decide (4 < x.strmBuf.length)

/-- Slots whose frames go to an egress queue. -/
def slotsTo (s : State) (p : Nat) : List Nat := (s.grm.slotCfg.filter fun x => slOut x.2 = p).map Prod.fst

/-- What has been written of frames not yet committed goes with the flush; the rest of one in progress is discarded as it arrives (R324). -/
def dropParts (s : State) : List Nat → State
  | [] => s
  | g :: r =>
    dropParts (s.onCont fun v => { v with snk := tmod {} v.snk (slCont (slotCfg s g)) fun x => { x with frames := [], skip := x.skip || framePart x } }) r

/-- Empties a grooming queue; each committed packet is counted (R324). -/
def grmFlush (q : Nat) (s : State) : State :=
  if q < 64 then note evGrqGrmFlushDiscard q (inqOf s q).length (s.onGrm fun v => { v with inq := tset [] v.inq q [] })
  else if q < 2048 then note evGrqGrmFlushDiscard q (slotOf s (q - 64)).buf.length (onSlot (q - 64) (fun x => { x with buf := [] }) s)
  else
    let s := dropParts s (slotsTo s (q - 2048))
    note evGrqGrmFlushDiscard q (outqOf s (q - 2048)).length (s.onGrm fun v => { v with outq := tset [] v.outq (q - 2048) [] })

/-! ### Ports -/

/-- An enabled groomed port in force. -/
def groomedPort (s : State) (p : Nat) : Bool := p < 48 && cpEn (cliPort s p) && cpGroomed (cliPort s p)

/-- CLIENT_FRAME_RX (R323, R324): a frame, destination address through FCS, on a groomed port. Port counters count the frames that are committed (DEDUCED, log entry 26);
a frame at a groomed port that is off is dropped and counted (R23; log entry 107). A port in LOOPBACK NEAR receives the frame it sent last (R320); while dHI_SER is in force every
frame has an error (PRESUMED, log entry 124). -/
def execClientFrameRx (p : Nat) (bs : List SByte) (bad : Bool) (s : State) : Host.Outcome State Fault Refusal :=
  let own := portNear s p
  let bs := if own then (cliSt s p).txFrame.map (·, false) else bs
  let f := bs.map Prod.fst
  ok (if !groomedPort s p || inQuench s then (if p < 48 && cpGroomed (cliPort s p) then note evCliGrmInDrop p 1 s else s)
    else if own && f.isEmpty then s
    else if (bad && !own) || (cliSt s p).hiSer || bs.any Prod.snd || decide (9600 < f.length) || !fcsOk f then note evCliGrmRxBad p 1 s
    else if 262144 < bytesIn (inqOf s p) + f.length then note evCliGrmInDrop p 1 s
    else
      let b := grmBytes s p
      grmLevel p b (b + f.length) (note evCliRxBytes p f.length (note evCliRxFrames p 1 (s.onGrm fun v => { v with inq := tset [] v.inq p (inqOf s p ++ [f]) }))))

/-! ### Dispatch, passes, retire (R325–R336) -/

/-- A pass that has not ended occupies a context. -/
def ctxBusy (s : State) (c : Nat) : Bool := s.grm.flight.any fun p => p.ctx = c && p.ended.isNone

/-- The port served next: the first after the last one that holds a committed frame. -/
def nextPort (s : State) : Option Nat :=
  ((List.range 48).map fun i => (s.grm.rr + 1 + i) % 48).find? fun p => !(inqOf s p).isEmpty

/-- FLUX_DISPATCH (R325, R328): a first pass starts on the lowest free context, unless a second pass waits. The window starts at the destination address. -/
def execFluxDispatch (s : State) : Host.Outcome State Fault Refusal :=
  ok (match nextPort s, (List.range 128).find? fun c => !ctxBusy s c with
    | some p, some c =>
      if s.grm.flight.any fun k => k.second && k.ended.isNone then s
      else match inqOf s p with
        | [] => s
        | f :: r =>
          let pk : Packet := { port := p, no := s.grm.ordNo, ctx := c, gen1 := s.grm.activeIs1, bytes := f, v := [f.length - 4, p, 0, 0, 0, 0, 0, 0] }
          s.onGrm fun v => { v with inq := tset [] v.inq p r, rr := p, ordNo := v.ordNo + 1, flight := v.flight ++ [pk] }
    | _, _ => s)

def replacePacket (pk : Packet) (s : State) : State :=
  s.onGrm fun v => { v with flight := v.flight.map fun p => if p.no = pk.no then pk else p }

/-- FLUX_PASS (R328–R334): the engine runs the pass that waits on a context until it ends. -/
def execFluxPass (ctx : Nat) (s : State) : Host.Outcome State Fault Refusal :=
  ok (match s.grm.flight.find? fun p => p.ctx = ctx && p.ended.isNone with
    | none => s
    | some p =>
      let r := fluxRun s (freeNat s) 64 { pk := p, pc := p.start }
      let s := if p.second || !r.pk.second then s else drawn s
      let s := match r.slagInstr with | some i => tableSlag (8 + bankOf p.gen1) i s | none => s
      let s := match r.slagRule with | some i => tableSlag (6 + bankOf p.gen1) (17 * i) s | none => s
      let s := note evIntChkCorr 0 r.mends s
      let s := if r.budget then note evCliFlxBudget p.port 1 s else s
      replacePacket r.pk s)

/-- The action of a class: counted, then a slot or a drop (R334). -/
def classAction (s : State) (x : PktEnd) : Ev × Option Nat :=
  let w1 := s.grm.cfg.getD 1 0#32
  let w2 := s.grm.cfg.getD 2 0#32
  match x with
  | .miss => (evCliClsMiss, if bit w1 31 then none else some (fld w1 25 16))
  | .depth => (evCliClsDepth, if bit w1 15 then none else some (fld w1 9 0))
  | .malformed => (evCliClsMal, if bit w2 31 then none else some (fld w2 25 16))
  | _ => (evCliClsFragMiss, if bit w2 15 then none else some (fld w2 9 0))

def fragFind (s : State) (f : FragId) : Option FragEntry := s.grm.frag.find? fun e => e.id = f

/-- The outcome of a packet at retire, with what it counts (R326, R332–R334). -/
def packetOutcome (p : Packet) (s : State) : State × Option Nat :=
  match p.ended with
  | some (.slot g) => (s, some g)
  | some .ruleDrop => (note evCliRuleDrop p.port 1 s, none)
  | some (.later f) =>
    match fragFind s f with
    | some e =>
      if e.slag then
        let a := classAction s (.later f)
        (note a.1 p.port 1 (note evIntTableSlag 11 1 (s.onGrm fun v => { v with frag := v.frag.filter fun x => x.id ≠ f })), a.2)
      else (s.onGrm fun v => { v with frag := v.frag.map fun x => if x.id = f then { x with used := s.stk.run } else x }, e.out)
    | none => let a := classAction s (.later f); (note a.1 p.port 1 s, a.2)
  | some x => let a := classAction s x; (note a.1 p.port 1 s, a.2)
  | none => (s, none)

/-- A first fragment's outcome enters the fragment table (R332). -/
def storeFragment (p : Packet) (out : Option Nat) (s : State) : State :=
  match p.first with
  | none => s
  | some f =>
    let rest := s.grm.frag.filter fun x => x.id ≠ f
    if 4096 ≤ rest.length then note evGrdFragFull 0 1 s
    else s.onGrm fun v => { v with frag := rest ++ [{ id := f, out := out, used := s.stk.run }] }

/-- The stream header of R133 for a frame of `len` bytes: KIND 0, ERR as given. -/
def ethHeader (err : Bool) (len : Nat) : List Byte :=
  let h := bytesOfNat 3 (flag err * 2 ^ 21 + (len % 16384) * 2 ^ 7)
  h ++ [crc8 h]

/-- A packet reaches its slot: off, wrong feeder, no room, or committed behind its stream header (R334, R338, R341). -/
def toSlot (p : Packet) (g : Nat) (s : State) : State :=
  let w := slotCfg s g
  let n := 4 + p.bytes.length
  let b := bytesIn (slotOf s g).buf
  if !slEn w then note evCliSlotOffDrop p.port 1 s
  else if slFeed w ≠ 63 && slFeed w ≠ p.port then note evCliGrmFeedMm p.port 1 s
  else if slMib w * 1048576 < b + n then note evSlotSlotDrop g 1 s
  else
    grmLevel (64 + g) b (b + n) (note evSlotPacketBytes g p.bytes.length (note evSlotPackets g 1
      (onSlot g (fun x => { x with buf := x.buf ++ [ethHeader false p.bytes.length ++ p.bytes] }) s)))

/-- The former generation drains until the last packet that holds it retires (R336). -/
def drainCheck (s : State) : State :=
  if s.grm.pend = .draining && !(s.grm.flight.any fun p => p.gen1 ≠ s.grm.activeIs1) then s.onGrm fun v => { v with pend := .stale } else s

/-- PACKET_RETIRE (R326): the oldest packet of a port retires once its passes have ended. -/
def execPacketRetire (p : Nat) (s : State) : Host.Outcome State Fault Refusal :=
  ok (match s.grm.flight.find? fun k => k.port = p with
    | none => s
    | some k =>
      if k.ended.isNone then s
      else
        let s := s.onGrm fun v => { v with flight := v.flight.filter fun x => x.no ≠ k.no }
        let r := packetOutcome k s
        let s := storeFragment k r.2 r.1
        drainCheck (match r.2 with | some g => toSlot k g s | none => s))

/-- FRAG_AGE_EXPIRY (R332): entries unused for 2,000 strokes. -/
def execFragAgeExpiry (s : State) : Host.Outcome State Fault Refusal :=
  ok (s.onGrm fun v => { v with frag := v.frag.filter fun x => s.stk.run < x.used + 2000 })

/-! ### Towards the container (R339, R341, R342) -/

/-- The slot that feeds a container of HOME GROOM: the lowest enabled or configured one that names it. -/
def slotOfCont (s : State) (c : Nat) : Option Nat := (s.grm.slotCfg.find? fun x => slCont x.2 = c).map Prod.fst

/-- The container's frames carry CSF (R341, R342). -/
def slotCsf (s : State) (c : Nat) : Bool :=
  match slotOfCont s c with
  | none => true
  | some g =>
    let w := slotCfg s g
    !slEn w || (slFeed w ≠ 63 && (!groomedPort s (slFeed w) || portFail s (slFeed w)))

/-- Takes up to n bytes off a list of packets. -/
def takeBytes : Nat → List (List Byte) → List Byte × List (List Byte)
  | _, [] => ([], [])
  | n, p :: r =>
    if n = 0 then ([], p :: r)
    else if p.length ≤ n then let t := takeBytes (n - p.length) r; (p ++ t.1, t.2)
    else (p.take n, p.drop n :: r)

/-- Bytes that the read-out of a slot could move: none while an HBM grant is stuck (R339, R445). -/
def readRoom (p g : Nat) (s : State) : Nat :=
  let n := 2 * p - (slotOf s g).staged.length
  if !s.integ.hbmOwner.isEmpty then 0
  else match s.grm.readLimit.find? fun x => x.1 = g with
    | some x => min x.2 n
    | none => n

/-- At row 0 the read-out has moved committed bytes into the stage of two strokes, and CM bytes of it go to the frame (R339). -/
def slotRead (p g : Nat) (s : State) : State × List SByte :=
  let x := slotOf s g
  let t := takeBytes (readRoom p g s) x.buf
  let staged := x.staged ++ t.1.map fun b => (b, false)
  let cm := min p staged.length
  (onSlot g (fun x => { x with buf := t.2, staged := staged.drop cm, cmLast := cm }) s, staged.take cm)

/-- A frame without data (R131, R341, R342): CM_LAST is 0. -/
def slotIdle (c : Nat) (s : State) : State :=
  match slotOfCont s c with
  | some g => onSlot g (fun x => { x with cmLast := 0 }) s
  | none => s

/-- Committed bytes of a slot that were not read out are discarded (R342; counted once, DEDUCED, log entry 27). -/
def slotDiscard (g : Nat) (s : State) : State :=
  let x := slotOf s g
  let s' := onSlot g (fun x => { x with buf := [], staged := [] }) s
  if x.buf.isEmpty && x.staged.isEmpty then s' else note evSlotSlotDiscard g 1 s'

/-! ### From the container (R340) -/

/-- The stream of a container's sink is lost: its unparsed bytes go, and a frame in progress of a groomed container is rewound and counted (R340). -/
def streamGone (c : Nat) (s : State) : State :=
  let x := tget {} s.cont.snk c
  let s' := s.onCont fun v => { v with snk := tmod {} v.snk c fun x => { x with strmBuf := [], strmSync := false, skip := false } }
  match slotOfCont s c with
  | some g => if (contEntry s c).home = 1 && framePart x then note evCliGrmUnpackBad (slOut (slotCfg s g)) 1 s' else s'
  | none => s'

def contOut (s : State) (c : Nat) : List (List Byte × Bool) := (tget {} s.cont.snk c).frames
def slotWaits (s : State) (g : Nat) : Bool := slEn (slotCfg s g) && !(contOut s (slCont (slotCfg s g))).isEmpty

/-- The slot served next of those that share an OUT_PORT: round robin after the last one served. -/
def nextSlot (s : State) (out : Nat) : Option Nat :=
  let l := (s.grm.slotCfg.map Prod.fst).filter fun g => slOut (slotCfg s g) = out && slotWaits s g
  match l.find? fun g => decide (tget 0 s.grm.rrOut out < g + 1) with
  | some g => some g
  | none => l.head?

/-- UNPACK_FRAME (R340): the next frame that the sink of the slot's container has taken from the stream. -/
def execUnpackFrame (slot : Nat) (s : State) : Host.Outcome State Fault Refusal :=
  let w := slotCfg s slot
  let q := slOut w
  ok (if slot < 1024 && slotWaits s slot && nextSlot s q = some slot then
    match contOut s (slCont w) with
    | [] => s
    | f :: r =>
      let s := s.onCont fun v => { v with snk := tmod {} v.snk (slCont w) fun x => { x with frames := r } }
      let s := s.onGrm fun v => { v with rrOut := tset 0 v.rrOut q (slot + 1) }
      if f.2 then note evCliGrmUnpackBad q 1 s
      else if !groomedPort s q || decide (524288 < grmBytes s (2048 + q) + f.1.length) then note evCliGrmTxDrop q 1 s
      else
        let b := grmBytes s (2048 + q)
        grmLevel (2048 + q) b (b + f.1.length) (s.onGrm fun v => { v with outq := tset [] v.outq q (outqOf s q ++ [(slot, f.1)]) })
  else s)

/-- EGRESS_MAC_TAKE (R340): committed frames leave in commit order. -/
def execEgressMacTake (p : Nat) (s : State) : Host.Outcome State Fault Refusal :=
  ok (if groomedPort s p then
    match outqOf s p with
    | [] => s
    | f :: r =>
      note evCliTxBytes p f.2.length (note evCliTxFrames p 1
        (onCliPort p (fun x => { x with txFrame := f.2 }) (s.onGrm fun v => { v with outq := tset [] v.outq p r })))
  else s)

/-! ### Commands (R337, R345) -/

def grmUnit (s : State) : List Check := [need (groomPresent s) { st := .unitAbsent }]

/-- PENDING is sealed: a RULE_COMMIT waits for its row 0 (R335). -/
def grmSealed (s : State) : Bool := !(waiting opRuleCommit s).isEmpty

/-- PENDING is sealed, draining or being synchronised (R336). -/
def grmBusy (s : State) : Check := need (!grmSealed s && s.grm.pend ≠ .draining && s.grm.sync.isNone) { st := .busy, detail := 2 }

/-- GROOM_CFG: DEPTH 1–8. -/
def doGroomCfg (rq : Req) (s : State) : State :=
  command opGroomCfg rq
    { unit := grmUnit s,
      par := [countIs 3 rq, onlyBits 0 0x0000000F#32 rq, wordOk 0 (decide (1 ≤ (rq.p 0).toNat) && decide ((rq.p 0).toNat ≤ 8)), onlyBits 1 0x83FF83FF#32 rq, onlyBits 2 0x83FF83FF#32 rq] } s
    (commitOnly opGroomCfg rq)
def execGroomCfg (rq : Req) (s : State) : Host.Outcome State Fault Refusal := ok (doGroomCfg rq s)
def applyGroomCfg (c : Commit) (s : State) : State := s.onGrm fun v => { v with cfg := c.params }

/-- GROOM_READ. -/
def doGroomRead (rq : Req) (s : State) : State :=
  command opGroomRead rq { unit := grmUnit s, par := [countIs 0 rq] } s fun s => .done s s.grm.cfg
def execGroomRead (rq : Req) (s : State) : Host.Outcome State Fault Refusal := ok (doGroomRead rq s)

def GenState.code : GenState → Nat
  | .synced => 0 | .modified => 1 | .stale => 2 | .draining => 3

/-- GROOM_STATUS words 0–3. -/
def groomStatusWords (s : State) : List W32 :=
  let c := match waiting opRuleCommit s with | c :: _ => c.stroke.getD 0#48 | [] => 0#48
  [word [(s.grm.pend.code, 30), (flag (grmSealed s), 29), (s.grm.frag.length, 0)], s.grm.genNum, word [(hi16 c, 0)], BitVec.ofNat 32 (lo32 c)]

/-- GROOM_STATUS_READ. -/
def doGroomStatusRead (rq : Req) (s : State) : State :=
  command opGroomStatusRead rq { unit := grmUnit s, par := [countIs 0 rq] } s fun s => .done s (groomStatusWords s)
def execGroomStatusRead (rq : Req) (s : State) : Host.Outcome State Fault Refusal := ok (doGroomStatusRead rq s)

def slotObj (w : W32) : Nat := fld w 9 0

/-- Values of SLOT_CFG in force and pending. -/
def slotViews (s : State) (g : Nat) : List (W32 × W32) :=
  slotCfg s g :: ((waiting opSlotCfg s).filter fun c => slotObj (c.p 0) = g).map fun c => (c.p 1, c.p 2)

/-- Slots with a configuration other than the reset one, in force or pending. -/
def slotIds (s : State) : List Nat := (s.grm.slotCfg.map Prod.fst ++ (waiting opSlotCfg s).map fun c => slotObj (c.p 0)).dedup

/-- Another configured slot names the container (R337; DEDUCED, log entry 28). -/
def contNamed (s : State) (g c : Nat) : Bool := (slotIds s).any fun h => h ≠ g && (slotViews s h).any fun w => w ≠ slotReset && slCont w = c

/-- MiB of the slots that are enabled or pending enable, with slot g as the command writes it (R337). -/
def slotMib (s : State) (g : Nat) (w : W32 × W32) : Nat :=
  (if slEn w then slMib w else 0) +
    (((slotIds s).filter fun h => h ≠ g && (slotViews s h).any slEn).map fun h => ((slotViews s h).filter slEn).foldl (fun a v => max a (slMib v)) 0).sum

def portField (n : Nat) : Bool := n < 48 || n = 63

/-- SLOT_CFG (R337). -/
def doSlotCfg (rq : Req) (s : State) : State :=
  let g := slotObj (rq.p 0)
  let w := (rq.p 1, rq.p 2)
  let old := slotCfg s g
  let e := contLast s (slCont w)
  command opSlotCfg rq
    { unit := grmUnit s,
      par := [countIs 3 rq, onlyBits 0 0x000003FF#32 rq, onlyBits 1 0xBFFF007F#32 rq, wordOk 1 (decide (1 ≤ slMib w) && decide (slMib w ≤ 64)),
        onlyBits 2 0xFFF00000#32 rq, wordOk 2 (portField (slFeed w) && portField (slOut w)),
        wordOk 1 (decide (e.home = 1) && decide (e.pt = 3) && !contNamed s g (slCont w)),
        wordOk 1 (!slEn old || !slEn w || (decide (slCont w = slCont old) && decide (slMib w = slMib old)))],
      late := [need (decide (slotMib s g w ≤ 8192)) { st := .capacity, detail := 2 }] } s (commitOnly opSlotCfg rq)
def execSlotCfg (rq : Req) (s : State) : Host.Outcome State Fault Refusal := ok (doSlotCfg rq s)

/-- SLOT_CFG at its row 0: a slot that is disabled discards what was not read out, and its unpacker stops (R342). -/
def applySlotCfg (c : Commit) (s : State) : State :=
  let g := slotObj (c.p 0)
  let old := slotCfg s g
  let s := s.onGrm fun v => { v with slotCfg := tset slotReset v.slotCfg g (c.p 1, c.p 2) }
  if slEn old && !bit (c.p 1) 31 then
    slotDiscard g (s.onCont fun v => { v with snk := tmod {} v.snk (slCont old) fun x => { x with frames := [], strmBuf := [], strmSync := false, skip := false } })
  else s

/-- SLOT_READ. -/
def doSlotRead (rq : Req) (s : State) : State :=
  command opSlotRead rq { unit := grmUnit s, par := [countIs 1 rq, onlyBits 0 0x000003FF#32 rq] } s
    fun s => .done s [(slotCfg s (slotObj (rq.p 0))).1, (slotCfg s (slotObj (rq.p 0))).2]
def execSlotRead (rq : Req) (s : State) : Host.Outcome State Fault Refusal := ok (doSlotRead rq s)

def slotStatusWords (s : State) (g : Nat) : List W32 :=
  let w := slotCfg s g
  let x := slotOf s g
  [word [(flag (slEn w), 31), (flag (srcOf s (slCont w)).csf, 30)], BitVec.ofNat 32 (bytesIn x.buf + x.staged.length), BitVec.ofNat 32 x.cmLast]

/-- SLOT_STATUS_READ. -/
def doSlotStatusRead (rq : Req) (s : State) : State :=
  command opSlotStatusRead rq { unit := grmUnit s, par := [countIs 1 rq, onlyBits 0 0x000003FF#32 rq] } s
    fun s => .done s (slotStatusWords s (slotObj (rq.p 0)))
def execSlotStatusRead (rq : Req) (s : State) : Host.Outcome State Fault Refusal := ok (doSlotStatusRead rq s)

/-- PENDING is written: SYNCED becomes MODIFIED (R336). -/
def grmModified (s : State) : State := s.onGrm fun v => { v with pend := if v.pend = .synced then .modified else v.pend }

def pendBank (s : State) : Nat := bankOf (!s.grm.activeIs1)

/-- PROG_WRITE (R329, R335). -/
def doProgWrite (rq : Req) (s : State) : State :=
  let f := fld (rq.p 0) 7 0
  let n := fld (rq.p 1) 8 0
  command opProgWrite rq
    { unit := grmUnit s,
      par := [countIn 2 258 rq, onlyBits 0 0x000000FF#32 rq, onlyBits 1 0x000001FF#32 rq, wordOk 1 (decide (1 ≤ n) && decide (f + n ≤ 256)),
        countIs (2 + n) rq] ++ (List.range n).map fun i => wordOk (2 + i) (instrOk (rq.p (2 + i))),
      late := [grmBusy s] } s
    fun s =>
      if backDiffers (8 + pendBank s) f n s then internalAnswer opProgWrite (s.onAnvil fun v => { v with backBad := [] }) else
      .done (grmModified ((cleanWords (8 + pendBank s) f n s).onGrm fun v => { v with
      prog := tsetMany 0#32 v.prog (pendBank s * 256 + f) (rq.params.drop 2), goldProg := tsetMany 0#32 v.goldProg (pendBank s * 256 + f) (rq.params.drop 2) })) []
def execProgWrite (rq : Req) (s : State) : Host.Outcome State Fault Refusal := ok (doProgWrite rq s)

/-- Groups of 17 words. -/
def rulesOf (n : Nat) (ws : List W32) : List (List W32) := (List.range n).map fun i => (ws.drop (17 * i)).take 17

/-- RULE_WRITE (R333, R335). -/
def doRuleWrite (rq : Req) (s : State) : State :=
  let f := fld (rq.p 0) 15 0
  let n := fld (rq.p 1) 7 0
  command opRuleWrite rq
    { unit := grmUnit s,
      par := [countIn 2 4082 rq, onlyBits 0 0x0000FFFF#32 rq, onlyBits 1 0x000000FF#32 rq, wordOk 1 (decide (1 ≤ n) && decide (n ≤ 240) && decide (f + n ≤ 65536)),
        countIs (2 + 17 * n) rq] ++ (List.range n).map fun i => onlyBits (2 + 17 * i + 16) 0xC00003FF#32 rq,
      late := [grmBusy s] } s
    fun s =>
      if backDiffers (6 + pendBank s) (17 * f) (17 * n) s then internalAnswer opRuleWrite (s.onAnvil fun v => { v with backBad := [] }) else
      .done (grmModified ((cleanWords (6 + pendBank s) (17 * f) (17 * n) s).onGrm fun v => { v with
      rules := tsetMany ruleReset v.rules (pendBank s * 65536 + f) (rulesOf n (rq.params.drop 2))
      goldRules := tsetMany ruleReset v.goldRules (pendBank s * 65536 + f) (rulesOf n (rq.params.drop 2)) })) []
def execRuleWrite (rq : Req) (s : State) : Host.Outcome State Fault Refusal := ok (doRuleWrite rq s)

/-- RULE_COMMIT (R335): seals PENDING; answers GEN_NUM in force from S. -/
def doRuleCommit (rq : Req) (s : State) : State :=
  command opRuleCommit rq { unit := grmUnit s, par := [countIs 0 rq], late := [grmBusy s] } s
    fun s => .done (addCommit opRuleCommit rq s) [s.grm.genNum + 1#32]
def execRuleCommit (rq : Req) (s : State) : Host.Outcome State Fault Refusal := ok (doRuleCommit rq s)

/-- The swap at row 0 (R335, R336). -/
def applyRuleCommit (s : State) : State :=
  drainCheck (s.onGrm fun v => { v with activeIs1 := !v.activeIs1, genNum := v.genNum + 1#32, pend := .draining })

/-- RULE_SYNC (R336). -/
def doRuleSync (rq : Req) (s : State) : State :=
  command opRuleSync rq { unit := grmUnit s, par := [countIs 0 rq], late := [grmBusy s] } s
    fun s => .wait (s.onGrm fun v => { v with sync := some (deferred opRuleSync rq s) })
def execRuleSync (rq : Req) (s : State) : Host.Outcome State Fault Refusal := ok (doRuleSync rq s)

/-- Bank `b` of a table of `n` entries per bank replaced by the other bank. -/
def copyBank {α : Type} (n b : Nat) (t : List (Nat × α)) : List (Nat × α) :=
  let other := t.filter fun x => x.1 / n ≠ b
  if b = 0 then other.map (fun x => (x.1 % n, x.2)) ++ other else other ++ other.map fun x => (n + x.1 % n, x.2)

/-- RULE_SYNC_DONE (R336): PENDING and its golden copy equal ACTIVE. In TEMPER a read-back that differs ends it with INTERNAL, PENDING as before (R398). -/
def execRuleSyncDone (s : State) : Host.Outcome State Fault Refusal :=
  ok (match s.grm.sync with
    | none => s
    | some d =>
      let b := pendBank s
      if backDiffers (6 + b) 0 1114112 s || backDiffers (8 + b) 0 256 s then internalReply d (s.onAnvil (fun v => { v with backBad := [] }) |>.onGrm fun v => { v with sync := none }) else
      let s := cleanWords (8 + b) 0 256 (cleanWords (6 + b) 0 1114112 s)
      replyDeferred d { st := .ok } [] (s.onGrm fun v => { v with
        prog := copyBank 256 b v.prog, goldProg := copyBank 256 b v.prog, rules := copyBank 65536 b v.rules, goldRules := copyBank 65536 b v.rules
        pend := .synced, sync := none }))

/-- RULE_READ: ACTIVE or PENDING, rules or program. -/
def doRuleRead (rq : Req) (s : State) : State :=
  let prog := bit (rq.p 0) 30
  let f := fld (rq.p 0) 15 0
  let n := (rq.p 1).toNat
  let bank := if bit (rq.p 0) 31 then !s.grm.activeIs1 else s.grm.activeIs1
  command opRuleRead rq
    { unit := grmUnit s,
      par := [countIs 2 rq, onlyBits 0 0xC000FFFF#32 rq, wordOk 0 (!prog || decide (f < 256)), onlyBits 1 (if prog then 0x000001FF#32 else 0x000000FF#32) rq,
        wordOk 1 (decide (1 ≤ n) && (if prog then decide (f + n ≤ 256) else decide (n ≤ 240) && decide (f + n ≤ 65536)))] } s
    fun s =>
      if prog then readAnswer (8 + bankOf bank) f ((List.range n).map fun i => progWord s bank (f + i)) [] s
      else readAnswer (6 + bankOf bank) (17 * f) ((List.range n).flatMap fun i => ruleOf s bank (f + i)) [] s
def execRuleRead (rq : Req) (s : State) : Host.Outcome State Fault Refusal := ok (doRuleRead rq s)

def grmQueueChecks (rq : Req) : List Check := [onlyBits 0 0x00000FFF#32 rq, wordOk 0 (grmQueueOk (fld (rq.p 0) 11 0))]

/-- GRM_QUEUE_CFG. -/
def doGrmQueueCfg (rq : Req) (s : State) : State :=
  command opGrmQueueCfg rq { unit := grmUnit s, par := [countIs 2 rq] ++ grmQueueChecks rq ++ [onlyBits 1 0x001FFFFF#32 rq] } s
    fun s => .done (s.onGrm fun v => { v with levels := tset 0#32 v.levels (fld (rq.p 0) 11 0) (rq.p 1) }) []
def execGrmQueueCfg (rq : Req) (s : State) : Host.Outcome State Fault Refusal := ok (doGrmQueueCfg rq s)

/-- GRM_QUEUE_FLUSH (R324). -/
def doGrmQueueFlush (rq : Req) (s : State) : State :=
  command opGrmQueueFlush rq { unit := grmUnit s, par := [countIs 1 rq] ++ grmQueueChecks rq } s
    fun s => .done (grmFlush (fld (rq.p 0) 11 0) s) []
def execGrmQueueFlush (rq : Req) (s : State) : Host.Outcome State Fault Refusal := ok (doGrmQueueFlush rq s)

def eachNat (f : Nat → State → State) : List Nat → State → State
  | [], s => s
  | n :: r, s => eachNat f r (f n s)

/-- Packets of a port in flight are dropped and counted with those of its ingress queue (R23; log entry 107). -/
def dropFlight (p : Nat) (s : State) : State :=
  drainCheck (note evGrqGrmFlushDiscard p (s.grm.flight.filter fun k => k.port = p).length
    (s.onGrm fun v => { v with flight := v.flight.filter fun k => k.port ≠ p }))

/-- A groomed port is switched off: its packets are dropped and counted, and the buffers of the slots it feeds are discarded (R23). -/
def groomPortOff (p : Nat) (s : State) : State :=
  let s := dropFlight p (grmFlush (2048 + p) (grmFlush p s))
  eachNat slotDiscard ((s.grm.slotCfg.filter fun x => slEn x.2 && slFeed x.2 = p).map Prod.fst) s

/-- QUENCH flushes every grooming queue, the stages and the fragment table (R343). -/
def groomQuench (s : State) : State :=
  let s := eachNat grmFlush (s.grm.inq.map Prod.fst ++ s.grm.slot.map (fun x => 64 + x.1) ++ s.grm.outq.map fun x => 2048 + x.1) s
  drainCheck (s.onGrm fun v => { v with slot := v.slot.map fun x => (x.1, { x.2 with staged := [] }), frag := [], flight := [] })

end Sys2Proof.Machine
end

