-- ==== Sys2Proof/Machine/Perf.lean ====
section
/-! DEFINITION. Performance monitoring: errored blocks and defect seconds of the monitored entities, and the seconds they are decided in (15_memory_integrity R446–R448). -/

namespace Sys2Proof.Machine

/-- Key of instance `i` of entity `n` (R446). -/
def pmKey (n i : Nat) : Nat := n * 65536 + i

def pmRec (s : State) (n i : Nat) : PmRec := tget {} s.pm.ent (pmKey n i)
def onPmRec (n i : Nat) (f : PmRec → PmRec) (s : State) : State :=
  s.onPm fun v => { v with ent := tmod {} v.ent (pmKey n i) f }

/-- `k` errored blocks of an entity, near-end or far-end. -/
def pmErrored (n i : Nat) (far : Bool) (k : Nat) (s : State) : State :=
  if k = 0 then s
  else onPmRec n i (fun r => if far then { r with errFe := r.errFe + k } else { r with errNe := r.errNe + k }) s

/-- A defect is in force at some row of the second. -/
def pmDefect (n i : Nat) (far : Bool) (s : State) : State :=
  onPmRec n i (fun r => if far then { r with defFe := true } else { r with defNe := true }) s

/-- Whether an entity is enabled, as judged at row 0: a second counts only if the entity is enabled throughout (R446).
`whole`: a second begins at this row 0. -/
def pmEnabled (n i : Nat) (en whole : Bool) (s : State) : State :=
  let r := pmRec s n i
  if r.enabled = en then s
  else onPmRec n i (fun r => { r with enabled := en, off := !(en && whole) }) s

/-- A second with `err` errored blocks and possibly a defect, under SES value `thr` (R447). -/
def secCount (err thr : Nat) (defect : Bool) : SecCount :=
  let ses := defect || decide (thr ≤ err)
  { es := ses || decide (0 < err), ses := ses, bbe := if ses then 0 else err }

/-- ES, SES and BBE of a decided second in available time. -/
def addAvail (c : List Nat) (x : SecCount) : List Nat :=
  [(c.getD 0 0 + flag x.es) % 2 ^ 32, (c.getD 1 0 + flag x.ses) % 2 ^ 32, (c.getD 2 0 + x.bbe) % 2 ^ 32, c.getD 3 0]

def addUnavail (c : List Nat) (k : Nat) : List Nat :=
  [c.getD 0 0, c.getD 1 0, c.getD 2 0, (c.getD 3 0 + k) % 2 ^ 32]

/-- One direction of an entity: undecided seconds, unavailable, counts. -/
structure PmDir where
  opn : List SecCount
  unav : Bool
  counts : List Nat

/-- A second ends in a direction: it is decided when its availability is known (R447). -/
def pmDecide (x : SecCount) (d : PmDir) : PmDir :=
  if d.unav then
    if x.ses then { d with opn := [], counts := addUnavail d.counts (d.opn.length + 1) }
    else if d.opn.length = 9 then { opn := [], unav := false, counts := (d.opn ++ [x]).foldl addAvail d.counts }
    else { d with opn := d.opn ++ [x] }
  else
    if !x.ses then { d with opn := [], counts := (d.opn ++ [x]).foldl addAvail d.counts }
    else if d.opn.length = 9 then { opn := [], unav := true, counts := addUnavail d.counts 10 }
    else { d with opn := d.opn ++ [x] }

/-- The end of a second for one entity. A second in which it was not enabled throughout is not counted and leaves the runs as they are (DEDUCED, log entry 18);
a near-end defect second is left out of the far-end direction. -/
def pmSecondOf (thr : Nat) (r : PmRec) : PmRec :=
  if r.off || !r.enabled then { r with errNe := 0, errFe := 0, defNe := false, defFe := false, off := !r.enabled }
  else
    let ne := pmDecide (secCount r.errNe thr r.defNe) { opn := r.openNe, unav := r.unavNe, counts := r.ne }
    let fe := if r.defNe then { opn := r.openFe, unav := r.unavFe, counts := r.fe }
      else pmDecide (secCount r.errFe thr r.defFe) { opn := r.openFe, unav := r.unavFe, counts := r.fe : PmDir }
    { r with errNe := 0, errFe := 0, defNe := false, defFe := false, off := false
             openNe := ne.opn, unavNe := ne.unav, ne := ne.counts, openFe := fe.opn, unavFe := fe.unav, fe := fe.counts }

/-- The end of a second for every entity; `thr n i` is its SES value. -/
def pmSecond (thr : Nat → Nat → Nat) (s : State) : State :=
  s.onPm fun v => { v with ent := v.ent.map fun x => (x.1, pmSecondOf (thr (x.1 / 65536) (x.1 % 65536)) x.2) }

/-- A snapshot at row 0: all entities latch in the same cycle, and every snapshot counter is written anew (R429, R448). CAUSE 1 second, 2 PM_SNAP, 3 both. -/
def pmSnapshot (second : Bool) (s : State) : State :=
  if second || s.pm.snapAsked then
    s.onPm fun v => { v with
      snap := v.ent, snapSeq := v.snapSeq + 1#32, snapCause := flag second + 2 * flag v.snapAsked, snapScnt := s.stk.scnt, snapAsked := false, bad := [] }
  else s

end Sys2Proof.Machine
end

