-- ==== Sys2Proof/Machine/Sink.lean ====
section
/-! DEFINITION. Container frames as a sink takes them: alignment, overhead, path defects, demapping and the security unit
(04_anvil_cross_connect R125–R142, 12_container_security R361–R365). -/

namespace Sys2Proof.Machine

/-! ### Reading a frame -/

def frByte (fr : List SByte) (i : Nat) : Byte := (fr.getD i (0#8, false)).1
def frBytes (fr : List SByte) (i n : Nat) : List Byte := (List.range n).map fun k => frByte fr (i + k)
def frNat (fr : List SByte) (i n : Nat) : Nat := natOfBytes (frBytes fr i n)
def frSlag (fr : List SByte) (i n : Nat) : Bool := (List.range n).any fun k => (fr.getD (i + k) (0#8, false)).2

def frFw (fr : List SByte) : Nat := frNat fr 0 2
def frNn (fr : List SByte) : Nat := frNat fr 8 2 % 32768
def frCm (fr : List SByte) : Nat := frNat fr 10 3
def frSohp (fr : List SByte) : Bool := (frByte fr 7).getLsbD 7
def jcrcOk (fr : List SByte) : Bool := crc8 (frBytes fr 7 6) = frByte fr 13

/-- What a sink expects of its frames. `runs` is the sum of its run lengths, LEN for a copy monitor (R155). -/
structure SinkPar where
  expPt : Nat := 0
  expPlbl : Nat := 0
  cmmAct : Bool := true
  runs : Nat := 0
  degThr : Nat := 7500
  degM : Nat := 7

/-- What one received frame showed. `taken`: it was received in frame. `errBlocks`: blocks newly counted as errored. -/
structure FrameView where
  taken : Bool := false
  jcBad : Bool := false
  n : Nat := 0
  cm : Nat := 0
  viol : Nat := 0
  errBlocks : Nat := 0
  bei : Nat := 0
  bdi : Bool := false
  secf : Bool := false
  sohp : Bool := false

/-! ### Defects (R141) -/

def Defect.num : Defect → Nat
  | .cfa => 0 | .ais => 1 | .lck => 2 | .uneq => 3 | .cmm => 4 | .ptm => 5 | .bdi => 6 | .deg => 7 | .rsz => 8 | .csf => 9 | .secmm => 10

def Defect.all : List Defect := [.cfa, .ais, .lck, .uneq, .cmm, .ptm, .bdi, .deg, .rsz, .csf, .secmm]

def Defect.ev : Defect → Ev
  | .cfa => evConDCfa | .ais => evConDAis | .lck => evConDLck | .uneq => evConDUneq | .cmm => evConDCmm | .ptm => evConDPtm
  | .bdi => evConDBdi | .deg => evConDDeg | .rsz => evConDRsz | .csf => evConDCsf | .secmm => evConDSecmm

/-- A defect declared after `on` consecutive occurrences of its condition and cleared after `off` without it. -/
def persist (d : Defect) (on off : Nat) (cond : Bool) (x : SinkSt) : SinkSt :=
  let k := d.num
  let decl := x.defects.contains d
  if cond = decl then { x with onRun := tset 0 x.onRun k 0, offRun := tset 0 x.offRun k 0 }
  else if decl then
    if off ≤ tget 0 x.offRun k + 1 then { x with defects := del x.defects d, offRun := tset 0 x.offRun k 0 }
    else { x with offRun := tmod 0 x.offRun k (· + 1) }
  else if on ≤ tget 0 x.onRun k + 1 then { x with defects := x.defects ++ [d], onRun := tset 0 x.onRun k 0 }
  else { x with onRun := tmod 0 x.onRun k (· + 1) }

def fillDefect (x : SinkSt) : Bool := x.defects.contains .ais || x.defects.contains .lck || x.defects.contains .uneq

/-- Defects that make SSF, dSECLCK apart (R142, R365). -/
def sinkSsf (cmmAct : Bool) (x : SinkSt) : Bool :=
  fillDefect x || x.defects.contains .cfa || x.defects.contains .rsz || x.defects.contains .ptm || x.defects.contains .secmm
    || (cmmAct && x.defects.contains .cmm)

/-- The counts of consecutive frames restart when the sink is next in frame (R141). -/
def restartRuns (x : SinkSt) : SinkSt :=
  { x with
    onRun := [8, 5, 4, 9, 6].foldl (fun t k => tset 0 t k 0) x.onRun
    offRun := [8, 5, 4, 9, 6].foldl (fun t k => tset 0 t k 0) x.offRun }

/-! ### Alignment and overhead (R129, R132, R139–R141) -/

/-- A frame at offset `rho` while the sink is out of frame: two consecutive frames with correct JCRC and FW rising by 1 bring it in frame. -/
def huntFrame (rho : Nat) (fr : List SByte) (x : SinkSt) : SinkSt :=
  if !jcrcOk fr then { x with cands := tset none x.cands rho none }
  else
    match tget none x.cands rho with
    | some (fw, nn) =>
      if frFw fr = (fw + 1) % 65536 then
        restartRuns { x with
          inFrame := true, everInFrame := true, rho := rho, cands := [], lastFw := BitVec.ofNat 16 fw, failRun := 0, noAlign := 0, nNext := nn
          parityOk := false, prevSlag := false, prevErr := false, defects := del x.defects .cfa }
      else { x with cands := tset none x.cands rho (some (frFw fr, frNn fr)) }
    | none => { x with cands := tset none x.cands rho (some (frFw fr, frNn fr)) }

/-- The BIP violations that a frame shows for the frame before it: 8 for a slag-marked byte or a tag failure, whatever the parity shows (R139, R363). -/
def violOf (forced unread : Bool) (fr : List SByte) (x : SinkSt) : Nat :=
  if forced then 8
  else if !x.parityOk then 0
  else if x.prevSlag then 8
  else if unread then 0
  else ones (x.parity ^^^ frByte fr 2)

/-- The overhead `oh` of a frame at the sink's offset while it is in frame. `now`: SCNT at its arrival. `unread`: the entry was slag-marked, and the overhead is not evaluated (R140).
The parity of the frame before stands in the state once all its rows have arrived. -/
def takeFrame (k : SinkPar) (now : Nat) (unread forced : Bool) (oh : List SByte) (x : SinkSt) : SinkSt × FrameView :=
  let fw := (x.lastFw.toNat + 1) % 65536
  let jc := !unread && jcrcOk oh
  let failing := !unread && (!jc || frFw oh ≠ fw)
  let run := if failing then x.failRun + 1 else if unread then x.failRun else 0
  let out := decide (3 ≤ run)
  let viol := if out then 0 else violOf forced unread oh x
  let now' := failing || unread
  let y := { x with
    lastFw := BitVec.ofNat 16 fw, failRun := run, nRx := x.nNext
    nNext := if jc then frNn oh else x.nNext
    cmRx := if jc then frCm oh else x.cmRx
    rxSohp := if jc then frSohp oh else x.rxSohp
    rxPlbl := if unread then x.rxPlbl else BitVec.ofNat 16 (frNat oh 4 2)
    rxPt := if unread then x.rxPt else frByte oh 6
    dlyRows := 125 * ((now + 65536 - fw) % 65536) + x.rho
    parityOk := false, prevSlag := false, prevErr := now' }
  let y := if unread then y
    else
      let y := if jc then persist .rsz 1 2 (decide (k.runs < frNn oh)) y else y
      let y := persist .ptm 5 5 (decide ((frByte oh 6).toNat ≠ k.expPt)) y
      let y := persist .cmm 5 5 (decide (k.expPlbl ≠ 0) && decide (frNat oh 4 2 ≠ k.expPlbl)) y
      let y := persist .csf 3 3 ((frByte oh 3).getLsbD 1) y
      persist .bdi 5 5 ((frByte oh 3).getLsbD 3) y
  let errBlocks := flag (decide (0 < viol) && !x.prevErr) + flag now'
  let y := { y with errSec := y.errSec + errBlocks }
  let y := if out then
      { y with inFrame := false, failRun := 0, cands := [], noAlign := 0
               defects := if fillDefect y || y.defects.contains .cfa then y.defects else y.defects ++ [.cfa] }
    else y
  let bei := fld (BitVec.ofNat 32 (frByte oh 3).toNat) 7 4
  (y, { taken := true, jcBad := !unread && !jc, n := x.nNext, cm := y.cmRx, viol := viol, errBlocks := errBlocks
        bei := if unread || 8 < bei then 0 else bei
        bdi := !unread && (frByte oh 3).getLsbD 3, secf := !unread && (frByte oh 3).getLsbD 2, sohp := y.rxSohp })

/-- A frame at offset `rho`, in any state of the sink. -/
def sinkFrame (k : SinkPar) (now rho : Nat) (unread forced : Bool) (oh : List SByte) (x : SinkSt) : SinkSt × FrameView :=
  let x := if x.inFrame || unread then x else huntFrame rho oh x
  if x.inFrame && x.rho = rho then takeFrame k now unread forced oh x else (x, {})

/-! ### Rows (R123, R125, R361) -/

def bytesOfCell (c : Cell) : List SByte := [(c.b0, c.s0), (c.b1, c.s1)]

/-- The 2N bytes of a row that belong to a frame of N billets. -/
def rowBytes (n : Nat) (r : SinkRow) : List SByte := (List.range (2 * n)).map fun i => r.bytes.getD i (0#8, false)

/-- The rows read since the last one of index `rho`, that one first. -/
def rowsSince (x : SinkSt) (rho : Nat) : List SinkRow :=
  match x.rows.findIdx? fun r => r.row = rho with
  | some i => (x.rows.take (i + 1)).reverse
  | none => []

/-- The overhead that a frame at offset `rho` shows under N = n: none before its last byte, 23 or with SOHP 47, has arrived. -/
def overheadAt (x : SinkSt) (rho n : Nat) : Option (List SByte) :=
  let b := (rowsSince x rho).flatMap (rowBytes n)
  let h := if frSohp b then 48 else 24
  if h ≤ b.length then some (b.take h) else none

/-- A frame's parity and slag stand once its 125 rows have arrived (R127, R139). -/
def endBody (b : BodyRx) (x : SinkSt) : SinkSt :=
  { x with parity := bip8 (b.fr.map Prod.fst), parityOk := true, prevSlag := b.fr.any Prod.snd }

/-- A row enters a frame in progress. -/
def growBody (r : SinkRow) (b : BodyRx) : BodyRx := { b with got := b.got + 1, fr := b.fr ++ rowBytes b.n r }

/-- A row goes to the frame in progress, if there is one; and the bytes of it that carry a slag mark. -/
def takeRow (r : SinkRow) (x : SinkSt) : SinkSt × Nat :=
  match x.flow.getLast? with
  | some b =>
    if b.got < 125 then
      let b := growBody r b
      let x := { x with flow := x.flow.dropLast ++ [b], stale := 0 }
      (if b.got = 125 then endBody b x else x, ((rowBytes b.n r).filter Prod.snd).length)
    else ({ x with stale := x.stale + 1 }, 0)
  | none => ({ x with stale := x.stale + 1 }, 0)

def takeRows : List SinkRow → SinkSt → SinkSt × Nat
  | [], x => (x, 0)
  | r :: l, x =>
    let a := takeRow r x
    let b := takeRows l a.1
    (b.1, a.2 + b.2)

/-- A row that the sink reads. -/
def readSinkRow (r : SinkRow) (x : SinkSt) : SinkSt × Nat := takeRow r { x with rows := (r :: x.rows).take 32 }

/-- A frame that was taken begins with the rows that have arrived since its row 0; the frame before stays while rows of it are to be released. -/
def beginBody (rho : Nat) (b : BodyRx) (x : SinkSt) : SinkSt × Nat :=
  takeRows (rowsSince x rho) { x with flow := (x.flow.filter fun c => c.rel < c.got) ++ [b] }

/-- The frame at the sink's offset is due: no frame is in progress. -/
def frameDue (x : SinkSt) : Bool := match x.flow.getLast? with | some b => decide (125 ≤ b.got) | none => true

/-- The end of a stroke of the sink: fill defects over billet 0, dCFA of a sink never in frame, and at the end of a second dDEG (R129, R141).
A sink that is out of frame after a fill defect has gone declares dCFA. -/
def sinkStroke (k : SinkPar) (second : Bool) (x : SinkSt) : SinkSt :=
  let x := persist .ais 3 3 (x.fillNow.contains 0) x
  let x := persist .lck 3 3 (x.fillNow.contains 1) x
  let x := persist .uneq 3 3 (x.fillNow.contains 2) x
  let x := { x with fillNow := [0, 1, 2], noAlign := if x.inFrame then 0 else x.noAlign + 1
                    errSec := if !x.inFrame && !x.everInFrame then x.errSec + 1 else x.errSec }
  let x := if !x.inFrame && (x.everInFrame || 3 ≤ x.noAlign) && !fillDefect x && !x.defects.contains .cfa then { x with defects := x.defects ++ [.cfa] } else x
  if second then { persist .deg k.degM k.degM (decide (k.degThr < x.errSec)) x with errSec := 0 } else x

/-- The fill values that a cell of billet 0 still allows (R141). -/
def fillOf (c : Cell) : List Nat :=
  (if c.b0 = 0xFF#8 && c.b1 = 0xFF#8 then [0] else []) ++ (if c.b0 = 0x55#8 && c.b1 = 0x55#8 then [1] else [])
    ++ (if c.b0 = 0#8 && c.b1 = 0#8 then [2] else [])

/-- Events of a change of a container's defects (R141, R365). -/
def noteDefects (c : Nat) (was now : List Defect) : List Defect → State → State
  | [], s => s
  | d :: r, s => noteDefects c was now r (noteChange d.ev c (was.contains d) (now.contains d) s)

/-! ### Demapping (R130, R133) -/

/-- Payload byte j carries a client byte (R130). -/
def isData (cm p j : Nat) : Bool := decide (j * cm / p < (j + 1) * cm / p)

/-- The client bytes of a payload under CM (R130). -/
def demap (cm : Nat) (pay : List SByte) : List SByte :=
  let p := pay.length
  ((List.range p).filter (isData cm p)).map fun j => pay.getD j (0#8, false)

def hecOk (h : List SByte) : Bool := crc8 [frByte h 0, frByte h 1, frByte h 2] = frByte h 3
def hdrKind (h : List SByte) : Nat := (frByte h 0).toNat / 64
def hdrErr (h : List SByte) : Bool := (frByte h 0).getLsbD 5
def hdrLen (h : List SByte) : Nat := frNat h 0 3 / 128 % 16384
def hdrOset (h : List SByte) : Nat := frNat h 0 3 % 128
def hdrSpan (h : List SByte) : Nat := 4 + (if hdrKind h = 0 then hdrLen h else 0)

/-- Three consecutive correct headers from the start of the bytes: some true, a wrong one among them: some false, too few bytes: none. -/
def threeHeaders : Nat → List SByte → Option Bool
  | 0, _ => some true
  | k + 1, b => if b.length < 4 then none else if hecOk b then threeHeaders k (b.drop (hdrSpan b)) else some false

/-- What a stream carries: a frame and whether it ends with an error, or an ordered set by its OSET. -/
inductive StreamItem where
  | frame (bytes : List Byte) (err : Bool)
  | ordered (oset : Nat)

/-- Outcome of parsing stream bytes: established, unparsed bytes, items, streams lost, streams found again. -/
structure Parse where
  sync : Bool
  rest : List SByte
  items : List StreamItem := []
  lost : Nat := 0
  found : Nat := 0

/-- The Ethernet stream (R133). The mark of a byte ends the frame that contains it with an error, its header included (R132, R139). A header of the
reserved KIND 2 with a correct HEC is skipped as four bytes (DESIGN CHOICE, log entry 118). The first argument bounds the bytes looked at. -/
def parseStream : Nat → Parse → Parse
  | 0, p => p
  | k + 1, p =>
    if !p.sync then
      match threeHeaders 3 p.rest with
      | none => p
      | some true => parseStream k { p with sync := true, found := p.found + 1 }
      | some false => parseStream k { p with rest := p.rest.drop 1 }
    else if p.rest.length < 4 then p
    else if !hecOk p.rest then parseStream k { p with sync := false, lost := p.lost + 1 }
    else if hdrKind p.rest = 1 then parseStream k { p with rest := p.rest.drop 4, items := p.items ++ [.ordered (hdrOset p.rest)] }
    else if hdrKind p.rest ≠ 0 then parseStream k { p with rest := p.rest.drop 4 }
    else if p.rest.length < hdrSpan p.rest then p
    else
      let f := p.rest.take (hdrSpan p.rest)
      parseStream k { p with rest := p.rest.drop (hdrSpan p.rest), items := p.items ++ [.frame ((f.drop 4).map Prod.fst) (hdrErr p.rest || f.any Prod.snd)] }

end Sys2Proof.Machine
end

