-- ==== Sys2Proof/Machine/Source.lean ====
section
/-! DEFINITION. The source side of containers: mapping, the frame of a stroke, and the bytes it puts into its billets row by row
(04_anvil_cross_connect R125–R144, 12_container_security R346–R355). -/

namespace Sys2Proof.Machine

/-! ### Client bytes that enter (R131, R133, R138) -/

/-- A stream header with KIND and OSET (R133): an ordered set, or a pad. -/
def kindHeader (kind oset : Nat) : List Byte :=
  let h := bytesOfNat 3 (kind * 2 ^ 22 + oset)
  h ++ [crc8 h]

def unmarked (bs : List Byte) : List SByte := bs.map fun b => (b, false)

def enterBytes (c : Nat) (bs : List SByte) (s : State) : State :=
  onSrc c (fun x => if x.csf then x else { x with buf := x.buf ++ bs, arrived := x.arrived + bs.length }) s

/-- A frame of an ETH port enters behind its header. Longer frames are truncated and sent with an error (R300); while dHI_SER is in force every frame ends with an error (PRESUMED, log entry 124); frames below 64 bytes have no LEN and are left out (PRESUMED, log entry 29). -/
def enterFrame (p : Nat) (bs : List SByte) (err : Bool) (s : State) : State :=
  match servedCont s p with
  | none => s
  | some c =>
    if bs.length < 64 then s
    else
      let f := bs.take 9600
      enterBytes c (unmarked (ethHeader (err || (cliSt s p).hiSer || bs.any Prod.snd || decide (9600 < bs.length)) f.length) ++ f) s

/-- Client input of a row. -/
def enterClient (x : ClientIn) (s : State) : State :=
  let w := cliPort s x.port
  if 48 ≤ x.port || !cpEn w || cpGroomed w then s
  else if cpFlexo w then
    let t := tribOf s (tribKey x.port x.entry)
    let e := contEntry s (trCont t)
    if x.entry < 16 && trValid t && e.home = 0 && e.pt = 2 && e.unit = x.port then enterBytes (trCont t) x.bytes s else s
  else enterFrame x.port x.bytes x.err s

/-! ### The frame of a stroke (R126–R131, R348, R353–R355) -/

/-- N of the next frame: the entry that takes effect at S + 1, where one waits for it (R131). -/
def nextN (s : State) (c : Nat) (e : ContEntry) : Nat :=
  match ((waiting opContCfg s).reverse).find? fun k => contObj (k.p 0) = c && k.stroke = some (s.stk.scnt + 1#48) with
  | some k => if (entryOfParams k.params).srcEn then (entryOfParams k.params).n else e.n
  | none => e.n

/-- SSF of a container's sink, dSECLCK of the context that is bound to it included (R142, R365). -/
def contSsf (s : State) (c : Nat) : Bool :=
  let e := contEntry s c
  e.snkEn && (sinkSsf e.cmmAct (snkOf s c) || match boundCtx s c with | some k => (ctxOf s k).secLck | none => false)

/-- The state under which the source forms a frame: OFF without a bound context; a slag-marked SEC_CFG entry counts as KEY_LOSS (R354, R429). -/
def sourceState (s : State) (c : Nat) : CtxState :=
  match boundCtx s c with
  | none => .off
  | some k => if entrySlag s 5 (4 * k) (secCfg s k) then .keyLoss else (ctxOf s k).state

/-- CM of a client frame from a, b, P and c_max (R131). -/
def cmOf (a b p cmax : Nat) : Nat := min p (min cmax (a + b - ceilDiv (2 * a) 125))

def sourceCmax (s : State) (e : ContEntry) : Nat := if e.pt = 1 then ethCmax (cpRate (cliPort s e.unit)) else 16777215

/-- The tag of the unit of the frame before, over bytes 4–13 and 24–31 of that frame (R347). -/
def prevTag (s : State) (k : Nat) (x : SrcSt) : Nat :=
  if !x.unit then 0
  else (gcmTag ((slotKey (ctxOf s k) x.slot).getD 0#256) x.iv ((x.oh.drop 4).take 10 ++ (x.oh.drop 24).take 8) x.sent).toNat

/-- Overhead bytes 0–23 (R126). The first frame that a source forms has no frame before it, and its BIP8 is 0x00 (DESIGN CHOICE, log entry 95). -/
def overhead (s : State) (c : Nat) (e : ContEntry) (x : SrcSt) (sohp csf : Bool) (cm : Nat) (aps : List Byte) : List Byte :=
  let bip := if x.frameNo.isNone then 0#8 else if x.slagSent then ~~~x.parity else x.parity
  let bip := if 0 < x.bipFlip then ~~~bip else bip
  let paired := e.snkEn
  let b3 := (if paired then x.beiOwed else 0) * 16 + flag (paired && contSsf s c) * 8 + flag (paired && x.secfOwed) * 4 + flag csf * 2
  let jc := bytesOfNat 1 (flag sohp * 128) ++ bytesOfNat 2 (nextN s c e) ++ bytesOfNat 3 cm
  bytesOfNat 2 (scnt s % 65536) ++ [bip] ++ bytesOfNat 1 b3 ++ bytesOfNat 2 e.txPlbl ++ bytesOfNat 1 e.pt ++ jc ++ [crc8 jc]
    ++ (List.range 4).map (fun i => aps.getD i 0#8) ++ List.replicate 6 0#8

/-- Overhead bytes 24–47 (R348). -/
def secOverhead (s : State) (c slot : Nat) (unit : Bool) (tag : Nat) : List Byte :=
  bytesOfNat 2 (slot * 32768 + flag unit * 16384 + c) ++ bytesOfNat 6 (scnt s) ++ bytesOfNat 16 tag

/-- The data of the frame: CM, CSF, the bytes that its mapper holds, and the state after a slot was read. -/
def frameData (s : State) (c : Nat) (e : ContEntry) (p : Nat) (x : SrcSt) : State × Nat × Bool × List SByte :=
  if e.home = 0 then
    if clientFailed s c e then (s, 0, true, [])
    else (s, if e.pt = 1 || e.pt = 2 then cmOf x.arrived x.buf.length p (sourceCmax s e) else 0, false, if x.csf then [] else x.buf)
  else if e.home = 1 then
    if slotCsf s c then (slotIdle c s, 0, true, [])
    else match slotOfCont s c with
      | some g => let r := slotRead p g s; (r.1, r.2.length, false, r.2)
      | none => (s, 0, true, [])
  else (s, p, false, [])

/-- A source forms the frame of the stroke that begins (R126, R131). `aps`: bytes 14–17 (R163). -/
def formFrame (aps : Nat → List Byte) (c : Nat) (s : State) : State :=
  let e := contSeen s c
  let x := srcOf s c
  if e.home = 0 && e.pt = 1 && servedCont s e.unit ≠ some c then onSrc c (fun x => { x with frameNo := none, oh := [], buf := [], arrived := 0, unit := false, sent := [], sentIdx := 0 }) s
  else
    let k := boundCtx s c
    let st := sourceState s c
    let unread := contUnread s c
    let p := 250 * e.n - (if k.isSome then 48 else 24)
    let d := frameData s c e p x
    let s := d.1
    let unit := st = .run
    let cur := match k with | some k => (ctxOf s k).cur | none => 0
    let tag := match k with | some k => prevTag s k x | none => 0
    let oh := overhead s c e x k.isSome d.2.2.1 d.2.1 (aps c)
    let oh := (if unread then List.replicate 24 0#8 else oh) ++ (if k.isSome then secOverhead s c cur unit tag else [])
    let salt := match k with | some k => ((secSeen s k).getD 1 0#32).toNat | none => 0
    let s := onSrc c (fun x => { x with
      n := e.n, frameNo := some s.stk.scnt, oh := oh, cm := d.2.1, csf := d.2.2.1, buf := d.2.2.2, arrived := 0, parity := 0#8, slagSent := false
      sent := [], sentIdx := 0, unit := unit, slot := cur, iv := BitVec.ofNat 96 (salt * 2 ^ 64 + natOfBytes ((oh.drop 24).take 8))
      beiOwed := 0, secfOwed := false, bipFlip := x.bipFlip - 1 }) s
    let s := match k with
      | some k => if unit then onCtx k (fun y => { y with lastTx := tset 0#48 y.lastTx cur s.stk.scnt, txUsed := ins y.txUsed cur }) s else s
      | none => s
    let s := if e.home = 0 && e.pt = 1 && !d.2.2.1 && !cpGroomed (cliPort s e.unit) then
        let h := cliSt s e.unit
        let s := if h.lfRx then enterBytes c (unmarked (kindHeader 1 1)) s else s
        if h.rfRx then enterBytes c (unmarked (kindHeader 1 2)) s else s
      else s
    let s := match k with | some k => secAsk k s | none => s
    let s := contAsk c s
    if unread then note evConContSlag c 1 s else s

/-! ### The bytes of a row (R125, R130, R346) -/

/-- What fills the payload of a source's frame. -/
inductive PayKind where
  | eth | odu | groom | test | ais
  deriving DecidableEq

/-- How the cipher treats the payload. -/
inductive SealKind where
  | clear | lock | crypt
  deriving DecidableEq

def payKind (e : ContEntry) (x : SrcSt) : PayKind :=
  if x.csf then .ais else if e.home = 0 then (if e.pt = 1 then .eth else .odu) else if e.home = 1 then .groom else .test

/-- The next data byte (R131, R133, R144). A client byte that has not arrived is open (log entry 10): `free` supplies it. -/
def nextData (k : PayKind) (free : Nat) (x : SrcSt) : SrcSt × SByte :=
  match k with
  | .ais => (x, (0xFF#8, false))
  | .test =>
    let r := prbs31 8 x.prbs
    ({ x with prbs := r.1 }, (byteOfBits r.2, false))
  | .eth =>
    match x.buf with
    | b :: r => ({ x with buf := r }, b)
    | [] =>
      match unmarked (kindHeader 3 0) with
      | b :: r => ({ x with buf := r }, b)
      | [] => (x, (0#8, false))
  | .odu | .groom =>
    match x.buf with
    | b :: r => ({ x with buf := r }, b)
    | [] => (x, (BitVec.ofNat 8 (free >>> (8 * (x.sentIdx % 512))), false))

/-- Byte j of the keystream of a unit (R347). -/
def keyByte (key : BitVec 256) (iv : BitVec 96) (j : Nat) : Byte :=
  BitVec.ofNat 8 (aesEnc key (iv.toNat * 2 ^ 32 + (j / 16 + 2)) >>> (8 * (15 - j % 16)))

/-- Frame byte k of a frame with overhead size h and payload size p (R125, R126, R130, R138). A slag-marked client byte is sent as 0x00 without the mark. -/
def emitByte (h p : Nat) (pk : PayKind) (sl : SealKind) (key : BitVec 256) (free : Nat) (x : SrcSt) : SrcSt × Byte :=
  let k := x.sentIdx
  if k < h then
    let b := x.oh.getD k 0#8
    ({ x with sentIdx := k + 1, parity := x.parity ^^^ b }, b)
  else
    let j := k - h
    let r := if pk = .ais || isData x.cm p j then nextData pk free x else (x, (0#8, false))
    let plain := if r.2.2 then 0#8 else r.2.1
    let b := match sl with
      | .clear => plain
      | .lock => 0x55#8
      | .crypt => plain ^^^ keyByte key x.iv j
    ({ r.1 with sentIdx := k + 1, parity := r.1.parity ^^^ b, slagSent := r.1.slagSent || r.2.2, sent := if sl = .crypt then r.1.sent ++ [b] else r.1.sent }, b)

def emitBytes (h p : Nat) (pk : PayKind) (sl : SealKind) (key : BitVec 256) (free : Nat) : Nat → SrcSt → SrcSt × List Byte
  | 0, x => (x, [])
  | n + 1, x =>
    let r := emitByte h p pk sl key free x
    let q := emitBytes h p pk sl key free n r.1
    (q.1, r.2 :: q.2)

/-- Cells of consecutive billets. -/
def cellsOf (runs : List W32) : Nat → List Byte → List (Nat × Cell)
  | i, a :: b :: r =>
    match billetPos runs i with
    | some pos => (pos, { b0 := a, b1 := b }) :: cellsOf runs (i + 1) r
    | none => cellsOf runs (i + 1) r
  | _, _ => []

/-- The cells that a source writes in the row in progress; a container that forms no frame leaves UNEQUIPPED. -/
def sourceRow (c : Nat) (s : State) : State × List (Nat × Cell) :=
  let e := contSeen s c
  let x := srcOf s c
  if x.frameNo.isNone then (s, [])
  else
    let h := x.oh.length
    let k := boundCtx s c
    let key := match k with | some k => (slotKey (ctxOf s k) x.slot).getD 0#256 | none => 0#256
    let sl := if h ≠ 48 then SealKind.clear else if x.unit then .crypt else .lock
    let r := emitBytes h (250 * x.n - h) (payKind e x) sl key (freeNat s) (2 * x.n) x
    let s := if payKind e x = .odu && x.buf.isEmpty then drawn s else s
    (onSrc c (fun _ => r.1) s, cellsOf e.runs 0 r.2)

def putCells (cs : List (Nat × Cell)) (t : List (Nat × Cell)) : List (Nat × Cell) := cs.foldl (fun t x => tset {} t x.1 x.2) t

/-- The rows that enabled sources write: into the ingress row, or for HOME LINE_TEST into the engine's egress positions (R123). -/
def sourcesRow (line : Bool) : List (Nat × ContEntry) → State → State
  | [], s => s
  | (c, e) :: l, s =>
    if decide (e.home = 3) ≠ line then sourcesRow line l s
    else
      let r := sourceRow c s
      sourcesRow line l (r.1.onRows fun v => if line then { v with egress := putCells r.2 v.egress } else { v with ingress := putCells r.2 v.ingress })

/-- The LINE_TEST positions carry UNEQUIPPED where no frame covers them, in place of their map entries. -/
def clearLineTest (s : State) : State :=
  s.onRows fun v => { v with egress := ((enabledSrc s).filter fun x => x.2.home = 3).foldl (fun t x => (billetList x.2).foldl (fun t p => tset {} t p {}) t) v.egress }

/-- ERR_INJECT KIND 1 in progress: the positions marked in this row (R146). -/
def injectRow (s : State) : State :=
  s.onRows fun v => { v with
    marked := v.inject.map Injection.pos
    inject := (v.inject.map fun i => { i with left := i.left - 1 }).filter fun i => i.left ≠ 0 }

end Sys2Proof.Machine
end

