-- ==== Sys2Proof/Machine/Containers.lean ====
section
/-! DEFINITION. The container table, the sink side with its security units, analysers and their commands
(04_anvil_cross_connect R122–R149, 12_container_security R355–R365). -/

namespace Sys2Proof.Machine

/-! ### CONT_CFG (R122–R124, R352) -/

/-- A run lies in the home windows of its container (R123). -/
def runInHome (s : State) (e : ContEntry) (r : W32) : Bool :=
  let w := fld r 31 27
  let b := fld r 26 13
  let n := (runSpan r).2
  windowMapped s w && decide (b + n ≤ 16384) &&
    (if e.home = 0 then decide (w = 8 + e.unit / 8) && decide (b + n ≤ 16000)
     else if e.home = 1 then w = 30
     else if e.home = 2 then w = 31
     else (w = 2 * e.unit || w = 2 * e.unit + 1) && decide (lineBillet w (b + n) ≤ min 24000 (txRate s e.unit * 1000)))

def spansMeet (a b : Nat × Nat) : Bool := decide (a.1 < b.1 + b.2) && decide (b.1 < a.1 + a.2)

/-- Runs of other containers that are enabled, in force or pending (R123). -/
def takenRuns (s : State) (c : Nat) : List (Nat × Nat) :=
  ((contIds s).filter (· ≠ c)).flatMap fun d => ((contViews s d).filter fun e => e.srcEn || e.snkEn).flatMap fun e => e.runs.map runSpan

/-- A run that overlaps an earlier run of the entry, or a taken one. -/
def runOverlaps (taken : List (Nat × Nat)) (rs : List W32) (i : Nat) : Bool :=
  let r := runSpan (rs.getD i 0#32)
  taken.any (spansMeet r) || (rs.take i).any fun q => spansMeet r (runSpan q)

/-- The runs of `a` come first in `b`, the last of them perhaps extended. -/
def runsGrow (a b : List (Nat × Nat)) : Bool :=
  let n := a.length - 1
  b.take n == a.take n && (match a[n]?, b[n]? with
    | some x, some y => decide (x.1 = y.1 ∧ x.2 ≤ y.2)
    | none, _ => true
    | _, none => false)

/-- What is left of a run: the stretches of it that lie in the set, each a run (start, length). -/
def stretches (has : Nat → Bool) : Nat → Nat → Option (Nat × Nat) → List (Nat × Nat)
  | _, 0, cur => cur.toList
  | p, n + 1, cur =>
    if has p then stretches has (p + 1) n (some (match cur with | some c => (c.1, c.2 + 1) | none => (p, 1)))
    else cur.toList ++ stretches has (p + 1) n none

/-- The runs change only by extending the last one and appending others, or by removing billets numbered `keep` or above; a
command that both removes and appends is refused, one that extends the last run and appends is not (R124; DESIGN CHOICE, log entry 118). -/
def runsChangeOk (old new : ContEntry) (keep : Nat) : Bool :=
  let a := old.runs.map runSpan
  let b := new.runs.map runSpan
  let left := billetList new
  runsGrow a b ||
    (b == a.flatMap (fun r => stretches left.contains r.1 r.2 none) && left.take keep == (billetList old).take keep)

/-- Run words of the pool in use by other containers, in force or pending. -/
def poolUse (s : State) (c : Nat) : Nat :=
  (((contIds s).filter (· ≠ c)).map fun d => ((contViews s d).map fun e => e.runs.length).foldl max 0).sum

def allRunsOk (s : State) (c : Nat) (e : ContEntry) : List Check :=
  let taken := takenRuns s c
  (List.range e.runs.length).map fun i => wordOk (5 + i) (runInHome s e (e.runs.getD i 0#32) && !runOverlaps taken e.runs i)

/-- CONT_CFG (R122–R124, R352). -/
def doContCfg (rq : Req) (s : State) : State :=
  let c := contObj (rq.p 0)
  let e := entryOfParams rq.params
  let old := contEntry s c
  let en := e.srcEn || e.snkEn
  let live := old.srcEn || old.snkEn
  let bound := boundEver s c
  command opContCfg rq
    { unit := [need (e.home ≠ 3 || 4 ≤ e.unit || enginePresent s e.unit) { st := .unitAbsent }, need (e.home ≠ 1 || groomPresent s) { st := .unitAbsent }],
      par := [countIn 5 21 rq, onlyBits 0 0x00003FFF#32 rq, onlyBits 1 0xF8FF3F00#32 rq, wordOk 1 (decide (e.home ≤ 3)),
        wordOk 1 (decide (1 ≤ e.pt ∧ e.pt ≤ 4) || (decide (e.pt = 0) && !en)),
        wordOk 1 (decide (e.unit < if e.home = 0 then 48 else if e.home = 3 then 4 else 1)),
        wordOk 1 (!live || (decide (e.home = old.home) && decide (e.unit = old.unit) && decide (e.pt = old.pt))), wordOk 1 (!(bound && decide (e.home = 3))),
        onlyBits 3 0xFFFFF001#32 rq, wordOk 3 (decide (1 ≤ e.degThr ∧ e.degThr ≤ 50000 ∧ 2 ≤ e.degM ∧ e.degM ≤ 10)),
        onlyBits 4 0x001F7FFF#32 rq, wordOk 4 (decide (e.runCount ≤ 16) && (decide (1 ≤ e.runCount) || !en)),
        wordOk 4 (decide (e.n ≤ 24000) && (decide (1 ≤ e.n) || !en)), countIs (5 + e.runCount) rq, wordOk 4 (decide (rq.params.length < 5 + e.runCount) || decide (e.n ≤ e.billets)),
        wordOk 4 (!bound || decide (24 ≤ e.n)), wordOk 4 (!(en || bound) || decide (minBillets s c e (if bound then 48 else 24) ≤ e.n))]
        ++ allRunsOk s c e ++ [wordOk 5 (!live || runsChangeOk old e (max old.n e.n))],
      late := [need (decide (poolUse s c + e.runCount ≤ 65536)) { st := .capacity, detail := 2 }] } s (commitOnly opContCfg rq)
def execContCfg (rq : Req) (s : State) : Host.Outcome State Fault Refusal := ok (doContCfg rq s)

/-- CONT_READ: the entry in force and its run words. -/
def doContRead (rq : Req) (s : State) : State :=
  let c := contObj (rq.p 0)
  command opContRead rq { par := [countIs 1 rq, onlyBits 0 0x00003FFF#32 rq] } s fun s =>
    match readAnswer 2 (4 * c) (contEntry s c).words [] s with
    | .done s' res => readAnswer 3 (poolIndex s' c) (contEntry s' c).runs res s'
    | .slagged s' res i =>
      (match readAnswer 3 (poolIndex s' c) (contEntry s' c).runs res s' with
      | .done s' res | .slagged s' res _ => .slagged s' res i
      | a => a)
    | a => a
def execContRead (rq : Req) (s : State) : Host.Outcome State Fault Refusal := ok (doContRead rq s)

/-- CONT_STATUS words 0–3. -/
def contStatusWords (s : State) (c : Nat) : List W32 :=
  let x := snkOf s c
  let d := (List.range 10).filter fun i => x.defects.any fun y => y.num = i
  [word [(flag x.inFrame, 31), (bitsOf (d.map fun i => 9 - i), 21), (flag (contSsf s c), 20), (flag (x.defects.contains .secmm), 19), (x.nRx, 0)],
   word [(x.rxPlbl.toNat, 16), (x.rxPt.toNat, 8), (flag x.rxSohp, 7)],
   word [(flag x.inFrame, 31), (if x.inFrame then x.dlyRows else 0, 0)],
   word [(x.cmRx, 0)]]

/-- CONT_STATUS_READ. -/
def doContStatusRead (rq : Req) (s : State) : State :=
  command opContStatusRead rq { par := [countIs 1 rq, onlyBits 0 0x00003FFF#32 rq] } s fun s => .done s (contStatusWords s (contObj (rq.p 0)))
def execContStatusRead (rq : Req) (s : State) : Host.Outcome State Fault Refusal := ok (doContStatusRead rq s)

/-! ### Analysers and error injection (R144–R146, R149) -/

def baObj (w : W32) : Nat := fld w 3 0
def baOf (s : State) (a : Nat) : BaCfg := tget {} s.diag.baCfg a
def baKey (a i : Nat) : Nat := a * 16384 + i

/-- BA_CFG. -/
def doBaCfg (rq : Req) (s : State) : State :=
  let st := fld (rq.p 1) 13 0
  let n := fld (rq.p 2) 14 0
  command opBaCfg rq
    { par := [countIs 3 rq, onlyBits 0 0x0000000F#32 rq, onlyBits 1 0xE0003FFF#32 rq, wordOk 1 (decide (fld (rq.p 1) 30 29 ≠ 3)),
        onlyBits 2 0x00007FFF#32 rq, wordOk 2 (decide (1 ≤ n) && decide (st + n ≤ 16384))] } s (commitOnly opBaCfg rq)
def execBaCfg (rq : Req) (s : State) : Host.Outcome State Fault Refusal := ok (doBaCfg rq s)

/-- BA_CFG at its row 0: counters restart at enable, and where CODE, START or COUNT of an enabled analyser changes (DESIGN CHOICE, log entry 31). -/
def applyBaCfg (c : Commit) (s : State) : State :=
  let a := baObj (c.p 0)
  let restart := bit (c.p 1) 31 && (!bit (baOf s a).w1 31 || (baOf s a).w1 ≠ c.p 1 || (baOf s a).w2 ≠ c.p 2)
  s.onDiag fun v => { v with
    baCfg := tset {} v.baCfg a { w1 := c.p 1, w2 := c.p 2 }
    baPos := if restart then v.baPos.filter fun x => x.1 / 16384 ≠ a else v.baPos }

/-- The checkers of an analyser's range. -/
def baCheckers (s : State) (a : Nat) : List Checker :=
  let b := baOf s a
  (List.range (fld b.w2 14 0)).map fun i => tget {} s.diag.baPos (baKey a (fld b.w1 13 0 + i))

/-- BA_READ. An analyser whose ENABLE is 0 shows what it held last, under the START and COUNT in force (R145; DESIGN CHOICE, log entry 118). -/
def doBaRead (rq : Req) (s : State) : State :=
  command opBaRead rq { par := [countIs 1 rq, onlyBits 0 0x0000000F#32 rq] } s fun s => .done s (checkerWords (baCheckers s (baObj (rq.p 0))))
def execBaRead (rq : Req) (s : State) : Host.Outcome State Fault Refusal := ok (doBaRead rq s)

/-- TEST_READ: a container of HOME TEST or LINE_TEST. -/
def doTestRead (rq : Req) (s : State) : State :=
  let c := contObj (rq.p 0)
  command opTestRead rq { par := [countIs 1 rq, onlyBits 0 0x00003FFF#32 rq, wordOk 0 (decide (2 ≤ (contEntry s c).home))] } s
    fun s => .done s (checkerWords [tget {} s.cont.chk c])
def execTestRead (rq : Req) (s : State) : Host.Outcome State Fault Refusal := ok (doTestRead rq s)

/-- ERR_INJECT (R146). -/
def doErrInject (rq : Req) (s : State) : State :=
  let k := fld (rq.p 0) 31 30
  let n := (rq.p 1).toNat
  command opErrInject rq
    { par := [countIs 2 rq, wordOk 0 (decide (k ≤ 1)), onlyBits 0 (if k = 0 then 0x00003FFF#32 else 0x4007FFFF#32) rq, onlyBits 1 0x0000FFFF#32 rq,
        wordOk 1 (decide (1 ≤ n) && (decide (k = 0) || decide (n ≤ 125)))] } s (commitOnly opErrInject rq)
def execErrInject (rq : Req) (s : State) : Host.Outcome State Fault Refusal := ok (doErrInject rq s)

/-- ERR_INJECT at its row 0. KIND 0 on a container that forms no frame does nothing, and replaces what is left of an earlier one (DESIGN CHOICE, log entry 96). -/
def applyErrInject (c : Commit) (s : State) : State :=
  let n := (c.p 1).toNat
  if fld (c.p 0) 31 30 = 0 then
    (if (contEntry s (contObj (c.p 0))).srcEn then onSrc (contObj (c.p 0)) (fun x => { x with bipFlip := n }) s else s)
  else s.onRows fun v => { v with inject := v.inject ++ [{ pos := fld (c.p 0) 18 0, left := n }] }

/-- The analysers read the egress row of W31 (R145). -/
def analysersRow (s : State) : State :=
  (s.diag.baCfg.filter fun x => bit x.2.w1 31).foldl (fun s x =>
    let t := prbsTaps (fld x.2.w1 30 29)
    (List.range (fld x.2.w2 14 0)).foldl (fun s i =>
      let b := fld x.2.w1 13 0 + i
      let cell := tget {} s.rows.egress (31 * 16384 + b)
      s.onDiag fun v => { v with baPos := tmod {} v.baPos (baKey x.1 b) (checkBytes t.1 t.2 [(cell.b0, cell.s0), (cell.b1, cell.s1)]) }) s) s

/-! ### The security unit at the sink (R361–R365) -/

/-- The slot that the sink has used in this stroke (R357). -/
def slotUsed (k n : Nat) (s : State) : State := onCtx k (fun x => { x with usedAt := tset 0 x.usedAt n (s.stk.run + 1) }) s

/-! ### The client side (R130, R133, R142) -/

/-- An Ethernet packet on the wire: preamble and start-of-frame delimiter of IEEE 802.3 before the frame (PRESUMED, log entry 92). -/
def ethPacket (f : List Byte) : List Byte := List.replicate 7 0x55#8 ++ [0xD5#8] ++ f

/-- What an item of the stream is on the client side; the gap after a packet has at least 12 bytes, `free` more (R133; log entry 92). -/
def itemOut (free : Nat) : StreamItem → List CliOut
  | .frame f err => [.packet (ethPacket f) err (12 + free)]
  | .ordered 1 => [.localFault]
  | .ordered 2 => [.remoteFault]
  | .ordered _ => []

def itemFrame : StreamItem → List (List Byte × Bool)
  | .frame f err => [(f, err)]
  | .ordered _ => []

/-- The unpacker of a container runs: its slot is enabled, and the sink is not in SSF (R340, R342). -/
def unpacks (s : State) (c : Nat) : Bool :=
  !contSsf s c && match slotOfCont s c with | some g => slEn (slotCfg s g) | none => false

/-- The items of a stream leave to the client port, or wait to be unpacked (R133, R340). -/
def deliverItems (c : Nat) (e : ContEntry) (l : List StreamItem) (s : State) : State :=
  if e.home = 0 then
    onSnk c (fun x => { x with out := x.out ++ (l.mapIdx fun i t => itemOut (Config.freeValue (s.free + i)) t).flatten }) (s.onFree (· + l.length))
  else onSnk c (fun x => { x with frames := x.frames ++ l.flatMap itemFrame }) s

/-- Client bytes reach the client side of a container (R133, R142); a mark ends the Ethernet frame that contains its byte with an error.
While the stream is hunted the spec does not say how many client frames FRAME_LOST counts: a free number, drawn when the stream is found again (log entry 92). -/
def deliver (c : Nat) (e : ContEntry) (bs : List SByte) (s : State) : State :=
  let x := snkOf s c
  if e.home = 0 && e.pt = 1 && servedCont s e.unit ≠ some c then s
  else if e.home ≥ 2 then s.onCont fun v => { v with chk := tmod {} v.chk c (checkBytes 31 28 bs) }
  else if x.replace || (e.home = 1 && !unpacks s c) then streamGone c s
  else if e.pt = 2 then onSnk c (fun x => { x with out := x.out ++ [.odu (bs.map Prod.fst)] }) s
  else
    let buf := x.strmBuf ++ bs
    let p := parseStream (2 * buf.length + 8) { sync := x.strmSync, rest := buf }
    let items := if x.skip then p.items.drop 1 else p.items
    let s := deliverItems c e items (onSnk c (fun x => { x with strmSync := p.sync, strmBuf := p.rest, skip := x.skip && p.items.isEmpty }) s)
    let s := note evConStreamLoss c p.lost s
    if p.found = 0 || !x.everInFrame then s else drawn (note evConFrameLost c (freeNat s) s)

/-- The replacement that a CLIENT container sends in place of the client (R142). -/
def replacement (e : ContEntry) : CliOut := if e.pt = 2 then .oduAis else .localFault

/-! ### The rows of a frame (R123, R130, R346, R354, R361) -/

/-- Payload offsets of the row that is released next. -/
def rowOffsets (b : BodyRx) : List Nat := (((List.range (2 * b.n)).map (2 * b.n * b.rel + ·)).filter fun i => b.h ≤ i).map (· - b.h)

/-- A payload byte as it leaves: LOCK fill, decrypted, or as received; in a row that R356 or R363 names 0x00 with the slag mark. A unit under an EMPTY slot decrypts to an open value. -/
def payloadByte (iv : BitVec 96) (key : Option (BitVec 256)) (free : Nat) (b : BodyRx) (j : Nat) : SByte :=
  let x := b.fr.getD (b.h + j) (0#8, false)
  if b.marks.contains b.rel then (0#8, true)
  else if b.locked then (0x55#8, false)
  else if b.unit then ((match key with | some k => x.1 ^^^ keyByte k iv j | none => BitVec.ofNat 8 (free >>> (8 * (j % 512)))), x.2)
  else x

/-- The IV of a received unit: RX_SALT and bytes 24–31 (R347). -/
def rxIv (w : List W32) (fr : List SByte) : BitVec 96 := BitVec.ofNat 96 ((w.getD 2 0#32).toNat * 2 ^ 64 + frNat fr 24 8)

/-- The slot that a unit names (KP). -/
def bodySlot (b : BodyRx) : Nat := (frByte b.fr 24).toNat / 128

def bumpFirst : List BodyRx → List BodyRx
  | [] => []
  | b :: r => if b.rel < b.got then { b with rel := b.rel + 1 } :: r else b :: bumpFirst r

/-- The oldest row in the release delay leaves. A slag-marked byte is 0x00 to the demapper (R139); a frame with a wrong JCRC ends its Ethernet frames with an error (R132). -/
def releaseFrameRow (c : Nat) (e : ContEntry) (s : State) : State :=
  match (snkOf s c).flow.find? fun b => decide (b.rel < b.got) with
  | none => s
  | some b =>
    let k := boundCtx s c
    let key := k.bind fun k => slotKey (ctxOf s k) (bodySlot b)
    let iv := match k with | some k => rxIv (secSeen s k) b.fr | none => 0#96
    let js := (rowOffsets b).filter fun j => decide (2 ≤ e.home) || isData b.cm (250 * b.n - b.h) j
    let bs := js.map (payloadByte iv key (freeNat s) b)
    let bs := bs.map fun x => (if x.2 then 0#8 else x.1, x.2 || (b.jcBad && e.pt ≠ 2 && decide (e.home < 2)))
    let s := match k with
      | some k => if b.unit && !b.locked then (if key.isNone then drawn else id) (slotUsed k (bodySlot b) s) else s
      | none => s
    deliver c e bs (onSnk c (fun x => { x with flow := bumpFirst x.flow }) s)

def releaseFrameRows (c : Nat) (e : ContEntry) : Nat → State → State
  | 0, s => s
  | n + 1, s => releaseFrameRows c e n (releaseFrameRow c e s)

/-- Rows in the release delay: 3 rows behind the cipher of a bound container, none without (R346). -/
def releaseDelay (s : State) (c : Nat) : Nat := if (boundCtx s c).isSome then 3 else 0

/-- The rows whose release is due leave. -/
def releaseDue (c : Nat) (e : ContEntry) (s : State) : State :=
  let x := snkOf s c
  releaseFrameRows c e ((x.flow.map fun b => b.got - b.rel).sum - (releaseDelay s c - x.stale)) s

/-! ### The check of a unit (R361–R364) -/

/-- The check of the unit whose tag a frame at the sink's offset carries (R361, R362). -/
inductive UnitVerdict where
  | noUnit | unchecked | pass | fail
  deriving DecidableEq

/-- The received unit that is due: the frame in the release delay and its context. -/
def dueUnit (s : State) (c : Nat) : Option (BodyRx × Nat) :=
  match (snkOf s c).flow.getLast?, boundCtx s c with
  | some b, some k => if b.due then some (b, k) else none
  | _, _ => none

def unitUstr (b : BodyRx) : Nat := frNat b.fr 26 6

/-- A slag mark, a wrong JCRC or missing bytes keep a unit unchecked (R362). -/
def unitUnread (b : BodyRx) : Bool := b.jcBad || decide (b.got < 125) || frSlag b.fr 4 10 || (b.fr.drop 24).any Prod.snd

/-- SCONT equals PEER_CONT, USTR[15:0] equals FW, and the tag over bytes 4–13 and 24–31 and the payload verifies. -/
def unitTrue (w : List W32) (key : BitVec 256) (b : BodyRx) (tag : BitVec 128) : Bool :=
  decide (frNat b.fr 24 2 % 16384 = fld (w.getD 3 0#32) 13 0) && decide (frNat b.fr 30 2 = frFw b.fr)
    && decide (gcmTag key (rxIv w b.fr) (frBytes b.fr 4 10 ++ frBytes b.fr 24 8) ((b.fr.drop 48).map Prod.fst) = tag)

def unitVerdict (s : State) (c : Nat) (unread : Bool) (oh : List SByte) : UnitVerdict :=
  match dueUnit s c with
  | none => .noUnit
  | some (b, k) =>
    let y := ctxOf s k
    if unitUnread b || unread || !jcrcOk oh || !frSohp oh || frSlag oh 4 10 || frSlag oh 24 24 || entrySlag s 5 (4 * k) (secCfg s k) then .unchecked
    else
      match slotKey y (bodySlot b) with
      | none => .fail
      | some key =>
        if (!usedRx y (bodySlot b) || decide ((highRx y (bodySlot b)).toNat < unitUstr b)) && unitTrue (secSeen s k) key b (BitVec.ofNat 128 (frNat oh 32 16)) then .pass else .fail

/-- The frame in the release delay changes. -/
def onBody (c : Nat) (f : BodyRx → BodyRx) (s : State) : State := onSnk c (fun x => { x with flow := x.flow.map f }) s

/-- What the verdict on unit f does (R361–R364): on a failure the rows still in the release delay leave as 0x00 with the slag mark. -/
def applyVerdict (c : Nat) (e : ContEntry) (v : UnitVerdict) (s : State) : State :=
  match dueUnit s c with
  | none => s
  | some (b, k) =>
    let n := bodySlot b
    let s := onBody c (fun b => { b with due := false }) s
    match v with
    | .pass =>
      let s := onCtx k (fun y => { y with highRx := tset 0#48 y.highRx n (BitVec.ofNat 48 (unitUstr b)), rxUsed := ins y.rxUsed n, failRun := 0 }) s
      note evSecSecUnits k 1 (slotUsed k n s)
    | .fail =>
      let r := satAdd 255 (ctxOf s k).failRun 1
      let s := onCtx k (fun y => { y with failRun := r, lastFail := s.stk.scnt, lossDue := y.lossDue || decide (ctxFailLimit (secCfg s k) ≤ r) }) s
      let s := if e.srcEn then onSrc c (fun x => { x with secfOwed := true, beiOwed := 8 }) s else s
      note evSecSecFail k 1 (slotUsed k n (onBody c (fun b => { b with marks := b.marks ++ [123, 124] }) s))
    | _ => note evSecSecUnchecked k 1 s

/-- The sink of a bound container loses its frame: the unit is not checked (R362). -/
def dropUnit (c : Nat) (s : State) : State := applyVerdict c (contSeen s c) .unchecked s

/-- In QUENCH no frame is received: units that wait for their tags stay unchecked, and what is in the release delay or not yet unpacked goes (R343, R362, R400). -/
def sinksQuench : List (Nat × ContEntry) → State → State
  | [], s => s
  | (c, _) :: l, s => sinksQuench l (onSnk c (fun x => { x with flow := [], frames := [], strmBuf := [], strmSync := false, skip := false }) (dropUnit c s))

/-- CONT_CFG at its row 0: a side that is switched on starts anew, one that is switched off ends, and all defects of the sink clear (R24, R141); a unit that waits for its tag stays unchecked (R362). -/
def applyContCfg (k : Commit) (s : State) : State :=
  let c := contObj (k.p 0)
  let e := entryOfParams k.params
  let old := contEntry s c
  let s := if old.snkEn && !e.snkEn then dropUnit c s else s
  let s := cleanWords 3 (poolIndex s c) (max old.runs.length e.runs.length) (cleanWords 2 (4 * c) 4 s)
  let s := s.onCont fun v => { v with table := tset {} v.table c e, gold := tset {} v.gold c e }
  let s := if e.srcEn = old.srcEn then s else onSrc c (fun _ => {}) s
  if e.snkEn = old.snkEn then s
  else
    let s := noteDefects c (snkOf s c).defects [] Defect.all s
    let s := onSnk c (fun _ => if e.snkEn then { fillNow := [0, 1, 2] } else {}) s
    let s := s.onCont fun v => { v with chk := tset {} v.chk c {} }
    match boundCtx s c with
    | some k => reportSecMm k s
    | none => s

/-- dSECLCK of a context (R354 and the table of security events): `unit0` a frame with UNIT = 0, otherwise one with UNIT = 1. -/
def secLckFrame (k : Nat) (unit0 : Bool) (s : State) : State :=
  let x := ctxOf s k
  let held := x.state = .locked || x.state = .keyLoss
  if unit0 then noteChange evSecDSeclck k x.secLck true (onCtx k (fun y => { y with secLck := true, secLckOk := 0 }) s)
  else if !x.secLck || held then s
  else if 2 ≤ x.secLckOk + 1 then noteClear evSecDSeclck k (onCtx k (fun y => { y with secLck := false, secLckOk := 0 }) s)
  else onCtx k (fun y => { y with secLckOk := y.secLckOk + 1 }) s

/-- SECMM of a container, and of the context that is bound to it (R365). -/
def secMmFrame (c : Nat) (k : Option Nat) (mm : Bool) (s : State) : State :=
  let s := onSnk c (persist .secmm 1 3 mm) s
  match k with
  | some k => reportSecMm k s
  | none => s

/-- The context seals the payload: LOCKED or KEY_LOSS (R354). -/
def sealedState (st : CtxState) : Bool := st = .locked || st = .keyLoss

/-- A frame received in frame: counters, security and defects (R128, R132, R139, R363, R365); and the frame whose rows the client side gets. -/
def takenFrame (c : Nat) (e : ContEntry) (now : W48) (v : FrameView) (oh : List SByte) (s : State) : State × BodyRx :=
  let s := note evConJcErr c (flag v.jcBad) (note evConBipViol c v.viol (note evConBeiViol c v.bei s))
  let s := pmErrored 0 c false v.errBlocks (pmErrored 0 c true (flag (decide (0 < v.bei))) s)
  let s := if v.bdi then pmDefect 0 c true s else s
  let s := if e.srcEn then onSrc c (fun x => { x with beiOwed := if x.secfOwed then 8 else v.viol }) s else s
  let k := boundCtx s c
  let req := match k with | some k => ctxRequire (secSeen s k) | none => false
  let mm := if k.isSome then req && !v.sohp else v.sohp
  let s := secMmFrame c k mm s
  let s := match k with
    | some k =>
      let s := if v.secf then note evSecSecFailFe k 1 s else s
      if v.sohp then secLckFrame k (!(frByte oh 24).getLsbD 6) s else onCtx k (fun y => { y with secLckOk := 0 }) s
    | none => s
  let locked := mm || match k with | some k => sealedState (ctxOf s k).state | none => false
  let secured := k.isSome && v.sohp && (frByte oh 24).getLsbD 6
  let unit := secured && !locked
  (s, { n := v.n, h := if v.sohp then 48 else 24, cm := v.cm, jcBad := v.jcBad, scnt := now, locked := locked, plain := !mm && !secured, unit := unit, due := unit })

def contPar (e : ContEntry) : SinkPar :=
  { expPt := e.pt, expPlbl := e.expPlbl, cmmAct := e.cmmAct, runs := e.billets, degThr := e.degThr, degM := e.degM }

/-- N under which a sink reads the overhead at an offset: that announced to it while it is in frame there, otherwise N_BILLETS of its entry (DEDUCED, log entry 93). -/
def overheadN (e : ContEntry) (x : SinkSt) (rho : Nat) : Nat := if x.inFrame && x.rho = rho then x.nNext else e.n

/-- The verdict on the frame before, and the overhead of a frame at offset `rho`, with the stroke in which it arrived (R129–R142, R361–R365). -/
def contOverhead (c rho : Nat) (now : W48) (oh : List SByte) (s : State) : State :=
  let e := contSeen s c
  let x := snkOf s c
  let unread := contUnread s c
  let here := x.inFrame && x.rho = rho
  let s := if contSsf s c then pmDefect 0 c false s else s
  let verdict := if here then unitVerdict s c unread oh else .noUnit
  let s := if here then applyVerdict c e verdict s else s
  let y := snkOf s c
  let r := sinkFrame (contPar e) now.toNat rho unread (decide (verdict = .fail)) oh y
  let s := noteDefects c y.defects r.1.defects Defect.all (onSnk c (fun _ => r.1) s)
  let s := if here then contAsk c (match boundCtx s c with | some k => secAsk k s | none => s) else s
  let s := if unread && here then note evConContSlag c 1 s else s
  if !r.2.taken then s
  else
    let was := (snkOf s c).defects
    let t := takenFrame c e now r.2 oh s
    let s := noteDefects c was (snkOf t.1 c).defects [.secmm] t.1
    if !(snkOf s c).inFrame then dropUnit c s
    else
      let a := beginBody rho t.2 (snkOf s c)
      releaseDue c e (note evConSlagRx c a.2 (onSnk c (fun _ => a.1) s))

/-- A frame at an offset of a container's sink: its overhead is taken once it has arrived, each frame once. -/
def contFrame (c rho : Nat) (s : State) : State :=
  let e := contSeen s c
  let x := snkOf s c
  if !e.snkEn || inQuench s || 125 ≤ rho || (x.inFrame && (x.rho ≠ rho || !frameDue x)) then s
  else
    match overheadAt x rho (overheadN e x rho), (rowsSince x rho).head? with
    | some oh, some r => contOverhead c rho r.scnt oh s
    | _, _ => s

/-- The cell that a sink reads at a position in this row: egress, or for HOME LINE_TEST the engine's ingress (R123). -/
def sinkCell (s : State) (e : ContEntry) (p : Nat) : Cell := if e.home = 3 then ingressNow s p else tget {} s.rows.egress p

/-- A row of a sink: the bytes of its billets are read, the fills that billet 0 still allows are kept (R141), and the rows due reach the client side or its replacement (R142). -/
def sinkRow (c : Nat) (e : ContEntry) (s : State) : State :=
  let cells := (billetList e).map (sinkCell s e)
  let f := fillOf (cells.headD {})
  let a := readSinkRow { row := s.stk.row, scnt := s.stk.scnt, bytes := cells.flatMap bytesOfCell } (snkOf s c)
  let s := note evConSlagRx c a.2 (onSnk c (fun _ => { a.1 with fillNow := a.1.fillNow.filter fun i => f.contains i, out := [] }) s)
  let s := releaseDue c e s
  if e.home = 0 && (snkOf s c).replace then onSnk c (fun x => { x with out := [replacement e] }) s else s

def sinksRow : List (Nat × ContEntry) → State → State
  | [], s => s
  | (c, e) :: l, s => sinksRow l (sinkRow c e s)

/-- The end of a stroke for every enabled sink: defects, replacement from this row 0, and defect seconds (R141, R142, R446). A stroke without
alignment is an errored frame also of a sink that was never in frame, for dDEG and the counters (R129; DESIGN CHOICE, log entry 117). `second`: a second ended. -/
def sinksStroke (second : Bool) : List (Nat × ContEntry) → State → State
  | [], s => s
  | (c, e) :: l, s =>
    let x := snkOf s c
    let never := !x.inFrame && !x.everInFrame
    let was := contSsf s c
    let y := sinkStroke (contPar e) second x
    let s := noteDefects c x.defects y.defects Defect.all (onSnk c (fun _ => y) s)
    let s := if never then pmErrored 0 c false 1 s else s
    let rep := contSsf s c || y.defects.contains .csf
    let s := onSnk c (fun z => { z with replace := rep }) (if rep && !y.replace then streamGone c s else s)
    sinksStroke second l (if was || contSsf s c then pmDefect 0 c false s else s)

end Sys2Proof.Machine
end

