-- ==== Sys2Proof/Machine/HostPort.lean ====
section
/-! DEFINITION. BAR0, the PCIe rings and the SPI target (03_polast_commands R83–R90). -/

namespace Sys2Proof.Machine

/-- The PCIe endpoint runs: power, RSTN and PERST_N released (R98, R465). -/
def pcieOn (s : State) : Bool := s.pins.powered && !s.pins.rstnLow && s.cmd.pcieUp

/-- The SPI target responds (R98). -/
def spiOn (s : State) : Bool := s.pins.powered && !s.pins.rstnLow

/-- The MSI-X vector that carries a bit of INT_STATUS (R83). -/
def msixVector (i : Nat) : Nat := if i < 4 then i else if i < 10 then 4 else i - 5

/-- The MSI-X vectors that an enabled bit of INT_STATUS raises; vector 7 is unused (R83). -/
def msixRaised (s : State) : List Nat :=
  (List.range 8).filter fun v => (List.range 12).any fun i => msixVector i = v && bit (intStatusWord s &&& s.cmd.intMask) i

/-- INT_N is driven low: INT_PIN_EN and an enabled bit of INT_STATUS (R83), released with RSTN low (R401). -/
def intNLow (s : State) : Bool := heldOr s .intN .low (alive s && s.cmd.intPinEn && (intStatusWord s &&& s.cmd.intMask) ≠ 0#32)

/-- A ring size that a SIZE write accepts (R84). -/
def ringSizeOk (v : W32) : Bool :=
  (List.range 8).any fun i => v = BitVec.ofNat 32 (8192 <<< i)

/-- A write to CMD_SIZE (R84). -/
def cmdSizeWrite (c : Nat) (v : W32) (s : State) : State :=
  if v = 0#32 || ((chanOf s c).cmdSize = 0#32 && ringSizeOk v) then
    onChan c (fun h => { h with cmdSize := v, cmdHead := 0#32, cmdTail := 0#32 }) s
  else s

/-- A write to RPL_SIZE (R84). -/
def rplSizeWrite (c : Nat) (v : W32) (s : State) : State :=
  if v = 0#32 || ((chanOf s c).rplSize = 0#32 && ringSizeOk v) then
    onChan c (fun h => { h with rplSize := v, rplHead := 0#32, rplTail := 0#32 }) s
  else s

/-- A write to RPL_HEAD frees room in the ring (R87). -/
def rplHeadWrite (c : Nat) (v : W32) (s : State) : State :=
  let s' := onChan c (fun h => { h with rplHead := v }) s
  levelEvent (6 + c) (ringFill (chanOf s c)) (ringFill (chanOf s' c)) s'

/-- CMD_FLUSH of channel c: CQc is flushed, CMD_HEAD set to CMD_TAIL, CH_ERR[c] cleared, and the channel runs again (R79, R86). -/
def cmdFlush (c : Nat) (s : State) : State :=
  (onChan c (fun h => { h with cmdHead := h.cmdTail, stopped := false }) (flushQueue c s)).onCmd
    fun v => { v with intStatus := v.intStatus &&& ~~~(BitVec.ofNat 32 (1 <<< (4 + c))) }

/-- RPL_FLUSH of channel c: RQc is flushed and RPL_TAIL set to RPL_HEAD (R79). -/
def rplFlush (c : Nat) (s : State) : State :=
  onChan c (fun h => { h with rplTail := h.rplHead }) (flushQueue (6 + c) s)

def eachOf (f : Nat → State → State) : List Nat → State → State
  | [], s => s
  | c :: r, s => eachOf f r (f c s)

/-- A write to INT_STATUS clears the W1C bits written 1 (R83). -/
def intStatusWrite (w : W32) (s : State) : State :=
  s.onCmd fun v => { v with intStatus := v.intStatus &&& ~~~(w &&& 0x3FF#32) }

/-- A host write to BAR0 offset `off` (R83, R84): registers without a behaviour of their own store the value, BASE registers only while
the SIZE of the same ring is 0; offsets not listed and read-only registers ignore it. -/
def bar0Write (off : Nat) (v : W32) (s : State) : State :=
  if off = 0x004 then
    eachOf rplFlush (bitList 4 (fld v 7 4)) (eachOf cmdFlush (bitList 4 (fld v 3 0)) (s.onCmd fun x => { x with intPinEn := bit v 8 }))
  else if off = 0x008 then intStatusWrite v s
  else if off = 0x00C then s.onCmd fun x => { x with intMask := v &&& 0xFFF#32 }
  else if 0x100 ≤ off ∧ off < 0x200 then
    let c := (off - 0x100) / 0x40
    let r := (off - 0x100) % 0x40
    let h := chanOf s c
    if r = 0x00 then (if h.cmdSize = 0#32 then onChan c (fun h => { h with cmdBaseLo := v &&& ~~~3#32 }) s else s)
    else if r = 0x04 then (if h.cmdSize = 0#32 then onChan c (fun h => { h with cmdBaseHi := v }) s else s)
    else if r = 0x08 then cmdSizeWrite c v s
    else if r = 0x0C then onChan c (fun h => { h with cmdTail := v }) s
    else if r = 0x14 then (if h.rplSize = 0#32 then onChan c (fun h => { h with rplBaseLo := v &&& ~~~3#32 }) s else s)
    else if r = 0x18 then (if h.rplSize = 0#32 then onChan c (fun h => { h with rplBaseHi := v }) s else s)
    else if r = 0x1C then rplSizeWrite c v s
    else if r = 0x24 then rplHeadWrite c v s
    else s
  else s

/-- What a read of BAR0 offset `off` returns: write-only bits and offsets not listed read 0 (R83). -/
def bar0Read (off : Nat) (s : State) : W32 :=
  if off = 0x000 then word [(s.fused.partCode.toNat, 16), (1, 0)]
  else if off = 0x004 then word [(flag s.cmd.intPinEn, 8)]
  else if off = 0x008 then intStatusWord s
  else if off = 0x00C then s.cmd.intMask
  else if 0x100 ≤ off ∧ off < 0x200 then
    let h := chanOf s ((off - 0x100) / 0x40)
    ([h.cmdBaseLo, h.cmdBaseHi, h.cmdSize, h.cmdTail, h.cmdHead, h.rplBaseLo, h.rplBaseHi, h.rplSize, h.rplTail, h.rplHead]).getD ((off - 0x100) % 0x40 / 4) 0#32
  else 0#32

/-- CMD_TAIL_DOORBELL (R85). -/
def execCmdTailDoorbell (ch : Fin 4) (v : W32) (s : State) : Host.Outcome State Fault Refusal :=
  ok (if pcieOn s then onChan ch (fun h => { h with cmdTail := v }) s else s)

/-- CMD_SIZE_WRITE (R84). -/
def execCmdSizeWrite (ch : Fin 4) (v : W32) (s : State) : Host.Outcome State Fault Refusal :=
  ok (if pcieOn s then cmdSizeWrite ch v s else s)

/-- RPL_SIZE_WRITE (R84). -/
def execRplSizeWrite (ch : Fin 4) (v : W32) (s : State) : Host.Outcome State Fault Refusal :=
  ok (if pcieOn s then rplSizeWrite ch v s else s)

/-- RPL_HEAD_WRITE (R87). -/
def execRplHeadWrite (ch : Fin 4) (v : W32) (s : State) : Host.Outcome State Fault Refusal :=
  ok (if pcieOn s then rplHeadWrite ch v s else s)

/-- CMD_FLUSH (R86). -/
def execCmdFlush (mask : BitVec 4) (s : State) : Host.Outcome State Fault Refusal :=
  ok (if pcieOn s then eachOf cmdFlush (bitList 4 mask.toNat) s else s)

/-- RPL_FLUSH (R79). -/
def execRplFlush (mask : BitVec 4) (s : State) : Host.Outcome State Fault Refusal :=
  ok (if pcieOn s then eachOf rplFlush (bitList 4 mask.toNat) s else s)

/-- INT_STATUS_W1C (R83). -/
def execIntStatusW1c (w : W32) (s : State) : Host.Outcome State Fault Refusal :=
  ok (if pcieOn s then intStatusWrite w s else s)

/-- BAR0_REGISTER_WRITE (R83). -/
def execBar0RegisterWrite (off : W12) (v : W32) (s : State) : Host.Outcome State Fault Refusal :=
  ok (if pcieOn s then bar0Write off.toNat v s else s)

/-- LENGTH of a packet from its words, and whether it is in range (R67). -/
def lengthField (ws : List W32) : Nat := fld (ws.getD 2 0#32) 31 19
def lengthOk (ws : List W32) : Bool :=
  let n := lengthField ws
  decide ((if bit (ws.getD 0 0#32) 25 then 11 else 5) ≤ n) && decide (n ≤ 4096)

/-- The last word of a packet is the CRC-32C of the words before it (R69). -/
def crcOk (ws : List W32) : Bool := ws.getLastD 0#32 = crcWords ws.dropLast

/-- The request that a refusal made before step 5 answers: MAC = 0, OPCODE, TAG and SOURCE as read (R72). -/
def rawReq (q : Fin 6) (ws : List W32) : Req :=
  { cq := q, src := BitVec.ofNat 12 (fld (ws.getD 0 0#32) 11 0), tag := BitVec.ofNat 16 (fld (ws.getD 1 0#32) 15 0) }
def rawOpcode (ws : List W32) : Nat := fld (ws.getD 1 0#32) 31 16

/-- The reply to a packet refused before step 5 (R72). -/
def rawReply (q : Fin 6) (ws : List W32) (r : Rej) (s : State) : State :=
  reply (rawOpcode ws) (rawReq q ws) none r [] s

/-- Words between CMD_HEAD and CMD_TAIL. -/
def ringAvail (h : ChanSt) : Nat := (h.cmdTail.toNat + h.cmdSize.toNat - h.cmdHead.toNat) % h.cmdSize.toNat

def advanceHead (c n : Nat) (s : State) : State :=
  onChan c (fun h => { h with cmdHead := BitVec.ofNat 32 ((h.cmdHead.toNat + n) % h.cmdSize.toNat) }) s

/-- The device fetches the packet at CMD_HEAD, whose words are `ws`; `good` is false for a completion error or poisoned data (R78, R85, R86).
With LENGTH out of range CMD_HEAD stays at the bad word, the header word that holds LENGTH. `push` commits a good packet to CQc. -/
def fetch (push : Nat → List W32 → State → State) (ch : Fin 4) (ws : List W32) (good : Bool) (s : State) : State :=
  let h := chanOf s ch
  let q : Fin 6 := ch.castLE (by decide)
  let n := lengthField ws
  if !pcieOn s || h.cmdSize = 0#32 || h.stopped || ws.length < 3 || ringAvail h < 3 then s
  else if !lengthOk ws then raiseInt (4 + ch) (note evCmdCmdqRewind ch 1 (advanceHead ch 2 (onChan ch (fun h => { h with stopped := true }) s)))
  else if ringAvail h < n || 8192 < qfill s ch + n || ws.length ≠ n then s
  else if !good then
    rawReply q ws { st := .badCrc, detail := 1 } (note evCmdCmdqRewind ch 1 (advanceHead ch n s))
  else if !crcOk ws then
    rawReply q ws { st := .badCrc, detail := 0 } (note evCmdCmdqRewind ch 1 (advanceHead ch n s))
  else push ch ws (advanceHead ch n s)

/-- The ring of a channel with a write to RPL_HEAD that falls in the same cycle, if there is one. -/
def ringAt (ch : Fin 4) (head : Option W32) (s : State) : ChanSt :=
  match head with | some v => { chanOf s ch with rplHead := v } | none => chanOf s ch

/-- The oldest reply of RQc, when the ring has room for it with one word still free (R87). -/
def ringNext (ch : Fin 4) (head : Option W32) (s : State) : Option (List W32) :=
  let h := ringAt ch head s
  (rqOf s ch).head?.filter fun p => pcieOn s && h.rplSize ≠ 0#32 && decide (ringFill h + p.length + 1 ≤ h.rplSize.toNat)

/-- A reply is written into the ring. FILL changes by the net amount where RPL_HEAD is written in the same cycle (R81, R87). -/
def ringPut (ch : Fin 4) (head : Option W32) (p : List W32) (s : State) : State :=
  let h := ringAt ch head s
  let s' := onChan ch (fun _ => { h with rplTail := BitVec.ofNat 32 ((h.rplTail.toNat + p.length) % h.rplSize.toNat), rplOut := p }) (rqPop ch s)
  levelEvent (6 + ch) (ringFill (chanOf s ch)) (ringFill (chanOf s' ch)) s'

/-- REPLY_RING_WRITE (R87): a reply that does not fit waits, and a write to RPL_HEAD is as always. -/
def ringWrite (ch : Fin 4) (head : Option W32) (s : State) : State :=
  match ringNext ch head s, head with
  | some p, _ => ringPut ch head p s
  | none, some v => if pcieOn s then rplHeadWrite ch v s else s
  | none, none => s
def execReplyRingWrite (w : RingWrite) (s : State) : Host.Outcome State Fault Refusal := ok (ringWrite w.ch w.head s)

/-- The bytes of one PKT_WRITE transaction (R89). A packet for which CQ4 lacks room is discarded when its LENGTH has arrived (DEDUCED, log entry 16). -/
def spiPacket (push : Nat → List W32 → State → State) (bs : List Byte) (s : State) : State :=
  let ws := wordsOfBytes bs
  let n := lengthField ws
  if ws.length < 3 then
    let s := note evCmdCmdqRewind 4 1 s
    if ws.length < 2 then s else rawReply 4 ws { st := .badCrc, detail := 1 } s
  else if !lengthOk ws then rawReply 4 ws { st := .badCrc, detail := 2 } (note evCmdCmdqRewind 4 1 s)
  else if 8192 < qfill s 4 + n then rawReply 4 ws { st := .queueFull, detail := 4 } s
  else if ws.length < n then rawReply 4 ws { st := .badCrc, detail := 1 } (note evCmdCmdqRewind 4 1 s)
  else if !crcOk (ws.take n) then rawReply 4 ws { st := .badCrc, detail := 0 } (note evCmdCmdqRewind 4 1 s)
  else push 4 (ws.take n) s

/-- The oldest reply of RQ4 is clocked out; it leaves RQ4 with its last byte (R88, R90). -/
def spiRead (clocked : Nat) (s : State) : State :=
  match rqOf s 4 with
  | [] => s.onCmd fun v => { v with spiOut := [0#32] }
  | p :: _ =>
    if 4 * p.length ≤ clocked then (rqPop 4 s).onCmd fun v => { v with spiOut := p }
    else s.onCmd fun v => { v with spiOut := p.take (clocked / 4) }

/-- RPL_READ (R90). -/
def execRplRead (clocked : Nat) (s : State) : Host.Outcome State Fault Refusal :=
  ok (if spiOn s then spiRead clocked s else s)

/-- STATUS_READ (R88): free words of CQ4 and FILL of RQ4. -/
def execStatusRead (s : State) : Host.Outcome State Fault Refusal :=
  ok (if spiOn s then s.onCmd fun v => { v with spiOut := [word [(8192 - qfill s 4, 16), (qfill s 10, 0)]] } else s)

/-- FLUSH (R88): bit 0 flushes CQ4, bit 1 flushes RQ4. -/
def execFlush (b : Byte) (s : State) : Host.Outcome State Fault Refusal :=
  ok (if spiOn s then
    let s := if b.getLsbD 0 then flushQueue 4 s else s
    if b.getLsbD 1 then flushQueue 10 s else s
  else s)

/-- SPI_BAD (R88): an instruction byte outside the table. -/
def execSpiBad (b : Byte) (s : State) : Host.Outcome State Fault Refusal :=
  ok (if spiOn s && !(1 ≤ b.toNat && b.toNat ≤ 4) then note evCmdSpiBad 0 1 s else s)

end Sys2Proof.Machine
end

