-- ==== Sys2Proof/Machine/Protection.lean ====
section
/-! DEFINITION. Protection groups: copy monitors, SNCP switching with APS, and the errorless merge of the alignment store
(05_errorless_protection R150–R177). -/

namespace Sys2Proof.Machine

/-! ### Configuration (R150–R152, R173) -/

def pgReset : List W32 := [0x02005000#32, 0#32, 0#32, 0#32, 0x000004E2#32, 0x00000100#32, 0x00000070#32, 0x1D4C0000#32]
def pgCfgOf (s : State) (g : Nat) : List W32 := tget pgReset s.prot.cfg g

def pgEn (c : List W32) : Bool := bit (c.getD 0 0#32) 31
def pgMode (c : List W32) : Nat := fld (c.getD 0 0#32) 30 29
def pgBidir (c : List W32) : Bool := bit (c.getD 0 0#32) 28
def pgRevert (c : List W32) : Bool := bit (c.getD 0 0#32) 27
def pgAps (c : List W32) : Bool := bit (c.getD 0 0#32) 26
def pgMon (c : List W32) : Bool := bit (c.getD 0 0#32) 25
def pgHold (c : List W32) : Nat := fld (c.getD 0 0#32) 23 16
def pgWtr (c : List W32) : Nat := fld (c.getD 0 0#32) 15 12
def pgWork (c : List W32) : Nat := fld (c.getD 1 0#32) 18 0
def pgOffset (c : List W32) : Nat := fld (c.getD 2 0#32) 18 0
def pgApsCont (c : List W32) : Nat := fld (c.getD 3 0#32) 29 16
def pgLen (c : List W32) : Nat := fld (c.getD 3 0#32) 14 0
def pgOut (c : List W32) : Nat := fld (c.getD 4 0#32) 31 16
def pgDiff (c : List W32) : Nat := fld (c.getD 4 0#32) 10 0
def pgAuto (c : List W32) : Bool := bit (c.getD 5 0#32) 8
def pgSlack (c : List W32) : Nat := fld (c.getD 5 0#32) 7 0
def pgErrorless (c : List W32) : Bool := pgEn c && pgMode c = 2

/-- First position of the protection range (R151). -/
def pgProt (c : List W32) : Nat := (pgWork c + pgOffset c) % 524288
def pgFirst (c : List W32) (prot : Bool) : Nat := if prot then pgProt c else pgWork c

def pgObj (w : W32) : Nat := fld w 9 0
def pgParams (ps : List W32) : List W32 := (ps.drop 1).take 8

/-- A group's values in force and pending. -/
def pgViews (s : State) (g : Nat) : List (List W32) :=
  pgCfgOf s g :: ((waiting opPgCfg s).filter fun c => pgObj (c.p 0) = g).map fun c => pgParams c.params

def pgIds (s : State) : List Nat := (s.prot.cfg.map Prod.fst ++ (waiting opPgCfg s).map fun c => pgObj (c.p 0)).dedup
def pgOthers (s : State) (g : Nat) : List Nat := (pgIds s).filter (· ≠ g)

/-- The unit that owns a window: W2e and W2e+1 are one unit (R152). -/
def winUnit (w : Nat) : Nat := if w < 8 then w / 2 else w

/-- A range lies in mapped windows of one unit, outside W26–W29 (R152). -/
def pgRangeOk (s : State) (first len : Nat) : Bool :=
  let a := first / 16384
  let b := (first + len - 1) / 16384
  decide (first + len ≤ 524288) && decide (winUnit a = winUnit b) && windowMapped s a && windowMapped s b && !(decide (26 ≤ a) && decide (a ≤ 29))

def outsMeet (c d : List W32) : Bool := decide (pgOut d < pgOut c + pgLen c) && decide (pgOut c < pgOut d + pgLen d)

/-- LEN of the errorless groups that are enabled or pending enable, this one apart (R173). -/
def alignedUse (s : State) (g : Nat) : Nat :=
  ((pgOthers s g).map fun h => (((pgViews s h).filter pgErrorless).map pgLen).foldl max 0).sum

/-- PG_CFG (R152, R173). -/
def doPgCfg (rq : Req) (s : State) : State :=
  let g := pgObj (rq.p 0)
  let c := pgParams rq.params
  let old := pgCfgOf s g
  let keep := !(pgEn old && pgEn c)
  let other := (pgOthers s g).flatMap (pgViews s)
  command opPgCfg rq
    { par := [countIs 9 rq, onlyBits 0 0x000003FF#32 rq, onlyBits 1 0xFEFFF000#32 rq, onlyBits 2 0x0007FFFF#32 rq, onlyBits 3 0x0007FFFF#32 rq,
        onlyBits 4 0x3FFF7FFF#32 rq, onlyBits 5 0xFFFF07FF#32 rq, onlyBits 6 0x000001FF#32 rq, onlyBits 7 0xFFFFFFF0#32 rq, onlyBits 8 0xFFFF0000#32 rq,
        wordOk 1 (decide (pgMode c ≠ 3 ∧ pgHold c ≤ 100 ∧ 1 ≤ pgWtr c ∧ pgWtr c ≤ 12)), wordOk 1 (!(decide (pgMode c = 2) && (pgBidir c || pgAps c))),
        wordOk 1 (keep || decide (pgMode c = pgMode old)), wordOk 2 (pgRangeOk s (pgWork c) (pgLen c)), wordOk 2 (keep || decide (pgWork c = pgWork old)),
        wordOk 3 (decide (1 ≤ pgOffset c) && pgRangeOk s (pgProt c) (pgLen c)), wordOk 3 (decide (pgLen c ≤ pgOffset c) && decide (pgOffset c + pgLen c ≤ 524288)),
        wordOk 3 (keep || decide (pgOffset c = pgOffset old)), wordOk 4 (decide (1 ≤ pgLen c ∧ pgLen c ≤ 24000)), wordOk 4 (keep || decide (pgLen c = pgLen old)),
        wordOk 4 (!(pgAps c && other.any fun d => pgAps d && decide (pgApsCont d = pgApsCont c))),
        wordOk 5 (decide (1 ≤ pgDiff c ∧ pgDiff c ≤ 1250)), wordOk 5 (keep || (decide (pgOut c = pgOut old) && decide (pgDiff c = pgDiff old))),
        wordOk 5 (decide (pgMode c ≠ 2) || (decide (pgOut c + pgLen c ≤ 65536) && !other.any fun d => pgErrorless d && outsMeet c d)),
        wordOk 6 (decide (pgSlack c ≤ 250)), wordOk 7 (decide (2 ≤ fld (c.getD 6 0#32) 7 4 ∧ fld (c.getD 6 0#32) 7 4 ≤ 10)),
        wordOk 8 (decide (1 ≤ fld (c.getD 7 0#32) 31 16 ∧ fld (c.getD 7 0#32) 31 16 ≤ 50000))],
      late := [need (!pgErrorless c || decide (alignedUse s g + pgLen c ≤ 64000)) { st := .capacity, detail := 2 }] } s (commitOnly opPgCfg rq)
def execPgCfg (rq : Req) (s : State) : Host.Outcome State Fault Refusal := ok (doPgCfg rq s)

/-- PG_READ. -/
def doPgRead (rq : Req) (s : State) : State :=
  command opPgRead rq { par := [countIs 1 rq, onlyBits 0 0x000003FF#32 rq] } s fun s => readAnswer 4 (8 * pgObj (rq.p 0)) (pgCfgOf s (pgObj (rq.p 0))) [] s
def execPgRead (rq : Req) (s : State) : Host.Outcome State Fault Refusal := ok (doPgRead rq s)

/-! ### Copies: SF, SD and hold-off (R154–R156) -/

def onGroup (g : Nat) (f : GroupSt → GroupSt) (s : State) : State := s.onProt fun v => { v with grp := tmod {} v.grp g f }
def enabledGroups (s : State) : List (Nat × List W32) :=
  (if s.integ.flips.isEmpty then s.prot.cfg else s.prot.cfg.map fun x => (x.1, delivered s 4 (8 * x.1) x.2)).filter fun x => pgEn x.2

def monOf (x : GroupSt) (prot : Bool) : MonSt := if prot then x.p else x.w
def onMon (g : Nat) (prot : Bool) (f : MonSt → MonSt) (s : State) : State :=
  onGroup g (fun x => if prot then { x with p := f x.p } else { x with w := f x.w }) s

/-- The unit of a range declares a condition of R154; fabric loss stays in force until the port is UP again (R191). A line engine's slice s holds billets 1,000 s to 1,000 s + 999. -/
def serverFail (s : State) (first len : Nat) : Bool :=
  let w := first / 16384
  if w < 8 then
    let b := lineBillet w (first % 16384)
    (List.range 24).any fun k => (tget {} (tget {} s.otn (w / 2)).slices k).ssf && decide (b < 1000 * (k + 1)) && decide (1000 * k < b + len)
  else if 14 ≤ w ∧ w ≤ 25 then (portOf s (w - 14)).sfHeld || s.root.foreign.contains (w - 14)
  else false

/-- SF and SD of a copy as R155 has them. -/
def copySf (c : List W32) (m : MonSt) : Bool := m.serverSf || (pgMon c && sinkSsf true m.snk)
def copySd (c : List W32) (m : MonSt) : Bool := pgMon c && m.snk.defects.contains .deg

/-- HOLDOFF does not apply in MODE 2 (R156). -/
def holdStrokes (c : List W32) : Nat := if pgMode c = 2 then 0 else pgHold c * 5000

/-- Hold-off of one condition: when it became true and whether it is passed on. -/
def holdStep (raw : Bool) (hold now : Nat) (since : Option Nat) (passed : Bool) : Option Nat × Bool :=
  if !raw then (none, false) else (some (since.getD now), passed || decide (hold = 0))

/-- SF and SD of a copy are judged anew. Their clearing on working while protection is selected starts WTR, which makes a request while REVERT is 1 (R157). -/
def monRefresh (g : Nat) (prot : Bool) (s : State) : State :=
  let c := pgCfgOf s g
  let x := groupOf s g
  let m := monOf x prot
  let sf := copySf c m
  let sd := copySd c m
  let a := holdStep sf (holdStrokes c) s.stk.run m.sfSince m.sf
  let b := holdStep sd (holdStrokes c) s.stk.run m.sdSince m.sd
  let s := onMon g prot (fun m => { m with sfRaw := sf, sdRaw := sd, sfSince := a.1, sf := a.2, sdSince := b.1, sd := b.2 }) s
  let s := if sf || m.sfRaw then pmDefect 1 (2 * g + flag prot) false s else s
  if prot || decide (pgMode c = 2) then s
  else
    onGroup g (fun x => { x with
      wtr := if a.2 || b.2 then none else if (m.sf || m.sd) && x.sel then some 0 else x.wtr
      wtrDone := if a.2 || b.2 then false else x.wtrDone }) s

/-- PG_HOLDOFF_EXPIRY (R156): conditions that still hold after the hold-off are passed on. -/
def holdoffPass (g : Nat) (prot : Bool) (s : State) : State :=
  let c := pgCfgOf s g
  let due (since : Option Nat) : Bool := match since with | some t => decide (t + holdStrokes c ≤ s.stk.run) | none => false
  if !pgEn c then s
  else
    let s := onMon g prot (fun m => { m with sf := m.sf || (m.sfRaw && due m.sfSince), sd := m.sd || (m.sdRaw && due m.sdSince) }) s
    if !prot && ((groupOf s g).w.sf || (groupOf s g).w.sd) then onGroup g (fun x => { x with wtr := none, wtrDone := false }) s else s
def execPgHoldoffExpiry (g : Nat) (copy : Bool) (s : State) : Host.Outcome State Fault Refusal := ok (holdoffPass g copy s)

/-- PG_WTR_EXPIRY (R157, R160): acts at the next row 0. -/
def wtrExpire (g : Nat) (s : State) : State :=
  match (groupOf s g).wtr with
  | some k => if pgWtr (pgCfgOf s g) * 3000000 ≤ k then onGroup g (fun x => { x with wtrDone := true }) s else s
  | none => s
def execPgWtrExpiry (g : Nat) (s : State) : Host.Outcome State Fault Refusal := ok (wtrExpire g s)

/-! ### Requests and selection (R157–R163) -/

/-- A request: its code and its requested signal. -/
abbrev ApsReq := Nat × Bool

/-- The local request (R157), with the external command `ext`. -/
def localReq (c : List W32) (x : GroupSt) (ext : Nat) : ApsReq :=
  if ext = 1 then (15, false)
  else if x.eSf.contains 1 then (14, false)
  else if ext = 2 then (13, true)
  else if x.eSf.contains 0 then (11, true)
  else if x.eSd.contains 0 && !x.eSd.contains 1 then (9, true)
  else if ext = 3 then (7, true)
  else if ext = 4 then (7, false)
  else if x.wtr.isSome && !x.wtrDone && x.sel && pgRevert c then (5, true)
  else if !pgRevert c && x.sel then (1, true)
  else (0, false)

/-- The far-end request that may govern; RR and NR rank lowest. -/
def farReq (c : List W32) (x : GroupSt) : ApsReq := if pgBidir c && !x.fopPm then x.eFar else (0, false)

/-- The request that governs the selection (R159). -/
def governing (c : List W32) (x : GroupSt) (ext : Nat) : ApsReq :=
  let l := localReq c x ext
  let f := farReq c x
  if l.1 < f.1 then f else l

/-- Bytes 14–17 sent (R159, R161, R163). -/
def apsSent (c : List W32) (x : GroupSt) : List Byte :=
  let l := localReq c x x.extCmd
  let f := farReq c x
  let far := decide (l.1 < f.1)
  let req := if far && decide (l.1 ≤ 1) then (2, f.2) else l
  let rs := flag req.2
  if !(pgEn c && pgAps c) then [0#8, 0#8, 0#8, 0#8]
  else bytesOfNat 1 (req.1 * 16 + 8 + flag (decide (pgMode c = 1)) * 4 + flag (pgBidir c) * 2 + flag (pgRevert c)) ++ bytesOfNat 1 rs ++ bytesOfNat 1 rs ++ [0#8]

/-- The request in force is the SF or SD of working that has cleared and whose clearing acts at the next row 0: WTR runs already (R157, R160). -/
def leaving (c : List W32) (x : GroupSt) (ext : Nat) : Bool :=
  let l := localReq c x ext
  (l.1 = 11 || l.1 = 9) && governing c x ext = l && !(x.w.sf || x.w.sd)

/-- The external command that a PG_CMD leaves in force: LO and FS stay until CLEAR, and of both the higher is shown (R158; DEDUCED, log entry 97). -/
def extAfter (old v : Nat) : Nat := if v = 2 && old = 1 then 1 else v

/-- PG_CMD is judged at its row 0, after the causes and commits of that row 0 (R158, R160): a manual switch that meets a higher request is discarded and counted. -/
def groupCommand (g : Nat) (c : List W32) (s : State) : State :=
  let x := groupOf s g
  match x.cmdDue with
  | none => s
  | some v =>
    let s := onGroup g (fun x => { x with cmdDue := none }) s
    if pgMode c = 2 then s
    else if v = 0 then onGroup g (fun x => { x with extCmd := 0, wtr := none, wtrDone := false }) s
    else if (v = 3 || v = 4) && decide (7 < (governing c x (if x.extCmd = 3 || x.extCmd = 4 then 0 else x.extCmd)).1) then
      note evPgPsCmdReject g 1 (onGroup g (fun x => { x with cmdRej := true }) s)
    else onGroup g (fun x => { x with extCmd := extAfter x.extCmd v }) s

/-- The selection of a group follows its requests. A manual switch ends when a higher request governs (R158), a WTR when it has expired or a higher request governs (R157).
A slag-marked entry or selector state keeps the selection of the row before, which is then written anew (R429). -/
def groupSelect (g : Nat) (c : List W32) (s : State) : State :=
  let unread := entrySlag s 4 (8 * g) (pgCfgOf s g) || (groupOf s g).selSlag
  let s := noteEntry 4 (8 * g) (pgCfgOf s g) s
  if unread then onGroup g (fun x => { x with selDue := true, selSlag := false }) s
  else
    let x := groupOf s g
    let bare := governing c x 0
    let ext := if (x.extCmd = 3 || x.extCmd = 4) && decide (7 < bare.1) then 0 else x.extCmd
    let gov := governing c x ext
    let sel := pgEn c && pgMode c ≠ 2 && gov.2
    let s := if sel = x.sel then s else note evPgPsSwitch g 1 s
    onGroup g (fun x => { x with
      extCmd := ext, req := BitVec.ofNat 4 gov.1, sel := sel, selDue := false
      wtr := if x.wtrDone || (decide (5 < gov.1) && !leaving c x ext) || !sel then none else x.wtr, wtrDone := false }) s

/-- Row 0: the causes met in the stroke before, and what the commits of this row 0 make of them, act on the selection (R160). -/
def groupLatch (g : Nat) (c : List W32) (s : State) : State :=
  let x := groupOf s g
  let q := (frByte (x.accAps.map fun b => (b, false)) 0).toNat / 16
  let valid := [15, 14, 13, 11, 9, 7, 5, 1].contains q
  onGroup g (fun x => { x with
    eSf := setIf x.p.sf (setIf x.w.sf [] 0) 1, eSd := setIf x.p.sd (setIf x.w.sd [] 0) 1
    eFar := if pgAps c && valid && !x.p.sfRaw then (q, x.accAps.getD 1 0#8 = 1#8) else (0, false) }) s

/-- The bytes 14–17 of the frames of a container (R163). -/
def apsOf (s : State) (c : Nat) : List Byte :=
  match (enabledGroups s).find? fun x => pgAps x.2 && pgApsCont x.2 = c with
  | some x => (groupOf s x.1).txAps
  | none => [0#8, 0#8, 0#8, 0#8]

/-- PG_CMD (R177): judged against the MODE in force (DEDUCED, log entry 32). -/
def doPgCmd (rq : Req) (s : State) : State :=
  let m := pgMode (pgCfgOf s (pgObj (rq.p 0)))
  let v := (rq.p 1).toNat
  command opPgCmd rq
    { par := [countIs 2 rq, onlyBits 0 0x000003FF#32 rq, wordOk 1 (if m = 2 then decide (8 ≤ v ∧ v ≤ 10) else decide (v ≤ 4))] } s (commitOnly opPgCmd rq)
def execPgCmd (rq : Req) (s : State) : Host.Outcome State Fault Refusal := ok (doPgCmd rq s)

/-- PG_CMD at its row 0 (R158, R171): of several the one executed last is in force (R25). -/
def applyPgCmd (k : Commit) (s : State) : State :=
  let g := pgObj (k.p 0)
  let c := pgCfgOf s g
  let v := (k.p 1).toNat
  if !pgEn c then s
  else if 8 ≤ v then (if pgMode c = 2 then onGroup g (fun x => { x with alnSel := v - 8 }) s else s)
  else onGroup g (fun x => { x with cmdDue := some v }) s

/-! ### APS reception (R164) -/

/-- A declared defect of a group changes. -/
def setFopPm (g : Nat) (on : Bool) (s : State) : State :=
  noteChange evPgDFopPm g (groupOf s g).fopPm on (onGroup g (fun x => { x with fopPm := on, fopPmSince := if on then x.fopPmSince else none }) s)
def setFopNr (g : Nat) (on : Bool) (s : State) : State :=
  noteChange evPgDFopNr g (groupOf s g).fopNr on (onGroup g (fun x => { x with fopNr := on, fopNrSince := if on then x.fopNrSince else none }) s)

/-- Bits A, B and D that a group sends. -/
def abdSent (c : List W32) : Nat := 4 + 2 * flag (decide (pgMode c = 1)) + flag (pgBidir c)

/-- A new value is accepted. -/
def acceptAps (g : Nat) (v : List Byte) (s : State) : State :=
  let s := onGroup g (fun x => { x with accAps := v }) s
  if [15, 14, 13, 11, 9, 7, 5, 2, 1, 0].contains ((v.getD 0 0#8).toNat / 16) then s else note evPgApsInvalid g 1 s

/-- The accepted value against what the group sends: bits A, B and D, and in bidirectional operation the signal. -/
def judgeFop (g : Nat) (c : List W32) (s : State) : State :=
  let x := groupOf s g
  let v := x.accAps
  let s := if (v.getD 0 0#8).toNat / 2 % 8 = abdSent c then setFopPm g false s else onGroup g (fun x => { x with fopPmSince := some (x.fopPmSince.getD s.stk.run) }) s
  if !pgBidir c || v.getD 2 0#8 = x.txAps.getD 1 0#8 then setFopNr g false s
  else onGroup g (fun x => { x with fopNrSince := some (x.fopNrSince.getD s.stk.run) }) s

/-- The APS bytes of an in-frame frame of the protection copy: a value that has come three times is accepted, with every frame that repeats it. -/
def apsFrame (g : Nat) (c : List W32) (fr : List SByte) (s : State) : State :=
  let x := groupOf s g
  if !pgAps c then s
  else if x.p.sfRaw then onGroup g (fun x => { x with rxAps := [], rxRun := 0 }) s
  else
    let v := frBytes fr 14 4
    let n := if v = x.rxAps then satAdd 3 x.rxRun 1 else 1
    let s := onGroup g (fun x => { x with rxAps := v, rxRun := n }) s
    if n = 3 then judgeFop g c (if v = x.accAps then s else acceptAps g v s) else s

/-- DFOP_PM: 2,500 strokes after the first mismatched value. -/
def dfopPmDeclare (g : Nat) (s : State) : State :=
  match (groupOf s g).fopPmSince with
  | some t => if pgEn (pgCfgOf s g) && decide (t + 2500 ≤ s.stk.run) then setFopPm g true s else s
  | none => s
def execDfopPm (g : Nat) (s : State) : Host.Outcome State Fault Refusal := ok (dfopPmDeclare g s)

/-- DFOP_NR: 2,500 strokes of persistence. -/
def dfopNrDeclare (g : Nat) (s : State) : State :=
  match (groupOf s g).fopNrSince with
  | some t => if pgEn (pgCfgOf s g) && pgBidir (pgCfgOf s g) && decide (t + 2500 ≤ s.stk.run) then setFopNr g true s else s
  | none => s
def execDfopNr (g : Nat) (s : State) : Host.Outcome State Fault Refusal := ok (dfopNrDeclare g s)

/-- Row 0: the bytes sent from now on, and the persistence of a disagreement over the signal. -/
def groupSend (g : Nat) (c : List W32) (s : State) : State :=
  let s := onGroup g (fun x => { x with txAps := apsSent c x }) s
  let x := groupOf s g
  let differ := pgAps c && pgBidir c && !x.accAps.isEmpty && decide (x.accAps.getD 2 0#8 ≠ x.txAps.getD 1 0#8)
  if differ then onGroup g (fun x => { x with fopNrSince := some (x.fopNrSince.getD s.stk.run) }) s
  else if x.fopNr then s else onGroup g (fun x => { x with fopNrSince := none }) s

/-! ### Errorless merge: playout offset and row classes (R166–R170) -/

/-- Copy x is late or early (R170). -/
def copyLate (x : GroupSt) (m : MonSt) : Bool :=
  match x.play with
  | some p => m.snk.inFrame && decide (p < m.snk.dlyRows + 2)
  | none => false
def copyEarly (c : List W32) (x : GroupSt) (m : MonSt) : Bool :=
  match x.play with
  | some p => m.snk.inFrame && decide (125 * pgDiff c < p - m.snk.dlyRows)
  | none => false

/-- A copy whose rows are FAILED (R169). -/
def copyFailed (c : List W32) (x : GroupSt) (m : MonSt) : Bool := m.sfRaw || !m.snk.inFrame || copyLate x m || copyEarly c x m

/-- D + 2 + SLACK over the copies in frame (R167). -/
def playTarget (c : List W32) (x : GroupSt) : Option Nat :=
  let l := [x.w, x.p].filter fun m => m.snk.inFrame
  if l.isEmpty then none else some ((l.map fun m => m.snk.dlyRows).foldl max 0 + 2 + pgSlack c)

/-- PLAY_ROWS when copies come into frame (R167). -/
def playInFrame (g : Nat) (c : List W32) (s : State) : State :=
  onGroup g (fun x =>
    let both := x.w.snk.inFrame && x.p.snk.inFrame
    let x := { x with snkOn := setIf (x.p.snk.inFrame || x.snkOn.contains 1) (setIf (x.w.snk.inFrame || x.snkOn.contains 0) [] 0) 1 }
    match playTarget c x, x.play with
    | some n, none => { x with play := some n, provisional := !both }
    | some n, some p => if x.provisional && both then { x with provisional := false, stepTo := if p < n then some n else x.stepTo } else x
    | none, _ => x) s

/-- dLATE and dDIFF: 3 consecutive frames with or without (R174). -/
def runDefect (cond decl : Bool) (run : Nat) : Bool × Nat :=
  if cond = decl then (decl, 0) else if 3 ≤ run + 1 then (cond, 0) else (decl, run + 1)

def alnFrame (g : Nat) (prot : Bool) (c : List W32) (s : State) : State :=
  let s := playInFrame g c s
  let x := groupOf s g
  let m := monOf x prot
  let a := runDefect (copyLate x m) m.late m.lateRun
  let b := runDefect (copyEarly c x m) m.early m.earlyRun
  let s := onMon g prot (fun m => { m with late := a.1, lateRun := a.2, early := b.1, earlyRun := b.2 }) s
  let y := groupOf s g
  noteChange evPgDLate g (x.w.late || x.p.late) (y.w.late || y.p.late) (noteChange evPgDDiff g (x.w.early || x.p.early) (y.w.early || y.p.early) s)

/-! ### Monitors (R155) -/

def monPar (c : List W32) (fr : List SByte) : SinkPar :=
  let pt := fld (c.getD 6 0#32) 15 8
  { expPt := if pt = 0 then (frByte fr 6).toNat else pt, expPlbl := fld (c.getD 6 0#32) 31 16, cmmAct := true, runs := pgLen c
    degThr := fld (c.getD 7 0#32) 31 16, degM := fld (c.getD 6 0#32) 7 4 }

/-- N under which a monitor reads the overhead at an offset: a group has no N_BILLETS of its own, and a frame it is not aligned to is read as one whose first row holds the overhead (DEDUCED, log entry 93). -/
def monN (c : List W32) (x : SinkSt) (rho : Nat) : Nat := if x.inFrame && x.rho = rho then x.nNext else pgLen c

/-- The overhead of a frame at offset `rho` of a copy's range. -/
def monOverhead (g : Nat) (prot : Bool) (rho : Nat) (now : W48) (oh : List SByte) (s : State) : State :=
  let c := pgCfgOf s g
  let m := monOf (groupOf s g) prot
  let i := 2 * g + flag prot
  let r := sinkFrame (monPar c oh) now.toNat rho false false oh m.snk
  let v := r.2
  let b := beginBody rho { n := v.n, scnt := now } { r.1 with flow := [] }
  let s := onMon g prot (fun m => { m with snk := if v.taken && r.1.inFrame then b.1 else r.1 }) s
  let s := note evMonBipViol i v.viol (note evMonBeiViol i v.bei s)
  let s := pmErrored 1 i false v.errBlocks (pmErrored 1 i true (flag (decide (0 < v.bei))) s)
  let s := if v.bdi then pmDefect 1 i true s else s
  let s := monRefresh g prot s
  let s := if !prot then s else if v.taken && r.1.inFrame then apsFrame g c oh s else onGroup g (fun x => { x with rxAps := [], rxRun := 0 }) s
  if v.taken && decide (pgMode c = 2) then alnFrame g prot c s else s

/-- A frame at offset `rho` of a copy's range, taken once, when its overhead has arrived. -/
def monFrame (g : Nat) (prot : Bool) (rho : Nat) (s : State) : State :=
  let c := pgCfgOf s g
  let x := (monOf (groupOf s g) prot).snk
  if !pgEn c || inQuench s || decide (125 ≤ rho) || (x.inFrame && (x.rho ≠ rho || !frameDue x)) then s
  else
    match overheadAt x rho (monN c x rho), (rowsSince x rho).head? with
    | some oh, some r => monOverhead g prot rho r.scnt oh s
    | _, _ => s

/-- CONTAINER_FRAME_RX (R129, R155): a frame reaches the sink of a container or the monitor of a copy. -/
def containerFrame (k : SinkKind) (n rho : Nat) (s : State) : State :=
  match k with
  | .cont => contFrame n rho s
  | .working => monFrame n false rho s
  | .protect => monFrame n true rho s
def execContainerFrameRx (sink : SinkKind) (n rho : Nat) (s : State) : Host.Outcome State Fault Refusal := ok (containerFrame sink n rho s)

def copyPos (c : List W32) (prot : Bool) (i : Nat) : Nat := (pgFirst c prot + i) % 524288

/-- A row of a copy's monitor: the bytes of its range as the ingress presents them, and the fills that billet 0 still allows (R141, R155). -/
def monRow (g : Nat) (prot : Bool) (c : List W32) (s : State) : State :=
  let cells := (List.range (pgLen c)).map fun i => ingressNow s (copyPos c prot i)
  let f := fillOf (cells.headD {})
  let a := readSinkRow { row := s.stk.row, scnt := s.stk.scnt, bytes := cells.flatMap bytesOfCell } (monOf (groupOf s g) prot).snk
  onMon g prot (fun m => { m with snk := { a.1 with fillNow := a.1.fillNow.filter fun i => f.contains i } }) s

/-- The defects of a copy at the end of a stroke (R141). -/
def monStroke (second : Bool) (g : Nat) (c : List W32) (prot : Bool) (s : State) : State :=
  let m := monOf (groupOf s g) prot
  let never := !m.snk.inFrame && !m.snk.everInFrame
  let s := onMon g prot (fun m => { m with snk := sinkStroke (monPar c []) second m.snk }) s
  monRefresh g prot (if never then pmErrored 1 (2 * g + flag prot) false 1 s else s)

/-- The end of a stroke for every group: monitors, WTR, and frames without a usable copy (R157, R167). -/
def groupStroke (second : Bool) (g : Nat) (c : List W32) (s : State) : State :=
  let s := monStroke second g c true (monStroke second g c false s)
  onGroup g (fun x =>
    let l := [x.w, x.p].filter fun m => m.snk.inFrame
    let bad := decide (pgMode c = 2) && pgAuto c && !l.isEmpty && l.all fun m => copyLate x m || copyEarly c x m
    let x : GroupSt := { x with wtr := x.wtr.map (· + 1), badRun := if bad then x.badRun + 1 else 0 }
    if 3 ≤ x.badRun then
      { x with badRun := 0, stepTo := match playTarget c x with | some n => if x.play = some n then x.stepTo else some n | none => x.stepTo }
    else x) s

def eachGroup (f : Nat → List W32 → State → State) : List (Nat × List W32) → State → State
  | [], s => s
  | (g, c) :: l, s => eachGroup f l (f g c s)

/-! ### Server SF, row by row (R154, R160, R175) -/

def serverStep (g : Nat) (c : List W32) (prot : Bool) (s : State) : State :=
  let srv := serverFail s (pgFirst c prot) (pgLen c)
  let m := monOf (groupOf s g) prot
  if srv = m.serverSf then s
  else
    let s := monRefresh g prot (onMon g prot (fun m => { m with serverSf := srv }) s)
    if srv && decide (holdStrokes c = 0) && decide (pgMode c ≠ 2) then
      onGroup g (fun x => { x with eSf := ins x.eSf (flag prot), selDue := true }) s
    else s

/-- Before a row is switched: server SF declared in the row before acts on monitors and selectors. -/
def groupRow (g : Nat) (c : List W32) (s : State) : State :=
  let s := serverStep g c true (serverStep g c false s)
  if (groupOf s g).selDue then groupSelect g c s else s

/-! ### The alignment store, row by row (R165–R174) -/

/-- The frame row that a copy in frame presents in this row: FW and row index (R166). -/
def copyRow (s : State) (m : MonSt) : Nat × Nat :=
  let start := if m.snk.rho ≤ s.stk.row then scnt s else scnt s + 65535
  ((start + 65536 * 64 - m.snk.dlyRows / 125) % 65536, (s.stk.row + 125 - m.snk.rho) % 125)

/-- Key of a stored row: copy, slot FW mod (MAX_DIFF + 2), row. -/
def ringKey (c : List W32) (prot : Bool) (fw r : Nat) : Nat := (flag prot * 2048 + fw % (pgDiff c + 2)) * 128 + r

def storeErr (x : RowIn) (g : Nat) (prot : Bool) (what : Nat) : Option Nat :=
  (x.store.find? fun e => e.1 = g && e.2.1 == prot && e.2.2.1 = what).map fun e => e.2.2.2

def cellSlag (x : Cell) : Bool := x.s0 || x.s1

/-- Rows run since reset: the row that is now. -/
def rowsRun (s : State) : Nat := 125 * s.stk.run + s.stk.row

/-- A row joins the spans of rows in which a copy was out of frame; spans that lie further back than `keep` rows are dropped. -/
def growSpans (now keep : Nat) : List (Nat × Nat) → List (Nat × Nat)
  | (a, b) :: l => if b + 1 = now then (a, now) :: l else (now, now) :: ((a, b) :: l).filter fun z => now ≤ z.2 + keep
  | [] => [(now, now)]

/-- N of the frame whose row `r` arrives: the one announced for it as long as its overhead has not been taken (R129, R169). -/
def storeN (m : MonSt) (r : Nat) : Nat := if frameDue m.snk && decide (r < 124) then m.snk.nNext else m.snk.nRx

/-- A copy's row enters the store; while the copy is out of frame none does, and the rows that pass are remembered (R166, R169). -/
def storeRow (x : RowIn) (g : Nat) (c : List W32) (prot : Bool) (s : State) : State :=
  let y := groupOf s g
  let m := monOf y prot
  if !m.snk.inFrame then onMon g prot (fun m => { m with outSpans := growSpans (rowsRun s) (125 * (pgDiff c + 2)) m.outSpans }) s
  else if copyEarly c y m then onGroup g (fun z => { z with earlyRows := (flag prot, copyRow s m) :: z.earlyRows }) s
  else if (storeErr x g prot 2).isSome then note evPgAlnOverrun g 1 s
  else
    let p := copyRow s m
    let cells := (List.range (pgLen c)).map fun i => ingressNow s (copyPos c prot i)
    let n := storeN m p.2
    let cls := if copyFailed c y m then 2 else if (cells.take n).any cellSlag then 1 else 0
    onGroup g (fun z => { z with ring := tset {} z.ring (ringKey c prot p.1 p.2) { tag := some p.1, n := n, cls := cls, cells := cells } }) s

/-- Every byte of a row carries the slag mark. -/
def markCell (c : Cell) : Cell := { c with s0 := true, s1 := true }

/-- A row as read at its playout: class, cells and N. -/
structure PlayRow where
  cls : Nat
  cells : List Cell
  n : Nat

/-- The row played now came in while the copy was out of frame (R169). -/
def camePastFrame (y : GroupSt) (m : MonSt) (now : Nat) : Bool :=
  let t := now + m.snk.dlyRows - y.play.getD 0
  m.outSpans.any fun z => decide (z.1 ≤ t) && decide (t ≤ z.2)

/-- A row of a slot without the tag (R169, R431): FAILED where the copy was early or out of frame as it came in, or is failed now. -/
def absentRow (g : Nat) (c : List W32) (prot : Bool) (fw r : Nat) (s : State) : State × PlayRow :=
  let y := groupOf s g
  let early := y.earlyRows.contains (flag prot, fw, r)
  let failed := early || copyFailed c y (monOf y prot) || camePastFrame y (monOf y prot) (rowsRun s)
  let s := if early then onGroup g (fun y => { y with earlyRows := y.earlyRows.filter fun e => e ≠ (flag prot, fw, r) }) s else s
  (drawn (note evIntHbmUnwritten (freeNat s % 2) 1 s), ⟨if failed then 2 else 1, List.replicate (pgLen c) Fill.slag.cell, 0⟩)

/-- A row as the store reads it for its playout. One that is not read by then is FAILED, whatever its slot holds (R172). -/
def readRow (x : RowIn) (g : Nat) (c : List W32) (prot : Bool) (fw r : Nat) (s : State) : State × PlayRow :=
  let z := tget {} (groupOf s g).ring (ringKey c prot fw r)
  if (storeErr x g prot 3).isSome then (note evPgAlnOverrun g 1 s, ⟨2, List.replicate (pgLen c) Fill.slag.cell, 0⟩)
  else if z.tag ≠ some fw then absentRow g c prot fw r s
  else
    let cls := if z.cls = 2 then 2 else 1
    match storeErr x g prot 0, storeErr x g prot 1 with
    | some k, _ => (note evIntHbmCrc k 1 s, ⟨cls, z.cells.map markCell, z.n⟩)
    | none, some k => (note evIntHbmUe k 1 s, ⟨cls, z.cells.map markCell, z.n⟩)
    | none, none => (s, ⟨z.cls, z.cells, z.n⟩)

/-- A row is fill: its first 2N bytes are all 0xFF, all 0x55 or all 0x00. -/
def rowFill (p : PlayRow) : Bool := [0xFF#8, 0x55#8, 0#8].any fun b => (p.cells.take p.n).all fun x => x.b0 = b && x.b1 = b

/-- What is sent at a playout row: the copy sent, none for AIS fill (R171). -/
def chooseRow (g : Nat) (sel : Nat) (cur : Bool) (w p : PlayRow) (s : State) : State × Option Bool :=
  let cnt := fun (x : Bool) (s : State) => (if x then note evPgRowsP g 1 s else note evPgRowsW g 1 s, some x)
  if sel = 1 ∨ sel = 2 then
    (if (if sel = 2 then p else w).cls = 2 then (note evPgBothFailed g 1 s, none) else (s, some (decide (sel = 2))))
  else if w.cls = 0 ∧ p.cls = 0 then
    (if w.cells.take w.n == p.cells.take w.n then cnt cur s
     else if rowFill w ≠ rowFill p then cnt (rowFill w) s
     else cnt cur (note evPgMismatch g 1 s))
  else if w.cls = 0 then cnt false s
  else if p.cls = 0 then cnt true s
  else if w.cls = 1 ∧ p.cls = 1 then cnt cur (note evPgBothBad g 1 s)
  else if w.cls = 1 then cnt false (note evPgBothBad g 1 s)
  else if p.cls = 1 then cnt true (note evPgBothBad g 1 s)
  else (note evPgBothFailed g 1 s, none)

def outCells (first : Nat) : Nat → List Cell → List (Nat × Cell)
  | _, [] => []
  | i, x :: r => (26 * 16384 + first + i, x) :: outCells first (i + 1) r

/-- Cells written to ingress positions; an UNEQUIPPED one leaves nothing there. -/
def putIngress (cs : List (Nat × Cell)) (s : State) : State := s.onRows fun v => { v with ingress := cs.foldl (fun t x => tset {} t x.1 x.2) v.ingress }

def fillOut (first len : Nat) (f : Fill) (s : State) : State := putIngress (outCells first 0 (List.replicate len f.cell)) s

/-- Frame word and row of the output under a playout offset (R167). -/
def outRow (s : State) (play : Nat) : Nat × Nat :=
  let k := 125 * (scnt s % 65536) + s.stk.row + 16384000 - play
  (k / 125 % 65536, k % 125)

/-- A playout step takes effect at the start of an output frame; output resumes with the first frame under the new offset (R168). -/
def stepPlay (g : Nat) (play : Nat) (s : State) : State :=
  match (groupOf s g).stepTo with
  | some n => if (outRow s play).2 = 0 then note evPgPlayStep g 1 (onGroup g (fun x => { x with play := some n, stepTo := none, gap := true, cur := false }) s) else s
  | none => s

/-- The output row of a group. -/
def playRow (x : RowIn) (g : Nat) (c : List W32) (s : State) : State :=
  match (groupOf s g).play with
  | none => fillOut (pgOut c) (pgLen c) .ais s
  | some p0 =>
    let s := stepPlay g p0 s
    let o := outRow s ((groupOf s g).play.getD p0)
    let s := if o.2 = 0 then onGroup g (fun y => { y with gap := false }) s else s
    let y := groupOf s g
    if y.gap then fillOut (pgOut c) (pgLen c) .slag s
    else
      let w := readRow x g c false o.1 o.2 s
      let p := readRow x g c true o.1 o.2 w.1
      let r := chooseRow g y.alnSel y.cur w.2 p.2 p.1
      let s := onGroup g (fun y => { y with outFw := some (BitVec.ofNat 16 o.1) }) r.1
      match r.2 with
      | none => fillOut (pgOut c) (pgLen c) .ais s
      | some k => putIngress (outCells (pgOut c) 0 (if k then p.2.cells else w.2.cells)) (onGroup g (fun y => { y with cur := k }) s)

def alnGroupRow (x : RowIn) (g : Nat) (c : List W32) (s : State) : State :=
  if pgMode c ≠ 2 then s else storeRow x g c true (storeRow x g c false (playRow x g c s))

/-- Output ranges of disabled groups carry AIS fill (R174). -/
def offOutputs : List (Nat × GroupSt) → State → State
  | [], s => s
  | (_, y) :: l, s => offOutputs l (match y.offOut with | some r => fillOut r.1 r.2 .ais s | none => s)

/-- The alignment store in one row, with the fills of billet 0 of each copy. -/
def protRow (x : RowIn) (s : State) : State :=
  let s := eachGroup (fun g c s => monRow g true c (monRow g false c s)) (enabledGroups s) s
  eachGroup (alnGroupRow x) (enabledGroups s) (offOutputs s.prot.grp s)

/-! ### PG_CFG and ALN_REALIGN at their row 0 (R162, R167, R174) -/

def setGroupDefectsClear (g : Nat) (s : State) : State :=
  let x := groupOf s g
  let s := setFopNr g false (setFopPm g false s)
  noteChange evPgDLate g (x.w.late || x.p.late) false (noteChange evPgDDiff g (x.w.early || x.p.early) false s)

/-- Without APS received bytes are ignored: no value is accepted, and the defects that compare it end (DEDUCED, log entry 97). -/
def apsOff (g : Nat) (s : State) : State :=
  setFopNr g false (setFopPm g false (onGroup g (fun x => { x with rxAps := [], rxRun := 0, accAps := [], fopPmSince := none, fopNrSince := none }) s))

def freshMon : MonSt := { snk := { fillNow := [0, 1, 2] } }

def applyPgCfg (k : Commit) (s : State) : State :=
  let g := pgObj (k.p 0)
  let c := pgParams k.params
  let old := pgCfgOf s g
  let s := cleanWords 4 (8 * g) 8 s
  let s := s.onProt fun v => { v with cfg := tset pgReset v.cfg g c, gold := tset pgReset v.gold g c }
  if pgEn c && !pgEn old then
    monRefresh g true (monRefresh g false (onGroup g (fun x => { ({} : GroupSt) with cmdRej := x.cmdRej, w := freshMon, p := freshMon }) s))
  else if pgEn old && !pgEn c then
    let s := setGroupDefectsClear g s
    let s := if (groupOf s g).sel then note evPgPsSwitch g 1 s else s
    onGroup g (fun x => { ({} : GroupSt) with cmdRej := x.cmdRej, offOut := if pgMode old = 2 then some (pgOut old, pgLen old) else none }) s
  else if pgEn c then monRefresh g true (monRefresh g false (if pgAps c then s else apsOff g s))
  else s

/-- ALN_REALIGN (R177): both copies must be in frame. -/
def doAlnRealign (rq : Req) (s : State) : State :=
  let x := groupOf s (pgObj (rq.p 0))
  command opAlnRealign rq
    { par := [countIs 1 rq, onlyBits 0 0x000003FF#32 rq], late := [need (x.w.snk.inFrame && x.p.snk.inFrame) { st := .busy, detail := 2 }] } s
    (commitOnly opAlnRealign rq)
def execAlnRealign (rq : Req) (s : State) : Host.Outcome State Fault Refusal := ok (doAlnRealign rq s)

def applyAlnRealign (k : Commit) (s : State) : State :=
  let g := pgObj (k.p 0)
  let c := pgCfgOf s g
  if !pgErrorless c then s
  else onGroup g (fun x => match playTarget c x with
    | some n => (match x.play with
      | some p => if p = n then x else { x with stepTo := some n }
      | none => { x with play := some n, provisional := false })
    | none => x) s

/-! ### Status (R176, R177) -/

def defectBits (x : SinkSt) : Nat := bitsOf (((List.range 10).filter fun i => x.defects.any fun y => y.num = i).map fun i => 9 - i)

def monStatus (m : MonSt) : W32 := word [(flag m.snk.inFrame, 31), (defectBits m.snk, 21), (flag m.serverSf, 20)]

def pgStatusWords (s : State) (g : Nat) : List W32 :=
  let x := groupOf s g
  [word [(flag (pgEn (pgCfgOf s g)), 31), (flag x.sel, 30), (x.req.toNat, 26), (flag x.w.sf, 25), (flag x.p.sf, 24), (flag x.w.sd, 23), (flag x.p.sd, 22),
     (flag (x.wtr.isSome && pgRevert (pgCfgOf s g)), 21), (flag x.cmdRej, 20), (x.extCmd, 16), (flag x.fopPm, 15), (flag x.fopNr, 14)],
   word [((x.accAps.getD 0 0#8).toNat, 24), ((x.accAps.getD 1 0#8).toNat, 16), ((x.accAps.getD 2 0#8).toNat, 8), ((x.txAps.getD 0 0#8).toNat, 0)],
   monStatus x.w, monStatus x.p]

/-- PG_STATUS_READ. -/
def doPgStatusRead (rq : Req) (s : State) : State :=
  let g := pgObj (rq.p 0)
  let clr := bit (rq.p 0) 31
  command opPgStatusRead rq
    { role := [need (!clr || decide (2 ≤ packetLevel rq s)) { st := .notPermitted }], par := [countIs 1 rq, onlyBits 0 0x800003FF#32 rq] } s
    fun s => .done (if clr then onGroup g (fun x => { x with cmdRej := false }) s else s) (pgStatusWords s g)
def execPgStatusRead (rq : Req) (s : State) : Host.Outcome State Fault Refusal := ok (doPgStatusRead rq s)

def alnStatusWords (s : State) (g : Nat) : List W32 :=
  let c := pgCfgOf s g
  let x := groupOf s g
  let on := pgErrorless c
  let dly := fun (m : MonSt) => word [(flag m.snk.inFrame, 31), (if m.snk.inFrame then m.snk.dlyRows else 0, 0)]
  [word [(flag x.play.isSome, 31), (flag (x.play.isSome && decide (x.snkOn.length = 1)), 30), (x.alnSel, 28), (flag x.cur, 27), (flag (on && copyFailed c x x.w), 26),
     (flag (on && copyFailed c x x.p), 25), (flag (x.w.late || x.p.late), 24), (flag (x.w.early || x.p.early), 23), (x.play.getD 0, 0)],
   dly x.w, dly x.p,
   word [(if x.w.snk.inFrame && x.p.snk.inFrame then unsigned 24 ((x.p.snk.dlyRows : Int) - (x.w.snk.dlyRows : Int)) else 0, 0)]]

/-- ALN_STATUS_READ. -/
def doAlnStatusRead (rq : Req) (s : State) : State :=
  command opAlnStatusRead rq { par := [countIs 1 rq, onlyBits 0 0x000003FF#32 rq] } s fun s => .done s (alnStatusWords s (pgObj (rq.p 0)))
def execAlnStatusRead (rq : Req) (s : State) : Host.Outcome State Fault Refusal := ok (doAlnStatusRead rq s)

/-- Words of a bit map over the 1,024 groups. -/
def groupMap (f : GroupSt → Bool) (s : State) : List W32 :=
  (List.range 32).map fun w => BitVec.ofNat 32 (bitsOf ((List.range 32).filter fun b => f (groupOf s (32 * w + b))))

def groupDefect (x : GroupSt) : Bool := x.fopPm || x.fopNr || x.w.late || x.p.late || x.w.early || x.p.early

/-- PG_SUMMARY_READ. -/
def doPgSummaryRead (rq : Req) (s : State) : State :=
  command opPgSummaryRead rq { par := [countIs 0 rq] } s
    fun s => .done s (groupMap GroupSt.sel s ++ groupMap (fun x => x.w.sf || x.p.sf) s ++ groupMap groupDefect s)
def execPgSummaryRead (rq : Req) (s : State) : Host.Outcome State Fault Refusal := ok (doPgSummaryRead rq s)

end Sys2Proof.Machine
end

