-- ==== Sys2Proof/Machine/Strokes.lean ====
section
/-! DEFINITION. Strokes, reference timing and the stroke root (02_stroke_and_clocks). -/

namespace Sys2Proof.Machine

/-! ### Reference candidates (R43–R47) -/

def strokePrio (s : State) : Nat := fld s.stk.cfg0 31 24
def holdoverLimit (s : State) : Nat := fld s.clk.clk0 17 0
def clkWtr (s : State) : Nat := fld s.clk.clk1 31 16

/-- Eligibility (R45). A candidate in wait-to-restore is still in FAILED. -/
def refEligible (s : State) (c : Nat) : Bool :=
  let w := refCfg s c
  !refAbsent s c && bit w 0 && fld w 31 28 ≠ 0 && !s.clk.failed.contains c && !bit w 1

/-- The rank of a candidate: lower is better (R45). -/
def refRank (s : State) (c : Nat) : Nat :=
  let w := refCfg s c
  (if bit s.clk.clk0 29 then fld w 27 24 else 0) * 1024 + fld w 31 28 * 32 + c

def bestRank (s : State) : List Nat → Option Nat
  | [] => none
  | c :: r =>
    match bestRank s r with
    | none => some c
    | some d => if refRank s c ≤ refRank s d then some c else some d

/-- The device follows an upstream port (R44). -/
def isFollower (s : State) : Bool := s.root.aligned && !s.root.isRoot && s.root.upstream < 12

/-- The candidates among which a root, and a device with no aligned neighbour, selects (R44). -/
def localRefs (s : State) : List Nat := (List.range 24).filter fun c => (c < 8 || 20 ≤ c) && refEligible s c

/-- The candidate of the local selection and its CAUSE: 0 rank, 1 forced, 3 none (R45). -/
def localPick (s : State) : Option Nat × Nat :=
  match s.clk.forced.filter (localRefs s).contains with
  | some f => (some f, 1)
  | none => match bestRank s (localRefs s) with | some c => (some c, 0) | none => (none, 3)

/-- QL of a candidate: from REF_CFG, or from the stroke announcement for 8–19 (R43). -/
def refQl (s : State) (c : Nat) : BitVec 4 :=
  if 8 ≤ c ∧ c ≤ 19 then s.root.ql else BitVec.ofNat 4 (fld (refCfg s c) 27 24)

/-- Output QL (R51). -/
def outQl (s : State) : BitVec 4 :=
  match s.clk.state with
  | .locked | .acquiring => refQl s s.clk.selected
  | .holdover => s.clk.lastQl
  | .freeRun | .lost => 15#4

/-! ### The fields of an announcement (R55) -/

def annRoot (a : AnnRx) : Nat × Nat := (fld (a.ws.getD 1 0#32) 31 24, fld (a.ws.getD 0 0#32) 23 12)
def annStandby (a : AnnRx) : Nat × Nat := (fld (a.ws.getD 2 0#32) 31 24, fld (a.ws.getD 2 0#32) 23 12)
def annHops (a : AnnRx) : Nat := fld (a.ws.getD 1 0#32) 23 16
def annSeq (a : AnnRx) : Nat := fld (a.ws.getD 1 0#32) 15 0
def annScnt (a : AnnRx) : W48 := w48 (a.ws.getD 3 0#32) (a.ws.getD 4 0#32)
def annLost (a : AnnRx) : Option Nat := if bit (a.ws.getD 0 0#32) 25 then some (fld (a.ws.getD 2 0#32) 11 0) else none
def annAligned (a : AnnRx) : Bool := bit (a.ws.getD 0 0#32) 26

/-- t_out, the partner's measurement of this device's announcement. -/
def annEcho (a : AnnRx) : Int := signed 32 (a.ws.getD 5 0#32).toNat

/-- The link delay d and the lag θ, in 10 ps units (R62). The echo is known modulo 2³² (log entry 17). -/
def annDelay (a : AnnRx) : Int := signed 32 (unsigned 32 (a.tIn + annEcho a)) / 2
def annTheta (a : AnnRx) : Int := (annEcho a - a.tIn) / 2

/-! ### Clock states (R47–R51) -/

/-- The first strokes of a record of frequencies. -/
def takeLog : Nat → List (Nat × Int) → List (Nat × Int)
  | _, [] => []
  | n, x :: r => if n = 0 then [] else (min n x.1, x.2) :: takeLog (n - x.1) r

def dropLog : Nat → List (Nat × Int) → List (Nat × Int)
  | _, [] => []
  | n, x :: r => if n < x.1 then (x.1 - n, x.2) :: r else dropLog (n - x.1) r

/-- A stroke entered in the record, which reaches back as far as R49 asks. -/
def pushLog (f : Int) (l : List (Nat × Int)) : List (Nat × Int) :=
  takeLog 3050000 (match l with | x :: r => if x.2 = f then (x.1 + 1, f) :: r else (1, f) :: x :: r | [] => [(1, f)])

/-- The mean frequency over the 3,000,000 strokes that end 50,000 strokes ago (R49), in whole units of 10⁻⁶ ppm. -/
def freqMean (l : List (Nat × Int)) : Int :=
  let w := takeLog 3000000 (dropLog 50000 l)
  (w.map fun x => (x.1 : Int) * x.2).sum / ((w.map Prod.fst).sum : Nat)

/-- Lag of the strokes behind the neighbour's at port `p`, from its announcement of this stroke (R55, R62); 0 without one. -/
def portTheta (s : State) (p : Nat) : Int := match s.root.anns.find? fun x => x.1 = p with | some x => annTheta x.2 | none => 0

/-- Phase of a candidate against the output: as measured, and θ for the stroke phase of a fabric port (R43, R62). -/
def refPhase (s : State) (c : Nat) : Int := if 8 ≤ c ∧ c < 20 then portTheta s (c - 8) else tget 0 s.clk.candPhase c

/-- The phase error against the selected candidate: its phase without the offset that was built out (R47). On a fabric
candidate nothing is built out of the error, since θ itself is steered to 0 (R62; DEDUCED, log entry 82). -/
def phaseErr (s : State) : Int := refPhase s s.clk.selected - (if 8 ≤ s.clk.selected ∧ s.clk.selected < 20 then 0 else s.clk.buildOut)

/-- The stroke unit enters a clock state, with the events of entering and leaving HOLDOVER and LOST (R48, R49). The loss that
ends the averaging window of R49 is the stroke in which LOCKED was left, also where HOLDOVER follows only after ACQUIRING (DESIGN CHOICE, log entry 114). -/
def enterClk (n : ClkState) (s : State) : State :=
  let old := s.clk.state
  let s := if old = .holdover && n ≠ .holdover then noteClear evStkHoldoverEntry 0 s else s
  let s := if old = .lost && n ≠ .lost then noteClear evStkHoldoverExpired 0 s else s
  let s := if n = .holdover && old ≠ .holdover then note evStkHoldoverEntry 0 1 s else s
  s.onClk fun v => { v with
    state := n, lockRun := 0, acqRun := 0, lockedRun := 0, holdRun := 0,
    histFreq := if old = .locked then freqMean v.freqLog else v.histFreq
    histValid := if n = .lost then false else v.histValid }

/-- No candidate is left: HOLDOVER with a valid history, otherwise LOST (R48). -/
def loseRef (s : State) : State :=
  (enterClk (if s.clk.histValid then .holdover else .lost) s).onClk fun v => { v with selected := 31, cause := 3 }

/-- Reselection at row 0 (R46): a follower takes the candidate of its upstream port (R44), any other device the candidate
`pick` that it chose under the values in force until then. The offset of the incoming reference is built out (R47). -/
def reselect (pick : Option Nat × Nat) (s : State) : State :=
  match (if isFollower s then (some (8 + s.root.upstream), 2) else pick) with
  | (some c, why) =>
    if s.clk.selected = c then s.onClk fun v => { v with cause := why }
    else (enterClk .acquiring s).onClk fun v => { v with selected := c, cause := why, buildOut := refPhase s c }
  | (none, _) =>
    if s.clk.state = .acquiring || s.clk.state = .locked then loseRef s else s

/-- The QL of the locked candidate is the one that HOLDOVER shows (R51). -/
def latchQl (s : State) : State :=
  if s.clk.state = .locked then s.onClk fun v => { v with lastQl := refQl s s.clk.selected } else s

/-- One stroke's way of a difference: what the loop takes of it, 0.1 ppm/s at most (R47: 2 units of 10⁻⁶ ppm in a stroke). -/
def pullIn (bw : Nat) (d : Int) : Int := clamp (-2) 2 (clamp (-(Config.loopPull bw d.natAbs : Int)) (Config.loopPull bw d.natAbs) d)

/-- The output frequency after a stroke (R47, R49 and the state table): OSCIN's own, that of the history, or pulled towards the candidate. -/
def nextFreq (v : ClkSt) : Int :=
  match v.state with
  | .freeRun | .lost => 0
  | .holdover => v.histFreq
  | .acquiring | .locked => v.freq + pullIn (fld v.clk0 31 30) (tget 0 v.candFreq v.selected - v.freq)

/-- The clock offset that timing recovery tracks: within ±50 ppm the one there is, beyond that a free value (R245, log entry 102). -/
def clockTrack (e : Nat) (m : Int) : Int := if m.natAbs ≤ 50000000 then m else Config.trackBeyond e m

/-- Timing recovery over the stroke. -/
def rxClocks (x : StrokeIn) (s : State) : State :=
  s.onRx fun v => { v with eng := x.rxClock.foldl (fun t m => tmod {} t m.1 fun r => { r with clkOff := clockTrack m.1 m.2 }) v.eng }

/-- The far symbol clock of a LOCKED receiver is candidate 4 + e (R245). -/
def rxCandidates (s : State) (t : List (Nat × Int)) : List (Nat × Int) :=
  (List.range 4).foldl (fun t e => if (tget {} s.rx.eng e).state = RxState.locked then tset 0 t (4 + e) (s.clk.freq + (tget {} s.rx.eng e).clkOff) else t) t

/-- What the stroke measured at the candidates, and the output frequency that follows. -/
def measureRefs (x : StrokeIn) (s : State) : State :=
  let s := rxClocks x s
  let s := s.onClk fun v => { v with
    candFreq := rxCandidates s (x.refFreq.foldl (fun t p => tset 0 t p.1 p.2) v.candFreq)
    candPhase := x.refPhase.foldl (fun t p => tset 0 t p.1 p.2) v.candPhase }
  s.onClk fun v => { v with freq := nextFreq v, freqLog := pushLog (nextFreq v) v.freqLog }

/-- The window of a candidate's frequency offset after a stroke, and whether it has ended beyond FREQ_LIMIT (R50). -/
def windowStep (s : State) (c : Nat) : (Nat × Int) × Option Bool :=
  let w := tget (0, 0) s.clk.freqWin c
  let n := w.1 + 1
  let sum := w.2 + (tget 0 s.clk.candFreq c - s.clk.freq)
  if n < 1000 then ((n, sum), none) else ((0, 0), some (decide (fld (refCfg s c) 15 8 * 1000000 * 1000 < sum.natAbs)))

/-- The frequency condition at the end of a stroke: the last window's outcome. -/
def freqCond (s : State) (c : Nat) : Bool :=
  match (windowStep s c).2 with | some b => b | none => (tget 0 s.clk.failWhy c).testBit 1

/-- The STRK_IN edge of the stroke is missing at the candidate it is paired with (R53), on a device that is no follower. -/
def strkInMissing (s : State) (c : Nat) : Bool := c < 4 && fld s.stk.cfg0 3 0 = c && !isFollower s && s.stk.strkIn.isNone

/-- The stroke phase moves to the STRK_IN edge while the paired candidate is selected (R53): a row 0 that belongs later is moved back. How much of the way it makes in a stroke is not stated: a free value (log entry 82). -/
def strkInPhase (s : State) : State :=
  match s.stk.strkIn with
  | none => s
  | some t =>
    if s.clk.selected < 4 && fld s.stk.cfg0 3 0 = s.clk.selected && !isFollower s then
      s.onRoot fun v => { v with phaseAdj := v.phaseAdj - clamp (-(Config.phasePull t.natAbs : Int)) (Config.phasePull t.natAbs) t }
    else s

/-- The counts of the clock states over the stroke that ends, and the conditions that held in it (R38, R48–R50). -/
def ageClk (conds : List (Nat × Nat)) (s : State) : State :=
  s.onClk fun v => { v with
    lockRun := if v.state = .acquiring && decide ((phaseErr s).natAbs ≤ 200) then v.lockRun + 1 else 0
    acqRun := if v.state = .acquiring then v.acqRun + 1 else 0
    lockedRun := if v.state = .locked then v.lockedRun + 1 else 0
    holdRun := if v.state = .holdover then v.holdRun + 1 else 0
    freqWin := conds.map fun p => (p.1, (windowStep s p.1).1)
    failWhy := conds.foldl (fun t p => tset 0 t p.1 p.2) []
    okSince := conds.foldl (fun t p => if p.2 = 0 then t else tset 0 t p.1 s.stk.run) v.okSince }

def RefCause.num : RefCause → Nat
  | .edge => 0 | .freq => 1 | .source => 2 | .announcement => 3

/-- REF_WTR_CLEAR (R50): no failing condition has held for WTR seconds, the strokes run since the last one in which one did. -/
def execRefWtrClear (c : Fin 24) (s : State) : Host.Outcome State Fault Refusal :=
  ok (if s.clk.failed.contains c.val && tget 0 s.clk.failWhy c = 0 && tget 0 s.clk.okSince c + clkWtr s * 50000 < s.stk.run then
    noteClear evStkRefFail c (s.onClk fun v => { v with failed := del v.failed c.val, okSince := tset 0 v.okSince c 0 })
  else s)

/-- CLOCK_LOCK (R48): the phase error stayed within ±2 ns for 5,000 strokes. -/
def execClockLock (s : State) : Host.Outcome State Fault Refusal :=
  ok (if s.clk.state = .acquiring && 5000 ≤ s.clk.lockRun then latchQl (enterClk .locked s) else s)

/-- ACQ_TIMEOUT (R48): 1,500,000 strokes without lock. The candidate is marked failed. -/
def execAcqTimeout (s : State) : Host.Outcome State Fault Refusal :=
  ok (if s.clk.state = .acquiring && 1500000 ≤ s.clk.acqRun then
    let c := s.clk.selected
    loseRef (note evStkAcqTimeout c 1 (s.onClk fun v => { v with failed := ins v.failed c, okSince := tset 0 v.okSince c s.stk.run }))
  else s)

/-- HISTORY_VALID (R49). -/
def execHistoryValid (s : State) : Host.Outcome State Fault Refusal :=
  ok (if s.clk.state = .locked && 3000000 ≤ s.clk.lockedRun then s.onClk fun v => { v with histValid := true } else s)

/-- HOLDOVER_EXPIRED (R48): HOLDOVER_LIMIT seconds in HOLDOVER. -/
def execHoldoverExpired (s : State) : Host.Outcome State Fault Refusal :=
  ok (if s.clk.state = .holdover && holdoverLimit s * 50000 ≤ s.clk.holdRun then
    note evStkHoldoverExpired 0 1 (enterClk .lost s)
  else s)

/-! ### Pins (R52–R54) -/

/-- STRK_OUT is high (R52). -/
def strkOut (s : State) : Bool := heldOr s .strkOut .high (bit s.stk.cfg0 14 && s.stk.row = 0 && !inQuench s && alive s)

/-- REFOUTk is driven with the output clock: enabled, not squelched, not in QUENCH or reset (R54), nor held by the scan. -/
def refoutOn (s : State) (k : Nat) : Bool :=
  let b := if k = 0 then 16 else 0
  (scanPin s (.refout k)).isNone && bit s.clk.clk2 (9 + b) && !(bit s.clk.clk2 (11 + b) && s.clk.state = .holdover)
    && !(bit s.clk.clk2 (10 + b) && (s.clk.state = .freeRun || s.clk.state = .lost)) && !inQuench s && alive s

/-- STRK_IN_EDGE (R53), `t` after this device's row 0 in 10 ps units: the edge plus STRK_IN_OFFSET is where row 0 belongs. It is ignored on a follower and when no candidate is paired. -/
def execStrkInEdge (t : Int) (s : State) : Host.Outcome State Fault Refusal :=
  let k := fld s.stk.cfg0 3 0
  ok (if k < 4 && !isFollower s then
    s.onStk fun v => { v with strkIn := some (t + signed 32 s.stk.cfg1.toNat) }
  else s)

/-! ### Announcements and election (R55–R66) -/

/-- Strokes of another number or phase: θ is beyond 80 ns (R64). -/
def annDiffers (a : AnnRx) : Bool := 8000 < (annTheta a).natAbs

/-- Of two root candidates (priority, address) the first is the better (R56). -/
def better (a b : Nat × Nat) : Bool := b.1 < a.1 || (a.1 = b.1 && a.2 < b.2)

/-- A follower declares its root lost (R58), once: the loss is acted on at the next row 0 (R59). -/
def declareLoss (s : State) : State :=
  if s.root.isRoot || s.root.lossPending || s.root.rootAddr = 0#12 then s
  else note evStkRootLoss 0 1 (s.onRoot fun v => { v with lostAddr := v.rootAddr, lossPending := true })

/-- A received announcement: version, CRC and HOPS are checked (R55). `arr` is its arrival after the start of this device's stroke, in 10 ps units. -/
def annReceive (p : Nat) (ws : List W32) (arr : Int) (s : State) : State :=
  if ws.length ≠ 8 || ws.getD 7 0#32 ≠ crcWords (ws.take 7) || fld (ws.getD 0 0#32) 31 28 ≠ 1 || fld (ws.getD 1 0#32) 23 16 = 255 then
    note evStkSaErr p 1 s
  else
    let t := arr + ((scnt s : Int) - (w48 (ws.getD 3 0#32) (ws.getD 4 0#32)).toNat) * 2000000
    let s := s.onRoot fun v => { v with
      anns := tset {} v.anns p { ws := ws, tIn := t }, lastArr := tset 0 v.lastArr p t, noAnn := 0,
      candidateByTimeout := if v.aligned then v.candidateByTimeout else false }
    if s.root.upstream = p && annLost { ws := ws } = some s.root.rootAddr.toNat then declareLoss s else s

/-- This device is a root candidate (R56). -/
def selfCandidate (s : State) : Bool :=
  strokePrio s ≠ 0 && s.fab.nodeAddr ≠ 0#12 && (s.root.aligned || s.root.candidateByTimeout)

def selfRank (s : State) : Nat × Nat := (strokePrio s, s.fab.nodeAddr.toNat)

def onLostList (s : State) (addr : Nat) : Bool := s.root.lostList.any fun l => l.1.toNat = addr

/-- An announcement of a better root with other strokes than this device's own, which R64 governs once the device is aligned. -/
def announcesForeign (s : State) (x : Nat × AnnRx) : Bool :=
  s.root.aligned && annDiffers x.2 && better (annRoot x.2) (s.root.rootPrio.toNat, s.root.rootAddr.toNat)
    && (annRoot x.2).2 ≠ s.root.rootAddr.toNat && !onLostList s (annRoot x.2).2

/-- The announcements that take part in the election: their root is not on the lost list, and they are not those of R64 (R57, R64). -/
def usableAnns (s : State) : List (Nat × AnnRx) :=
  s.root.anns.filter fun x => !onLostList s (annRoot x.2).2 && !announcesForeign s x

def bestOf : List (Nat × Nat) → Option (Nat × Nat)
  | [] => none
  | c :: r =>
    match bestOf r with
    | none => some c
    | some d => if better d c then some d else some c

/-- The upstream port among announcements that name the root: lowest HOPS, then lowest port number. -/
def upstreamOf (root : Nat) : List (Nat × AnnRx) → Option (Nat × AnnRx)
  | [] => none
  | x :: r =>
    match upstreamOf root r with
    | none => if (annRoot x.2).2 = root then some x else none
    | some y => if (annRoot x.2).2 = root && annHops x.2 ≤ annHops y.2 then some x else some y

/-- The announcement names the present root with the ROOT_SEQ that is due (R58). -/
def onTime (s : State) (x : Nat × AnnRx) : Bool :=
  (annRoot x.2).2 = s.root.rootAddr.toNat && annSeq x.2 = (s.root.rootSeq.toNat + 1) % 65536

/-- The follower misses its root in the stroke that ends: no port delivers the root with ROOT_SEQ one greater than before (R58). -/
def seqMissed (s : State) : Bool := !s.root.isRoot && s.root.upstream < 12 && !(s.root.anns.any (onTime s))

/-- The announcements among which the upstream port is chosen: where the upstream port brought no announcement that was due and another did, those that were (R58). -/
def upstreamAnns (s : State) (l : List (Nat × AnnRx)) : List (Nat × AnnRx) :=
  if s.root.isRoot || decide (12 ≤ s.root.upstream) || l.any (fun x => x.1 = s.root.upstream && onTime s x) || !(l.any (onTime s)) then l
  else l.filter (onTime s)

/-- HOPS that a device announces while it holds a standby to which no port leads yet: more than the 16 hops of R62, and not the 255 of R55 (DESIGN CHOICE, log entry 112). -/
def heldHops : Nat := 128

/-- What a device shows and forwards of a root to which the port `x` leads (R57, R62). -/
def followPort (x : Nat × AnnRx) (v : RootSt) : RootSt :=
  { v with
    upstream := x.1, hops := BitVec.ofNat 8 (annHops x.2 + 1), rootSeq := BitVec.ofNat 16 (annSeq x.2), held := 0
    theta := BitVec.ofNat 32 (unsigned 32 (annTheta x.2)), phaseAdj := v.phaseAdj + clamp (-2) 2 (annTheta x.2)
    ql := BitVec.ofNat 4 (fld (x.2.ws.getD 3 0#32) 31 28) }

/-- The device takes a root: itself, the one that the port `up` leads to, or a standby to which no port leads yet. Of the last
it announces `heldHops` and, as R60 leaves its strokes those of the fabric, the number of its own stroke as ROOT_SEQ
(DESIGN CHOICE, log entry 112). -/
def takeRoot (root standby : Nat × Nat) (up : Option (Nat × AnnRx)) (s : State) : State :=
  let seq := BitVec.ofNat 16 (scnt s)
  let same := s.root.rootAddr = BitVec.ofNat 12 root.2
  let s := s.onRoot fun v => { v with
    rootAddr := BitVec.ofNat 12 root.2, rootPrio := BitVec.ofNat 8 root.1
    standbyAddr := BitVec.ofNat 12 standby.2, standbyPrio := BitVec.ofNat 8 standby.1 }
  if root.2 = s.fab.nodeAddr.toNat && selfCandidate s then
    s.onRoot fun v => { v with isRoot := true, aligned := true, upstream := 15, hops := 0#8, rootSeq := seq, theta := 0#32, held := 0 }
  else
    s.onRoot fun v => match up with
      | some x => followPort x { v with isRoot := false }
      | none => { v with isRoot := false, upstream := 15, hops := BitVec.ofNat 8 heldHops, rootSeq := seq, held := if same then v.held + 1 else 1 }

/-- The root declared lost goes onto the lost list (R59). -/
def listLost (s : State) : State :=
  s.onRoot fun v => { v with lostList := (v.lostList.filter fun l => l.1 ≠ v.lostAddr) ++ [(v.lostAddr, 0)], lossPending := false }

/-- Another device that the election may take: it has an address and is not on the lost list. What others say of this device
itself does not count; it stands for itself with its own priority (R56, R57; log entry 83). -/
def electable (s : State) (c : Nat × Nat) : Bool := c.2 ≠ 0 && !onLostList s c.2 && c.2 ≠ s.fab.nodeAddr.toNat

/-- The standby taken as root that no port brings nearer yet, for 100 strokes at most (log entry 112). -/
def heldRoot (s : State) : Option (Nat × Nat) :=
  if 1 ≤ s.root.held ∧ s.root.held ≤ 100 then some (s.root.rootPrio.toNat, s.root.rootAddr.toNat) else none

/-- The candidates named as ROOT_ADDR, each with the priority that its nearest announcement gives (R57; log entry 83). -/
def namedRoots (anns : List (Nat × AnnRx)) : List (Nat × Nat) :=
  anns.map fun x => match upstreamOf (annRoot x.2).2 anns with | some y => annRoot y.2 | none => annRoot x.2

/-- The upstream port for a root (R57, R58). A device that holds its root as a standby follows a port only where the root is
nearer than the distance it announces itself, as it would follow its own announcement otherwise (log entry 112). -/
def upstreamFor (r : Nat) (anns : List (Nat × AnnRx)) (s : State) : Option (Nat × AnnRx) :=
  if r ≠ s.root.rootAddr.toNat then upstreamOf r anns
  else upstreamOf r ((upstreamAnns s anns).filter fun x => s.root.held = 0 || decide (annHops x.2 < heldHops))

/-- Root, standby, upstream port and HOPS at row 0, from the announcements of the stroke that ended (R57–R61, R66). After a
loss and after a demotion the last standby counts among the candidates for root (R59, R66), and so does a standby held. -/
def electRoot (s : State) : State :=
  let lost := s.root.lossPending
  let takes := lost || (s.root.isRoot && !selfCandidate s)
  let s := if lost then listLost s else s
  let anns := usableAnns s
  let me := if selfCandidate s then [selfRank s] else []
  let kept := if takes then [(s.root.standbyPrio.toNat, s.root.standbyAddr.toNat)] else (heldRoot s).toList
  let roots := me ++ (namedRoots anns ++ kept).filter (electable s)
  let all := roots ++ (anns.map fun x => annStandby x.2).filter (electable s)
  let s := match bestOf roots with
    | none => s.onRoot fun v => { v with isRoot := false, rootAddr := 0#12, rootPrio := 0#8, standbyAddr := 0#12, standbyPrio := 0#8, upstream := 15, hops := 0#8, held := 0 }
    | some r => takeRoot r ((bestOf (all.filter fun c => c.2 ≠ r.2)).getD (0, 0)) (upstreamFor r.2 anns s) s
  if lost && s.root.rootAddr ≠ 0#12 then noteClear evStkRootLoss 0 s else s

/-- The announcement of a better root with other strokes, if a port brings one (R64). -/
def betterForeign (s : State) : List (Nat × AnnRx) :=
  s.root.anns.filter (announcesForeign s)

/-- The number of the stroke that begins now, under the numbering of an announcement received `old` strokes before the one that ended (R63; DEDUCED, log entry 17). -/
def joinNumber (old : Nat) (a : AnnRx) : W48 := BitVec.ofNat 48 ((annScnt a).toNat + 1 + old + (annDelay a).toNat / 2000000)

/-- The step that follows an announcement's stroke (R63, R64): the number, and how far it moves the times of arrival, in 10 ps units. -/
def annStep (old : Nat) (a : AnnRx) : W48 × Int := (joinNumber old a, annDelay a - a.tIn)

/-- The announcement of the best root among those given, as its upstream port brings it. -/
def bestAnn (l : List (Nat × AnnRx)) : Option AnnRx :=
  match bestOf (l.map fun x => annRoot x.2) with
  | none => none
  | some r => (upstreamOf r.2 l).map Prod.snd

/-- After a step the recorded times count from the new stroke starts. -/
def shiftAnn (d : Int) (a : AnnRx) : AnnRx :=
  { a with tIn := a.tIn + d, ws := setAt a.ws 5 (BitVec.ofNat 32 (unsigned 32 (annEcho a - d))) }

/-- Foreign ports at row 0: marked under JOIN_POLICY 1, unmarked when the announcements agree (R64). -/
def updateForeign (s : State) : State :=
  let now := if bit s.stk.cfg0 15 then (betterForeign s).map Prod.fst else []
  let keep := s.root.foreign.filter fun p => !(s.root.anns.any fun x => x.1 = p && !annDiffers x.2)
  let new := now.filter fun p => !keep.contains p
  let gone := s.root.foreign.filter fun p => !keep.contains p && !now.contains p
  let s := s.onRoot fun v => { v with foreign := keep ++ new }
  eachOfR (fun p s => noteClear evStkForeignRoot p s) gone (eachOfR (fun p s => note evStkForeignRoot p 1 s) new s)
where
  eachOfR (f : Nat → State → State) : List Nat → State → State
    | [], s => s
    | c :: r, s => eachOfR f r (f c s)

/-- An unaligned device's first valid upstream announcement (R63). Whether one with ALIGNED 0 can be it is not stated: the model asks for ALIGNED 1, as the sender's strokes are those of its root then only (DEDUCED, log entry 84). -/
def firstAlignment (s : State) : Option AnnRx :=
  if s.root.aligned then none
  else
    match bestAnn (s.root.anns.filter fun x => annAligned x.2 && electable s (annRoot x.2)) with
    | none => none
    | some a => if selfCandidate s && better (selfRank s) (annRoot a) then none else some a

/-- Announcements that make the device step at the next row 0: the first alignment (R63), or a better root under JOIN_POLICY 0 (R64). -/
def alignStep (s : State) : Option (W48 × Int) :=
  match firstAlignment s with
  | some a => some (annStep 0 a)
  | none => if bit s.stk.cfg0 15 then none else (bestAnn (betterForeign s)).map (annStep 0)

/-- The stroke announcement sent on a port (R55, R57, R59). ARR_ECHO before the first announcement of the partner is 0 (DESIGN CHOICE, log entry 85). -/
def annSend (p : Nat) (s : State) : List W32 :=
  let lost := s.root.lostList.any fun l => l.1 = s.root.lostAddr
  let echo := tget 0 s.root.lastArr p
  let ws := [
    word [(1, 28), (flag s.root.isRoot, 27), (flag s.root.aligned, 26), (flag lost, 25), (s.root.rootAddr.toNat, 12), (s.fab.nodeAddr.toNat, 0)],
    word [(s.root.rootPrio.toNat, 24), (s.root.hops.toNat, 16), (if s.root.isRoot then scnt s % 65536 else s.root.rootSeq.toNat, 0)],
    word [(s.root.standbyPrio.toNat, 24), (s.root.standbyAddr.toNat, 12), (if lost then s.root.lostAddr.toNat else 0, 0)],
    word [((if s.root.isRoot then outQl s else s.root.ql).toNat, 28), (hi16 s.stk.scnt, 0)],
    BitVec.ofNat 32 (lo32 s.stk.scnt),
    BitVec.ofNat 32 (unsigned 32 echo),
    0#32]
  ws ++ [crcWords ws]

/-- The election of a row 0, the reselection of the reference and the announcements of the new stroke (R40, R46, R55–R61). -/
def rootRow0 (pick : Option Nat × Nat) (s : State) : State :=
  let s := updateForeign (latchQl s)
  let s := reselect pick (electRoot s)
  let s := s.onRoot fun v => { v with
    noAnn := if v.anns.isEmpty then v.noAnn + 1 else 0
    lostList := v.lostList.map fun l => (l.1, l.2 + 1)
    prevAnns := v.anns, anns := [] }
  s.onRoot fun v => { v with sent := (List.range 12).map fun p => (p, annSend p s) }

/-- ROOT_CANDIDATE_TIMEOUT (R56). -/
def execRootCandidateTimeout (s : State) : Host.Outcome State Fault Refusal :=
  ok (if !s.root.aligned && 100 ≤ s.root.noAnn then s.onRoot fun v => { v with candidateByTimeout := true } else s)

/-- LOST_LIST_EXPIRY (R57). -/
def execLostListExpiry (s : State) : Host.Outcome State Fault Refusal :=
  ok (s.onRoot fun v => { v with lostList := v.lostList.filter fun l => l.2 < 100 })

/-! ### Commands (R65) -/

/-- STROKE_STATUS words 0–6. -/
def strokeStatusWords (s : State) : List W32 :=
  [word [(s.stk.row, 16), (hi16 s.stk.scnt, 0)],
   BitVec.ofNat 32 (lo32 s.stk.scnt),
   word [(flag s.root.isRoot, 31), (flag s.root.aligned, 30), (s.root.rootAddr.toNat, 16), (s.root.upstream, 12), (s.root.hops.toNat, 0)],
   word [(s.root.rootPrio.toNat, 24), (s.root.standbyAddr.toNat, 12), (s.root.lostAddr.toNat, 0)],
   s.root.theta,
   word [(pendingCount s, 16), (s.stk.stepCount.toNat, 0)],
   word [(bitsOf s.root.foreign, 0)]]

def ClkState.code : ClkState → Nat
  | .freeRun => 0 | .acquiring => 1 | .locked => 2 | .holdover => 3 | .lost => 4

/-- CLK_STATUS words 0–4. -/
def clkStatusWords (s : State) : List W32 :=
  [word [(s.clk.state.code, 29), (s.clk.selected, 24), (s.clk.cause, 20), ((outQl s).toNat, 16), (flag s.clk.histValid, 15)],
   word [(bitsOf s.clk.failed, 0)],
   word [(bitsOf ((List.range 24).filter (refAbsent s)), 0)],
   word [(if s.clk.state = .holdover then s.clk.holdRun / 50000 else 0, 0)],
   BitVec.ofNat 32 (unsigned 32 (fracShowInt s.clk.freq 1000))]

/-- STROKE_READ. -/
def doStrokeRead (rq : Req) (s : State) : State :=
  command opStrokeRead rq { par := [countIs 0 rq] } s fun s => .done s (strokeStatusWords s)
def execStrokeRead (rq : Req) (s : State) : Host.Outcome State Fault Refusal := ok (doStrokeRead rq s)

/-- A root with no aligned neighbour: no announcement of this or the last stroke has ALIGNED set (R65; DEDUCED, log entry 17). -/
def isolatedRoot (s : State) : Bool :=
  s.root.isRoot && !((s.root.anns ++ s.root.prevAnns).any fun x => annAligned x.2)

/-- STROKE_SET (R36): the last one before a row 0 counts. -/
def doStrokeSet (rq : Req) (s : State) : State :=
  command opStrokeSet rq
    { role := [need (isolatedRoot s) { st := .notPermitted, detail := 1 }], par := [countIs 2 rq, onlyBits 0 0x0000FFFF#32 rq] } s
    fun s => .done (s.onStk fun v => { v with setTo := some (w48 (rq.p 0) (rq.p 1)) }) []
def execStrokeSet (rq : Req) (s : State) : Host.Outcome State Fault Refusal := ok (doStrokeSet rq s)

/-- STROKE_CFG: STRK_IN_REF 0–3 or 15, STRK_IN_OFFSET within ±10 µs. -/
def doStrokeCfg (rq : Req) (s : State) : State :=
  command opStrokeCfg rq
    { par := [countIs 2 rq, onlyBits 0 0xFF00C00F#32 rq, wordOk 0 (decide (fld (rq.p 0) 3 0 ∈ [0, 1, 2, 3, 15])),
        wordOk 1 (decide ((signed 32 (rq.p 1).toNat).natAbs ≤ 1000000))] } s (commitOnly opStrokeCfg rq)
def execStrokeCfg (rq : Req) (s : State) : Host.Outcome State Fault Refusal := ok (doStrokeCfg rq s)
def applyStrokeCfg (c : Commit) (s : State) : State := s.onStk fun v => { v with cfg0 := c.p 0, cfg1 := c.p 1 }

/-- STROKE_JOIN (R64): needs a foreign port. The step falls at the commit stroke. -/
def doStrokeJoin (rq : Req) (s : State) : State :=
  command opStrokeJoin rq { par := [countIs 0 rq, causeOk 0x8007 (!s.root.foreign.isEmpty)] } s (commitOnly opStrokeJoin rq)
def execStrokeJoin (rq : Req) (s : State) : Host.Outcome State Fault Refusal := ok (doStrokeJoin rq s)

/-- The step of a STROKE_JOIN due at this row 0: that of the best foreign port's announcement, in the stroke that ended or, without one, in the stroke before. -/
def joinStep (s : State) : Option (W48 × Int) :=
  let foreign (l : List (Nat × AnnRx)) := l.filter fun x => s.root.foreign.contains x.1
  match bestAnn (foreign s.root.anns) with
  | some a => some (annStep 0 a)
  | none => (bestAnn (foreign s.root.prevAnns)).map (annStep 1)

/-- REF_CFG: FREQ_LIMIT 1–100; LANE 0–47 for candidates 20–23. -/
def doRefCfg (rq : Req) (s : State) : State :=
  let c := fld (rq.p 0) 4 0
  command opRefCfg rq
    { unit := [need (!refAbsent s c) { st := .unitAbsent }],
      par := [countIs 2 rq, onlyBits 0 0x0000001F#32 rq, wordOk 0 (decide (c < 24)), onlyBits 1 0xFFFFFF03#32 rq,
        wordOk 1 (decide (c < 20) || decide (fld (rq.p 1) 21 16 < 48)),
        wordOk 1 (decide (1 ≤ fld (rq.p 1) 15 8) && decide (fld (rq.p 1) 15 8 ≤ 100))] } s (commitOnly opRefCfg rq)
def execRefCfg (rq : Req) (s : State) : Host.Outcome State Fault Refusal := ok (doRefCfg rq s)
def applyRefCfg (c : Commit) (s : State) : State :=
  s.onClk fun v => { v with refCfg := tset 0x0F000900#32 v.refCfg (fld (c.p 0) 4 0) (c.p 1) }

/-- REF_STATUS_READ: CLK_STATUS and the REF_CFG words in force, 29 words. -/
def doRefStatusRead (rq : Req) (s : State) : State :=
  command opRefStatusRead rq { par := [countIs 0 rq] } s
    fun s => .done s (clkStatusWords s ++ (List.range 24).map (refCfg s))
def execRefStatusRead (rq : Req) (s : State) : Host.Outcome State Fault Refusal := ok (doRefStatusRead rq s)

/-- REF_FORCE: 0–7, 20–23, or 31 to clear. A candidate 4–7 of an absent line engine is accepted and never eligible (R48 names UNIT_ABSENT for REF_CFG only; DESIGN CHOICE, log entry 86). -/
def doRefForce (rq : Req) (s : State) : State :=
  let c := fld (rq.p 0) 4 0
  command opRefForce rq
    { par := [countIs 1 rq, onlyBits 0 0x0000001F#32 rq, wordOk 0 (decide (c < 8) || (decide (20 ≤ c) && decide (c < 24)) || decide (c = 31))] } s
    (commitOnly opRefForce rq)
def execRefForce (rq : Req) (s : State) : Host.Outcome State Fault Refusal := ok (doRefForce rq s)
def applyRefForce (c : Commit) (s : State) : State :=
  s.onClk fun v => { v with forced := if fld (c.p 0) 4 0 = 31 then none else some (fld (c.p 0) 4 0) }

/-- CLK_CFG: LOOP_BW 0–2, HOLDOVER_LIMIT 1–172,800, WTR 0–3,600, REFOUT frequencies 0–4. -/
def doClkCfg (rq : Req) (s : State) : State :=
  command opClkCfg rq
    { par := [countIs 3 rq, onlyBits 0 0xE003FFFF#32 rq, wordOk 0 (decide (fld (rq.p 0) 31 30 ≠ 3)),
        wordOk 0 (decide (1 ≤ fld (rq.p 0) 17 0) && decide (fld (rq.p 0) 17 0 ≤ 172800)),
        onlyBits 1 0xFFFF0000#32 rq, wordOk 1 (decide (fld (rq.p 1) 31 16 ≤ 3600)),
        onlyBits 2 0xFE00FE00#32 rq, wordOk 2 (decide (fld (rq.p 2) 31 28 ≤ 4) && decide (fld (rq.p 2) 15 12 ≤ 4))] } s (commitOnly opClkCfg rq)
def execClkCfg (rq : Req) (s : State) : Host.Outcome State Fault Refusal := ok (doClkCfg rq s)
def applyClkCfg (c : Commit) (s : State) : State := s.onClk fun v => { v with clk0 := c.p 0, clk1 := c.p 1, clk2 := c.p 2 }

/-- A pending entry put behind those of its own and earlier strokes. -/
def insertByStroke (c : Commit) : List Commit → List Commit
  | [] => [c]
  | d :: r => if (c.stroke.getD 0#48).toNat < (d.stroke.getD 0#48).toNat then c :: d :: r else d :: insertByStroke c r

/-- The pending-commit entries in order of commit stroke, and within one stroke in order of execution (R65). -/
def pendingSorted (s : State) : List Commit :=
  (s.commits.filter fun c => c.stroke.isSome).foldl (fun l c => insertByStroke c l) []

/-- COMMIT_LIST_READ (R65). -/
def doCommitListRead (rq : Req) (s : State) : State :=
  let i := fld (rq.p 0) 11 0
  command opCommitListRead rq { par := [countIs 1 rq, onlyBits 0 0x00000FFF#32 rq] } s
    fun s =>
      let l := ((pendingSorted s).drop i).take 1024
      .done s (word [(flag (decide ((pendingSorted s).length ≤ i + l.length)), 31), ((i + l.length) % 4096, 16), (l.length, 0)] ::
        l.flatMap fun c => [word [(c.opcode, 16), (c.tag.toNat, 0)], word [(hi16 (c.stroke.getD 0#48), 0)], BitVec.ofNat 32 (lo32 (c.stroke.getD 0#48))])
def execCommitListRead (rq : Req) (s : State) : Host.Outcome State Fault Refusal := ok (doCommitListRead rq s)

/-- COMMIT_CANCEL (R65): shadow state is left as written; a seal or a pending switch ends with its entry (R114). -/
def doCommitCancel (rq : Req) (s : State) : State :=
  let n := w48 (rq.p 0) (rq.p 1)
  command opCommitCancel rq { par := [countIs 2 rq, onlyBits 0 0x0000FFFF#32 rq] } s
    fun s => .done (s.onCommits fun l => l.filter fun c => c.stroke ≠ some n) [word [((s.commits.filter fun c => c.stroke = some n).length, 0)]]
def execCommitCancel (rq : Req) (s : State) : Host.Outcome State Fault Refusal := ok (doCommitCancel rq s)

end Sys2Proof.Machine
end

