-- ==== Sys2Proof/Machine/Fabric.lean ====
section
/-! DEFINITION. Fabric ports, link rows, the control channel, node addresses, link state, routes and billet paths (06_fistan_fabric R178–R212). -/

namespace Sys2Proof.Machine

/-! ### Configuration and state of ports -/

def fabPortReset : List W32 := [0x000A0000#32, 0x186A7000#32]
def fpCfg (s : State) (p : Nat) : List W32 := tget fabPortReset s.fab.portCfg p
def fpEn (c : List W32) : Bool := bit (c.getD 0 0#32) 31
def fpCheck (c : List W32) : Bool := bit (c.getD 0 0#32) 30
def fpMetric (c : List W32) : Nat := fld (c.getD 0 0#32) 23 16
def fpExpPort (c : List W32) : Nat := fld (c.getD 0 0#32) 15 12
def fpExpAddr (c : List W32) : Nat := fld (c.getD 0 0#32) 11 0
def fpSdegThr (c : List W32) : Nat := fld (c.getD 1 0#32) 31 16
def fpSdegM (c : List W32) : Nat := fld (c.getD 1 0#32) 15 12

def addrMode (s : State) : Bool := bit s.fab.cfg 31
def hopLimit (s : State) : Nat := fld s.fab.cfg 23 16
def addrCfg (s : State) : Nat := fld s.fab.cfg 11 0

def isForeign (s : State) (p : Nat) : Bool := s.root.foreign.contains p
/-- SYNC, UP or FOREIGN (R187). -/
def portSynced (s : State) (p : Nat) : Bool := (portOf s p).state = .sync || (portOf s p).state = .up
/-- UP, and not shown as FOREIGN. -/
def portUp (s : State) (p : Nat) : Bool := (portOf s p).state = .up && !isForeign s p
def twoWay (s : State) (p : Nat) : Bool := portSynced s p && (portOf s p).adj = .twoWay

/-- Ports that carry LSP, POLAST and PATH_HOP envelopes (R196, R198). -/
def ctlPorts (s : State) : List Nat := (List.range 12).filter fun p => twoWay s p && !isForeign s p

/-- Absolute row numbers count modulo 125 × 2¹⁶ (R178, R183). -/
def rowMod : Nat := 8192000
def localRow (s : State) : Nat := 125 * (scnt s % 65536) + s.stk.row

/-! ### Envelopes (R192–R195) -/

def envHeader (etype hops len origin bseq : Nat) : List W32 := [word [(etype, 28), (hops, 16), (len, 0)], word [(origin, 20), (bseq, 0)]]

def envelope (etype hops origin bseq : Nat) (body : List W32) : List W32 :=
  let ws := envHeader etype hops (body.length + 3) origin bseq ++ body
  ws ++ [crcWords ws]

def envType (ws : List W32) : Nat := fld (ws.getD 0 0#32) 31 28
def envHops (ws : List W32) : Nat := fld (ws.getD 0 0#32) 23 16
def envOrigin (ws : List W32) : Nat := fld (ws.getD 1 0#32) 31 20
def envBseq (ws : List W32) : Nat := fld (ws.getD 1 0#32) 15 0
def envBody (ws : List W32) : List W32 := (ws.drop 2).dropLast

/-- The envelope's length and CRC are right. -/
def envOk (ws : List W32) : Bool := decide (3 ≤ ws.length) && decide (ws.length ≤ 4099) && decide (fld (ws.getD 0 0#32) 12 0 = ws.length) && crcOk ws

/-- Puts an envelope into a queue of a port (R194). -/
def enqueue (high : Bool) (p : Nat) (ws : List W32) (s : State) : State :=
  let x := portOf s p
  if high then
    (if wordsIn x.q0 + ws.length ≤ 8192 then onPort p (fun x => { x with q0 := x.q0 ++ [ws] }) s else note evFabCtlDrop p 1 s)
  else
    (if wordsIn x.q1 + ws.length ≤ 16384 then onPort p (fun x => { x with q1 := x.q1 ++ [ws] }) s else note evFabCtlDrop p 1 s)

def enqueueAll (high : Bool) (ws : List W32) : List Nat → State → State
  | [], s => s
  | p :: r, s => enqueueAll high ws r (enqueue high p ws s)

/-- The bytes of an envelope on the control channel, its first byte marked. -/
def envStream (ws : List W32) : List (Byte × Bool) :=
  match bytesOfWords ws with
  | [] => []
  | b :: r => (b, true) :: r.map fun c => (c, false)

/-- A port that carries no LSP, POLAST and PATH_HOP envelopes drops those that wait; only HELLOs stay (R187, R196, R198; uncounted, log entry 99). -/
def ctlPurge (p : Nat) (s : State) : State :=
  if (ctlPorts s).contains p then s else onPort p (fun x => { x with q0 := x.q0.filter (fun e => envType e = 1), q1 := [] }) s

/-- ENVELOPE_TRANSMIT (R192, R194): the next envelope in strict priority follows the one in progress. -/
def envelopeSend (p : Nat) (s : State) : State :=
  let s := ctlPurge p s
  let x := portOf s p
  if !(x.state = .hunt || portSynced s p) || 19 ≤ x.ccOut.length then s
  else match x.q0, x.q1 with
    | e :: r, _ => onPort p (fun x => { x with q0 := r, wire := x.wire ++ [e], ccOut := x.ccOut ++ envStream e }) s
    | [], e :: r => onPort p (fun x => { x with q1 := r, wire := x.wire ++ [e], ccOut := x.ccOut ++ envStream e }) s
    | [], [] => s
def execEnvelopeTransmit (p : Fin 12) (s : State) : Host.Outcome State Fault Refusal := ok (envelopeSend p s)

/-- The receiver of the control channel within a row: the envelope in progress ([] between envelopes, none while discarding), the envelopes completed, and the errors. -/
structure CcScan where
  cur : Option (List Byte) := none
  got : List (List W32) := []
  err : Nat := 0

/-- An envelope's bytes so far: it goes on, it is whole, or it is bad and the receiver discards up to the next that a CC_PTR names (R192). An ETYPE other than 1–4 is discarded and counted (R193). -/
def ccGrow (l : List Byte) (c : CcScan) : CcScan :=
  let n := natOfBytes (l.take 4) % 8192
  if l.length < 4 then { c with cur := some l }
  else if n < 3 || 4099 < n then { c with cur := none, err := c.err + 1 }
  else if l.length < 4 * n then { c with cur := some l }
  else
    let ws := wordsOfBytes l
    if !envOk ws then { c with cur := none, err := c.err + 1 }
    else if 1 ≤ envType ws ∧ envType ws ≤ 4 then { c with cur := some [], got := c.got ++ [ws] }
    else { c with cur := some [], err := c.err + 1 }

/-- One byte of the control channel. Between envelopes 0x00 is fill; where CC_PTR names a byte, an envelope starts, and one in progress is lost. -/
def ccByte (ptr : Nat) (c : CcScan) (x : Byte × Nat) : CcScan :=
  if x.2 = ptr then ccGrow [x.1] { c with err := c.err + (match c.cur with | some (_ :: _) => 1 | _ => 0) }
  else match c.cur with
    | none => c
    | some [] => if x.1 = 0#8 then c else ccGrow [x.1] c
    | some l => ccGrow (l ++ [x.1]) c

/-- The 19 bytes of a valid row join the stream (R192). -/
def ccRow (p : Nat) (ptr : Nat) (bs : List Byte) (s : State) : State :=
  let c := bs.zipIdx.foldl (ccByte ptr) { cur := (portOf s p).ccIn }
  note evFabCcErr p c.err (onPort p (fun x => { x with ccIn := c.cur, ccGot := x.ccGot ++ c.got }) s)

/-- The bytes of a row that is not valid are lost, and with them the envelope in progress (DEDUCED, log entry 61). -/
def ccLost (p : Nat) (s : State) : State :=
  note evFabCcErr p (match (portOf s p).ccIn with | some (_ :: _) => 1 | _ => 0) (onPort p (fun x => { x with ccIn := none }) s)

/-- `ws` is the oldest envelope of its type that has been received on a port in SYNC, UP or FOREIGN and waits to be taken: the state without it (R193; log entry 61). -/
def takeEnvelope (p etype : Nat) (ws : List W32) (s : State) : Option State :=
  if (portOf s p).ccGot.find? (fun e => envType e = etype) = some ws then some (onPort p (fun x => { x with ccGot := x.ccGot.erase ws }) s) else none

/-! ### Adjacency and HELLO (R197–R199) -/

def AddrState.code : AddrState → Nat
  | .none => 0 | .tentative => 1 | .claimed => 2 | .commanded => 3

/-- The HELLO body. -/
def helloBody (s : State) (p : Nat) : List W32 :=
  let x := portOf s p
  let u := s.fused.uid.toNat
  let n := x.nbrUid.toNat
  [word [(1, 28), (p, 24), (s.fab.addrState.code, 22), (s.fab.nodeAddr.toNat, 0)], BitVec.ofNat 32 (u >>> 32), BitVec.ofNat 32 u,
   BitVec.ofNat 32 (n >>> 32), BitVec.ofNat 32 n,
   word [(if x.nbrUid = 0#64 then 0 else x.nbrPort, 28), (if s.fab.addrState = .tentative then s.fab.tentAddr.toNat else 0, 16), (x.helloSeq.toNat, 0)]]

/-- HELLO_SEND (R197): at row 0 of every stroke whose SCNT is a multiple of 1,000, after the entry into SYNC, and after a change; those that a change alone asks for at most once per 50 strokes. -/
def helloSend (p : Nat) (s : State) : State :=
  let x := portOf s p
  let due := (s.stk.row = 0 && scnt s % 1000 = 0) || x.helloSync
  let driven := !due && x.helloDue && decide (50 ≤ x.helloGap)
  if !portSynced s p || !(due || driven) then s
  else
    let s := onPort p (fun x => { x with helloSeq := x.helloSeq + 1#16, helloSync := false, helloDue := false, helloGap := if driven then 0 else x.helloGap }) s
    enqueue true p (envelope 1 0 s.fab.nodeAddr.toNat 0 (helloBody s p)) s
def execHelloSend (p : Fin 12) (s : State) : Host.Outcome State Fault Refusal := ok (helloSend p s)

/-- The fields of every HELLO change. -/
def helloChange (s : State) : State := s.onFab fun v => { v with port := v.port.map fun x => (x.1, { x.2 with helloDue := true }) }

/-- The adjacency on a port leaves TWO_WAY for a lower state (R198, R203). -/
def adjDrop (p : Nat) (a : Adj) (s : State) : State :=
  let x := portOf s p
  let s := onPort p (fun x => { x with adj := a }) s
  ctlPurge p (if x.adj = .twoWay then s.onFab fun v => { v with lspPend := true } else s)

/-- The adjacency on a port goes to NONE with the loss of the link, or at a HELLO of another device: the neighbour is no longer known (R198). -/
def adjNone (p : Nat) (s : State) : State :=
  adjDrop p .none (onPort p (fun x => { x with nbrUid := 0#64, nbrPort := 0, nbrAddr := 0#12, helloAge := 0, helloDue := true }) s)

/-- The neighbour of the last HELLO is the one that FAB_PORT_CFG in force asks for (R188, R199). -/
def nbrMatch (s : State) (p : Nat) : Bool :=
  let c := fpCfg s p
  let x := portOf s p
  !fpCheck c || (x.nbrUid ≠ 0#64 && x.nbrAddr ≠ 0#12 && decide (x.nbrAddr.toNat = fpExpAddr c) && decide (x.nbrPort = fpExpPort c))

/-- HELLO_LOSS: 3,000 strokes without a valid HELLO. Only the adjacency is lost: billets continue, and the neighbour stays that of the last HELLO (R197 HEARD_UID, R199; log entry 99). -/
def helloLoss (p : Nat) (s : State) : State :=
  let x := portOf s p
  if x.adj ≠ .none && 3000 ≤ x.helloAge then note evFabHelloLoss p 1 (adjDrop p .none (onPort p (fun x => { x with helloLost := true }) s)) else s
def execHelloLoss (p : Fin 12) (s : State) : Host.Outcome State Fault Refusal := ok (helloLoss p s)

/-! ### Link-state packets (R202, R203) -/

def adjWords (b : AdjBlk) : List W32 :=
  [BitVec.ofNat 32 (b.nbr.toNat >>> 32), BitVec.ofNat 32 b.nbr.toNat, word [(b.port, 28), (b.nbrPort, 24), (b.metric, 16), (flag b.up, 0)]]

def lspWords (l : Lsp) : List W32 :=
  [BitVec.ofNat 32 (l.uid.toNat >>> 32), BitVec.ofNat 32 l.uid.toNat, l.seq, word [(l.state, 30), (l.adj.length, 20), (l.addr, 0)]] ++ l.adj.flatMap adjWords

def w64 (hi lo : W32) : W64 := BitVec.ofNat 64 (hi.toNat * 2 ^ 32 + lo.toNat)

/-- The adjacency blocks from body word `i` on. -/
def adjRead (ws : List W32) : Nat → Nat → List AdjBlk
  | 0, _ => []
  | n + 1, i =>
    let w := ws.getD (i + 2) 0#32
    { nbr := w64 (ws.getD i 0#32) (ws.getD (i + 1) 0#32), port := fld w 31 28, nbrPort := fld w 27 24, metric := fld w 23 16, up := bit w 0 } :: adjRead ws n (i + 3)

/-- The LSP that a body holds, if its length fits its ADJ_COUNT. -/
def lspRead (ws : List W32) : Option Lsp :=
  let w := ws.getD 3 0#32
  let n := fld w 23 20
  if 12 < n ∨ ws.length ≠ 4 + 3 * n then none
  else some { uid := w64 (ws.getD 0 0#32) (ws.getD 1 0#32), seq := ws.getD 2 0#32, state := fld w 31 30, addr := fld w 11 0, adj := adjRead ws n 4 }

/-- An LSP envelope. One that is forwarded keeps the ORIGIN of its first sender (R193); one that this device begins bears its own address. -/
def lspEnvelope (origin : Nat) (l : Lsp) : List W32 := envelope 2 0 origin 0 (lspWords l)
def lspOwn (s : State) (l : Lsp) : List W32 := lspEnvelope s.fab.nodeAddr.toNat l

/-- Address held in this device's LSP: firm or tentative. -/
def ownAddr (s : State) : Nat := if s.fab.addrState = .tentative then s.fab.tentAddr.toNat else (s.fab.nextAddr.getD s.fab.nodeAddr).toNat

/-- This device's LSP: a block for each TWO_WAY adjacency on a port in SYNC or UP (R202). -/
def ownLsp (s : State) : Lsp :=
  { uid := s.fused.uid, seq := s.fab.lseq, state := s.fab.addrState.code, addr := ownAddr s
    adj := (ctlPorts s).map fun p =>
      { nbr := (portOf s p).nbrUid, port := p, nbrPort := (portOf s p).nbrPort, metric := fpMetric (fpCfg s p), up := portUp s p } }

def lspPut (l : Lsp) (db : List Lsp) : List Lsp :=
  if db.any (fun x => x.uid = l.uid) then db.map fun x => if x.uid = l.uid then l else x else db ++ [l]

/-- The content of the LSP has changed in the stroke: it is not that of the last one originated, or it has been another in between (R203). -/
def lspChanged (s : State) : Bool :=
  let l := ownLsp s
  s.fab.lspPend || !(s.fab.lspLast.state = l.state && s.fab.lspLast.addr = l.addr && s.fab.lspLast.adj == l.adj)

/-- LSP_ORIGINATE (R203): at row 0 of the stroke after a change; the refresh of every 50,000 strokes is keyed to SCNT (R38). -/
def lspOriginate (s : State) : State :=
  if !(s.stk.row = 0 && (s.fab.lspDue || (scnt s % 50000 = 0 && 1 ≤ s.fab.lspAge))) then s
  else
    let s := s.onFab fun v => { v with lseq := if v.lseq = 0xFFFFFFFF#32 then 1#32 else v.lseq + 1#32, lspDue := false, lspAge := 0, routesDue := true, lspLast := ownLsp s }
    let l := ownLsp s
    let s := if s.fab.lsdb.length < 2048 || s.fab.lsdb.any (fun x => x.uid = l.uid) then s.onFab fun v => { v with lsdb := lspPut l v.lsdb } else note evFdevLsdbFull 0 1 s
    enqueueAll true (lspOwn s l) (ctlPorts s) s
def execLspOriginate (s : State) : Host.Outcome State Fault Refusal := ok (lspOriginate s)

/-- LSP_AGEING: an LSP not refreshed for 150,000 strokes is removed. -/
def lspAgeing (s : State) : State :=
  let keep := s.fab.lsdb.filter fun l => l.uid = s.fused.uid || decide (l.age < 150000)
  if keep.length = s.fab.lsdb.length then s else s.onFab fun v => { v with lsdb := keep, routesDue := true }
def execLspAgeing (s : State) : Host.Outcome State Fault Refusal := ok (lspAgeing s)

def sendDb (p : Nat) : List Lsp → State → State
  | [], s => s
  | l :: r, s => sendDb p r (enqueue true p (lspOwn s l) s)

/-- UID, adjacency and port that a HELLO body gives of the neighbour (R197, R198). -/
def helloUid (b : List W32) : BitVec 64 := w64 (b.getD 1 0#32) (b.getD 2 0#32)
def helloPort (b : List W32) : Nat := fld (b.getD 0 0#32) 27 24
def helloAdj (s : State) (p : Nat) (b : List W32) : Adj :=
  if w64 (b.getD 3 0#32) (b.getD 4 0#32) = s.fused.uid && fld (b.getD 5 0#32) 31 28 = p then .twoWay else .oneWay

/-- A HELLO of another neighbour than the known one ends the adjacency first (R198). -/
def helloFresh (p : Nat) (b : List W32) (s : State) : State :=
  if (portOf s p).nbrUid ≠ 0#64 && (portOf s p).nbrUid ≠ helloUid b then adjNone p s else s

/-- The neighbour that the port knows from now on, and dNBR_MM (R198, R199). -/
def helloSeen (p : Nat) (b : List W32) (s : State) : State :=
  let old := portOf s p
  let adj := helloAdj s p b
  let s := onPort p (fun x => { x with
    adj := if adj = .twoWay then adj else x.adj, nbrUid := helloUid b, nbrPort := helloPort b, nbrAddr := BitVec.ofNat 12 (fld (b.getD 0 0#32) 11 0), helloAge := 0, helloLost := false
    helloDue := x.helloDue || decide (x.nbrUid ≠ helloUid b ∨ x.nbrPort ≠ helloPort b) }) s
  let s := if old.helloLost then noteClear evFabHelloLoss p s else s
  let s := if adj = .twoWay then s else adjDrop p adj s
  let mm := !nbrMatch s p
  noteChange evFabDNbrMm p old.dNbrMm mm (onPort p (fun x => { x with dNbrMm := mm }) s)

/-- HELLO_RX (R197–R199). A change of the adjacency asks for a new LSP, and an adjacency that becomes TWO_WAY is sent the database (R203). -/
def helloTake (p : Nat) (b : List W32) (s : State) : State :=
  let s := helloFresh p b s
  let old := portOf s p
  let adj := helloAdj s p b
  let t := helloSeen p b s
  if adj = old.adj && helloUid b = old.nbrUid && helloPort b = old.nbrPort then t
  else
    let t := t.onFab fun v => { v with lspPend := v.lspPend || decide (adj = .twoWay) || decide (old.adj = .twoWay) }
    if adj = .twoWay && !isForeign t p then sendDb p t.fab.lsdb t else t

def helloRx (p : Nat) (ws : List W32) (s : State) : State :=
  match takeEnvelope p 1 ws s with
  | none => s
  | some s => if portSynced s p && (envBody ws).length = 6 && fld ((envBody ws).getD 0 0#32) 31 28 = 1 then helloTake p (envBody ws) s else s
def execHelloRx (p : Fin 12) (ws : List W32) (s : State) : Host.Outcome State Fault Refusal := ok (helloRx p ws s)

/-! ### Node addresses (R200, R201) -/

def addrClass (l : Lsp) : Nat := l.state
/-- Another device's LSP holds the address and keeps it against this device (R201). -/
def beatenBy (s : State) (cls addr : Nat) (l : Lsp) : Bool :=
  l.uid ≠ s.fused.uid && l.state ≠ 0 && l.addr = addr && addr ≠ 0 && (decide (cls < addrClass l) || (decide (cls = addrClass l) && decide (l.uid.toNat < s.fused.uid.toNat)))

def addrHeld (s : State) (a : Nat) : Bool := s.fab.lsdb.any fun l => l.uid ≠ s.fused.uid && l.state ≠ 0 && l.addr = a

/-- The next higher free address from `a`, wrapping from 4,094 to 1. -/
def freeAddr (s : State) : Nat → Nat → Nat
  | 0, a => a
  | k + 1, a => if addrHeld s a then freeAddr s k (if 4094 ≤ a then 1 else a + 1) else a

/-- Steps 2 and 3 of R200: a candidate is announced as tentative. -/
def chooseAddr (s : State) : State :=
  let first := if addrCfg s ≠ 0 then addrCfg s else 1 + s.fused.uid.toNat % 4094
  let a := freeAddr s 4094 first
  helloChange (s.onFab fun v => { v with
    addrState := .tentative, tentAddr := BitVec.ofNat 12 a, claimRun := 0, waitSince := none, lspPend := true, nextAddr := if v.nodeAddr = 0#12 then none else some 0#12 })

/-- A port is enabled, in force or pending. -/
def anyPortEnabled (s : State) : Bool :=
  s.fab.portCfg.any (fun x => fpEn x.2) || (waiting opFabPortCfg s).any fun c => bit (c.p 1) 31

/-- ADDR_WAIT_END (R200 step 1). -/
def addrWaitEnd (s : State) : State :=
  match s.fab.waitSince with
  | none => s
  | some t =>
    let lone := decide (t + 100 ≤ s.stk.run) && !anyPortEnabled s
    let noSync := match s.fab.firstEnable with | some e => decide (e + 100 ≤ s.stk.run) && !s.fab.anySync | none => false
    if addrMode s && (s.fab.exchanged || lone || noSync) then chooseAddr s else s
def execAddrWaitEnd (s : State) : Host.Outcome State Fault Refusal := ok (addrWaitEnd s)

/-- ADDR_CLAIMED (R200 step 4): 5,000 strokes without a conflict. The firm address takes effect at the next row 0. -/
def addrClaimed (s : State) : State :=
  if s.fab.addrState = .tentative && 5000 ≤ s.fab.claimRun then
    helloChange (s.onFab fun v => { v with addrState := .claimed, nextAddr := some v.tentAddr, tentAddr := 0#12, lspPend := true })
  else s
def execAddrClaimed (s : State) : Host.Outcome State Fault Refusal := ok (addrClaimed s)

/-- A conflict met in the database under ADDR_MODE 1: the device that yields restarts from step 2. -/
def addrConflict (s : State) : State :=
  if addrMode s && (s.fab.addrState = .tentative || s.fab.addrState = .claimed) && s.fab.lsdb.any (beatenBy s s.fab.addrState.code (ownAddr s)) then chooseAddr s else s

/-- Row 0: a change of the firm address takes effect, and under ADDR_MODE 0 the commanded address stands or yields (R201). -/
def addrRow0 (s : State) : State :=
  let old := s.fab.nodeAddr
  let s := s.onFab fun v => { v with nodeAddr := v.nextAddr.getD v.nodeAddr, nextAddr := none }
  let s :=
    if addrMode s || s.fab.addrState ≠ .commanded then s
    else
      let yields := s.fab.lsdb.any (beatenBy s 3 (addrCfg s))
      let s := noteChange evFdevAddrConflict 0 s.fab.conflict yields s
      s.onFab fun v => { v with conflict := yields, nodeAddr := if yields then 0#12 else BitVec.ofNat 12 (addrCfg s) }
  if s.fab.nodeAddr = old then s else helloChange s

/-- LSP_RX (R203). -/
def lspTake (p origin : Nat) (l : Lsp) (s : State) : State :=
  let s := s.onFab fun v => { v with exchanged := true }
  let stored := s.fab.lsdb.find? fun x => x.uid = l.uid
  if l.uid = s.fused.uid && decide (s.fab.lseq.toNat ≤ l.seq.toNat) then s.onFab fun v => { v with lseq := l.seq, lspDue := true }
  else if l.uid = s.fused.uid then (match stored with | some x => enqueue true p (lspOwn s x) s | none => s)
  else
    let newer := match stored with | some x => decide (x.seq.toNat < l.seq.toNat) | none => true
    if !newer then
      (match stored with
       | some x => if l.seq.toNat < x.seq.toNat then enqueue true p (lspOwn s x) s else s
       | none => s)
    else if stored.isNone && decide (2048 ≤ s.fab.lsdb.length) then note evFdevLsdbFull 0 1 s
    else
      let same := match stored with | some x => x.state = l.state && x.addr = l.addr && x.adj == l.adj | none => false
      let s := s.onFab fun v => { v with lsdb := lspPut l v.lsdb, routesDue := v.routesDue || !same }
      addrConflict (enqueueAll true (lspEnvelope origin l) ((ctlPorts s).filter (· ≠ p)) s)

def lspRx (p : Nat) (ws : List W32) (s : State) : State :=
  match takeEnvelope p 2 ws s with
  | none => s
  | some s =>
    if !(ctlPorts s).contains p then s
    else match lspRead (envBody ws) with
      | some l => lspTake p (envOrigin ws) l s
      | none => s
def execLspRx (p : Fin 12) (ws : List W32) (s : State) : Host.Outcome State Fault Refusal := ok (lspRx p ws s)

/-! ### Routes (R204, R205) -/

/-- A route under construction: summed METRIC, hops, node address of the first-hop neighbour, local port; compared in this order. -/
structure Path where
  cost : Nat
  hops : Nat
  nbr : Nat
  port : Nat
  deriving DecidableEq

def Path.better (a b : Path) : Bool :=
  if a.cost ≠ b.cost then decide (a.cost < b.cost) else if a.hops ≠ b.hops then decide (a.hops < b.hops)
  else if a.nbr ≠ b.nbr then decide (a.nbr < b.nbr) else decide (a.port < b.port)

def pathOf (t : List (W64 × Path)) (u : W64) : Option Path := (t.find? fun x => x.1 = u).map Prod.snd
def putPath (t : List (W64 × Path)) (u : W64) (x : Path) : List (W64 × Path) :=
  match pathOf t u with
  | none => t ++ [(u, x)]
  | some y => if x.better y then t.map fun z => if z.1 = u then (u, x) else z else t

/-- Both LSPs list the link with matching ports (R204). -/
def linkBack (db : List Lsp) (u : W64) (b : AdjBlk) : Option Lsp :=
  (db.find? fun l => l.uid = b.nbr).filter fun l => l.adj.any fun c => c.nbr = u && c.port = b.nbrPort && c.nbrPort = b.port

def firmOf (l : Lsp) : Nat := if 2 ≤ l.state then l.addr else 0

/-- One pass over every link of the database from the device `own`. -/
def relaxLinks (db : List Lsp) (own u : W64) : List AdjBlk → List (W64 × Path) → List (W64 × Path)
  | [], t => t
  | b :: r, t =>
    match linkBack db u b, (if u = own then some (Path.mk 0 0 0 0) else pathOf t u) with
    | some l, some x =>
      let y := if u = own then Path.mk b.metric 1 (firmOf l) b.port else { x with cost := x.cost + b.metric, hops := x.hops + 1 }
      relaxLinks db own u r (if l.uid = own then t else putPath t l.uid y)
    | _, _ => relaxLinks db own u r t

def relaxAll (db : List Lsp) (own : W64) : List Lsp → List (W64 × Path) → List (W64 × Path)
  | [], t => t
  | l :: r, t => relaxAll db own r (relaxLinks db own l.uid l.adj t)

def relaxN (db : List Lsp) (own : W64) : Nat → List (W64 × Path) → List (W64 × Path)
  | 0, t => t
  | n + 1, t => relaxN db own n (relaxAll db own db t)

def routeReset : W32 := 0xF0000000#32

/-- The route table that the database gives. -/
def routeTable (s : State) : List (Nat × W32) :=
  let db := s.fab.lsdb
  let t := relaxN db s.fused.uid db.length []
  let own := ownLsp s
  let put := fun (r : List (Nat × W32)) (x : W64 × Path) =>
    match db.find? fun l => l.uid = x.1 with
    | some l =>
      let a := firmOf l
      let w := word [(x.2.port, 28), (min 255 x.2.hops, 20), (x.2.cost, 0)]
      let old := tget routeReset r a
      if a = 0 || 4095 ≤ a || a = firmOf own then r
      else if fld old 31 28 = 15 || decide (x.2.cost < fld old 19 0) then tset routeReset r a w else r
    | none => r
  let r := t.foldl put []
  if firmOf own = 0 then r else tset routeReset r (firmOf own) 0xE0000000#32

/-- ROUTE_RECOMPUTE (R205): the new table takes effect at a row 0. -/
def routeRecompute (s : State) : State :=
  if s.fab.routesDue then s.onFab fun v => { v with routesNew := some (routeTable s), routesDue := false } else s
def execRouteRecompute (s : State) : Host.Outcome State Fault Refusal := ok (routeRecompute s)

/-- A recomputed route table at its row 0. A finding of the scrubber in the old one ends with it (R433, R434). -/
def routesRow0 (s : State) : State :=
  match s.fab.routesNew with
  | some t =>
    let s := if s.integ.flips.any fun x => x.1 / 2 ^ 24 = 10 && x.2 = allCheck then noteClear evIntScrubUe 10 s else s
    (cleanWords 10 0 4096 s).onFab fun v => { v with routes := t, routesNew := none }
  | none => s

def routeOf (s : State) (a : Nat) : W32 := tget routeReset s.fab.routes a

/-! ### Packets of the control channel (R91–R93, R195, R196) -/

def pktTarget (ws : List W32) : Nat := fld (ws.getD 0 0#32) 23 12
def pktSource (ws : List W32) : Nat := fld (ws.getD 0 0#32) 11 0
def pktReply (ws : List W32) : Bool := bit (ws.getD 0 0#32) 27

/-- Sends a packet along the route to its TARGET; without a route, or with a slag-marked entry, it is discarded and counted (R91, R429). -/
def routePacket (hops origin : Nat) (ws : List W32) (s : State) : State :=
  let a := pktTarget ws
  let rd := readWord s 10 a (routeOf s a)
  let s := note evIntChkCorr 0 rd.mends s
  if rd.slag then note evCmdFwdDrop 0 1 (tableSlag 10 a s)
  else
    let p := fld rd.val 31 28
    if 12 ≤ p then note evCmdFwdDrop 0 1 s
    else if !(ctlPorts s).contains p then note evCmdFwdDrop 0 1 s
    else enqueue false p (envelope 3 hops origin 0 ws) s

/-- A packet for this device enters CQ5; one for which CQ5 lacks room is rewound without a reply (R78, R91). -/
def fabricCommand (ws : List W32) (s : State) : State :=
  if 8192 < qfill s 5 + ws.length || !lengthOk ws || lengthField ws ≠ ws.length || !crcOk ws then note evCmdCmdqRewind 5 1 s else cqPush 5 ws s

/-- The record of a broadcast, or of a FAB_PATH_SET, which is kept as for a broadcast (R94, R209). -/
def recBroadcast (r : FwdRec) : Bool := decide (r.target = 4095#12) || decide (r.opcode.toNat = opFabPathSet.code)

/-- A record that matches a reply by TAG and by the replying node; a broadcast record matches any source (R92, R93). The reply is addressed to the address the record was made under (R201). -/
def matchesReply (ws : List W32) (r : FwdRec) : Bool :=
  decide (r.own.toNat = pktTarget ws) && decide (r.tag.toNat = fld (ws.getD 1 0#32) 15 0) && (recBroadcast r || decide (r.target.toNat = pktSource ws))

/-- A reply from the fabric closes the record that it matches, of several the oldest (R93; DESIGN CHOICE, log entry 90), also where the reply itself finds no room and is discarded (DESIGN CHOICE, log entry 116). -/
def fabricReply (ws : List W32) (s : State) : State :=
  match s.cmd.fwd.find? (matchesReply ws) with
  | none => note evCmdFwdLate 0 1 s
  | some r =>
    let s := if recBroadcast r then s else s.onCmd fun v => { v with fwd := v.fwd.erase r }
    if rqRoom (r.queue + 6) ws.length s then rqPush (r.queue + 6) ws s else note evCmdRplDrop 0 1 s

/-- A packet from the fabric is addressed to this device: to its firm address or, a reply, to the address an open record was made under (R91, R201). -/
def forMe (s : State) (ws : List W32) : Bool :=
  let t := pktTarget ws
  decide (t ≠ 0) && (decide (t = s.fab.nodeAddr.toNat) || (pktReply ws && s.cmd.fwd.any fun r => decide (r.own.toNat = t)))

/-- FABRIC_REPLY_RX: `ws`, the oldest reply that has arrived from the fabric, is matched. -/
def fabricReplyNext (ws : List W32) (s : State) : State :=
  if s.cmd.fabRpl.head? = some ws then fabricReply ws (s.onCmd fun v => { v with fabRpl := v.fabRpl.tail }) else s
def execFabricReplyRx (ws : List W32) (s : State) : Host.Outcome State Fault Refusal := ok (fabricReplyNext ws s)

/-- The broadcast of an ORIGIN is new: the record with it, or none (R196). -/
def bcNew (bseq : Nat) (r : BcRec) : Option BcRec :=
  let up := (bseq + 65536 - r.high) % 65536
  let down := (r.high + 65536 - bseq) % 65536
  if 1 ≤ up ∧ up ≤ 32767 then
    let old := (r.seen.toNat * 2 + 1) * 2 ^ (up - 1)
    some { r with high := bseq, seen := BitVec.ofNat 32 (if 33 ≤ up then 0 else old), age := 0 }
  else if 1 ≤ down ∧ down ≤ 32 then
    (if r.seen.getLsbD (down - 1) then none else some { r with seen := r.seen ||| BitVec.ofNat 32 (1 <<< (down - 1)), age := 0 })
  else none

/-- A broadcast envelope is taken: none where it is no new one. -/
def bcTake (origin bseq : Nat) (s : State) : Option State :=
  match s.fab.bc.find? fun r => r.origin = origin with
  | none => some (s.onFab fun v => { v with bc := v.bc ++ [{ origin := origin, high := bseq }] })
  | some r => (bcNew bseq r).map fun q => s.onFab fun v => { v with bc := v.bc.map fun x => if x.origin = origin then q else x }

/-- BROADCAST_RECORD_EXPIRY: 2,500 strokes after its last broadcast. -/
def bcExpiry (s : State) : State := s.onFab fun v => { v with bc := v.bc.filter fun r => decide (r.age < 2500) }
def execBroadcastRecordExpiry (s : State) : Host.Outcome State Fault Refusal := ok (bcExpiry s)

/-- The ports on which a new broadcast that arrives on port `p` is forwarded (R196). -/
def floodPorts (p : Nat) (s : State) : List Nat := (ctlPorts s).filter (· ≠ p)

/-- Floods a broadcast packet on ports other than `p`. -/
def floodOn (p : Nat) (ws : List W32) (s : State) : State :=
  enqueueAll false (envelope 3 (envHops ws - 1) (envOrigin ws) (envBseq ws) (envBody ws)) (floodPorts p s) s

/-- POLAST_ENVELOPE_RX (R91, R195, R196). An envelope with no hops left is discarded where it would be forwarded, a broadcast unexecuted and unrecorded (log entry 99). A reply for this device waits for FABRIC_REPLY_RX. -/
def polastTake (p : Nat) (ws : List W32) (s : State) : State :=
  let pk := envBody ws
  let t := pktTarget pk
  if !pktReply pk && pktSource pk = 0 then note evCmdFwdDrop 0 1 s
  else if t = 4095 && !pktReply pk then
    match bcTake (envOrigin ws) (envBseq ws) s with
    | none => note evFabBcDup p 1 s
    | some t => if envHops ws = 0 && !(floodPorts p s).isEmpty then note evFabHopExpired p 1 s else fabricCommand pk (floodOn p ws t)
  else if t = 0 then note evCmdFwdDrop 0 1 s
  else if forMe s pk then (if pktReply pk then s.onCmd fun v => { v with fabRpl := v.fabRpl ++ [pk] } else fabricCommand pk s)
  else if envHops ws = 0 then note evFabHopExpired p 1 s
  else routePacket (envHops ws - 1) (envOrigin ws) pk s

def polastRx (p : Nat) (ws : List W32) (s : State) : State :=
  match takeEnvelope p 3 ws s with
  | none => s
  | some s => if (ctlPorts s).contains p then polastTake p ws s else s
def execPolastEnvelopeRx (p : Fin 12) (ws : List W32) (s : State) : Host.Outcome State Fault Refusal := ok (polastRx p ws s)

/-- The record of a broadcast of this device's own. -/
def bcOwn (s : State) : State := match bcTake s.fab.nodeAddr.toNat s.fab.bseq.toNat s with | some t => t | none => s

/-- A command of this device's host goes to the fabric: its packet with SOURCE rewritten, unicast or broadcast. A broadcast of its own that returns over a loop is not new (R92, R196). -/
def sendCommand (ws : List W32) (s : State) : State :=
  if pktTarget ws = 4095 then
    let s := s.onFab fun v => { v with bseq := v.bseq + 1#16 }
    let s := bcOwn s
    enqueueAll false (envelope 3 (hopLimit s) s.fab.nodeAddr.toNat s.fab.bseq.toNat ws) (ctlPorts s) s
  else routePacket (hopLimit s) s.fab.nodeAddr.toNat ws s

/-- The oldest reply of RQ5 goes to the fabric (R76, R91). -/
def drainRq5 (s : State) : State :=
  match rqOf s 5 with
  | [] => s
  | p :: _ => routePacket (hopLimit s) s.fab.nodeAddr.toNat p (rqPop 5 s)

/-! ### FAB_PATH_SET (R207–R209) -/

def pathRecords (rq : Req) : Nat := fld (rq.p 0) 29 27
def pathCount (rq : Req) : Nat := fld (rq.p 0) 14 0
def recNode (rq : Req) (k : Nat) : Nat := fld (rq.p (1 + 2 * k)) 31 20
def recIn (rq : Req) (k : Nat) : Nat := fld (rq.p (1 + 2 * k)) 18 0
def recOut (rq : Req) (k : Nat) : Nat := fld (rq.p (2 + 2 * k)) 18 0

/-- The map entries of a hop: destination OUT_POS + e as CONNECT from IN_POS + e. -/
def pathEntry (rq : Req) (k e : Nat) : W32 :=
  let p := recIn rq k + e
  word [(p / 16384, 27), (p % 16384, 13), (1, 10)]
def pathEntries (rq : Req) (k : Nat) : List W32 := (List.range (pathCount rq)).map (pathEntry rq k)

def pathRangeOk (rq : Req) (s : State) (k : Nat) : Bool :=
  let n := pathCount rq
  let i := recIn rq k
  let o := recOut rq k
  decide (o / 16384 = (o + n - 1) / 16384) && decide (i / 16384 = (i + n - 1) / 16384) && (List.range n).all fun e => entryOk s (o + e) (pathEntry rq k e)

/-- Positions on the two ends of a link: OUT_POS in this device's fabric window Fp, IN_POS in the neighbour's window Fq, with the same billet number. -/
def linkMatch (s : State) (mine : Nat) (node theirs : Nat) : Bool :=
  let w := mine / 16384
  let p := w - 14
  decide (14 ≤ w) && decide (w ≤ 25) && portUp s p && decide ((portOf s p).adj = .twoWay) && decide ((portOf s p).nbrAddr.toNat = node) && decide (node ≠ 0)
    && decide (theirs / 16384 = 14 + (portOf s p).nbrPort) && decide (theirs % 16384 = mine % 16384)

/-- The parameter checks of a hop (R207, R208). -/
def pathPar (k : Nat) (rq : Req) (s : State) : List Check :=
  let r := pathRecords rq
  [countIn 5 15 rq, onlyBits 0 0x78007FFF#32 rq, wordOk 0 (decide (2 ≤ r) && decide (1 ≤ pathCount rq) && decide (pathCount rq ≤ 15360)), countIs (1 + 2 * r) rq]
    ++ (List.range r).flatMap (fun j => [onlyBits (1 + 2 * j) 0xFFF7FFFF#32 rq, onlyBits (2 + 2 * j) 0x0007FFFF#32 rq])
    ++ [wordOk (1 + 2 * k) (decide (k < r) && decide (recNode rq k = s.fab.nodeAddr.toNat) && decide (s.fab.nodeAddr ≠ 0#12)),
        wordOk (1 + 2 * k) (k ≠ 0 || decide (rq.tgt = 0#12) || decide (rq.tgt.toNat = recNode rq 0)), wordOk (2 + 2 * k) (pathRangeOk rq s k),
        wordOk (2 + 2 * k) (decide (r ≤ k + 1) || linkMatch s (recOut rq k) (recNode rq (k + 1)) (recIn rq (k + 1))),
        wordOk (1 + 2 * k) (k = 0 || linkMatch s (recIn rq k) (recNode rq (k - 1)) (recOut rq (k - 1)))]

/-- The shadow as the hop leaves it, with SYNC_FIRST done. -/
def pathSync (rq : Req) (s : State) : State :=
  if bit (rq.p 0) 30 && s.anvil.shadow = .stale then
    (cleanWords (shadowTable s) 0 524288 s).onAnvil fun v =>
      if v.activeB then { v with bankA := v.bankB, goldA := v.bankB, shadow := .synced } else { v with bankB := v.bankA, goldB := v.bankA, shadow := .synced }
  else s

def pathWrite (k : Nat) (rq : Req) (s : State) : State :=
  (writeShadow (recOut rq k) (pathEntries rq k) (pathSync rq s)).onAnvil fun v => { v with shadow := if v.shadow = .synced then .modified else v.shadow }

/-- In TEMPER the read-back of the entries of a hop, or of the bank that SYNC_FIRST copies, differs (R398). -/
def pathBack (k : Nat) (rq : Req) (s : State) : Bool :=
  backDiffers (shadowTable s) (recOut rq k) (pathCount rq) s || (bit (rq.p 0) 30 && decide (s.anvil.shadow = .stale) && backDiffers (shadowTable s) 0 524288 s)

/-- The checks of steps 12 to 14 (R208). -/
def pathLate (k : Nat) (rq : Req) (s : State) : List Check :=
  [mapBusy s, need (!rq.cmt || decide (inUse (shadowBank (pathWrite k rq s)) ≤ limitAt s rq.commit.toNat)) { st := .capacity, detail := 2 }]

/-- A record of a forwarded command (R92). -/
def addRecord (q : Fin 6) (tag : W16) (target src : W12) (opcode : Nat) (s : State) : State :=
  s.onCmd fun v => { v with fwd := v.fwd ++ [{ queue := q, tag := tag, target := target, src := src, opcode := BitVec.ofNat 16 opcode, own := s.fab.nodeAddr, since := s.stk.run }] }

/-- The checks of a record that would be made (R92). Where both fail, BAD_PARAM is answered before CAPACITY, in the order of R95 (DEDUCED, log entry 89). -/
def recordCheck (q : Fin 6) (tag : W16) (target : W12) (s : State) : List Check :=
  [causeOk 0x8001 (!s.cmd.fwd.any fun r => r.queue = q && r.tag = tag && r.target = target), need (decide (s.cmd.fwd.length < 1024)) { st := .capacity, detail := 1 }]

/-- The command's packet with SOURCE = `src` (R92); its CMAC does not cover SOURCE (R70). -/
def rebuild (opcode : Nat) (rq : Req) (src : Nat) (key : Option (BitVec 256)) : List W32 :=
  let n := 4 + rq.params.length + (if rq.mac.isSome then 6 else 0) + 1
  let h := [word [(1, 28), (flag rq.cmt, 26), (flag rq.mac.isSome, 25), (flag rq.quiet, 24), (rq.tgt.toNat, 12), (src, 0)], word [(opcode, 16), (rq.tag.toNat, 0)],
    word [(n, 19), (rq.rsv.toNat, 16), (hi16 rq.commit, 0)], BitVec.ofNat 32 (lo32 rq.commit)]
  let b := h ++ rq.params
  let b := match rq.mac with
    | some m =>
      let a := b ++ [word [(hi16 m.seq, 16), (m.rsv.toNat, 3), (m.slot, 0)], BitVec.ofNat 32 (lo32 m.seq)]
      a ++ macOver (key.getD 0#256) 0xFFFFF000#32 a
    | none => b
  b ++ [crcWords b]

/-- Step 3 of R208 and the forwarding to hop k + 1 in a PATH_HOP envelope: `hops` and `origin` are the HOPS_LEFT and ORIGIN it is sent with (R195). -/
def pathNext (k level hops origin : Nat) (rq : Req) (packet : List W32) (s : State) : State :=
  let s := if rq.cmt then s.onCommits (· ++ [{ stroke := some rq.commit, opcode := opMapCommit.code, tag := rq.tag, params := [] }]) else s
  if pathRecords rq ≤ k + 1 then s
  else enqueue false (recOut rq k / 16384 - 14) (envelope 4 hops origin 0 (word [(level, 30), (k + 1, 0)] :: packet)) s

/-- FAB_PATH_SET at hop 0 (R209). A command of this device's host makes a forwarding record, kept as for a broadcast. -/
def doFabPathSet (rq : Req) (s : State) : State :=
  let rec0 := rq.cq ≠ 5 && !rq.quiet
  command opFabPathSet rq
    { par := pathPar 0 rq s, late := pathLate 0 rq s ++ (if rec0 then recordCheck rq.cq rq.tag rq.tgt s else []) } s
    fun s1 =>
      let src := if rq.cq ≠ 5 then s1.fab.nodeAddr.toNat else rq.src.toNat
      let s2 := if rec0 then addRecord rq.cq rq.tag rq.tgt rq.src opFabPathSet.code s1 else s1
      if pathBack 0 rq s then internalAnswer opFabPathSet (s1.onAnvil fun v => { v with backBad := [] })
      else .done (pathNext 0 (min 2 (packetLevel rq s)) (hopLimit s1) s1.fab.nodeAddr.toNat rq (rebuild opFabPathSet.code rq src (keyOf rq s)) (pathWrite 0 rq s2)) [0#32]
def execFabPathSet (rq : Req) (s : State) : Host.Outcome State Fault Refusal := ok (doFabPathSet rq s)

/-- The request that a packet holds, taken from queue `q`, its authentication block left out. -/
def packetReq (q : Fin 6) (ws : List W32) : Req :=
  let w0 := ws.getD 0 0#32
  let w2 := ws.getD 2 0#32
  { cq := q, quiet := bit w0 24, src := BitVec.ofNat 12 (fld w0 11 0), tgt := BitVec.ofNat 12 (fld w0 23 12), tag := BitVec.ofNat 16 (fld (ws.getD 1 0#32) 15 0)
    cmt := bit w0 26, commit := w48 w2 (ws.getD 3 0#32), rsv := BitVec.ofNat 3 (fld w2 18 16), mac := none
    params := ((ws.drop 4).take (ws.length - 5 - (if bit w0 25 then 6 else 0))) }

/-- A PATH_HOP that is accepted executes at the carried level, without a CMAC check (R209); one with no hops left that this device would forward is discarded (R195). -/
def pathHop (p level k hops origin : Nat) (packet : List W32) (s : State) : State :=
  let rq := packetReq 5 packet
  let o := opFabPathSet
  let refused := firstFail ([need (opcodeLevel o s ≤ level) { st := .notPermitted }, modeCheck o s, lowestFail (headerCheck o rq s :: pathPar k rq s)] ++ pathLate k rq s ++ [tableCheck rq s])
  match refused with
  | some r => reply o.code rq none r [] s
  | none =>
    if hops = 0 && decide (k + 1 < pathRecords rq) then note evFabHopExpired p 1 s
    else if pathBack k rq s then
      let s := internalEntry o.code (s.onAnvil fun v => { v with backBad := [] })
      reply o.code rq none (internalRej s) [] s
    else reply o.code rq none { st := .ok } [BitVec.ofNat 32 k] (pathNext k level (hops - 1) origin rq packet (pathWrite k rq s))

/-- PATH_HOP_RX. -/
def pathHopRx (p : Nat) (ws : List W32) (s : State) : State :=
  match takeEnvelope p 4 ws s with
  | none => s
  | some s =>
    let b := envBody ws
    let level := fld (b.getD 0 0#32) 31 30
    let k := fld (b.getD 0 0#32) 2 0
    let pk := b.drop 1
    if !(portUp s p && twoWay s p) || !(level = 1 || level = 2) || decide (rawOpcode pk ≠ opFabPathSet.code) || !lengthOk pk || !crcOk pk then note evCmdFwdDrop 0 1 s
    else pathHop p level k (envHops ws) (envOrigin ws) pk s
def execPathHopRx (p : Fin 12) (ws : List W32) (s : State) : Host.Outcome State Fault Refusal := ok (pathHopRx p ws s)

/-! ### Port states (R185–R191) -/

/-- The port enters TRAIN: EXT_FAIL ends, and lanes in dLLOS are tested at once (R187, R316, R317). -/
def enterTrain (p : Nat) (s : State) : State :=
  let s := adjNone p (onPort p (fun x => { x with state := .train, tr := {}, huntRun := 0, validRun := 0, badRun := 0, lastRow := none, aligner := [], released := none, alignDue := false, slip := false, lanes6Tx := false, rxUse := [], ccIn := none, ccOut := [], q0 := [], q1 := [] }) s)
  eachLane (fun l s =>
    let s := onLane (fabLane p l) (fun x => { x with extFail := false }) s
    if (laneOf s (fabLane p l)).los then startTest (fabLane p l) s else s) (List.range 8) s

/-- The port goes to DOWN (R187, R189). -/
def enterDown (p : Nat) (s : State) : State :=
  let x := portOf s p
  let s := noteChange evFabDFlos p x.dFlos false (noteChange evFabDSbdi p x.dSbdi false (noteChange evFabDSdeg p x.dSdeg false (noteChange evFabDNbrMm p x.dNbrMm false s)))
  let s := if x.helloLost then noteClear evFabHelloLoss p s else s
  let s := laneIdle (fabLane p 0) 8 (adjNone p s)
  onPort p (fun x => { ({} : PortSt) with helloSeq := x.helloSeq, helloGap := x.helloGap }) s

/-- The port enters SYNC: dFLOS clears, a HELLO is due, and A waits for the measurement of d (R185, R189, R197). -/
def enterSync (p : Nat) (s : State) : State :=
  let s := if (portOf s p).dFlos then pmDefect 6 p false s else s
  let s := noteChange evFabDFlos p (portOf s p).dFlos false s
  (onPort p (fun x => { x with state := .sync, dFlos := false, alignDue := true, aligner := [], released := none, slip := false, helloSync := true, thetaBad := 0, badRun := 0, ccIn := none }) s).onFab
    fun v => { v with anySync := true }

/-- dFLOS (R189, R191). -/
def declareFlos (p : Nat) (s : State) : State :=
  let s := noteChange evFabDFlos p (portOf s p).dFlos true s
  let s := adjNone p (onPort p (fun x => { x with state := .hunt, dFlos := true, sfHeld := true, ccIn := none, huntRun := 0, validRun := 0, badRun := 0, aligner := [], released := none, slip := false, alignDue := false, align := 0 }) s)
  let s := if s.root.upstream = p then declareLoss s else s
  pmDefect 6 p false (sourceLost (8 + p) s)

/-- FAB_HUNT_TIMEOUT: 2,500 strokes in HUNT without SYNC, the stroke of the entry not counted (R187, and the example of 10_client_and_lanes). -/
def huntTimeoutFab (p : Nat) (s : State) : State :=
  if (portOf s p).state = .hunt && 2501 ≤ (portOf s p).huntRun then enterTrain p s else s
def execFabHuntTimeout (p : Fin 12) (s : State) : Host.Outcome State Fault Refusal := ok (huntTimeoutFab p s)

/-- Row 0, one port: measurement of the link, A, and the changes between SYNC and UP (R185, R188). -/
def portRow0 (p : Nat) (s : State) : State :=
  let ann := (s.root.anns.find? fun x => x.1 = p).map Prod.snd
  let s := match ann with
    | some a =>
      let d := (annDelay a).toNat
      onPort p (fun x => { x with
        delay := d, theta := annTheta a, thetaBad := if (annTheta a).natAbs ≤ 8000 then 0 else x.thetaBad + 1
        align := if x.alignDue then ceilDiv (d + 32000) 16000 else x.align, alignDue := false }) s
    | none => s
  let x := portOf s p
  let named := match ann with
    | some a => (s.root.sent.find? fun y => y.1 = p).any fun y => fld (y.2.getD 0 0#32) 23 12 = (annRoot a).2
    | none => false
  let nbrOk := nbrMatch s p
  if isForeign s p then (if x.state = .up then onPort p (fun x => { x with state := .sync }) s else s)
  else if x.state = .sync && named && !x.alignDue && (x.theta.natAbs ≤ 8000) && x.delay ≤ 6000000 && nbrOk then
    onPort p (fun x => { x with state := .up, thetaBad := 0, sfHeld := false }) s
  else if x.state = .up && (3 ≤ x.thetaBad || !nbrOk) then
    onPort p (fun x => { x with state := .sync, thetaBad := 0 }) s
  else s

def eachPort (f : Nat → State → State) : List Nat → State → State
  | [], s => s
  | p :: r, s => eachPort f r (f p s)

/-- Timers of the fabric over the stroke that ends, and the switch of a trained transmitter to data at row 0 (R315). -/
def fabStroke (s : State) : State :=
  let changed := lspChanged s
  let s := s.onFab fun v => { v with
    lspDue := v.lspDue || changed, lspPend := false
    port := v.port.map fun y => (y.1, let x := y.2; { x with
      huntRun := if x.state = .hunt then x.huntRun + 1 else 0, tr := { x.tr with run := x.tr.run + 1 }, helloAge := x.helloAge + 1, helloGap := satAdd 50 x.helloGap 1, wire := [] })
    lspAge := v.lspAge + 1, claimRun := v.claimRun + 1
    lsdb := v.lsdb.map fun l => { l with age := l.age + 1 }
    bc := v.bc.map fun r => { r with age := r.age + 1 } }
  eachPort (fun p s =>
    let x := portOf s p
    let both := txBoth s p
    let s := if x.dFlos then pmDefect 6 p false s else s
    if (x.state = .train || x.state = .hunt) && !x.tr.data && 8 ≤ x.tr.readyRun then
      onPort p (fun x => { x with lanes6Tx := (chooseSet both).length = 6, tr := { x.tr with data := true, sent := chooseSet both } }) s
    else s) (List.range 12) s

/-- dSDEG at the end of a second (R211). -/
def sdegSecond (p : Nat) (s : State) : State :=
  let c := fpCfg s p
  let x := portOf s p
  let bad := fpSdegThr c < x.errSec
  let deg := if bad then x.degRun + 1 else 0
  let good := if bad then 0 else x.okRun + 1
  let now := if x.dSdeg then decide (good < fpSdegM c) else decide (fpSdegM c ≤ deg)
  noteChange evFabDSdeg p x.dSdeg now (onPort p (fun x => { x with errSec := 0, degRun := deg, okRun := good, dSdeg := now }) s)

/-! ### Link rows sent (R178–R184) -/

/-- The 19 control-channel bytes of a row, and CC_PTR. -/
def ccTake (x : PortSt) : List Byte × Byte :=
  let l := x.ccOut.take 19
  ((List.range 19).map fun i => (l.getD i (0#8, false)).1, match l.findIdx? Prod.snd with | some i => BitVec.ofNat 8 i | none => 0xFF#8)

/-- Egress cells of a port's window, billet by billet. -/
def windowCells (w n : Nat) (t : List (Nat × Cell)) : List (Nat × Cell) :=
  (t.filter fun x => decide (w * 16384 ≤ x.1) && decide (x.1 < w * 16384 + n)).map fun x => (x.1 - w * 16384, x.2)

def slagEntry (x : Nat × Cell) : W16 := BitVec.ofNat 16 (flag x.2.s0 * 32768 + flag x.2.s1 * 16384 + x.1)

/-- The bytes of the link row that a port sends in this row (R178, R180): the billets that left its window in the row before, as stored; on a FOREIGN port UNEQUIPPED fill without slag entries (R187). -/
def linkRowBytes (p : Nat) (s : State) : List Byte × List W16 :=
  let x := portOf s p
  let six := x.lanes6Tx
  let foreign := isForeign s p && portSynced s p
  let n := if six then 11520 else 15360
  let cells := if foreign then [] else windowCells (14 + p) n s.rows.egress
  let marked := cells.filter fun c => cellSlag c.2
  let max := if six then 448 else 608
  let sl := (marked.take max).map slagEntry
  let h3 := bytesOfNat 2 (scnt s % 65536) ++ bytesOfNat 1 s.stk.row
  let flags := x.sbei * 16 + flag (!portSynced s p || x.dFlos) * 8 + flag six * 4 + flag foreign * 2 + flag (portUp s p)
  let cc := ccTake x
  let sa := if s.stk.row = 0 then bytesOfWords (((s.root.sent.find? fun y => y.1 = p).map Prod.snd).getD (List.replicate 8 0#32)) else List.replicate 32 0#8
  let head := h3 ++ [crc8 h3, x.txBip] ++ bytesOfNat 1 flags ++ bytesOfNat 2 (flag (decide (max < marked.length)) * 32768 + sl.length) ++ [cc.2] ++ cc.1 ++ sa ++ List.replicate 4 0#8
  let list := (sl ++ List.replicate (max - sl.length) 0#16).flatMap fun e => bytesOfNat 2 e.toNat
  let billets := (List.range n).flatMap fun b =>
    let c := tget {} cells b
    [c.b0, c.b1]
  (head ++ list ++ billets, sl)

/-- The lanes of the sent set carry the symbols of a row, each with its transition stuffing; another lane of the port is idle (R309, R310). Stuffed levels count TX_STUFF. -/
def sendLanes (p : Nat) (syms : List Nat) : List Nat → State → State
  | [], s => s
  | l :: r, s =>
    let sent := (portOf s p).tr.sent
    let x := laneOf s (fabLane p l)
    if lnLoop x = 2 then sendLanes p syms r s
    else if !sent.contains l then sendLanes p syms r (onLane (fabLane p l) (fun x => { x with out := [], lvlRun := 0 }) s)
    else
      let t := stuffLevels x.lvl x.lvlRun ((laneShare sent.length (sent.idxOf l) syms).flatMap symbolLevels)
      sendLanes p syms r (tally evFabTxStuff p t.n (onLane (fabLane p l) (fun x => { x with out := t.out, lvl := t.last, lvlRun := t.run }) s))

def trainKey (p : Nat) : TrainPort := .fab (Fin.ofNat 12 p)

/-- What a port sends in a row: nothing in DOWN, training frames until its transmitter switches to data, then one link row (R178, R187, R315). -/
def fabSend (p : Nat) (s : State) : State :=
  let x := portOf s p
  if x.state = .down then (if x.txRow.isEmpty then s else onPort p (fun x => { x with txRow := [], txSlag := [], sbei := 0 }) s)
  else if !x.tr.data then sendTraining (trainKey p) (onPort p (fun x => { x with txRow := [], txSlag := [], sbei := 0 }) s)
  else
    let r := linkRowBytes p s
    sendLanes p (rowSymbols r.1) (List.range 8)
      (onPort p (fun x => { x with txRow := r.1, txSlag := r.2, txBip := bip8 r.1, sbei := 0, ccOut := x.ccOut.drop 19 }) s)

/-! ### Link rows received (R183–R190) -/

/-- A link row as the lane coding delivers it: decoded, or missing (R183). -/
structure RowGot where
  missing : Bool := false
  off : Int := 0
  row : RowRx := {}
  arr : Int := 0

def rowByte (r : RowGot) (i : Nat) : Byte := r.row.bytes.getD i 0#8
def rowNat (r : RowGot) (i n : Nat) : Nat := natOfBytes ((List.range n).map fun k => rowByte r (i + k))
def rowNumber (r : RowGot) : Nat := 125 * rowNat r 0 2 + rowNat r 2 1
def rowRhec (r : RowGot) : Bool := !r.missing && decide (rowNat r 2 1 ≤ 124) && crc8 [rowByte r 0, rowByte r 1, rowByte r 2] = rowByte r 3

/-- Byte i of a row lies in an uncorrectable codeword: one holds 20 blocks of 32 bytes (R308). -/
def byteBad (r : RowGot) (i : Nat) : Bool := r.row.bad.contains (i / 640)
/-- A byte of bytes 0–63 or of SL lies in one. -/
def headBad (r : RowGot) (six : Bool) : Bool := (List.range (if six then 960 else 1280)).any (byteBad r)

/-- A lane in use reports loss (R183, R311): those of the received sent set; the spare of six-lane operation is not in use (R315). -/
def rxLaneLoss (s : State) (p : Nat) : Bool :=
  (portOf s p).frameLost || (portOf s p).rxUse.any fun l => (laneOf s (fabLane p l)).los

/-- The lanes in use of the received direction (R315). -/
def rxChoose (s : State) (p : Nat) : List Nat := trRecv s (trainKey p)

/-- RX_INVERT over symbols of five levels. -/
def rxPolarity (x : LaneSt) (syms : List Nat) : List Nat := if lnRxInvert x then syms.map (· ^^^ 682) else syms

/-- The symbols received on a lane: those of its own transmit under LOOPBACK NEAR (R320). -/
def laneRx (s : State) (p : Nat) (r : LinkRow) (l : Nat) : List Nat :=
  let x := laneOf s (fabLane p l)
  if lnLoop x = 1 then levelSymbols x.out else rxPolarity x (tget [] r.lanes l)

/-- Under LOOPBACK FAR a lane sends what it receives (R320). -/
def resendLanes (p : Nat) (r : LinkRow) : List Nat → State → State
  | [], s => s
  | l :: ls, s =>
    resendLanes p r ls (if lnLoop (laneOf s (fabLane p l)) = 2 then onLane (fabLane p l) (fun x => { x with out := (rxPolarity x (tget [] r.lanes l)).flatMap symbolLevels }) s else s)

/-- The row decoded (R311). A row that is missing decodes to nothing. -/
def rowOfLanes (s : State) (p : Nat) (r : LinkRow) : RowGot :=
  { missing := r.missing, off := r.off, arr := r.arr, row := if r.missing then {} else decodeRow (gatherLanes ((portOf s p).rxUse.map (laneRx s p r))) }

/-- Corrected symbols and uncorrectable codewords are counted while the rows are framed (R311). -/
def fecCount (p : Nat) (r : RowGot) (s : State) : State :=
  if r.missing || (portOf s p).frameLost then s else note evFabFabFecCorr p r.row.corr (note evFabFabFecUncorr p r.row.bad.length s)

/-- Billets of a received row, with their slag marks (R182, R183). -/
def rowCells (r : RowGot) (six allSlag zero : Bool) : List (Nat × Cell) :=
  let n := if six then 11520 else 15360
  let base := if six then 960 else 1280
  let cnt := rowNat r 6 2 % 1024
  let ovf := (rowByte r 6).getLsbD 7
  let sl := (List.range (min cnt (if six then 448 else 608))).map fun i => rowNat r (64 + 2 * i) 2
  let last := (sl.getLastD 0) % 16384
  let inBad := byteBad r
  (List.range n).foldr (fun b t =>
    let e := (sl.find? fun v => v % 16384 = b).getD 0
    let mark := allSlag || (ovf && decide (last < b))
    let c : Cell := {
      b0 := if zero then 0#8 else rowByte r (base + 2 * b), b1 := if zero then 0#8 else rowByte r (base + 2 * b + 1)
      s0 := mark || e.testBit 15 || inBad (base + 2 * b), s1 := mark || e.testBit 14 || inBad (base + 2 * b + 1) }
    if c = {} then t else (b, c) :: t) []

/-- The row enters the aligner; a third row that waits makes it slip (R185, R186). -/
def alignPush (p t : Nat) (cells : List (Nat × Cell)) (s : State) : State :=
  let x := portOf s p
  if x.alignDue then s
  else if x.aligner.length < 2 then onPort p (fun x => { x with aligner := x.aligner ++ [(t, cells)] }) s
  else note evFabAlignSlip p 1 (onPort p (fun x => { x with aligner := x.aligner.drop 1 ++ [(t, cells)], align := x.align - 1, slip := true }) s)

/-- The header of a row that is not invalid: section monitoring, control channel and announcement (R184, R192, R211, R55). -/
def rowHeader (p : Nat) (r : RowGot) (s : State) : State :=
  let fl := (rowByte r 5).toNat
  let bei := if 8 < fl / 16 then 0 else fl / 16
  let sbdi := (fl / 8) % 2 = 1
  let x := portOf s p
  let viol := match x.rxBip with | some b => ones (b ^^^ rowByte r 4) | none => 0
  let s := note evFabSbipViol p viol (note evFabSbeiViol p bei s)
  let s := pmErrored 6 p false (flag (decide (0 < viol))) (pmErrored 6 p true (flag (decide (0 < bei))) s)
  let s := if sbdi then pmDefect 6 p true s else s
  let s := note evFabSlagOvfRx p (flag ((rowByte r 6).getLsbD 7)) s
  let run := if sbdi = x.dSbdi then 0 else x.sbdiRun + 1
  let d := if 5 ≤ run then sbdi else x.dSbdi
  let s := noteChange evFabDSbdi p x.dSbdi d s
  let s := onPort p (fun x => { x with
    sbei := viol, errSec := x.errSec + flag (decide (0 < viol)), dSbdi := d, sbdiRun := if 5 ≤ run then 0 else run }) s
  let s := ccRow p (rowNat r 8 1) ((r.row.bytes.drop 9).take 19) s
  if rowNat r 2 1 = 0 then annReceive p (wordsOfBytes ((r.row.bytes.drop 28).take 32)) r.arr s else s

/-- Framing in HUNT and out of it (R311): lost when the M bits of 3 consecutive rows differ, regained in HUNT when M bits and syndromes agree in 3 consecutive rows at one symbol offset. -/
def rowFraming (hunt : Bool) (r : RowGot) (x : PortSt) : PortSt :=
  let agrees := hunt && r.row.mBits && r.row.bad.isEmpty && !r.missing
  let good := if !agrees then 0 else if x.frameGood = 0 || x.frameOff = r.off then x.frameGood + 1 else 1
  let mb := if r.row.mBits || r.missing then 0 else x.mBad + 1
  { x with frameGood := good, frameOff := if agrees then r.off else x.frameOff, mBad := mb, frameLost := (x.frameLost && decide (good < 3)) || decide (3 ≤ mb) }

/-- A link row of a port in HUNT: 8 consecutive valid rows bring it into SYNC (R187). -/
def huntRow (p : Nat) (r : RowGot) (s : State) : State :=
  let x := portOf s p
  let s := onPort p (rowFraming true r) s
  let okRow := rowRhec r && !headBad r x.lanes6Rx && !rxLaneLoss s p
  let follows := match x.lastRow with | some t => decide (rowNumber r = (t + 1) % rowMod) | none => false
  let run := if !okRow then 0 else if follows then x.validRun + 1 else 1
  let s := onPort p (fun x => { x with
    validRun := run, lastRow := if okRow then some (rowNumber r) else x.lastRow.map fun t => (t + 1) % rowMod
    rxBip := if r.missing then none else some (bip8 r.row.bytes) }) s
  if 8 ≤ run then enterSync p s else s

/-- A link row of a port in SYNC, UP or FOREIGN (R183, R189). A row with a correct RHEC whose number does not follow is a renumbering, whatever else is wrong with it (R190). -/
def syncRow (p : Nat) (r : RowGot) (s : State) : State :=
  let x := portOf s p
  let s := onPort p (rowFraming false r) s
  let loss := rxLaneLoss s p
  let next := match x.lastRow with | some t => (t + 1) % rowMod | none => rowNumber r
  let clean := rowRhec r && !headBad r x.lanes6Rx && !loss
  let bip := if r.missing then none else some (bip8 r.row.bytes)
  if rowRhec r && rowNumber r ≠ next then
    let s := note evFabRenumber p 1 (rowHeader p r s)
    onPort p (fun x => { x with state := .sync, lastRow := some (rowNumber r), alignDue := true, aligner := [], released := none, slip := false, rxBip := bip, badRun := 0 }) s
  else if clean then
    let s := rowHeader p r s
    let s := onPort p (fun x => { x with lastRow := some next, badRun := 0, rxBip := bip }) s
    alignPush p next (rowCells r (portOf s p).lanes6Rx false false) s
  else
    let s := ccLost p (onPort p (fun x => { x with lastRow := some next, badRun := x.badRun + 1, rxBip := bip }) s)
    if 2 ≤ (portOf s p).badRun then declareFlos p s
    else alignPush p next (rowCells r x.lanes6Rx true (r.missing || loss)) s

/-- A row decoded is counted, judged and passed on by the port's state. -/
def judgeRow (p : Nat) (r : RowGot) (s : State) : State :=
  let s := fecCount p r s
  if portSynced s p then syncRow p r s else huntRow p r s

/-- FAB_LINK_ROW_RX. In TRAIN, the first row without a marker is data, and the port enters HUNT in the format of the lanes in use (R179, R315). -/
def linkRow (p : Nat) (r : LinkRow) (s : State) : State :=
  let s := resendLanes p r (List.range 8) s
  match (portOf s p).state with
  | .down => s
  | .train =>
    let use := rxChoose s p
    if r.missing || !(portOf s p).tr.seen || use.isEmpty then s
    else onPort p (fun x => { x with state := .hunt, huntRun := 0, validRun := 0, lastRow := none, rxUse := use, lanes6Rx := decide (use.length = 6) }) s
  | .hunt | .sync | .up => judgeRow p (rowOfLanes s p r) s
def execFabLinkRowRx (p : Fin 12) (row : LinkRow) (s : State) : Host.Outcome State Fault Refusal := ok (linkRow p row s)

/-- The release of the row that is due in this local row: the fill that replaces the window, and the cells released (R185, R186). -/
def releaseRow (p : Nat) (s : State) : State × Option Fill × List (Nat × Cell) :=
  let x := portOf s p
  if !portSynced s p then (s, some .ais, [])
  else
    let shown := fun (s : State) (f : Option Fill) (cells : List (Nat × Cell)) => if portUp s p then (s, f, cells) else (s, some .ais, [])
    if x.alignDue then shown s (some .ais) []
    else
      let due := (localRow s + rowMod - x.align) % rowMod
      let rest := x.aligner.filter fun y => y.1 ≠ due
      let take := fun (s : State) => onPort p (fun x => { x with aligner := rest, released := some due, slip := false }) s
      if x.slip then shown (take s) (some .slag) []
      else match x.aligner.find? fun y => y.1 = due with
        | some y => shown (take s) none y.2
        | none =>
          if x.released.isNone then shown s (some .ais) []
          else shown (note evFabAlignSlip p 1 (onPort p (fun x => { x with align := x.align + 1 }) s)) (some .slag) []

/-- The ingress of every fabric window in this row. -/
def fabIngress : List Nat → State → State
  | [], s => s
  | p :: l, s =>
    let r := releaseRow p s
    let s := putIngress (r.2.2.map fun c => ((14 + p) * 16384 + c.1, c.2)) r.1
    fabIngress l (match r.2.1 with | some f => s.onRows fun v => { v with winFill := v.winFill ++ [(14 + p, f)] } | none => s)

/-- A port that leaves FOREIGN with a two-way adjacency exchanges the database and returns to the device's LSP; one that becomes FOREIGN leaves both (R196, R202, R203). -/
def foreignMoves (was : List Nat) : List Nat → State → State
  | [], s => s
  | p :: l, s =>
    let now := isForeign s p
    if was.contains p = now then foreignMoves was l s
    else
      let s := if twoWay s p then s.onFab fun v => { v with lspPend := true } else s
      foreignMoves was l (if now then ctlPurge p s else if twoWay s p then sendDb p s.fab.lsdb s else s)

/-! ### Commands (R212) -/

/-- FAB_CFG. -/
def doFabCfg (rq : Req) (s : State) : State :=
  let w := rq.p 0
  command opFabCfg rq
    { par := [countIs 1 rq, onlyBits 0 0x80FF0FFF#32 rq, wordOk 0 (decide (1 ≤ fld w 23 16) && decide (fld w 11 0 ≤ 4094) && (bit w 31 || decide (1 ≤ fld w 11 0)))] } s
    (commitOnly opFabCfg rq)
def execFabCfg (rq : Req) (s : State) : Host.Outcome State Fault Refusal := ok (doFabCfg rq s)

/-- FAB_CFG at its row 0 (R200). A change that leaves ADDR_MODE 1 keeps the address (DEDUCED, log entry 33). -/
def applyFabCfg (c : Commit) (s : State) : State :=
  let was := addrMode s
  let s := s.onFab fun v => { v with cfg := c.p 0 }
  let s := noteChange evFdevAddrConflict 0 s.fab.conflict false (s.onFab fun v => { v with conflict := false })
  if !addrMode s then
    helloChange (s.onFab fun v => { v with addrState := .commanded, nodeAddr := BitVec.ofNat 12 (addrCfg s), nextAddr := none, tentAddr := 0#12, waitSince := none })
  else if was then s
  else helloChange (s.onFab fun v => { v with addrState := .none, nodeAddr := 0#12, nextAddr := none, waitSince := some s.stk.run })

def fabStatusWords (s : State) : List W32 :=
  let u := s.fused.uid.toNat
  [word [(s.fab.addrState.code, 30), (flag s.fab.conflict, 29), (if s.fab.addrState = .tentative then s.fab.tentAddr.toNat else 0, 12), (s.fab.nodeAddr.toNat, 0)],
   BitVec.ofNat 32 (u >>> 32), BitVec.ofNat 32 u,
   word [(s.fab.lsdb.length, 16), ((s.fab.routes.filter fun x => fld x.2 31 28 ≠ 15).length, 0)], s.fab.lseq,
   word [(bitsOf ((List.range 12).filter (portUp s)), 0)]]

/-- FAB_STATUS_READ. -/
def doFabStatusRead (rq : Req) (s : State) : State :=
  command opFabStatusRead rq { par := [countIs 0 rq] } s fun s => .done s (fabStatusWords s)
def execFabStatusRead (rq : Req) (s : State) : Host.Outcome State Fault Refusal := ok (doFabStatusRead rq s)

def fpObj (w : W32) : Nat := fld w 3 0
def retiredLanes (s : State) (p : Nat) : Nat := ((List.range 8).filter fun l => (laneOf s (fabLane p l)).retired).length
def fpOk (rq : Req) : List Check := [onlyBits 0 0x0000000F#32 rq, wordOk 0 (decide (fpObj (rq.p 0) ≤ 11))]

/-- FAB_PORT_CFG. -/
def doFabPortCfg (rq : Req) (s : State) : State :=
  let p := fpObj (rq.p 0)
  command opFabPortCfg rq
    { unit := [need (decide (12 ≤ p) || decide (retiredLanes s p ≤ 2)) { st := .retired }],
      par := [countIs 3 rq] ++ fpOk rq ++ [onlyBits 1 0xC0FFFFFF#32 rq, wordOk 1 (decide (1 ≤ fld (rq.p 1) 23 16) && decide (fld (rq.p 1) 15 12 ≤ 11)), onlyBits 2 0xFFFFF000#32 rq,
        wordOk 2 (decide (1 ≤ fld (rq.p 2) 31 16) && decide (2 ≤ fld (rq.p 2) 15 12) && decide (fld (rq.p 2) 15 12 ≤ 10))] } s (commitOnly opFabPortCfg rq)
def execFabPortCfg (rq : Req) (s : State) : Host.Outcome State Fault Refusal := ok (doFabPortCfg rq s)

/-- FAB_PORT_CFG at its row 0 (R187, R200). -/
def applyFabPortCfg (c : Commit) (s : State) : State :=
  let p := fpObj (c.p 0)
  let old := fpCfg s p
  let s := s.onFab fun v => { v with portCfg := tset fabPortReset v.portCfg p [c.p 1, c.p 2] }
  if bit (c.p 1) 31 && !fpEn old && decide (retiredLanes s p ≤ 2) then
    enterTrain p (s.onFab fun v => { v with firstEnable := some (v.firstEnable.getD s.stk.run) })
  else if !bit (c.p 1) 31 && fpEn old then enterDown p s
  else s

def fpStateCode (s : State) (p : Nat) : Nat :=
  match (portOf s p).state with
  | .down => 0 | .train => 1 | .hunt => 2
  | .sync => if isForeign s p then 5 else 3
  | .up => if isForeign s p then 5 else 4

def Adj.code : Adj → Nat
  | .none => 0 | .oneWay => 1 | .twoWay => 2

def fpStatusWords (s : State) (p : Nat) : List W32 :=
  let x := portOf s p
  let u := x.nbrUid.toNat
  [word [(fpStateCode s p, 29), (flag x.lanes6Rx, 28), (flag x.lanes6Tx, 27), (flag x.dFlos, 26), (flag x.dSbdi, 25), (flag x.dSdeg, 24), (flag x.dNbrMm, 23),
     (flag (decide (6000000 < x.delay)), 22), (x.adj.code, 20), (x.align % 512, 0)],
   word [(x.nbrAddr.toNat, 20), (x.nbrPort, 16), (if portUp s p then (if x.lanes6Rx then 11520 else 15360) else 0, 0)],
   BitVec.ofNat 32 (u >>> 32), BitVec.ofNat 32 u, BitVec.ofNat 32 x.delay]

/-- FAB_PORT_STATUS_READ. -/
def doFabPortStatusRead (rq : Req) (s : State) : State :=
  command opFabPortStatusRead rq { par := [countIs 1 rq] ++ fpOk rq } s fun s => .done s (fpStatusWords s (fpObj (rq.p 0)))
def execFabPortStatusRead (rq : Req) (s : State) : Host.Outcome State Fault Refusal := ok (doFabPortStatusRead rq s)

/-- FAB_ROUTE_READ. -/
def doFabRouteRead (rq : Req) (s : State) : State :=
  let a := fld (rq.p 0) 11 0
  let n := fld (rq.p 1) 12 0
  command opFabRouteRead rq
    { par := [countIs 2 rq, onlyBits 0 0x00000FFF#32 rq, onlyBits 1 0x00001FFF#32 rq, wordOk 1 (decide (1 ≤ n) && decide (n ≤ 4000) && decide (a + n ≤ 4096))] } s
    fun s => readAnswer 10 a (tgetMany routeReset s.fab.routes a n) [] s
def execFabRouteRead (rq : Req) (s : State) : Host.Outcome State Fault Refusal := ok (doFabRouteRead rq s)

/-- Whole LSPs from an index up to 4,000 words: the words and the next index. -/
def lsdbFrom : List Lsp → Nat → Nat → List W32 × Nat
  | [], i, _ => ([], i)
  | l :: r, i, room =>
    let ws := lspWords l
    if room < ws.length then ([], i)
    else
      let q := lsdbFrom r (i + 1) (room - ws.length)
      (ws ++ q.1, q.2)

/-- FAB_LSDB_READ. -/
def doFabLsdbRead (rq : Req) (s : State) : State :=
  command opFabLsdbRead rq { par := [countIs 1 rq, onlyBits 0 0x000007FF#32 rq] } s
    fun s =>
      let r := lsdbFrom (s.fab.lsdb.drop (rq.p 0).toNat) (rq.p 0).toNat 4000
      .done s (r.1 ++ [if r.2 < s.fab.lsdb.length then BitVec.ofNat 32 r.2 else 0xFFFFFFFF#32])
def execFabLsdbRead (rq : Req) (s : State) : Host.Outcome State Fault Refusal := ok (doFabLsdbRead rq s)

end Sys2Proof.Machine
end

