-- ==== Sys2Proof/Machine/Fixed.lean ====
section
/-! DEFINITION. Numbers that the spec gives by sine, cosine, decibel and square root, in fixed point with 80 binary places: what remains to be decided of them is a rounding. -/

namespace Sys2Proof.Machine

/-- One, in fixed point. -/
def fxOne : Int := 2 ^ 80
def fxMul (a b : Int) : Int := a * b / fxOne
/-- n / d. -/
def fxDiv (n : Int) (d : Nat) : Int := n * fxOne / d
/-- 2π and ln 10, rounded down. -/
def fxTwoPi : Int := 7595904947272677161575987
def fxLn10 : Int := 2783654570780253816072539

/-- Terms of the cosine series from term k on: `t` is x^(2k)/(2k)! with its sign. -/
def cosTerms (x2 : Int) : Nat → Int → Nat → Int
  | 0, _, _ => 0
  | n + 1, t, k => t + cosTerms x2 n (-(fxMul t x2) / ((2 * k + 1) * (2 * k + 2))) (k + 1)

/-- cos(2π n / d). -/
def cosTurn (n : Int) (d : Nat) : Int :=
  let x := fxTwoPi * (n % d) / d
  cosTerms (fxMul x x) 34 fxOne 0
def sinTurn (n : Int) (d : Nat) : Int := cosTurn (4 * n - d) (4 * d)

/-- Terms of the exponential series. -/
def expTerms (x : Int) : Nat → Int → Nat → Int
  | 0, _, _ => 0
  | n + 1, t, k => t + expTerms x n (fxMul t x / (k + 1)) (k + 1)

/-- 10^(n / d): the whole part as a power, the rest by the series. -/
def tenTo (n : Int) (d : Nat) : Int :=
  let w := n / d
  let f := expTerms (fxLn10 * (n % d) / d) 40 fxOne 0
  if 0 ≤ w then f * 10 ^ w.toNat else f / 10 ^ (-w).toNat

/-- The amplitude factor of a gain of n/d dB. -/
def dbGain (n : Int) (d : Nat) : Int := if n = 0 then fxOne else tenTo n (20 * d)

/-- Floor of the square root of a number below 4^n. -/
def rootBits : Nat → Nat → Nat → Nat
  | 0, _, r => r
  | n + 1, v, r => let t := r + 2 ^ n; rootBits n v (if t * t ≤ v then t else r)
/-- Square root of a fixed-point number. -/
def fxSqrt (v : Int) : Int := rootBits 160 (v.toNat * 2 ^ 80) 0

end Sys2Proof.Machine
end

