-- ==== Sys2Proof/Machine/LineTx.lean ====
section
/-! DEFINITION. Line transmitters: rates, the ramp and laser disable, bonding, calibration, and the line superframe (07_line_transmitter R213–R237). -/

namespace Sys2Proof.Machine

/-! ### Rates (R213, R214, R230) -/

def onTxEng (e : Nat) (f : TxSt → TxSt) (s : State) : State := s.onTx fun v => { v with eng := tmod {} v.eng e f }

def lcEn (c : List W32) : Bool := bit (c.getD 0 0#32) 31
def lcFormat (c : List W32) : Nat := fld (c.getD 0 0#32) 30 29
def lcN (c : List W32) : Nat := fld (c.getD 0 0#32) 28 24
def lcEntropy (c : List W32) : Nat := fld (c.getD 0 0#32) 23 19
def lcRolloff (c : List W32) : Nat := fld (c.getD 0 0#32) 18 14
def lcRampMs (c : List W32) : Nat := fld (c.getD 1 0#32) 31 25
def lcLaserWait (c : List W32) : Nat := fld (c.getD 1 0#32) 24 7
def lcDrive (c : List W32) : Nat := fld (c.getD 2 0#32) 31 24

/-- The rate fields. -/
def lcRate (c : List W32) : Nat × Nat × Nat × Nat := (lcFormat c, lcN c, lcEntropy c, lcRolloff c)

/-- OTUCn bits per data symbol as a fraction. -/
def bitsPerSymbol (format entropy : Nat) : Nat × Nat :=
  if format = 0 then (500, 147) else if format = 1 then (1000, 147) else (147 * (64 + entropy) - 2112, 1176)

/-- Data symbols per superframe. -/
def dataSymbols (bonded : Bool) : Nat := if bonded then 259080 else 257040

/-- The symbol rate in kBd as a fraction: n × (239/226 × 99,532,800) × (262,144 / D) / B. -/
def symbolRate (format n entropy : Nat) (bonded : Bool) : Nat × Nat :=
  let b := bitsPerSymbol format entropy
  (n * 239 * 99532800 * 262144 * b.2, 226 * dataSymbols bonded * b.1)

def fracLe (a : Nat × Nat) (k : Nat) : Bool := decide (a.1 ≤ k * a.2)
def fracGe (a : Nat × Nat) (k : Nat) : Bool := decide (k * a.2 ≤ a.1)

def bondWord (s : State) : W32 := s.tx.bond
def bondedNow (s : State) : Bool := bit s.tx.bond 31
def bondLast (s : State) : W32 := match lastWaiting opLineBondCfg (fun _ => 0) 0 s with | some c => c.p 0 | none => s.tx.bond

/-- The TX_CFG whose rate fields rule engine e: that of engine 0 while BOND is 1. -/
def txRule (s : State) (e : Nat) : List W32 := (txEng s (if bondedNow s then 0 else e)).cfg

/-- The symbol rate of a transmitter in force. -/
def txSymbolRate (s : State) (e : Nat) : Nat × Nat :=
  let c := txRule s e
  symbolRate (lcFormat c) (lcN c) (lcEntropy c) (bondedNow s)

/-- Rs × (1 + ROLLOFF/100) is at most SPACING, in 0.5 GHz units (R230). -/
def spacingOk (c : List W32) (spacing : Nat) : Bool :=
  let r := symbolRate (lcFormat c) (lcN c) (lcEntropy c) true
  fracLe (r.1 * (100 + lcRolloff c), r.2 * 100) (spacing * 500000)

/-! ### TX_CFG, TX_PREEMPH, LINE_BOND_CFG (R214, R228–R230, R237) -/

def engObj (w : W32) : Nat := fld w 1 0
def engParams (c : Commit) (n : Nat) : List W32 := (List.range n).map fun i => c.p (1 + i)
def txLast (s : State) (e : Nat) : List W32 :=
  match lastWaiting opTxCfg engObj e s with
  | some c => engParams c 3
  | none => (txEng s e).cfg

/-- An engine whose transmitter may change its rate: DARK, ENABLE 0 in force, and no TX_CFG with ENABLE = 1 pending (R228). -/
def txRateFree (s : State) (e : Nat) : Bool :=
  (txEng s e).state = .dark && !lcEn (txEng s e).cfg && !(waiting opTxCfg s).any fun c => engObj (c.p 0) = e && bit (c.p 1) 31

def engUnit (rq : Req) (s : State) : Check := need (enginePresent s (engObj (rq.p 0))) { st := .unitAbsent }
def txUnit (rq : Req) (s : State) : List Check := [engUnit rq s, need (!(txEng s (engObj (rq.p 0))).retired) { st := .retired }]

/-- The fields of the rate lie in their ranges. -/
def rateFieldsOk (c : List W32) : Bool :=
  decide (lcFormat c ≤ 2) && decide (4 ≤ lcN c ∧ lcN c ≤ 24) && decide (lcEntropy c ≤ 24) && decide (2 ≤ lcRolloff c ∧ lcRolloff c ≤ 20)

/-- Rs lies within 100 to 280 GBd (R214). -/
def rateBoundsOk (c : List W32) (bonded : Bool) : Bool :=
  let r := symbolRate (lcFormat c) (lcN c) (lcEntropy c) bonded
  !rateFieldsOk c || (fracGe r 100000000 && fracLe r 280000000)

/-- TX_CFG. An accepted TX_CFG clears TX_RATE_LIMIT (R236). While BOND is 1, as last written, engine 0 governs the rate that MAX_RS is held against; the stored rate of engines 1–3 is judged as it would act with BOND 0 (R214, R230). -/
def doTxCfg (rq : Req) (s : State) : State :=
  let e := engObj (rq.p 0)
  let c := [rq.p 1, rq.p 2, rq.p 3]
  let bonded := bit (bondLast s) 31
  let changes := lcRate c ≠ lcRate (txLast s e)
  let g := if bonded && decide (e ≠ 0) then txLast s 0 else c
  let r := symbolRate (lcFormat g) (lcN g) (lcEntropy g) bonded
  command opTxCfg rq
    { unit := txUnit rq s,
      par := [countIs 4 rq, onlyBits 0 0x00000003#32 rq, onlyBits 1 0xFFFFC000#32 rq, wordOk 1 (rateFieldsOk c), wordOk 1 (rateBoundsOk c (bonded && decide (e = 0))),
        wordOk 1 (!(bonded && decide (e = 0) && changes) || !rateFieldsOk c || spacingOk c (fld (bondLast s) 30 20)),
        onlyBits 2 0xFFFFFF80#32 rq, wordOk 2 (decide (1 ≤ lcRampMs c ∧ lcRampMs c ≤ 100) && decide (lcLaserWait c ≤ 250000)),
        onlyBits 3 0xFF000000#32 rq, wordOk 3 (decide (16 ≤ lcDrive c ∧ lcDrive c ≤ 80))],
      late := [need (!changes || txRateFree s e) { st := .busy, detail := 2 },
        need (!lcEn c || fracLe r (txEng s e).maxRs.toNat) { st := .capacity, detail := 2 }] } s
    fun s => commitOnly opTxCfg rq (noteChange evLinTxRateLimit e (txEng s e).rateLimit false (onTxEng e (fun x => { x with rateLimit := false }) s))
def execTxCfg (rq : Req) (s : State) : Host.Outcome State Fault Refusal := ok (doTxCfg rq s)

/-- Rows of a full ramp (R225, R226). -/
def rampRows (c : List W32) : Nat := 125 * (lcRampMs c * 50)

/-- The row of the other curve over `n` rows at which a equals that of row j of a curve over m rows (R226). The new ramp starts there, in the row of the reversal. -/
def reverseRow (j m n : Nat) : Nat := if m = 0 then 0 else n - 1 - (min (j + 1) m) * n / m

/-- ENABLE becomes 1 or 0 at row 0 (R225). -/
def txEnable (e : Nat) (s : State) : State :=
  onTxEng e (fun x =>
    let n := rampRows x.cfg
    match x.state with
    | .dark => { x with state := .laserWait, wait := 0, famHold := false }
    | .rampDown => { x with state := .rampUp, j := reverseRow x.j x.m n, m := n, fresh := true }
    | _ => x) s
def txDisable (e : Nat) (s : State) : State :=
  onTxEng e (fun x =>
    let n := rampRows x.cfg
    match x.state with
    | .laserWait => { x with state := .dark }
    | .rampUp => { x with state := .rampDown, j := reverseRow x.j x.m n, m := n, fresh := true }
    | .on => { x with state := .rampDown, j := 0, m := n, fresh := true }
    | _ => x) s

/-- TX_RATE_LIMIT is declared and ENABLE set to 0 (R236). -/
def txRateLimit (e : Nat) (s : State) : State :=
  let s := noteChange evLinTxRateLimit e (txEng s e).rateLimit true s
  let was := lcEn (txEng s e).cfg
  let s := onTxEng e (fun x => { x with rateLimit := true, cfg := setAt x.cfg 0 (x.cfg.getD 0 0#32 &&& 0x7FFFFFFF#32) }) s
  if was then txDisable e s else s

def txOverRate (s : State) (e : Nat) : Bool := !fracLe (txSymbolRate s e) (txEng s e).maxRs.toNat

/-- At a new rate, superframes begin anew. -/
def restartFrames (es : List Nat) (s : State) : State := es.foldl (fun s e => onTxEng e (fun x => { x with symPos := 0 }) s) s

/-- TX_CFG at its row 0. One with ENABLE = 1 whose rate a retirement has put beyond MAX_RS leaves ENABLE 0 (R236). -/
def applyTxCfg (k : Commit) (s : State) : State :=
  let e := engObj (k.p 0)
  let was := lcEn (txEng s e).cfg
  let moved := decide (lcRate (txEng s e).cfg ≠ lcRate (engParams k 3)) && (!bondedNow s || decide (e = 0))
  let s := onTxEng e (fun x => { x with cfg := engParams k 3 }) s
  let s := if moved then restartFrames (if bondedNow s then List.range 4 else [e]) s else s
  let en := lcEn (txEng s e).cfg
  if en && (txOverRate s e || (txEng s e).retired) then
    txRateLimit e (if was then s else onTxEng e (fun x => { x with cfg := setAt x.cfg 0 (x.cfg.getD 0 0#32 &&& 0x7FFFFFFF#32) }) s)
  else if en && !was then txEnable e s
  else if !en && was then txDisable e s
  else s

/-- TX_READ, TX_PREEMPH_READ. -/
def engPar (n : Nat) (rq : Req) : List Check := [countIs n rq, onlyBits 0 0x00000003#32 rq]
def doTxRead (rq : Req) (s : State) : State :=
  command opTxRead rq { unit := [engUnit rq s], par := engPar 1 rq } s fun s => .done s (txEng s (engObj (rq.p 0))).cfg
def execTxRead (rq : Req) (s : State) : Host.Outcome State Fault Refusal := ok (doTxRead rq s)

/-- TX_PREEMPH (R223). -/
def doTxPreemph (rq : Req) (s : State) : State :=
  command opTxPreemph rq
    { unit := txUnit rq s,
      par := engPar 17 rq ++ (List.range 16).map fun i => wordOk (1 + i) ((bytesOf (rq.p (1 + i))).all fun b => decide (b.toNat ≤ 120)) } s (commitOnly opTxPreemph rq)
def execTxPreemph (rq : Req) (s : State) : Host.Outcome State Fault Refusal := ok (doTxPreemph rq s)
def applyTxPreemph (k : Commit) (s : State) : State := onTxEng (engObj (k.p 0)) (fun x => { x with pre := engParams k 16 }) s

def preWords (s : State) (e : Nat) : List W32 := (List.range 16).map fun i => (txEng s e).pre.getD i 0#32
def doTxPreemphRead (rq : Req) (s : State) : State :=
  command opTxPreemphRead rq { unit := [engUnit rq s], par := engPar 1 rq } s fun s => .done s (preWords s (engObj (rq.p 0)))
def execTxPreemphRead (rq : Req) (s : State) : Host.Outcome State Fault Refusal := ok (doTxPreemphRead rq s)

/-- LINE_BOND_CFG (R229, R230). -/
def doLineBondCfg (rq : Req) (s : State) : State :=
  let w := rq.p 0
  let changes := bit w 31 != bit (bondLast s) 31
  let at_ := actsAt s (if rq.cmt then some rq.commit else none)
  let modes := (waiting opModeSet s).filter fun c => decide (actsAt s c.stroke ≤ at_)
  command opLineBondCfg rq
    { unit := [need (!changes || bondCapable s) { st := .unitAbsent }],
      par := [countIs 1 rq, onlyBits 0 0xFFF00000#32 rq, wordOk 0 (decide (200 ≤ fld w 30 20 ∧ fld w 30 20 ≤ 700)),
        wordOk 0 (!bit w 31 || spacingOk (txLast s 0) (fld w 30 20))],
      late := [need (!changes || (decide (baseMode s = .forge) && modes.all fun c => modeOfCode (fld (c.p 0) 3 0) = .forge)) { st := .modeRefused },
        need (!changes || (List.range 4).all (txRateFree s)) { st := .busy, detail := 2 }] } s (commitOnly opLineBondCfg rq)
def execLineBondCfg (rq : Req) (s : State) : Host.Outcome State Fault Refusal := ok (doLineBondCfg rq s)

/-- LINE_BOND_CFG at its row 0. A change of BOND starts superframes anew; bonded engines take the count of engine 0 (R231). -/
def applyLineBondCfg (k : Commit) (s : State) : State :=
  let was := bondedNow s
  let s := s.onTx fun v => { v with bond := k.p 0 }
  if bondedNow s = was then s
  else
    let n := (txEng s 0).sfc
    restartFrames (List.range 4) (if was then s else (List.range 4).foldl (fun s e => onTxEng e (fun x => { x with sfc := n }) s) s)

/-! ### Ramps and laser wait (R225, R226) -/

/-- One more row of a ramp; its first row is the one in which it began (R226). -/
def rampRow (s : State) : State :=
  s.onTx fun v => { v with eng := v.eng.map fun y => (y.1,
    if y.2.fresh then { y.2 with fresh := false } else if y.2.state = .rampUp || y.2.state = .rampDown then { y.2 with j := y.2.j + 1 } else y.2) }

/-- TXDISe is asserted (R225, R227, R2). -/
def txdis (s : State) (e : Nat) : Bool :=
  !enginePresent s e || !s.pins.powered || s.pins.rstnLow || inQuench s || (txEng s e).retired || (txEng s e).state = .dark

/-- The ramp factor a (R226): sin²(π(j + 1)/(2M)) rising, cos² of it falling, from the last row on 1 or 0. The calibration waveform of DARK has no ramp. -/
def rampFactor (x : TxSt) : Int :=
  match x.state with
  | .on => fxOne
  | .rampUp => if x.m ≤ x.j + 1 then fxOne else (fxOne - cosTurn (x.j + 1) (2 * x.m)) / 2
  | .rampDown => if x.m ≤ x.j + 1 then 0 else (fxOne + cosTurn (x.j + 1) (2 * x.m)) / 2
  | _ => 0

/-- DRIVE_NOW: a × 65,535. -/
def driveNow (x : TxSt) : Nat := fracShow ((rampFactor x).toNat * 65535, 2 ^ 80)

def TxState.code : TxState → Nat
  | .dark => 0 | .laserWait => 1 | .rampUp => 2 | .on => 3 | .rampDown => 4

/-- TX_STATUS words 0–5. STROKES_LEFT counts a stroke begun as whole (DEDUCED, log entry 35). -/
def txStatusWords (s : State) (e : Nat) : List W32 :=
  let x := txEng s e
  let r := txSymbolRate s e
  let left := match x.state with
    | .laserWait => lcLaserWait x.cfg - x.wait
    | .rampUp | .rampDown => ceilDiv (x.m - x.j) 125
    | _ => 0
  [word [(x.state.code, 29), (flag (txdis s e), 28), (flag (bondedNow s), 27), (flag x.rateLimit, 26), (driveNow x, 0)],
   BitVec.ofNat 32 (fracShow r), BitVec.ofNat 32 (fracShow (r.1 * 5, r.2 * 4)), x.maxRs, word [(left, 14)], word [(x.sfc.toNat, 16)]]

/-- TX_STATUS_READ. -/
def doTxStatusRead (rq : Req) (s : State) : State :=
  command opTxStatusRead rq { unit := [engUnit rq s], par := engPar 1 rq } s fun s => .done s (txStatusWords s (engObj (rq.p 0)))
def execTxStatusRead (rq : Req) (s : State) : Host.Outcome State Fault Refusal := ok (doTxStatusRead rq s)

/-! ### Calibration (R232–R235) -/

/-- Range of a loop, in steps. -/
def loopRange (l : Nat) : Nat := if l ≤ 1 then 1024 else if l = 2 then 4096 else if l ≤ 5 then 150 else if l = 6 then 128 else if l = 7 then 100 else 128

/-- The loop or family of a correction: 0–5 stand for themselves, 32 × (family − 5) + slice for a slice. -/
def loopOf (i : Nat) : Nat := if i < 6 then i else 5 + i / 32

/-- Rounded to the nearest step. -/
def toSteps (e : Int) : Int := (e + 50) / 100

/-- A correction moves by at most one step toward its target if the error exceeds half a step (R233). -/
def moveStep (range : Nat) (corr err : Int) : Int :=
  if 50 < err then clamp (-(range : Int)) range (corr + 1) else if err < -50 then clamp (-(range : Int)) range (corr - 1) else corr

/-- A correction at the end of its range with an error of the same sign. -/
def atLimit (range : Nat) (corr err : Int) : Bool := (decide (corr = range) && decide (0 < err)) || (decide (corr = -(range : Int)) && decide (err < 0))

/-- Loops measure in ON and DARK (R233). -/
def calMeasures (x : TxSt) : Bool := x.state = .on || x.state = .dark

/-- A loop runs: TRACK, in ON or DARK, not held for its reference or until the transmitter is first enabled (R233–R235). -/
def loopRuns (x : TxSt) (l : Nat) : Bool :=
  tget 1 x.calMode l = 1 && calMeasures x && !(x.refHold && (l = 3 || l = 4 || l = 5 || l = 7 || l = 8)) && !(x.famHold && decide (6 ≤ l))

def setCal (l : List (Nat × Int)) (i : Nat) (v : Int) : List (Nat × Int) := tset 0 l i v

/-- Strokes over which a loop measures (R232). A measurement is complete once the loop has measured for so long, and slides on with every stroke (DEDUCED, log entry 101). -/
def loopInterval (l : Nat) : Nat := if l < 6 then 10 else 50

/-- Corrections of a loop or family. -/
def loopIdx (l : Nat) : List Nat := if l < 6 then [l] else (List.range 32).map fun k => 32 * (l - 5) + k

def loopAtLimit (x : TxSt) (l i : Nat) : Bool := atLimit (loopRange l) (tget 0 x.calCorr i) (tget 0 x.calErr i)
def loopOffLimit (x : TxSt) (l : Nat) : Bool := (loopIdx l).all fun i => decide ((tget 0 x.calCorr i).natAbs ≠ loopRange l)

/-- The error of a correction: its target against the measurement, in hundredths of a step (R233). -/
def calError (x : TxSt) (l i : Nat) : Int := 100 * tget 0 x.calTarget l - tget 0 x.calMeas i

/-- A loop at row 0: its measurement, when complete, gives the error, and the loop moves by at most one step toward its target (R233). -/
def loopRow0 (x : TxSt) (l : Nat) : TxSt :=
  if tget 0 x.calRun l < loopInterval l then x
  else (loopIdx l).foldl (fun y i =>
    let e := calError y l i
    { y with calErr := setCal y.calErr i e, calCorr := if loopRuns y l then setCal y.calCorr i (moveStep (loopRange l) (tget 0 y.calCorr i) e) else y.calCorr }) x

/-- Every loop of a family whose loops run has come within one step of its target (R235); a retired slice does not count, nor does a family held for its reference (R388). -/
def famWithin (x : TxSt) : Bool :=
  [6, 7, 8].all fun l => decide (tget 1 x.calMode l = 0) || (x.refHold && decide (l ≠ 6)) || (decide (loopInterval l ≤ tget 0 x.calRun l)
    && (loopIdx l).all fun i => x.dacSlices.contains (i % 32 / 8, i % 8) || decide ((calError x l i).natAbs ≤ 100))

/-- Strokes at a limit, and the clearing of CAL_LIMIT. -/
def calAge (e l : Nat) (s : State) : State :=
  let x := txEng s e
  let s := onTxEng e (fun x => { x with calLim := (loopIdx l).foldl (fun t i => tset 0 t i (if loopAtLimit x l i then tget 0 t i + 1 else 0)) x.calLim }) s
  if x.calLimDecl.contains l && loopOffLimit x l then noteClear evLinCalLimit e (onTxEng e (fun x => { x with calLimDecl := del x.calLimDecl l }) s) else s

/-- CAL_LIMIT: 100 consecutive strokes at a limit, for a family those of one of its loops. -/
def calLimit (e l : Nat) (s : State) : State :=
  let x := txEng s e
  if l ≤ 8 && (loopIdx l).any (fun i => decide (100 ≤ tget 0 x.calLim i)) && !x.calLimDecl.contains l then note evLinCalLimit e 1 (onTxEng e (fun x => { x with calLimDecl := ins x.calLimDecl l }) s) else s
def execCalLimit (e : Fin 4) (loop : Nat) (s : State) : Host.Outcome State Fault Refusal := ok (calLimit e loop s)

/-- TX_CAL_CFG. -/
def doTxCalCfg (rq : Req) (s : State) : State :=
  let w := rq.p 1
  let l := fld w 31 28
  let t := signed 16 (fld w 15 0)
  command opTxCalCfg rq
    { unit := txUnit rq s,
      par := engPar 2 rq ++ [onlyBits 1 0xFC00FFFF#32 rq, wordOk 1 (decide (l ≤ 8) && decide (fld w 27 26 ≤ 1)),
        wordOk 1 (if 6 ≤ l then decide (t = 0) else decide (t.natAbs ≤ loopRange l))] } s (commitOnly opTxCalCfg rq)
def execTxCalCfg (rq : Req) (s : State) : Host.Outcome State Fault Refusal := ok (doTxCalCfg rq s)
def applyTxCalCfg (k : Commit) (s : State) : State :=
  let l := fld (k.p 1) 31 28
  onTxEng (engObj (k.p 0)) (fun x => { x with calMode := tset 1 x.calMode l (fld (k.p 1) 27 26), calTarget := tset 0 x.calTarget l (signed 16 (fld (k.p 1) 15 0)) }) s

def calWord (c e : Int) : W32 := word [(unsigned 16 c, 16), (unsigned 16 e, 0)]

/-- The value of largest magnitude; of two equal ones the earlier (DEDUCED, log entry 62). -/
def largest : List Int → Int
  | [] => 0
  | v :: r => let m := largest r; if m.natAbs ≤ v.natAbs then v else m

/-- TX_CAL_RESULT words 0–9. -/
def txCalWords (x : TxSt) : List W32 :=
  (List.range 6).map (fun l => calWord (tget 0 x.calCorr l) (toSteps (tget 0 x.calErr l)))
    ++ [word [(flag x.refHold, 9), (bitsOf ((List.range 9).filter fun l => !loopOffLimit x l), 0)]]
    ++ (List.range 3).map fun f => calWord (largest ((loopIdx (6 + f)).map fun i => tget 0 x.calCorr i)) (toSteps (largest ((loopIdx (6 + f)).map fun i => tget 0 x.calErr i)))

/-- TX_CAL_READ. -/
def doTxCalRead (rq : Req) (s : State) : State :=
  command opTxCalRead rq { unit := [engUnit rq s], par := engPar 1 rq } s fun s => .done s (txCalWords (txEng s (engObj (rq.p 0))))
def execTxCalRead (rq : Req) (s : State) : Host.Outcome State Fault Refusal := ok (doTxCalRead rq s)

/-! ### The strokes of an engine, and superframes (R215–R220) -/

/-- Superframes with traffic, or with ODU-OCI, are sent (R225). -/
def txSending (x : TxSt) : Bool := x.state = .rampUp || x.state = .on || x.state = .rampDown

/-- The calibration waveform is sent: DARK, while any loop of the engine is in TRACK (R233). -/
def calSending (x : TxSt) : Bool := x.state = .dark && !x.retired && (List.range 9).any fun l => tget 1 x.calMode l = 1

/-- The stroke that ends, for each engine: laser wait, measurements, strokes at a limit. -/
def txStroke (x : StrokeIn) (s : State) : State :=
  let s := x.txCal.foldl (fun s m => onTxEng m.1 (fun t => { t with calMeas := setCal t.calMeas m.2.1 m.2.2 }) s) s
  (List.range (engines s)).foldl (fun s e =>
    let s := (List.range 9).foldl (fun s l => calAge e l s) s
    onTxEng e (fun t => { t with
      wait := if t.state = .laserWait then t.wait + 1 else t.wait
      calRun := if calMeasures t then (List.range 9).map fun l => (l, min 50 (tget 0 t.calRun l + 1)) else [] }) s) s

/-- Row 0, after the reference is judged: CAL_REF_HOLD, then the loops move (R233, R234). -/
def txRow0 (s : State) : State :=
  (List.range (engines s)).foldl (fun s e =>
    let hold := s.opt.vrefOor
    let s := noteChange evLinCalRefHold e (txEng s e).refHold hold s
    onTxEng e (fun t => (List.range 9).foldl loopRow0 { t with refHold := hold }) s) s

/-- The 64 bits of the descriptor of superframe `n` (R218). -/
def descriptor (s : State) (e : Nat) (n : W16) : W64 :=
  let c := txRule s e
  let hi := bytesOfNat 7 (1 * 2 ^ 52 + e * 2 ^ 50 + flag (bondedNow s) * 2 ^ 49 + lcFormat c * 2 ^ 47 + (if lcFormat c = 2 then lcEntropy c else 0) * 2 ^ 42
    + lcN c * 2 ^ 37 + lcRolloff c * 2 ^ 32 + n.toNat * 2 ^ 16 + s.fab.nodeAddr.toNat * 2 ^ 4)
  BitVec.ofNat 64 (natOfBytes hi * 256 + (crc8 hi).toNat)

/-- Body symbol k is a pilot (R216). -/
def isPilot (bonded : Bool) (e k : Nat) : Bool := if bonded then decide (k % 128 = 32 * e) else decide (k % 64 = 0)

/-- The PRBS-15 generator of header and pilots: n output bits (R217). -/
def prbs15 (n st : Nat) : List Bool :=
  ((List.range n).foldl (fun (a : List Bool × Nat) _ =>
    let b := xor (a.2.testBit 14) (a.2.testBit 13)
    (b :: a.1, (a.2 * 2 + flag b) % 32768)) ([], st)).1.reverse

/-- Signs of a QPSK symbol: true for −A. -/
abbrev Qpsk := Bool × Bool

/-- The X segment of the repetition part. -/
def segment : List Qpsk :=
  [(false, false), (false, true), (true, true), (true, false), (false, false), (true, false), (true, true), (false, true)]

/-- The bits of the correlation part and of the pilots of a superframe, from the seeds of X and of Y. -/
def corrBitsX : Array Bool := (prbs15 1024 0x1F35).toArray
def corrBitsY : Array Bool := (prbs15 1024 0x6C0B).toArray
def pilotBitsX : Array Bool := (prbs15 8160 0x2A5B).toArray
def pilotBitsY : Array Bool := (prbs15 8160 0x4D1E).toArray

/-- The q-th symbol of a generator: two bits, I and then Q. -/
def qpskAt (b : Array Bool) (q : Nat) : Qpsk := (b.getD (2 * q) false, b.getD (2 * q + 1) false)

/-- Header symbol i (0–1,023) of a polarisation (R217). -/
def headerSymbol (y : Bool) (desc : W64) (i : Nat) : Qpsk :=
  if i < 256 then segment.getD ((i + (if y then 4 else 0)) % 8) (false, false)
  else if i < 768 then qpskAt (if y then corrBitsY else corrBitsX) (i - 256)
  else
    let b := desc.getLsbD (63 - (i - 768) / 4)
    (b, b)

/-- The q-th pilot of a polarisation: its generator runs from body symbol 0 (R217). -/
def pilotSymbol (y : Bool) (q : Nat) : Qpsk := qpskAt (if y then pilotBitsY else pilotBitsX) q

/-- Amplitude of a dimension from its label bits (R219). -/
def amplitude (format : Nat) (label : List Bool) : Nat :=
  if format = 0 then 1
  else if format = 1 then (if label.getD 0 false then 3 else 1)
  else if !label.getD 0 false then (if label.getD 1 false then 3 else 1)
  else (if label.getD 1 false then 5 else 7)

/-- n! for n up to 256. -/
def factorials : Array Nat := (List.range 256).foldl (fun t n => t.push ((n + 1) * t.getD n 1)) #[1]

/-- Number of distinct sequences of a composition. -/
def sequences (c : List Nat) : Nat := factorials.getD c.sum 0 / (c.map fun n => factorials.getD n 1).foldl (· * ·) 1

def compEnergy (c : List Nat) : Nat := c.getD 0 0 + 9 * c.getD 1 0 + 25 * c.getD 2 0 + 49 * c.getD 3 0

/-- Of two compositions the one preferred: less energy, then larger c1, c3, c5 (R220). -/
def compBetter (a b : List Nat) : Bool :=
  if compEnergy a ≠ compEnergy b then decide (compEnergy a < compEnergy b)
  else if a.getD 0 0 ≠ b.getD 0 0 then decide (b.getD 0 0 < a.getD 0 0)
  else if a.getD 1 0 ≠ b.getD 1 0 then decide (b.getD 1 0 < a.getD 1 0)
  else decide (b.getD 2 0 < a.getD 2 0)

/-- k = 128 H − 256 input bits of a block. -/
def matcherBits (entropy : Nat) : Nat := 8 * (64 + entropy) - 256

/-- The compositions with c1 = a and c3 = b that can be the best: c5 ≥ c7, and c7 the least with 2^k sequences or more, since each 7 in place of a 5 adds energy. -/
def compWith (k a b : Nat) : Option (List Nat) :=
  let r := 256 - a - b
  ((List.range (r / 2 + 1)).map fun d => [a, b, r - d, d]).find? fun c => decide (2 ^ k ≤ sequences c)

/-- The composition (c1, c3, c5, c7) of an ENTROPY value (R220). Where a larger amplitude is the more frequent, exchanging the two counts keeps the number of sequences and lowers the energy: c1 ≥ c3 ≥ c5 ≥ c7 in the best one. A pair (c1, c3) whose least energy is beyond the best found is passed over. -/
def bestComposition (entropy : Nat) : List Nat :=
  (List.range 257).foldr (fun a m =>
    (List.range (min a (256 - a) + 1)).foldr (fun b m =>
      if b < 256 - a - 2 * b || (!m.isEmpty && decide (compEnergy m < a + 9 * b + 25 * (256 - a - b))) then m
      else
        match compWith (matcherBits entropy) a b with
        | some c => if c.getD 2 0 ≤ b && (m.isEmpty || compBetter c m) then c else m
        | none => m) m) []

/-- The compositions of ENTROPY 0 to 24. -/
def compositions : List (List Nat) := (List.range 25).map bestComposition
def composition (entropy : Nat) : List Nat := compositions.getD entropy []

/-- The m-th sequence of a composition in lexicographic order, amplitude ranks 0–3, of `total` sequences in all (R220): with rank a first there are total × c_a / n. -/
def unrankFrom : Nat → List Nat → Nat → Nat → List Nat
  | 0, _, _, _ => []
  | n + 1, c, total, m =>
    let pick := fun (acc : Option (Nat × Nat × Nat) × Nat) (a : Nat) =>
      match acc.1 with
      | some _ => acc
      | none =>
        let k := total * c.getD a 0 / (n + 1)
        if acc.2 < k then (some (a, k, acc.2), acc.2) else (none, acc.2 - k)
    match ((List.range 4).foldl pick (none, m)).1 with
    | some (a, k, m') => a :: unrankFrom n (setAt c a (c.getD a 0 - 1)) k m'
    | none => []
def unrank (n : Nat) (c : List Nat) (m : Nat) : List Nat := unrankFrom n c (sequences c) m

/-- The amplitudes of a block of 256 dimensions from its input bits, first bit most significant (R220). -/
def matcherBlock (entropy : Nat) (bits : List Bool) : List Nat :=
  (unrank 256 (composition entropy) (bits.foldl (fun a b => 2 * a + flag b) 0)).map fun r => 2 * r + 1

end Sys2Proof.Machine
end

