-- ==== Sys2Proof/Machine/Acquire.lean ====
section
/-! DEFINITION. What a receiver computes from a received waveform: the repetition detector, the header correlator, the equaliser, carrier phase and descriptor (08_line_receiver R250, R251, R253, R257, R259–R261). -/

namespace Sys2Proof.Machine

/-! ### Complex numbers -/

abbrev Cx := Int × Int
def cxAdd (a b : Cx) : Cx := (a.1 + b.1, a.2 + b.2)
def cxSub (a b : Cx) : Cx := (a.1 - b.1, a.2 - b.2)
def cxMul (a b : Cx) : Cx := (a.1 * b.1 - a.2 * b.2, a.1 * b.2 + a.2 * b.1)
def cxConj (a : Cx) : Cx := (a.1, -a.2)
def cxAbs2 (a : Cx) : Nat := (a.1 * a.1 + a.2 * a.2).toNat
def cxSum (l : List Cx) : Cx := l.foldl cxAdd (0, 0)
/-- The product of two numbers in fixed point. -/
def cxFx (a b : Cx) : Cx := let v := cxMul a b; (v.1 / fxOne, v.2 / fxOne)
/-- Division by a real number in fixed point. -/
def cxOver (a : Cx) (d : Int) : Cx := (a.1 * fxOne / d, a.2 * fxOne / d)

/-- Whether direction n / 2³² of a turn lies at or before z, for z in the upper half plane. -/
def turnAtMost (z : Cx) (n : Nat) : Bool := decide (0 ≤ cosTurn n (2 ^ 32) * z.2 - sinTurn n (2 ^ 32) * z.1)
/-- Largest n below 2^bits with that. -/
def turnBits (z : Cx) : Nat → Nat → Nat
  | 0, n => n
  | k + 1, n => turnBits z k (if turnAtMost z (n + 2 ^ k) then n + 2 ^ k else n)
/-- The argument of z in 2⁻³² turns, from −2³¹ to 2³¹ − 1; 0 for z = 0. -/
def turnOf (z : Cx) : Int :=
  if z = (0, 0) then 0
  else if z.2 < 0 || (z.2 = 0 && decide (z.1 < 0)) then turnBits (-z.1, -z.2) 31 0 - (2 : Int) ^ 31
  else turnBits z 31 0

/-- Rotation by −n / 2³⁷ of a turn. -/
def rotate (n : Int) (z : Cx) : Cx := if n = 0 then z else cxFx z (cosTurn n (2 ^ 37), -sinTurn n (2 ^ 37))

/-! ### The waveform -/

/-- A point of a polarisation, at n fifths of a symbol after the start of the header. -/
def wavePoint (w : RxWave) (y : Bool) (n : Int) : Cx :=
  let i := n - 5 * w.first
  if i < 0 then (0, 0) else (if y then w.y else w.x).getD i.toNat (0, 0)

/-- Symbols that a waveform covers. -/
def waveLen (w : RxWave) : Nat := ceilDiv w.x.length 5

/-- The symbols of a waveform, both polarisations, from its first one on. -/
def waveSyms (w : RxWave) : List (Cx × Cx) := (List.range (waveLen w)).map fun i => (w.x.getD (5 * i) (0, 0), w.y.getD (5 * i) (0, 0))

/-! ### Coarse frequency (R250) -/

/-- Q over 128 symbols and the power of these; the list holds 136 symbols. -/
def lag8 (l : List (Cx × Cx)) : Cx × Nat :=
  let a := l.take 128
  (cxSum (List.zipWith (fun u v => cxAdd (cxMul v.1 (cxConj u.1)) (cxMul v.2 (cxConj u.2))) a (l.drop 8)), (a.map fun u => cxAbs2 u.1 + cxAbs2 u.2).sum)

/-- The estimate of 136 symbols, arg Q in 2⁻³² turns: Δf is that × Rs/8. None unless |Q| exceeds half the power. -/
def coarse (l : List (Cx × Cx)) : Option Int :=
  let q := lag8 l
  if l.length = 136 && decide (q.2 * q.2 < 4 * cxAbs2 q.1) then some (turnOf q.1) else none

/-- The stream that feeds the correlator: each symbol de-rotated by the most recent Δf, or by the carrier recovery's frequency `fix` where that has taken over (R257). `past`: up to 136 symbols, oldest first; `df`: 2⁻³² turns of eight symbols; `ph`: the phase so far, 2⁻³⁷ turns. -/
def derotate (fix : Option Int) : List (Cx × Cx) → List (Cx × Cx) → Int → Int → List (Cx × Cx × Int)
  | [], _, _, _ => []
  | r :: l, past, df, ph =>
    let past := (past ++ [r]).drop (past.length - 135)
    let df := (coarse past).getD df
    let ph := ph + fix.getD (4 * df)
    (rotate ph r.1, rotate ph r.2, df) :: derotate fix l past df ph

/-! ### The correlator (R251) -/

/-- The correlation sequence of a polarisation: 512 symbols (R217). -/
def corrSeq (y : Bool) : List Cx := (pairUp (prbs15 1024 (if y then 0x6C0B else 0x1F35))).map fun b => (if b.1 then -1 else 1, if b.2 then -1 else 1)
where
  pairUp : List Bool → List (Bool × Bool)
    | a :: b :: l => (a, b) :: pairUp l
    | _ => []

/-- Correlation of a stretch of symbols with a sequence. -/
def correlate (l : List Cx) (c : List Cx) : Cx := cxSum (List.zipWith (fun u v => cxMul u (cxConj v)) l c)

/-- C at an offset: the four squared magnitudes. `l`: the stream from the later of its beginning and the offset on; `skip`: symbols of the part before its beginning. -/
def metric (cx cy : List Cx) (skip : Nat) (l : List (Cx × Cx)) : Nat :=
  let x := l.map Prod.fst
  let y := l.map Prod.snd
  let a := cx.drop skip
  let b := cy.drop skip
  cxAbs2 (correlate x a) + cxAbs2 (correlate x b) + cxAbs2 (correlate y a) + cxAbs2 (correlate y b)

/-- What the correlator finds in a waveform: the stream and where it begins. -/
structure Stream where
  first : Int
  syms : List (Cx × Cx)
  dfs : List Int

def streamOf (fix : Option Int) (df : Int) (w : RxWave) : Stream :=
  let l := derotate fix (waveSyms w) [] df 0
  { first := w.first, syms := l.map fun v => (v.1, v.2.1), dfs := l.map fun v => v.2.2 }

/-- C(τ) of a stream, τ against the start of the header. -/
def metricAt (t : Stream) (tau : Int) : Nat := metric (corrSeq false) (corrSeq true) (t.first - tau).toNat (t.syms.drop (tau - t.first).toNat)

/-- PFR(τ) as a ratio: 2,048 C(τ) and the sum of C over the 2,048 offsets before τ. -/
def pfrAt (t : Stream) (tau : Int) : Nat × Nat := (2048 * metricAt t tau, ((List.range 2048).map fun (k : Nat) => metricAt t (tau - 1 - (k : Int))).sum)

/-- A ratio reaches n/d dB. -/
def reaches (r : Nat × Nat) (n : Int) (d : Nat) : Bool := decide (0 < r.1) && decide (r.2 * tenTo n (10 * d) ≤ (r.1 : Int) * fxOne)
/-- A ratio is at least another one by n dB; a ratio to nothing is the largest. -/
def above (a b : Nat × Nat) (n : Int) : Bool := decide (a.2 * (b.1 * tenTo n 10) ≤ (a.1 : Int) * b.2 * fxOne)

/-- The largest n with 10^(n/d) at most a ratio, found from the top bit down between −2^bits and 2^bits. -/
def logBits (r : Nat × Nat) (d : Nat) : Nat → Int → Int
  | 0, n => n
  | k + 1, n => logBits r d k (if decide (r.2 * tenTo (n + 2 ^ k) d ≤ (r.1 : Int) * fxOne) then n + 2 ^ k else n)
def logOf (r : Nat × Nat) (d : Nat) : Int := logBits r d 17 (-65536)

/-- A peak of the correlator. -/
structure PeakView where
  pfr : Nat × Nat
  /-- arg Q in 2⁻³² turns -/
  df : Int
  largest : Bool

/-- Δf of a header: the estimate with which its repetition part ends (R257). -/
def dfAt (t : Stream) (df : Int) : Int := if 255 < t.first then df else t.dfs.getD (255 - t.first).toNat df

/-- The peak at τ = 256, where a candidate's correlation part begins (R251). -/
def peakView (df : Int) (w : RxWave) : PeakView :=
  let t := streamOf none df w
  let c := metricAt t 256
  { pfr := pfrAt t 256, df := dfAt t df, largest := (List.range 33).all fun i => decide (metricAt t (240 + (i : Int)) ≤ c) }

/-- The best peak within ±4 symbols of a predicted header (R252). -/
def windowView (fix : Option Int) (df : Int) (w : RxWave) : PeakView × Int :=
  let t := streamOf fix df w
  let best := (List.range 9).foldl (fun (b : Nat × Int) i => let d := (i : Int) - 4; let c := metricAt t (256 + d); if b.1 < c then (c, d) else b) (metricAt t 256, 0)
  ({ pfr := pfrAt t (256 + best.2), df := dfAt t df, largest := true }, best.2)

/-! ### The equaliser (R259) -/

/-- What the four filters see at symbol n: 128 points of each polarisation at Ts spacing. -/
def tapView (w : RxWave) (n : Int) : List Cx := [false, true].flatMap fun y => (List.range 128).map fun (k : Nat) => wavePoint w y (5 * n + 4 * ((k : Int) - 64))

/-- Output o at a symbol, in fixed point: taps 256 o to 256 o + 255 over both polarisations. -/
def eqOut (taps : List Cx) (o : Nat) (v : List Cx) : Cx := cxSum (List.zipWith cxMul ((taps.drop (256 * o)).take 256) v)

/-- A row of equations reduced by a pivot row at column j. -/
def reduceRow (j : Nat) (p : List Cx) (r : List Cx) : List Cx := let f := r.getD j (0, 0); List.zipWith (fun a b => cxSub a (cxFx f b)) r p

/-- Gauss–Jordan elimination over the columns left: `done` rows have their pivots. -/
def eliminate : Nat → Nat → List (List Cx) → List (List Cx) → List (List Cx)
  | 0, _, done, _ => done
  | n + 1, j, done, rest =>
    match rest.find? fun r => r.getD j (0, 0) ≠ (0, 0) with
    | none => eliminate n (j + 1) (done ++ [[]]) rest
    | some r =>
      let z := r.getD j (0, 0)
      let p := r.map fun a => let v := cxMul a (cxConj z); (v.1 * fxOne / cxAbs2 z, v.2 * fxOne / cxAbs2 z)
      eliminate n (j + 1) (done.map (reduceRow j p) ++ [p]) ((rest.erase r).map (reduceRow j p))

/-- Taps of output `o` that fit known symbols best: the normal equations of the least squares, solved. A tap that they leave open is a free value. -/
def fitOutput (e : Nat) (views : List (List Cx)) (want : List Cx) (o : Nat) : List Cx :=
  let row := fun i => (List.range 256).map (fun j => cxSum (views.map fun v => cxMul (cxConj (v.getD i (0, 0))) (v.getD j (0, 0))))
    ++ [cxSum (List.zipWith (fun v s => cxMul (cxConj (v.getD i (0, 0))) s) views want)]
  let sol := eliminate 256 0 [] ((List.range 256).map fun i => (row i).map fun z => (z.1 * fxOne, z.2 * fxOne))
  let free := fun i => if (sol.getD i []).isEmpty then (Config.tapOpen e (256 * o + i), (0 : Int)) else (0, 0)
  (List.range 256).map fun i =>
    let r := sol.getD i []
    if r.isEmpty then free i else (List.range 256).foldl (fun v j => cxSub v (cxFx (r.getD j (0, 0)) (free j))) (r.getD 256 (0, 0))

/-- The fit over a candidate's correlation part, the waveform de-rotated by its Δf: output 0 to the X sequence, output 1 to the Y sequence. -/
def eqFit (e : Nat) (f : Int) (w : RxWave) : List Cx :=
  let views := (List.range 512).map fun (i : Nat) => (tapView w (256 + i)).map (rotate (f * (256 + (i : Int))))
  fitOutput e views (corrSeq false) 0 ++ fitOutput e views (corrSeq true) 1

/-- One step of least mean squares: both outputs against the symbols wanted, in fixed point. -/
def lmsStep (e : Nat) (taps : List Cx) (v : List Cx) (want : Cx × Cx) : List Cx :=
  let upd := fun (o : Nat) (s : Cx) =>
    let err := cxSub s (eqOut taps o v)
    List.zipWith (fun t u => cxAdd t (cxFx (Config.lmsGain e, 0) (cxMul err (cxConj u)))) ((taps.drop (256 * o)).take 256) v
  upd 0 want.1 ++ upd 1 want.2

/-- Known symbols of a header before its descriptor. -/
def headerKnown (i : Nat) : Cx × Cx :=
  let q := fun (b : Qpsk) => ((if b.1 then -fxOne else fxOne), (if b.2 then -fxOne else fxOne))
  (q (headerSymbol false 0#64 i), q (headerSymbol true 0#64 i))

/-- The fit is refined over a verified header. -/
def eqRefine (e : Nat) (f : Int) (w : RxWave) (taps : List Cx) : List Cx :=
  (List.range 768).foldl (fun t (i : Nat) => lmsStep e t ((tapView w i).map (rotate (f * i))) (headerKnown i)) taps

/-! ### Carrier phase, pilots and the descriptor (R253, R257, R260, R261) -/

/-- The symbols an equaliser puts out, de-rotated by the carrier frequency. -/
def outAt (taps : List Cx) (f : Int) (w : RxWave) (n : Int) : Cx × Cx := let v := tapView w n; (rotate (f * n) (eqOut taps 0 v), rotate (f * n) (eqOut taps 1 v))

/-- Phase of a header at an output, from its correlation part. -/
def headerPhasor (taps : List Cx) (f : Int) (w : RxWave) : Cx :=
  cxSum ((List.range 512).map fun (i : Nat) =>
    let o := outAt taps f w (256 + i)
    cxAdd (cxMul o.1 (cxConj ((corrSeq false).getD i (0, 0)))) (cxMul o.2 (cxConj ((corrSeq true).getD i (0, 0)))))

/-- The descriptor of a header: each bit from the four symbols of both polarisations that carry it, + for 0 (R217). -/
def readDescriptor (taps : List Cx) (f : Int) (w : RxWave) : W64 :=
  let p := headerPhasor taps f w
  let bit := fun (i : Nat) => (List.range 4).foldl (fun (a : Int) j =>
    let o := outAt taps f w (768 + 4 * (63 - (i : Int)) + j)
    let z := cxMul (cxAdd o.1 o.2) (cxConj p)
    a + z.1 + z.2) 0
  BitVec.ofNat 64 (((List.range 64).filter fun i => decide (bit i < 0)).map fun i => 2 ^ i).sum

/-- Body symbol of the q-th pilot (R216). -/
def pilotPlace (bonded : Bool) (e q : Nat) : Nat := if bonded then 128 * q + 32 * e else 64 * q
def pilotCount (bonded : Bool) : Nat := if bonded then 2040 else 4080

def pilotSigns (y : Bool) (q : Nat) : Cx := let b := pilotSymbol y q; (if b.1 then -1 else 1, if b.2 then -1 else 1)

/-- The pilots of both outputs in the superframe that ends where a header is due. -/
def pilotsOut (bonded : Bool) (e : Nat) (taps : List Cx) (f : Int) (w : RxWave) : List (Cx × Cx) :=
  (List.range (pilotCount bonded)).map fun q => outAt taps f w (1024 - 262144 + (pilotPlace bonded e q : Int))

/-- The phasor at a pilot. -/
def pilotPhasor (q : Nat) (o : Cx × Cx) : Cx := cxAdd (cxMul o.1 (cxConj (pilotSigns false q))) (cxMul o.2 (cxConj (pilotSigns true q)))

/-- Phase at every pilot in 2⁻³² turns, smoothed over 2k + 1 pilots (R257). -/
def pilotPhases (k : Nat) (ps : List (Cx × Cx)) : List Int :=
  let z := ps.zipIdx.map fun p => pilotPhasor p.2 p.1
  (List.range z.length).map fun q => turnOf (cxSum ((z.drop (q - k)).take (min q k + k + 1)))

/-- Phase at body symbol n, on the shorter way from pilot to pilot, and with what decisions add to it (R257). -/
def phaseAt (bonded : Bool) (e : Nat) (ph : List Int) (n : Nat) : Int :=
  let d := if bonded then 128 else 64
  let o := if bonded then 32 * e else 0
  let q := (n - o) / d
  let a := ph.getD q 0
  let b := ph.getD (q + 1) a
  let s := (b - a + 2 ^ 31) % 2 ^ 32 - 2 ^ 31
  a + s * ((n - o) % d : Nat) / d + Config.phaseTrim e n

/-- The sequence that an output's pilots correlate best with, if one does: false for X (R260). -/
def bestPilot (ps : List Cx) : Option Bool :=
  let c := fun y => cxAbs2 (cxSum (ps.zipIdx.map fun p => cxMul p.1 (cxConj (pilotSigns y p.2))))
  if c true < c false then some false else if c false < c true then some true else none

/-- Both outputs correlate best with the same sequence (R260). -/
def outputsAlike (ps : List (Cx × Cx)) : Bool :=
  match bestPilot (ps.map Prod.fst), bestPilot (ps.map Prod.snd) with
  | some a, some b => a == b
  | _, _ => false

/-! ### Decisions (R259) -/

/-- The nearest amplitude of a dimension, of those of the format; `v` and `a` in units of the smallest one, fixed point. -/
def nearestAmp (format : Nat) (v : Int) : Int :=
  let amps : List Int := if format = 0 then [1] else if format = 1 then [1, 3] else [1, 3, 5, 7]
  let m := amps.foldl (fun (b : Int) a => if ((v.natAbs : Int) - a * fxOne).natAbs < ((v.natAbs : Int) - b * fxOne).natAbs then a else b) 1
  if v < 0 then -m else m

/-- In LOCKED the equaliser adapts over the superframe, decisions being made where a symbol is not known. `amp` is A in units of the smallest amplitude, `phase` the carrier phase at a body symbol (R217, R259). -/
def eqAdapt (bonded : Bool) (e format : Nat) (amp : Int) (f : Int) (phase : Nat → Int) (w : RxWave) (taps : List Cx) : List Cx :=
  (List.range 261120).foldl (fun t (n : Nat) =>
    let at_ : Int := 1024 - 262144 + n
    let r := f * at_ + 32 * phase n
    let v := (tapView w at_).map (rotate r)
    let known := isPilot bonded e n
    let q := (n - if bonded then 32 * e else 0) / (if bonded then 128 else 64)
    let dec := fun (z : Cx) => (nearestAmp format (fxMul z.1 amp) * fxOne * fxOne / amp, nearestAmp format (fxMul z.2 amp) * fxOne * fxOne / amp)
    let want : Cx × Cx := if known then (let p := pilotSigns false q; let r := pilotSigns true q; ((p.1 * fxOne, p.2 * fxOne), (r.1 * fxOne, r.2 * fxOne))) else (dec (eqOut t 0 v), dec (eqOut t 1 v))
    lmsStep e t v want) taps

/-- The header that follows is known too: its repetition and correlation parts, and its descriptor where DCRC is correct (R259). -/
def eqHeader (e : Nat) (desc : Option W64) (f ph : Int) (w : RxWave) (taps : List Cx) : List Cx :=
  (List.range (if desc.isSome then 1024 else 768)).foldl (fun t (i : Nat) =>
    let q := fun (y : Bool) => let b := headerSymbol y (desc.getD 0#64) i; ((if b.1 then -fxOne else fxOne), (if b.2 then -fxOne else fxOne))
    lmsStep e t ((tapView w i).map (rotate (f * i + 32 * ph))) (q false, q true)) taps

/-! ### Drift and joint carrier recovery (R257, R261) -/

/-- Pilot phases without jumps: from pilot to pilot on the shorter way. -/
def unwrapPhase (ph : List Int) : List Int :=
  (ph.foldl (fun (t : List Int × Int) p => (match t.1 with | [] => [p] | v :: r => (v + ((p - t.2 + 2 ^ 31) % 2 ^ 32 - 2 ^ 31)) :: v :: r, p)) ([], 0)).1.reverse

/-- What the phase gains from the first pilot of a superframe to the last, in 2⁻³² turns: the frequency that the carrier recovery has still to follow (R257). -/
def phaseDrift (ph : List Int) : Int := let u := unwrapPhase ph; u.getLastD 0 - u.headD 0

/-- An engine's static phase and frequency offset at place k/m, counted in its pilots (R261). -/
def staticAt (ph : List Int) (k : Int) (m : Nat) : Int :=
  let u := unwrapPhase ph
  let c : Int := ((ph.length - 1 : Nat) : Int)
  let mean : Int := (u.zipIdx.map fun p => p.1 - phaseDrift ph * (p.2 : Int) / c).foldl (· + ·) 0 / (u.length : Int)
  mean + phaseDrift ph * k / (m * c)

/-- The common phase-noise estimate every 32 symbols of one superframe of the group, which the engines' pilots of that superframe give: each comes from the engine whose pilot falls there, less
what is static of it; where there is none, the one before stands. -/
def commonPhase (engs : List (Nat × List Int)) : List Int :=
  let rest := engs.map fun x => (x.1, (unwrapPhase x.2).zipIdx.map fun p => p.1 - staticAt x.2 (p.2 : Int) 1)
  ((List.range 8160).foldl (fun (l : List Int × Int) j =>
    let v := match rest.find? fun x => x.1 = j % 4 with
      | some x => x.2.getD (j / 4) l.2
      | none => l.2
    (v :: l.1, v)) ([], 0)).1.reverse

/-- The phase of an engine in joint tracking at body symbol n: the common estimate on its own static phase. -/
def jointPhaseAt (e : Nat) (common : List Int) (own : List Int) (n : Nat) : Int := staticAt own ((n : Int) - 32 * e) 128 + common.getD (n / 32) 0

end Sys2Proof.Machine
end

