-- ==== Sys2Proof/Machine/Waveform.lean ====
section
/-! DEFINITION. What shapes the waveform of a line engine: pulse shaping, pre-emphasis, the scale and the corrections of calibration (07_line_transmitter R217, R221–R223, R232). -/

namespace Sys2Proof.Machine

/-! ### Pulse shaping and pre-emphasis (R222, R223) -/

/-- Frequencies of the grid on which the response of the filter is held: k × Rs/128, up to half the sample rate. -/
def shapeGrid : Nat := 80

/-- Frequency k lies in the passband, up to (1 − α) × Rs/2. -/
def inPass (roll k : Nat) : Bool := decide (200 * k ≤ 128 * (100 - roll))
/-- Frequency k lies at (1 + α) × Rs/2 + 1 GHz or beyond; Rs in kBd. -/
def inStop (rs : Nat × Nat) (roll k : Nat) : Bool := decide (128 * ((100 + roll) * rs.1 + 200 * 1000000 * rs.2) ≤ 200 * k * rs.1)

/-- The ideal root-raised-cosine response at frequency k. -/
def shapeIdeal (roll k : Nat) : Int :=
  if inPass roll k then fxOne
  else if 128 * (100 + roll) ≤ 200 * k then 0
  else cosTurn (200 * (k : Int) - 128 * (100 - (roll : Int))) (1024 * roll)

/-- 35 dB down. -/
def stopGain : Int := dbGain (-35) 1

/-- The response of the filter of DAC `u`: within ±0.1 dB of the ideal one in the passband, at least 35 dB down in the stopband; between them the ideal one with a free deviation (R222, log entry 100). -/
def shapeGain (u : Nat) (rs : Nat × Nat) (roll k : Nat) : Int :=
  let dev := Config.shapeDev u roll k
  if inPass roll k then dbGain (clamp (-100) 100 dev) 1000
  else if inStop rs roll k then clamp 0 stopGain dev
  else shapeIdeal roll k + dev

/-- G_p of a lane. -/
def prePoint (pre : List W32) (lane p : Nat) : Nat := ((bytesOf (pre.getD (4 * lane + p / 4) 0#32)).getD (p % 4) 0#8).toNat

/-- Pre-emphasis of a lane at frequency k, as tenths of a dB over 128 × (100 + roll): points at p × (1 + α) × Rs/30, linear between them, that of point 15 above (R223). -/
def preTenths (pre : List W32) (lane roll k : Nat) : Nat :=
  let den := 128 * (100 + roll)
  let p := 3000 * k / den
  let r := 3000 * k % den
  if 15 ≤ p then prePoint pre lane 15 * den else prePoint pre lane p * (den - r) + prePoint pre lane (p + 1) * r
def preGain (pre : List W32) (lane roll k : Nat) : Int := dbGain (preTenths pre lane roll k) (1280 * (100 + roll))

/-- The response of a lane: shaping and pre-emphasis; `pre` is empty where no table was ever written. -/
def laneResponse (e lane : Nat) (rs : Nat × Nat) (roll : Nat) (pre : List W32) : List Int :=
  (List.range (shapeGrid + 1)).map fun k =>
    let h := shapeGain (4 * e + lane) rs roll k
    if pre.isEmpty then h else fxMul h (preGain pre lane roll k)

/-- The pulse of a response at time n/d symbols from its middle; cos kθ follows from cos (k − 1)θ and cos (k − 2)θ. -/
def pulseAt (resp : List Int) (n : Int) (d : Nat) : Int :=
  let c := cosTurn n (128 * d)
  ((resp.drop 1).foldl (fun (t : Int × Int × Int) h => (t.2.1, fxMul (2 * c) t.2.1 - t.1, t.2.2 + 2 * h * t.2.1)) (fxOne, c, resp.headD 0 * fxOne)).2.2 / fxOne

/-! ### The scale (R217, R221) -/

/-- Mean energy per dimension of the data symbols. -/
def meanEnergy (format entropy : Nat) : Int :=
  if format = 0 then fxOne else if format = 1 then 5 * fxOne else fxDiv (compEnergy (composition entropy)) 256

/-- The value of a dimension: data in units of the smallest amplitude, header and pilots in units of A, where A² is the mean energy per dimension of the data (R217). -/
def symValue (energy : Int) (lane : Nat) (x : LineSym) : Int := if x.ref then x.v.getD lane 0 * fxSqrt energy else x.v.getD lane 0 * fxOne

/-- The RMS of a lane at unit scale, from the mean energy and that of its pulse (DEDUCED, log entry 100). -/
def laneRms (energy : Int) (resp : List Int) : Int :=
  fxMul (fxSqrt energy) (fxSqrt (128 * resp.zipIdx.foldl (fun v h => v + (if h.2 = 0 then fxMul h.1 h.1 else 2 * fxMul h.1 h.1)) 0))

/-- DRIVE × a; the calibration waveform of DARK has the DRIVE in force (R221, R233). -/
def driveLevel (x : TxSt) : Int := lcDrive x.cfg * (if x.state = .dark then fxOne else rampFactor x)

/-! ### Corrections (R232) -/

/-- Slices of a DAC that work; the samples go to them in turn (R224, R235). -/
def dacTurn (x : TxSt) (lane : Nat) : List Nat := (List.range 8).filter fun k => !x.dacSlices.contains (lane, k)

/-- Delay of a sample, in taps of Ts/256: the skew loops of its lane and the timing of its slice. -/
def corrDelay (x : TxSt) (lane slice : Nat) : Int :=
  let c := fun i => tget 0 x.calCorr i
  (if lane = 1 then 2 * c 0 else 0) + (if lane = 3 then 2 * c 1 else 0) + (if 2 ≤ lane then 2 * c 2 else 0) + c (32 + 8 * lane + slice)

/-- Gain of a sample: the gain loops of its lane in 0.01 dB, and its slice in 0.005 dB. -/
def corrGain (x : TxSt) (lane slice : Nat) : Int :=
  let c := fun i => tget 0 x.calCorr i
  dbGain ((if lane = 1 then 2 * c 3 else 0) + (if lane = 3 then 2 * c 4 else 0) + (if 2 ≤ lane then 2 * c 5 else 0) + c (64 + 8 * lane + slice)) 200

/-- Offset of a sample in codes: its slice, in 1/16. -/
def corrOffset (x : TxSt) (lane slice : Nat) : Int := fxDiv (tget 0 x.calCorr (96 + 8 * lane + slice)) 16

end Sys2Proof.Machine
end

