-- ==== Sys2Proof/Machine/LineRx.lean ====
section
/-! DEFINITION. Line receivers: rates, acquisition, tracking, calibration and quality (08_line_receiver R238–R265). -/

namespace Sys2Proof.Machine

/-! ### Fields and rates (R238) -/

def onRxEng (e : Nat) (f : RxSt → RxSt) (s : State) : State := s.onRx fun v => { v with eng := tmod {} v.eng e f }

def rcCdMode (c : List W32) : Bool := bit (c.getD 0 0#32) 13
def rcDescCheck (c : List W32) : Bool := bit (c.getD 0 0#32) 12
def rcPilotAvg (c : List W32) : Nat := fld (c.getD 0 0#32) 11 8
def rcCdSet (c : List W32) : Int := signed 16 (fld (c.getD 1 0#32) 31 16)
def rcCdSpan (c : List W32) : Nat := fld (c.getD 1 0#32) 15 8
def rcLosThr (c : List W32) : Nat := fld (c.getD 1 0#32) 7 0
def rcHuntThr (c : List W32) : Nat := fld (c.getD 2 0#32) 31 26
def rcVerThr (c : List W32) : Nat := fld (c.getD 2 0#32) 25 20
def rcHuntTimeout (c : List W32) : Nat := fld (c.getD 2 0#32) 19 12
def rcDeskew (c : List W32) (l : Nat) : Int := signed 16 (if l % 2 = 0 then fld (c.getD (3 + l / 2) 0#32) 31 16 else fld (c.getD (3 + l / 2) 0#32) 15 0)

/-- The RX_CFG whose rate fields rule receiver e. -/
def rxRule (s : State) (e : Nat) : List W32 := (rxEng s (ruling s e)).cfg

/-- The symbol rate of a receiver in force. -/
def rxSymbolRate (s : State) (e : Nat) : Nat × Nat :=
  let c := rxRule s e
  symbolRate (lcFormat c) (lcN c) (lcEntropy c) (bondedNow s)

def rxOverRate (s : State) (e : Nat) : Bool := !fracLe (rxSymbolRate s e) (rxEng s e).maxRs.toNat

/-- Gain control at a symbol counted from the last header's start (R246): FAST in SCAN and HUNT, FROZEN over a header of the candidate and over the predicted windows, else SLOW. -/
def agcOf (x : RxSt) (d : Nat) : Agc :=
  match x.state with
  | .verify | .locked => if d < 1024 || decide ((d + 4) % 262144 < 1032) then .frozen else .slow
  | _ => .fast

/-- The gain of a lane that settles to a level in FAST: within ±0.5 dB (R246, log entry 102). -/
def fastGain (e l : Nat) (level : Int) : Int := -level + clamp (-50) 50 (Config.agcDev (4 * e + l) level)
/-- The gain of a lane after a superframe of SLOW: at most 0.1 dB toward its level (R246). -/
def slowGain (g level : Int) : Int := g + clamp (-10) 10 (-level - g)

/-- Gain control up to symbol `d`: it settles before a header is detected, creeps over a superframe, and is held over the header (R246). -/
def agcStep (e d : Nat) (level : List Int) (x : RxSt) : RxSt :=
  { x with gain := (List.range 4).foldl (fun t l =>
      let v := level.getD l 0
      tset 0 t l (match agcOf x d with | .fast => fastGain e l v | .slow => slowGain (tget 0 t l) v | .frozen => tget 0 t l)) x.gain }

/-! ### Symbols of the receiver (R245, R248, R250) -/

/-- Symbols in 6,250 rows times the denominator of Rs: what a timer gains in a row, and a superframe in the same scale. -/
def rowGain (s : State) (e : Nat) : Nat := (rxSymbolRate s e).1
def superframes (s : State) (e n : Nat) : Nat := n * 262144 * 6250 * (rxSymbolRate s e).2

/-- A time counted row by row reaches `n` superframes in this row. -/
def elapsed (s : State) (e t n : Nat) : Bool := decide (superframes s e n ≤ t + rowGain s e)

/-- A row passes for the timers of HUNT and SCAN (R248, R249). -/
def rxTimers (e : Nat) (s : State) : State :=
  onRxEng e (fun x => match x.state with
    | .hunt | .verify => { x with huntSym := x.huntSym + rowGain s e }
    | .scan => { x with scanSym := x.scanSym + rowGain s e }
    | _ => x) s

/-- An estimate of Δf lies within `khz`: it is Rs/8 times the estimate in turns (R250). -/
def freqWithin (s : State) (e : Nat) (df : Int) (khz : Nat) : Bool := decide (df.natAbs * (rxSymbolRate s e).1 ≤ khz * 2 ^ 35 * (rxSymbolRate s e).2)

/-- The carrier frequency in kHz, rounded down. -/
def carrierKhz (s : State) (e : Nat) : Int := (rxEng s e).car * (rxSymbolRate s e).1 / ((2 ^ 37 * (rxSymbolRate s e).2 : Nat) : Int)

/-- The carrier frequency after a superframe in which the pilots' phase drifted by `drift`: a total offset of ±5 GHz that changes by up to 100 MHz/ms is tracked; beyond that the frequency is a
free value (R257, log entry 102). -/
def carrierTrack (s : State) (e : Nat) (drift : Int) : Int :=
  let r := rxSymbolRate s e
  let d := 32 * drift / ((if bondedNow s then 128 else 64) * (pilotCount (bondedNow s) - 1 : Nat) : Int)
  let f := (rxEng s e).car + d
  if decide (f.natAbs * r.1 ≤ 5000000 * 2 ^ 37 * r.2) && decide (d.natAbs * r.1 * r.1 * 1000000 ≤ 100000000000 * 262144 * 2 ^ 37 * r.2 * r.2) then f else Config.trackBeyond e f

/-! ### What leaving LOCKED does to the decoder -/

def otnOf (s : State) (e : Nat) : OtnSt := tget {} s.otn e
def onOtnE (e : Nat) (f : OtnSt → OtnSt) (s : State) : State := s.onOtn fun t => tmod {} t e f

/-- Multiframes that are interrupted do not count as consecutive (R289, R291). -/
def multiframeLost (x : OtnSt) : OtnSt := { x with ttiNow := [], ttiRun := [], ptRun := 0 }

/-- The decoded stream ends: frame and row blocks are lost with it, and no run of frames goes on (DEDUCED, log entry 36). OOF and OOM begin in `row` where they were not in force. -/
def streamLost (row : Nat) (x : OtnSt) : OtnSt :=
  { multiframeLost x with
    onRun := [], offRun := []
    oofRun := if x.inFrame then 0 else x.oofRun, oofRow := if x.inFrame then row else x.oofRow, oomRun := if x.inMf then 0 else x.oomRun, oomRow := if x.inMf then row else x.oomRow
    inFrame := false, inMf := false, fasCands := if x.inFrame then [{ off := x.frameOff, hits := 0 }] else x.fasCands, fasBad := 0, align := none, released := none, gapRows := 0
    slices := x.slices.map fun y => (y.1, { y.2 with sync := false, goodRun := 0, badRun := 0, last := none, queue := [], rx := [], resync := 0, par := [], smBei := 0, pmBei := 0 }) }

/-- Codeword lock is lost and the test starts afresh (R272). -/
def codewordLost (row : Nat) (x : OtnSt) : OtnSt := { streamLost row { x with fasCands := [] } with rxBits := [], rxSkip := 0, labels := [], lblSync := false, cwPhase := 0, cwLock := false, cwGroup := 0, cwTest := [], cwBad := 0, cwRun := 0 }

def otnDefect (e : Nat) (d : LineDefect) (ev : Ev) (now : Bool) (s : State) : State :=
  let was := (otnOf s e).defects.contains d
  noteChange ev e was now (if was = now then s else onOtnE e (fun x => { x with defects := if now then x.defects ++ [d] else del x.defects d }) s)

/-- A disabled receiver holds no line defect. -/
def otnOff (e : Nat) (s : State) : State :=
  LineDefect.all.foldl (fun s d => otnDefect e d d.ev false s) (onOtnE e (fun x => { codewordLost 0 x with fasCands := [], oofRun := 0, oofRow := 0, ifRun := 0, oomRun := 0, oomRow := 0, imRun := 0 }) s)

/-! ### States of acquisition (R248) -/

def rxLosf (e : Nat) (now : Bool) (s : State) : State :=
  let s := noteChange evLinDLosf e (rxEng s e).losf now (onRxEng e (fun x => { x with losf := now }) s)
  if now then sourceLost (4 + e) s else s
def rxLos (e : Nat) (now : Bool) (s : State) : State :=
  noteChange evLinDRxlos e (rxEng s e).los now (onRxEng e (fun x => { x with los := now }) s)

def clearDescMm (e : Nat) (s : State) : State :=
  if (rxEng s e).descMm then noteClear evLinDescMm e (onRxEng e (fun x => { x with descMm := false }) s) else s
/-- Every mismatch counts; declaration and clearing are logged apart (R253). -/
def countDescMm (e : Nat) (s : State) : State :=
  let s' := tally evLinDescMm e 1 (onRxEng e (fun x => { x with descMm := true }) s)
  if (rxEng s e).descMm then s' else logEvent evLinDescMm e 1 false s'

def cdLimitClear (e : Nat) (s : State) : State :=
  if (rxEng s e).cdLimit then noteClear evLinCdTrackLimit e (onRxEng e (fun x => { x with cdLimit := false }) s) else s

/-- A receiver enters a state other than LOCKED and VERIFY. -/
def rxEnter (st : RxState) (e : Nat) (s : State) : State :=
  let was := (rxEng s e).state
  let s := onRxEng e (fun x => { x with
    state := st, cand := none, runner := none, verified := 0, dcrcBad := 0, misses := 0, mimoRun := 0, refit := false, lockedRun := 0, huntHeld := false
    scanSym := 0, huntSym := if st = .hunt && (was = .verify || was = .hunt) then x.huntSym else 0 }) s
  let s := if was = .locked then onOtnE e (codewordLost s.stk.row) (cdLimitClear e (onRxEng e (fun x => { x with cdTrack := 0, cdLimRun := 0 }) s)) else s
  rxLosf e (st ≠ .off) s

/-- SCAN discards ACQ_CD (R248). -/
def rxScan (e : Nat) (s : State) : State := onRxEng e (fun x => { x with acqCd := none, tones := [] }) (rxEnter .scan e s)

/-- An expiry of the HUNT timer takes effect: SCAN, or HUNT with the timer restarted, `left` being what has passed of the next period (R248). -/
def huntExpire (left : Nat) (e : Nat) (s : State) : State :=
  let s := note evLinHuntTimeout e 1 s
  if rcCdMode (rxEng s e).cfg then rxScan e s else onRxEng e (fun x => { x with huntSym := left }) s

/-- HUNT: the dispersion stays that of the hunt in progress; else it is CD_SET with CD_MODE 0, or the acquired value (R248, R258). Coming from VERIFY, an expiry held there takes effect (R248). -/
def rxHunt (e : Nat) (s : State) : State :=
  let was := (rxEng s e).state
  let held := was = .verify && (rxEng s e).huntHeld
  let s := onRxEng e (fun x => { x with cd := if was = .verify || was = .hunt then x.cd else if rcCdMode x.cfg then x.acqCd.getD x.cd else rcCdSet x.cfg }) (rxEnter .hunt e s)
  if held then huntExpire 0 e s else s

/-- The exit from NOSIG, and the entry on enable: HUNT if CD_MODE is 0 or ACQ_CD is valid, else SCAN. -/
def rxLeaveNosig (e : Nat) (s : State) : State :=
  let x := rxEng s e
  if !rcCdMode x.cfg || x.acqCd.isSome then rxHunt e s else rxScan e s

/-- Acquisition starts as newly enabled (R239, R248). -/
def rxStart (e : Nat) (s : State) : State :=
  let s := onRxEng e (fun x => { x with acqCd := none }) s
  if s.rx.dark.contains e then rxEnter .nosig e (rxLos e true s) else rxLeaveNosig e (rxLos e false s)

def rxOff (e : Nat) (s : State) : State :=
  otnOff e (cdLimitClear e (clearDescMm e (rxLos e false (onRxEng e (fun x => { x with acqCd := none, cdTrack := 0, cdLimRun := 0 }) (rxEnter .off e s)))))

/-- The start-up calibration runs on the internal source: KINDLE, until it is complete. The LRX pins are disconnected, so that nothing is received from them (R243). -/
def startCal (s : State) : Bool := s.mode.mode = .kindle && s.boot.stage = .calibrating

/-- Rows `rows` in which the RMS of the lanes was as given declare dRXLOS (R247). -/
def drxlos (e : Nat) (lanes : List Nat) (rows : Nat) (s : State) : State :=
  let x := rxEng s e
  if startCal s then s
  else if enginePresent s e && x.state ≠ .off && !x.los && lanes.length = 4 && lanes.all (fun v => decide (v < rcLosThr x.cfg)) && 2 ≤ rows then
    rxEnter .nosig e (rxLos e true s)
  else s
def execDrxlos (e : Fin 4) (lanes : List Nat) (rows : Nat) (s : State) : Host.Outcome State Fault Refusal := ok (drxlos e lanes rows s)

/-- dRXLOS clears after 125 rows in which a lane was at or above LOS_THR. -/
def drxlosClear (e : Nat) (lanes : List Nat) (rows : Nat) (s : State) : State :=
  let x := rxEng s e
  if x.state = .nosig && !startCal s && x.los && lanes.any (fun v => decide (rcLosThr x.cfg ≤ v)) && 125 ≤ rows then rxLeaveNosig e (rxLos e false s) else s
def execDrxlosClear (e : Fin 4) (lanes : List Nat) (rows : Nat) (s : State) : Host.Outcome State Fault Refusal := ok (drxlosClear e lanes rows s)

/-- The values a scan tries, in ps/nm (R249). -/
def scanCoarse (c : List W32) : List Int :=
  let k := rcCdSpan c / 2
  ((List.range (2 * k + 1)).map fun (i : Nat) => 10 * rcCdSet c + 2000 * ((i : Int) - k)).filter fun v => decide (v.natAbs ≤ 200000)
def scanFine (best : Int) : List Int :=
  ((List.range 41).map fun (j : Nat) => best + 100 * ((j : Int) - 20)).filter fun v => decide (v.natAbs ≤ 200000)

/-- The value with the largest tone power; of equal ones the one tried first (R249). -/
def scanBest (values : List Int) (tones : List Nat) : Int :=
  ((values.zipIdx.foldl (fun (b : Option (Int × Nat)) v =>
    let p := tones.getD v.2 0
    match b with | some (_, q) => if q < p then some (v.1, p) else b | none => some (v.1, p)) none).map Prod.fst).getD 0

/-- The outcome of a scan in ps/nm from the tone powers in the order in which the values were tried, and how many these were (R249). -/
def scanResult (c : List W32) (tones : List Nat) : Int × Nat :=
  let a := scanCoarse c
  let b := scanFine (scanBest a tones)
  (scanBest b (tones.drop a.length), a.length + b.length)

/-- The value that a scan applies in this row, in ps/nm: each for 2 × TSF; the fine pass goes about the best of the coarse powers measured (R249). -/
def scanValue (s : State) (e : Nat) : Int :=
  let x := rxEng s e
  let a := scanCoarse x.cfg
  let i := x.scanSym / superframes s e 2
  match a[i]? with
  | some v => v
  | none => let b := scanFine (scanBest a (x.tones.take a.length)); b.getD (min (i - a.length) (b.length - 1)) 0

/-- Dispersion applied, in 10 ps/nm: in LOCKED ACQ_CD, or CD_SET with CD_MODE 0, with the tracked correction; in SCAN the value under trial; else the value with which the receiver hunts (R249, R258). -/
def appliedCd (s : State) (e : Nat) : Int :=
  let x := rxEng s e
  match x.state with
  | .locked => (if rcCdMode x.cfg then x.acqCd.getD x.cd else rcCdSet x.cfg) + x.cdTrack
  | .scan => scanValue s e / 10
  | _ => x.cd

/-- CD_SCAN_DONE: after 2 × TSF for each value tried, HUNT starts with the best fine value (R249). `tones`: the powers of the symbol-clock tone, normalised to the total power. -/
def cdScanDone (e : Nat) (tones : List Nat) (s : State) : State :=
  let x := rxEng s e
  let r := scanResult x.cfg tones
  if x.state = .scan && elapsed s e x.scanSym (2 * r.2) then rxEnter .hunt e (onRxEng e (fun x => { x with cd := r.1 / 10 }) s) else s
def execCdScanDone (e : Fin 4) (tones : List Nat) (s : State) : Host.Outcome State Fault Refusal := ok (cdScanDone e tones s)

/-- HUNT_TIMEOUT: after HUNT_TIMEOUT × TSF; held in VERIFY (R248). -/
def huntTimeout (e : Nat) (s : State) : State :=
  let x := rxEng s e
  let n := rcHuntTimeout x.cfg
  if !elapsed s e x.huntSym n then s
  else match x.state with
  | .hunt => huntExpire (x.huntSym - superframes s e n) e s
  | .verify => onRxEng e (fun x => { x with huntHeld := true }) s
  | _ => s
def execHuntTimeout (e : Fin 4) (s : State) : Host.Outcome State Fault Refusal := ok (huntTimeout e s)

/-! ### Candidates (R250–R256) -/

/-- A PFR in 0.5 dB, saturating; the spec states no rounding (log entry 34). -/
def pfrShow (p : Nat × Nat) : Byte :=
  if p.1 = 0 then 0#8
  else
    let n := (logOf p 20).toNat
    let exact := decide (p.2 * tenTo n 20 = (p.1 : Int) * fxOne)
    BitVec.ofNat 8 (min 255 (n + flag (!exact && Config.roundsUp p.1 p.2)))

/-- A candidate from its peak: the equaliser fitted over its correlation part, and the descriptor that this gives (R253, R259). -/
def candOf (e : Nat) (pk : Peak) (v : PeakView) : Cand :=
  let taps := eqFit e (4 * v.df) pk.wave
  { pos := pk.pos, pfr := v.pfr, df := v.df, desc := readDescriptor taps (4 * v.df) pk.wave, dfs := [v.df], taps := taps }

/-- Bits `[hi:lo]` of a descriptor (R218). -/
def dfld (d : W64) (hi lo : Nat) : Nat := (d.toNat >>> lo) % 2 ^ (hi + 1 - lo)

/-- DCRC is correct. -/
def dcrcOk (d : W64) : Bool := (crc8 (bytesOfNat 7 (d.toNat >>> 8))).toNat = d.toNat % 256

/-- FORMAT, N, ENTROPY, ROLLOFF and BONDED equal those in force, and in bonded mode ENGINE equals e (R253). -/
def descMatches (s : State) (e : Nat) (d : W64) : Bool :=
  let c := rxRule s e
  dfld d 56 55 = lcFormat c && dfld d 54 50 = (if lcFormat c = 2 then lcEntropy c else 0) && dfld d 49 45 = lcN c && dfld d 44 40 = lcRolloff c
    && dfld d 57 57 = flag (bondedNow s) && (!bondedNow s || dfld d 59 58 = e)

/-- What a header's descriptor says of it. -/
inductive DescView where
  | bad | fine | mismatch | sfc
  deriving DecidableEq

def descView (s : State) (e : Nat) (d : W64) (n : Nat) (last : Option (Nat × Nat)) : DescView :=
  if !dcrcOk d then .bad
  else if rcDescCheck (rxEng s e).cfg && !descMatches s e d then .mismatch
  else match last with
    | some (v, m) => if dfld d 39 24 = (v + (n - m)) % 65536 then .fine else .sfc
    | none => .fine

/-- A descriptor is evaluated: kept if its DCRC is correct, with DESC_MM on a mismatch (R253). -/
def descNote (e : Nat) (d : W64) (n : Nat) (v : DescView) (s : State) : State :=
  match v with
  | .bad => onRxEng e (fun x => { x with dcrcBad := x.dcrcBad + 1 }) s
  | v =>
    let s := onRxEng e (fun x => { x with desc := d, cand := x.cand.map fun k => { k with sfc := some (dfld d 39 24, n) } }) s
    if v = .mismatch then countDescMm e s else s

/-- A peak becomes the candidate. The descriptor of its own header is evaluated at once (R253). -/
def takeCand (k : Cand) (e : Nat) (s : State) : State :=
  let s := onRxEng e (fun x => { x with state := .verify, cand := some k, verified := 0, dcrcBad := 0, lastPfr := pfrShow k.pfr, taps := k.taps }) s
  descNote e k.desc 0 (descView s e k.desc 0 none) s

/-- Within ±16 symbols of a predicted position of the candidate (R254). -/
def nearPredicted (k : Cand) (pos : Nat) : Bool :=
  let d := ((pos : Int) - k.pos) % 262144
  decide (d ≤ 16) || decide (262128 ≤ d)

/-- The lifetime of a runner-up ends one TSF after its peak (R255). -/
def runnerAlive (r : Option Cand) (pos : Nat) : Option Cand :=
  match r with
  | some c => if pos ≤ c.pos + 262144 then some c else none
  | none => none

/-- A peak is one that the correlator judges: in HUNT or VERIFY, the largest C within ±16 symbols, at HUNT_THR or above (R251). -/
def qualifies (x : RxSt) (v : PeakView) : Bool := (x.state = .hunt || x.state = .verify) && v.largest && reaches v.pfr (rcHuntThr x.cfg) 2

/-- A peak that qualifies in VERIFY: it belongs to the candidate, preempts it, or may be the runner-up (R254, R255). -/
def verifyPeak (e : Nat) (k : Cand) (c : Cand) (s : State) : State :=
  if nearPredicted k c.pos then s
  else if above c.pfr k.pfr 6 then note evLinPreempt e 1 (takeCand c e s)
  else onRxEng e (fun x => { x with runner := match runnerAlive x.runner c.pos with
    | some r => if above r.pfr c.pfr 0 then some r else some c
    | none => some c }) s

/-- HEADER_CANDIDATE: a peak in HUNT or VERIFY. -/
def headerCandidate (e : Nat) (pk : Peak) (s : State) : State :=
  let x := rxEng s e
  let v := peakView x.afc pk.wave
  if startCal s || !qualifies x v then s
  else if !freqWithin s e v.df 4000000 then note evLinAfcRange e 1 s
  else
    let c := candOf e pk v
    let s := onRxEng e (fun x => { x with afc := v.df }) s
    match x.state, x.cand with
    | .verify, some k => verifyPeak e k c s
    | _, _ => takeCand c e (onRxEng e (fun x => { agcStep e 0 pk.level x with runner := none }) s)
def execHeaderCandidate (e : Fin 4) (pk : Peak) (s : State) : Host.Outcome State Fault Refusal := ok (headerCandidate e pk s)

/-- The third verified header puts the receiver in LOCKED (R252), with the mean Δf of the four headers as its carrier frequency (R257); dCWL is declared at the entry (R272). -/
def rxLocked (e : Nat) (s : State) : State :=
  let s := onRxEng e (fun x => { x with
    state := .locked, verified := 3, car := (match x.cand with | some k => k.dfs.foldl (· + ·) 0 | none => 0), pilots := [], refit := false, misses := 0, huntHeld := false, runner := none, lockedRun := 0, mimoRun := 0, cdTrack := 0, cdLimRun := 0
    acqCd := some (if rcCdMode x.cfg then x.cd else rcCdSet x.cfg) }) s
  otnDefect e .cwl evLinDCwl true (clearDescMm e (rxLosf e false s))

/-- The candidate fails at the end of window n: the runner-up whose predicted window has not begun becomes the candidate, else HUNT, where a held expiry takes effect (R248, R252, R255). -/
def candFail (e : Nat) (n : Nat) (s : State) : State :=
  let s := note evLinFalseAcq e 1 s
  let x := rxEng s e
  let at_ := match x.cand with | some k => k.pos + n * 262144 + 1028 | none => 0
  let r := match x.runner with | some r => if at_ < r.pos + 262144 - 4 then some r else none | none => none
  match r with
  | some r => takeCand r e (onRxEng e (fun x => { x with runner := none }) s)
  | none => rxHunt e s

/-- The header of a window is verified by its peak and its frequency (R252). -/
def headerOk (s : State) (e : Nat) (k : Cand) (v : PeakView) : Bool :=
  reaches v.pfr (rcVerThr (rxEng s e).cfg) 2 && freqWithin s e (v.df - k.df) 200000

/-- A waveform counted from where the header of a window really starts. -/
def centred (w : RxWave) (d : Int) : RxWave := { w with first := w.first - d }

/-- What every predicted header window leaves: the gain, which has moved in SLOW since the header before and is held in the window (R246), the PFR of its peak, the header's arrival, the number of the next one. -/
def windowSeen (e : Nat) (k : Cand) (hw : HeaderWindow) (v : PeakView) (s : State) : State :=
  onRxEng e (fun x => { agcStep e 2048 hw.level x with lastPfr := pfrShow v.pfr, afc := v.df, arr := s.stk.run * 2000000 + hw.arr, cand := some { k with next := k.next + 1 } }) s

/-- A verified header refines the fit and the coarse frequency (R257, R259). -/
def headerRefine (e : Nat) (df : Int) (w : RxWave) (s : State) : State :=
  onRxEng e (fun x => { x with taps := eqRefine e (4 * df) w x.taps, cand := x.cand.map fun k => { k with dfs := k.dfs ++ [df] } }) s

/-- A header of the candidate. With the first one, the candidate fails too where the descriptor of its own header broke the rule. -/
def verifyWindow (e : Nat) (k : Cand) (hw : HeaderWindow) (s : State) : State :=
  let n := k.next
  let p := windowView none (rxEng s e).afc hw.wave
  let w := centred hw.wave p.2
  let s := windowSeen e k hw p.1 s
  let own := if n = 1 then descView s e k.desc 0 none else .fine
  let d := readDescriptor (rxEng s e).taps (4 * p.1.df) w
  let v := descView s e d n (((rxEng s e).cand.map Cand.sfc).getD none)
  let s := descNote e d n v s
  if own = .mismatch || !headerOk s e k p.1 || v = .mismatch || v = .sfc then candFail e n s
  else
    let s := headerRefine e p.1.df w s
    if 3 ≤ n then (if 4 ≤ (rxEng s e).dcrcBad then candFail e n s else rxLocked e s) else onRxEng e (fun x => { x with verified := n }) s

/-- The carrier phase of an engine at a body symbol: on its own pilots, or the common estimate in joint tracking (R257, R261). -/
def carrierPhase (s : State) (e : Nat) (ph : List Int) (n : Nat) : Int :=
  if s.rx.joint then jointPhaseAt e s.rx.common ph n else phaseAt (bondedNow s) e ph n

/-- A superframe in LOCKED: the equaliser adapts, or is initialised afresh from this header where it had converged onto one polarisation (R259, R260); the carrier is tracked by its pilots (R257). The common estimate of the group's superframe `sfc` comes from what every locked engine has measured of it (R261). -/
def lockedTrack (e sfc : Nat) (desc : Option W64) (w : RxWave) (s : State) : State :=
  let x := rxEng s e
  let c := rxRule s e
  let b := bondedNow s
  let ps := pilotsOut b e x.taps x.car w
  let ph := pilotPhases (rcPilotAvg x.cfg) ps
  let amp := fxSqrt (meanEnergy (lcFormat c) (lcEntropy c))
  let s := onRxEng e (fun y => { y with pilots := ((sfc, ph) :: y.pilots).take 4 }) s
  let s := s.onRx fun v => { v with common := if v.joint then commonPhase (((List.range 4).filter fun i => (rxEng s i).state = .locked).filterMap fun i => ((rxEng s i).pilots.find? fun p => p.1 = sfc).map fun p => (i, p.2)) else [] }
  let taps := if x.refit then eqFit e x.car w
    else eqHeader e desc x.car (carrierPhase s e ph 261119) w (eqAdapt b e (lcFormat c) amp x.car (carrierPhase s e ph) w x.taps)
  let r := if outputsAlike ps then x.mimoRun + 1 else 0
  let s := onRxEng e (fun y => { y with taps := taps, refit := decide (2 ≤ r), mimoRun := if 2 ≤ r then 0 else r, car := carrierTrack s e (phaseDrift ph) }) s
  note evLinMimoSingular e (flag (decide (2 ≤ r))) s

/-- SFC of header n of the candidate, from its last descriptor with a correct DCRC. -/
def countAt (x : RxSt) (n : Nat) : Nat := match x.cand.bind Cand.sfc with | some (v, m) => (v + (n - m)) % 65536 | none => 0

/-- A header in LOCKED (R256, R260). -/
def lockedWindow (e : Nat) (k : Cand) (hw : HeaderWindow) (s : State) : State :=
  let n := k.next
  let p := windowView (some (rxEng s e).car) (rxEng s e).afc hw.wave
  let w := centred hw.wave p.2
  let s := windowSeen e k hw p.1 s
  let d := readDescriptor (rxEng s e).taps (rxEng s e).car w
  let v := descView s e d n k.sfc
  let s := descNote e d n v s
  let miss := !headerOk s e k p.1 || v = .mismatch || v = .sfc
  let m := if miss then (rxEng s e).misses + 1 else 0
  let s := onRxEng e (fun x => { x with misses := m }) (note evLinHdrMiss e (flag miss) s)
  if 3 ≤ m then rxHunt e s else lockedTrack e ((countAt (rxEng s e) n + 65535) % 65536) (if dcrcOk d then some d else none) w s

/-- HEADER_WINDOW_END. -/
def headerWindowEnd (e : Nat) (hw : HeaderWindow) (s : State) : State :=
  let x := rxEng s e
  if startCal s then s else match x.state, x.cand with
  | .verify, some k => verifyWindow e k hw s
  | .locked, some k => lockedWindow e k hw s
  | _, _ => s
def execHeaderWindowEnd (e : Fin 4) (hw : HeaderWindow) (s : State) : Host.Outcome State Fault Refusal := ok (headerWindowEnd e hw s)

/-! ### Tracking, calibration and quality over a stroke (R242, R244, R258, R261, R263) -/

/-- The tracked correction moves by at most 10 ps/nm in a stroke toward what the taps still show, within ±1,000 ps/nm (R258). -/
def cdStep (est : Option Int) (x : RxSt) : RxSt :=
  let t := match est with | some v => clamp (-100) 100 (x.cdTrack + clamp (-1) 1 v) | none => x.cdTrack
  { x with cdTrack := t, cdLimRun := if t.natAbs = 100 then x.cdLimRun + 1 else 0 }

/-- CD_TRACK_LIMIT: 100 strokes at the limit. -/
def cdTrackLimit (e : Nat) (s : State) : State :=
  let x := rxEng s e
  if x.state = .locked && 100 ≤ x.cdLimRun && !x.cdLimit then note evLinCdTrackLimit e 1 (onRxEng e (fun x => { x with cdLimit := true }) s) else s
def execCdTrackLimit (e : Fin 4) (s : State) : Host.Outcome State Fault Refusal := ok (cdTrackLimit e s)

/-- Range of a loop of R241, in steps. -/
def rxLoopRange (l : Nat) : Nat := if l = 1 then 100 else 128

/-- The ADCs convert: the LRX pins while ENABLE in force is 1 outside QUENCH, or the internal calibration source (R240, R243). -/
def adcConverts (s : State) (e : Nat) : Bool := alive s && !inQuench s && (startCal s || lcEn (rxEng s e).cfg)

/-- The loops measure in VERIFY and LOCKED on the received signal, and in the start-up calibration (R242). -/
def rxMeasures (s : State) (e : Nat) : Bool := (rxEng s e).state = .verify || (rxEng s e).state = .locked || startCal s

/-- A loop runs where it measures; loops 1 and 2 hold while VREF_EXT is out of range (R242). -/
def rxLoopRuns (s : State) (e l : Nat) : Bool := rxMeasures s e && !((rxEng s e).refHold && l ≠ 0)

/-- The errors of a slice from its statistics, in hundredths of a step: its correlation with its neighbours for the timing, its power against the mean of its ADC in 0.005 dB, its mean in 1/16 code (R241). -/
def sliceErrors (meas : List (Nat × Int × Nat × Int)) (m : Nat × Int × Nat × Int) : List (Nat × Int) :=
  let lane := (meas.filter fun x => x.1 / 8 = m.1 / 8).map fun x => x.2.2.1
  [(m.1, Config.sliceTiming m.2.2.2), (32 + m.1, logOf (lane.sum, lane.length * m.2.2.1) 200000), (64 + m.1, -m.2.1)]

/-- The statistics of a stroke set the errors of the slices that they name. -/
def rxMeasure (cal : List (Nat × Nat × Int × Nat × Int)) (e : Nat) (s : State) : State :=
  let meas := (cal.filter fun m => m.1 = e && decide (m.2.1 < 32)).map Prod.snd
  if !rxMeasures s e then s
  else onRxEng e (fun x => { x with err := meas.foldl (fun t m => (sliceErrors meas m).foldl (fun t v => setCal t v.1 v.2) t) x.err }) s

def rxLoopIdx (l : Nat) : List Nat := (List.range 32).map fun k => 32 * l + k
def rxOffLimit (x : RxSt) (l : Nat) : Bool := (rxLoopIdx l).all fun i => decide ((tget 0 x.corr i).natAbs ≠ rxLoopRange l)

/-- RX_CAL_LIMIT of a loop: 100 consecutive strokes at a range end with an error of the same sign (R264). -/
def rxCalAge (e i : Nat) (s : State) : State :=
  let x := rxEng s e
  let r := rxLoopRange (i / 32)
  let n := if atLimit r (tget 0 x.corr i) (tget 0 x.err i) then tget 0 x.lim i + 1 else 0
  let s := onRxEng e (fun x => { x with lim := tset 0 x.lim i n }) s
  if 100 ≤ n && !x.limDecl.contains i then note evLinRxCalLimit e 1 (onRxEng e (fun x => { x with limDecl := ins x.limDecl i }) s)
  else if x.limDecl.contains i && decide ((tget 0 x.corr i).natAbs ≠ r) then noteClear evLinRxCalLimit e (onRxEng e (fun x => { x with limDecl := del x.limDecl i }) s)
  else s

/-- Every loop has measured for 50 strokes and come within one step; a retired slice does not count (R243), nor do loops 1 and 2 while they are held (R388). -/
def rxWithin (x : RxSt) : Bool :=
  decide (50 ≤ tget 0 x.calRun 0) && (List.range (if x.refHold then 32 else 96)).all fun i => x.adcSlices.contains (i % 32 / 8, i % 8) || decide ((tget 0 x.err i).natAbs ≤ 100)

/-- The loops at row 0: once a measurement is complete, a correction moves by at most one step (R233, R242). -/
def rxLoops (s : State) (e : Nat) (x : RxSt) : RxSt :=
  if tget 0 x.calRun 0 < 50 then x
  else (List.range 96).foldl (fun y i =>
    { y with corr := if rxLoopRuns s e (i / 32) then setCal y.corr i (moveStep (rxLoopRange (i / 32)) (tget 0 y.corr i) (tget 0 y.err i)) else y.corr }) x

/-- Deskew moves one tap per stroke toward the written value (R244). -/
def deskewStep (x : RxSt) : RxSt :=
  { x with deskew := (List.range 4).foldl (fun t l => tset 0 t l (tget 0 t l + clamp (-1) 1 (rcDeskew x.cfg l - tget 0 t l))) x.deskew }

/-- When superframe 0 of an engine's count would have arrived, and the period of a superframe, both in 10 ps units over the numerator of Rs (R261). -/
def arrivalBase (s : State) (e : Nat) : Int :=
  let x := rxEng s e
  let r := rxSymbolRate s e
  match x.cand with
  | some k => (match k.sfc with | some (v, m) => x.arr * r.1 - ((v : Int) + (k.next - 1 - m : Nat)) * (262144 * 100000000 * r.2) | none => x.arr * r.1)
  | none => 0

/-- The header arrivals of two engines differ by at most 2 µs; the count of superframes is modulo 65,536 (R261). -/
def arrivalNear (s : State) (a b : Nat) : Bool :=
  let r := rxSymbolRate s a
  let t : Int := 65536 * 262144 * 100000000 * r.2
  let d := (arrivalBase s a - arrivalBase s b) % t
  decide (d ≤ 200000 * r.1) || decide (t - 200000 * r.1 ≤ d)

/-- Joint tracking at row 0: at least two engines LOCKED, and no two headers more than 2 µs apart (R261). -/
def jointStep (s : State) : State :=
  let l := (List.range (engines s)).filter fun e => (rxEng s e).state = .locked
  let cond := bondedNow s && decide (2 ≤ l.length) && l.all fun a => l.all fun b => arrivalNear s a b
  let now := if cond then false else bondedNow s && (s.rx.fallback || s.rx.joint)
  let was := s.rx.fallback
  let s := s.onRx fun v => { v with joint := cond, fallback := now }
  (List.range (engines s)).foldl (fun s e => noteChange evLinJointFallback e was now s) s

/-- The estimates of a stroke: 14 that are measured, the dispersion applied and the carrier offset. Of an engine whose ADCs do not convert the LRX pins there are none (R240). -/
def strokeEst (s : State) (e : Nat) (m : Option (List Int)) : List Int :=
  let x := rxEng s e
  if lcEn x.cfg && adcConverts s e && !startCal s then (List.range 14).map (fun i => match m with | some l => l.getD i 0 | none => (x.est.headD []).getD i 0) ++ [appliedCd s e, carrierKhz s e] else []

/-- The mean of an estimate over the last 50 strokes; the spec states no rounding (log entry 34). -/
def meanEst (est : List (List Int)) (i d : Nat) : Int := let l := est.map fun v => v.getD i 0; fracShowInt (l.foldl (· + ·) 0) (d * est.length)

/-- The RX_QUALITY words without VALID (R263). -/
def qualityWords (est : List (List Int)) : List W32 :=
  let u := fun (i n : Nat) => min ((meanEst est i 1).toNat) (2 ^ n - 1)
  let v := fun (i d : Nat) => unsigned 16 (clamp (-32768) 32767 (meanEst est i d))
  if est.isEmpty then [] else
  [word [(u 0 16, 16), (u 1 16, 0)], word [(v 14 1, 16), (u 2 16, 0)], word [(v 15 1000, 16), (u 3 16, 0)], word [(u 4 8, 24)],
   word [(v 5 1, 16), (v 6 1, 0)], word [(v 7 1, 16)], word [(v 8 1, 16), (v 9 1, 0)], word [(u 10 8, 24), (u 11 8, 16), (u 12 8, 8), (u 13 8, 0)]]

/-- The update of RX_QUALITY over the 50 strokes that end; VALID after 50 strokes LOCKED throughout (R263). -/
def rxQualitySet (e : Nat) (m : Option (List Int)) (s : State) : State :=
  let est := (strokeEst s e m :: (rxEng s e).est).take 50
  onRxEng e (fun x => { x with est := est, quality := qualityWords est, valid := decide (51 ≤ x.lockedRun) }) s

/-- The stroke that ends, for a receiver: its measurements, the tracked dispersion, its estimates. -/
def rxEngStroke (x : StrokeIn) (e : Nat) (s : State) : State :=
  let s := rxMeasure x.rxCal e s
  let s := (List.range 96).foldl (fun s i => rxCalAge e i s) s
  let s := onRxEng e (fun r => { r with calRun := if rxMeasures s e then [(0, min 50 (tget 0 r.calRun 0 + 1))] else [] }) s
  let s := onRxEng e (fun r => if r.state = .locked then { cdStep ((x.rxCd.find? fun y => y.1 = e).map Prod.snd) r with lockedRun := r.lockedRun + 1 } else r) s
  let s := rxQualitySet e ((x.rxQuality.find? fun q => q.1 = e).map Prod.snd) s
  if (rxEng s e).cdTrack.natAbs ≠ 100 then cdLimitClear e s else s

/-- The stroke that ends, for the receivers; joint tracking is judged at the row 0 that follows (R261). -/
def rxStroke (x : StrokeIn) (s : State) : State :=
  let s := s.onRx fun v => { v with dark := if startCal s then [] else x.rxDark }
  let s := x.rxTones.foldl (fun s t => onRxEng t.1 (fun y => if y.state = .scan then { y with tones := t.2 } else y) s) s
  jointStep ((List.range (engines s)).foldl (fun s e => rxEngStroke x e s) s)

/-- Row 0, after the commits and the judgement of VREF_EXT: the loops move, and the deskew by one tap (R242, R244, R264). -/
def rxRow0 (s : State) : State :=
  (List.range (engines s)).foldl (fun s e =>
    let hold := s.opt.vrefOor
    let s := noteChange evLinRxCalRefHold e (rxEng s e).refHold hold (onRxEng e (fun r => { r with refHold := hold }) s)
    onRxEng e (fun r => rxLoops s e (deskewStep r)) s) s

/-- Phase slips of a row (R257). -/
def slipRow : List (Nat × Nat) → State → State
  | [], s => s
  | (e, n) :: r, s => slipRow r (if (rxEng s e).state = .locked then note evLinCycleSlip e n s else s)

/-! ### Commands (R265) -/

def rxUnit (rq : Req) (s : State) : List Check := [engUnit rq s, need (!(rxEng s (engObj (rq.p 0))).retired) { st := .retired }]

def deskewFieldOk (w : W32) : Bool := decide ((signed 16 (fld w 31 16)).natAbs ≤ 1024) && decide ((signed 16 (fld w 15 0)).natAbs ≤ 1024)

/-- RX_CFG of an engine as last written. -/
def rxLast (s : State) (e : Nat) : List W32 := match lastWaiting opRxCfg engObj e s with | some c => engParams c 5 | none => (rxEng s e).cfg

/-- RX_CFG. An accepted RX_CFG clears RX_RATE_LIMIT (R264). While BOND is 1, as last written, engine 0 governs the rate that MAX_RS is held against (R238). -/
def doRxCfg (rq : Req) (s : State) : State :=
  let e := engObj (rq.p 0)
  let c := [rq.p 1, rq.p 2, rq.p 3, rq.p 4, rq.p 5]
  let bonded := bit (bondLast s) 31
  let g := if bonded && decide (e ≠ 0) then rxLast s 0 else c
  let r := symbolRate (lcFormat g) (lcN g) (lcEntropy g) bonded
  command opRxCfg rq
    { unit := rxUnit rq s,
      par := [countIs 6 rq, onlyBits 0 0x00000003#32 rq, onlyBits 1 0xFFFFFF00#32 rq, wordOk 1 (rateFieldsOk c), wordOk 1 (rateBoundsOk c (bonded && decide (e = 0))),
        wordOk 1 (decide (1 ≤ rcPilotAvg c ∧ rcPilotAvg c ≤ 8)),
        wordOk 2 (decide ((rcCdSet c).natAbs ≤ 20000) && decide (rcCdSpan c ≤ 200) && decide (1 ≤ rcLosThr c ∧ rcLosThr c ≤ 64)),
        onlyBits 3 0xFFFFF000#32 rq,
        wordOk 3 (decide (12 ≤ rcHuntThr c ∧ rcHuntThr c ≤ 48) && decide (12 ≤ rcVerThr c ∧ rcVerThr c ≤ rcHuntThr c) && decide (16 ≤ rcHuntTimeout c)),
        wordOk 4 (deskewFieldOk (rq.p 4)), wordOk 5 (deskewFieldOk (rq.p 5))],
      late := [need (!lcEn c || fracLe r (rxEng s e).maxRs.toNat) { st := .capacity, detail := 2 }] } s
    fun s => commitOnly opRxCfg rq (noteChange evLinRxRateLimit e (rxEng s e).rateLimit false (onRxEng e (fun x => { x with rateLimit := false }) s))
def execRxCfg (rq : Req) (s : State) : Host.Outcome State Fault Refusal := ok (doRxCfg rq s)

/-- RX_RATE_LIMIT is declared and ENABLE set to 0 (R243). -/
def rxRateLimit (e : Nat) (s : State) : State :=
  let s := noteChange evLinRxRateLimit e (rxEng s e).rateLimit true s
  let was := lcEn (rxEng s e).cfg
  let s := onRxEng e (fun x => { x with rateLimit := true, cfg := setAt x.cfg 0 (x.cfg.getD 0 0#32 &&& 0x7FFFFFFF#32) }) s
  if was then rxOff e s else s

/-- A rate change of a receiver in force, which acquires as if newly enabled (R239). -/
def rxRestart (e : Nat) (s : State) : State := rxStart e (rxEnter .nosig e (note evLinRxRestart e 1 s))

/-- RX_CFG at its row 0. In bonded mode the rate fields of engine 0 rule all four receivers, and those of engines 1 to 3 have no effect (R238). -/
def applyRxCfg (k : Commit) (s : State) : State :=
  let e := engObj (k.p 0)
  let was := lcEn (rxEng s e).cfg
  let changed := decide (lcRate (rxEng s e).cfg ≠ lcRate (engParams k 5)) && ruling s e = e
  let refix := !rcCdMode (engParams k 5) && (rcCdMode (rxEng s e).cfg || decide (rcCdSet (rxEng s e).cfg ≠ rcCdSet (engParams k 5)))
  let s := onRxEng e (fun x => { x with cfg := engParams k 5, cd := if refix && x.state ≠ .scan then rcCdSet (engParams k 5) else x.cd }) s
  let en := lcEn (rxEng s e).cfg
  let tooFast := rxOverRate s e || (rxEng s e).retired
  let s := if en && tooFast then rxRateLimit e (if was then s else onRxEng e (fun x => { x with cfg := setAt x.cfg 0 (x.cfg.getD 0 0#32 &&& 0x7FFFFFFF#32) }) s)
    else if en && !was then rxStart e s
    else if en && changed then rxRestart e s
    else if !en && was then rxOff e s
    else s
  if changed && bondedNow s then
    ((List.range (engines s)).filter fun i => i ≠ e && lcEn (rxEng s i).cfg).foldl (fun s i => rxRestart i s) s
  else s

/-- RX_READ. -/
def doRxRead (rq : Req) (s : State) : State :=
  command opRxRead rq { unit := [engUnit rq s], par := engPar 1 rq } s fun s => .done s (rxEng s (engObj (rq.p 0))).cfg
def execRxRead (rq : Req) (s : State) : Host.Outcome State Fault Refusal := ok (doRxRead rq s)

def RxState.code : RxState → Nat
  | .off => 0 | .nosig => 1 | .scan => 2 | .hunt => 3 | .verify => 4 | .locked => 5

/-- RX_STATUS words 0–5. -/
def rxStatusWords (s : State) (e : Nat) : List W32 :=
  let x := rxEng s e
  let joint := s.rx.joint && x.state = .locked && decide (2 ≤ ((List.range (engines s)).filter fun e => (rxEng s e).state = .locked).length)
  [word [(x.state.code, 29), (flag x.los, 28), (flag x.losf, 27), (flag x.descMm, 26), (flag (bondedNow s), 25), (flag joint, 24), (flag x.acqCd.isSome, 23),
      (flag x.rateLimit, 22), (flag x.cdLimit, 21), (x.verified, 19), (x.lastPfr.toNat, 8)],
   BitVec.ofNat 32 (fracShow (rxSymbolRate s e)), x.maxRs, word [(unsigned 16 (x.acqCd.getD 0), 16)],
   BitVec.ofNat 32 (x.desc.toNat >>> 32), BitVec.ofNat 32 x.desc.toNat]

/-- RX_STATUS_READ. -/
def doRxStatusRead (rq : Req) (s : State) : State :=
  command opRxStatusRead rq { unit := [engUnit rq s], par := engPar 1 rq } s fun s => .done s (rxStatusWords s (engObj (rq.p 0)))
def execRxStatusRead (rq : Req) (s : State) : Host.Outcome State Fault Refusal := ok (doRxStatusRead rq s)

/-- RX_QUALITY (R263). -/
def rxQualityWords (x : RxSt) : List W32 :=
  (List.range 8).map fun i => if i = 3 then x.quality.getD 3 0#32 ||| word [(flag x.valid, 0)] else x.quality.getD i 0#32

/-- RX_QUALITY_READ. -/
def doRxQualityRead (rq : Req) (s : State) : State :=
  command opRxQualityRead rq { unit := [engUnit rq s], par := engPar 1 rq } s fun s => .done s (rxQualityWords (rxEng s (engObj (rq.p 0))))
def execRxQualityRead (rq : Req) (s : State) : Host.Outcome State Fault Refusal := ok (doRxQualityRead rq s)

/-- RX_CAL_RESULT words 0–3. -/
def rxCalWords (x : RxSt) : List W32 :=
  (List.range 3).map (fun l => calWord (largest ((rxLoopIdx l).map fun i => tget 0 x.corr i)) (toSteps (largest ((rxLoopIdx l).map fun i => tget 0 x.err i))))
    ++ [word [(flag x.refHold, 3), (bitsOf ((List.range 3).filter fun l => !rxOffLimit x l), 0)]]

/-- RX_CAL_READ. -/
def doRxCalRead (rq : Req) (s : State) : State :=
  command opRxCalRead rq { unit := [engUnit rq s], par := engPar 1 rq } s fun s => .done s (rxCalWords (rxEng s (engObj (rq.p 0))))
def execRxCalRead (rq : Req) (s : State) : Host.Outcome State Fault Refusal := ok (doRxCalRead rq s)

/-- RX_REACQUIRE. -/
def doRxReacquire (rq : Req) (s : State) : State :=
  command opRxReacquire rq
    { unit := rxUnit rq s, par := engPar 2 rq ++ [onlyBits 1 0x00000001#32 rq, causeOk 0x8007 (lcEn (rxEng s (engObj (rq.p 0))).cfg)] } s (commitOnly opRxReacquire rq)
def execRxReacquire (rq : Req) (s : State) : Host.Outcome State Fault Refusal := ok (doRxReacquire rq s)

/-- RX_REACQUIRE at its row 0 (R265). -/
def applyRxReacquire (k : Commit) (s : State) : State :=
  let e := engObj (k.p 0)
  let force := bit (k.p 1) 0
  let x := rxEng s e
  if x.state = .off then s
  else if x.state = .nosig then (if force then onRxEng e (fun x => { x with acqCd := none }) s else s)
  else if force then rxScan e s
  else rxHunt e s

end Sys2Proof.Machine
end

