-- ==== Sys2Proof/Machine/Optics.lean ====
section
/-! DEFINITION. Housekeeping converters, heater and control-voltage outputs, bias loops, the reference monitor and the I2C masters
(13_optics_control R372–R393). -/

namespace Sys2Proof.Machine

def hkOf (s : State) (c : Nat) : HkSt := tget {} s.opt.hk c
def onHk (c : Nat) (f : HkSt → HkSt) (s : State) : State := s.onOpt fun v => { v with hk := tmod {} v.hk c f }
def outOf (s : State) (n : Nat) : OutSt := tget {} s.opt.out n
def onOut (n : Nat) (f : OutSt → OutSt) (s : State) : State := s.onOpt fun v => { v with out := tmod {} v.out n f }
def blOf (s : State) (l : Nat) : BlSt := tget {} s.opt.bl l
def onBl (l : Nat) (f : BlSt → BlSt) (s : State) : State := s.onOpt fun v => { v with bl := tmod {} v.bl l f }
def i2cOf (s : State) (m : Nat) : I2cSt := tget {} s.opt.i2c m
def onI2c (m : Nat) (f : I2cSt → I2cSt) (s : State) : State := s.onOpt fun v => { v with i2c := tmod {} v.i2c m f }

/-! ### Housekeeping configuration (R373, R378) -/

def hkEnable (w : List W32) : Bool := bit (w.getD 0 0#32) 31
def hkCount (w : List W32) : Nat := fld (w.getD 0 0#32) 20 16
def hkPeriod (w : List W32) : Nat := fld (w.getD 0 0#32) 15 0
def hkPhase (w : List W32) : Nat := fld (w.getD 1 0#32) 15 0
def hkEntry (w : List W32) (e : Nat) : W32 := w.getD (2 + e) 0#32
def heOw (w : W32) : Nat := fld w 21 19

/-- Length of an entry's filter. -/
def heLen (w : W32) : Nat :=
  match fld w 18 17 with
  | 0 => fld w 16 6
  | 1 => 4
  | 2 => 64
  | _ => 1024

/-- Time of an entry in 0.1 µs: its sample time and 0.4 µs. -/
def heTime (w : W32) : Nat := [1, 2, 5, 10, 20, 50, 100, 200].getD (fld w 26 24) 0 + 4

def seqTime (w : List W32) : Nat := ((List.range (hkCount w)).map fun e => heTime (hkEntry w e)).sum

def filtOf (s : State) (c e : Nat) : HkFilter := tget {} (hkOf s c).filt e
def onFilt (c e : Nat) (f : HkFilter → HkFilter) (s : State) : State := onHk c (fun h => { h with filt := tmod {} h.filt e f }) s

/-- FILT over the last L results that have arrived since the filter was last emptied (R378). -/
def filtOut (len : Nat) (f : HkFilter) : Nat :=
  let r := f.res.take len
  if r.isEmpty then 0 else ((r.map Prod.fst).sum + r.length / 2) / r.length

def filtValid (len : Nat) (f : HkFilter) : Bool := decide (len ≤ f.res.length)
def filtSat (len : Nat) (f : HkFilter) : Bool := (f.res.take len).any Prod.snd

/-- Empties the filters of a converter's entries. -/
def emptyFilts (c : Nat) : List Nat → State → State
  | [], s => s
  | e :: r, s => emptyFilts c r (onFilt c e (fun f => { f with res := [] }) s)

/-- The KINDLE sweep empties every filter (R378). -/
def sweepFilters (s : State) : State := emptyFilts 1 (List.range 16) (emptyFilts 0 (List.range 16) s)

/-- Entry word `w` is valid: OW at most 4, LEN 1–1,024 where PRESET is 0, reserved bits 0. -/
def hkEntryOk (w : W32) : Bool :=
  decide (heOw w ≤ 4) && (decide (fld w 18 17 ≠ 0) || (decide (1 ≤ fld w 16 6) && decide (fld w 16 6 ≤ 1024))) && w &&& 0x3F#32 = 0#32

/-- HK_CFG. -/
def doHkCfg (rq : Req) (s : State) : State :=
  let n := fld (rq.p 1) 20 16
  command opHkCfg rq
    { par := [countIs (3 + n) rq, onlyBits 0 0x00000001#32 rq, onlyBits 1 0x801FFFFF#32 rq, wordOk 1 (decide (1 ≤ n) && decide (n ≤ 16)),
        onlyBits 2 0x0000FFFF#32 rq,
        wordOk 2 (if fld (rq.p 1) 15 0 = 0 then decide (fld (rq.p 2) 15 0 = 0) else decide (fld (rq.p 2) 15 0 < fld (rq.p 1) 15 0))]
        ++ (List.range (rq.params.length - 3)).map fun e => wordOk (3 + e) (hkEntryOk (rq.p (3 + e))) } s (commitOnly opHkCfg rq)
def execHkCfg (rq : Req) (s : State) : Host.Outcome State Fault Refusal := ok (doHkCfg rq s)

/-- Entries of which INPUT, STIME, GAIN, OW, PRESET or LEN changes, or which fall beyond COUNT (R376). -/
def hkChanged (old new : List W32) : List Nat :=
  (List.range (hkCount old)).filter fun e => decide (hkCount new ≤ e) || decide (hkEntry old e ≠ hkEntry new e)

/-- HK_CFG at its row 0. -/
def applyHkCfg (p : Commit) (s : State) : State :=
  let c := fld (p.p 0) 0 0
  let new := p.params.drop 1
  let ch := hkChanged (hkOf s c).cfg new
  emptyFilts c ch (onHk c (fun h => { h with cfg := new, running := h.running.map fun r => { r with stale := r.stale ++ ch } }) s)

/-- HK_READ. -/
def doHkRead (rq : Req) (s : State) : State :=
  command opHkRead rq { par := [countIs 1 rq, onlyBits 0 0x00000001#32 rq] } s fun s => .done s (hkOf s (fld (rq.p 0) 0 0)).cfg
def execHkRead (rq : Req) (s : State) : Host.Outcome State Fault Refusal := ok (doHkRead rq s)

/-- HK_TRIGGER. -/
def doHkTrigger (rq : Req) (s : State) : State :=
  command opHkTrigger rq { par := [countIs 1 rq, onlyBits 0 0x00000001#32 rq] } s (commitOnly opHkTrigger rq)
def execHkTrigger (rq : Req) (s : State) : Host.Outcome State Fault Refusal := ok (doHkTrigger rq s)
def applyHkTrigger (p : Commit) (s : State) : State := onHk (fld (p.p 0) 0 0) (fun h => { h with trig := true }) s

/-- Triggers of a converter at row 0, after the commits (R374, R375). -/
def hkRow0 (c : Nat) (s : State) : State :=
  let h := hkOf s c
  let per := decide (hkPeriod h.cfg ≠ 0) && decide (scnt s % hkPeriod h.cfg = hkPhase h.cfg)
  let s := onHk c (fun h => { h with trig := false }) s
  if !(per || h.trig) then s
  else if h.running.isSome then note evOptHkOverrun c 1 (onHk c (fun h => { h with ovr := true }) s)
  else if !hkEnable h.cfg then s
  else
    let s := if h.ovr then noteClear evOptHkOverrun c s else s
    onHk c (fun h => { h with ovr := false, running := some { cfg := h.cfg, start := s.stk.run, scnt := s.stk.scnt } }) s

/-! ### Results of the converters (R372, R376–R378) -/

/-- The open-wire indication of a result (R377). -/
def openInd (w : W32) (raw : Nat) : Bool :=
  match heOw w with
  | 1 | 3 => decide (64880 ≤ raw)
  | 2 | 4 => decide (raw ≤ 655)
  | _ => false

def openStep (ind : Bool) (f : HkFilter) : HkFilter :=
  let f := if ind then { f with openRun := satAdd 3 f.openRun 1, okRun := 0 } else { f with openRun := 0, okRun := satAdd 3 f.okRun 1 }
  { f with opn := if f.opn then decide (f.okRun < 3) else decide (3 ≤ f.openRun) }

/-- The result of an entry: last result, open-wire test, filter. -/
def hkResult (c e raw : Nat) (ovr stale : Bool) (w : W32) (s : State) : State :=
  let was := (filtOf s c e).opn
  let s := onFilt c e (fun f =>
    let f := openStep (openInd w raw) { f with raw := raw, ovr := ovr }
    if stale then f else { f with res := ((raw, ovr) :: f.res).take 1024 }) s
  let s := noteChange evOptDOpen (16 * c + e) was (filtOf s c e).opn s
  note evOptHkOvrng (16 * c + e) (flag ovr) s

/-! ### Outputs (R379–R382) -/

/-- OUT_CFG word 2 in force: it resets differently for HTR and CTLV outputs. -/
def outCfg2 (s : State) (n : Nat) : W32 :=
  if n < 32 then tget 0xFFFF0052#32 s.opt.htrCfg2 n else tget 0xFFFF028F#32 s.opt.ctlvCfg2 n
def setOutCfg2 (n : Nat) (w : W32) (s : State) : State :=
  s.onOpt fun v => if n < 32 then { v with htrCfg2 := tset 0xFFFF0052#32 v.htrCfg2 n w } else { v with ctlvCfg2 := tset 0xFFFF028F#32 v.ctlvCfg2 n w }

def outEnable (s : State) (n : Nat) : Bool := bit (outOf s n).cfg1 31
def outSet (s : State) (n : Nat) : Nat := fld (outOf s n).cfg1 15 0
def outMax (s : State) (n : Nat) : Nat := fld (outCfg2 s n) 31 16
def outSlew (s : State) (n : Nat) : Nat := fld (outCfg2 s n) 15 0
def withLow (w : W32) (v : Nat) : W32 := w &&& 0xFFFF0000#32 ||| BitVec.ofNat 32 (v % 65536)

def outObj (w : W32) : Nat := fld w 5 0
def blObj (w : W32) : Nat := fld w 2 0

/-- BL_CFG words of a loop in force and pending. -/
def blViews (s : State) (l : Nat) : List (List W32) :=
  (blOf s l).cfg :: ((waiting opBlCfg s).filter fun c => blObj (c.p 0) = l).map fun c => [c.p 1, c.p 2, c.p 3]

def blEnable (w : List W32) : Bool := bit (w.getD 0 0#32) 31
def blPol (w : List W32) : Bool := bit (w.getD 0 0#32) 30
def blOut (w : List W32) : Nat := fld (w.getD 0 0#32) 29 24
def blConv (w : List W32) : Nat := fld (w.getD 0 0#32) 23 23
def blEnt (w : List W32) : Nat := fld (w.getD 0 0#32) 22 19
def blAmp (w : List W32) : Nat := fld (w.getD 0 0#32) 15 8
def blHalf (w : List W32) : Nat := fld (w.getD 0 0#32) 7 0
def blDelay (w : List W32) : Nat := fld (w.getD 1 0#32) 31 24
def blCycles (w : List W32) : Nat := fld (w.getD 1 0#32) 23 16
def blStep (w : List W32) : Nat := fld (w.getD 1 0#32) 15 0
def blTarget (w : List W32) : Int := signed 16 (fld (w.getD 2 0#32) 31 16)
def blDead (w : List W32) : Nat := fld (w.getD 2 0#32) 15 0

/-- A loop whose ENABLE is 1 in force or pending owns the output. -/
def ownedView (s : State) (n : Nat) : Bool := (List.range 8).any fun l => (blViews s l).any fun w => blEnable w && blOut w = n

/-- The output is owned by an enabled loop (R387). -/
def ownedNow (s : State) (n : Nat) : Bool := (List.range 8).any fun l => blEnable (blOf s l).cfg && blOut (blOf s l).cfg = n

/-- SETPOINT and MAX as last written. -/
def outSetLast (s : State) (n : Nat) : Nat :=
  match lastWaiting opOutCfg outObj n s with
  | some c => fld (c.p 1) 15 0
  | none => outSet s n
def outMaxLast (s : State) (n : Nat) : Nat :=
  match lastWaiting opOutCfg outObj n s with
  | some c => fld (c.p 2) 31 16
  | none => outMax s n

/-- OUT_CFG. -/
def doOutCfg (rq : Req) (s : State) : State :=
  let n := outObj (rq.p 0)
  command opOutCfg rq
    { par := [countIs 3 rq, onlyBits 0 0x0000003F#32 rq, wordOk 0 (decide (n < 40)), onlyBits 1 0x8000FFFF#32 rq,
        wordOk 1 (decide (fld (rq.p 1) 15 0 ≤ fld (rq.p 2) 31 16)),
        wordOk 1 (!(ownedView s n && decide (fld (rq.p 1) 15 0 ≠ outSetLast s n))), wordOk 2 (decide (fld (rq.p 2) 15 0 ≠ 0))] } s
    (commitOnly opOutCfg rq)
def execOutCfg (rq : Req) (s : State) : Host.Outcome State Fault Refusal := ok (doOutCfg rq s)

/-- OUT_CFG at its row 0. The SETPOINT of an output that a running loop drives stays that loop's base, limited by MAX in force (DEDUCED, log entry 41). -/
def applyOutCfg (c : Commit) (s : State) : State :=
  let n := outObj (c.p 0)
  match (List.range 8).find? fun l => (blOf s l).t0.isSome && blOut (blOf s l).cfg = n with
  | none => setOutCfg2 n (c.p 2) (onOut n (fun o => { o with cfg1 := c.p 1 }) s)
  | some l =>
    let b := (clamp (blAmp (blOf s l).cfg) ((fld (c.p 2) 31 16 : Int) - blAmp (blOf s l).cfg) (blOf s l).base).toNat
    setOutCfg2 n (c.p 2) (onBl l (fun x => { x with base := b }) (onOut n (fun o => { o with cfg1 := if bit (c.p 1) 31 then withLow (c.p 1) b else c.p 1 }) s))

/-- OUT_READ. -/
def doOutRead (rq : Req) (s : State) : State :=
  let n := outObj (rq.p 0)
  command opOutRead rq { par := [countIs 1 rq, onlyBits 0 0x0000003F#32 rq, wordOk 0 (decide (n < 40))] } s
    fun s => .done s [(outOf s n).cfg1, outCfg2 s n]
def execOutRead (rq : Req) (s : State) : Host.Outcome State Fault Refusal := ok (doOutRead rq s)

/-- Outputs that differ from the reset configuration. -/
def outIds (s : State) : List Nat := s.opt.out.map Prod.fst

/-- VALUE at row 0: it moves toward SETPOINT by at most SLEW (R380, R23). -/
def outMove (s : State) (n : Nat) : Nat :=
  let v := (outOf s n).value
  let t := outSet s n
  if !outEnable s n then 0 else if v < t then v + min (t - v) (outSlew s n) else v - min (v - t) (outSlew s n)

def outsRow0 : List Nat → State → State
  | [], s => s
  | n :: r, s => outsRow0 r (onOut n (fun o => { o with value := outMove s n }) s)

/-- dHTR_OPEN over the stroke that ends: the sink fails to hold its current while the output is enabled with VALUE 1,638 or more (R382). -/
def htrStroke (fail : List Nat) : List Nat → State → State
  | [], s => s
  | n :: r, s =>
    let o := outOf s n
    let bad := decide (n < 32) && outEnable s n && decide (1638 ≤ o.value) && fail.contains n
    let run := if bad then satAdd 3 o.openRun 1 else 0
    let okr := if bad then 0 else if o.htrOpen then o.okRun + 1 else 0
    let now := if o.htrOpen then decide (okr < 3) else decide (3 ≤ run)
    let s := onOut n (fun o => { o with openRun := run, okRun := if now then okr else 0, htrOpen := now }) s
    htrStroke fail r (noteChange evOptDHtrOpen n o.htrOpen now s)

/-! ### Bias loops (R383–R387) -/

/-- The dither sign of stroke `k` (in strokes run): true for +1. -/
def blSign (w : List W32) (t0 k : Nat) : Bool := decide ((k - t0) / max 1 (blHalf w) % 2 = 0)

/-- Strokes of a detection window (R385). -/
def blWidth (w : List W32) : Nat := 2 * blHalf w * blCycles w

/-- First stroke of window `j`. -/
def blBegin (w : List W32) (t0 j : Nat) : Nat := t0 + blDelay w + j * blWidth w

/-- The value an output is driven at: VALUE with the dither of a running loop, which reaches no code above MAX (R381, R384). -/
def outDriven (s : State) (n : Nat) : Nat :=
  let v : Int := (outOf s n).value
  let l := (List.range 8).find? fun l => (blOf s l).t0.isSome && blOut (blOf s l).cfg = n
  match l with
  | none => (outOf s n).value
  | some l =>
    let a : Int := blAmp (blOf s l).cfg
    (clamp 0 (outMax s n) (if (blOf s l).sign then v + a else v - a)).toNat

/-- The code that an HTR or CTLV pin is driven at: with RSTN low HTR sinks no current and CTLV is driven to 0 V. An unpowered device sinks no current, and its CTLV pins are
high impedance (R389). -/
def outPin (s : State) (n : Nat) : Option Nat :=
  if alive s then some (outDriven s n) else if s.pins.powered || decide (n < 32) then some 0 else none

/-- BL_CFG. -/
def doBlCfg (rq : Req) (s : State) : State :=
  let l := blObj (rq.p 0)
  let w := [rq.p 1, rq.p 2, rq.p 3]
  let old := (blOf s l).cfg
  command opBlCfg rq
    { par := [countIs 4 rq, onlyBits 0 0x00000007#32 rq, onlyBits 1 0xFFF8FFFF#32 rq,
        wordOk 1 (decide (blOut w < 40) && decide (blAmp w ≠ 0) && decide (blHalf w ≠ 0)),
        wordOk 1 (!((List.range 8).any fun j => j ≠ l && (blViews s j).any fun v => blEnable v && blOut v = blOut w)),
        wordOk 1 (!(blEnable old && blEnable w && !(blOut old = blOut w && blConv old = blConv w && blEnt old = blEnt w))),
        wordOk 1 (decide (2 * blAmp w ≤ outMaxLast s (blOut w))),
        wordOk 2 (decide (blCycles w ≠ 0) && decide (blStep w ≠ 0))] } s
    (commitOnly opBlCfg rq)
def execBlCfg (rq : Req) (s : State) : Host.Outcome State Fault Refusal := ok (doBlCfg rq s)

/-- The loop stops and its window in progress is discarded (R387). -/
def blStop (l : Nat) (s : State) : State := onBl l (fun b => { b with t0 := none, sign := false, samples := [], window := 0, newBase := none }) s

/-- BL_CFG at its row 0. In a running loop whose HALF, DELAY or CYCLES changes, the window in progress is discarded and the next window of the new
schedule that begins a delay after this row follows (DESIGN CHOICE, log entry 41). -/
def applyBlCfg (c : Commit) (s : State) : State :=
  let l := blObj (c.p 0)
  let w := [c.p 1, c.p 2, c.p 3]
  let old := (blOf s l).cfg
  let s := onBl l (fun b => { b with cfg := w }) s
  if !blEnable w then blStop l s
  else if blHalf old = blHalf w && blDelay old = blDelay w && blCycles old = blCycles w then s
  else
    match (blOf s l).t0 with
    | none => s
    | some t0 => onBl l (fun b => { b with window := ceilDiv (s.stk.run - t0) (max 1 (blWidth w)), samples := [] }) s

/-- BL_READ. -/
def doBlRead (rq : Req) (s : State) : State :=
  command opBlRead rq { par := [countIs 1 rq, onlyBits 0 0x00000007#32 rq] } s fun s => .done s (blOf s (blObj (rq.p 0))).cfg
def execBlRead (rq : Req) (s : State) : Host.Outcome State Fault Refusal := ok (doBlRead rq s)

/-- B limited to the range A to MAX − A. -/
def blLimit (s : State) (w : List W32) (b : Int) : Nat := (clamp (blAmp w) ((outMax s (blOut w) : Int) - blAmp w) b).toNat

/-- Moves that become a SETPOINT at this row 0 (R386). -/
def blMoves : List Nat → State → State
  | [], s => s
  | l :: r, s =>
    match (blOf s l).newBase with
    | none => blMoves r s
    | some b =>
      let s := onOut (blOut (blOf s l).cfg) (fun o => { o with cfg1 := withLow o.cfg1 b }) s
      blMoves r (onBl l (fun x => { x with newBase := none, corrScnt := BitVec.ofNat 32 (lo32 s.stk.scnt) }) s)

/-- A loop at row 0, before its output moves: it starts where this row's move leaves VALUE at SETPOINT, runs on, or stops. Of a loop that starts the limited base is what VALUE
moves toward in this row (R384, R387). -/
def blRow0 (l : Nat) (s : State) : State :=
  let b := blOf s l
  let n := blOut b.cfg
  if !blEnable b.cfg || !outEnable s n then (if b.t0.isSome then blStop l s else s)
  else
    match b.t0 with
    | some t0 => onBl l (fun b => { b with sign := blSign b.cfg t0 s.stk.run }) s
    | none =>
      if outMove s n = outSet s n then
        let base := blLimit s b.cfg (outSet s n)
        let s := onOut n (fun o => { o with cfg1 := withLow o.cfg1 base }) s
        onBl l (fun b => { b with t0 := some s.stk.run, base := base, sign := true, samples := [], window := 0, newBase := none }) s
      else s

def eachBl (f : Nat → State → State) : List Nat → State → State
  | [], s => s
  | l :: r, s => eachBl f r (f l s)

/-- A result is a sample of the loops that measure the entry (R385): its stroke is that in which the sequence started. -/
def blSample (c e raw start : Nat) (l : Nat) (s : State) : State :=
  let b := blOf s l
  match b.t0 with
  | none => s
  | some t0 =>
    if blConv b.cfg = c ∧ blEnt b.cfg = e ∧ blBegin b.cfg t0 b.window ≤ start then onBl l (fun b => { b with samples := b.samples ++ [(start, raw)] }) s else s

/-- The gain of an entry. -/
def heGain (w : W32) : Nat := 2 ^ fld w 23 22

/-- RAW = floor(Vin × G × 65,536 / 2.5 V), limited to 0–65,535, of an input in nV, and whether it lies outside the range (R372). -/
def hkRaw (w : W32) (nv : Int) : Nat × Bool :=
  ((clamp 0 65535 (nv * heGain w * 65536 / 2500000000)).toNat, decide (2500000000 < nv * heGain w) || decide (nv < -10000000))

/-- The conversion of the entry that a sequence has reached ends by the end of this row: a sequence starts at row 0, and a row lasts 0.16 µs (R373, R374). -/
def hkEnds (s : State) (r : HkRun) : Bool :=
  decide (10 * ((List.range (r.next + 1)).map fun e => heTime (hkEntry r.cfg e)).sum ≤ 16 * (125 * (s.stk.run - r.start) + s.stk.row + 1))

/-- The result of the entry that a sequence has reached is delivered. -/
def hkDeliver (c : Nat) (r : HkRun) (nv : Int) (s : State) : State :=
  let e := r.next
  let v := hkRaw (hkEntry r.cfg e) nv
  let s := hkResult c e v.1 v.2 (r.stale.contains e) (hkEntry r.cfg e) s
  let s := eachBl (blSample c e v.1 r.start) (List.range 8) s
  if e + 1 < hkCount r.cfg then onHk c (fun h => { h with running := some { r with next := e + 1 } }) s
  else onHk c (fun h => { h with running := none, seqScnt := BitVec.ofNat 32 (lo32 r.scnt) }) s

/-- What the multiplexer of a converter passes on: the voltage at the input of an entry, of the pins HKx_IN0–31 in nV; a pin that is not named is at 0 V (R372). -/
def hkInput (w : W32) (pins : List (Fin 32 × Int)) : Int :=
  match pins.find? fun p => p.1.val = fld w 31 27 with
  | some p => p.2
  | none => 0

/-- HK_CONVERSION_DONE: the conversion of an entry, and the voltages at the converter's inputs. No effect before the conversion of that entry can have ended. -/
def hkConversionDone (c e : Nat) (pins : List (Fin 32 × Int)) (s : State) : State :=
  match (hkOf s c).running with
  | none => s
  | some r => if decide (r.next = e) && hkEnds s r then hkDeliver c r (hkInput (hkEntry r.cfg e) pins) s else s
def execHkConversionDone (conv : Fin 2) (entry : Nat) (vin : List (Fin 32 × Int)) (s : State) : Host.Outcome State Fault Refusal := ok (hkConversionDone conv entry vin s)

/-- The open-wire current of an entry in µA, into its input if positive (R373). -/
def owCurrent (w : W32) : Int := match heOw w with | 1 => 10 | 2 => -10 | 3 => 100 | 4 => -100 | _ => 0

/-- Where a sequence is `t` (in 10 ns) after it started: the entry, of those from `e` on, that samples. -/
def hkSampling (cfg : List W32) : Nat → Nat → Nat → Option Nat
  | 0, _, _ => none
  | k + 1, e, t =>
    let d := 10 * heTime (hkEntry cfg e)
    if t < d - 40 then some e else if t < d then none else hkSampling cfg k (e + 1) (t - d)

/-- The input that a converter drives with an open-wire current, and the current in µA, `t` × 10 ns after the start of this row: that of the entry that is being sampled, and no
other. The currents are off in reset and while the device is unpowered (R377, R389). -/
def hkDriven (s : State) (c : Nat) (t : Fin 16) : Option (Nat × Int) :=
  match (hkOf s c).running with
  | none => none
  | some r =>
    match hkSampling r.cfg (hkCount r.cfg) 0 (16 * (125 * (s.stk.run - r.start) + s.stk.row) + t) with
    | none => none
    | some e => if alive s && decide (owCurrent (hkEntry r.cfg e) ≠ 0) then some (fld (hkEntry r.cfg e) 31 27, owCurrent (hkEntry r.cfg e)) else none

/-- C of the samples of a window: half the difference of the means, rounded toward zero; none where a sign has no sample (R385). -/
def blDetect (w : List W32) (t0 : Nat) (xs : List (Nat × Nat)) : Option Int :=
  let pos := xs.filter fun x => blSign w t0 (x.1 - blDelay w)
  let neg := xs.filter fun x => !blSign w t0 (x.1 - blDelay w)
  let sum := fun (l : List (Nat × Nat)) => ((l.map Prod.snd).sum : Int)
  if pos.isEmpty || neg.isEmpty then none
  else some ((sum pos * neg.length - sum neg * pos.length).tdiv (2 * pos.length * neg.length))

/-- The correction of a window's C (R386). -/
def blCorrect (l : Nat) (c : Int) (s : State) : State :=
  let b := blOf s l
  let e := c - blTarget b.cfg
  let s := onBl l (fun b => { b with lastC := c }) s
  if e.natAbs ≤ blDead b.cfg then s
  else
    let up := (decide (e < 0)) != blPol b.cfg
    let want : Int := if up then (b.base : Int) + blStep b.cfg else (b.base : Int) - blStep b.cfg
    let now := blLimit s b.cfg want
    let lim := decide ((now : Int) ≠ want)
    noteChange evOptBlLimit l b.limit lim (onBl l (fun b => { b with base := now, limit := lim, newBase := some now }) s)

/-- The window of a loop is in its last row, or over, and every result of a sequence that started in it is delivered. Its correction acts at the row 0 that follows, whatever is
committed there (R385–R387). -/
def blWindowOver (s : State) (b : BlSt) (t0 : Nat) : Bool :=
  let fin := blBegin b.cfg t0 (b.window + 1)
  (decide (fin ≤ s.stk.run) || decide (fin = s.stk.run + 1) && decide (s.stk.row = 124)) &&
    (match (hkOf s (blConv b.cfg)).running with
      | some r => decide (fin ≤ r.start) || decide (r.start < blBegin b.cfg t0 b.window)
      | none => true)

/-- BL_WINDOW_END: no effect before the window and its results are complete. -/
def blWindowEnd (l : Nat) (s : State) : State :=
  let b := blOf s l
  match b.t0 with
  | none => s
  | some t0 =>
    if !blWindowOver s b t0 then s
    else
      let fin := blBegin b.cfg t0 (b.window + 1)
      let xs := b.samples.filter fun x => x.1 < fin
      let s := onBl l (fun b => { b with window := b.window + 1, samples := b.samples.filter fun x => decide (fin ≤ x.1) }) s
      match blDetect b.cfg t0 xs with
      | none => note evOptBlNodata l 1 s
      | some c => blCorrect l c s
def execBlWindowEnd (loop : Fin 8) (s : State) : Host.Outcome State Fault Refusal := ok (blWindowEnd loop s)

/-! ### Reference monitor (R388) -/

/-- VREF_EXT lies within 1.2450–1.2550 V. -/
def vrefIn (code : W16) : Bool := decide (12450 * 32768 ≤ code.toNat * 12500) && decide (code.toNat * 12500 ≤ 12550 * 32768)

/-- The amplitude families start from their factory values, the trim of manufacture without a correction (R388; DEDUCED, log entry 126). -/
def factoryFamilies (s : State) : State :=
  (List.range (engines s)).foldl (fun s e =>
    onTxEng e (fun x => { x with calCorr := x.calCorr.filter fun i => decide (i.1 < 64) })
      (onRxEng e (fun x => { x with corr := x.corr.filter fun i => decide (i.1 < 32) }) s)) s

/-- A judgement. One that is out of range in KINDLE takes the amplitude families to their factory values. -/
def vrefJudge (code : W16) (s : State) : State :=
  let inn := vrefIn code
  let was := s.opt.vrefOor
  let okn := if inn then satAdd 2 s.opt.vrefOk 1 else 0
  let now := if inn then was && decide (okn < 2) else true
  let s := s.onOpt fun v => { v with vrefOor := now, vrefOk := okn, vrefCode := code, vrefScnt := BitVec.ofNat 32 (lo32 s.stk.scnt), vrefDue := false }
  let s := noteChange evOptVrefOor 0 was now s
  if s.mode.mode = .kindle && !inn then factoryFamilies s else s

/-- Optics at row 0, after the commits. -/
def optRow0 (x : StrokeIn) (s : State) : State :=
  let s := eachBl blRow0 (List.range 8) s
  let s := outsRow0 (outIds s) s
  let s := hkRow0 1 (hkRow0 0 s)
  if s.opt.vrefDue || scnt s % 50000 = 0 then vrefJudge x.vref s else s

/-- Optics over the stroke that ends. -/
def optStroke (x : StrokeIn) (s : State) : State := htrStroke x.htrFail (outIds s) s

/-- QUENCH: every output and loop is disabled at once; converters run on (R390). A running I2C transfer is to end with ABORTED (R392). -/
def optQuench (s : State) : State :=
  let s := (outIds s).foldl (fun s n => onOut n (fun o => { o with cfg1 := o.cfg1 &&& 0x7FFFFFFF#32, value := 0 }) s) s
  let s := (List.range 8).foldl (fun s l => blStop l (onBl l (fun b => { b with cfg := setAt b.cfg 0 (b.cfg.getD 0 0#32 &&& 0x7FFFFFFF#32) }) s)) s
  (List.range 4).foldl (fun s m => if (i2cOf s m).xfer.isSome then onI2c m (fun i => { i with abort := true }) s else s) s

/-! ### Reads of status -/

/-- HK_RESULT. -/
def hkResultWords (s : State) (c : Nat) : List W32 :=
  let h := hkOf s c
  let n := hkCount h.cfg
  let es := List.range 16
  let live := fun e => decide (e < n)
  let len := fun e => heLen (hkEntry h.cfg e)
  let f := fun e => filtOf s c e
  [word [(flag h.running.isSome, 31), (flag h.ovr, 30), (n, 16), (seqTime h.cfg, 0)], h.seqScnt,
   word [(bitsOf (es.filter fun e => live e && filtValid (len e) (f e)), 16), (bitsOf (es.filter fun e => live e && filtSat (len e) (f e)), 0)],
   word [(bitsOf (es.filter fun e => live e && (f e).opn), 16), (bitsOf (es.filter fun e => live e && (f e).ovr), 0)]]
    ++ (List.range n).map fun e => word [(filtOut (len e) (f e), 16), ((f e).raw, 0)]

/-- HK_RESULT_READ. -/
def doHkResultRead (rq : Req) (s : State) : State :=
  command opHkResultRead rq { par := [countIs 1 rq, onlyBits 0 0x00000001#32 rq] } s fun s => .done s (hkResultWords s (fld (rq.p 0) 0 0))
def execHkResultRead (rq : Req) (s : State) : Host.Outcome State Fault Refusal := ok (doHkResultRead rq s)

def outStatusWord (s : State) (n : Nat) : W32 :=
  let o := outOf s n
  word [(flag (outEnable s n), 31), (flag (ownedNow s n), 30), (flag o.htrOpen, 29), (flag (decide (o.value ≠ outSet s n)), 28), (outDriven s n, 0)]

/-- OUT_STATUS_READ. -/
def doOutStatusRead (rq : Req) (s : State) : State :=
  command opOutStatusRead rq { par := [countIs 0 rq] } s fun s => .done s ((List.range 40).map (outStatusWord s))
def execOutStatusRead (rq : Req) (s : State) : Host.Outcome State Fault Refusal := ok (doOutStatusRead rq s)

def blStatusWords (s : State) (l : Nat) : List W32 :=
  let b := blOf s l
  [word [(flag (blEnable b.cfg), 31), (flag b.t0.isSome, 30), (flag b.limit, 29), (flag b.sign, 28), (b.base, 0)],
   word [(unsigned 16 b.lastC, 16)], b.corrScnt]

/-- BL_STATUS_READ. -/
def doBlStatusRead (rq : Req) (s : State) : State :=
  command opBlStatusRead rq { par := [countIs 1 rq, onlyBits 0 0x00000007#32 rq] } s fun s => .done s (blStatusWords s (blObj (rq.p 0)))
def execBlStatusRead (rq : Req) (s : State) : Host.Outcome State Fault Refusal := ok (doBlStatusRead rq s)

/-- OPT_STATUS. -/
def optStatusWords (s : State) : List W32 :=
  [word [(flag s.opt.vrefOor, 31), (bitsOf ((List.range 4).filter (txdis s)), 16), (s.opt.vrefCode.toNat, 0)], s.opt.vrefScnt]

/-- OPT_STATUS_READ. -/
def doOptStatusRead (rq : Req) (s : State) : State :=
  command opOptStatusRead rq { par := [countIs 0 rq] } s fun s => .done s (optStatusWords s)
def execOptStatusRead (rq : Req) (s : State) : Host.Outcome State Fault Refusal := ok (doOptStatusRead rq s)

/-! ### I2C masters (R391, R392) -/

def i2cObj (w : W32) : Nat := fld w 1 0

/-- I2C_CFG. -/
def doI2cCfg (rq : Req) (s : State) : State :=
  command opI2cCfg rq
    { par := [countIs 2 rq, onlyBits 0 0x00000003#32 rq, onlyBits 1 0xC000007F#32 rq,
        wordOk 1 (decide (fld (rq.p 1) 31 30 ≤ 2) && decide (1 ≤ fld (rq.p 1) 6 0) && decide (fld (rq.p 1) 6 0 ≤ 100))] } s
    fun s => .done (onI2c (i2cObj (rq.p 0)) (fun i => { i with cfg := rq.p 1 }) s) []
def execI2cCfg (rq : Req) (s : State) : Host.Outcome State Fault Refusal := ok (doI2cCfg rq s)

def xferW (w : W32) : Nat := fld w 20 12
def xferR (w : W32) : Nat := fld w 8 0

/-- I2C_XFER: the reply waits for the end of the transfer. -/
def doI2cXfer (rq : Req) (s : State) : State :=
  let m := i2cObj (rq.p 0)
  command opI2cXfer rq
    { par := [countIs (2 + ceilDiv (xferW (rq.p 1)) 4) rq, onlyBits 0 0x00000003#32 rq, onlyBits 1 0x7F1FF1FF#32 rq,
        wordOk 1 (decide (xferW (rq.p 1) ≤ 256) && decide (xferR (rq.p 1) ≤ 256))],
      late := [need (i2cOf s m).xfer.isNone { st := .busy, detail := 2 }] } s
    fun s => .wait (onI2c m (fun i => { i with xfer := some (deferred opI2cXfer rq s), abort := false }) s)
def execI2cXfer (rq : Req) (s : State) : Host.Outcome State Fault Refusal := ok (doI2cXfer rq s)

/-- Units of a transfer: an address byte behind START, a byte written, a byte read and whether it is acknowledged. -/
inductive I2cPhase where
  | addr (b : Byte) | write (b : Byte) | read (ack : Bool)
  deriving DecidableEq

/-- The units of a transfer (R392): the write of `ws`, the read of `r` bytes behind a repeated START, of which all but the last are acknowledged; with neither, an address probe
with the write bit. -/
def i2cPlan (addr : Nat) (ws : List Byte) (r : Nat) : List I2cPhase :=
  (if !ws.isEmpty || r = 0 then .addr (BitVec.ofNat 8 (2 * addr)) :: ws.map .write else [])
    ++ (if 0 < r then .addr (BitVec.ofNat 8 (2 * addr + 1)) :: (List.replicate (r - 1) (.read true) ++ [.read false]) else [])

/-- A transfer so far: XSTAT, bytes written and acknowledged plus bytes read, the bytes read, and what the master has sent. -/
structure I2cEnd where
  xstat : Nat := 0
  bytes : Nat := 0
  data : List Byte := []
  sent : List I2cSym := []

/-- The master ends the transfer with STOP. QUENCH makes it ABORTED, however the byte in progress ended. -/
def i2cStop (abort : Bool) (x : Nat) (e : I2cEnd) : I2cEnd := { e with xstat := if abort then 5 else x, sent := e.sent ++ [.stop] }

/-- The transfer runs through its units. `limit`: stretching left, in µs. `abort`: QUENCH ends it after the units that the bus has seen. -/
def i2cRun (abort : Bool) : Nat → List I2cPhase → List I2cUnit → I2cEnd → I2cEnd
  | _, [], _, e => i2cStop abort 0 e
  | limit, p :: ps, us, e =>
    let u := us.headD {}
    if abort && us.isEmpty then i2cStop abort 5 e
    else if limit < u.held then i2cStop abort 3 e
    else match p with
      | .addr b =>
        let e := { e with sent := e.sent ++ [.start, .byte b] }
        if u.ack then i2cRun abort (limit - u.held) ps us.tail e else i2cStop abort 1 e
      | .write b =>
        let e := { e with sent := e.sent ++ [.byte b] }
        if u.ack then i2cRun abort (limit - u.held) ps us.tail { e with bytes := e.bytes + 1 } else i2cStop abort 2 e
      | .read k => i2cRun abort (limit - u.held) ps us.tail { e with bytes := e.bytes + 1, data := e.data ++ [u.data], sent := e.sent ++ [if k then .ack else .nack] }

/-- The bytes that an I2C_XFER writes: WDATA, byte 0 in [31:24]. -/
def xferBytes (rq : Req) : List Byte := (bytesOfWords (rq.params.drop 2)).take (xferW (rq.p 1))

/-- The outcome of a transfer on a master (R392): up to 9 clock pulses while SDA is low, and no START where it stays low. -/
def i2cOutcome (i : I2cSt) (rq : Req) (r : I2cResult) : I2cEnd :=
  if r.sdaLow then { xstat := if i.abort then 5 else 4, sent := List.replicate 9 .pulse }
  else i2cRun i.abort (1000 * fld i.cfg 6 0) (i2cPlan (fld (rq.p 1) 30 24) (xferBytes rq) (xferR (rq.p 1))) r.units { sent := List.replicate r.pulses .pulse }

/-- Result words of an I2C_XFER: XSTAT, BYTES, and the bytes read, padded with 0. -/
def i2cWords (w : W32) (e : I2cEnd) : List W32 :=
  word [(e.xstat, 24), (e.bytes, 0)] :: wordsOfBytes ((e.data ++ List.replicate (260 - e.data.length) 0#8).take (4 * ceilDiv (xferR w) 4))

/-- I2C_XFER_DONE: the transfer ends and the command replies. -/
def i2cXferDone (m : Nat) (r : I2cResult) (s : State) : State :=
  match (i2cOf s m).xfer with
  | none => s
  | some d =>
    let e := i2cOutcome (i2cOf s m) d.req r
    replyDeferred d { st := .ok } (i2cWords (d.req.p 1) e)
      (note evOptI2cFail m (flag (decide (e.xstat ≠ 0))) (onI2c m (fun i => { i with xfer := none, abort := false, sent := e.sent }) s))
def execI2cXferDone (m : Fin 4) (r : I2cResult) (s : State) : Host.Outcome State Fault Refusal := ok (i2cXferDone m r s)

end Sys2Proof.Machine
end

