-- ==== Sys2Proof/Machine/LineCode.lean ====
section
/-! DEFINITION. The line code and its decoding: codewords, soft bits, the codeword phase, the dematcher (08_line_receiver R262; 09_line_fec_and_overhead R266–R276). -/

namespace Sys2Proof.Machine

/-! ### The line code (R266–R269) -/

/-- GF(2¹⁵) with x¹⁵ + x + 1 (R267). -/
def bchField : Galois := { width := 15, low := 3 }

/-- The minimal polynomial of α^k, lowest power first: its conjugates are α^(k·2^j), j = 0–14. -/
def minimalPoly (k : Nat) : List Nat := polyRoots bchField ((List.range 15).map fun j => k * 2 ^ j)

/-- g(x), lowest power first: the minimal polynomials of α, α³, …, α³¹ are distinct, and its degree is 240. -/
def bchGenerator : List Nat := (List.range 16).foldl (fun p i => polyMul bchField p (minimalPoly (2 * i + 1))) [1]

/-- g(x) as a number: bit k is the coefficient of x^k. -/
def bchBits : Nat := bchGenerator.foldr (fun c v => 2 * v + c) 0

/-- The BCH parity of a message, highest power first: the remainder of the message times x^240 (R267). -/
def bchParity (msg : List Bool) : List Bool :=
  bitsOfNat 240 (msg.foldl (fun r b => let t := 2 * r; if xor b (t.testBit 240) then (t ^^^ bchBits) % 2 ^ 240 else t % 2 ^ 240) 0)

/-- Code bits per data symbol (R269). -/
def symbolBits (format : Nat) : Nat := if format = 0 then 4 else if format = 1 then 8 else 12
def codewordSymbols (format : Nat) : Nat := 35280 / symbolBits format

/-- Entry of the 10 × 70 base matrix: a shift 0–503, none for the zero block. Columns 60–69 are lower triangular with shift 0 on the diagonal (R268). -/
def ldpcBase (r c : Nat) : Option Nat :=
  if c = 60 + r then some 0
  else if 60 + r < c then none
  else match Config.ldpcShift r c % 505 with
    | 0 => none
    | s + 1 => some s

/-- A circulant times a block of 504 bits: row i takes column (i + s) mod 504. -/
def circulant (s : Nat) (x : List Bool) : List Bool := x.drop s ++ x.take s

/-- The sum over block columns of block row `r` times the given blocks. -/
def ldpcRow (r : Nat) (blocks : List (List Bool)) : List Bool :=
  blocks.zipIdx.foldl (fun v b => match ldpcBase r b.2 with | some s => List.zipWith xor v (circulant s b.1) | none => v) (List.replicate 504 false)

/-- The blocks of a codeword, the parity solved for block by block (R268). -/
def ldpcSolve (m : List Bool) : List (List Bool) := (List.range 10).foldl (fun bl r => bl ++ [ldpcRow r bl]) (pieces 504 60 m)

/-- The 5,040 LDPC parity bits of 30,240 bits. -/
def ldpcParity (m : List Bool) : List Bool := ((ldpcSolve m).drop 60).flatten

/-- The LDPC syndrome of a word is zero. -/
def ldpcOk (w : List Bool) : Bool := (List.range 10).all fun r => (ldpcRow r (pieces 504 70 w)).all fun b => !b

/-- A codeword from its 30,000 information bits: 35,280 bits (R266). -/
def codeword (info : List Bool) : List Bool :=
  let m := info ++ bchParity info
  m ++ ldpcParity m

/-- A data symbol: each dimension its sign bit, 0 positive, and the amplitude of its label bits (R219, R269). -/
def dataSymbol (format : Nat) (labels signs : List Bool) : LineSym :=
  { v := List.zipWith (fun l sg => let a : Int := amplitude format l; if sg then -a else a) (pieces ((symbolBits format - 4) / 4) 4 labels) signs }

/-- The data symbols of a codeword: the label bits of all of them, then their signs (R269). -/
def codewordSyms (format : Nat) (cw : List Bool) : List LineSym :=
  let q := symbolBits format
  let c := codewordSymbols format
  List.zipWith (dataSymbol format) (pieces (q - 4) c cw) (pieces 4 c (cw.drop (c * (q - 4))))

/-- Where bit j of a codeword goes: the symbol, and in it a label bit (label, from dimension XI on) or the sign of a dimension (R269). -/
def bitPlace (format j : Nat) : Nat × Bool × Nat :=
  let q := symbolBits format
  let l := codewordSymbols format * (q - 4)
  if j < l then (j / (q - 4), true, j % (q - 4)) else ((j - l) / 4, false, (j - l) % 4)

/-! ### The matcher's labels (R219, R220, R262, R270) -/

/-- The label bits of an amplitude, most significant first (R219, R270). -/
def labelBits (a : Nat) : List Bool := if a = 1 then [false, false] else if a = 3 then [false, true] else if a = 5 then [true, true] else [true, false]

/-- The amplitude rank, 0 for 1 to 3 for 7, of two label bits. -/
def labelRank (b : List Bool) : Nat := (amplitude 2 b - 1) / 2

/-- The place of a sequence of ranks in the lexicographic order of its composition (R220). -/
def rankOf : List Nat → List Nat → Nat
  | [], _ => 0
  | a :: l, c => ((List.range a).map fun b => if c.getD b 0 = 0 then 0 else sequences (setAt c b (c.getD b 0 - 1))).sum + rankOf l (setAt c a (c.getD a 0 - 1))

/-- The dematcher on the 512 label bits of a block: its k bits, none where the block cannot be inverted (R262). -/
def dematch (entropy : Nat) (labels : List Bool) : Option (List Bool) :=
  let ranks := (pieces 2 256 labels).map labelRank
  let c := composition entropy
  let k := matcherBits entropy
  let m := rankOf ranks c
  if ((List.range 4).map fun a => ranks.count a) = c && decide (m < 2 ^ k) then some ((List.range k).map fun i => m.testBit (k - 1 - i)) else none

/-! ### Soft bits (R262) -/

/-- The noise variance per dimension of the last 64 pilots' deviations, in the square of their unit; never 0. -/
def noiseVar (dev : List (List Int)) : Nat := max 1 (((dev.take 64).flatten.map fun v => v.natAbs * v.natAbs).sum / (dev.take 64).flatten.length)

/-- The points of a dimension with their label bits and priors: uniform, or c_a / 256 of the composition (R262). -/
def dimPoints (format entropy : Nat) : List (List Bool × Int × Nat) :=
  if format = 0 then [([], 1, 1)]
  else if format = 1 then [([false], 1, 1), ([true], 3, 1)]
  else let c := composition entropy; [1, 3, 5, 7].map fun a => (labelBits a, (a : Int), c.getD ((a - 1) / 2) 0)

/-- Unit of a received dimension: 2⁻³² of the smallest amplitude. -/
def dimOne : Int := 2 ^ 32

/-- The likelihoods of 0 and of 1 for bit `i` of a dimension, label bits first and the sign last, against that of the nearest point: the log-likelihood ratio is the logarithm of their quotient (R262). -/
def bitLikelihood (pts : List (List Bool × Int × Nat)) (var : Nat) (v : Int) (i : Nat) : Int × Int :=
  let all := pts.flatMap fun p => [false, true].map fun sg => (p.1 ++ [sg], p.2.2, (v - dimOne * (if sg then -p.2.1 else p.2.1)).natAbs)
  let near := all.foldl (fun m p => min m (p.2.2 * p.2.2)) ((all.headD ([], 0, 0)).2.2 * (all.headD ([], 0, 0)).2.2)
  let like := fun (p : List Bool × Nat × Nat) => (p.2.1 : Int) * tenTo (-(((p.2.2 * p.2.2 - near : Nat) : Int) * fxOne * fxOne / (2 * var * fxLn10))) (2 ^ 80)
  ((all.filter fun p => !p.1.getD i false).foldl (fun t p => t + like p) 0, (all.filter fun p => p.1.getD i false).foldl (fun t p => t + like p) 0)

/-- The likelihoods of every bit of a codeword, in the order of R269. -/
def softBits (format entropy var : Nat) (syms : List (List Int)) : List (Int × Int) :=
  let n := (symbolBits format - 4) / 4
  let pts := dimPoints format entropy
  let s := (List.range (codewordSymbols format)).map fun i => (List.range 4).map fun d => (syms.getD i []).getD d 0
  (s.flatMap fun y => y.flatMap fun v => (List.range n).map fun i => bitLikelihood pts var v i) ++ (s.flatMap fun y => y.map fun v => bitLikelihood pts var v n)

/-- The hard decisions: 1 where it is the likelier. -/
def hardBits (soft : List (Int × Int)) : List Bool := soft.map fun w => decide (w.1 < w.2)

/-! ### The codeword phase and decoding (R272, R273, R275, R276) -/

/-- Candidate codeword phases P (R272). -/
def cwPhases (format : Nat) (bonded : Bool) : Nat := codewordSymbols format / Nat.gcd (dataSymbols bonded) (codewordSymbols format)

/-- The iteration limit in force (R273). -/
def iterLimit (s : State) (e : Nat) : Nat := if (otnOf s e).latDraw || baseMode s = .draw then 6 else 16

/-- Rows from the last symbol of a codeword to its delivery (R273). -/
def cwDelay (s : State) (e : Nat) : Nat := if (otnOf s e).latDraw then 12 else 40

/-- A row passes: a limit that has moved leaves the old one to codewords begun before (R273). -/
def iterRow (e : Nat) (s : State) : State :=
  let n := iterLimit s e
  onOtnE e (fun x => if n = x.lim then { x with limRows := min 41 (x.limRows + 1) } else { x with lim := n, limPrev := x.lim, limRows := 0 }) s

/-- The limit of a codeword whose decoding began `rows` ago. -/
def cwLimit (s : State) (e rows : Nat) : Nat := let x := otnOf s e; if x.limRows < rows && decide (rows ≤ cwDelay s e) then x.limPrev else iterLimit s e

/-- What decoding a codeword gave. -/
structure CodewordView where
  good : Bool
  bits : List Bool
  diff : Nat

/-- The BCH decoder on bits 0–30,239 of what the LDPC decoder gives, and the syndrome of the corrected word (R275); for a correctable one, the hard decisions that differ from it (R276). -/
def decodeCodeword (format entropy : Nat) (r : CodewordIn) : CodewordView :=
  let w := (List.range 35280).map fun i => r.word.getD i false
  match bchDecode bchField 16 (w.take 30240) with
  | none => { good := false, bits := w, diff := 0 }
  | some m =>
    let c := m.1 ++ w.drop 30240
    let hard := hardBits (softBits format entropy (noiseVar r.pilots) r.syms)
    { good := ldpcOk c, bits := c, diff := (List.zipWith xor hard c).countP id }

/-- The codeword phase test, seven candidates at a time (R272). -/
def cwTestStep (e phase : Nat) (good : Bool) (s : State) : State :=
  let x := otnOf s e
  let c := rxRule s e
  let p := cwPhases (lcFormat c) (bondedNow s)
  if p ≤ phase || phase < x.cwGroup || x.cwGroup + 7 ≤ phase then s
  else
    let old := tget (0, 0) x.cwTest phase
    if 4 ≤ old.1 then s
    else
      let new := (old.1 + 1, old.2 + flag good)
      if new.1 = 4 && 3 ≤ new.2 then
        otnDefect e .cwl evLinDCwl false (onOtnE e (fun x => { x with cwLock := true, cwPhase := phase, cwTest := [], cwBad := 0, cwRun := 0 }) s)
      else
        let t := tset (0, 0) x.cwTest phase new
        let all := (List.range (min 7 (p - x.cwGroup))).all fun i => decide ((tget (0, 0) t (x.cwGroup + i)).1 = 4)
        onOtnE e (fun x => if all then { x with cwTest := [], cwGroup := if p ≤ x.cwGroup + 7 then 0 else x.cwGroup + 7 } else { x with cwTest := t }) s

/-! ### OTUCn bits out of codewords (R262, R270, R275) -/

/-- Bits with the slag mark. -/
abbrev MBit := Bool × Bool

/-- Whole blocks of labels: their bits, how many could not be inverted, and the labels left. -/
def dematchBlocks (entropy : Nat) : Nat → List MBit → List MBit × Nat × List MBit
  | 0, l => ([], 0, l)
  | n + 1, l =>
    if l.length < 512 then ([], 0, l)
    else
      let b := l.take 512
      let r := dematchBlocks entropy n (l.drop 512)
      match dematch entropy (b.map Prod.fst) with
      | some k => ((k.map fun v => (v, b.any Prod.snd)) ++ r.1, r.2)
      | none => (List.replicate (matcherBits entropy) (false, true) ++ r.1, r.2.1 + 1, r.2.2)

/-- Where in the labels of a codeword a block begins: the first multiple of 32 from which all its blocks can be inverted (DEDUCED, log entry 105). -/
def blockStart (entropy : Nat) (labels : List Bool) : Option Nat :=
  ((List.range 16).map (32 * ·)).find? fun m => (dematchBlocks entropy 45 ((labels.drop m).map fun b => (b, false))).2.1 = 0

/-- OTUCn bits enter the stream of the receiver. -/
def pushBits (l : List MBit) (x : OtnSt) : OtnSt := { x with rxBits := x.rxBits ++ l.drop x.rxSkip, rxSkip := x.rxSkip - l.length }

/-- The OTUCn bits of a codeword. In DP-PCS-64QAM, the block that began in the codeword before comes first, then the bits in sign positions, then the blocks that begin here (R270). -/
def codewordBits (format entropy : Nat) (v : CodewordView) (x : OtnSt) : OtnSt × Nat :=
  let m := (v.bits.take 30000).map fun b => (b, !v.good)
  if format ≠ 2 then (pushBits m x, 0)
  else
    let start := if x.lblSync then some 0 else if v.good then blockStart entropy ((v.bits.take 23520)) else none
    match start with
    | none => (x, 0)
    | some o =>
      let labels := (m.take 23520).drop o
      let head := if x.labels.isEmpty then 0 else 512 - x.labels.length
      let a := dematchBlocks entropy 1 (x.labels ++ labels.take head)
      let b := dematchBlocks entropy 46 (labels.drop head)
      ({ pushBits (a.1 ++ (m.drop 23520 ++ b.1)) x with lblSync := true, labels := b.2.2 }, a.2.1 + b.2.1)

/-- A codeword of the locked phase (R272, R275, R276). -/
def cwCount (e : Nat) (r : CodewordIn) (v : CodewordView) (s : State) : State :=
  let c := rxRule s e
  let q := codewordBits (lcFormat c) (lcEntropy c) v (otnOf s e)
  let s := note evLinFecCw e 1 (note evLinFecCorrBits e (if v.good then v.diff else 0) (note evLinFecUncorr e (flag (!v.good)) (note evLinDmErr e q.2 s)))
  let s := onOtnE e (fun x => { q.1 with
    cwBad := if v.good then 0 else x.cwBad + 1
    fecNow := { x.fecNow with cw := x.fecNow.cw + 1, good := x.fecNow.good + flag v.good, diff := x.fecNow.diff + (if v.good then v.diff else 0), uncorr := x.fecNow.uncorr + flag (!v.good)
                              iterMax := max x.fecNow.iterMax r.iter, iterSum := x.fecNow.iterSum + r.iter } }) s
  if 32 ≤ (otnOf s e).cwBad then otnDefect e .cwl evLinDCwl true (onOtnE e (codewordLost s.stk.row) s) else s

/-- CODEWORD_DECODE: in the phase test, or of the phase accepted. -/
def codewordDecode (e : Nat) (r : CodewordIn) (s : State) : State :=
  if !enginePresent s e || (rxEng s e).state ≠ .locked || decide (cwLimit s e r.began < r.iter) then s
  else
    let c := rxRule s e
    let v := decodeCodeword (lcFormat c) (lcEntropy c) r
    if !(otnOf s e).cwLock then cwTestStep e r.phase v.good s
    else if r.phase = (otnOf s e).cwPhase then cwCount e r v s
    else s
def execCodewordDecode (e : Fin 4) (cw : CodewordIn) (s : State) : Host.Outcome State Fault Refusal := ok (codewordDecode e cw s)

end Sys2Proof.Machine
end

