-- ==== Sys2Proof/Machine/LineOtn.lean ====
section
/-! DEFINITION. OTUCn framing, overhead, row blocks and line monitoring (09_line_fec_and_overhead R277–R295), and the OTUCm of FlexO ports (R302). -/

namespace Sys2Proof.Machine

/-! ### What terminates an OTUCn (R277, R302) -/

def otnSt (s : State) : OtnId → OtnSt
  | .line e => otnOf s e
  | .flexo p i => instOf s p i
def onOtnId (id : OtnId) (f : OtnSt → OtnSt) (s : State) : State :=
  match id with
  | .line e => onOtnE e f s
  | .flexo p i => onCliPort p (fun x => { x with otn := tmod {} x.otn i f }) s

/-- m of a FlexO port. -/
def instances (s : State) (p : Nat) : Nat := min 16 (cpRate (cliPort s p))

/-- Number of slices: n of the receiver's rate, or the one of an instance. -/
def otnSlices (s : State) : OtnId → Nat
  | .line e => rxRate s e
  | .flexo _ _ => 1
def otnEnabled (s : State) : OtnId → Bool
  | .line e => enginePresent s e && (rxEng s e).state ≠ .off
  | .flexo p i => cpEn (cliPort s p) && cpFlexo (cliPort s p) && decide (i.val < instances s p)

/-- The decoded stream is there: the receiver is LOCKED with codeword lock, or the FlexO port receives. -/
def otnStream (s : State) : OtnId → Bool
  | .line e => enginePresent s e && (rxEng s e).state = .locked && (otnOf s e).cwLock
  | .flexo p i => otnEnabled s (.flexo p i) && !portFail s p

/-- The instances of a port: what slice 0 of the OTUCm tells holds for each of them (R287, R302). -/
def otnPeers (s : State) : OtnId → List OtnId
  | .line e => [.line e]
  | .flexo p _ => ((List.finRange 16).filter fun i => decide (i.val < instances s p)).map fun i => .flexo p i

/-- The overhead of slice 0, or of instance 0 (R287). -/
def otnFirst : OtnId → Bool
  | .line _ => true
  | .flexo _ i => i = 0

/-- Event instance: the engine, or the instance of the port under class 0x0A (R450). -/
def otnInst : OtnId → Nat
  | .line e => e
  | .flexo p i => 16 * p + i
def otnEv (id : OtnId) (ev : Ev) : Ev :=
  match id with
  | .line _ => ev
  | .flexo _ _ => ev.flexo

def idDefect (id : OtnId) (d : LineDefect) (now : Bool) (s : State) : State :=
  let was := (otnSt s id).defects.contains d
  if was = now then s
  else noteChange (otnEv id d.ev) (otnInst id) was now (onOtnId id (fun x => { x with defects := if now then x.defects ++ [d] else del x.defects d }) s)

/-- A defect that the overhead of slice 0 tells, in every instance. -/
def commonDefect (id : OtnId) (d : LineDefect) (now : Bool) (s : State) : State := (otnPeers s id).foldl (fun s i => idDefect i d now s) s

def hasDefect (s : State) (id : OtnId) (d : LineDefect) : Bool := (otnSt s id).defects.contains d

def ohTimMode (x : OtnSt) (pm : Bool) : Nat := if pm then fld (x.oh.getD 0 0#32) 28 27 else fld (x.oh.getD 0 0#32) 31 30
def ohTimAct (x : OtnSt) (pm : Bool) : Bool := bit (x.oh.getD 0 0#32) (if pm then 26 else 29)
def ohForce (x : OtnSt) : Nat := fld (x.oh.getD 0 0#32) 25 24
def ohPlmAct (x : OtnSt) : Bool := bit (x.oh.getD 0 0#32) 23
def ohDegThr (x : OtnSt) (pm : Bool) : Nat := fld (x.oh.getD (if pm then 2 else 1) 0#32) 31 12
def ohDegM (x : OtnSt) (pm : Bool) : Nat := fld (x.oh.getD (if pm then 2 else 1) 0#32) 11 8
def ohFecThr (x : OtnSt) : Nat := fld (x.oh.getD 3 0#32) 31 16

/-- dRXLOS or dLOSF of the receiver. -/
def rxDown (s : State) : OtnId → Bool
  | .line e => (rxEng s e).los || (rxEng s e).losf
  | .flexo _ _ => false

/-- The conditions of R293 for SM BDI. -/
def smBdi (s : State) (id : OtnId) : Bool :=
  let x := otnSt s id
  otnEnabled s id && (rxDown s id || x.defects.contains .cwl || !x.inFrame || !x.inMf || (x.defects.contains .timSm && ohTimAct x false))

/-- The conditions of aSSF that affect every slice (R292). -/
def otnFail (s : State) (id : OtnId) : Bool :=
  let x := otnSt s id
  otnEnabled s id && (rxDown s id || x.defects.contains .cwl || !x.inFrame || !x.inMf || x.defects.contains .ais || x.defects.contains .oci || x.defects.contains .lck
    || (x.defects.contains .timSm && ohTimAct x false) || (x.defects.contains .timPm && ohTimAct x true) || (x.defects.contains .plm && ohPlmAct x))

def sliceOf (x : OtnSt) (i : Nat) : SliceSt := tget {} x.slices i
def onSlice (id : OtnId) (i : Nat) (f : SliceSt → SliceSt) (s : State) : State := onOtnId id (fun x => { x with slices := tmod {} x.slices i f }) s

/-! ### Frames (R277–R281, R287–R291) -/

/-- Bytes of a slice frame before the OPU overhead and payload. -/
def colIdx (row col : Nat) : Nat := (row - 1) * 3824 + (col - 1)

/-- The frame-synchronous scrambler of a slice (R278): one bit of 1 + x + x³ + x¹² + x¹⁶ (PRESUMED from ITU-T G.709, log entry 21). -/
def scramBit (st : Nat) : Bool × Nat :=
  (st.testBit 15, (st * 2) % 65536 + flag (xor (xor (st.testBit 15) (st.testBit 11)) (xor (st.testBit 2) (st.testBit 0))))
def scramByte : Nat → Nat → Nat × Nat
  | 0, st => (0, st)
  | n + 1, st =>
    let r := scramBit st
    let q := scramByte n r.2
    (flag r.1 * 2 ^ n + q.1, q.2)
def scramMask : Nat → Nat → List Byte
  | 0, _ => []
  | n + 1, st =>
    let r := scramByte 8 st
    BitVec.ofNat 8 r.1 :: scramMask n r.2

/-- Every byte but the six FAS bytes. Scrambling twice gives the frame back. -/
def scramble (fr : List Byte) : List Byte := fr.take 6 ++ List.zipWith (· ^^^ ·) (fr.drop 6) (scramMask (fr.length - 6) 65535)
def descramble (fr : List SByte) : List SByte := List.zip (scramble (fr.map Prod.fst)) (fr.map Prod.snd)

/-- Columns 15 to 3,824 of the four rows. -/
def opuBytes (fr : List Byte) : List Byte := (List.range 4).flatMap fun r => (fr.drop (r * 3824 + 14)).take 3810
/-- Columns 17 to 3,824 of the four rows. -/
def payBytes {α : Type} (fr : List α) : List α := (List.range 4).flatMap fun r => (fr.drop (r * 3824 + 16)).take 3808

/-- The OTUCn stream: rounds of 16 bytes of each slice in turn (R277). -/
def otucStream (slices : List (List Byte)) : List Byte := (List.range 956).flatMap fun r => slices.flatMap fun f => (f.drop (16 * r)).take 16

/-- The search of R279 over one frame period. -/
def huntCands (hits : List (Nat × Byte)) (cands : List FasCand) : List FasCand :=
  let kept := cands.filterMap fun c =>
    match hits.find? fun h => h.1 = c.off with
    | some h => some { c with hits := c.hits + 1, mfas := h.2, adv := if c.hits ≠ 0 && h.2 = c.mfas + 1#8 then c.adv + 1 else 0 }
    | none => none
  hits.foldl (fun l h => if l.any (fun c => c.off = h.1) || 8 ≤ l.length then l else l ++ [{ off := h.1, hits := 1, mfas := h.2 }]) kept

def huntFrames (id : OtnId) (hits : List (Nat × Byte)) (s : State) : State :=
  onOtnId id (fun x =>
    let l := huntCands hits x.fasCands
    match l.find? fun c => 3 ≤ c.hits && 2 ≤ c.adv with
    | some c => { x with
        inFrame := true, inMf := true, frameOff := (match id with | .line _ => 0 | .flexo _ _ => c.off), mfas := c.mfas, fasCands := [], fasBad := 0, mfBad := 0, mfGood := 0
        ifRun := 0, ifRow := s.stk.row, imRun := 0, imRow := s.stk.row
        slices := x.slices.map fun y => (y.1, { y.2 with par := [] }) }
    | none => { x with fasCands := l }) s

/-- A defect declared after `on` frames with its condition and cleared after `off` without it. -/
def framePersist (id : OtnId) (d : LineDefect) (k on off : Nat) (cond : Bool) (s : State) : State :=
  let x := otnSt s id
  let decl := x.defects.contains d
  if cond = decl then onOtnId id (fun x => { x with onRun := tset 0 x.onRun k 0, offRun := tset 0 x.offRun k 0 }) s
  else if decl then
    if off ≤ tget 0 x.offRun k + 1 then commonDefect id d false (onOtnId id (fun x => { x with offRun := tset 0 x.offRun k 0 }) s)
    else onOtnId id (fun x => { x with offRun := tmod 0 x.offRun k (· + 1) }) s
  else if on ≤ tget 0 x.onRun k + 1 then commonDefect id d true (onOtnId id (fun x => { x with onRun := tset 0 x.onRun k 0 }) s)
  else onOtnId id (fun x => { x with onRun := tmod 0 x.onRun k (· + 1) }) s

/-- Bytes that TIM_MODE compares: 1 SAPI, 2 DAPI, 3 both. -/
def timBytes (mode : Nat) (t : List Byte) : List Byte := (if mode % 2 = 1 then t.take 16 else []) ++ (if 2 ≤ mode then (t.drop 16).take 16 else [])

/-- An accepted TTI is compared with the expected one (R289). -/
def ttiAccept (id : OtnId) (pm : Bool) (t : List Byte) (s : State) : State :=
  let l := flag pm
  let s := onOtnId id (fun x => { x with ttiAcc := tset [] x.ttiAcc l (wordsOfBytes t) }) s
  let x := otnSt s id
  let m := ohTimMode x pm
  let exp := bytesOfWords (let w := tget [] x.ttiExp l; (List.range 16).map fun i => w.getD i 0#32)
  commonDefect id (if pm then .timPm else .timSm) (decide (timBytes m t ≠ timBytes m exp)) s

/-- A TTI byte of the multiframe position k; a multiframe that is not whole ends the run (R289). -/
def ttiByte (id : OtnId) (pm : Bool) (k : Nat) (b : Byte) (s : State) : State :=
  let l := flag pm
  let x := otnSt s id
  let cut := decide ((tget [] x.ttiNow l).length ≠ k)
  let now := if k = 0 then [b] else if cut then [] else tget [] x.ttiNow l ++ [b]
  if k = 63 && now.length = 64 then
    let run := if now = tget [] x.ttiPrev l then min 3 (tget 0 x.ttiRun l + 1) else 1
    let s := onOtnId id (fun x => { x with ttiNow := tset [] x.ttiNow l [], ttiPrev := tset [] x.ttiPrev l now, ttiRun := tset 0 x.ttiRun l run }) s
    if 3 ≤ run then ttiAccept id pm now s else s
  else
    onOtnId id (fun x => { x with ttiNow := tset [] x.ttiNow l now, ttiRun := if cut then tset 0 x.ttiRun l 0 else x.ttiRun }) s

/-- PSI[0] at MFAS 0 (R291). -/
def ptByte (id : OtnId) (b : Byte) (s : State) : State :=
  let x := otnSt s id
  let run := if 0 < x.ptRun && b = x.ptLast then min 3 (x.ptRun + 1) else 1
  let s := onOtnId id (fun x => { x with ptLast := b, ptRun := run, pt := if 3 ≤ run then b else x.pt }) s
  if 3 ≤ run then commonDefect id .plm (decide (b ≠ 1#8)) s else s

/-- BEI of a slice: 0 to 8; other values count no violation (PRESUMED from ITU-T G.709, log entry 21). -/
def beiOf (n : Nat) : Nat := if n ≤ 8 then n else 0

/-- What a slice's frame showed: SM and PM BIP violations, SM and PM BEI, and whether neither copy of C was correct. -/
structure SliceView where
  sm : Nat := 0
  pm : Nat := 0
  smBei : Nat := 0
  pmBei : Nat := 0
  cBad : Bool := false

/-- C of a frame: copy A, otherwise copy B (R284). -/
def takeC (fr : List SByte) : Option Nat :=
  let a := frBytes fr (colIdx 1 15) 2
  let b := frBytes fr (colIdx 3 15) 2
  if crc8 a = frByte fr (colIdx 2 15) then some (natOfBytes a) else if crc8 b = frByte fr (colIdx 4 16) then some (natOfBytes b) else none

/-- A slice's frame, descrambled (R284, R288). -/
def sliceFrame (line : Bool) (fr : List SByte) (y : SliceSt) : SliceSt × SliceView :=
  let p := bip8 (opuBytes (fr.map Prod.fst))
  let old := if y.par.length = 2 then some (y.par.getD 0 0#8) else none
  let v := fun (i : Nat) => match old with | some b => ones (b ^^^ frByte fr i) | none => 0
  let c := takeC fr
  let sm := v (colIdx 1 9)
  let pm := v (colIdx 3 11)
  let y := { y with par := (y.par ++ [p]).drop (y.par.length - 1), smBei := sm, pmBei := pm }
  let view : SliceView := { sm := sm, pm := pm, smBei := beiOf ((frByte fr (colIdx 1 10)).toNat / 16), pmBei := beiOf ((frByte fr (colIdx 3 12)).toNat / 16), cBad := line && c.isNone }
  if !line then (y, view)
  else match c with
    | some c => ({ y with c := c, rx := y.rx ++ demap (min 15232 c) (payBytes fr) }, view)
    | none => ({ y with rx := [], resync := y.resync + 1 }, view)

def slicesFrame (line : Bool) : Nat → List (List SByte) → List (Nat × SliceSt) → List (Nat × SliceSt) × List SliceView
  | _, [], t => (t, [])
  | i, f :: r, t =>
    let a := sliceFrame line f (tget {} t i)
    let q := slicesFrame line (i + 1) r (tset {} t i a.1)
    (q.1, a.2 :: q.2)

/-- The entities of the SM and PM layers (R446). -/
def otnLayers : OtnId → Nat × Nat
  | .line _ => (2, 3)
  | .flexo _ _ => (4, 5)

/-- Errored blocks of the monitored layers: entities 2 and 3 for a line, 4 and 5 for a FlexO instance (R294, R446). -/
def framePm (id : OtnId) (v : List SliceView) (s : State) : State :=
  let iae := hasDefect s id .iae
  let biae := hasDefect s id .biae
  let blk := fun (n i : Nat) (sm : Bool) (x : List SliceView) (s : State) =>
    let ne := x.any fun w => decide (0 < (if sm then w.sm else w.pm))
    let fe := x.any fun w => decide (0 < (if sm then w.smBei else w.pmBei))
    pmErrored n i false (flag (ne && !(sm && iae))) (pmErrored n i true (flag (fe && !(sm && biae))) s)
  let l := otnLayers id
  blk l.1 (otnInst id) true v (blk l.2 (otnInst id) false v s)

/-- Violation counters, per engine or per instance. -/
def frameCount (id : OtnId) (v : List SliceView) (s : State) : State :=
  let i := otnInst id
  note (otnEv id evLinSmBipViol) i (v.map SliceView.sm).sum (note (otnEv id evLinPmBipViol) i (v.map SliceView.pm).sum
    (note (otnEv id evLinSmBeiViol) i (v.map SliceView.smBei).sum (note (otnEv id evLinPmBeiViol) i (v.map SliceView.pmBei).sum
      (note (otnEv id evLinCErr) i (v.filter SliceView.cBad).length s))))

/-- A far-end defect in the second: BDI received, or dBIAE for SM. -/
def farDefect (id : OtnId) (pm : Bool) (s : State) : State :=
  (otnPeers s id).foldl (fun s i => pmDefect (if pm then (otnLayers i).2 else (otnLayers i).1) (otnInst i) true s) s

/-- The overhead of slice 0 (R287, R289–R291). -/
def frameOverhead (id : OtnId) (fr : List SByte) (s : State) : State :=
  let b := fun i => (frByte fr i).toNat
  let sm := b (colIdx 1 10)
  let pm := b (colIdx 3 12)
  let bdiSm := sm.testBit 3
  let bdiPm := pm.testBit 3
  let s := framePersist id .bdiSm 4 5 5 bdiSm s
  let s := framePersist id .iae 5 5 5 (sm.testBit 2) s
  let s := framePersist id .biae 6 3 3 (sm / 16 = 11) s
  let s := framePersist id .bdiPm 12 5 5 bdiPm s
  let s := framePersist id .ais 8 3 3 (pm % 8 = 7) s
  let s := framePersist id .oci 9 3 3 (pm % 8 = 6) s
  let s := framePersist id .lck 10 3 3 (pm % 8 = 5) s
  let s := if bdiSm || hasDefect s id .biae then farDefect id false s else s
  let s := if bdiPm then farDefect id true s else s
  let x := otnSt s id
  if !x.inMf then s
  else
    let m := x.mfas.toNat
    let s := ttiByte id false (m % 64) (frByte fr (colIdx 1 8)) (ttiByte id true (m % 64) (frByte fr (colIdx 3 10)) s)
    if m = 0 then ptByte id (frByte fr (colIdx 4 15)) s else s

/-- FAS and MFAS of a frame in `row` (R280, R281). An MFAS that does not advance by 1 interrupts the multiframes (R289, R291). -/
def frameAlign (row : Nat) (fr : List SByte) (x : OtnSt) : OtnSt :=
  let bad := frNat fr 2 2 ≠ 0xF628
  let n := if bad then x.fasBad + 1 else 0
  if 5 ≤ n then streamLost row { x with fasBad := 0 }
  else
    let mf := frByte fr 6
    let good := mf = x.mfas + 1#8
    let mb := if good then 0 else x.mfBad + 1
    let mg := if good then x.mfGood + 1 else 0
    let mf' := if x.inMf then decide (mb < 5) else decide (2 ≤ mg)
    { (if good then x else multiframeLost x) with
      fasBad := n, mfas := mf, frames := x.frames + 1
      inMf := mf'
      oomRun := if x.inMf && !mf' then 0 else x.oomRun, oomRow := if x.inMf && !mf' then row else x.oomRow
      imRun := if mf' && !x.inMf then 0 else x.imRun, imRow := if mf' && !x.inMf then row else x.imRow
      mfBad := if x.inMf then mb else 0
      mfGood := if x.inMf then 0 else mg }

/-- A frame received in frame. -/
def otnFrame (id : OtnId) (slices : List (List SByte)) (s : State) : State :=
  let sl := ((List.range (otnSlices s id)).map fun i => descramble (slices.getD i []))
  let s := onOtnId id (frameAlign s.stk.row (sl.getD 0 [])) s
  if !(otnSt s id).inFrame then s
  else
    let line := match id with | .line _ => true | .flexo _ _ => false
    let r := slicesFrame line 0 sl (otnSt s id).slices
    let s := onOtnId id (fun x => { x with
      slices := r.1
      smErr := x.smErr + flag (!x.defects.contains .iae && r.2.any fun w => decide (0 < w.sm))
      pmErr := x.pmErr + flag (r.2.any fun w => decide (0 < w.pm)) }) s
    let s := if otnFirst id then frameOverhead id (sl.getD 0 []) s else s
    framePm id r.2 (frameCount id r.2 s)

/-- Bits of an OTUCn frame (R277). -/
def frameBits (n : Nat) : Nat := n * 122368

/-- Bytes of a stream of bits, marked where a bit is. -/
def markedBytes (n : Nat) (l : List MBit) : List SByte := (pieces 8 n l).map fun b => (BitVec.ofNat 8 (natOfBits (b.map Prod.fst)), b.any Prod.snd)

/-- The slices of a frame out of its rounds (R277). -/
def unround (n : Nat) (bs : List SByte) : List (List SByte) :=
  (List.range n).map fun k => (List.range 956).flatMap fun r => (bs.drop (16 * (n * r + k))).take 16

/-- The FAS of slice 0 at the head of a stream, and the MFAS behind it, descrambled (R278, R279). -/
def fasBits : List Bool := bitsOfBytes [0xF6#8, 0xF6#8, 0xF6#8, 0x28#8, 0x28#8, 0x28#8]
def mfasAt (l : List Bool) : Byte := BitVec.ofNat 8 (natOfBits ((l.drop 48).take 8)) ^^^ (scramMask 1 65535).headD 0#8

/-- Every bit offset of a frame period at which the FAS stands, lowest first (R279). -/
def fasHits : Nat → Nat → List Bool → List (Nat × Byte)
  | 0, _, _ => []
  | n + 1, i, l => (if l.take 48 = fasBits then [(i, mfasAt l)] else []) ++ fasHits n (i + 1) (l.drop 1)

/-- Bits that leave the stream; those that have not come yet are dropped as they come. -/
def dropBits (n : Nat) (x : OtnSt) : OtnSt := { x with rxBits := x.rxBits.drop n, rxSkip := x.rxSkip + (n - x.rxBits.length) }

/-- A frame period of the stream that a line receiver decodes: a frame, or the search for one; it takes part once all its bits are there (R279, R280). -/
def lineFrameRx (e : Fin 4) (s : State) : State :=
  let n := rxRate s e
  let x := otnOf s e
  if x.inFrame then
    if x.rxBits.length < frameBits n then s
    else otnFrame (.line e) (unround n (markedBytes (15296 * n) (x.rxBits.take (frameBits n)))) (onOtnE e (dropBits (frameBits n)) s)
  else if x.rxBits.length < frameBits n + 55 then s
  else
    let hits := fasHits (frameBits n) 0 (x.rxBits.map Prod.fst)
    let won := (huntCands hits x.fasCands).find? fun c => 3 ≤ c.hits && 2 ≤ c.adv
    onOtnE e (dropBits (frameBits n + (match won with | some c => c.off | none => 0))) (huntFrames (.line e) hits s)

/-- OTUC_FRAME_RX: of a line engine from the bits its decoder delivered, of a FlexO port as the instance brings it. -/
def otucFrameRx (id : OtnId) (fr : OtucFrame) (s : State) : State :=
  if !otnStream s id then s
  else match id with
  | .line e => lineFrameRx e s
  | .flexo p i => if (otnSt s (.flexo p i)).inFrame then otnFrame (.flexo p i) fr.slices s else huntFrames (.flexo p i) fr.hits s
def execOtucFrameRx (id : OtnId) (fr : OtucFrame) (s : State) : Host.Outcome State Fault Refusal := ok (otucFrameRx id fr s)

/-- 150 strokes have passed since a row of a stroke that ended `run` strokes ago (R280, R281). -/
def strokes150 (s : State) (run row : Nat) : Bool := decide (18750 + row ≤ 125 * run + s.stk.row)

/-- DLOF: OOF for 150 strokes. -/
def dlof (id : OtnId) (s : State) : State :=
  if otnEnabled s id && !(otnSt s id).inFrame && strokes150 s (otnSt s id).oofRun (otnSt s id).oofRow then idDefect id .lof true s else s
def execDlof (id : OtnId) (s : State) : Host.Outcome State Fault Refusal := ok (dlof id s)

/-- DLOM: OOM for 150 strokes. -/
def dlom (id : OtnId) (s : State) : State :=
  if otnEnabled s id && !(otnSt s id).inMf && strokes150 s (otnSt s id).oomRun (otnSt s id).oomRow then idDefect id .lom true s else s
def execDlom (id : OtnId) (s : State) : Host.Outcome State Fault Refusal := ok (dlom id s)

/-! ### Row blocks sent (R282, R283, R286) -/

/-- Position of billet b of an engine (R15). -/
def linePos (e b : Nat) : Nat := 2 * e * 16384 + b

/-- The cells of slice k of an engine in a row, billet by billet within the slice. -/
def sliceCells (e k : Nat) (t : List (Nat × Cell)) : List (Nat × Cell) :=
  (t.filter fun x => decide (linePos e (1000 * k) ≤ x.1) && decide (x.1 < linePos e (1000 * (k + 1)))).map fun x => (x.1 - linePos e (1000 * k), x.2)

/-- A row block (R282). -/
def rowBlock (stroke row : Nat) (cells : List (Nat × Cell)) : List Byte :=
  let h := bytesOfNat 2 (stroke % 65536) ++ bytesOfNat 1 row
  let marked := cells.filter fun c => c.2.s0 || c.2.s1
  let sl := (marked.take 37).map slagEntry
  h ++ [crc8 h] ++ bytesOfNat 2 (flag (decide (37 < marked.length)) * 32768 + sl.length)
    ++ (List.range 37).flatMap (fun i => bytesOfNat 2 (sl.getD i 0#16).toNat)
    ++ (List.range 1000).flatMap fun i => let c := tget {} cells i; [c.b0, c.b1]

/-- The row that ends enters the slices' queues while superframes are sent. -/
def lineTxRow (e : Nat) (s : State) : State :=
  if !txSending (txEng s e) then onOtnE e (fun x => { x with slices := x.slices.map fun y => (y.1, { y.2 with tx := [] }) }) s
  else (List.range (txRate s e)).foldl (fun s k =>
    onSlice (.line ⟨e % 4, Nat.mod_lt _ (by decide)⟩) k (fun y => { y with tx := y.tx ++ rowBlock (scnt s) s.stk.row (sliceCells e k s.rows.egress) }) s) s

/-- ODU_FORCE in effect: OCI in RAMP_DOWN (R290). -/
def oduForce (s : State) : OtnId → Nat
  | .line e => if (txEng s e).state = .rampDown then 2 else ohForce (otnOf s e)
  | .flexo p i => ohForce (instOf s p i)

/-- One frame of a slice, unscrambled (R287–R290). `c` and `pay`: C, and the OPUC payload. `bip`: the parity of the frame before the last. -/
def slicePlain (s : State) (id : OtnId) (k c : Nat) (pay : List Byte) (bip : Byte) : List Byte :=
  let x := otnSt s id
  let y := sliceOf x k
  let f := oduForce s id
  let tti := fun (l : Nat) => if k = 0 && otnFirst id then (bytesOfWords (let w := tget [] x.ttiTx l; (List.range 16).map fun i => w.getD i 0#32)).getD (x.txMfas.toNat % 64) 0#8 else 0#8
  let bei := if x.inFrame then y.smBei else 0
  let beiPm := if x.inFrame then y.pmBei else 0
  let smByte := (if x.defects.contains .iae then 11 else bei) * 16 + flag (smBdi s id) * 8
  let stat := if f = 0 then 1 else if f = 1 then 5 else if f = 2 then 6 else 7
  let pmByte := beiPm * 16 + flag (otnFail s id) * 8 + stat
  let cb := bytesOfNat 2 c
  let fill : Option Byte := if f = 1 then some 0x55#8 else if f = 2 then some 0x66#8 else if f = 3 then some 0xFF#8 else none
  let z := fun n => List.replicate n 0#8
  let r1 := [0xF6#8, 0xF6#8, 0xF6#8, 0x28#8, 0x28#8, 0x28#8, x.txMfas, tti 0, bip, BitVec.ofNat 8 smByte] ++ z 4
  let o1 := cb
  let r2 := z 14
  let o2 := [crc8 cb, 0#8]
  let r3 := z 9 ++ [tti 1, bip, BitVec.ofNat 8 pmByte] ++ z 2
  let r4 := z 14
  let o4 := [if x.txMfas = 0#8 then 1#8 else 0#8, crc8 cb]
  match fill with
  | none => r1 ++ o1 ++ pay.take 3808 ++ r2 ++ o2 ++ (pay.drop 3808).take 3808 ++ r3 ++ cb ++ (pay.drop 7616).take 3808 ++ r4 ++ o4 ++ (pay.drop 11424).take 3808
  | some b =>
    let a := fun n => List.replicate n b
    r1 ++ a 3810 ++ a 3824 ++ a 11 ++ [BitVec.ofNat 8 (b.toNat / 8 * 8 + stat)] ++ a 3812 ++ a 3824

/-- C of the next frame of a slice with Q bytes queued (R283). -/
def cOf (q : Nat) : Nat := min 15232 (q - 4160)

/-- Payload with C data bytes spread by the rule of R130, the rest 0x00. -/
def spread (c : Nat) : Nat → List Byte → Nat → List Byte
  | 0, _, _ => []
  | n + 1, q, j =>
    if isData c 15232 j then
      match q with
      | b :: r => b :: spread c n r (j + 1)
      | [] => 0#8 :: spread c n [] (j + 1)
    else 0#8 :: spread c n q (j + 1)

/-- One slice of the frame that is formed. The BIP-8 of the first two frames covers no frame; it is open (log entry 10). -/
def sendSlice (id : OtnId) (opu : List (List Byte)) (k : Nat) (s : State) : State × List Byte :=
  let y := sliceOf (otnSt s id) k
  let line := match id with | .line _ => true | .flexo _ _ => false
  let c := if line then cOf y.tx.length else 0
  let pay := if line then spread c 15232 (y.tx.take c) 0 else (List.range 15232).map fun j => (opu.getD k []).getD j 0#8
  let bip := if y.txPar.length = 2 then y.txPar.getD 0 0#8 else BitVec.ofNat 8 (freeNat s)
  let s' := if y.txPar.length = 2 then s else drawn s
  let f := slicePlain s id k c pay bip
  (onSlice id k (fun y => { y with tx := y.tx.drop c, txC := c, txPar := (y.txPar ++ [bip8 (opuBytes f)]).drop (y.txPar.length - 1), smBei := 0, pmBei := 0 }) s', scramble f)

def sendSlices (id : OtnId) (opu : List (List Byte)) : List Nat → State → State × List (List Byte)
  | [], s => (s, [])
  | k :: r, s =>
    let a := sendSlice id opu k s
    let q := sendSlices id opu r a.1
    (q.1, a.2 :: q.2)

/-- One frame of an OTUCn, slice by slice. -/
def sendFrame (id : OtnId) (opu : List (List Byte)) (n : Nat) (s : State) : State × List (List Byte) :=
  let r := sendSlices id opu (List.range n) s
  (onOtnId id (fun x => { x with txFrame := r.2, txMfas := x.txMfas + 1#8 }) r.1, r.2)

/-- OTUC_FRAME_TX. `opu`: the OPUC payloads of a FlexO interface, whose instances send together, as GMP fills its tributary slots; a line engine takes its row blocks, and forms a frame while
less than one waits for the line code (R270). -/
def otucFrameTx (id : OtnId) (opu : List (List Byte)) (s : State) : State :=
  match id with
  | .line e =>
    if enginePresent s e && txSending (txEng s e) && decide ((txEng s e).bits.length < 122368 * txRate s e) then
      let r := sendFrame (.line e) opu (txRate s e) s
      onTxEng e (fun x => { x with bits := x.bits ++ bitsOfBytes (otucStream r.2) }) r.1
    else s
  | .flexo p _ =>
    if cpEn (cliPort s p) && cpFlexo (cliPort s p) then
      (otnPeers s id).foldl (fun s i => (sendFrame i [opu.getD (otnInst i % 16) []] 1 s).1) s
    else s
def execOtucFrameTx (id : OtnId) (opu : List (List Byte)) (s : State) : Host.Outcome State Fault Refusal := ok (otucFrameTx id opu s)

/-! ### Row blocks received (R284–R286) -/

def rhecOk (b : List SByte) : Bool := decide (4 ≤ b.length) && crc8 (frBytes b 0 3) = frByte b 3
def rbRow (b : List SByte) : Nat := (125 * frNat b 0 2 + frNat b 2 1) % rowMod

/-- The billets of a row block with their slag marks (R286). -/
def rbCells (b : List SByte) : List (Nat × Cell) :=
  let cnt := frNat b 4 2 % 64
  let ovf := (frByte b 4).getLsbD 7
  let ents := (List.range cnt).map fun i => frNat b (6 + 2 * i) 2
  let listOk := decide (cnt ≤ 37) && decide (frNat b 4 2 / 64 % 512 = 0) && ents.all fun v => decide (v % 16384 < 1000)
  let all := !listOk || b.any Prod.snd
  let last := (ents.map (· % 16384)).foldl max 0
  (List.range 1000).map fun i =>
    let hit := (ents.filter fun v => v % 16384 = i)
    let more := ovf && decide (last < i)
    (i, { b0 := frByte b (80 + 2 * i), b1 := frByte b (81 + 2 * i)
          s0 := all || more || hit.any fun v => v.testBit 15
          s1 := all || more || hit.any fun v => v.testBit 14 })

/-- The first offset at which a correct header stands that `fits`. -/
def rbFind (fits : List SByte → Bool) : Nat → List SByte → Option Nat
  | _, [] => none
  | i, b :: r => if rhecOk (b :: r) && fits (b :: r) then some i else rbFind fits (i + 1) r

/-- The block at hand follows the last one but for the blocks that `lost` payloads, of at most 15,232 bytes each, can have taken part in (R284; DESIGN CHOICE, log entry 123). -/
def rbFollows (lost : Nat) (last : Option Nat) (b : List SByte) : Bool :=
  match last with
  | some l => let d := (rbRow b + rowMod - l) % rowMod; decide (1 ≤ d) && decide (d ≤ 1 + (if lost = 0 then 0 else (15232 * lost + 2079) / 2080 + 1))
  | none => true

/-- The offset A is fixed when the first slice comes into sync: block t, decoded in the row in progress, is there at the start of the next (R285). -/
def fixAlign (e row : Nat) (s : State) : State :=
  let x := otnOf s e
  if x.align.isSome then s
  else onOtnE e (fun x => { x with align := some ((localRow s + 1 + rowMod - row) % rowMod), latDraw := decide (baseMode s = .draw), released := none }) s

/-- A block in sync is queued. -/
def rbQueue (row : Nat) (b : List SByte) (y : SliceSt) : SliceSt :=
  { y with rx := y.rx.drop 2080, badRun := 0, last := some row, queue := y.queue ++ [(row, (rbCells b).filter fun c => c.2 ≠ {})] }

/-- ROW_BLOCK_RX: the next block of a slice's stream is hunted or checked (R284). -/
def rowBlockRx (e : Fin 4) (k : Nat) (s : State) : State :=
  let y := sliceOf (otnOf s e) k
  let set := fun (f : SliceSt → SliceSt) (s : State) => onSlice (.line e) k f s
  if !otnStream s (.line e) || !(otnOf s e).inFrame || decide (rxRate s e ≤ k) then s
  else if y.sync && y.resync = 0 then
    if y.rx.length < 2080 then s
    else
      let b := y.rx.take 2080
      let follows := rbFollows 0 y.last b
      if !rhecOk b then
        note evLinRbHecErr e 1 (set (fun y =>
          let y := { y with rx := y.rx.drop 2080, badRun := y.badRun + 1, last := y.last.map fun l => (l + 1) % rowMod }
          if 3 ≤ y.badRun then { y with sync := false, goodRun := 0, last := none, queue := [] } else y) s)
      else if !follows then set (fun y => { y with rx := y.rx.drop 2080, sync := false, goodRun := 1, badRun := 0, last := some (rbRow b), queue := [] }) s
      else set (rbQueue (rbRow b) b) s
  else if y.goodRun = 0 || y.resync ≠ 0 then
    match rbFind (fun b => !y.sync || rbFollows y.resync y.last b) 0 y.rx with
    | none => set (fun y => { y with rx := y.rx.drop (y.rx.length - 3) }) s
    | some i =>
      let b := (y.rx.drop i).take 2080
      if b.length < 2080 then set (fun y => { y with rx := y.rx.drop i }) s
      else if y.sync then set (fun y => { rbQueue (rbRow b) b { y with rx := y.rx.drop i } with resync := 0 }) s
      else set (fun y => { y with rx := y.rx.drop (i + 2080), goodRun := 1, last := some (rbRow b), resync := 0 }) s
  else if y.rx.length < 2080 then s
  else
    let b := y.rx.take 2080
    let follows := rbFollows 0 y.last b
    if !rhecOk b then note evLinRbHecErr e 1 (set (fun y => { y with rx := y.rx.drop 1, goodRun := 0, last := none }) s)
    else if !follows then set (fun y => { y with rx := y.rx.drop 2080, goodRun := 1, last := some (rbRow b) }) s
    else if 2 ≤ y.goodRun then fixAlign e (rbRow b) (set (fun y => { rbQueue (rbRow b) b y with sync := true, goodRun := 0 }) s)
    else set (fun y => { y with rx := y.rx.drop 2080, goodRun := y.goodRun + 1, last := some (rbRow b) }) s
def execRowBlockRx (e : Fin 4) (slice : Nat) (s : State) : Host.Outcome State Fault Refusal := ok (rowBlockRx e slice s)

/-! ### Ingress of a line engine, row by row (R285, R286, R292) -/

/-- dRBL and aSSF of the slices, as the row begins (R292). -/
def lineSsf (id : OtnId) (s : State) : State :=
  let fail := otnFail s id
  let en := otnEnabled s id
  let n := otnSlices s id
  let line := match id with | .line _ => true | .flexo _ _ => false
  (List.range 24).foldl (fun s k =>
    let y := sliceOf (otnSt s id) k
    let rbl := line && en && decide (k < n) && !y.sync
    let ssf := en && decide (k < n) && (fail || rbl)
    if y.dRbl = rbl && y.ssf = ssf then s
    else
      let s := match id with | .line e => noteChange evLinDRbl e y.dRbl rbl s | .flexo _ _ => s
      onSlice id k (fun y => { y with dRbl := rbl, ssf := ssf }) s) s

/-- Near-end defect seconds of the layers (R294). -/
def otnPmRow (id : OtnId) (s : State) : State :=
  let x := otnSt s id
  let any := x.slices.any fun y => y.2.ssf
  let sm := any || x.defects.contains .iae
  let pm := any || x.defects.contains .ais || x.defects.contains .oci || x.defects.contains .lck
  let l := otnLayers id
  let s := if sm then pmDefect l.1 (otnInst id) false s else s
  if pm then pmDefect l.2 (otnInst id) false s else s

/-- Both windows of an engine present a fill. -/
def lineFill (e : Nat) (f : Fill) (s : State) : State := s.onRows fun v => { v with winFill := v.winFill ++ [(2 * e, f), (2 * e + 1, f)] }

/-- Row block `due` of the slice has been decoded. -/
def rbHas (y : SliceSt) (due : Nat) : Bool := y.queue.any fun q => q.1 = due

/-- A later row block of the slice has been decoded: block `due` is missing. -/
def rbPast (y : SliceSt) (due : Nat) : Bool :=
  match y.last with
  | some l => decide ((l + rowMod - due) % rowMod < rowMod / 2)
  | none => false

/-- The cells that a slice releases for row `due`. -/
def sliceRelease (y : SliceSt) (due : Nat) : List (Nat × Cell) :=
  if y.ssf then (List.range 1000).map fun i => (i, Fill.cell .ais)
  else match y.queue.find? fun q => q.1 = due with
    | some q => q.2
    | none => (List.range 1000).map fun i => (i, Fill.cell .slag)

/-- A fifth waiting row: the oldest is discarded in every slice and A decreases by 1 (R285). -/
def alignOverflow (e : Nat) (s : State) : State :=
  let x := otnOf s e
  if x.slices.any fun y => decide (5 ≤ y.2.queue.length) then
    let due := (localRow s + 1 + rowMod - x.align.getD 0) % rowMod
    note evLinLineSlip e 1 (onOtnE e (fun x => { x with
      align := x.align.map fun a => (a + rowMod - 1) % rowMod
      slices := x.slices.map fun y => (y.1, { y.2 with queue := y.2.queue.filter fun q => q.1 ≠ due }) }) s)
  else s

/-- Rows released already and those before them leave the aligner. -/
def rbDrop (due : Nat) (y : SliceSt) : SliceSt := { y with queue := y.queue.filter fun q => decide (q.1 ≠ due ∧ (q.1 + rowMod - due) % rowMod < rowMod / 2) }

/-- The ingress of an engine in this row. A slice whose row block is not complete carries the slag-marked fill in its own positions and A increases by 1; the slices that
released the block carry that fill in the next row, in which the block is due again (R285; log entry 37). -/
def lineIngress (e : Nat) (s : State) : State :=
  let x := otnOf s e
  let n := rxRate s e
  if !otnStream s (.line ⟨e % 4, Nat.mod_lt _ (by decide)⟩) then lineFill e .ais s
  else if 0 < x.gapRows then lineFill e .slag (onOtnE e (fun x => { x with gapRows := x.gapRows - 1 }) s)
  else match x.align with
    | none => lineFill e .ais s
    | some a =>
      let due := (localRow s + rowMod - a) % rowMod
      let insync := (List.range n).filter fun k => (sliceOf x k).sync
      let late := insync.any fun k => !rbHas (sliceOf x k) due && !rbPast (sliceOf x k) due
      let s := if late then note evLinLineSlip e 1 (onOtnE e (fun x => { x with align := some ((a + 1) % rowMod) }) s) else s
      if (List.range n).all fun k => !rbHas (sliceOf x k) due && !(sliceOf x k).ssf then lineFill e .slag s
      else
        let s := if (List.range n).all fun k => (sliceOf x k).ssf then lineFill e .ais s
          else putIngress ((List.range n).flatMap fun k => (sliceRelease (sliceOf x k) due).map fun c => (linePos e (1000 * k + c.1), c.2)) s
        alignOverflow e (onOtnE e (fun x => { x with released := some due, slices := x.slices.map fun y => (y.1, rbDrop due y.2) }) s)

/-- LINE_REALIGN at row 0: A is refixed under the class of the mode in force (R285). -/
def realign (e : Nat) (s : State) : State :=
  let x := otnOf s e
  match x.align with
  | none => s
  | some old =>
    let draw := decide (baseMode s = .draw)
    let ages := ((List.range (rxRate s e)).filter fun k => (sliceOf x k).sync).map fun k => (localRow s + rowMod - ((sliceOf x k).last).getD 0) % rowMod
    let least : Int := (ages.foldl max 0 : Nat) + (if draw then 12 else 40) - (if x.latDraw then 12 else 40)
    let new := (least % rowMod).toNat
    let k : Int := (((new : Int) - old + 4096000) % 8192000) - 4096000
    note evLinLineSlip e 1 (onOtnE e (fun x => { x with align := some new, latDraw := draw, lastRealign := k, gapRows := k.toNat }) s)

/-! ### The stroke and the second of a line (R276, R280, R281, R293) -/

def framesStroke (id : OtnId) (s : State) : State :=
  onOtnId id (fun x => { x with
    oofRun := if otnEnabled s id && !x.inFrame then x.oofRun + 1 else 0
    ifRun := if x.inFrame then x.ifRun + 1 else 0
    oomRun := if otnEnabled s id && !x.inMf then x.oomRun + 1 else 0
    imRun := if x.inMf then x.imRun + 1 else 0 }) s

/-- dLOF and dLOM clear when the receiver has been in frame, and in multiframe, for 150 strokes (R280, R281). -/
def framesRow (id : OtnId) (s : State) : State :=
  let x := otnSt s id
  let s := if x.defects.contains .lof && x.inFrame && strokes150 s x.ifRun x.ifRow then idDefect id .lof false s else s
  if x.defects.contains .lom && x.inMf && strokes150 s x.imRun x.imRow then idDefect id .lom false s else s

/-- Sums over the last 50 strokes. -/
def fecSum (l : List FecStroke) : FecStroke :=
  l.foldl (fun a b => { cw := a.cw + b.cw, good := a.good + b.good, diff := a.diff + b.diff, uncorr := a.uncorr + b.uncorr, iterMax := max a.iterMax b.iterMax, iterSum := a.iterSum + b.iterSum }) {}

/-- PRE_FEC_BER in 10⁻⁹, and whether it is above FEC_SD_THR. Without a correctable codeword the ratio is open (log entry 10). -/
def preFecOf (free : Nat) (thr : Nat) (f : FecStroke) : W32 × Bool :=
  if f.good = 0 then (BitVec.ofNat 32 free, decide (thr * 10000 < free % 2 ^ 32))
  else (BitVec.ofNat 32 (fracShow (f.diff * 1000000000, f.good * 35280)), decide (thr * (f.good * 35280) < f.diff * 100000))

/-- The update of row 0, of an enabled receiver or not; a disabled one declares no defect (R276). -/
def fecStroke (e : Nat) (s : State) : State :=
  let x := otnOf s e
  let l := (x.fecNow :: x.fec50).take 50
  let f := fecSum l
  let r := preFecOf (freeNat s) (ohFecThr x) f
  let s := onOtnE e (fun x => { x with fec50 := l, fecNow := {}, cwRun := if x.cwLock then x.cwRun + 1 else 0, preFec := r.1 }) (if f.good = 0 then drawn s else s)
  if otnEnabled s (.line ⟨e % 4, Nat.mod_lt _ (by decide)⟩) then otnDefect e .fecSd evLinDFecSd r.2 s else s

/-- dDEG of a layer at the end of a second (R293). -/
def degSecond (id : OtnId) (pm : Bool) (s : State) : State :=
  let x := otnSt s id
  let run := if pm then x.pmDeg else x.smDeg
  let bad := decide (ohDegThr x pm < if pm then x.pmErr else x.smErr)
  let new := if bad then (run.1 + 1, 0) else (0, run.2 + 1)
  let was := x.defects.contains (if pm then .degPm else .degSm)
  let now := if was then decide (new.2 < ohDegM x pm) else decide (ohDegM x pm ≤ new.1)
  idDefect id (if pm then .degPm else .degSm) now (onOtnId id (fun x => if pm then { x with pmErr := 0, pmDeg := new } else { x with smErr := 0, smDeg := new }) s)

/-- The OTUCn terminations there are. -/
def otnIds (s : State) : List OtnId :=
  ((List.finRange 4).filter fun (e : Fin 4) => enginePresent s e).map OtnId.line
    ++ ((List.finRange 48).filter fun (p : Fin 48) => cpEn (cliPort s p) && cpFlexo (cliPort s p)).flatMap (fun p => otnPeers s (.flexo p 0))

def eachOtn (f : OtnId → State → State) : List OtnId → State → State
  | [], s => s
  | i :: r, s => eachOtn f r (f i s)

/-- SES value of the line and FlexO entities: 15% of the frames that ended in the second (R294). -/
def otnSes (s : State) (n i : Nat) : Nat :=
  let f := if n ≤ 3 then (otnOf s i).frames else (instOf s (i / 16) (i % 16)).frames
  max 1 (ceilDiv (15 * f) 100)

/-- The stroke that ends, and the second that ends with it. The frame counts of the second stay until `otnSecondDone`. -/
def otnStroke (second : Bool) (s : State) : State :=
  let s := eachOtn framesStroke (otnIds s) s
  let s := (List.range (engines s)).foldl (fun s e => fecStroke e s) s
  if second then eachOtn (fun id s => degSecond id false (degSecond id true s)) (otnIds s) s else s
def otnSecondDone (s : State) : State := eachOtn (fun id s => onOtnId id (fun x => { x with frames := 0 }) s) (otnIds s) s

/-! ### Commands (R295) -/

def lineUnit (rq : Req) (s : State) : List Check := [engUnit rq s]

/-- LINE_OH_CFG. -/
def doLineOhCfg (rq : Req) (s : State) : State :=
  let deg := fun (w : W32) => decide (1 ≤ fld w 31 12 ∧ fld w 31 12 ≤ 860000) && decide (2 ≤ fld w 11 8 ∧ fld w 11 8 ≤ 10)
  command opLineOhCfg rq
    { unit := lineUnit rq s,
      par := engPar 5 rq ++ [onlyBits 1 0xFF800000#32 rq, onlyBits 2 0xFFFFFF00#32 rq, wordOk 2 (deg (rq.p 2)), onlyBits 3 0xFFFFFF00#32 rq, wordOk 3 (deg (rq.p 3)),
        onlyBits 4 0xFFFF0000#32 rq, wordOk 4 (decide (1 ≤ fld (rq.p 4) 31 16 ∧ fld (rq.p 4) 31 16 ≤ 5000))] } s (commitOnly opLineOhCfg rq)
def execLineOhCfg (rq : Req) (s : State) : Host.Outcome State Fault Refusal := ok (doLineOhCfg rq s)
def applyLineOhCfg (k : Commit) (s : State) : State := onOtnE (engObj (k.p 0)) (fun x => { x with oh := engParams k 4 }) s

/-- LINE_OH_READ. -/
def doLineOhRead (rq : Req) (s : State) : State :=
  command opLineOhRead rq { unit := lineUnit rq s, par := engPar 1 rq } s fun s => .done s (otnOf s (engObj (rq.p 0))).oh
def execLineOhRead (rq : Req) (s : State) : Host.Outcome State Fault Refusal := ok (doLineOhRead rq s)

def ttiWords (t : List (Nat × List W32)) (l : Nat) : List W32 := (List.range 16).map fun i => (tget [] t l).getD i 0#32

/-- LINE_TTI_WRITE. -/
def doLineTtiWrite (rq : Req) (s : State) : State :=
  command opLineTtiWrite rq { unit := lineUnit rq s, par := [countIs 17 rq, onlyBits 0 0x00000303#32 rq] } s (commitOnly opLineTtiWrite rq)
def execLineTtiWrite (rq : Req) (s : State) : Host.Outcome State Fault Refusal := ok (doLineTtiWrite rq s)
def applyLineTtiWrite (k : Commit) (s : State) : State :=
  let l := flag (bit (k.p 0) 8)
  let zero := List.replicate 16 0#32
  let w := if engParams k 16 = zero then [] else engParams k 16
  onOtnE (engObj (k.p 0)) (fun x => if bit (k.p 0) 9 then { x with ttiExp := tset [] x.ttiExp l w } else { x with ttiTx := tset [] x.ttiTx l w }) s

/-- LINE_TTI_READ. -/
def doLineTtiRead (rq : Req) (s : State) : State :=
  let l := flag (bit (rq.p 0) 8)
  command opLineTtiRead rq { unit := lineUnit rq s, par := [countIs 1 rq, onlyBits 0 0x00000103#32 rq] } s
    fun s => let x := otnOf s (engObj (rq.p 0)); .done s (ttiWords x.ttiAcc l ++ ttiWords x.ttiTx l ++ ttiWords x.ttiExp l)
def execLineTtiRead (rq : Req) (s : State) : Host.Outcome State Fault Refusal := ok (doLineTtiRead rq s)

/-- LINE_OTN_STATUS words 0–4. No n is in force while the receiver is off. -/
def lineOtnWords (s : State) (e : Nat) : List W32 :=
  let x := otnOf s e
  [word [(flag x.cwLock, 31), (flag x.inFrame, 30), (flag x.inMf, 29), (flag x.latDraw, 28), ((if (rxEng s e).state = .off then 0 else rxRate s e), 23), (x.align.getD 0, 0)],
   word [(((List.range 16).foldl (fun a i => a + flag (match LineDefect.all[i]? with | some d => x.defects.contains d | none => false) * 2 ^ (31 - i)) 0) / 2 ^ 16, 16), (x.pt.toNat, 8)],
   word [(bitsOf ((List.range 24).filter fun k => (sliceOf x k).dRbl), 0)],
   word [(bitsOf ((List.range 24).filter fun k => (sliceOf x k).ssf), 0)],
   word [(unsigned 24 x.lastRealign, 0)]]

/-- LINE_OTN_STATUS_READ. -/
def doLineOtnStatusRead (rq : Req) (s : State) : State :=
  command opLineOtnStatusRead rq { unit := lineUnit rq s, par := engPar 1 rq } s fun s => .done s (lineOtnWords s (engObj (rq.p 0)))
def execLineOtnStatusRead (rq : Req) (s : State) : Host.Outcome State Fault Refusal := ok (doLineOtnStatusRead rq s)

/-- LINE_FEC_STATUS words 0–3. The mean over no codeword of an enabled receiver is open (log entry 10). -/
def lineFecWords (s : State) (e : Nat) : List W32 :=
  let x := otnOf s e
  let f := fecSum x.fec50
  [x.preFec,
   word [(iterLimit s e, 24), (min 255 f.iterMax, 16), (if f.cw = 0 then (if (rxEng s e).state = .off then 0 else freeNat s % 65536) else fracShow (f.iterSum * 100, f.cw), 0)],
   BitVec.ofNat 32 f.uncorr,
   word [(flag (decide (51 ≤ x.cwRun)), 31)]]

/-- LINE_FEC_STATUS_READ. -/
def doLineFecStatusRead (rq : Req) (s : State) : State :=
  command opLineFecStatusRead rq { unit := lineUnit rq s, par := engPar 1 rq } s fun s => .done (drawn s) (lineFecWords s (engObj (rq.p 0)))
def execLineFecStatusRead (rq : Req) (s : State) : Host.Outcome State Fault Refusal := ok (doLineFecStatusRead rq s)

/-- LINE_REALIGN. -/
def doLineRealign (rq : Req) (s : State) : State :=
  command opLineRealign rq
    { unit := lineUnit rq s, par := engPar 1 rq, late := [need (otnOf s (engObj (rq.p 0))).inFrame { st := .busy, detail := 2 }] } s (commitOnly opLineRealign rq)
def execLineRealign (rq : Req) (s : State) : Host.Outcome State Fault Refusal := ok (doLineRealign rq s)
def applyLineRealign (k : Commit) (s : State) : State := realign (engObj (k.p 0)) s

end Sys2Proof.Machine
end

