-- ==== Sys2Proof/Machine/Security.lean ====
section
/-! DEFINITION. Security contexts over strokes, their commands, and the key engine (12_container_security R351–R371). -/

namespace Sys2Proof.Machine

def secObj (w : W32) : Nat := fld w 9 0
def secParams (c : Commit) : List W32 := (List.range 4).map fun i => c.p (1 + i)
def secUnit (s : State) : List Check := [need s.fused.secPresent { st := .unitAbsent }]

/-- A KEY_SWITCH of the context is pending. -/
def switchPending (s : State) (k : Nat) : Bool := (waiting opKeySwitch s).any fun c => secObj (c.p 0) = k

/-! ### SEC_CFG (R351, R352) -/

/-- Another context whose BIND is 1, in force or pending, names the container. -/
def boundByOther (s : State) (k c : Nat) : Bool :=
  (secIds s).any fun j => j ≠ k && (secViews s j).any fun w => ctxBind w && ctxCont w = c

/-- The container, as last written, may be bound. -/
def bindable (s : State) (c : Nat) : Bool :=
  let e := contLast s c
  decide (e.home ≠ 3) && decide (24 ≤ e.n) && decide (minBillets s c e 48 ≤ e.n)

/-- SEC_CFG. -/
def doSecCfg (rq : Req) (s : State) : State :=
  let k := secObj (rq.p 0)
  let w := [rq.p 1, rq.p 2, rq.p 3, rq.p 4]
  let old := secCfg s k
  command opSecCfg rq
    { unit := secUnit s,
      par := [countIs 5 rq, onlyBits 0 0x000003FF#32 rq, onlyBits 1 0xE03FFFFF#32 rq, wordOk 1 (decide (ctxFailLimit w ≠ 0)),
        wordOk 1 (!ctxBind w || (!boundByOther s k (ctxCont w) && bindable s (ctxCont w))),
        wordOk 1 (!(ctxBind old && !ctxBind w && (ctxEnable old || ctxEnable w))), wordOk 1 (!(ctxBind old && decide (ctxCont old ≠ ctxCont w))),
        wordOk 3 (!(ctxBind w && rq.p 2 = rq.p 3)), onlyBits 4 0x00003FFF#32 rq] } s (commitOnly opSecCfg rq)
def execSecCfg (rq : Req) (s : State) : Host.Outcome State Fault Refusal := ok (doSecCfg rq s)

/-- Key loss clears (R364). -/
def clearLoss (k : Nat) (s : State) : State :=
  if (ctxOf s k).keyLoss then noteClear evSecSecKeyLoss k (onCtx k (fun y => { y with keyLoss := false, failRun := 0 }) s) else s

/-- dSECLCK and dSECMM of a context end with its binding (DEDUCED, log entry 39). -/
def unbindDefects (k : Nat) (s : State) : State :=
  let y := ctxOf s k
  noteChange evSecDSeclck k y.secLck false (noteChange evSecDSecmm k y.secMm false (onCtx k (fun y => { y with secLck := false, secLckOk := 0, secMm := false }) s))

/-- SEC_CFG at its row 0. -/
def applySecCfg (c : Commit) (s : State) : State :=
  let k := secObj (c.p 0)
  let w := secParams c
  let old := secCfg s k
  let s := cleanWords 5 (4 * k) 4 s
  let s := s.onSec fun v => { v with cfg := tset secDefault v.cfg k w, gold := tset secDefault v.gold k w }
  let s := if !ctxBind w || (ctxEnable w && !ctxEnable old) then clearLoss k s else s
  if ctxBind w then reportSecMm k s else if ctxBind old then unbindDefects k s else s

/-- SEC_READ. -/
def doSecRead (rq : Req) (s : State) : State :=
  command opSecRead rq { unit := secUnit s, par := [countIs 1 rq, onlyBits 0 0x000003FF#32 rq] } s
    fun s => readAnswer 5 (4 * secObj (rq.p 0)) (secCfg s (secObj (rq.p 0))) [] s
def execSecRead (rq : Req) (s : State) : Host.Outcome State Fault Refusal := ok (doSecRead rq s)

def CtxState.code : CtxState → Nat
  | .off => 0 | .keyLoss => 1 | .locked => 2 | .noKey => 3 | .ivHold => 4 | .run => 5

/-- SEC_STATUS words 0–2. -/
def secStatusWords (s : State) (k : Nat) : List W32 :=
  let w := secCfg s k
  let y := ctxOf s k
  [word [(flag (ctxEnable w), 31), (flag (ctxBind w), 30), (y.cur, 29), (y.state.code, 26), (flag y.key0.isSome, 25), (flag y.key1.isSome, 24),
      (flag (switchPending s k), 23), (flag y.secLck, 22), (flag y.secMm, 21), (y.failRun, 0)],
   word [(hi16 y.lastFail, 0)], BitVec.ofNat 32 (lo32 y.lastFail)]

/-- SEC_STATUS_READ. -/
def doSecStatusRead (rq : Req) (s : State) : State :=
  command opSecStatusRead rq { unit := secUnit s, par := [countIs 1 rq, onlyBits 0 0x000003FF#32 rq] } s fun s => .done s (secStatusWords s (secObj (rq.p 0)))
def execSecStatusRead (rq : Req) (s : State) : Host.Outcome State Fault Refusal := ok (doSecStatusRead rq s)

/-! ### Keys (R357, R358) and KEY_LOCK (R367, R369) -/

/-- The sink checked or released a unit under slot n in the current or the previous stroke. -/
def slotBusy (s : State) (k n : Nat) : Bool :=
  let u := tget 0 (ctxOf s k).usedAt n
  u ≠ 0 && decide (s.stk.run ≤ u)

/-- The BUSY conditions of KEY_LOAD and KEY_CLEAR. -/
def keySlotFree (s : State) (k : Nat) : Check := need (!switchPending s k && !slotBusy s k (1 - (ctxOf s k).cur)) { st := .busy, detail := 2 }

def putSlot (k n : Nat) (key : Option (BitVec 256)) (s : State) : State :=
  onCtx k (fun y =>
    let y := if n = 0 then { y with key0 := key } else { y with key1 := key }
    { y with lastTx := tset 0#48 y.lastTx n 0#48, highRx := tset 0#48 y.highRx n 0#48, txUsed := del y.txUsed n, rxUsed := del y.rxUsed n }) s

def tkOf (s : State) (n : Nat) : Option (BitVec 256) := (s.keys.tk.find? fun x => x.1 = n).map Prod.snd

/-- The key that words 2–11 carry under the wrapping key. -/
def unwrapWords (rq : Req) (wrap : Option (BitVec 256)) : Except Rej (BitVec 256) :=
  match wrap with
  | none => .error { st := .badParam, detail := 0x8005 }
  | some k =>
    match keyUnwrap k ((List.range 10).map fun i => rq.p (2 + i)) with
    | none => .error { st := .badParam, detail := 0x8006 }
    | some key => .ok key

/-- The sequence of KEY_LOAD. -/
def keyLoadAct (rq : Req) (s : State) : Except Rej State :=
  let k := secObj (rq.p 0)
  match keySlotFree s k with
  | some r => .error r
  | none =>
    match unwrapWords rq (tkOf s (fld (rq.p 1) 1 0)) with
    | .error r => .error r
    | .ok key => .ok (putSlot k (1 - (ctxOf s k).cur) (some key) s)

/-- The sequence of KEY_CLEAR. -/
def keyClearAct (rq : Req) (s : State) : Except Rej State :=
  let k := secObj (rq.p 0)
  match keySlotFree s k with
  | some r => .error r
  | none => .ok (onCtx k (fun y => if y.cur = 0 then { y with key1 := none } else { y with key0 := none }) s)

/-- The key service takes KEY_LOCK for the sequence of a command (R367). -/
def keyServiceTake (d : Deferred) (s : State) : State := s.onSec fun v => { v with owner := 7, held := 0, seq := some d }

/-- KEY_LOCK is released. -/
def keyRelease (s : State) : State := s.onSec fun v => { v with owner := 0, held := 0, seq := none }

/-- A command joins those that wait for KEY_LOCK (R369). -/
def keyWaits (d : Deferred) (s : State) : State := s.onSec fun v => { v with wait := v.wait ++ [{ cmd := d, since := s.stk.run }] }

/-- A command whose sequence needs KEY_LOCK: INTERNAL once the key engine has failed (R370); it waits while KEY_LOCK is held, else it takes it. -/
def withKeyLock (o : OpInfo) (rq : Req) (s : State) : Answer :=
  if s.sec.keFailed then internalAnswer o s
  else if s.sec.owner ≠ 0 then .wait (keyWaits (deferred o rq s) s)
  else .wait (keyServiceTake (deferred o rq s) s)

/-- KEY_LOAD. -/
def doKeyLoad (rq : Req) (s : State) : State :=
  command opKeyLoad rq
    { unit := secUnit s, par := [countIs 12 rq, onlyBits 0 0x000003FF#32 rq, onlyBits 1 0x00000003#32 rq], late := [keySlotFree s (secObj (rq.p 0))] } s
    (withKeyLock opKeyLoad rq)
def execKeyLoad (rq : Req) (s : State) : Host.Outcome State Fault Refusal := ok (doKeyLoad rq s)

/-- KEY_CLEAR. -/
def doKeyClear (rq : Req) (s : State) : State :=
  command opKeyClear rq
    { unit := secUnit s, par := [countIs 1 rq, onlyBits 0 0x000003FF#32 rq], late := [keySlotFree s (secObj (rq.p 0))] } s
    (withKeyLock opKeyClear rq)
def execKeyClear (rq : Req) (s : State) : Host.Outcome State Fault Refusal := ok (doKeyClear rq s)

/-- KEY_SWITCH. -/
def doKeySwitch (rq : Req) (s : State) : State :=
  let k := secObj (rq.p 0)
  command opKeySwitch rq
    { unit := secUnit s, par := [countIs 1 rq, onlyBits 0 0x000003FF#32 rq, causeOk 0x8007 (slotKey (ctxOf s k) (1 - (ctxOf s k).cur)).isSome],
      late := [need (!switchPending s k) { st := .busy, detail := 2 }] } s (commitOnly opKeySwitch rq)
def execKeySwitch (rq : Req) (s : State) : Host.Outcome State Fault Refusal := ok (doKeySwitch rq s)

/-- KEY_SWITCH at its row 0: a key loss due at the same row 0 is not declared (R358, R364). -/
def applyKeySwitch (c : Commit) (s : State) : State :=
  let k := secObj (c.p 0)
  let s := onCtx k (fun y => { y with cur := 1 - y.cur, failRun := if y.lossDue then 0 else y.failRun, lossDue := false }) s
  clearLoss k s

/-- SEC_CLEAR_LOSS. -/
def doSecClearLoss (rq : Req) (s : State) : State :=
  command opSecClearLoss rq { unit := secUnit s, par := [countIs 1 rq, onlyBits 0 0x000003FF#32 rq] } s (commitOnly opSecClearLoss rq)
def execSecClearLoss (rq : Req) (s : State) : Host.Outcome State Fault Refusal := ok (doSecClearLoss rq s)
def applySecClearLoss (c : Commit) (s : State) : State := clearLoss (secObj (c.p 0)) s

/-! ### Contexts at row 0 (R354, R356, R364) -/

/-- A frame of a sink that enters LOCKED or KEY_LOSS: its rows in the release delay leave as 0x00 with the slag mark, its later rows as LOCK fill (R356). -/
def sealBody (b : BodyRx) : BodyRx :=
  { b with marks := b.marks ++ (List.range (b.got - b.rel)).map (b.rel + ·), locked := true, due := false }

/-- The sink enters LOCKED or KEY_LOSS; the unit that waits for its tag goes with the rows (DEDUCED, log entry 40). -/
def sealSink (c : Nat) (s : State) : State := onBody c sealBody s

/-- The sink leaves LOCKED and KEY_LOSS: the rows of a frame that was received as plaintext are delivered as received (R354). -/
def openSink (c : Nat) (s : State) : State := onBody c (fun b => if b.plain then { b with locked := false } else b) s

/-- Contexts that have a configuration or a state beyond the reset one. -/
def ctxIds (s : State) : List Nat := (s.sec.cfg.map Prod.fst ++ s.sec.ctx.map Prod.fst).dedup

/-- A context at row 0: key loss, its state, and dSECLCK. -/
def ctxRow0 (k : Nat) (s : State) : State :=
  let w := secCfg s k
  let y := ctxOf s k
  let loss := ctxBind w && !y.keyLoss && (y.lossDue || (s.sec.keFailed && ctxEnable w))
  let s := if loss then note evSecSecKeyLoss k 1 (onCtx k (fun y => { y with keyLoss := true }) s) else s
  let st := ctxEval s k
  let s := if sealedState st && !sealedState y.state then sealSink (ctxCont w) s else if !sealedState st && sealedState y.state then openSink (ctxCont w) s else s
  let s := onCtx k (fun z => { z with state := st, lossDue := false }) s
  let s := if st = .ivHold then note evSecSecIvHold k 1 s else s
  if sealedState st then noteChange evSecDSeclck k (ctxOf s k).secLck true (onCtx k (fun y => { y with secLck := true, secLckOk := 0 }) s) else s

def eachCtx : List Nat → State → State
  | [], s => s
  | k :: r, s => eachCtx r (ctxRow0 k s)
def contextsRow0 (s : State) : State := eachCtx (ctxIds s) s

/-- Reset and QUENCH zeroise both slots of every context (R360). -/
def zeroiseContexts (s : State) : State := s.onSec fun v => { v with ctx := v.ctx.map fun x => (x.1, { x.2 with key0 := none, key1 := none }) }

/-! ### The entropy source and the DRBG (R370) -/

/-- The key engine over the stroke that ends, in which the DRBG served `n` requests (R370; log entry 121). -/
def keyStroke (n : Nat) (s : State) : State :=
  s.onSec fun v => { v with
    held := if v.owner = 0 then 0 else v.held + 1, reseedAge := satAdd (2 ^ 32 - 1) v.reseedAge 1, gens := if v.drbg.seeded then v.gens + n else 0 }

/-- A reseed is due: before the first seed, after 50,000 strokes or after 65,536 requests. -/
def reseedDue (s : State) : Bool := !s.sec.drbg.seeded || decide (50000 ≤ s.sec.reseedAge) || decide (65536 ≤ s.sec.gens)

/-- The DRBG after the requests that it has served since its last reseed, each for one block (DESIGN CHOICE, log entry 121). -/
def drbgNow (s : State) : BitVec 256 × BitVec 128 := drbgRun s.sec.gens (s.sec.drbg.key, s.sec.drbg.v)

/-- DRBG_RESEED; none succeeds while the source is in its start-up test or has failed. -/
def execDrbgReseed (r : Reseed) (s : State) : Host.Outcome State Fault Refusal :=
  ok (if r.ok && s.sec.entUp && !s.sec.entFail && !s.sec.keFailed && reseedDue s then
    let n := drbgReseed r.entropy (drbgNow s).1 (drbgNow s).2
    s.onSec fun v => { v with reseedAge := 0, gens := 0, drbg := { key := n.1, v := n.2, seeded := true } }
  else s)

/-- ENT_FAIL: the source begins its start-up test anew. -/
def execEntFail (s : State) : Host.Outcome State Fault Refusal :=
  ok (noteChange evKeEntFail 0 s.sec.entFail true (s.onSec fun v => { v with entFail := true, entUp := false }))

/-- ENTROPY_RESTART_PASS: the start-up test of 1,024 samples has passed, the first one in KINDLE too. -/
def execEntropyRestartPass (s : State) : Host.Outcome State Fault Refusal :=
  ok (noteChange evKeEntFail 0 s.sec.entFail false (s.onSec fun v => { v with entFail := false, entUp := true }))

/-- KE_STATUS words 0–2. -/
def keStatusWords (s : State) : List W32 :=
  [word [(s.sec.owner, 28), (flag s.sec.entFail, 27), (flag s.sec.keFailed, 26)], BitVec.ofNat 32 s.sec.held, BitVec.ofNat 32 s.sec.reseedAge]

/-- KE_STATUS_READ. -/
def doKeStatusRead (rq : Req) (s : State) : State :=
  command opKeStatusRead rq { par := [countIs 0 rq] } s fun s => .done s (keStatusWords s)
def execKeStatusRead (rq : Req) (s : State) : Host.Outcome State Fault Refusal := ok (doKeStatusRead rq s)

end Sys2Proof.Machine
end

