-- ==== Sys2Proof/Machine/Modes.lean ====
section
/-! DEFINITION. Modes, QUENCH, severe faults, retired resources and management cores (14_modes_boot_and_trust R394–R405). -/

namespace Sys2Proof.Machine

/-! ### QUENCH (R27, R39, R400) -/

/-- Every waiting write is discarded and counted (R39). -/
def discardCommits (s : State) : State := note evStkCommitDiscard 0 s.commits.length (s.onCommits fun _ => [])

def lowerEnable (w : List W32) : List W32 := setAt w 0 (w.getD 0 0#32 &&& 0x7FFFFFFF#32)

/-- Transmitters and receivers: ENABLE 0, DARK without a ramp, OFF (R227). -/
def linesQuench (s : State) : State :=
  (List.range 4).foldl (fun s e =>
    let s := onTxEng e (fun x => { x with cfg := lowerEnable x.cfg, state := .dark, wait := 0, sent := [], past := [], calLen := 0 }) s
    if lcEn (rxEng s e).cfg then rxOff e (onRxEng e (fun x => { x with cfg := lowerEnable x.cfg }) s) else s) s

/-- Client ports: ENABLE 0, electrical idle at once. -/
def clientsQuench (s : State) : State :=
  clientLanesIdle ((s.cli.portCfg.filter fun x => cpEn x.2).foldl (fun s x =>
    let s := applyClPort { opcode := opClPortCfg.code, params := [BitVec.ofNat 32 x.1, x.2 &&& 0x7FFFFFFF#32] } s
    if cpGroomed x.2 then groomPortOff x.1 s else s) s)

/-- Fabric ports: ENABLE 0, DOWN. -/
def fabricQuench (s : State) : State :=
  ((List.range 12).filter fun p => fpEn (fpCfg s p)).foldl (fun s p =>
    enterDown p (s.onFab fun v => { v with portCfg := tset fabPortReset v.portCfg p (lowerEnable (fpCfg s p)) })) s

/-- Entry into QUENCH, at once. A QUENCH while the boot ROM serves stops the boot. A STROKE_SET that waits for the next row 0 stays (DESIGN CHOICE, log entry 87). -/
def enterQuench (s : State) : State :=
  if inQuench s then s
  else
    let s := if s.boot.rom then s.onBoot fun v => { v with stopped := true } else s
    let s := s.onMode fun v => { v with mode := .quench, origin := .quench, autoBlocked := false, lockstep := false, miscompare := false }
    let s := abortMapSync (discardCommits s)
    let s := sinksQuench (enabledSnk s) s
    let s := optQuench (fabricQuench (clientsQuench (linesQuench s)))
    let s := (zeroiseContexts (groomQuench s)).onStore fun v => { v with restoreDue := false }
    s.onCont fun v => { v with src := v.src.map fun x => (x.1, { x.2 with unit := false }) }

/-- QUENCH. In QUENCH it changes nothing. -/
def doQuench (rq : Req) (s : State) : State :=
  command opQuench rq { par := [countIs 0 rq] } s fun s => .done (enterQuench s) []
def execQuench (rq : Req) (s : State) : Host.Outcome State Fault Refusal := ok (doQuench rq s)

/-- Stroke alignment restarts (R63). -/
def restartAlignment (s : State) : State :=
  s.onRoot fun v => { v with aligned := false, isRoot := false, upstream := 15, foreign := [], noAnn := 0, candidateByTimeout := false, lossPending := false, lastArr := [] }

/-- A severe fault that forces QUENCH holds, or JTAG does. -/
def quenchHeld (s : State) : Bool := s.pins.jtagForced || s.mode.present.any fun f => f ≠ .keFail

/-- Loops 6–8 run again in a new KINDLE (R235). -/
def famRelease (s : State) : State := (List.range 4).foldl (fun s e => onTxEng e (fun x => { x with famHold := false }) s) s

/-- QUENCH_EXIT. -/
def doQuenchExit (rq : Req) (s : State) : State :=
  command opQuenchExit rq { par := [countIs 0 rq], late := [need (inQuench s && !quenchHeld s) { st := .modeRefused }] } s
    fun s => .done (restartAlignment (famRelease ((s.onMode fun v => { v with mode := .kindle, origin := .kindle }).onBoot (fun v => { v with stage := .calibrating, calib := true })
      |>.onOpt fun v => { v with vrefDue := true }))) []
def execQuenchExit (rq : Req) (s : State) : Host.Outcome State Fault Refusal := ok (doQuenchExit rq s)

/-! ### Severe faults (R402) -/

def faultNum : SevereFault → Nat
  | .thermTrip => 0 | .railFault => 1 | .pllUnlock => 2 | .coreLoss => 3 | .keFail => 4

def faultEv : SevereFault → Ev
  | .thermTrip => evModThermTrip | .railFault => evModRailFault | .pllUnlock => evModPllUnlock | .coreLoss => evModCoreLoss | .keFail => evModKeFail

/-- A fault is declared: latched, recorded, and QUENCH is entered unless it is KE_FAIL. -/
def declareFault (f : SevereFault) (s : State) : State :=
  if s.mode.present.contains f then s
  else
    let s := faultRecord (16 + faultNum f) 0 0 (note (faultEv f) 0 1 s)
    let s := s.onMode fun v => { v with present := v.present ++ [f], latched := if v.latched.contains f then v.latched else v.latched ++ [f] }
    if f = .keFail then s else enterQuench s

/-- THERM_TRIP: a sensor at 115.0 °C or above in 2 consecutive rows. -/
def execThermTrip (temp : Int) (rows : Nat) (s : State) : Host.Outcome State Fault Refusal :=
  ok (if alive s && decide (1150 ≤ temp) && decide (2 ≤ rows) then declareFault .thermTrip (s.onMode fun v => { v with tj := BitVec.ofInt 16 temp, coolRun := 0 }) else s)

/-- THERM_WARN: a sensor at 105.0 °C or above in 2 consecutive rows; a warning only. -/
def execThermWarn (temp : Int) (rows : Nat) (s : State) : Host.Outcome State Fault Refusal :=
  ok (if alive s && decide (1050 ≤ temp) && decide (2 ≤ rows) then
      noteChange evModThermWarn 0 s.mode.thermWarn true (s.onMode fun v => { v with tj := BitVec.ofInt 16 temp, coolRun := 0, thermWarn := true })
    else s)

/-- Nominal voltage of a rail in µV (R460). -/
def railNominal : Rail → Nat
  | .vddCore => 750000 | .vddSram => 800000 | .vddSerdes => 900000 | .vddConv => 1200000 | .vddHbm => 1100000 | .vddqHbm => 400000 | .vddIo => 1800000

/-- The rail lies outside ±6% of nominal. -/
def railOut (r : Rail) (uv : Nat) : Bool := decide (uv * 100 < railNominal r * 94) || decide (railNominal r * 106 < uv * 100)

/-- RAIL_FAULT. -/
def execRailFault (rail : Rail) (uv rows : Nat) (s : State) : Host.Outcome State Fault Refusal :=
  ok (if alive s && railOut rail uv && decide (2 ≤ rows) then declareFault .railFault s else s)

/-- PLL_UNLOCK. -/
def execPllUnlock (rows : Nat) (s : State) : Host.Outcome State Fault Refusal :=
  ok (if alive s && decide (2 ≤ rows) then declareFault .pllUnlock s else s)

/-- Strokes that the condition must have been absent for; CORE_LOSS and KE_FAIL clear at reset only. -/
def faultClearAfter : SevereFault → Option Nat
  | .thermTrip => some 50000 | .railFault => some 1 | .pllUnlock => some 1 | .coreLoss => none | .keFail => none

/-- The condition of a fault has ended; the latch stays. -/
def clearFault (f : SevereFault) (s : State) : State := noteClear (faultEv f) 0 (s.onMode fun v => { v with present := del v.present f })

/-- Strokes for which the condition has been absent: the sensors' are counted by the device. -/
def absentFor (f : SevereFault) (strokes : Nat) (s : State) : Nat := if f = .thermTrip then min strokes s.mode.coolRun else strokes

/-- SEVERE_FAULT_CLEAR: the condition has been absent for `strokes`. -/
def severeClear (f : SevereFault) (strokes : Nat) (s : State) : State :=
  match faultClearAfter f with
  | none => s
  | some n => if s.mode.present.contains f && decide (n ≤ absentFor f strokes s) then clearFault f s else s
def execSevereFaultClear (f : SevereFault) (strokes : Nat) (s : State) : Host.Outcome State Fault Refusal := ok (severeClear f strokes s)

/-- The hottest sensor at the end of a stroke; THERM_WARN clears after 1 s with every sensor below 100.0 °C. -/
def thermStroke (tj : Int) (s : State) : State :=
  let s := s.onMode fun v => { v with tj := BitVec.ofInt 16 tj, coolRun := if tj < 1000 then satAdd 50000 v.coolRun 1 else 0 }
  if s.mode.thermWarn && decide (50000 ≤ s.mode.coolRun) then noteChange evModThermWarn 0 true false (s.onMode fun v => { v with thermWarn := false }) else s

/-- FAULT_ACK. -/
def doFaultAck (rq : Req) (s : State) : State :=
  command opFaultAck rq { par := [countIs 0 rq], late := [need (!s.mode.latched.any fun f => s.mode.present.contains f) { st := .busy, detail := 2 }] } s
    fun s => .done (s.onMode fun v => { v with latched := [] }) []
def execFaultAck (rq : Req) (s : State) : Host.Outcome State Fault Refusal := ok (doFaultAck rq s)

/-- FLT_N and RPLC_N are driven low (R401). -/
def fltNLow (s : State) : Bool := heldOr s .fltN .low (alive s && !s.mode.latched.isEmpty)
def rplcNLow (s : State) : Bool := heldOr s .rplcN .low (alive s && s.mode.rplc)

/-- KE_FAIL: no successful reseed for 250,000 strokes (R370). -/
def execKeFail (s : State) : Host.Outcome State Fault Refusal :=
  ok (if decide (250000 ≤ s.sec.reseedAge) && !s.sec.keFailed then declareFault .keFail (s.onSec fun v => { v with keFailed := true }) else s)

/-! ### Retirement (R403–R405) -/


/-- A retirement that enters ANNEAL is recorded: a slice, a fabric lane or a core, or banks that leave fewer than 32. -/
def annealing (s : State) : Bool :=
  decide (sbWorking s < 32) || ((List.range 14).any fun i => decide (i ≠ 8 ∧ i ≠ 9) && s.store.retire.getD i 0#32 ≠ 0#32)

def secondSlice (l : List (Nat × Nat)) : Bool := l.any fun x => decide (2 ≤ (l.filter fun y => y.1 = x.1).length)

/-- A DAC slice is dropped: MAX_RS 245 GBd; with a second one of the same converter the direction is retired and TXDISe held asserted (R236, R403). -/
def dropDac (e lane slice : Nat) (s : State) : State :=
  let s := onTxEng e (fun x => { x with dacSlices := x.dacSlices ++ [(lane, slice)], maxRs := 245000000#32 }) s
  if secondSlice (txEng s e).dacSlices then onTxEng e (fun x => { x with retired := true, state := .dark, cfg := lowerEnable x.cfg }) s
  else if lcEn (txEng s e).cfg && txOverRate s e then txRateLimit e s
  else s

/-- The same for an ADC slice (R243). -/
def dropAdc (e lane slice : Nat) (s : State) : State :=
  let s := onRxEng e (fun x => { x with adcSlices := x.adcSlices ++ [(lane, slice)], maxRs := 245000000#32 }) s
  if secondSlice (rxEng s e).adcSlices then
    let s := if lcEn (rxEng s e).cfg then rxOff e s else s
    onRxEng e (fun x => { x with retired := true, cfg := lowerEnable x.cfg }) s
  else if lcEn (rxEng s e).cfg && rxOverRate s e then rxRateLimit e s
  else s

/-- The effect of a retirement on the resource. -/
def dropResource (code unit detail : Nat) (s : State) : State :=
  if code = 1 then (if detail / 256 % 2 = 0 then dropDac unit (detail / 16 % 4) (detail % 8) s else dropAdc unit (detail / 16 % 4) (detail % 8) s)
  else if code = 2 then shedIfNeeded (s.onMode fun v => { v with swBanksLost := ins v.swBanksLost unit })
  else if code = 3 then onLane (fabLane unit detail) (fun x => { x with retired := true }) s
  else s

/-- RPLC_N and ANNEAL, if the retirement enters it: the mode left is the ORIGIN. In KINDLE and QUENCH the mode stays. -/
def annealEntry (s : State) : State :=
  s.onMode fun v =>
    if v.mode = .forge ∨ v.mode = .draw ∨ v.mode = .temper then { v with rplc := true, origin := v.mode, mode := .anneal } else { v with rplc := true }

/-- Retirements that take effect at this row 0 (R404). -/
def retireRow0 (s : State) : State :=
  let l := s.mode.retireDue
  if l.isEmpty then s
  else
    let s := l.foldl (fun s x => dropResource x.1 x.2.1 x.2.2 s) (s.onMode fun v => { v with retireDue := [] })
    if l.any (fun x => x.1 ≠ 2) || decide (sbWorking s < 32) then annealEntry s else s

/-- A loop of the slice has stayed at the end of its range, with an error beyond it: for 100 strokes, in the start-up calibration for one (R235, R243, R403; log entry 110). -/
def sliceBeyond (s : State) (e : Nat) (dac : Bool) (lane slice : Nat) : Bool :=
  let n := if startCal s then 1 else 100
  (List.range 3).any fun f =>
    decide (n ≤ if dac then tget 0 (txEng s e).calLim (32 * (f + 1) + 8 * lane + slice) else tget 0 (rxEng s e).lim (32 * f + 8 * lane + slice))

/-- SLICE_RETIRE: a slice that cannot be brought within the range of its loop (R403). -/
def execSliceRetire (e : Fin 4) (dac : Bool) (lane : Fin 4) (slice : Fin 8) (s : State) : Host.Outcome State Fault Refusal :=
  ok (if alive s && enginePresent s e && sliceBeyond s e dac lane slice then retireResource 1 e (flag (!dac) * 256 + lane * 16 + slice) s else s)

/-- A management core is retired: CORE_LOSS with fewer than 2 working. -/
def retireCore (c : Nat) (s : State) : State :=
  let s := retireResource 4 c 0 (s.onMode fun v => { v with coresLost := ins v.coresLost c })
  if coresWorking s < 2 then declareFault .coreLoss s else s

/-- LOCKSTEP_MISCOMPARE: the command in progress returns INTERNAL, and both cores of the pair run their self-test (R398).
The command in progress is the one that is executed next (DESIGN CHOICE, log entry 45). -/
def execLockstepMiscompare (pair : Fin 2) (s : State) : Host.Outcome State Fault Refusal :=
  ok (if alive s && s.mode.lockstep then
      faultRecord 0x21 (2 * pair) 0 (s.onMode fun v => { v with miscompare := true, coreTest := ins (ins v.coreTest (2 * pair)) (2 * pair + 1) })
    else s)

/-- CORE_SELF_TEST_DONE: in KINDLE, or after a miscompare. -/
def coreSelfTest (c : Nat) (pass : Bool) (s : State) : State :=
  if !(s.mode.coreTest.contains c || s.mode.mode = .kindle) then s
  else
    let s := s.onMode fun v => { v with coreTest := del v.coreTest c }
    if pass || s.mode.coresLost.contains c then s else retireCore c s
def execCoreSelfTestDone (core : Fin 4) (pass : Bool) (s : State) : Host.Outcome State Fault Refusal := ok (coreSelfTest core pass s)

/-! ### Mode changes (R394–R399) -/

/-- The target has changed: the demappers of enabled ports move toward it, those of the others have no depth to keep (R397). -/
def depthChange (s : State) : State :=
  let on := demapPorts s
  let s := s.onCli fun v => { v with port := v.port.map fun x => (x.1, if on.contains x.1 then x.2 else { x.2 with depth := 20 * rowTicks }) }
  s.onMode fun v => { v with depthSettled := depthsReached s }

/-- What changes with the mode at its row 0 (R396): lockstep, depth targets, and LINE_REALIGN of the engines of class DRAW on entry into TEMPER. -/
def modeEntered (was : Mode) (s : State) : State :=
  let m := baseMode s
  let s := s.onMode fun v => { v with lockstep := decide (m = .temper), autoBlocked := v.autoBlocked && decide (m = .forge) }
  let s := depthChange s
  if m = .temper && was ≠ .temper then (List.range (engines s)).foldl (fun s e => if (otnOf s e).latDraw then realign e s else s) s else s

/-- The device enters FORGE, DRAW or TEMPER: in ANNEAL as its ORIGIN, and through ANNEAL where a retirement is recorded. -/
def enterMode (m : Mode) (s : State) : State :=
  let was := baseMode s
  modeEntered was (s.onMode fun v => if v.mode = .anneal || annealing s then { v with mode := .anneal, origin := m } else { v with mode := m, origin := m })

/-- DEPTH_SETTLED: every demapper has reached its target. -/
def execDepthSettled (s : State) : Host.Outcome State Fault Refusal := ok (if depthsReached s then s.onMode fun v => { v with depthSettled := true } else s)

/-- A bonded group is in force or pending. -/
def bondAny (s : State) : Bool := bit s.tx.bond 31 || bondWaits s

/-- The bank that is active at stroke `n` (R119). -/
def bankAt (s : State) (n : Nat) : List (Nat × W32) :=
  if (waiting opMapCommit s).any fun c => decide (actsAt s c.stroke ≤ n) then shadowBank s else activeBank s

/-- The refusals of a change to mode `m` at stroke `n`, in their order (R395). -/
def modeChecks (m : Mode) (n : Nat) (s : State) : List Check :=
  [need (m = .forge || !bondAny s) { st := .modeRefused },
   need (m ≠ .temper || 2 ≤ coresWorking s) { st := .modeRefused },
   need (!(s.mode.mode = .kindle && s.boot.stage ≠ .ready) && (waiting opModeSet s).isEmpty) { st := .busy, detail := 2 },
   need (m ≠ .temper || decide (inUse (bankAt s n) ≤ limitIn .temper s)) { st := .capacity, detail := 2 }]

/-- MODE_SET. -/
def doModeSet (rq : Req) (s : State) : State :=
  let t := fld (rq.p 0) 3 0
  command opModeSet rq
    { par := [countIs 1 rq, onlyBits 0 0x0000000F#32 rq, wordOk 0 (decide (2 ≤ t ∧ t ≤ 4))],
      late := modeChecks (modeOfCode t) (actsAt s (if rq.cmt then some rq.commit else none)) s } s (commitOnly opModeSet rq)
def execModeSet (rq : Req) (s : State) : Host.Outcome State Fault Refusal := ok (doModeSet rq s)

/-- MODE_SET at its row 0. -/
def applyModeSet (c : Commit) (s : State) : State := if inQuench s then s else enterMode (modeOfCode (fld (c.p 0) 3 0)) s

def autoTemper (s : State) : Bool := bit s.mode.cfg 31
def cfiLimit (s : State) : Nat := fld s.mode.cfg 23 16
def cfiCount (s : State) : Nat := (s.mode.cfiPast.take (fld s.mode.cfg 11 0)).sum

/-- MODE_CFG. -/
def doModeCfg (rq : Req) (s : State) : State :=
  command opModeCfg rq
    { par := [countIs 1 rq, onlyBits 0 0x80FF0FFF#32 rq, wordOk 0 (decide (1 ≤ fld (rq.p 0) 23 16) && decide (1 ≤ fld (rq.p 0) 11 0) && decide (fld (rq.p 0) 11 0 ≤ 3600))] } s
    (commitOnly opModeCfg rq)
def execModeCfg (rq : Req) (s : State) : Host.Outcome State Fault Refusal := ok (doModeCfg rq s)
def applyModeCfg (c : Commit) (s : State) : State := s.onMode fun v => { v with cfg := c.p 0, autoBlocked := v.autoBlocked && bit (c.p 0) 31 }

/-- The automatic fall-back, made at row 0 of the stroke T that ends the second (R399). -/
def fallBack (s : State) : State :=
  match firstFail (modeChecks .temper ((s.stk.scnt + 2#48).toNat) s ++ [need (pendingCount s < 4096) { st := .capacity }]) with
  | some _ => note evModAutoTemperBlocked 0 1 (s.onMode fun v => { v with autoBlocked := true })
  | none =>
    faultRecord 0x22 0 0 ((s.onMode fun v => { v with autoBlocked := false }).onCommits
      (· ++ [{ stroke := some (s.stk.scnt + 2#48), opcode := opModeSet.code, params := [4#32] }]))

/-- Row 0 of a stroke that ends a second: correctable internal faults, and the fall-back. -/
def modeSecond (s : State) : State :=
  let s := s.onMode fun v => { v with cfiPast := (v.cfiNow :: v.cfiPast).take 3600, cfiNow := 0 }
  if cfiCount s < cfiLimit s then s.onMode fun v => { v with autoBlocked := false }
  else if autoTemper s && baseMode s = .forge then fallBack s
  else s

/-- MODE_STATUS words 0–4. COMMIT is that of the waiting MODE_SET, 0 when it carries none. -/
def modeStatusWords (s : State) : List W32 :=
  let w := (waiting opModeSet s).head?
  let k := match w with | some c => c.stroke.getD 0#48 | none => 0#48
  [word [(s.mode.mode.code, 28), ((if s.mode.mode = .anneal then s.mode.origin else s.mode.mode).code, 24), (match w with | some c => fld (c.p 0) 3 0 | none => 15, 20),
      (flag s.mode.autoBlocked, 19), (flag s.mode.depthSettled, 18), (min 255 (cfiCount s), 8)],
   word [(hi16 k, 0)], BitVec.ofNat 32 (lo32 k), word [(bitsOf (s.mode.latched.map faultNum), 0)], word [(s.mode.tj.toNat, 0)]]

/-- MODE_STATUS_READ. -/
def doModeStatusRead (rq : Req) (s : State) : State :=
  command opModeStatusRead rq { par := [countIs 0 rq] } s fun s => .done s (modeStatusWords s)
def execModeStatusRead (rq : Req) (s : State) : Host.Outcome State Fault Refusal := ok (doModeStatusRead rq s)

end Sys2Proof.Machine
end

