-- ==== Sys2Proof/Machine/Signature.lean ====
section
/-! DEFINITION. Signatures and key transport: RSASSA-PSS and RSAES-OAEP with SHA-384, and SLH-DSA-SHA2-128s (14_modes_boot_and_trust R408, R413, R417, which name RFC 8017 and FIPS 205). The names
are those of the two standards; log entry 24. -/

namespace Sys2Proof.Machine

/-! ### SHA-256 -/

def sha256K0 : List W32 :=
  [0x428a2f98#32, 0x71374491#32, 0xb5c0fbcf#32, 0xe9b5dba5#32, 0x3956c25b#32, 0x59f111f1#32, 0x923f82a4#32, 0xab1c5ed5#32,
    0xd807aa98#32, 0x12835b01#32, 0x243185be#32, 0x550c7dc3#32, 0x72be5d74#32, 0x80deb1fe#32, 0x9bdc06a7#32, 0xc19bf174#32]
def sha256K1 : List W32 :=
  [0xe49b69c1#32, 0xefbe4786#32, 0x0fc19dc6#32, 0x240ca1cc#32, 0x2de92c6f#32, 0x4a7484aa#32, 0x5cb0a9dc#32, 0x76f988da#32,
    0x983e5152#32, 0xa831c66d#32, 0xb00327c8#32, 0xbf597fc7#32, 0xc6e00bf3#32, 0xd5a79147#32, 0x06ca6351#32, 0x14292967#32]
def sha256K2 : List W32 :=
  [0x27b70a85#32, 0x2e1b2138#32, 0x4d2c6dfc#32, 0x53380d13#32, 0x650a7354#32, 0x766a0abb#32, 0x81c2c92e#32, 0x92722c85#32,
    0xa2bfe8a1#32, 0xa81a664b#32, 0xc24b8b70#32, 0xc76c51a3#32, 0xd192e819#32, 0xd6990624#32, 0xf40e3585#32, 0x106aa070#32]
def sha256K3 : List W32 :=
  [0x19a4c116#32, 0x1e376c08#32, 0x2748774c#32, 0x34b0bcb5#32, 0x391c0cb3#32, 0x4ed8aa4a#32, 0x5b9cca4f#32, 0x682e6ff3#32,
    0x748f82ee#32, 0x78a5636f#32, 0x84c87814#32, 0x8cc70208#32, 0x90befffa#32, 0xa4506ceb#32, 0xbef9a3f7#32, 0xc67178f2#32]
def sha256K : List W32 := sha256K0 ++ sha256K1 ++ sha256K2 ++ sha256K3

/-- The initial hash value of SHA-256. -/
def sha256Init : List W32 :=
  [0x6a09e667#32, 0xbb67ae85#32, 0x3c6ef372#32, 0xa54ff53a#32, 0x510e527f#32, 0x9b05688c#32, 0x1f83d9ab#32, 0x5be0cd19#32]

/-- Words 16, 17, … of the message schedule, from the last 16 words. -/
def sha256Schedule : Nat → List W32 → List W32
  | 0, _ => []
  | n + 1, w =>
    let a := w.getD 1 0#32
    let b := w.getD 14 0#32
    let v := (b.rotateRight 17 ^^^ b.rotateRight 19 ^^^ (b >>> 10)) + w.getD 9 0#32 + (a.rotateRight 7 ^^^ a.rotateRight 18 ^^^ (a >>> 3)) + w.getD 0 0#32
    v :: sha256Schedule n (w.drop 1 ++ [v])

/-- One round. -/
def sha256Round (h : List W32) (k w : W32) : List W32 :=
  match h with
  | [a, b, c, d, e, f, g, i] =>
    let t1 := i + (e.rotateRight 6 ^^^ e.rotateRight 11 ^^^ e.rotateRight 25) + ((e &&& f) ^^^ (~~~e &&& g)) + k + w
    let t2 := (a.rotateRight 2 ^^^ a.rotateRight 13 ^^^ a.rotateRight 22) + ((a &&& b) ^^^ (a &&& c) ^^^ (b &&& c))
    [t1 + t2, a, b, c, d + t1, e, f, g]
  | _ => h

def sha256Rounds : List W32 → List W32 → List W32 → List W32
  | k :: ks, w :: ws, h => sha256Rounds ks ws (sha256Round h k w)
  | _, _, h => h

/-- One block of 16 words. -/
def sha256Block (h w : List W32) : List W32 := List.zipWith (· + ·) h (sha256Rounds sha256K (w ++ sha256Schedule 48 w) h)

/-- Blocks of 64 bytes, at most `n`. -/
def sha256Blocks : Nat → List W32 → List W32 → List W32
  | 0, _, h => h
  | n + 1, ws, h => if ws.isEmpty then h else sha256Blocks n (ws.drop 16) (sha256Block h (ws.take 16))

/-- The 32 bytes of SHA-256. -/
def sha256 (bs : List Byte) : List Byte :=
  let ws := wordsOfBytes (bs ++ [0x80#8] ++ List.replicate ((119 - bs.length % 64) % 64) 0#8 ++ bytesOfNat 8 (8 * bs.length))
  bytesOfWords (sha256Blocks ws.length ws sha256Init)

/-! ### RSASSA-PSS (RFC 8017) -/

/-- MGF1: `n` bytes of the hashes of the seed with a counter. -/
def mgf1 (hash : List Byte → List Byte) (hLen : Nat) (seed : List Byte) (n : Nat) : List Byte :=
  ((List.range (ceilDiv n hLen)).flatMap fun i => hash (seed ++ bytesOfNat 4 i)).take n

def sha384Bytes (bs : List Byte) : List Byte := bytesOfWords (sha384 bs)

/-- Squared `k` times modulo `n`. -/
def squareMod (n : Nat) : Nat → Nat → Nat
  | 0, x => x
  | k + 1, x => squareMod n k (x * x % n)

/-- RSAVP1 with the exponent 65,537 = 2¹⁶ + 1. -/
def rsavp1 (n sig : Nat) : Nat := squareMod n 16 sig * sig % n

/-- EMSA-PSS-VERIFY with SHA-384, MGF1 with SHA-384 and a salt of 48 bytes. `emBits`: one bit less than the modulus has. -/
def emsaPssVerify (m em : List Byte) (emBits : Nat) : Bool :=
  let emLen := em.length
  let dbLen := emLen - 49
  let h := (em.drop dbLen).take 48
  let masked := em.take dbLen
  let top := 8 * emLen - emBits
  let db := List.zipWith (· ^^^ ·) masked (mgf1 sha384Bytes 48 h dbLen)
  let db := setAt db 0 (BitVec.ofNat 8 ((db.headD 0#8).toNat % 2 ^ (8 - top)))
  let zeros := emLen - 98
  decide (98 ≤ emLen) && em.getLastD 0#8 = 0xBC#8 && decide ((masked.headD 0#8).toNat < 2 ^ (8 - top))
    && (db.take zeros).all (fun b => b = 0#8) && db.getD zeros 0#8 = 0x01#8
    && decide (sha384Bytes (List.replicate 8 0#8 ++ sha384Bytes m ++ db.drop (zeros + 1)) = h)

/-- `b` to the power `d`, of which `k` bits are taken, modulo `n`. -/
def powMod (n b : Nat) : Nat → Nat → Nat
  | 0, _ => 1 % n
  | k + 1, d => let r := powMod n b k (d / 2); r * r % n * (if d % 2 = 0 then 1 else b) % n

/-- EMSA-PSS-ENCODE of a message with a salt of 48 bytes, to `emBits` bits. -/
def emsaPssEncode (m salt : List Byte) (emBits : Nat) : List Byte :=
  let emLen := ceilDiv emBits 8
  let h := sha384Bytes (List.replicate 8 0#8 ++ sha384Bytes m ++ salt)
  let db := List.replicate (emLen - 98) 0#8 ++ [0x01#8] ++ salt
  let masked := List.zipWith (· ^^^ ·) db (mgf1 sha384Bytes 48 h (emLen - 49))
  setAt masked 0 (BitVec.ofNat 8 ((masked.headD 0#8).toNat % 2 ^ (8 - (8 * emLen - emBits)))) ++ h ++ [0xBC#8]

/-- RSASSA-PSS-SIGN with a modulus of 96 words and a private exponent: 96 words. -/
def rsaPssSign (modulus : List W32) (d : Nat) (msg : List W32) (salt : List Byte) : List W32 :=
  let n := natOfBytes (bytesOfWords modulus)
  wordsOfBytes (bytesOfNat 384 (powMod n (natOfBytes (emsaPssEncode (bytesOfWords msg) salt (Nat.log2 n))) 3072 d))

/-- The label hash of RSAES-OAEP: that of the empty label. -/
def oaepLabel : List Byte := sha384Bytes []

/-- RSAES-OAEP-DECRYPT with SHA-384, MGF1 with SHA-384 and an empty label, of a ciphertext of 96 words that encrypts 32 bytes (R413). -/
def oaepDecrypt (modulus : List W32) (d : Nat) (ct : List W32) : Option (BitVec 256) :=
  let n := natOfBytes (bytesOfWords modulus)
  let c := natOfBytes (bytesOfWords ct)
  let em := bytesOfNat 384 (powMod n c 3072 d)
  let seed := List.zipWith (· ^^^ ·) ((em.drop 1).take 48) (mgf1 sha384Bytes 48 (em.drop 49) 48)
  let db := List.zipWith (· ^^^ ·) (em.drop 49) (mgf1 sha384Bytes 48 seed 335)
  let rest := (db.drop 48).dropWhile fun b => b = 0#8
  if c < n && em.headD 0#8 = 0#8 && decide (db.take 48 = oaepLabel) && rest.headD 0#8 = 0x01#8 && decide (rest.length = 33) then
    some (BitVec.ofNat 256 (natOfBytes rest.tail))
  else none

/-- RSASSA-PSS-VERIFY of a signature of 96 words over a message of words, under a modulus of 96 words (R408). -/
def rsaPssOk (modulus msg sig : List W32) : Bool :=
  let n := natOfBytes (bytesOfWords modulus)
  let s := natOfBytes (bytesOfWords sig)
  let bits := Nat.log2 n
  decide (s < n) && emsaPssVerify (bytesOfWords msg) (bytesOfNat (ceilDiv bits 8) (rsavp1 n s)) bits
    && decide (rsavp1 n s < 256 ^ ceilDiv bits 8)

/-! ### SLH-DSA-SHA2-128s (FIPS 205): n = 16, h = 63, d = 7, h′ = 9, a = 12, k = 14, w = 16, m = 30 -/

/-- An address ADRS: layer, tree, type, and three words. -/
structure Adrs where
  layer : Nat := 0
  tree : Nat := 0
  typ : Nat := 0
  a : Nat := 0
  b : Nat := 0
  c : Nat := 0

/-- The compressed address of 22 bytes. -/
def Adrs.bytes (x : Adrs) : List Byte := bytesOfNat 1 x.layer ++ bytesOfNat 8 x.tree ++ bytesOfNat 1 x.typ ++ bytesOfNat 4 x.a ++ bytesOfNat 4 x.b ++ bytesOfNat 4 x.c

/-- F, H and T: the first 16 bytes of SHA-256 over the seed, zeros up to a block, the address and the message. -/
def slhHash (seed : List Byte) (x : Adrs) (m : List Byte) : List Byte := (sha256 (seed ++ List.replicate 48 0#8 ++ x.bytes ++ m)).take 16

/-- `n` digits of `b` bits, from the most significant bits of the bytes on. -/
def base2b (bs : List Byte) (b n : Nat) : List Nat := (List.range n).map fun i => natOfBytes bs >>> (8 * bs.length - b * (i + 1)) % 2 ^ b

/-- `n` values of 16 bytes. -/
def slhParts (bs : List Byte) (n : Nat) : List (List Byte) := (List.range n).map fun i => (bs.drop (16 * i)).take 16

/-- Chain: F from place `i` on, `s` times. -/
def slhChain (seed : List Byte) (x : Adrs) : Nat → Nat → List Byte → List Byte
  | 0, _, v => v
  | s + 1, i, v => slhChain seed x s (i + 1) (slhHash seed { x with c := i } v)

/-- From a node up an authentication path: at height `k` the node has index `i`. -/
def slhClimb (seed : List Byte) (x : Adrs) : Nat → Nat → List (List Byte) → List Byte → List Byte
  | _, _, [], v => v
  | k, i, p :: ps, v => slhClimb seed x (k + 1) (i / 2) ps (slhHash seed { x with b := k + 1, c := i / 2 } (if i % 2 = 0 then v ++ p else p ++ v))

/-- wots_pkFromSig: the 32 digits of the message and the 3 of its checksum, each chain to its end. -/
def wotsPk (seed : List Byte) (x : Adrs) (m : List Byte) (sig : List (List Byte)) : List Byte :=
  let msg := base2b m 4 32
  let csum := (msg.map fun v => 15 - v).sum * 16
  let ends := (List.zip (msg ++ base2b (bytesOfNat 2 csum) 4 3) sig).mapIdx fun i v => slhChain seed { x with typ := 0, b := i } (15 - v.1) v.1 v.2
  slhHash seed { x with typ := 1, b := 0, c := 0 } ends.flatten

/-- xmss_pkFromSig: a signature of 44 values, leaf `i`. -/
def xmssPk (seed : List Byte) (x : Adrs) (i : Nat) (sig : List (List Byte)) (m : List Byte) : List Byte :=
  slhClimb seed { x with typ := 2, a := 0 } 0 i (sig.drop 35) (wotsPk seed { x with a := i } m (sig.take 35))

/-- fors_pkFromSig: 14 trees of height 12. -/
def forsPk (seed : List Byte) (x : Adrs) (md : List Byte) (sig : List (List Byte)) : List Byte :=
  let roots := (base2b md 12 14).mapIdx fun i v =>
    let part := (sig.drop (13 * i)).take 13
    let leaf := i * 4096 + v
    slhClimb seed { x with typ := 3 } 0 leaf part.tail (slhHash seed { x with typ := 3, c := leaf } (part.headD []))
  slhHash seed { x with typ := 4 } roots.flatten

/-- The hypertree from layer `j` on: the node of the last layer. -/
def hyperRoot (seed : List Byte) : Nat → Nat → Nat → Nat → List (List Byte) → List Byte → List Byte
  | 0, _, _, _, _, v => v
  | n + 1, j, tree, leaf, sig, v =>
    hyperRoot seed n (j + 1) (tree / 512) (tree % 512) (sig.drop 44) (xmssPk seed { layer := j, tree := tree } leaf (sig.take 44) v)

/-- slh_verify with an empty context: a signature of 1,964 words over a message of words, under a public key of 8 words (R408). -/
def slhDsaOk (key msg sig : List W32) : Bool :=
  let pk := bytesOfWords key
  let seed := pk.take 16
  let s := bytesOfWords sig
  let r := s.take 16
  let m := [0#8, 0#8] ++ bytesOfWords msg
  let dg := mgf1 sha256 32 (r ++ seed ++ sha256 (r ++ pk ++ m)) 30
  let tree := natOfBytes ((dg.drop 21).take 7) % 2 ^ 54
  let leaf := natOfBytes (dg.drop 28) % 512
  let fors := forsPk seed { tree := tree, typ := 3, a := leaf } (dg.take 21) (slhParts (s.drop 16) 182)
  decide (hyperRoot seed 7 0 tree leaf (slhParts (s.drop 2928) 308) fors = pk.drop 16)

/-- The private half of a key: SK.seed and SK.prf. -/
structure SlhSecret where
  seed : List Byte
  prf : List Byte

/-- The ends of the chains of a WOTS+ key. -/
def wotsEnds (seed : List Byte) (k : SlhSecret) (x : Adrs) : List Byte :=
  (List.range 35).flatMap fun i => slhChain seed { x with typ := 0, b := i } 15 0 (slhHash seed { x with typ := 5, b := i, c := 0 } k.seed)

/-- xmss_node: node `i` at height `z`. -/
def xmssNode (seed : List Byte) (k : SlhSecret) (x : Adrs) : Nat → Nat → List Byte
  | 0, i => let y := { x with a := i }; slhHash seed { y with typ := 1, b := 0, c := 0 } (wotsEnds seed k y)
  | z + 1, i => slhHash seed { x with typ := 2, a := 0, b := z + 1, c := i } (xmssNode seed k x z (2 * i) ++ xmssNode seed k x z (2 * i + 1))

/-- fors_node: node `i` at height `z`. -/
def forsNode (seed : List Byte) (k : SlhSecret) (x : Adrs) : Nat → Nat → List Byte
  | 0, i => slhHash seed { x with typ := 3, b := 0, c := i } (slhHash seed { x with typ := 6, b := 0, c := i } k.seed)
  | z + 1, i => slhHash seed { x with typ := 3, b := z + 1, c := i } (forsNode seed k x z (2 * i) ++ forsNode seed k x z (2 * i + 1))

/-- The values beside a path from leaf `i` up, `n` heights. -/
def slhBeside (node : Nat → Nat → List Byte) (i n : Nat) : List Byte := (List.range n).flatMap fun j => node j (i / 2 ^ j ^^^ 1)

/-- xmss_sign: the chains of leaf `i` at the digits of the message, and the authentication path. -/
def xmssSign (seed : List Byte) (k : SlhSecret) (x : Adrs) (i : Nat) (m : List Byte) : List Byte :=
  let msg := base2b m 4 32
  let csum := (msg.map fun v => 15 - v).sum * 16
  ((msg ++ base2b (bytesOfNat 2 csum) 4 3).mapIdx fun j v =>
    slhChain seed { x with typ := 0, a := i, b := j } v 0 (slhHash seed { x with typ := 5, a := i, b := j } k.seed)).flatten ++ slhBeside (xmssNode seed k x) i 9

/-- ht_sign from layer `j` on. -/
def hyperSign (seed : List Byte) (k : SlhSecret) : Nat → Nat → Nat → Nat → List Byte → List Byte
  | 0, _, _, _, _ => []
  | n + 1, j, tree, leaf, m =>
    let x : Adrs := { layer := j, tree := tree }
    xmssSign seed k x leaf m ++ hyperSign seed k n (j + 1) (tree / 512) (tree % 512) (xmssNode seed k x 9 0)

def xorPad (key : List Byte) (p : Byte) : List Byte := (key ++ List.replicate (64 - key.length) 0#8).map (· ^^^ p)

/-- HMAC-SHA-256 with a key of at most 64 bytes. -/
def hmac256 (key m : List Byte) : List Byte := sha256 (xorPad key 0x5C#8 ++ sha256 (xorPad key 0x36#8 ++ m))

/-- slh_sign with an empty context: 1,964 words. `rnd`: its randomizer of 16 bytes. -/
def slhDsaSign (key : List W32) (k : SlhSecret) (rnd : List Byte) (msg : List W32) : List W32 :=
  let pk := bytesOfWords key
  let seed := pk.take 16
  let m := [0#8, 0#8] ++ bytesOfWords msg
  let r := (hmac256 k.prf (rnd ++ m)).take 16
  let dg := mgf1 sha256 32 (r ++ seed ++ sha256 (r ++ pk ++ m)) 30
  let tree := natOfBytes ((dg.drop 21).take 7) % 2 ^ 54
  let leaf := natOfBytes (dg.drop 28) % 512
  let x : Adrs := { tree := tree, a := leaf }
  let fors := ((base2b (dg.take 21) 12 14).mapIdx fun i v =>
    let l := i * 4096 + v
    slhHash seed { x with typ := 6, c := l } k.seed ++ slhBeside (forsNode seed k x) l 12).flatten
  wordsOfBytes (r ++ fors ++ hyperSign seed k 7 0 tree leaf (forsPk seed x (dg.take 21) (slhParts fors 182)))

end Sys2Proof.Machine
end

