-- ==== Sys2Proof/Machine/Boot.lean ====
section
/-! DEFINITION. Boot, firmware images, OTP, keys for commands and transport, identity, attestation and the fault record as it is read
(14_modes_boot_and_trust R406–R417, R423, R424). -/

namespace Sys2Proof.Machine

/-! ### Images (R407, R408) -/

/-- Words a, …, b of an image. -/
def imgWords (img : Nat → W32) (a b : Nat) : List W32 := (List.range (b + 1 - a)).map fun i => img (a + i)

/-- Words of flash that nothing has programmed read as erased. -/
def flashWord (f : List (Nat × W32)) (i : Nat) : W32 := tget 0xFFFFFFFF#32 f i

/-- Checks 1 and 2: an image is present, and its header has the form of R407. -/
def headerErr (present : Bool) (img : Nat → W32) : Nat :=
  if !present then 1
  else
    let len := (img 4).toNat
    if img 0 = 0x41544746#32 && img 1 = 1#32 && decide ((img 3).toNat ≤ 64) && decide (len % 4 = 0 ∧ len ≤ 6291456) && img 5 = 0#32 && img 114 = 65537#32
      && (imgWords img 123 127).all fun w => w = 0#32 then 0 else 2

/-- The signer slot that holds the hash of the image's keys. -/
def signerOf (s : State) (img : Nat → W32) : Option Nat :=
  let h := sha384 (bytesOfWords (imgWords img 18 122))
  (List.range 3).find? fun k => (tget {} s.boot.slots k).programmed && (tget {} s.boot.slots k).hash = h

/-- The checks of R408 in their order: the LAST_ERR code of the first that fails, or 0, and the signer slot. -/
def imageCheck (s : State) (present : Bool) (img : Nat → W32) : Nat × Nat :=
  let h := headerErr present img
  if h ≠ 0 then (h, 0)
  else
    match signerOf s img with
    | none => (3, 0)
    | some k =>
      let head := imgWords img 0 127
      (if (tget {} s.boot.slots k).revoked then 4
       else if (img 3).toNat < s.boot.fuses then 5
       else if sha384 (bytesOfWords (imgWords img 2188 (2187 + (img 4).toNat / 4))) ≠ imgWords img 6 17 then 6
       else if !rsaPssOk (imgWords img 18 113) head (imgWords img 128 223) then 7
       else if !slhDsaOk (imgWords img 115 122) head (imgWords img 224 2187) then 8
       else 0, k)

def flashOf (s : State) (b : Bool) : List (Nat × W32) := if b then s.boot.flashB else s.boot.flashA
def flashHeader (s : State) (b : Bool) : Nat := headerErr (!(flashOf s b).isEmpty) (flashWord (flashOf s b))
def stagedWord (s : State) (i : Nat) : W32 := tget 0#32 s.boot.staged i

/-! ### The boot stages (R406) -/

/-- The copy that is read next: of the usable copies not yet read in full, the one with the greater FW_VERSION, A on a tie. -/
def nextCopy (s : State) : Option Bool :=
  let use := fun b => flashHeader s b = 0 && !s.boot.tried.contains (flag b)
  let ver := fun b => (flashWord (flashOf s b) 2).toNat
  if use false && use true then some (decide (ver false < ver true)) else if use false then some false else if use true then some true else none

/-- A failed check: LAST_ERR, and BOOT_AUTH where the last attempt failed by a check of keys, version, hash or signature and no image has been started. -/
def bootFail (code : Nat) (s : State) : State := s.onBoot fun v => { v with lastErr := code, bootAuth := v.rom && decide (3 ≤ code) }

/-- ROM_START_DONE: LOADING; with no usable copy the boot waits for the host, and LAST_ERR names the header of copy A (DEDUCED, log entry 46). -/
def romStartDone (s : State) : State :=
  if !(alive s && s.boot.rom && s.boot.stage = .romStart && !s.boot.stopped) then s
  else
    let s := s.onBoot fun v => { v with stage := .loading }
    match nextCopy s with
    | some _ => s
    | none => bootFail (flashHeader s false) (s.onBoot fun v => { v with stage := .waitHost })
def execRomStartDone (s : State) : Host.Outcome State Fault Refusal := ok (romStartDone s)

/-- A slot whose content does not match its hash (R420). -/
def badSlot (p : Option Profile) : Bool := match p with | some q => !q.valid | none => false
def countBadSlots (s : State) : State :=
  let a := badSlot s.store.slotA
  let b := badSlot s.store.slotB
  let s := if a then faultRecord 0x23 0 0 (note evModProfileBad 0 1 s) else s
  if b then faultRecord 0x23 1 0 (note evModProfileBad 0 1 s) else s

/-- Every word of every on-chip table with its reset value, and the golden copies with them (R11, R431, R434). -/
def sweepTables (s : State) : State :=
  let s := s.onAnvil fun v => { v with bankA := [], bankB := [], goldA := [], goldB := [], swUeNow := [], swUeRuns := [], swUeLast := [] }
  let s := (s.onCont fun v => { v with table := [], gold := [] }).onProt fun v => { v with cfg := [], gold := [] }
  let s := s.onSec fun v => { v with cfg := [], gold := [] }
  let s := s.onGrm fun v => { v with prog := [], rules := [], goldProg := [], goldRules := [], frag := [] }
  s.onFab fun v => { v with routes := [], routesDue := false }

/-- The KINDLE sweep: the tables, their check bits, the counters with the integrity status, the event mask and the filters (R11, R378, R431, R448, R449, R454).
The scrubber, which ran from reset, starts anew; the event log keeps its entries (DESIGN CHOICE, log entry 111). -/
def kindleSweep (s : State) : State :=
  sweepFilters (((sweepTables s).onEv fun v => { v with counters := [], clips := [], maskOff := [], bad := [] }).onPm (fun _ => {})
    |>.onInteg fun v => { ({} : IntegSt) with dbg := v.dbg, hbmOwner := v.hbmOwner })

/-- The retirements that the map holds, as (CODE, UNIT, DETAIL). -/
def retiredList (s : State) : List (Nat × Nat × Nat) :=
  (List.range 14).flatMap fun i =>
    (bitList 32 (s.store.retire.getD i 0#32).toNat).map fun b =>
      if i < 8 then (1, i / 2, i % 2 * 256 + b / 8 * 16 + b % 8) else if i < 10 then (2, 32 * (i - 8) + b, 0) else if i < 13 then (3, 4 * (i - 10) + b / 8, b % 8) else (4, b, 0)

/-- The retirement map is reapplied at the firmware start (R404, R402). -/
def reapplyRetired (s : State) : State :=
  let l := retiredList s
  let s := l.foldl (fun s x => dropResource x.1 x.2.1 x.2.2 s) s
  let s := s.onMode fun v => { v with retireDue := [], coresLost := (l.filter fun x => x.1 = 4).map fun x => x.2.1 }
  let s := if annealing s then s.onMode fun v => { v with rplc := true } else s
  if coresWorking s < 2 then declareFault .coreLoss s else s

/-- The keys of the latest valid slot, unwrapped, and the sequence numbers of R415. -/
def restoreKeys (s : State) : State :=
  let seq : W48 := BitVec.ofNat 48 (s.boot.bootCount.toNat % 65536 * 2 ^ 32)
  match latestProfile s with
  | none => s
  | some (_, p) => s.onKeys fun v => { v with
    ak := p.ak.filterMap fun x => (keyUnwrap Config.storeKey x.2.wrapped).map fun k => (x.1, { key := some k, level := x.2.level, seq := seq })
    tk := p.tk.filterMap fun x => (keyUnwrap Config.storeKey x.2.wrapped).map fun k => (x.1, k) }

/-- An image is started: FW_START. ADDR_MODE 1 comes into force here for its reset value (R200). -/
def startImage (source slot : Nat) (img : Nat → W32) (s : State) : State :=
  let s := s.onBoot fun v => { v with
    stage := .fwStart, rom := false, bootAuth := false, source := source, signer := slot, runSvn := BitVec.ofNat 8 (img 3).toNat, fwVersion := img 2
    runHead := (List.range 128).map fun i => (i, img i), bootCount := v.bootCount + 1#32, tried := [] }
  let s := restoreKeys (countBadSlots (reapplyRetired (kindleSweep s)))
  if addrMode s then s.onFab fun v => { v with waitSince := some s.stk.run } else s

/-- IMAGE_LOAD_DONE: the copy is read in full and checked. -/
def imageLoadDone (b : Bool) (s : State) : State :=
  if !(alive s && s.boot.rom && s.boot.stage = .loading && !s.boot.stopped && nextCopy s = some b) then s
  else
    let img := flashWord (flashOf s b)
    let c := imageCheck s true img
    if c.1 = 0 then startImage (1 + flag b) c.2 img s
    else
      let s := bootFail c.1 (s.onBoot fun v => { v with tried := v.tried ++ [flag b] })
      match nextCopy s with
      | some _ => s
      | none => s.onBoot fun v => { v with stage := .waitHost }
def execImageLoadDone (copy : Bool) (s : State) : Host.Outcome State Fault Refusal := ok (imageLoadDone copy s)

/-- The firmware runs in KINDLE at stage `g`. -/
def stageIs (g : BootStage) (s : State) : Bool := alive s && !s.boot.rom && s.mode.mode = .kindle && s.boot.stage = g

/-- FW_START_DONE: calibration begins with a judgement of VREF_EXT. Switch banks that failed their self-test are retired (R436). -/
def fwStartDone (badBanks : List Nat) (s : State) : State :=
  if !stageIs .fwStart s then s
  else
    let s := (badBanks.filter fun b => b < 34).foldl (fun s b => retireResource 2 b 0 s) s
    (s.onBoot fun v => { v with stage := .calibrating, calib := false }).onOpt fun v => { v with vrefDue := true }
def execFwStartDone (badBanks : List Nat) (s : State) : Host.Outcome State Fault Refusal := ok (fwStartDone badBanks s)

/-- Restoration applies at this boot (R421). -/
def restoresAtBoot (s : State) : Bool := match latestProfile s with | some (_, p) => p.restoreAtBoot | none => false

/-- The start-up calibration is complete: loops 6–8 of every transmitter in DARK and loops 0–2 of every receiver are within one step; a retired engine has none (R235, R243). -/
def calibrated (s : State) : Bool :=
  (List.range (engines s)).all fun e => (let x := txEng s e; x.retired || x.state ≠ .dark || famWithin x) && (let x := rxEng s e; x.retired || rxWithin x)

/-- KINDLE_CALIBRATION_DONE: RESTORING where restoration applies and the calibration was that of a boot, else READY. The transmitters hold loops 6–8 until they are enabled, and the receivers have their pins again (R235, R243). -/
def calibrationDone (s : State) : State :=
  if !stageIs .calibrating s || !calibrated s then s
  else
    let next := if !s.boot.calib && restoresAtBoot s then BootStage.restoring else .ready
    let s := (List.range 4).foldl (fun s e => onTxEng e (fun x => if x.state = .dark then { x with famHold := true } else x) s) s
    s.onBoot fun v => { v with stage := next, calib := false }
def execKindleCalibrationDone (s : State) : Host.Outcome State Fault Refusal := ok (calibrationDone s)

/-- RESTORE_DONE: the shadow state is loaded; the next row 0 is the restore stroke. -/
def execRestoreDone (s : State) : Host.Outcome State Fault Refusal :=
  ok (if stageIs .restoring s then s.onStore fun v => { v with restoreDue := true } else s)

/-! ### Staging, BOOT_EXEC, IMAGE_INSTALL (R411) -/

/-- IMAGE_STAGE. -/
def doImageStage (rq : Req) (s : State) : State :=
  let off := fld (rq.p 0) 20 0
  let ws := rq.params.drop 1
  command opImageStage rq
    { par := [countIn 2 4001 rq, onlyBits 0 0x801FFFFF#32 rq, wordOk 0 (decide (off + ws.length ≤ 1575052))] } s
    fun s => .done (s.onBoot fun v => { v with staged := tsetMany 0#32 (if bit (rq.p 0) 31 then [] else v.staged) off ws, stagedAny := true }) []
def execImageStage (rq : Req) (s : State) : Host.Outcome State Fault Refusal := ok (doImageStage rq s)

/-- The check of the staged image. -/
def stagedCheck (s : State) : Nat × Nat := imageCheck s s.boot.stagedAny (stagedWord s)

/-- BOOT_EXEC: refused from the firmware for the device's role; a failing image is recorded in LAST_ERR. -/
def doBootExec (rq : Req) (s : State) : State :=
  command opBootExec rq { role := [need s.boot.rom { st := .notPermitted, detail := 1 }], par := [countIs 0 rq] } s
    fun s =>
      let c := stagedCheck s
      if c.1 = 0 then .done (startImage 3 c.2 (stagedWord s) s) [] else .fail (bootFail c.1 s) { st := .badParam, detail := 0x8004 }
def execBootExec (rq : Req) (s : State) : Host.Outcome State Fault Refusal := ok (doBootExec rq s)

/-- IMAGE_INSTALL. A staged image that fails is recorded in LAST_ERR (R408), and ranks before the copy that runs and the queue that is full (R475). -/
def doImageInstall (rq : Req) (s : State) : State :=
  let b := bit (rq.p 0) 0
  command opImageInstall rq { par := [countIs 1 rq, onlyBits 0 0x00000001#32 rq] } s
    fun s =>
      let c := stagedCheck s
      if c.1 ≠ 0 then .fail (bootFail c.1 s) { st := .badParam, detail := 0x8004 }
      else if s.boot.source = 1 + flag b then .rej { st := .notPermitted, detail := 1 }
      else if s.boot.install.isSome then .rej { st := .busy, detail := 2 }
      else .wait (s.onBoot fun v => { v with install := some (b, v.staged, deferred opImageInstall rq s) })
def execImageInstall (rq : Req) (s : State) : Host.Outcome State Fault Refusal := ok (doImageInstall rq s)

/-- The words of a staged image as they stand in flash. -/
def flashImage (staged : List (Nat × W32)) : List (Nat × W32) :=
  let n := 2188 + (tget 0#32 staged 4).toNat / 4
  (List.range n).filterMap fun i => if tget 0#32 staged i = 0xFFFFFFFF#32 then none else some (i, tget 0#32 staged i)

/-- IMAGE_INSTALL_DONE. -/
def execImageInstallDone (s : State) : Host.Outcome State Fault Refusal :=
  ok (match s.boot.install with
    | none => s
    | some (b, img, d) =>
      replyDeferred d { st := .ok } [] (s.onBoot fun v =>
        if b then { v with install := none, flashB := flashImage img } else { v with install := none, flashA := flashImage img }))

/-! ### OTP (R409, R410) -/

def underAdminMac (rq : Req) : Check := need rq.mac.isSome { st := .notPermitted }
def signerObj (w : W32) : Nat := fld w 1 0
def onSigner (k : Nat) (f : SignerSlot → SignerSlot) (s : State) : State := s.onBoot fun v => { v with slots := tmod {} v.slots k f }

/-- SIGNER_SLOT_PROGRAM. -/
def doSignerSlotProgram (rq : Req) (s : State) : State :=
  let k := signerObj (rq.p 0)
  command opSignerSlotProgram rq
    { role := [underAdminMac rq],
      par := [countIs 13 rq, onlyBits 0 0x00000003#32 rq, wordOk 0 (decide (k < 3)), causeOk 0x8007 (!(tget {} s.boot.slots k).programmed)] } s
    fun s => .done (onSigner k (fun x => { x with hash := rq.params.drop 1, programmed := true }) s) []
def execSignerSlotProgram (rq : Req) (s : State) : Host.Outcome State Fault Refusal := ok (doSignerSlotProgram rq s)

/-- SIGNER_REVOKE. -/
def doSignerRevoke (rq : Req) (s : State) : State :=
  let k := signerObj (rq.p 0)
  command opSignerRevoke rq
    { role := [underAdminMac rq], par := [countIs 1 rq, onlyBits 0 0x00000003#32 rq, wordOk 0 (decide (k < 3))],
      late := [need (k ≠ s.boot.signer) { st := .notPermitted, detail := 1 }] } s
    fun s => .done (onSigner k (fun x => { x with revoked := true }) s) []
def execSignerRevoke (rq : Req) (s : State) : Host.Outcome State Fault Refusal := ok (doSignerRevoke rq s)

/-- ROLLBACK_ADVANCE. -/
def doRollbackAdvance (rq : Req) (s : State) : State :=
  command opRollbackAdvance rq
    { role := [underAdminMac rq], par := [countIs 0 rq], late := [need s.boot.rollback.isNone { st := .busy, detail := 2 }] } s
    fun s =>
      if s.boot.runSvn.toNat ≤ s.boot.fuses then .done s [BitVec.ofNat 32 s.boot.fuses]
      else .wait (s.onBoot fun v => { v with rollback := some (deferred opRollbackAdvance rq s) })
def execRollbackAdvance (rq : Req) (s : State) : Host.Outcome State Fault Refusal := ok (doRollbackAdvance rq s)

/-- ROLLBACK_ADVANCE_DONE: F equals the SVN of the running image. -/
def execRollbackAdvanceDone (s : State) : Host.Outcome State Fault Refusal :=
  ok (match s.boot.rollback with
    | none => s
    | some d => replyDeferred d { st := .ok } [BitVec.ofNat 32 s.boot.runSvn.toNat] (s.onBoot fun v => { v with rollback := none, fuses := v.runSvn.toNat }))

/-- SYS_RESTART: the reset follows at row 0 of the next stroke. -/
def doSysRestart (rq : Req) (s : State) : State :=
  command opSysRestart rq { par := [countIs 0 rq] } s fun s => .done (s.onBoot fun v => { v with restart := some s.stk.run }) []
def execSysRestart (rq : Req) (s : State) : Host.Outcome State Fault Refusal := ok (doSysRestart rq s)

/-- BOOT_STATUS. -/
def bootStageCode : BootStage → Nat
  | .romStart => 0 | .loading => 1 | .waitHost => 2 | .fwStart => 3 | .calibrating => 4 | .restoring => 5 | .ready => 6

def programmedBits (s : State) : Nat := bitsOf ((List.range 3).filter fun k => (tget {} s.boot.slots k).programmed)
def revokedBits (s : State) : Nat := bitsOf ((List.range 3).filter fun k => (tget {} s.boot.slots k).revoked)

def bootStatusWords (s : State) : List W32 :=
  [word [(bootStageCode s.boot.stage, 28), (s.boot.lastErr, 24), (flag s.boot.bootAuth, 23), (s.boot.source, 21), (s.boot.signer, 19), (programmedBits s, 16), (revokedBits s, 13),
     (s.boot.fuses, 0)], s.boot.bootCount, word [(s.boot.runSvn.toNat, 0)]]

/-- BOOT_STATUS_READ. -/
def doBootStatusRead (rq : Req) (s : State) : State :=
  command opBootStatusRead rq { par := [countIs 0 rq] } s fun s => .done s (bootStatusWords s)
def execBootStatusRead (rq : Req) (s : State) : Host.Outcome State Fault Refusal := ok (doBootStatusRead rq s)

/-! ### Keys (R413–R415) -/

/-- The modulus of the RSA identity key: words 2–97 of ID_READ (R416). -/
def identityModulus : List W32 := (List.range 96).map fun i => Config.identity (2 + i)

/-- PK_SET. Parameter word 0 is reserved (DEDUCED, log entry 47). -/
def doPkSet (rq : Req) (s : State) : State :=
  command opPkSet rq { par := [countIs 97 rq, onlyBits 0 0#32 rq] } s
    fun s =>
      match oaepDecrypt identityModulus Config.rsaPrivate (rq.params.drop 1) with
      | none => .rej { st := .badParam, detail := 0x8005 }
      | some k => .done (s.onKeys fun v => { v with pk := some k }) []
def execPkSet (rq : Req) (s : State) : Host.Outcome State Fault Refusal := ok (doPkSet rq s)

/-- The wrapping key that WRAP names. -/
def wrapKey (s : State) (n : Nat) : Option (BitVec 256) := if n = 4 then s.keys.pk else tkOf s n

/-- The command would leave no slot bound to ADMIN while PROVISIONED is 1. -/
def losesAdmin (a level : Nat) (s : State) : Bool :=
  provisioned s && decide (level ≠ 3) && !(List.range 8).any fun n => n ≠ a && (akOf s n).key.isSome && (akOf s n).level = 3

def authLoadAct (rq : Req) (s : State) : Except Rej State :=
  let a := fld (rq.p 0) 2 0
  let l := fld (rq.p 0) 9 8
  if losesAdmin a l s then .error { st := .notPermitted, detail := 1 }
  else if l = 0 then .ok (s.onKeys fun v => { v with ak := tset {} v.ak a {} })
  else
    match unwrapWords rq (wrapKey s (fld (rq.p 1) 2 0)) with
    | .error r => .error r
    | .ok key => .ok (s.onKeys fun v => { v with ak := tset {} v.ak a { key := some key, level := l } })

/-- AUTH_KEY_LOAD. -/
def doAuthKeyLoad (rq : Req) (s : State) : State :=
  let l := fld (rq.p 0) 9 8
  command opAuthKeyLoad rq
    { par := [countIs (if l = 0 then 2 else 12) rq, onlyBits 0 0x00000307#32 rq, onlyBits 1 0x00000007#32 rq, wordOk 1 (decide (fld (rq.p 1) 2 0 ≤ 4))],
      late := [need (!losesAdmin (fld (rq.p 0) 2 0) l s) { st := .notPermitted, detail := 1 }] } s (withKeyLock opAuthKeyLoad rq)
def execAuthKeyLoad (rq : Req) (s : State) : Host.Outcome State Fault Refusal := ok (doAuthKeyLoad rq s)

def setTk (t : Nat) (k : Option (BitVec 256)) (s : State) : State :=
  s.onKeys fun v => { v with tk := (List.range 4).filterMap fun i => (if i = t then k else tkOf s i).map fun x => (i, x) }

def tkLoadAct (rq : Req) (s : State) : Except Rej State :=
  let t := fld (rq.p 0) 1 0
  let w := fld (rq.p 1) 2 0
  if bit (rq.p 0) 8 then .ok (setTk t none s)
  else
    match unwrapWords rq (if w = t then none else wrapKey s w) with
    | .error r => .error r
    | .ok key => .ok (setTk t (some key) s)

/-- TK_LOAD. -/
def doTkLoad (rq : Req) (s : State) : State :=
  command opTkLoad rq
    { par := [countIs (if bit (rq.p 0) 8 then 2 else 12) rq, onlyBits 0 0x00000103#32 rq, onlyBits 1 0x00000007#32 rq, wordOk 1 (decide (fld (rq.p 1) 2 0 ≤ 4))] } s
    (withKeyLock opTkLoad rq)
def execTkLoad (rq : Req) (s : State) : Host.Outcome State Fault Refusal := ok (doTkLoad rq s)

def keySlotWords (s : State) : List W32 :=
  word ([(flag s.keys.pk.isSome, 20), (bitsOf ((List.range 4).filter fun t => (tkOf s t).isSome), 16)]
      ++ (List.range 8).map fun a => (if (akOf s a).key.isSome then (akOf s a).level else 0, 2 * a))
    :: (List.range 8).flatMap fun a => [word [(hi16 (akOf s a).seq, 0)], BitVec.ofNat 32 (lo32 (akOf s a).seq)]

/-- KEY_SLOTS_READ. -/
def doKeySlotsRead (rq : Req) (s : State) : State :=
  command opKeySlotsRead rq { par := [countIs 0 rq] } s fun s => .done s (keySlotWords s)
def execKeySlotsRead (rq : Req) (s : State) : Host.Outcome State Fault Refusal := ok (doKeySlotsRead rq s)

/-! ### KEY_LOCK (R367, R369) -/

/-- What the sequence of a key-service command does. -/
def keyAct (d : Deferred) (s : State) : Except Rej State :=
  if d.opcode = opKeyLoad.code then keyLoadAct d.req s
  else if d.opcode = opKeyClear.code then keyClearAct d.req s
  else if d.opcode = opAuthKeyLoad.code then authLoadAct d.req s
  else tkLoadAct d.req s

/-- A STORE that ends without its slot written. -/
def storeEnds (d : Deferred) (s : State) : State := if d.opcode = opStore.code then s.onStore fun v => { v with store := none } else s

/-- KEY_LOCK_GRANT: the sequence that has waited longest takes KEY_LOCK, as the profile store service for STORE and as the key service for the others (R367). -/
def keyLockGrant (s : State) : State :=
  match s.sec.wait with
  | [] => s
  | w :: r =>
    if s.sec.owner ≠ 0 then s
    else
      let s := s.onSec fun v => { v with wait := r }
      if s.sec.keFailed then internalReply w.cmd (storeEnds w.cmd s)
      else if w.cmd.opcode = opStore.code then s.onSec fun v => { v with owner := 6, held := 0 }
      else keyServiceTake w.cmd s
def execKeyLockGrant (s : State) : Host.Outcome State Fault Refusal := ok (keyLockGrant s)

/-- The end of the sequence that holds KEY_LOCK: a key-service sequence ends with its effect and its reply, the wrapping of the secrets once they
are captured; each at the end of a stroke, unless it is `stuck` (R369; DESIGN CHOICE, log entry 122). -/
def keySequenceEnd (stuck : Bool) (s : State) : State :=
  if stuck then s
  else match s.sec.seq with
    | some d =>
      let s := keyRelease s
      if s.sec.keFailed then internalReply d s
      else match keyAct d s with
        | .ok s' => replyDeferred d { st := .ok } [] s'
        | .error e => replyDeferred d e [] s
    | none =>
      match s.store.store with
      | some r => if s.sec.owner = 6 && r.content.isSome then keyRelease (s.onStore fun v => { v with store := some { r with wrapped := true } }) else s
      | none => s

/-- KEY_LOCK_WAIT_EXPIRY: commands that have waited 5,000 strokes return BUSY. -/
def keyWaitExpiry : List KeyWait → State → State
  | [], s => s
  | w :: r, s =>
    keyWaitExpiry r (if w.since + 5000 ≤ s.stk.run then
      replyDeferred w.cmd { st := .busy, detail := 2 } [] (storeEnds w.cmd (s.onSec fun v => { v with wait := del v.wait w })) else s)
def execKeyLockWaitExpiry (s : State) : Host.Outcome State Fault Refusal := ok (keyWaitExpiry s.sec.wait s)

/-- KEY_LOCK_TIMEOUT: the sequence that has held KEY_LOCK for more than 500 strokes is aborted, and the command that started it returns INTERNAL (R369). -/
def keyLockTimeout (s : State) : State :=
  if s.sec.owner = 0 || s.sec.held ≤ 500 then s
  else
    let cmd := match s.sec.seq with | some d => some d | none => s.store.store.map fun r => r.cmd
    let s := note evKeKeyLockTimeout 0 1 (keyRelease s)
    match cmd with
    | some d => internalReply d (storeEnds d s)
    | none => s
def execKeyLockTimeout (s : State) : Host.Outcome State Fault Refusal := ok (keyLockTimeout s)

/-! ### Identity and attestation (R416, R417) -/

def uidWords (s : State) : List W32 := [BitVec.ofNat 32 (s.fused.uid.toNat >>> 32), BitVec.ofNat 32 s.fused.uid.toNat]

/-- ID_READ. -/
def doIdRead (rq : Req) (s : State) : State :=
  command opIdRead rq { par := [countIs 0 rq] } s fun s => .done s (uidWords s ++ (List.range 2165).map fun i => Config.identity (2 + i))
def execIdRead (rq : Req) (s : State) : Host.Outcome State Fault Refusal := ok (doIdRead rq s)

/-- The attestation report body, words 0–69. -/
def attestBody (nonce : List W32) (s : State) : List W32 :=
  let st := (sysStatusWords s).getD 0 0#32
  let p := latestProfile s
  let seq := s.stk.scnt
  [word [(1, 28), (fld st 31 24 / 16, 24), (fld st 27 24, 20), (fld st 23 23, 19), (fld st 21 21, 18), (fld st 20 20, 17)]] ++ uidWords s ++ [(capsWords s).getD 0 0#32,
     word [(hi16 seq, 0)], BitVec.ofNat 32 (lo32 seq)]
    ++ (List.range 8).map (fun i => nonce.getD i 0#32) ++ (List.range 12).map Config.romHash
    ++ sha384 (bytesOfWords ((List.range 128).map fun i => tget 0#32 s.boot.runHead i))
    ++ [s.boot.fwVersion, word [(s.boot.runSvn.toNat, 24), (s.boot.fuses, 16), (s.boot.signer, 14), (revokedBits s, 11), (programmedBits s, 8)]]
    ++ (List.range 12).map (fun i => match p with | some (_, q) => q.hash.getD i 0#32 | none => 0#32)
    ++ [match p with | some (_, q) => q.seq | none => 0#32] ++ retireWords s
    ++ [word [(s.store.record.length, 0)], s.boot.bootCount, 0#32]

/-- The private half of the SLH-DSA identity key. -/
def identitySecret : SlhSecret := { seed := (List.range 16).map Config.slhPrivate, prf := (List.range 16).map fun i => Config.slhPrivate (16 + i) }

/-- A report with its two signatures under the identity keys, whose public halves are words 2–97 and 99–106 of ID_READ. The salt and the randomizer are a free value. -/
def signedReport (ws : List W32) (s : State) : List W32 :=
  let rnd := bytesOfNat 64 (freeNat s)
  ws ++ rsaPssSign identityModulus Config.rsaPrivate ws (rnd.take 48) ++ slhDsaSign ((List.range 8).map fun i => Config.identity (99 + i)) identitySecret (rnd.drop 48) ws

/-- ATTEST: a long operation. -/
def doAttest (rq : Req) (s : State) : State :=
  command opAttest rq { par := [countIs 8 rq] } s fun s => .wait (s.onStore fun v => { v with attest := v.attest ++ [deferred opAttest rq s] })
def execAttest (rq : Req) (s : State) : Host.Outcome State Fault Refusal := ok (doAttest rq s)

/-- ATTEST_DONE: the report, with SCNT at signing. -/
def execAttestDone (s : State) : Host.Outcome State Fault Refusal :=
  ok (match s.store.attest with
    | [] => s
    | d :: r => replyDeferred d { st := .ok } (signedReport (attestBody d.req.params s) s) (drawn (s.onStore fun v => { v with attest := r })))

/-! ### The fault record as it is read (R423, R424) -/

/-- Entry `i` of the record, 0 the oldest held; 0 beyond those held. -/
def faultEntryWords (s : State) (i : Nat) : List W32 :=
  match s.store.record[i]? with
  | some e => faultWords e
  | none => List.replicate 8 0#32

/-- FAULT_READ. -/
def doFaultRead (rq : Req) (s : State) : State :=
  let f := fld (rq.p 0) 5 0
  let n := fld (rq.p 0) 13 8 + 1
  command opFaultRead rq { par := [countIs 1 rq, onlyBits 0 0x00003F3F#32 rq, wordOk 0 (decide (f + n ≤ 64))] } s
    fun s => .done s ((List.range n).flatMap fun i => faultEntryWords s (f + i))
def execFaultRead (rq : Req) (s : State) : Host.Outcome State Fault Refusal := ok (doFaultRead rq s)

/-- FAULT_EXPORT. -/
def doFaultExport (rq : Req) (s : State) : State :=
  command opFaultExport rq { par := [countIs 8 rq] } s
    fun s => .done (drawn s) (signedReport (attestBody rq.params s ++ ((List.range 64).flatMap fun i => faultEntryWords s i) ++ retireWords s) s)
def execFaultExport (rq : Req) (s : State) : Host.Outcome State Fault Refusal := ok (doFaultExport rq s)

/-- RETIRE_READ. -/
def doRetireRead (rq : Req) (s : State) : State :=
  command opRetireRead rq { par := [countIs 0 rq] } s fun s => .done s (retireWords s)
def execRetireRead (rq : Req) (s : State) : Host.Outcome State Fault Refusal := ok (doRetireRead rq s)

end Sys2Proof.Machine
end

