-- ==== Sys2Proof/Machine/Commits.lean ====
section
/-! DEFINITION. The writes that take effect at a row 0 (R12, R25, R35), and the profile store: STORE, PROFILE_RESTORE, PROFILE_ERASE
(14_modes_boot_and_trust R418–R422). -/

namespace Sys2Proof.Machine

/-! ### Commits at their row 0 -/

/-- CL_PORT_CFG at its row 0: a port that is no longer an enabled groomed one drops its packets and what its slots hold (R23). -/
def commitClPort (c : Commit) (s : State) : State :=
  let p := cliObj (c.p 0)
  let was := groomedPort s p
  let s := applyClPort c s
  if was && !groomedPort s p then groomPortOff p s else s

def winObj (w : W32) : Nat := fld w 12 8 * 16 + fld w 3 0

/-- WIN_CFG at its row 0: a new enable, and a change of WINDOW or EVENT_ID of an enabled counter, wait for the first window; disabling discards the window in progress. -/
def applyWinCfg (c : Commit) (s : State) : State :=
  let en := bit (c.p 1) 31
  let n := fld (c.p 1) 15 0
  let id := (c.p 2).toNat
  s.onEv fun v => { v with win := tmod {} v.win (winObj (c.p 0)) fun w =>
    if !en then { w with enable := false, window := n, id := id, base := none }
    else if w.enable && w.window = n && w.id = id then w
    else { w with enable := true, window := n, id := id, base := none, valid := false } }

/-- What every opcode with CMT fields does at its row 0, but for STROKE_JOIN, which acts on the stroke number, and PROFILE_RESTORE. -/
def commitOps : List (Nat × (Commit → State → State)) :=
  [(opStrokeCfg.code, applyStrokeCfg), (opRefCfg.code, applyRefCfg), (opRefForce.code, applyRefForce), (opClkCfg.code, applyClkCfg),
   (opMapCommit.code, fun _ s => applyMapCommit s), (opContCfg.code, applyContCfg), (opBaCfg.code, applyBaCfg), (opErrInject.code, applyErrInject),
   (opPgCfg.code, applyPgCfg), (opPgCmd.code, applyPgCmd), (opAlnRealign.code, applyAlnRealign),
   (opFabCfg.code, applyFabCfg), (opFabPortCfg.code, applyFabPortCfg),
   (opTxCfg.code, applyTxCfg), (opTxPreemph.code, applyTxPreemph), (opLineBondCfg.code, applyLineBondCfg), (opTxCalCfg.code, applyTxCalCfg),
   (opRxCfg.code, applyRxCfg), (opRxReacquire.code, applyRxReacquire),
   (opLineOhCfg.code, applyLineOhCfg), (opLineTtiWrite.code, applyLineTtiWrite), (opLineRealign.code, applyLineRealign),
   (opClPortCfg.code, commitClPort), (opFlexoTribCfg.code, applyTrib), (opLaneCfg.code, applyLaneCfg),
   (opGroomCfg.code, applyGroomCfg), (opSlotCfg.code, applySlotCfg), (opRuleCommit.code, fun _ s => applyRuleCommit s),
   (opSecCfg.code, applySecCfg), (opKeySwitch.code, applyKeySwitch), (opSecClearLoss.code, applySecClearLoss),
   (opHkCfg.code, applyHkCfg), (opHkTrigger.code, applyHkTrigger), (opOutCfg.code, applyOutCfg), (opBlCfg.code, applyBlCfg),
   (opModeSet.code, applyModeSet), (opModeCfg.code, applyModeCfg),
   (opPmSnap.code, fun _ s => s.onPm fun v => { v with snapAsked := true }), (opWinCfg.code, applyWinCfg)]

/-- A write at its row 0. -/
def applyOp (c : Commit) (s : State) : State :=
  match commitOps.find? fun x => x.1 = c.opcode with
  | some x => x.2 c s
  | none => s

/-! ### The content of a profile (R419) -/

def txIds (s : State) : List Nat := List.range (engines s)

/-- The values in force, as a profile holds them, the keys wrapped (R366). The size and the hash of the content are not derivable from the spec and are free (log entry 48). -/
def captureProfile (s : State) (restoreAtBoot : Bool) : Profile :=
  { valid := true, restoreAtBoot := restoreAtBoot
    kib := freeNat s
    hash := (List.range 12).map fun i => BitVec.ofNat 32 (Config.freeValue (s.free + 1 + i))
    map := (activeBank s).filter fun x => entType x.2 ≠ 0
    cont := s.cont.table, pg := s.prot.cfg, refCfg := s.clk.refCfg, clk := [s.clk.clk0, s.clk.clk1, s.clk.clk2], stroke := [s.stk.cfg0, s.stk.cfg1]
    levels := s.cmd.levels, queue := [s.cmd.fwdTimeout, s.cmd.intMask, word [(flag s.cmd.intPinEn, 0)]]
    policy := [unauthWord s.cmd.unauth, word [(flag s.cmd.obsCounters, 0)]]
    modeCfg := s.mode.cfg, mode := baseMode s, fab := s.fab.cfg, fabPort := s.fab.portCfg
    tx := (txIds s).map fun e => (e, (txEng s e).cfg), txPre := (txIds s).map fun e => (e, preWords s e)
    txTarget := (txIds s).map fun e => (e, (txEng s e).calTarget), bond := s.tx.bond
    rx := (txIds s).map fun e => (e, (rxEng s e).cfg), oh := (txIds s).map fun e => (e, (otnOf s e).oh)
    tti := (txIds s).flatMap fun e => (List.range 2).flatMap fun l => [(4 * e + l, ttiWords (otnOf s e).ttiTx l), (4 * e + 2 + l, ttiWords (otnOf s e).ttiExp l)]
    cliPort := s.cli.portCfg, trib := s.cli.trib
    lane := (s.cli.lane.map fun x => (x.1, (x.2.cfg1, x.2.cfg2))) ++ s.cli.flane.map fun x => (64 + x.1, (x.2.cfg1, x.2.cfg2))
    groom := s.grm.cfg, slot := s.grm.slotCfg
    prog := (s.grm.prog.filter fun x => x.1 / 256 = bankOf s.grm.activeIs1).map fun x => (x.1 % 256, x.2)
    rules := (bankRules s s.grm.activeIs1).filter fun x => bit (x.2.getD 16 0#32) 31
    sec := s.sec.cfg, hk := (List.range 2).map fun c => (c, (hkOf s c).cfg)
    out := (List.range 40).map fun n => (n, ((outOf s n).cfg1, outCfg2 s n)), bl := (List.range 8).map fun l => (l, (blOf s l).cfg)
    i2c := (List.range 4).map fun m => (m, (i2cOf s m).cfg)
    ak := s.keys.ak.filterMap fun x => x.2.key.map fun k => (x.1, { level := x.2.level, wrapped := keyWrap Config.storeKey k })
    tk := s.keys.tk.map fun x => (x.1, { wrapped := keyWrap Config.storeKey x.2 }) }

/-! ### Restoration (R421) -/

/-- Indices that a table in force or the stored one lists. -/
def bothIds {α β : Type} (a : List (Nat × α)) (b : List (Nat × β)) : List Nat := (a.map Prod.fst ++ b.map Prod.fst).dedup

def wr (o : OpInfo) (ps : List W32) : Commit := { opcode := o.code, params := ps }
def num (n : Nat) : W32 := BitVec.ofNat 32 n

/-- The writes that put the stored configuration in force, in an order in which each finds what it rests on. -/
def profileWrites (p : Profile) (s : State) : List Commit :=
  (List.range 24).map (fun c => wr opRefCfg [num c, tget 0x0F000900#32 p.refCfg c])
  ++ [wr opClkCfg p.clk, wr opStrokeCfg p.stroke, wr opModeCfg [p.modeCfg], wr opFabCfg [p.fab]]
  ++ (List.range 12).map (fun i => wr opFabPortCfg (num i :: tget fabPortReset p.fabPort i))
  ++ [wr opLineBondCfg [p.bond]]
  ++ p.tx.map (fun x => wr opTxCfg (num x.1 :: x.2))
  ++ p.txPre.map (fun x => wr opTxPreemph (num x.1 :: x.2))
  ++ p.txTarget.flatMap (fun x => (List.range 6).map fun l =>
      wr opTxCalCfg [num x.1, word [(l, 28), (tget 1 (txEng s x.1).calMode l, 26), (unsigned 16 (tget 0 x.2 l), 0)]])
  ++ p.rx.map (fun x => wr opRxCfg (num x.1 :: x.2))
  ++ p.oh.map (fun x => wr opLineOhCfg (num x.1 :: x.2))
  ++ p.tti.map (fun x => wr opLineTtiWrite (word [(x.1 / 4, 0), (x.1 % 2, 8), (x.1 / 2 % 2, 9)] :: x.2))
  ++ (bothIds s.cli.portCfg p.cliPort).map (fun i => wr opClPortCfg [num i, tget 0x01000000#32 p.cliPort i])
  ++ (bothIds s.cli.trib p.trib).map (fun i => wr opFlexoTribCfg [word [(i / 16, 0), (i % 16, 8)], (tget (0#32, 0#32) p.trib i).1, (tget (0#32, 0#32) p.trib i).2])
  ++ (s.cli.lane.map Prod.fst ++ s.cli.flane.map (fun (x : Nat × LaneSt) => 64 + x.1) ++ p.lane.map Prod.fst).dedup.map (fun n =>
      let d := if n < 48 then ({} : LaneSt) else fabLaneReset
      let w := tget (d.cfg1, d.cfg2) p.lane n
      wr opLaneCfg [num n, w.1, w.2])
  ++ (bothIds s.cont.table p.cont).map (fun c => let e := tget {} p.cont c; wr opContCfg (num c :: e.words ++ e.runs))
  ++ (bothIds s.prot.cfg p.pg).map (fun g => wr opPgCfg (num g :: tget pgReset p.pg g))
  ++ [wr opGroomCfg p.groom]
  ++ (bothIds s.grm.slotCfg p.slot).map (fun g => let w := tget slotReset p.slot g; wr opSlotCfg [num g, w.1, w.2])
  ++ (bothIds s.sec.cfg p.sec).map (fun k => wr opSecCfg (num k :: tget secDefault p.sec k))
  ++ p.hk.map (fun x => wr opHkCfg (num x.1 :: x.2))
  ++ p.out.map (fun x => wr opOutCfg [num x.1, x.2.1, x.2.2])
  ++ p.bl.map (fun x => wr opBlCfg (num x.1 :: x.2))

def applyAll : List Commit → State → State
  | [], s => s
  | c :: r, s => applyAll r (applyOp c s)

/-- Both map banks hold the restored map, and the shadow is SYNCED. -/
def restoreMap (p : Profile) (s : State) : State :=
  (cleanWords 1 0 524288 (cleanWords 0 0 524288 s)).onAnvil fun v =>
    { v with bankA := p.map, bankB := p.map, goldA := p.map, goldB := p.map, shadow := .synced, shedLimit := none }

/-- PENDING equals ACTIVE and is SYNCED. -/
def restoreGroom (p : Profile) (s : State) : State :=
  let prog := p.prog ++ p.prog.map fun x => (256 + x.1, x.2)
  let rules := p.rules ++ p.rules.map fun x => (65536 + x.1, x.2)
  let s := cleanWords 9 0 256 (cleanWords 8 0 256 (cleanWords 7 0 1114112 (cleanWords 6 0 1114112 s)))
  s.onGrm fun v => { v with prog := prog, goldProg := prog, rules := rules, goldRules := rules, pend := .synced }

/-- The stored values that are written without a commit. -/
def restoreDirect (p : Profile) (s : State) : State :=
  let s := s.onCmd fun v => { v with
    levels := p.levels, fwdTimeout := p.queue.getD 0 0#32, intMask := p.queue.getD 1 0#32, intPinEn := bit (p.queue.getD 2 0#32) 0
    unauth := unauthOf (p.policy.getD 0 0#32), obsCounters := bit (p.policy.getD 1 0#32) 0 }
  p.i2c.foldl (fun s x => onI2c x.1 (fun i => { i with cfg := x.2 }) s) s

/-- Restoration: everything in force at one row 0, then the stored mode. -/
def restoreProfile (p : Profile) (s : State) : State :=
  let m := restoredMode p s
  let s := applyAll (profileWrites p s) (restoreDirect p (restoreGroom p (restoreMap p s)))
  let s := enterMode m (if m = p.mode then s else note evModProfileModeFallback 0 1 s)
  let s := shedIfNeeded s
  (s.onStore fun v => { v with restored := true, restoreDue := false }).onBoot fun v => { v with stage := .ready }

/-- The restore stroke of a boot. A QUENCH that came first has stopped the boot (R400). -/
def restoreRow0 (s : State) : State :=
  if s.store.restoreDue && !inQuench s then
    match latestProfile s with
    | some (_, p) => restoreProfile p s
    | none => s.onStore fun v => { v with restoreDue := false }
  else s

/-- PROFILE_RESTORE: MODE_REFUSED in any state but KINDLE at READY. With no valid profile there is nothing to restore (DEDUCED, log entry 49). -/
def doProfileRestore (rq : Req) (s : State) : State :=
  command opProfileRestore rq
    { par := [countIs 0 rq], late := [need (kindleReady s) { st := .modeRefused }, causeOk 0x8007 (latestProfile s).isSome] } s (commitOnly opProfileRestore rq)
def execProfileRestore (rq : Req) (s : State) : Host.Outcome State Fault Refusal := ok (doProfileRestore rq s)

/-- PROFILE_RESTORE at its row 0, while the device is still in KINDLE at READY. -/
def applyProfileRestore (s : State) : State :=
  if !kindleReady s then s
  else match latestProfile s with
    | some (_, p) => restoreProfile p s
    | none => s

/-- A write that is due at a row 0. -/
def applyCommit (c : Commit) (s : State) : State := if c.opcode = opProfileRestore.code then applyProfileRestore s else applyOp c s

/-- What each opcode that writes fields names by its first two parameter words: two of these writes with the same names write the same fields. The others act on what is there. -/
def writeNames : List (Nat × W32 × W32) :=
  [(opStrokeCfg.code, 0#32, 0#32), (opRefCfg.code, 0x1F#32, 0#32), (opRefForce.code, 0#32, 0#32), (opClkCfg.code, 0#32, 0#32),
   (opContCfg.code, 0x3FFF#32, 0#32), (opBaCfg.code, 0xF#32, 0#32), (opPgCfg.code, 0x3FF#32, 0#32), (opFabCfg.code, 0#32, 0#32), (opFabPortCfg.code, 0xF#32, 0#32),
   (opTxCfg.code, 0x3#32, 0#32), (opTxPreemph.code, 0x3#32, 0#32), (opLineBondCfg.code, 0#32, 0#32), (opTxCalCfg.code, 0x3#32, 0xF0000000#32), (opRxCfg.code, 0x3#32, 0#32),
   (opLineOhCfg.code, 0x3#32, 0#32), (opLineTtiWrite.code, 0x303#32, 0#32), (opClPortCfg.code, 0x3F#32, 0#32), (opFlexoTribCfg.code, 0xF3F#32, 0#32), (opLaneCfg.code, 0xFF#32, 0#32),
   (opGroomCfg.code, 0#32, 0#32), (opSlotCfg.code, 0x3FF#32, 0#32), (opSecCfg.code, 0x3FF#32, 0#32),
   (opHkCfg.code, 0x1#32, 0#32), (opOutCfg.code, 0x3F#32, 0#32), (opBlCfg.code, 0x7#32, 0#32), (opModeSet.code, 0#32, 0#32), (opModeCfg.code, 0#32, 0#32),
   (opWinCfg.code, 0x1F0F#32, 0#32)]

/-- The fields that an entry writes: its opcode and the object it names; none for an entry that acts. -/
def writeTarget (c : Commit) : Option (Nat × W32 × W32) :=
  (writeNames.find? fun x => x.1 = c.opcode).map fun x => (x.1, c.p 0 &&& x.2.1, c.p 1 &&& x.2.2)

/-- The entries of one row 0 that come into force: of several that write the same fields the one executed last (R25). -/
def inForce : List Commit → List Commit
  | [] => []
  | c :: r => if (writeTarget c).isSome && r.any (fun d => writeTarget d = writeTarget c) then inForce r else c :: inForce r

/-- An entry that acts on an object under the values in force for it. -/
def actsOnObject (c : Commit) : Bool :=
  [opErrInject.code, opPgCmd.code, opAlnRealign.code, opRxReacquire.code, opLineRealign.code, opKeySwitch.code, opSecClearLoss.code, opHkTrigger.code].contains c.opcode

/-- The entries of one row 0 as they are applied: every unit works under the new values (R35), so that those which act on an object follow those which write fields (DEDUCED, log entry 120). -/
def dueOrder (l : List Commit) : List Commit := (inForce l).filter (fun c => !actsOnObject c) ++ (inForce l).filter actsOnObject

/-- The writes in force from row 0 of the stroke that begins (R25, R35). -/
def applyCommits : List Commit → State → State
  | [], s => s
  | c :: r, s => applyCommits r (applyCommit c s)

def commitsRow0 (s : State) : State :=
  let due := s.commits.filter (isDue s.stk.scnt)
  applyCommits (dueOrder due) (s.onCommits fun l => l.filter fun c => !isDue s.stk.scnt c)

/-! ### STORE and PROFILE_ERASE (R419, R422) -/

def storeBusy (s : State) : Check := need (s.store.store.isNone && s.store.erase.isNone) { st := .busy, detail := 2 }

/-- The slot that does not hold the latest valid profile; with none valid, slot A (DESIGN CHOICE, log entry 48). -/
def targetB (s : State) : Bool := match latestProfile s with | some (b, _) => !b | none => false

def slotCount (s : State) (b : Bool) : Nat := if b then s.store.countB.toNat else s.store.countA.toNat

/-- STORE takes KEY_LOCK for the wrapping of the secrets, as owner 6, or waits for it (R367, R369). -/
def doStore (rq : Req) (s : State) : State :=
  command opStore rq
    { unit := [need (decide (slotCount s (targetB s) < 10000)) { st := .retired }], par := [countIs 1 rq, onlyBits 0 0x00000001#32 rq], late := [storeBusy s] } s
    fun s =>
      if s.sec.keFailed then internalAnswer opStore s
      else
        let d := deferred opStore rq s
        let s := s.onStore fun v => { v with store := some { cmd := d, restoreAtBoot := bit (rq.p 0) 0, toB := targetB s } }
        .wait (if s.sec.owner = 0 then s.onSec fun v => { v with owner := 6, held := 0 } else keyWaits d s)
def execStore (rq : Req) (s : State) : Host.Outcome State Fault Refusal := ok (doStore rq s)

/-- The capture at row 0 of the stroke after the execution, after the commits of that stroke. -/
def storeRow0 (s : State) : State :=
  match s.store.store with
  | none => s
  | some r =>
    if r.content.isSome then s
    else
      let free := fun (s : State) => if s.sec.owner = 6 then keyRelease s else s.onSec fun v => { v with wait := v.wait.filter fun w => w.cmd.opcode ≠ opStore.code }
      if s.sec.keFailed then free (internalReply r.cmd (s.onStore fun v => { v with store := none }))
      else
        let p := captureProfile s r.restoreAtBoot
        let s := s.onFree (· + 13)
        if 3840 < p.kib then free (replyDeferred r.cmd { st := .capacity, detail := 2 } [] (s.onStore fun v => { v with store := none }))
        else s.onStore fun v => { v with store := some { r with content := some p } }

def putProfile (b : Bool) (p : Option Profile) (s : State) : State :=
  s.onStore fun v => if b then { v with slotB := p, countB := v.countB + 1#16 } else { v with slotA := p, countA := v.countA + 1#16 }

/-- SEQ of the latest valid slot, 0 without one. -/
def latestSeq (s : State) : W32 := match latestProfile s with | some (_, p) => p.seq | none => 0#32

/-- STORE_DONE: the secrets are wrapped, and the header is written. -/
def storeDone (s : State) : State :=
  match s.store.store with
  | none => s
  | some r =>
    match r.content with
    | none => s
    | some p =>
      if !r.wrapped then s
      else replyDeferred r.cmd { st := .ok } [] (putProfile r.toB (some { p with seq := latestSeq s + 1#32 }) (s.onStore fun v => { v with store := none }))
def execStoreDone (s : State) : Host.Outcome State Fault Refusal := ok (storeDone s)

/-- STORE_STATUS words 0–14. -/
def storeStatusWords (s : State) : List W32 :=
  let l := latestProfile s
  let ok := fun (p : Option Profile) => match p with | some q => q.valid | none => false
  [word [(flag (s.store.store.isSome || s.store.erase.isSome), 31), (match l with | some (b, _) => flag b | none => 0, 30), (flag (ok s.store.slotA), 29), (flag (ok s.store.slotB), 28),
      (flag s.store.restored, 27), (match l with | some (_, p) => flag p.restoreAtBoot | none => 0, 26), (match l with | some (_, p) => p.kib | none => 0, 0)],
   latestSeq s, word [(s.store.countA.toNat, 16), (s.store.countB.toNat, 0)]]
  ++ (List.range 12).map fun i => match l with | some (_, p) => p.hash.getD i 0#32 | none => 0#32

/-- STORE_STATUS_READ. -/
def doStoreStatusRead (rq : Req) (s : State) : State :=
  command opStoreStatusRead rq { par := [countIs 0 rq] } s fun s => .done s (storeStatusWords s)
def execStoreStatusRead (rq : Req) (s : State) : Host.Outcome State Fault Refusal := ok (doStoreStatusRead rq s)

/-- PROFILE_ERASE: the work ends at PROFILE_ERASE_DONE (DESIGN CHOICE, log entry 44). -/
def doProfileErase (rq : Req) (s : State) : State :=
  command opProfileErase rq { par := [countIs 0 rq], late := [storeBusy s] } s
    fun s => .wait (s.onStore fun v => { v with erase := some (deferred opProfileErase rq s) })
def execProfileErase (rq : Req) (s : State) : Host.Outcome State Fault Refusal := ok (doProfileErase rq s)

/-- PROFILE_ERASE_DONE: both slots, AK0–AK7, TK0–TK3 and PK are zeroised, one write counted for each slot. -/
def profileEraseDone (s : State) : State :=
  match s.store.erase with
  | none => s
  | some d =>
    replyDeferred d { st := .ok } [] ((putProfile true none (putProfile false none (s.onStore fun v => { v with erase := none }))).onKeys
      fun v => { v with ak := [], tk := [], pk := none })
def execProfileEraseDone (s : State) : Host.Outcome State Fault Refusal := ok (profileEraseDone s)

end Sys2Proof.Machine
end

