-- ==== Sys2Proof/Machine/Scrub.lean ====
section
/-! DEFINITION. The tables the scrubber walks, memory upsets, scrubbing, golden copies, HBM errors, the bus and its arbiters
(15_memory_integrity_and_counters R427–R445). -/

namespace Sys2Proof.Machine

/-! ### Words of the tables of R432 -/

def tableSize (t : Nat) : Nat :=
  match t with
  | 0 | 1 => 524288
  | 2 | 3 => 65536
  | 4 => 8192
  | 5 => 4096
  | 6 | 7 => 1114112
  | 8 | 9 => 256
  | 10 => 4096
  | _ => 0

/-- A table of a unit that the device has. -/
def tablePresent (s : State) (t : Nat) : Bool := if t = 5 then s.fused.secPresent else if 6 ≤ t ∧ t ≤ 9 then groomPresent s else t ≤ 10

/-- The container and run number that word `i` of the run pool holds. -/
def poolOwner : List (Nat × ContEntry) → Nat → Option (Nat × Nat)
  | [], _ => none
  | (c, e) :: r, i => if i < e.runs.length then some (c, i) else poolOwner r (i - e.runs.length)

/-- The value of a table word; `gold` reads the golden copy. The golden copy of the run pool lies beside the pool. -/
def tableWord (gold : Bool) (s : State) (t i : Nat) : W32 :=
  match t with
  | 0 => tget 0#32 (if gold then s.anvil.goldA else s.anvil.bankA) i
  | 1 => tget 0#32 (if gold then s.anvil.goldB else s.anvil.bankB) i
  | 2 => (tget {} (if gold then s.cont.gold else s.cont.table) (i / 4)).words.getD (i % 4) 0#32
  | 3 =>
    match poolOwner s.cont.table i with
    | some (c, k) => (tget {} (if gold then s.cont.gold else s.cont.table) c).runs.getD k 0#32
    | none => 0#32
  | 4 => (tget pgReset (if gold then s.prot.gold else s.prot.cfg) (i / 8)).getD (i % 8) 0#32
  | 5 => (tget secDefault (if gold then s.sec.gold else s.sec.cfg) (i / 4)).getD (i % 4) 0#32
  | 6 | 7 => (tget ruleReset (if gold then s.grm.goldRules else s.grm.rules) ((t - 6) * 65536 + i / 17)).getD (i % 17) 0#32
  | 8 | 9 => tget 0#32 (if gold then s.grm.goldProg else s.grm.prog) ((t - 8) * 256 + i)
  | 10 => tget routeReset s.fab.routes i
  | _ => 0#32

def setContWord (k : Nat) (w : W32) (e : ContEntry) : ContEntry :=
  match k with
  | 0 => { e with w0 := w }
  | 1 => { e with w1 := w }
  | 2 => { e with w2 := w }
  | _ => { e with w3 := w }

/-- A table word set to `w`, its check bits valid; a restoration awaited for it stays. -/
def setTableWord (t i : Nat) (w : W32) (s : State) : State :=
  let s := if s.integ.flips.isEmpty then s else s.onInteg fun v => { v with flips := tset [] v.flips (flipKey t i) [] }
  match t with
  | 0 => s.onAnvil fun v => { v with bankA := tset 0#32 v.bankA i w }
  | 1 => s.onAnvil fun v => { v with bankB := tset 0#32 v.bankB i w }
  | 2 => s.onCont fun v => { v with table := tmod {} v.table (i / 4) (setContWord (i % 4) w) }
  | 3 =>
    match poolOwner s.cont.table i with
    | some (c, k) => s.onCont fun v => { v with table := tmod {} v.table c fun e => { e with runs := setAt e.runs k w } }
    | none => s
  | 4 => s.onProt fun v => { v with cfg := tmod pgReset v.cfg (i / 8) fun l => setAt l (i % 8) w }
  | 5 => s.onSec fun v => { v with cfg := tmod secDefault v.cfg (i / 4) fun l => setAt l (i % 4) w }
  | 6 | 7 => s.onGrm fun v => { v with rules := tmod ruleReset v.rules ((t - 6) * 65536 + i / 17) fun l => setAt l (i % 17) w }
  | 8 | 9 => s.onGrm fun v => { v with prog := tset 0#32 v.prog ((t - 8) * 256 + i) w }
  | 10 => s.onFab fun v => { v with routes := tset routeReset v.routes i w }
  | _ => s

/-- The reset value of a table word. -/
def resetWord (t i : Nat) : W32 :=
  match t with
  | 2 => ({} : ContEntry).words.getD (i % 4) 0#32
  | 4 => pgReset.getD (i % 8) 0#32
  | 5 => secDefault.getD (i % 4) 0#32
  | 10 => routeReset
  | _ => 0#32

/-- The words of the entry that holds word `i`. -/
def entryWordsOf (t i : Nat) : List Nat := (List.range (entrySize t)).map (entryBase t i + ·)

def eachWord (f : Nat → State → State) : List Nat → State → State
  | [], s => s
  | i :: r, s => eachWord f r (f i s)

/-! ### Upsets -/

/-- A stored bit flips. In the fragment table the word of the entry turns uncorrectable, and 12 stands for the selector state of a group, whose word does (R429). -/
def upset (u : Nat × Nat × Nat) (s : State) : State :=
  let (t, i, b) := u
  if t = 11 then s.onGrm fun v => { v with frag := v.frag.mapIdx fun k e => if k = i then { e with slag := true } else e }
  else if t = 12 then onGroup i (fun x => { x with selSlag := true, selDue := true }) s
  else if tablePresent s t && decide (i < tableSize t) && decide (b < 56) then
    s.onInteg fun v => { v with flips := tmod [] v.flips (flipKey t i) fun l => if l.contains b then del l b else l ++ [b] }
  else s

def upsets : List (Nat × Nat × Nat) → State → State
  | [], s => s
  | u :: r, s => upsets r (upset u s)

/-! ### Scrubbing (R40, R41, R432, R433) -/

/-- SCRUB_UE has marked the entry that holds the word. -/
def scrubMarked (s : State) (t i : Nat) : Bool := flipsOf s t i = allCheck

/-- An entry that turns out uncorrectable is written slag-marked, and its restoration is asked for; the route table is recomputed instead. -/
def scrubBad (t i : Nat) (s : State) : State :=
  askRestore t i (note evIntScrubUe t 1 (s.onInteg fun v => { v with
    flips := (entryWordsOf t i).foldl (fun f k => tset [] f (flipKey t k) allCheck) v.flips, ueTable := BitVec.ofNat 8 t, ueIndex := BitVec.ofNat 24 (entryBase t i) }))

/-- The scrubber reads word `i` of table `t`: each mended byte is counted, a word that mends is written back as it was delivered, and an entry
with an uncorrectable byte is found once, as its words are marked then. -/
def scrubWord (t i : Nat) (s : State) : State :=
  if (flipsOf s t i).isEmpty || scrubMarked s t i then s
  else
    let r := readWord s t i (tableWord false s t i)
    let s := note evIntChkCorr 0 r.mends s
    if r.slag then scrubBad t i s
    else if r.mends = 0 then s
    else setTableWord t i r.val (note evIntScrubCe t 1 s)

/-- `n` words of the map banks from the next one on. -/
def scrubMapWords : Nat → State → State
  | 0, s => s
  | n + 1, s =>
    let p := s.integ.mapPos
    let s := scrubWord (p / 524288) (p % 524288) s
    scrubMapWords n (s.onInteg fun v =>
      if p + 1 = 1048576 then { v with mapPos := 0, mapPasses := BitVec.ofNat 16 (satAdd 65535 v.mapPasses.toNat 1) } else { v with mapPos := p + 1 })

/-- Table and word at position `p` of the present tables 2–10. -/
def tableAt (s : State) : List Nat → Nat → Option (Nat × Nat)
  | [], _ => none
  | t :: r, p => if !tablePresent s t then tableAt s r p else if p < tableSize t then some (t, p) else tableAt s r (p - tableSize t)

def otherTables : List Nat := [2, 3, 4, 5, 6, 7, 8, 9, 10]
def otherSize (s : State) : Nat := ((otherTables.filter (tablePresent s)).map tableSize).sum

def scrubTableWords : Nat → State → State
  | 0, s => s
  | n + 1, s =>
    let p := s.integ.tablePos
    let s := match tableAt s otherTables p with | some (t, i) => scrubWord t i s | none => s
    scrubTableWords n (s.onInteg fun v =>
      if otherSize s ≤ p + 1 then { v with tablePos := 0, tablePasses := BitVec.ofNat 16 (satAdd 65535 v.tablePasses.toNat 1) } else { v with tablePos := p + 1 })

/-- The scrubber in rows 1–119, from reset on (DESIGN CHOICE, log entry 88): as many of the stroke's words as the arbiters grant; what is left after row 119 is dropped. -/
def scrubRow (x : RowIn) (s : State) : State :=
  let r := s.stk.row
  if r = 0 then s.onInteg fun v => { v with mapLeft := 22, tableLeft := 42 }
  else if 119 < r then s
  else
    let m := min x.scrubMap s.integ.mapLeft
    let t := min x.scrubTab s.integ.tableLeft
    let s := (scrubTableWords t (scrubMapWords m s)).onInteg fun v => { v with mapLeft := v.mapLeft - m, tableLeft := v.tableLeft - t }
    if r = 119 && decide (0 < s.integ.mapLeft + s.integ.tableLeft) then
      note evIntScrubShort 0 1 (s.onInteg fun v => { v with mapLeft := 0, tableLeft := 0 })
    else s

/-! ### HBM (R430) -/

def hbmErr (crc : Bool) (stack : Nat) (s : State) : State := if crc then note evIntHbmCrc stack 1 s else note evIntHbmUe stack 1 s

/-- A block of a slot buffer is read with an error: its bytes in the stage carry the slag mark. -/
def grmBlocks : List (Nat × Bool × Nat × Nat × Nat) → State → State
  | [], s => s
  | (g, crc, k, a, n) :: r, s =>
    grmBlocks r (onSlot g (fun y => { y with staged := y.staged.mapIdx fun i b => if a ≤ i ∧ i < a + n then (b.1, true) else b }) (hbmErr crc k s))

def stackFixes : List (Nat × Nat) → State → State
  | [], s => s
  | (k, n) :: r, s => stackFixes r (note evIntHbmEccCe k n s)

/-- What the memories meet in a row. -/
def memoryRow (x : RowIn) (s : State) : State :=
  let s := upsets x.upsets s
  let s := (s.onInteg fun v => { v with goldBad := v.goldBad ++ x.goldBad }).onAnvil fun v => { v with backBad := x.readBack }
  let s := (s.onEv fun v => { v with bad := (v.bad ++ x.ctrUpsets).dedup }).onPm fun v => { v with bad := (v.bad ++ x.snapUpsets.map fun p => pmKey p.1 p.2).dedup }
  scrubRow x (grmBlocks x.grmHbm (stackFixes x.hbmCe s))

/-! ### Restoration from golden copies (R434, R435) -/

/-- The bank or generation beside the table's, if the pair is SYNCED. -/
def syncedTwin (s : State) (t : Nat) : Option Nat :=
  if t ≤ 1 then (if s.anvil.shadow = .synced then some (1 - t) else none)
  else if 6 ≤ t ∧ t ≤ 9 then (if s.grm.pend = .synced then some (if t % 2 = 0 then t + 1 else t - 1) else none)
  else none

/-- The entry is rewritten word by word, and the finding ends. -/
def rewriteEntry (t i : Nat) (val : Nat → W32) (s : State) : State :=
  let s := if scrubMarked s t i then noteClear evIntScrubUe t s else s
  eachWord (fun k s => setTableWord t k (val k) s) (entryWordsOf t i) (s.onInteg fun v => { v with restore := v.restore.filter fun x => x ≠ (t, i) })

/-- The restoration awaited for the entry that begins at word `i` of table `t`. Its golden copy is unreadable where one of its words is. -/
def restoreEntry (t i : Nat) (s : State) : State :=
  if !s.integ.restore.contains (t, i) then s
  else
    let counted := fun (s : State) => countCfi (note evIntGoldRestore t 1 s)
    match s.integ.goldBad.find? fun x => x.1 = t && entryBase t x.2.1 = i with
    | none => counted (rewriteEntry t i (tableWord true s t) s)
    | some (_, _, crc, k) =>
      let s := hbmErr crc k s
      match syncedTwin s t with
      | some u => counted (rewriteEntry t i (tableWord false s u) s)
      | none =>
        note evIntGoldFail t 1 ((rewriteEntry t i (resetWord t) s).onInteg fun v => { v with gfTable := BitVec.ofNat 8 t, gfIndex := BitVec.ofNat 24 i })

/-- GOLD_RESTORE: the restoration awaited for the entry that holds word `i` of table `t`. -/
def goldRestore (t i : Nat) (s : State) : State := restoreEntry t (entryBase t i) s
def execGoldRestore (table index : Nat) (s : State) : Host.Outcome State Fault Refusal := ok (goldRestore table index s)

/-! ### Bus, arbiters, debug port (R440, R444, R445) -/

/-- The command in execution, which is the one executed next, returns INTERNAL (log entry 45). -/
def failCommand (inCmd : Bool) (s : State) : State := if inCmd then s.onMode fun v => { v with miscompare := true } else s

/-- BUS_DECERR. -/
def execBusDecerr (master : Fin 8) (inCmd : Bool) (s : State) : Host.Outcome State Fault Refusal :=
  ok (if alive s then failCommand inCmd (note evIntBusDecerr master 1 s) else s)

/-- Strokes for which a requester's grant has moved no beat, and what HBM blocking left the read-out of the grooming slots (R339, R445). -/
def hbmStroke (stuck : List Nat) (limit : List (Nat × Nat)) (s : State) : State :=
  (s.onInteg fun v => { v with dbg := false, hbmOwner := stuck.map fun r => (r, tget 0 v.hbmOwner r + 1) }).onGrm fun v => { v with readLimit := limit }

/-- ARB_WDOG: the grant ends after 500 strokes. -/
def execArbWdog (requester : Nat) (inCmd : Bool) (s : State) : Host.Outcome State Fault Refusal :=
  ok (if decide (500 ≤ tget 0 s.integ.hbmOwner requester) then
      failCommand inCmd (countCfi (note evIntArbWdog requester 1 (s.onInteg fun v => { v with hbmOwner := v.hbmOwner.filter fun x => x.1 ≠ requester })))
    else s)

/-- DEBUG_PORT_ACCESS: counted once per stroke. -/
def execDebugPortAccess (s : State) : Host.Outcome State Fault Refusal :=
  ok (if !alive s || s.integ.dbg then s else note evIntDbgAccess 0 1 (s.onInteg fun v => { v with dbg := true }))

end Sys2Proof.Machine
end

