-- ==== Sys2Proof/Machine/Counters.lean ====
section
/-! DEFINITION. Counter reads, snapshots, windowed counters, event log and mask, integrity status (15_memory_integrity_and_counters R446–R455). -/

namespace Sys2Proof.Machine

/-! ### Absent instances (R8, R453) -/

/-- Instances of a class-0x12 event, by code. -/
def opticsLimit (code : Nat) : Nat := [2, 32, 32, 40, 8, 8, 1, 4].getD (code - 1) 0

/-- The instance of an integrity event exists. -/
def integInstance (s : State) (code i : Nat) : Bool :=
  match code with
  | 0x02 | 0x03 => i < 34
  | 0x04 | 0x05 => tablePresent s i
  | 0x07 | 0x08 => i ≤ 9 && tablePresent s i
  | 0x09 => tablePresent s i || (i = 11 && groomPresent s)
  | 0x0A | 0x0B | 0x0C | 0x0D => i < 2
  | 0x0E => i < 8
  | 0x0F => 1 ≤ i && i ≤ 4
  | _ => i = 0

/-- A counter of an absent unit, or of an instance beyond the unit's range. -/
def evAbsent (s : State) (cls inst code : Nat) : Bool :=
  !(match cls with
    | 0x01 => if code ≤ 2 then inst < 24 && !refAbsent s inst else if code = 7 ∨ code = 9 then inst < 12 else inst = 0
    | 0x02 => if code ≤ 2 then inst < 12 else if code = 3 then inst < 8 else inst = 0
    | 0x03 | 0x08 | 0x11 | 0x13 => inst = 0
    | 0x04 => inst < 16384
    | 0x05 => inst < 1024
    | 0x06 => inst < 2048
    | 0x07 => inst < 12
    | 0x09 => enginePresent s inst
    | 0x0A => inst < 768
    | 0x0B => inst < 48 && (groomPresent s || !(3 ≤ code && code ≤ 14))
    | 0x0C => laneValid inst
    | 0x0D => groomPresent s && inst < 1024
    | 0x0E => groomPresent s && grmQueueOk inst
    | 0x0F => groomPresent s && inst = 0
    | 0x10 => s.fused.secPresent && inst < 1024
    | 0x12 => inst < opticsLimit code
    | 0x14 => integInstance s code inst
    | _ => false)

def idCls (w : W32) : Nat := fld w 28 24
def idInst (w : W32) : Nat := fld w 23 8
def idCode (w : W32) : Nat := fld w 7 0

/-- An EVENT_ID of the table of R450. -/
def idOk (w : W32) : Bool := fld w 31 29 = 0 && evAssigned (idCls w) (idCode w)
def idAbsent (s : State) (w : W32) : Bool := evAbsent s (idCls w) (idInst w) (idCode w)

/-! ### Event counters (R449–R451) -/

/-- A slag-marked counter is set to 0 as it is read (R429). Windows in progress on it go on from there. -/
def zeroCounter (id : Nat) (s : State) : State :=
  let c := countOf s id
  s.onEv fun v => { v with
    counters := tset 0#48 v.counters id 0#48, clips := if isClip id then tset 0#48 v.clips id 0#48 else v.clips, bad := del v.bad id
    win := v.win.map fun x => if x.2.id = id then (x.1, { x.2 with base := x.2.base.map fun b => b - c }) else x }

/-- The two words of a counter in EVC_READ. -/
def evcWords (s : State) (w : W32) : List W32 :=
  if idAbsent s w then [0x80000000#32, 0#32]
  else if s.ev.bad.contains w.toNat then [0#32, 0#32]
  else
    let c := countOf s w.toNat
    [word [(hi16 c, 0)], BitVec.ofNat 32 (lo32 c)]

def zeroCounters : List W32 → State → State
  | [], s => s
  | w :: r, s => zeroCounters r (if s.ev.bad.contains w.toNat then zeroCounter w.toNat s else s)

/-- EVC_READ. The counters are read at one instant: the first and the last read fall in the same stroke (DESIGN CHOICE, log entry 50). -/
def doEvcRead (rq : Req) (s : State) : State :=
  let n := fld (rq.p 0) 9 0
  let ids := (rq.params.drop 1).take n
  command opEvcRead rq
    { par := [countIn 1 513 rq, onlyBits 0 0x000003FF#32 rq, wordOk 0 (decide (1 ≤ n) && decide (n ≤ 512)), countIs (1 + n) rq]
        ++ (List.range n).map fun i => wordOk (1 + i) (idOk (rq.p (1 + i))) } s
    fun s =>
      let t := [word [(hi16 s.stk.scnt, 0)], BitVec.ofNat 32 (lo32 s.stk.scnt)]
      let res := t ++ t ++ ids.flatMap (evcWords s)
      match ids.findIdx? fun w => s.ev.bad.contains w.toNat && !idAbsent s w with
      | some i => .slagged (zeroCounters ids s) res (4 + 2 * i)
      | none => .done s res
def execEvcRead (rq : Req) (s : State) : Host.Outcome State Fault Refusal := ok (doEvcRead rq s)

/-! ### Performance snapshots (R446, R448) -/

def pmAbsent (s : State) (n i : Nat) : Bool :=
  match n with
  | 0 => decide (16384 ≤ i)
  | 1 => decide (2048 ≤ i)
  | 2 | 3 => !enginePresent s i
  | 4 | 5 => decide (768 ≤ i)
  | _ => decide (12 ≤ i)

/-- An entity block. -/
def pmBlock (s : State) (n i : Nat) : List W32 :=
  if pmAbsent s n i then 0x80000000#32 :: List.replicate 8 0#32
  else if s.pm.bad.contains (pmKey n i) then List.replicate 9 0#32
  else
    let r : PmRec := tget {} s.pm.snap (pmKey n i)
    word [(flag r.enabled, 30), (r.openNe.length, 26), (r.openFe.length, 22), (flag r.unavNe, 21), (flag r.unavFe, 20)]
      :: (r.ne ++ r.fe).map (BitVec.ofNat 32)

/-- PM_READ: the reply is taken from the one snapshot named in its header. -/
def doPmRead (rq : Req) (s : State) : State :=
  let n := fld (rq.p 0) 31 28
  let a := fld (rq.p 0) 15 0
  let k := fld (rq.p 1) 8 0
  command opPmRead rq
    { par := [countIs 2 rq, onlyBits 0 0xF000FFFF#32 rq, wordOk 0 (decide (n ≤ 6)), onlyBits 1 0x000001FF#32 rq, wordOk 1 (decide (1 ≤ k) && decide (k ≤ 400))] } s
    fun s =>
      let is := (List.range k).map (a + ·)
      let res := [s.pm.snapSeq, word [(s.pm.snapCause, 30), (hi16 s.pm.snapScnt, 0)], BitVec.ofNat 32 (lo32 s.pm.snapScnt)] ++ is.flatMap (pmBlock s n)
      let bad := fun i => s.pm.bad.contains (pmKey n i) && !pmAbsent s n i
      match is.findIdx? bad with
      | some j =>
        let ks := (is.filter bad).map (pmKey n)
        .slagged (s.onPm fun v => { v with bad := v.bad.filter fun x => !ks.contains x, snap := v.snap.filter fun x => !ks.contains x.1 }) res (3 + 9 * j)
      | none => .done s res
def execPmRead (rq : Req) (s : State) : Host.Outcome State Fault Refusal := ok (doPmRead rq s)

/-- PM_SNAP. -/
def doPmSnap (rq : Req) (s : State) : State := command opPmSnap rq { par := [countIs 0 rq] } s (commitOnly opPmSnap rq)
def execPmSnap (rq : Req) (s : State) : Host.Outcome State Fault Refusal := ok (doPmSnap rq s)

/-- SES value of an entity (R446). -/
def pmSes (s : State) (n i : Nat) : Nat :=
  if n ≤ 1 then 7500 else if n = 6 then 937500 else otnSes s n i

/-- The entities that are enabled. -/
def pmEnabledKeys (s : State) : List Nat :=
  (enabledSnk s).map (fun x => pmKey 0 x.1)
  ++ ((s.prot.cfg.filter fun x => pgEn x.2 && pgMon x.2).flatMap fun x => [pmKey 1 (2 * x.1), pmKey 1 (2 * x.1 + 1)])
  ++ ((otnIds s).filter (otnEnabled s)).flatMap (fun id => [pmKey (otnLayers id).1 (otnInst id), pmKey (otnLayers id).2 (otnInst id)])
  ++ ((List.range 12).filter fun p => fpEn (fpCfg s p)).map (pmKey 6)

def pmJudge (on : List Nat) (whole : Bool) : List Nat → State → State
  | [], s => s
  | k :: r, s => pmJudge on whole r (pmEnabled (k / 65536) (k % 65536) (on.contains k) whole s)

/-- Whether each entity is enabled, judged at row 0 after the commits; `whole`: a second begins here. -/
def pmRow0 (whole : Bool) (s : State) : State :=
  let on := pmEnabledKeys s
  pmJudge on whole (on ++ s.pm.ent.map Prod.fst).dedup s

/-! ### Windowed counters (R452) -/

def winCls (c : Nat) : Bool := 1 ≤ c && c ≤ 0x14
def winOf (s : State) (k : Nat) : WinSt := tget {} s.ev.win k

/-- WIN_CFG. -/
def doWinCfg (rq : Req) (s : State) : State :=
  let c := fld (rq.p 0) 12 8
  let id := rq.p 2
  command opWinCfg rq
    { par := [countIs 3 rq, onlyBits 0 0x00001F0F#32 rq, wordOk 0 (winCls c), onlyBits 1 0x8000FFFF#32 rq,
        wordOk 1 (decide (1 ≤ fld (rq.p 1) 15 0) && decide (fld (rq.p 1) 15 0 ≤ 50000)),
        wordOk 2 ((id = 0#32 && !bit (rq.p 1) 31) || (idOk id && decide (idCls id = c)))] } s (commitOnly opWinCfg rq)
def execWinCfg (rq : Req) (s : State) : Host.Outcome State Fault Refusal := ok (doWinCfg rq s)

/-- A window in progress ends at this row 0, on a multiple of WINDOW or at a stroke step, and the next one begins (R38, R452). -/
def winEnd (s : State) (w : WinSt) : WinSt :=
  if w.enable && (s.stk.stepped || decide (scnt s % max 1 w.window = 0)) then
    match w.base with
    | some b =>
      let c := countOf s w.id
      { w with base := some c, valid := true, count := c - b, endAt := s.stk.scnt }
    | none => w
  else w

/-- The first window begins at the first multiple of WINDOW at or after the enable. -/
def winStart (s : State) (w : WinSt) : WinSt :=
  if w.enable && w.base.isNone && decide (scnt s % max 1 w.window = 0) then { w with base := some (countOf s w.id) } else w

def windowsEnd (s : State) : State := s.onEv fun v => { v with win := v.win.map fun x => (x.1, winEnd s x.2) }
def windowsStart (s : State) : State := s.onEv fun v => { v with win := v.win.map fun x => (x.1, winStart s x.2) }

/-- WIN_RESULT. -/
def winWords (s : State) (k : Nat) : List W32 :=
  let w := winOf s k
  let ab := w.id ≠ 0 && idAbsent s (BitVec.ofNat 32 w.id)
  let c := if ab then 0#48 else w.count
  [word [(flag ab, 31), (flag w.valid, 30), (hi16 c, 0)], BitVec.ofNat 32 (lo32 c), word [(hi16 w.endAt, 0)], BitVec.ofNat 32 (lo32 w.endAt)]

/-- WIN_READ. -/
def doWinRead (rq : Req) (s : State) : State :=
  let c := fld (rq.p 0) 12 8
  command opWinRead rq { par := [countIs 1 rq, onlyBits 0 0x00001F00#32 rq, wordOk 0 (winCls c)] } s
    fun s => .done s ((List.range 16).flatMap fun i => winWords s (16 * c + i))
def execWinRead (rq : Req) (s : State) : Host.Outcome State Fault Refusal := ok (doWinRead rq s)

/-! ### Event log and mask (R454) -/

/-- EVT_MASK_WRITE. -/
def doEvtMaskWrite (rq : Req) (s : State) : State :=
  let c := fld (rq.p 0) 12 8
  let k := fld (rq.p 0) 7 0
  command opEvtMaskWrite rq
    { par := [countIs 1 rq, onlyBits 0 0x80001FFF#32 rq, wordOk 0 (evAssigned c k && evIntr c k)] } s
    fun s => .done (s.onEv fun v => { v with maskOff := setIf (!bit (rq.p 0) 31) v.maskOff (c * 256 + k) }) []
def execEvtMaskWrite (rq : Req) (s : State) : Host.Outcome State Fault Refusal := ok (doEvtMaskWrite rq s)

/-- The enabled codes 32w to 32w + 31 of a class. -/
def maskWord (s : State) (c w : Nat) : W32 :=
  BitVec.ofNat 32 (bitsOf ((List.range 32).filter fun b => evIntr c (32 * w + b) && !s.ev.maskOff.contains (c * 256 + 32 * w + b)))

/-- EVT_MASK_READ. -/
def doEvtMaskRead (rq : Req) (s : State) : State :=
  let c := fld (rq.p 0) 12 8
  command opEvtMaskRead rq { par := [countIs 1 rq, onlyBits 0 0x00001F00#32 rq, wordOk 0 (winCls c)] } s
    fun s => .done s ((List.range 8).map (maskWord s c))
def execEvtMaskRead (rq : Req) (s : State) : Host.Outcome State Fault Refusal := ok (doEvtMaskRead rq s)

def logWords (e : LogEntry) : List W32 :=
  [BitVec.ofNat 32 e.id, word [(flag e.clear, 31), (flag e.ovf, 30), (e.occur, 0)], word [(hi16 e.scnt, 0)], BitVec.ofNat 32 (lo32 e.scnt)]

/-- EVT_POP: the oldest entries, fewer where the log holds fewer. -/
def doEvtPop (rq : Req) (s : State) : State :=
  let n := fld (rq.p 0) 8 0
  command opEvtPop rq { par := [countIs 1 rq, onlyBits 0 0x000001FF#32 rq, wordOk 0 (decide (1 ≤ n) && decide (n ≤ 256))] } s
    fun s => .done (s.onEv fun v => { v with log := v.log.drop n }) ((s.ev.log.take n).flatMap logWords)
def execEvtPop (rq : Req) (s : State) : Host.Outcome State Fault Refusal := ok (doEvtPop rq s)

/-! ### Integrity status and arbiter limits (R442, R455) -/

/-- INTEG_STATUS words 0–4. -/
def integWords (s : State) : List W32 :=
  let ue := bitsOf s.anvil.swUeLast
  [word [(s.integ.ueTable.toNat, 24), (s.integ.ueIndex.toNat, 0)], word [(s.integ.gfTable.toNat, 24), (s.integ.gfIndex.toNat, 0)],
   word [(s.integ.mapPasses.toNat, 16), (s.integ.tablePasses.toNat, 0)], BitVec.ofNat 32 ue,
   word [(ue >>> 32, 8), (min 255 s.integ.restore.length, 0)]]

/-- INTEG_STATUS_READ. -/
def doIntegStatusRead (rq : Req) (s : State) : State :=
  command opIntegStatusRead rq { par := [countIs 0 rq] } s fun s => .done s (integWords s ++ [s.integ.arb0, s.integ.arb1])
def execIntegStatusRead (rq : Req) (s : State) : Host.Outcome State Fault Refusal := ok (doIntegStatusRead rq s)

/-- ARB_CFG. -/
def doArbCfg (rq : Req) (s : State) : State :=
  command opArbCfg rq { par := [countIs 2 rq, onlyBits 1 0x00FFFFFF#32 rq] } s
    fun s => .done (s.onInteg fun v => { v with arb0 := rq.p 0, arb1 := rq.p 1 }) []
def execArbCfg (rq : Req) (s : State) : Host.Outcome State Fault Refusal := ok (doArbCfg rq s)

end Sys2Proof.Machine
end

