-- ==== Sys2Proof/Machine/Pins.lean ====
section
/-! DEFINITION. Reset, power and JTAG (16_package_and_electrical R463–R465, R472, R473; 14_modes_boot_and_trust R401, R412). -/

namespace Sys2Proof.Machine

/-- A STORE that a reset interrupts after its capture leaves its slot without a valid header; one that IMAGE_INSTALL interrupts leaves its copy erased (R411, R419; log entry 43). -/
def storeAtReset (v : StoreSt) : StoreSt :=
  let broken : Option Profile := some { valid := false }
  let v' : StoreSt := { slotA := v.slotA, slotB := v.slotB, countA := v.countA, countB := v.countB, record := v.record, serial := v.serial, retire := v.retire }
  match v.store with
  | some r => if r.content.isSome then (if r.toB then { v' with slotB := broken } else { v' with slotA := broken }) else v'
  | none => v'

def bootAtReset (v : BootSt) : BootSt :=
  let v' : BootSt := { bootCount := v.bootCount, flashA := v.flashA, flashB := v.flashB, slots := v.slots, fuses := v.fuses }
  match v.install with
  | some (b, _) => if b then { v' with flashB := [] } else { v' with flashA := [] }
  | none => v'

/-- The device with RSTN low: everything at its reset value but what is fused or stored, the levels on the pins, and the JTAG instruction. Its outputs are off, as in QUENCH. -/
def resetState (s : State) : State :=
  { State.reset with
    pending := s.pending, free := s.free, fused := s.fused
    pins := { s.pins with rstnLow := true }
    boot := bootAtReset s.boot, store := storeAtReset s.store
    mode := { State.reset.mode with mode := .quench, origin := .quench }
    cmd := { State.reset.cmd with pcieUp := false } }

/-- The release of RSTN: row 0 of stroke 0, KINDLE, boot stage 0 (R29, R406). It ends a QUENCH that JTAG forced (R473). -/
def releaseReset (s : State) : State :=
  ((s.onPins fun v => { v with rstnLow := false, jtagForced := false }).onMode fun v => { v with mode := .kindle, origin := .kindle }).onCmd
    fun v => { v with pcieUp := !s.pins.perstLow }

/-- RSTN_LOW: a low level of 1 µs or longer resets the device. -/
def execRstnLow (ns : Nat) (s : State) : Host.Outcome State Fault Refusal :=
  ok (if s.pins.powered && decide (1000 ≤ ns) then resetState s else s)

/-- RSTN_RELEASE. -/
def execRstnRelease (s : State) : Host.Outcome State Fault Refusal :=
  ok (if s.pins.powered && s.pins.rstnLow then releaseReset s else s)

def flushAll : List Nat → State → State
  | [], s => s
  | q :: r, s => flushAll r (flushQueue q s)

/-- PERST_N_ASSERT: CQ0–CQ3 and RQ0–RQ3 are flushed, and BAR0 is reset. -/
def execPerstNAssert (s : State) : Host.Outcome State Fault Refusal :=
  ok (((flushAll [0, 1, 2, 3, 6, 7, 8, 9] s).onPins fun v => { v with perstLow := true }).onCmd
    fun v => { v with chan := [], intStatus := 0#32, intMask := 0#32, intPinEn := false, pcieUp := false })

/-- PERST_N_RELEASE. -/
def execPerstNRelease (s : State) : Host.Outcome State Fault Refusal :=
  ok ((s.onPins fun v => { v with perstLow := false }).onCmd fun v => { v with pcieUp := alive s })

/-- POWER_LOSS: VDD_IO below 1.40 V. -/
def execPowerLoss (vddIoMv : Nat) (s : State) : Host.Outcome State Fault Refusal :=
  ok (if s.pins.powered && decide (vddIoMv < 1400) then (resetState s).onPins fun v => { v with powered := false, jtagForced := false, jtag := .idcode, scan := [] } else s)

/-- POWER_UP: the rails are within tolerance, RSTN still low. -/
def execPowerUp (s : State) : Host.Outcome State Fault Refusal :=
  ok (if s.pins.powered then s else (resetState s).onPins fun v => { v with powered := true })

/-- SYS_RESTART_PULSE: the pulse of R412, from row 0 of the stroke after SYS_RESTART. -/
def execSysRestartPulse (s : State) : Host.Outcome State Fault Refusal :=
  ok (match s.boot.restart with
    | some r => if r < s.stk.run && s.stk.row = 0 then releaseReset (resetState s) else s
    | none => s)

/-- The JTAG instructions that force QUENCH. -/
def jtagForces : JtagInstr → Bool
  | .extest | .extestPulse | .extestTrain | .clamp | .highz => true
  | .bypass | .idcode | .sample | .preload | .other => false

/-- The register between TDI and TDO (R472). Any instruction that the device does not offer acts as BYPASS; CLAMP and HIGHZ select the same register. -/
inductive JtagReg where
  | bypass | idcode | boundary
  deriving DecidableEq, Repr

def jtagReg : JtagInstr → JtagReg
  | .idcode => .idcode
  | .sample | .preload | .extest | .extestPulse | .extestTrain => .boundary
  | .bypass | .clamp | .highz | .other => .bypass

/-- Data scans under the instruction set the levels of the cells; SAMPLE only captures (PRESUMED of IEEE 1149.1, log entry 125). -/
def scanUpdates (j : JtagInstr) : Bool := jtagReg j = .boundary && decide (j ≠ .sample)

/-- The levels of the cells after a data scan. -/
def scanned (l : JtagLoad) (v : PinSt) : List (ScanPin × Bool) :=
  if scanUpdates v.jtag then l.cells ++ v.scan.filter fun c => !(l.cells.any fun x => x.1 = c.1) else v.scan

/-- JTAG_INSTRUCTION_LOAD. With TRST_N low the TAP is in reset, which selects IDCODE. The instructions that hold the pins put the device into QUENCH (R458, R472, R473). -/
def jtagLoad (l : JtagLoad) (s : State) : State :=
  if !s.pins.powered then s
  else if l.trstLow then s.onPins fun v => { v with jtag := .idcode }
  else
    let s := s.onPins fun v => { v with scan := scanned l v, jtag := l.instr }
    if jtagForces l.instr && alive s then enterQuench (s.onPins fun v => { v with jtagForced := true }) else s
def execJtagInstructionLoad (j : JtagLoad) (s : State) : Host.Outcome State Fault Refusal := ok (jtagLoad j s)

/-- The IDCODE register (R472). -/
def jtagIdcode (s : State) : W32 := word [(s.fused.stepping.toNat, 28), (s.fused.partCode.toNat, 12), (s.fused.mfr.toNat, 1), (1, 0)]

end Sys2Proof.Machine
end

