-- ==== Sys2Proof/Machine/CommandTake.lean ====
section
/-! DEFINITION. COMMAND_TAKE: the turn of a command queue, steps 3 to 6 of the order of checks, forwarding and its records (03_polast_commands R91–R99). -/

namespace Sys2Proof.Machine

/-! ### The opcodes (R103) -/

def handlersSystem : List (Nat × (Req → State → State)) :=
  [(opEcho.code, doEcho), (opCapsRead.code, doCapsRead), (opSysStatusRead.code, doSysStatusRead), (opQueueStatusRead.code, doQueueStatusRead),
    (opQueueCfg.code, doQueueCfg), (opQueueFlush.code, doQueueFlush), (opAccessPolicyRead.code, doAccessPolicyRead), (opAccessPolicyWrite.code, doAccessPolicyWrite),
    (opIntClear.code, doIntClear)]

def handlersStrokes : List (Nat × (Req → State → State)) :=
  [(opStrokeRead.code, doStrokeRead), (opStrokeSet.code, doStrokeSet), (opStrokeCfg.code, doStrokeCfg), (opStrokeJoin.code, doStrokeJoin),
    (opRefCfg.code, doRefCfg), (opRefStatusRead.code, doRefStatusRead), (opRefForce.code, doRefForce), (opClkCfg.code, doClkCfg),
    (opCommitListRead.code, doCommitListRead), (opCommitCancel.code, doCommitCancel)]

def handlersAnvil : List (Nat × (Req → State → State)) :=
  [(opMapWrite.code, doMapWrite), (opMapCommit.code, doMapCommit), (opMapSync.code, doMapSync), (opMapRead.code, doMapRead),
    (opMapStatusRead.code, doMapStatusRead), (opContCfg.code, doContCfg), (opContRead.code, doContRead), (opContStatusRead.code, doContStatusRead)]

def handlersProtection : List (Nat × (Req → State → State)) :=
  [(opPgCfg.code, doPgCfg), (opPgRead.code, doPgRead), (opPgStatusRead.code, doPgStatusRead), (opPgCmd.code, doPgCmd),
    (opAlnRealign.code, doAlnRealign), (opAlnStatusRead.code, doAlnStatusRead), (opPgSummaryRead.code, doPgSummaryRead)]

def handlersFabric : List (Nat × (Req → State → State)) :=
  [(opFabCfg.code, doFabCfg), (opFabStatusRead.code, doFabStatusRead), (opFabPortCfg.code, doFabPortCfg), (opFabPortStatusRead.code, doFabPortStatusRead),
    (opFabRouteRead.code, doFabRouteRead), (opFabLsdbRead.code, doFabLsdbRead), (opFabPathSet.code, doFabPathSet)]

def handlersLine : List (Nat × (Req → State → State)) :=
  [(opTxCfg.code, doTxCfg), (opTxRead.code, doTxRead), (opTxStatusRead.code, doTxStatusRead), (opTxPreemph.code, doTxPreemph),
    (opTxPreemphRead.code, doTxPreemphRead), (opLineBondCfg.code, doLineBondCfg), (opTxCalCfg.code, doTxCalCfg), (opTxCalRead.code, doTxCalRead),
    (opRxCfg.code, doRxCfg), (opRxRead.code, doRxRead), (opRxStatusRead.code, doRxStatusRead), (opRxQualityRead.code, doRxQualityRead),
    (opRxCalRead.code, doRxCalRead), (opRxReacquire.code, doRxReacquire), (opLineOhCfg.code, doLineOhCfg), (opLineOhRead.code, doLineOhRead),
    (opLineTtiWrite.code, doLineTtiWrite), (opLineTtiRead.code, doLineTtiRead), (opLineOtnStatusRead.code, doLineOtnStatusRead), (opLineFecStatusRead.code, doLineFecStatusRead),
    (opLineRealign.code, doLineRealign)]

def handlersClient : List (Nat × (Req → State → State)) :=
  [(opClPortCfg.code, doClPortCfg), (opClPortRead.code, doClPortRead), (opClPortStatusRead.code, doClPortStatusRead), (opFlexoTribCfg.code, doFlexoTribCfg),
    (opFlexoTribRead.code, doFlexoTribRead), (opLaneCfg.code, doLaneCfg), (opLaneStatusRead.code, doLaneStatusRead), (opLanePrbsRead.code, doLanePrbsRead)]

def handlersGroom : List (Nat × (Req → State → State)) :=
  [(opGroomCfg.code, doGroomCfg), (opGroomRead.code, doGroomRead), (opGroomStatusRead.code, doGroomStatusRead), (opSlotCfg.code, doSlotCfg),
    (opSlotRead.code, doSlotRead), (opSlotStatusRead.code, doSlotStatusRead), (opProgWrite.code, doProgWrite), (opRuleWrite.code, doRuleWrite),
    (opRuleCommit.code, doRuleCommit), (opRuleSync.code, doRuleSync), (opRuleRead.code, doRuleRead), (opGrmQueueCfg.code, doGrmQueueCfg),
    (opGrmQueueFlush.code, doGrmQueueFlush)]

def handlersSecurity : List (Nat × (Req → State → State)) :=
  [(opSecCfg.code, doSecCfg), (opSecRead.code, doSecRead), (opSecStatusRead.code, doSecStatusRead), (opKeyLoad.code, doKeyLoad),
    (opKeySwitch.code, doKeySwitch), (opKeyClear.code, doKeyClear), (opSecClearLoss.code, doSecClearLoss), (opKeStatusRead.code, doKeStatusRead)]

def handlersOptics : List (Nat × (Req → State → State)) :=
  [(opHkCfg.code, doHkCfg), (opHkRead.code, doHkRead), (opHkTrigger.code, doHkTrigger), (opHkResultRead.code, doHkResultRead),
    (opOutCfg.code, doOutCfg), (opOutRead.code, doOutRead), (opOutStatusRead.code, doOutStatusRead), (opBlCfg.code, doBlCfg),
    (opBlRead.code, doBlRead), (opBlStatusRead.code, doBlStatusRead), (opI2cCfg.code, doI2cCfg), (opI2cXfer.code, doI2cXfer),
    (opOptStatusRead.code, doOptStatusRead)]

def handlersModes : List (Nat × (Req → State → State)) :=
  [(opModeSet.code, doModeSet), (opQuench.code, doQuench), (opQuenchExit.code, doQuenchExit), (opModeCfg.code, doModeCfg),
    (opModeStatusRead.code, doModeStatusRead), (opFaultAck.code, doFaultAck), (opBootStatusRead.code, doBootStatusRead), (opImageStage.code, doImageStage),
    (opBootExec.code, doBootExec), (opImageInstall.code, doImageInstall), (opRollbackAdvance.code, doRollbackAdvance), (opSignerSlotProgram.code, doSignerSlotProgram),
    (opSignerRevoke.code, doSignerRevoke), (opSysRestart.code, doSysRestart), (opPkSet.code, doPkSet), (opAuthKeyLoad.code, doAuthKeyLoad),
    (opTkLoad.code, doTkLoad), (opKeySlotsRead.code, doKeySlotsRead), (opIdRead.code, doIdRead), (opAttest.code, doAttest),
    (opStore.code, doStore), (opStoreStatusRead.code, doStoreStatusRead), (opProfileRestore.code, doProfileRestore), (opProfileErase.code, doProfileErase),
    (opFaultRead.code, doFaultRead), (opFaultExport.code, doFaultExport), (opRetireRead.code, doRetireRead)]

def handlersIntegrity : List (Nat × (Req → State → State)) :=
  [(opEvcRead.code, doEvcRead), (opPmRead.code, doPmRead), (opPmSnap.code, doPmSnap), (opWinCfg.code, doWinCfg),
    (opWinRead.code, doWinRead), (opEvtMaskWrite.code, doEvtMaskWrite), (opEvtMaskRead.code, doEvtMaskRead), (opEvtPop.code, doEvtPop),
    (opIntegStatusRead.code, doIntegStatusRead), (opArbCfg.code, doArbCfg)]

def handlersDiag : List (Nat × (Req → State → State)) :=
  [(opBaCfg.code, doBaCfg), (opBaRead.code, doBaRead), (opTestRead.code, doTestRead), (opErrInject.code, doErrInject)]

/-- Every assigned opcode with its effect; an opcode not listed is not assigned (R103). -/
def handlers : List (Nat × (Req → State → State)) :=
  handlersSystem ++ handlersStrokes ++ handlersAnvil ++ handlersProtection ++ handlersFabric ++ handlersLine ++ handlersClient ++ handlersGroom ++ handlersSecurity ++ handlersOptics ++ handlersModes ++ handlersIntegrity ++ handlersDiag

/-- Steps 6 to 14 of R95. -/
def dispatchReq (opcode : Nat) (rq : Req) (s : State) : State :=
  match handlers.find? fun h => h.1 = opcode with
  | some h => h.2 rq s
  | none => reply opcode rq (keyOf rq s) { st := .badOpcode } [] s

/-! ### Authentication (R70, R71) -/

/-- The authentication block of a packet with MAC = 1. -/
def macInfo (ws : List W32) : MacInfo :=
  let a := ws.drop (ws.length - 7)
  { slot := ⟨fld (a.getD 0 0#32) 2 0 % 8, Nat.mod_lt _ (by decide)⟩, seq := BitVec.ofNat 48 (fld (a.getD 0 0#32) 31 16 * 4294967296 + (a.getD 1 0#32).toNat), rsv := BitVec.ofNat 13 (fld (a.getD 0 0#32) 15 3) }

/-- The CMAC of a packet verifies under the key. -/
def cmacOk (key : BitVec 256) (ws : List W32) : Bool :=
  (ws.drop (ws.length - 5)).take 4 = macOver key 0xFFFFF000#32 (ws.take (ws.length - 5))

/-- DETAIL of the AUTH_FAIL that a packet with MAC = 1 gets, if any: 0 CMAC, or the key engine has failed (R370); 1 empty slot; 2 sequence. -/
def authFail (ws : List W32) (s : State) : Option Nat :=
  let m := macInfo ws
  if s.sec.keFailed then some 0
  else match (akOf s m.slot).key with
    | none => some 1
    | some k => if !cmacOk k ws then some 0 else if m.seq.toNat ≤ (akOf s m.slot).seq.toNat then some 2 else none

/-- A packet that is executed here: step 5, and then the opcode. -/
def execPacket (q : Fin 6) (ws : List W32) (s : State) : State :=
  if bit (ws.getD 0 0#32) 25 then
    match authFail ws s with
    | some d => rawReply q ws { st := .authFail, detail := d } (note evCmdAuthFail (macInfo ws).slot.val 1 s)
    | none => dispatchReq (rawOpcode ws) { packetReq q ws with mac := some (macInfo ws) } s
  else dispatchReq (rawOpcode ws) (packetReq q ws) s

/-! ### Forwarding (R92, R94) -/

/-- The packet with this device's address in SOURCE, and its CRC. -/
def withSource (ws : List W32) (s : State) : List W32 :=
  let b := ((ws.getD 0 0#32 &&& 0xFFFFF000#32) ||| s.fab.nodeAddr.setWidth 32) :: (ws.drop 1).dropLast
  b ++ [crcWords b]

/-- Why a local command is not forwarded, if it is not. -/
def forwardCheck (q : Fin 6) (ws : List W32) (s : State) : Check :=
  let rq := packetReq q ws
  firstFail (causeOk 0x8000 (s.fab.nodeAddr ≠ 0#12) :: (if rq.quiet then [] else recordCheck q rq.tag rq.tgt s))

/-- The record, and the packet to the fabric. A QUIET command gets no record. -/
def forward (q : Fin 6) (ws : List W32) (s : State) : State :=
  let rq := packetReq q ws
  sendCommand (withSource ws s) (if rq.quiet then s else addRecord q rq.tag rq.tgt rq.src (rawOpcode ws) s)

/-- A record has had no reply for FWD_TIMEOUT strokes. -/
def recExpired (s : State) (r : FwdRec) : Bool := decide (r.since + s.cmd.fwdTimeout.toNat ≤ s.stk.run)

/-- The TIMEOUT reply of an expired record; a broadcast record expires without one (R94), and FWD_TIMEOUT, whose action is that reply, does not count it (DESIGN CHOICE, log entry 116). -/
def expireRec (r : FwdRec) (s : State) : State :=
  if recBroadcast r then s
  else rqPush (r.queue + 6)
    (mkReply r.opcode.toNat { cq := r.queue, src := r.src, tag := r.tag } none { st := .timeout } [] (s.onFab fun v => { v with nodeAddr := r.target }))
    (note evCmdFwdTimeout 0 1 s)

def expireRecs : List FwdRec → State → State
  | [], s => s
  | r :: l, s => expireRecs l (expireRec r s)

/-- FWD_TIMEOUT (R94). -/
def fwdTimeouts (s : State) : State :=
  expireRecs (s.cmd.fwd.filter (recExpired s)) (s.onCmd fun v => { v with fwd := v.fwd.filter fun r => !recExpired s r })
def execFwdTimeout (s : State) : Host.Outcome State Fault Refusal := ok (fwdTimeouts s)

/-! ### Taking a command (R87, R91, R99) -/

/-- A packet taken from queue `q`: steps 3 and 4, then its execution or its forwarding. A broadcast that cannot be forwarded is refused whole (DEDUCED, log entry 51). -/
def runPacket (q : Fin 6) (ws : List W32) (s : State) : State :=
  let w := ws.getD 0 0#32
  let t := pktTarget ws
  if fld w 31 28 ≠ 1 then rawReply q ws { st := .badParam } s
  else if bit w 27 then note evCmdFwdDrop 0 1 s
  else if q = 5 || t = 0 || t = s.fab.nodeAddr.toNat then execPacket q ws s
  else match forwardCheck q ws s with
    | some r => rawReply q ws r s
    | none => if t = 4095 then execPacket q ws (forward q ws s) else forward q ws s

/-- The queues in the order of their turns. -/
def turns (s : State) : List (Fin 6) :=
  (List.range 6).map fun i => ⟨(s.cmd.rr + 1 + i) % 6, Nat.mod_lt _ (by decide)⟩

/-- RQc has room for the next reply (R87): for the shortest reply, of 6 words (R72), and for what the command replies at once.
RQ5 is held to the same rule (DESIGN CHOICE, log entry 52); RQ4 discards instead (R89). -/
def roomLeft (q : Nat) (before after : State) : Bool :=
  q = 4 || (rqRoom (q + 6) 6 before && !(after.cmd.late.any fun x => x.1 = q + 6))

/-- The turn of one queue: nothing is taken while its last packet has not finished, or while its reply queue lacks room. -/
def takeFrom (q : Fin 6) (s : State) : Option State :=
  if s.cmd.busyCq.contains q.val then none
  else match cqOf s q with
    | [] => none
    | ws :: _ =>
      let s' := runPacket q ws (cqPop q s)
      if roomLeft q s s' then some s' else none

def takeFirst : List (Fin 6) → State → State
  | [], s => s
  | q :: l, s =>
    match takeFrom q s with
    | some s' => s'
    | none => takeFirst l s

/-- The queue from which the next packet is taken. -/
def nextTurn (s : State) : Option (Fin 6) := (turns s).find? fun q => (takeFrom q s).isSome

/-- COMMAND_TAKE (R99). -/
def execCommandTake (s : State) : Host.Outcome State Fault Refusal := ok (if alive s then takeFirst (turns s) s else s)

/-! ### Commits to a command queue (R81, R85, R89) -/

/-- A packet is committed to queue `q`. A flush in the same cycle acts first, and the packet is discarded and counted; a removal in
the same cycle, which takes place where it is that queue's turn (R99), changes FILL by the net amount (R81). -/
def cqCommit (cyc : CycleOf) (q : Nat) (p : List W32) (s : State) : State :=
  match cyc with
  | .alone => cqPush q p s
  | .flush => note evCmdCmdqFlushDiscard q 1 (flushQueue q s)
  | .removal =>
    let b := qfill s q
    let net := levelEvent q b (b + p.length - ((cqOf s q).headD []).length) (s.onCmd fun v => { v with cq := tset [] v.cq q (cqOf s q ++ [p]) })
    if (nextTurn s).map Fin.val = some q then takeFirst (turns s) net else cqPush q p s

/-- PCIE_PACKET_FETCH (R85). -/
def execPciePacketFetch (ch : Fin 4) (ws : List W32) (f : Fetched) (s : State) : Host.Outcome State Fault Refusal :=
  ok (fetch (cqCommit f.cyc) ch ws f.good s)

/-- PKT_WRITE (R89). -/
def execPktWrite (p : SpiPacket) (s : State) : Host.Outcome State Fault Refusal :=
  ok (if spiOn s then spiPacket (cqCommit p.cyc) p.bytes s else s)

end Sys2Proof.Machine
end

