-- ==== Sys2Proof/Machine/Samples.lean ====
section
/-! DEFINITION. A row of a line transmitter as symbols and as DAC samples (07_line_transmitter R213, R216, R217, R221, R224, R233). -/

namespace Sys2Proof.Machine

/-! ### The symbols of a row (R216, R233) -/

/-- Data symbols before position `p` of a superframe. -/
def dataBefore (bonded : Bool) (e p : Nat) : Nat :=
  let k := p - 1024
  k - (if bonded then ceilDiv (k - 32 * e) 128 else ceilDiv k 64)

/-- Data symbols among `n` symbols from position `pos` on, and the superframes that begin among them. -/
def dataAmong (bonded : Bool) (e pos n : Nat) : Nat :=
  (pos + n) / 262144 * dataSymbols bonded + dataBefore bonded e ((pos + n) % 262144) - dataBefore bonded e pos
def framesAmong (pos n : Nat) : Nat := ceilDiv (pos + n) 262144 - ceilDiv pos 262144

/-- A symbol of header or pilots: + or − A in every dimension. -/
def refSymbol (x y : Qpsk) : LineSym := { ref := true, v := [x.1, x.2, y.1, y.2].map fun b => if b then -1 else 1 }

/-- What composing a row has made: symbols, latest first, the position of the next, the superframe count and the data symbols left. -/
structure Composed where
  out : List LineSym := []
  pos : Nat
  count : W16
  data : List LineSym

/-- The next symbol of a superframe: header, pilot or data. `desc n` is the descriptor of superframe n, `inc` what SFC advances by (R216–R218). -/
def composeStep (bonded : Bool) (e : Nat) (desc : W16 → W64) (inc : W16) (t : Composed) : Composed :=
  let n := if t.pos = 0 then t.count + inc else t.count
  let next := (t.pos + 1) % 262144
  if t.pos < 1024 then { t with out := refSymbol (headerSymbol false (desc n) t.pos) (headerSymbol true (desc n) t.pos) :: t.out, pos := next, count := n }
  else if isPilot bonded e (t.pos - 1024) then
    let q := (t.pos - 1024) / (if bonded then 128 else 64)
    { t with out := refSymbol (pilotSymbol false q) (pilotSymbol true q) :: t.out, pos := next, count := n }
  else { out := t.data.headD {} :: t.out, pos := next, count := n, data := t.data.drop 1 }

/-- `n` symbols of superframes from position `pos` on; `count` is the count of the superframe before it. -/
def composeSyms (s : State) (e n pos : Nat) (count inc : W16) (data : List LineSym) : Composed :=
  (List.range n).foldl (fun t _ => composeStep (bondedNow s) e (descriptor s e) inc t) { pos := pos, count := count, data := data }

/-- One step of PRBS-31, x³¹ + x²⁸ + 1 (R143). -/
def prbs31Next (st : Nat) : Nat := (st * 2) % 2 ^ 31 + flag (xor (st.testBit 30) (st.testBit 27))

/-- A map that keeps exclusive-or, given by what it makes of each bit of the register. -/
def applyBits (m : List Nat) (st : Nat) : Nat := m.zipIdx.foldl (fun v c => if st.testBit c.2 then v ^^^ c.1 else v) 0

/-- 2^k steps of PRBS-31, k = 0–31. -/
def prbs31Powers : List (List Nat) :=
  ((List.range 32).foldl (fun (a : List (List Nat) × List Nat) _ => (a.2 :: a.1, a.2.map (applyBits a.2))) ([], (List.range 31).map fun i => prbs31Next (2 ^ i))).1.reverse

/-- The register after `n` steps. -/
def prbs31Skip (n st : Nat) : Nat := prbs31Powers.zipIdx.foldl (fun st m => if n.testBit m.2 then applyBits m.1 st else st) st

/-- `n` bits of PRBS-31. -/
def prbs31Bits (n st : Nat) : List Bool :=
  ((List.range n).foldl (fun (a : List Bool × Nat) _ => let st := prbs31Next a.2; (st.testBit 0 :: a.1, st)) ([], st)).1.reverse

/-- A data symbol of the calibration waveform: q bits of the sequence, labels before signs (DESIGN CHOICE, log entry 101). -/
def calSymbol (format : Nat) (bits : List Bool) : LineSym := dataSymbol format (bits.take (symbolBits format - 4)) (bits.drop (symbolBits format - 4))

/-- Symbols `k` to `k + n − 1` of a row of the calibration waveform. -/
def calSyms (s : State) (e k n : Nat) : List LineSym :=
  let x := txEng s e
  let f := lcFormat (txRule s e)
  let q := symbolBits f
  let pos := (x.first + k) % 262144
  let m := dataAmong (bondedNow s) e pos n
  let bits := prbs31Bits (q * m) (prbs31Skip (q * dataAmong (bondedNow s) e x.first k) x.calFrom)
  (composeSyms s e n pos (x.calSfc + BitVec.ofNat 16 (framesAmong x.first k)) 1#16 ((pieces q m bits).map (calSymbol f))).out.reverse

/-- The symbols that an engine sends in this row, and their number. -/
def rowSyms (s : State) (e : Nat) : List LineSym := let x := txEng s e; if x.calLen = 0 then x.sent else calSyms s e 0 x.calLen
def rowLen (x : TxSt) : Nat := if x.calLen = 0 then x.sent.length else x.calLen

/-! ### Samples (R213, R221, R224) -/

/-- A code beyond the range is set to the nearer limit. -/
def dacLimit (v : Int) : Int := clamp (-128) 127 v

/-- Half the length of a pulse in symbols: it fills the period of its response on the grid (R222). -/
def pulseHalf : Nat := 64

/-- Symbols to either side that a pulse can reach: its half, and the longest delay of R232, 10,368 taps of Ts/256. -/
def pulseReach : Nat := pulseHalf + 33

/-- Mean energy per dimension of the data in this row: in the calibration waveform of the shaped format every label is as frequent as the others (R217, R220, R233). -/
def rowEnergy (s : State) (e : Nat) : Int :=
  let c := txRule s e
  if (txEng s e).calLen ≠ 0 && lcFormat c = 2 then 21 * fxOne else meanEnergy (lcFormat c) (lcEntropy c)

/-- A lane in this row: its response, the scale, and delay, gain and offset of the slices in their turn. -/
structure LaneShape where
  resp : List Int
  scale : Int
  corr : List (Int × Int × Int)
  deriving DecidableEq

def laneShape (s : State) (e lane : Nat) : LaneShape :=
  let x := txEng s e
  let c := txRule s e
  let resp := laneResponse e lane (txSymbolRate s e) (lcRolloff c) (if x.pre.isEmpty then [] else (List.range 16).map fun i => x.pre.getD i 0#32)
  { resp := resp
    scale := driveLevel x * fxOne / laneRms (rowEnergy s e) resp
    corr := (dacTurn x lane).map fun k => (corrDelay x lane k, corrGain x lane k, corrOffset x lane k) }

/-- The pulse at the symbols around a sample: fs is 1.25 × Rs, so a sample stands 0 to 4 fifths of a symbol after one. The pulse moves with the delay. -/
def pulseTable (resp : List Int) (delay : Int) : List (List Int) :=
  (List.range 5).map fun f => (List.range (2 * pulseReach + 1)).map fun i =>
    let t := 256 * (f + 5 * ((pulseReach : Int) - i)) - 4 * delay
    if 1280 * pulseHalf ≤ t.natAbs then 0 else pulseAt resp t 1280

/-- The code of a sample from the symbols around it, before the limit. -/
def dacCode (scale : Int) (corr : Int × Int × Int) (pulse syms : List Int) : Int :=
  let v := (List.zipWith fxMul syms pulse).foldl (· + ·) 0
  fracShowInt (fxMul (fxMul v scale) corr.2.1 + corr.2.2) (2 ^ 80)

/-- The pulses of every delay that the slices of a lane have. -/
def laneTables (sh : LaneShape) : List (Int × List (List Int)) := (sh.corr.map Prod.fst).eraseDups.map fun d => (d, pulseTable sh.resp d)
/-- The pulse at a delay, `f` fifths of a symbol after one. -/
def pulseFrom (tabs : List (Int × List (List Int))) (delay : Int) (f : Nat) : List Int :=
  (((tabs.find? fun y => y.1 = delay).map Prod.snd).getD []).getD f []

/-- Sample `m` of the superframe stands 4m/5 symbols after its start. `t`: the codes made, latest first, and the symbols from number t.2.2 of the row on. -/
def dacStep (sh : LaneShape) (tabs : List (Int × List (List Int))) (first : Nat) (t : List Int × List Int × Nat) (m : Nat) : List Int × List Int × Nat :=
  let at_ := 4 * m - 5 * first
  let corr := sh.corr.getD (m % sh.corr.length) (0, 0, 0)
  let rest := t.2.1.drop (at_ / 5 - t.2.2)
  (dacCode sh.scale corr (pulseFrom tabs corr.1 (at_ % 5)) (rest.take (2 * pulseReach + 1)) :: t.1, rest, at_ / 5)

/-- The values of the symbols of a row on a lane, and of those before it that its pulses reach. -/
def rowValues (s : State) (e lane : Nat) : List Int :=
  let x := txEng s e
  (List.replicate (2 * pulseReach - x.past.length) ({} : LineSym) ++ x.past ++ rowSyms s e).map (symValue (rowEnergy s e) lane)

/-- The codes of a row on a lane, before the limit. -/
def dacRow (s : State) (e lane : Nat) : List Int :=
  let x := txEng s e
  let n := rowLen x
  if n = 0 then []
  else
    let sh := laneShape s e lane
    let tabs := laneTables sh
    let a := ceilDiv (5 * x.first) 4
    ((List.range (ceilDiv (5 * (x.first + n)) 4 - a)).foldl (fun t i => dacStep sh tabs x.first t (a + i)) ([], rowValues s e lane, 0)).1.reverse

/-! ### Limited samples (R221) -/

/-- The largest dimension of a symbol. -/
def symPeak (energy : Int) (y : LineSym) : Int :=
  y.v.foldl (fun (m : Int) v => max m v.natAbs) 0 * (if y.ref then fxSqrt energy else fxOne)

/-- No symbol of the row, or before it, is larger than this in any dimension: those held, and what the calibration waveform can hold. -/
def rowPeak (s : State) (e : Nat) : Int :=
  let x := txEng s e
  let c := txRule s e
  let energy := rowEnergy s e
  (x.past ++ x.sent).foldl (fun m y => max m (symPeak energy y)) (max (fxSqrt energy) ((if lcFormat c = 0 then 1 else if lcFormat c = 1 then 3 else 7) * fxOne))

/-- What a code of a lane is at most, with symbols up to `peak`: `dacCode` with every term at its largest, and what the roundings can add. -/
def laneCrest (peak : Int) (sh : LaneShape) : Int :=
  (sh.corr.eraseDups.map fun c =>
    let top := ((pulseTable sh.resp c.1).map fun p => (p.map fun v => fxMul peak v.natAbs + 1).foldl (· + ·) 0).foldl max 0
    fxMul (fxMul top sh.scale.natAbs + 1) c.2.1.natAbs + 1 + c.2.2.natAbs).foldl max 0

/-- A code of the row can reach the limit on some lane. Most rows of a modest DRIVE cannot, and need no look at their samples. -/
def mayClip (s : State) (e : Nat) : Bool :=
  let peak := rowPeak s e
  ((List.range 4).map (laneShape s e)).eraseDups.any fun sh => decide (126 * fxOne < laneCrest peak sh)

/-- A sample of the row is limited on some lane (R221): `rowClips_eq` says that this is what the codes show. -/
def rowClips (s : State) (e : Nat) : Bool :=
  decide (rowLen (txEng s e) ≠ 0) && mayClip s e && (List.range 4).any fun l => (dacRow s e l).any fun v => decide (dacLimit v ≠ v)

/-- The LTX pins of an engine in this row, lane by lane: none where they are not driven; 0 where no superframe is sent (R224). -/
def ltxPins (s : State) (e : Nat) : Option (List (List Int)) :=
  if !enginePresent s e || !alive s then none else some ((List.range 4).map fun l => (dacRow s e l).map dacLimit)

/-- Sample rate of a slice in kS/s: fs/8. -/
def sliceRate (s : State) (e : Nat) : Nat × Nat := let r := txSymbolRate s e; (r.1 * 5, r.2 * 32)

end Sys2Proof.Machine
end

