-- ==== Sys2Proof/Machine/LineSend.lean ====
section
/-! DEFINITION. The stream of a line transmitter: OTUCn bits into codewords, codewords into data symbols, data symbols into superframes, row by row (07_line_transmitter R216, R225, R231, R233; 09_line_fec_and_overhead R270, R271). -/

namespace Sys2Proof.Machine

/-! ### Codewords (R270) -/

/-- OTUCn bits that any codeword can take at most. -/
def feedBits : Nat := 30000

/-- The framer is asked for the next OTUCn frame when the stream runs short of bits. -/
def feedFrame (e : Fin 4) (s : State) : State := if (txEng s e).bits.length < feedBits then otucFrameTx (.line e) [] s else s

/-- `n` label bits: the queue, refilled by the matcher from the next k bits whenever it is empty (R270). Gives the label bits, the bits left and the queue left. -/
def drawLabels (entropy : Nat) : Nat → Nat → List Bool → List Bool → List Bool × List Bool × List Bool
  | 0, _, bits, q => ([], bits, q)
  | fuel + 1, n, bits, q =>
    if n ≤ q.length then (q.take n, bits, q.drop n)
    else
      let k := matcherBits entropy
      let r := drawLabels entropy fuel (n - q.length) (bits.drop k) ((matcherBlock entropy (bits.take k)).flatMap labelBits)
      (q ++ r.1, r.2)

/-- The next codeword of the sequence, and what is left of bits and labels. -/
def nextCodeword (format entropy : Nat) (bits labels : List Bool) : List Bool × List Bool × List Bool :=
  if format ≠ 2 then (codeword (bits.take 30000), bits.drop 30000, labels)
  else
    let r := drawLabels entropy 48 23520 (bits.drop 6480) labels
    (codeword (r.1 ++ bits.take 6480), r.2)

/-- Codeword i fills data symbols i × c to i × c + c − 1 of the stream (R271). -/
def formCodeword (e : Fin 4) (s : State) : State :=
  let s := feedFrame e s
  let c := txRule s e
  onTxEng e (fun x =>
    let w := nextCodeword (lcFormat c) (lcEntropy c) x.bits x.labels
    { x with bits := w.2.1, labels := w.2.2, queue := x.queue ++ codewordSyms (lcFormat c) w.1, cwNext := x.cwNext + 1 }) s

/-- Codewords are formed until `n` data symbols wait. -/
def formCodewords (e : Fin 4) (n : Nat) : Nat → State → State
  | 0, s => s
  | k + 1, s => if n ≤ (txEng s e).queue.length then s else formCodewords e n k (formCodeword e s)

/-! ### Row by row -/

/-- Symbols of a position of the superframe, in the scale of `symPos`. -/
def symScale (s : State) (e : Nat) : Nat := 6250 * (txSymbolRate s e).2

/-- Symbols that begin in the next row. -/
def rowCount (s : State) (e : Nat) : Nat :=
  let x := txEng s e
  ceilDiv (x.symPos + (txSymbolRate s e).1) (symScale s e) - ceilDiv x.symPos (symScale s e)

/-- A row of traffic: data symbols of the codewords in the superframe (R216, R270, R271). -/
def trafficRow (e : Fin 4) (n first : Nat) (s : State) : State :=
  let s := formCodewords e n (n / 2940 + 1) s
  let x := txEng s e
  let r := composeSyms s e n first x.sfc 1#16 x.queue
  onTxEng e (fun x => { x with
    sent := r.out.reverse, calLen := 0, queue := r.data, sfc := r.count
    symNext := x.symNext + (x.queue.length - r.data.length) }) s

/-- A row of the calibration waveform. Its symbols follow from the register at its start, so only the last are held, which the pulses of the next row reach (R233). -/
def calRow (e : Fin 4) (n first : Nat) (s : State) : State :=
  let x := txEng s e
  let st := if x.prbs = 0 then 1 + Config.calSeed e % (2 ^ 31 - 1) else x.prbs
  let s := onTxEng e (fun x => { x with
    calLen := n, calFrom := st, calSfc := x.sfc, queue := []
    prbs := prbs31Skip (symbolBits (lcFormat (txRule s e)) * dataAmong (bondedNow s) e first n) st
    sfc := x.sfc + BitVec.ofNat 16 (framesAmong first n) }) s
  onTxEng e (fun x => { x with sent := calSyms s e (n - 2 * pulseReach) (min n (2 * pulseReach)) }) s

/-- An engine that is silent sends no symbol; a bonded one keeps step with its group (R231). -/
def silentRow (e : Nat) (s : State) : State :=
  let r := txSymbolRate s e
  let n := rowCount s e
  let i := ceilDiv (txEng s e).symPos (symScale s e) % 262144
  onTxEng e (fun x => { x with
    sent := [], past := [], calLen := 0, queue := [], bits := [], labels := []
    symPos := if bondedNow s then (x.symPos + r.1) % (262144 * symScale s e) else x.symPos
    sfc := if bondedNow s then x.sfc + BitVec.ofNat 16 (framesAmong i n) else x.sfc }) s

/-- The superframe symbols of an engine in this row: traffic, the calibration waveform, or nothing (R224, R225). A row with a limited sample counts once in TX_CLIP (R221). -/
def engineRow (e : Fin 4) (s : State) : State :=
  let s := if enginePresent s e then onTxEng e (fun x => { x with symAt := x.symPos, sfcAt := x.sfc }) s else s
  if !enginePresent s e then s
  else if !alive s || inQuench s || !(txSending (txEng s e) || calSending (txEng s e)) then silentRow e s
  else
    let n := rowCount s e
    let p := (txEng s e).symPos
    let first := ceilDiv p (symScale s e) % 262144
    let s := onTxEng e (fun x => { x with
      past := (x.past ++ x.sent).drop ((x.past ++ x.sent).length - 2 * pulseReach)
      first := first, symPos := (p + (txSymbolRate s e).1) % (262144 * symScale s e) }) s
    let s := if txSending (txEng s e) then trafficRow e n first s else calRow e n first s
    noteClip e (rowClips s e) s

/-- The stream of an engine begins: codeword 0, the first OTUCn frame, and, where the engine is not bonded, a superframe (R271). A bonded engine is where its group is at the start of this row (R231). -/
def streamBegin (e : Nat) (s : State) : State :=
  onTxEng e (fun x => { x with
    bits := [], labels := [], queue := [], past := [], sent := [], calLen := 0, cwNext := 0, symNext := 0
    symPos := if bondedNow s then x.symAt else 0, sfc := if bondedNow s then x.sfcAt else x.sfc }) s

/-- TX_LASER_WAIT_END, at a row 0: RAMP_UP, which sends superframes with traffic from this row on (R225). -/
def laserWaitEnd (e : Fin 4) (s : State) : State :=
  let x := txEng s e
  if x.state = .laserWait && s.stk.row = 0 && lcLaserWait x.cfg ≤ x.wait then
    engineRow e (onTxEng e (fun x => { x with state := .rampUp, j := 0, m := rampRows x.cfg }) (streamBegin e s))
  else s
def execTxLaserWaitEnd (e : Fin 4) (s : State) : Host.Outcome State Fault Refusal := ok (laserWaitEnd e s)

/-- TX_RAMP_DONE, at row 0 after the last row of the ramp. An engine that reaches DARK sends nothing of its stream in this row: 0, or the calibration waveform (R224–R226, R233). -/
def rampDone (e : Fin 4) (s : State) : State :=
  let x := txEng s e
  if s.stk.row = 0 && x.m ≤ x.j && (x.state = .rampUp || x.state = .rampDown) then
    let s := note evLinTxRampDone e 1 (onTxEng e (fun x => { x with state := if x.state = .rampUp then .on else .dark }) s)
    if x.state = .rampUp then s
    else engineRow e (onTxEng e (fun x => { x with past := [], sent := [], symPos := x.symAt, sfc := x.sfcAt }) s)
  else s
def execTxRampDone (e : Fin 4) (s : State) : Host.Outcome State Fault Refusal := ok (rampDone e s)

/-! ### ODU-OCI from the first row of a falling ramp (R23, R225, R290) -/

/-- Byte i of an OTUCn frame of n slices: its place in its slice's frame (R277). -/
def framePlace (n i : Nat) : Nat := 16 * (i / (16 * n)) + i % 16

/-- A place in rows 2–4 or in the OPUCn of row 1: 0x66 of ODU-OCI shows STAT 110 too (R290). -/
def oduPlace (j : Nat) : Bool := decide (14 ≤ j)

/-- Bytes that stand at byte `first` of a frame and on, with the ODU replaced with ODU-OCI, and the parity by which the OPUCn of each slice changes: the scrambler's bytes stay (R278, R288). -/
def ociBytes (n first : Nat) (bs mask : List Byte) : List Byte × List (Nat × Byte) :=
  Prod.map List.reverse id (bs.zipIdx.foldl (fun (t : List Byte × List (Nat × Byte)) b =>
    let i := first + b.2
    let j := framePlace n i
    if oduPlace j then
      let v := 0x66#8 ^^^ mask.getD (j - 6) 0#8
      (v :: t.1, if 14 ≤ j % 3824 then tmod 0#8 t.2 (i / 16 % n) (· ^^^ b.1 ^^^ v) else t.2)
    else (b.1 :: t.1, t.2)) ([], []))

/-- The frames that are formed and not yet in a codeword carry ODU-OCI too: the end of the last one, and before it what is left of the one before. Bits in bytes of which a part is sent stay. -/
def ociFormed (e : Fin 4) (s : State) : State :=
  let n := txRate s e
  let x := txEng s e
  let keep := x.bits.length % 8
  let bs := markedBytes (x.bits.length / 8) ((x.bits.drop keep).map (·, false))
  let f := 15296 * n
  let old := bs.length - f
  let mask := scramMask 15290 65535
  let a := ociBytes n (f - old) ((bs.take old).map Prod.fst) mask
  let b := ociBytes n (f - (bs.length - old)) ((bs.drop old).map Prod.fst) mask
  let s := onTxEng e (fun x => { x with bits := x.bits.take keep ++ bitsOfBytes (a.1 ++ b.1) }) s
  onOtnId (.line e) (fun y => { y with slices := y.slices.map fun z => (z.1, { z.2 with
    txPar := z.2.txPar.zipIdx.map fun p => if p.2 + 1 = z.2.txPar.length then p.1 ^^^ tget 0#8 b.2 z.1 else if p.2 + 2 = z.2.txPar.length then p.1 ^^^ tget 0#8 a.2 z.1 else p.1 }) }) s

/-- In the first row of a falling ramp. -/
def ociRow (s : State) : State :=
  (List.finRange 4).foldl (fun s (e : Fin 4) => if (txEng s e).state = .rampDown && (txEng s e).fresh && !(txEng s e).bits.isEmpty then ociFormed e s else s) s

/-- The engines in this row. -/
def enginesRow (s : State) : State := (List.finRange 4).foldl (fun s e => engineRow e s) s

end Sys2Proof.Machine
end

