-- ==== Sys2Proof/Machine/Buffers.lean ====
section
/-! DEFINITION. Errors in the on-chip memories for traffic and packets, whose bytes store check bits (15_memory_integrity_and_counters R426–R429). -/

namespace Sys2Proof.Machine

/-- A byte of which the stored bits `bits` have flipped, as it is read: a slag-marked byte is stored with its check bits inverted (R427, R428). -/
def upsetByte (bits : List Nat) (x : SByte) : ByteRead :=
  let df := BitVec.ofNat 8 (bitsOf (bits.filter fun i => decide (i < 8)))
  let cf := BitVec.ofNat 6 (bitsOf ((List.range 6).filter fun i => bits.contains (i + 8)))
  decodeByte (x.1 ^^^ df) ((checkBits x.1 ^^^ (if x.2 then 0x3F#6 else 0#6)) ^^^ cf)

/-- Byte `i` of a memory is read: what is delivered, with the mark of an uncorrectable byte, and the number of bytes mended. -/
def upsetAt (bits : List Nat) (i : Nat) (l : List SByte) : List SByte × Nat :=
  match l[i]? with
  | none => (l, 0)
  | some x => let r := upsetByte bits x; (l.set i (r.val, r.slag), flag r.mended)

def cellBytes (c : Cell) : List SByte := [(c.b0, c.s0), (c.b1, c.s1)]
def cellOf (l : List SByte) : Cell := let a := l.getD 0 (0#8, false); let b := l.getD 1 (0#8, false); { b0 := a.1, b1 := b.1, s0 := a.2, s1 := b.2 }

/-- The rows of an aligner with byte `i` of row `k` read. -/
def upsetRows (bits : List Nat) (k i : Nat) (l : List (Nat × List (Nat × Cell))) : List (Nat × List (Nat × Cell)) × Nat :=
  match l[k]? with
  | none => (l, 0)
  | some row =>
    let r := upsetAt bits (i % 2) (cellBytes (tget {} row.2 (i / 2)))
    (l.set k (row.1, tset {} row.2 (i / 2) (cellOf r.1)), r.2)

/-- A frame of a grooming queue with byte `i` read: none where the byte is uncorrectable, as the frame is then rewound (R324, R429; DESIGN CHOICE, log entry 127). -/
def upsetFrame (bits : List Nat) (i : Nat) (f : List Byte) : Option (List Byte) × Nat :=
  let r := upsetAt bits i (f.map (·, false))
  (if r.1.any Prod.snd then none else some (r.1.map Prod.fst), r.2)

def putFrame {α : Type} (k : Nat) (l : List α) : Option α → List α
  | some x => l.set k x
  | none => l.eraseIdx k

/-- A reply with byte `i` read. The word of an uncorrectable byte reads zero; a result word makes the reply SLAGGED (R74, R429). Its CRC is formed as it leaves (DESIGN CHOICE, log entry 127). -/
def upsetReply (bits : List Nat) (i : Nat) (ws : List W32) : List W32 × Nat :=
  let r := upsetAt bits i ((bytesOfWords ws).map (·, false))
  if !(r.1.any Prod.snd) then (wordsOfBytes (r.1.map Prod.fst), r.2)
  else
    let body := setAt ws.dropLast (i / 4) 0#32
    let body := if 5 ≤ i / 4 && decide (fld (ws.getD 4 0#32) 31 16 = 0) then setAt body 4 (statusWord { st := .slagged, detail := i / 4 - 5 }) else body
    (body ++ [crcWords body], r.2)

/-- The read of a byte with an error. A command packet with an uncorrectable byte is not executed and is answered as a transport error (DESIGN CHOICE, log entry 127). -/
def bufUpset (u : BufUpset) (s : State) : State :=
  let mend := fun (n : Nat) (s : State) => note evIntChkCorr 0 n s
  match u.buf with
  | .fabAligner p row => let r := upsetRows u.bits row u.idx (portOf s p).aligner; mend r.2 (onPort p (fun x => { x with aligner := r.1 }) s)
  | .lineAligner e k row =>
    let r := upsetRows u.bits row u.idx (tget {} (otnOf s e).slices k).queue
    mend r.2 (onOtnId (.line (Fin.ofNat 4 e)) (fun x => { x with slices := tmod {} x.slices k fun y => { y with queue := r.1 } }) s)
  | .mapper c => let r := upsetAt u.bits u.idx (srcOf s c).buf; mend r.2 (onSrc c (fun x => { x with buf := r.1 }) s)
  | .cipher c k =>
    match (snkOf s c).flow[k]? with
    | none => s
    | some b => let r := upsetAt u.bits u.idx b.fr; mend r.2 (onSnk c (fun x => { x with flow := x.flow.set k { b with fr := r.1 } }) s)
  | .groomStage g => let r := upsetAt u.bits u.idx (slotOf s g).staged; mend r.2 (onSlot g (fun x => { x with staged := r.1 }) s)
  | .groomIn p k =>
    match (inqOf s p)[k]? with
    | none => s
    | some f =>
      let r := upsetFrame u.bits u.idx f
      note evCliGrmRxBad p (flag r.1.isNone) (mend r.2 (s.onGrm fun v => { v with inq := tset [] v.inq p (putFrame k (inqOf s p) r.1) }))
  | .groomOut p k =>
    match (outqOf s p)[k]? with
    | none => s
    | some f =>
      let r := upsetFrame u.bits u.idx f.2
      note evCliGrmUnpackBad p (flag r.1.isNone) (mend r.2 (s.onGrm fun v => { v with outq := tset [] v.outq p (putFrame k (outqOf s p) (r.1.map fun b => (f.1, b))) }))
  | .command q k =>
    match (cqOf s q)[k]? with
    | none => s
    | some ws =>
      let r := upsetFrame u.bits u.idx (bytesOfWords ws)
      let left := putFrame k (cqOf s q) (r.1.map wordsOfBytes)
      let s := mend r.2 (levelEvent q (qfill s q) (wordsIn left) (s.onCmd fun v => { v with cq := tset [] v.cq q left }))
      if r.1.isNone then rawReply (Fin.ofNat 6 q) ws { st := .badCrc, detail := 1 } s else s
  | .reply q k =>
    match (rqOf s q)[k]? with
    | none => s
    | some ws => let r := upsetReply u.bits u.idx ws; mend r.2 (s.onCmd fun v => { v with rq := tset [] v.rq q ((rqOf s q).set k r.1) })

def bufUpsets : List BufUpset → State → State
  | [], s => s
  | u :: r, s => bufUpsets r (bufUpset u s)

end Sys2Proof.Machine
end

