-- ==== Sys2Proof/Machine/Stroke.lean ====
section
/-! DEFINITION. The clock of the device: the work of a row, and what a stroke boundary does in its order (01 R19, 02 R29–R41). -/

namespace Sys2Proof.Machine

/-! ### Row work (R30) -/

def eachNum (f : Nat → State → State) : List Nat → State → State
  | [], s => s
  | n :: r, s => eachNum f r (f n s)

def eachClient : List ClientIn → State → State
  | [], s => s
  | x :: r, s => eachClient r (enterClient x s)

def eachOtnId (f : OtnId → State → State) : List OtnId → State → State
  | [], s => s
  | i :: r, s => eachOtnId f r (f i s)

/-- The ingress row becomes the row before, and a new one begins (R19). -/
def turnIngress (s : State) : State :=
  s.onRows fun v => { v with prevIngress := v.ingress, prevFill := v.winFill, prevMarked := v.marked, ingress := [], winFill := [], marked := [] }

/-- What enters the ingress side in this row: client lanes, container sources, fabric, line and protection outputs, under the errors injected in it. -/
def ingressWork (x : RowIn) (s : State) : State :=
  let s := clientDataRow x.clientData (injectRow s)
  let s := lanesRow x.lanesLocked (eachClient (clientInput x.client s) s)
  let s := fabIngress (List.range 12) (sourcesRow false (enabledSrc s) s)
  protRow x (eachNum lineIngress (List.range (engines s)) s)

/-- What leaves the egress side in this row: the transit, the LINE_TEST sources, the row blocks of the line, the sinks' fills, the demappers and the analysers. -/
def egressWork (x : RowIn) (s : State) : State :=
  let s := clearLineTest (transit (fun g => pgOffset (pgCfgOf s g)) x.swErrs s)
  let s := eachNum lineTxRow (List.range (engines s)) (sourcesRow true (enabledSrc s) s)
  let s := sinksRow (enabledSnk s) s
  analysersRow (demapRows (demapPorts s) s)

/-- The work of one row. The link row of row t carries the egress billets of row t − 1 (R178), so it is sent before the transit. The selectors of row 0 have chosen at its changes (`groupsRow0`). -/
def rowWork (x : RowIn) (s : State) : State :=
  let s := eachOtnId (fun i s => otnPmRow i (lineSsf i (framesRow i s))) (otnIds s) s
  let s := turnIngress (if s.stk.row = 0 then s else eachGroup groupRow (enabledGroups s) s)
  let s := laneSignals x.laneRx (clientTraining (eachNum fabSend (List.range 12) s))
  let s := slipRow x.slips (eachNum iterRow (List.range (engines s)) (eachNum rxTimers (List.range (engines s)) (enginesRow (rampRow (ociRow s)))))
  joinChanges x.oneCycle (memoryRow x (bufUpsets x.bufUpsets (drainRq5 (egressWork x (ingressWork x s)))))

/-- ROW_TICK: the next row of the stroke. After row 124 comes row 0 of the next stroke, at the stroke boundary (R29). -/
def rowTick (x : RowIn) (s : State) : State :=
  if !alive s || decide (124 ≤ s.stk.row) then s
  else rowWork x ((clientTxIdle s).onStk fun v => { v with row := v.row + 1 })
def execRowTick (x : RowIn) (s : State) : Host.Outcome State Fault Refusal := ok (rowTick x s)

/-! ### The stroke that ends -/

/-- The failing conditions of R50 that the device itself sees at a candidate: bit 0 the missing STRK_IN edge of the stroke
is judged at its end, bit 2 the source's loss, bit 3 no announcement in the stroke. -/
def seenConds (s : State) (c : Nat) : Nat :=
  if 4 ≤ c ∧ c < 8 then flag (decide ((rxEng s (c - 4)).state ≠ .locked)) * 4
  else if 8 ≤ c ∧ c < 20 then flag (portOf s (c - 8)).dFlos * 4 + flag (!(s.root.anns.any fun a => a.1 = c - 8)) * 8
  else if 20 ≤ c then flag (laneOf s (fld (refCfg s c) 21 16)).los * 4
  else 0

/-- A condition of R50 holds at a candidate: an edge is missed outside, the others show in the device. -/
def condHolds (s : State) (c : Nat) : RefCause → Bool
  | .edge => true
  | .freq => (tget 0 s.clk.failWhy c).testBit 1
  | .source => (seenConds s c).testBit 2
  | .announcement => (seenConds s c).testBit 3

/-- REF_FAIL (R50): only an enabled candidate is monitored. Reselection, or HOLDOVER or LOST, follows at the next row 0 (R46). -/
def execRefFail (c : Fin 24) (why : RefCause) (s : State) : Host.Outcome State Fault Refusal :=
  ok (if bit (refCfg s c) 0 && !refAbsent s c && condHolds s c why then
    failRef c (s.onClk fun v => { v with failWhy := tmod 0 v.failWhy c (fun m => m ||| 1 <<< (RefCause.num why)) })
  else s)

/-- The conditions of the stroke at every monitored candidate (R50, R53). -/
def strokeConds (x : StrokeIn) (s : State) : List (Nat × Nat) :=
  ((List.range 24).filter fun c => bit (refCfg s c) 0 && !refAbsent s c).map fun c =>
    (c, (flag (x.refDark.contains c || strkInMissing s c) + 2 * flag (freqCond s c)) ||| seenConds s c)

/-- Reference candidates and clock states over the stroke: a candidate at which a condition held has failed. -/
def clkStroke (x : StrokeIn) (s : State) : State :=
  let s := measureRefs x s
  let l := strokeConds x s
  eachNum failRef ((l.filter fun c => c.2 ≠ 0).map Prod.fst) (ageClk l (strkInPhase s))

/-- A follower that missed its root in the stroke declares it lost (R58). -/
def rootStroke (s : State) : State := if seqMissed s then declareLoss s else s

/-- What is judged at the end of a stroke, under the settings in force in it. -/
def strokeEnd (x : StrokeIn) (second : Bool) (s : State) : State :=
  let s := sinksStroke second (enabledSnk s) (rootStroke (clkStroke x s))
  let s := fabStroke (eachGroup (groupStroke second) (enabledGroups s) s)
  let s := otnStroke second (rxStroke x (txStroke x (cliStroke x s)))
  hbmStroke x.hbmStuck x.readLimit (optStroke x (thermStroke x.tj (keySequenceEnd x.keyStuck (keyStroke x.drbgRequests s))))

/-- The end of a performance-monitoring second (R31, R436, R447). -/
def secondEnd (s : State) : State :=
  let s := otnSecondDone (pmSecond (pmSes s) (eachNum sdegSecond (List.range 12) s))
  let (s, banks) := swSecond s
  eachNum (fun b s => retireResource 2 b 0 s) banks s

/-! ### The number of the stroke that begins (R29, R36, R37, R63, R64) -/

/-- A STROKE_JOIN that is due at the next row 0. -/
def joinDue (s : State) : Bool := s.commits.any fun c => c.opcode = opStrokeJoin.code && decide (c.stroke = some (s.stk.scnt + 1#48))

/-- The step at this row 0, if there is one: the number, how far it moves recorded times (10 ps), and whether it aligns the device. -/
def nextStep (s : State) : Option (W48 × Int × Bool) :=
  match (if joinDue s then joinStep s else none) with
  | some a => some (a.1, a.2, true)
  | none =>
    match alignStep s with
    | some a => some (a.1, a.2, true)
    | none =>
      match s.stk.setTo with
      | some n => if n = s.stk.scnt + 1#48 then none else some (n, ((n.toNat : Int) - (scnt s + 1 : Nat)) * 2000000, false)
      | none => none

/-- A pending entry at or before the first stroke under the new numbering. -/
def overtaken (n : W48) (c : Commit) : Bool := match c.stroke with | some k => decide (k.toNat ≤ n.toNat) | none => false

/-- A stroke step: counted, and the pending entries that it overtakes discarded (R36, R37). -/
def stepEffects (n : W48) (shift : Int) (align : Bool) (s : State) : State :=
  let lost := s.commits.filter (overtaken n)
  let s := note evStkCommitDiscard 0 lost.length (note evStkStrokeStep 0 1 (s.onCommits fun l => l.filter fun c => !overtaken n c))
  (s.onStk fun v => { v with stepCount := BitVec.ofNat 16 (satAdd 65535 v.stepCount.toNat 1) }).onRoot fun v => { v with
    aligned := v.aligned || align
    anns := v.anns.map fun a => (a.1, shiftAnn shift a.2), prevAnns := v.prevAnns.map fun a => (a.1, shiftAnn shift a.2)
    lastArr := v.lastArr.map fun a => (a.1, a.2 + shift) }

/-- A STROKE_JOIN that is due has acted. -/
def dropJoin (s : State) : State :=
  s.onCommits fun l => l.filter fun c => !(c.opcode = opStrokeJoin.code && decide (c.stroke = some (s.stk.scnt + 1#48)))

/-! ### Row 0 (R40) -/

/-- Selections at row 0 (R158–R163): the causes of the stroke before and the commits, server SF declared in row 124, the commands, the selection, the bytes sent. -/
def groupsRow0 (s : State) : State :=
  let s := eachGroup groupLatch (enabledGroups s) s
  let s := eachOtnId lineSsf (otnIds s) s
  let s := eachGroup (fun g c s => serverStep g c true (serverStep g c false s)) (enabledGroups s) s
  let s := eachGroup groupSelect (enabledGroups s) (eachGroup groupCommand (enabledGroups s) s)
  eachGroup groupSend (enabledGroups s) s

/-- What changes at row 0 with the writes that come into force there (R46, R58, R160, R188, R201, R205, R404, R421). A port that this row 0 finds foreign is declared in row 0 and acts on the selectors from row 1 (R64, R154). -/
def changesAfter (pick : Option Nat × Nat) (s : State) : State :=
  let s := retireRow0 (restoreRow0 s)
  let s := groupsRow0 (routesRow0 (addrRow0 (eachNum portRow0 (List.range 12) s)))
  foreignMoves s.root.foreign (List.range 12) (rootRow0 pick s)

/-- The writes due at row 0, and what changes at the same instant (R35). -/
def changesRow0 (s : State) : State := changesAfter (localPick s) (commitsRow0 (blMoves (List.range 8) s))

/-- The frames of every container formed at row 0 (R131). -/
def formFrames (s : State) : State := eachNum (formFrame (apsOf s)) ((enabledSrc s).map Prod.fst) s

/-- Row 0 after the changes: optics, security, container frames, counters, capture of a profile. -/
def startRow0 (x : StrokeIn) (s : State) : State :=
  let s := formFrames (contextsRow0 (rxRow0 (txRow0 (optRow0 x s))))
  let s := pmSnapshot (decide (scnt s % 50000 = 0)) (pmRow0 s.stk.secondEnd s)
  storeRow0 (windowsStart s)

/-- The number of the stroke that begins (R29, R36). -/
def nextNumber (s : State) : W48 := match nextStep s with | some a => a.1 | none => s.stk.scnt + 1#48

/-- A second ends with the stroke. -/
def endsSecond (s : State) : Bool := (nextStep s).isSome || decide ((nextNumber s).toNat % 50000 = 0)

/-- The stroke that ends is judged, and with it the second. -/
def strokeEnds (x : StrokeIn) (s : State) : State :=
  let t := strokeEnd x (endsSecond s) s
  if endsSecond s then secondEnd t else t

/-- The next stroke gets its number: that of the step, which overtakes entries, if there is one. -/
def strokeBegins (x : StrokeIn) (s : State) : State :=
  let t := windowsEnd ((dropJoin (strokeEnds x s)).onStk fun v => { v with
    scnt := nextNumber s, row := 0, run := v.run + 1, setTo := none, strkIn := none, secondEnd := endsSecond s, stepped := (nextStep s).isSome })
  let t := match nextStep s with | some a => stepEffects a.1 a.2.1 a.2.2 t | none => t
  if endsSecond s then modeSecond t else t

/-- The stroke boundary: the stroke that ends is judged, the next one gets its number, and row 0 does its work (R29, R35, R36, R40). -/
def strokeBoundary (x : StrokeIn) (s : State) : State :=
  if !alive s then s else rowWork x.row (startRow0 x (changesRow0 (strokeBegins x s)))
def execStrokeBoundary (x : StrokeIn) (s : State) : Host.Outcome State Fault Refusal := ok (strokeBoundary x s)

end Sys2Proof.Machine
end

