-- ==== Sys2Proof/Machine/Dispatch.lean ====
section
/-! DEFINITION. One arm per constructor of `Instr`: a direct call of its meaning. -/

namespace Sys2Proof.Machine

def exec (i : Instr) (s : State) : Host.Outcome State Fault Refusal :=
  match i with
  | .rstnLow ns => Sys2Proof.Machine.execRstnLow ns s
  | .rstnRelease => Sys2Proof.Machine.execRstnRelease s
  | .perstNAssert => Sys2Proof.Machine.execPerstNAssert s
  | .perstNRelease => Sys2Proof.Machine.execPerstNRelease s
  | .powerLoss vddIoMv => Sys2Proof.Machine.execPowerLoss vddIoMv s
  | .railFault rail uv rows => Sys2Proof.Machine.execRailFault rail uv rows s
  | .thermTrip temp rows => Sys2Proof.Machine.execThermTrip temp rows s
  | .thermWarn temp rows => Sys2Proof.Machine.execThermWarn temp rows s
  | .pllUnlock rows => Sys2Proof.Machine.execPllUnlock rows s
  | .severeFaultClear f strokes => Sys2Proof.Machine.execSevereFaultClear f strokes s
  | .jtagInstructionLoad j => Sys2Proof.Machine.execJtagInstructionLoad j s
  | .strkInEdge t => Sys2Proof.Machine.execStrkInEdge t s
  | .rowTick x => Sys2Proof.Machine.execRowTick x s
  | .strokeBoundary x => Sys2Proof.Machine.execStrokeBoundary x s
  | .refFail c why => Sys2Proof.Machine.execRefFail c why s
  | .refWtrClear c => Sys2Proof.Machine.execRefWtrClear c s
  | .clockLock => Sys2Proof.Machine.execClockLock s
  | .acqTimeout => Sys2Proof.Machine.execAcqTimeout s
  | .historyValid => Sys2Proof.Machine.execHistoryValid s
  | .holdoverExpired => Sys2Proof.Machine.execHoldoverExpired s
  | .lostListExpiry => Sys2Proof.Machine.execLostListExpiry s
  | .rootCandidateTimeout => Sys2Proof.Machine.execRootCandidateTimeout s
  | .cmdTailDoorbell ch v => Sys2Proof.Machine.execCmdTailDoorbell ch v s
  | .cmdSizeWrite ch v => Sys2Proof.Machine.execCmdSizeWrite ch v s
  | .rplSizeWrite ch v => Sys2Proof.Machine.execRplSizeWrite ch v s
  | .rplHeadWrite ch v => Sys2Proof.Machine.execRplHeadWrite ch v s
  | .cmdFlush mask => Sys2Proof.Machine.execCmdFlush mask s
  | .rplFlush mask => Sys2Proof.Machine.execRplFlush mask s
  | .intStatusW1c w => Sys2Proof.Machine.execIntStatusW1c w s
  | .bar0RegisterWrite off v => Sys2Proof.Machine.execBar0RegisterWrite off v s
  | .pciePacketFetch ch ws f => Sys2Proof.Machine.execPciePacketFetch ch ws f s
  | .replyRingWrite w => Sys2Proof.Machine.execReplyRingWrite w s
  | .pktWrite p => Sys2Proof.Machine.execPktWrite p s
  | .rplRead clocked => Sys2Proof.Machine.execRplRead clocked s
  | .statusRead => Sys2Proof.Machine.execStatusRead s
  | .flush b => Sys2Proof.Machine.execFlush b s
  | .spiBad b => Sys2Proof.Machine.execSpiBad b s
  | .commandTake => Sys2Proof.Machine.execCommandTake s
  | .fabricReplyRx ws => Sys2Proof.Machine.execFabricReplyRx ws s
  | .fwdTimeout => Sys2Proof.Machine.execFwdTimeout s
  | .echo rq => Sys2Proof.Machine.execEcho rq s
  | .capsRead rq => Sys2Proof.Machine.execCapsRead rq s
  | .sysStatusRead rq => Sys2Proof.Machine.execSysStatusRead rq s
  | .queueStatusRead rq => Sys2Proof.Machine.execQueueStatusRead rq s
  | .queueCfg rq => Sys2Proof.Machine.execQueueCfg rq s
  | .queueFlush rq => Sys2Proof.Machine.execQueueFlush rq s
  | .accessPolicyRead rq => Sys2Proof.Machine.execAccessPolicyRead rq s
  | .accessPolicyWrite rq => Sys2Proof.Machine.execAccessPolicyWrite rq s
  | .intClear rq => Sys2Proof.Machine.execIntClear rq s
  | .strokeRead rq => Sys2Proof.Machine.execStrokeRead rq s
  | .strokeSet rq => Sys2Proof.Machine.execStrokeSet rq s
  | .strokeCfg rq => Sys2Proof.Machine.execStrokeCfg rq s
  | .strokeJoin rq => Sys2Proof.Machine.execStrokeJoin rq s
  | .refCfg rq => Sys2Proof.Machine.execRefCfg rq s
  | .refStatusRead rq => Sys2Proof.Machine.execRefStatusRead rq s
  | .refForce rq => Sys2Proof.Machine.execRefForce rq s
  | .clkCfg rq => Sys2Proof.Machine.execClkCfg rq s
  | .commitListRead rq => Sys2Proof.Machine.execCommitListRead rq s
  | .commitCancel rq => Sys2Proof.Machine.execCommitCancel rq s
  | .mapWrite rq => Sys2Proof.Machine.execMapWrite rq s
  | .mapCommit rq => Sys2Proof.Machine.execMapCommit rq s
  | .mapSync rq => Sys2Proof.Machine.execMapSync rq s
  | .mapSyncDone => Sys2Proof.Machine.execMapSyncDone s
  | .mapRead rq => Sys2Proof.Machine.execMapRead rq s
  | .mapStatusRead rq => Sys2Proof.Machine.execMapStatusRead rq s
  | .contCfg rq => Sys2Proof.Machine.execContCfg rq s
  | .contRead rq => Sys2Proof.Machine.execContRead rq s
  | .contStatusRead rq => Sys2Proof.Machine.execContStatusRead rq s
  | .containerFrameRx sink n rho => Sys2Proof.Machine.execContainerFrameRx sink n rho s
  | .baCfg rq => Sys2Proof.Machine.execBaCfg rq s
  | .baRead rq => Sys2Proof.Machine.execBaRead rq s
  | .testRead rq => Sys2Proof.Machine.execTestRead rq s
  | .errInject rq => Sys2Proof.Machine.execErrInject rq s
  | .pgCfg rq => Sys2Proof.Machine.execPgCfg rq s
  | .pgRead rq => Sys2Proof.Machine.execPgRead rq s
  | .pgStatusRead rq => Sys2Proof.Machine.execPgStatusRead rq s
  | .pgCmd rq => Sys2Proof.Machine.execPgCmd rq s
  | .alnRealign rq => Sys2Proof.Machine.execAlnRealign rq s
  | .alnStatusRead rq => Sys2Proof.Machine.execAlnStatusRead rq s
  | .pgSummaryRead rq => Sys2Proof.Machine.execPgSummaryRead rq s
  | .pgHoldoffExpiry g copy => Sys2Proof.Machine.execPgHoldoffExpiry g copy s
  | .pgWtrExpiry g => Sys2Proof.Machine.execPgWtrExpiry g s
  | .dfopPm g => Sys2Proof.Machine.execDfopPm g s
  | .dfopNr g => Sys2Proof.Machine.execDfopNr g s
  | .fabLinkRowRx p row => Sys2Proof.Machine.execFabLinkRowRx p row s
  | .fabHuntTimeout p => Sys2Proof.Machine.execFabHuntTimeout p s
  | .envelopeTransmit p => Sys2Proof.Machine.execEnvelopeTransmit p s
  | .helloRx p ws => Sys2Proof.Machine.execHelloRx p ws s
  | .helloSend p => Sys2Proof.Machine.execHelloSend p s
  | .helloLoss p => Sys2Proof.Machine.execHelloLoss p s
  | .lspRx p ws => Sys2Proof.Machine.execLspRx p ws s
  | .lspOriginate => Sys2Proof.Machine.execLspOriginate s
  | .lspAgeing => Sys2Proof.Machine.execLspAgeing s
  | .routeRecompute => Sys2Proof.Machine.execRouteRecompute s
  | .addrWaitEnd => Sys2Proof.Machine.execAddrWaitEnd s
  | .addrClaimed => Sys2Proof.Machine.execAddrClaimed s
  | .polastEnvelopeRx p ws => Sys2Proof.Machine.execPolastEnvelopeRx p ws s
  | .broadcastRecordExpiry => Sys2Proof.Machine.execBroadcastRecordExpiry s
  | .pathHopRx p ws => Sys2Proof.Machine.execPathHopRx p ws s
  | .fabCfg rq => Sys2Proof.Machine.execFabCfg rq s
  | .fabStatusRead rq => Sys2Proof.Machine.execFabStatusRead rq s
  | .fabPortCfg rq => Sys2Proof.Machine.execFabPortCfg rq s
  | .fabPortStatusRead rq => Sys2Proof.Machine.execFabPortStatusRead rq s
  | .fabRouteRead rq => Sys2Proof.Machine.execFabRouteRead rq s
  | .fabLsdbRead rq => Sys2Proof.Machine.execFabLsdbRead rq s
  | .fabPathSet rq => Sys2Proof.Machine.execFabPathSet rq s
  | .txCfg rq => Sys2Proof.Machine.execTxCfg rq s
  | .txRead rq => Sys2Proof.Machine.execTxRead rq s
  | .txStatusRead rq => Sys2Proof.Machine.execTxStatusRead rq s
  | .txPreemph rq => Sys2Proof.Machine.execTxPreemph rq s
  | .txPreemphRead rq => Sys2Proof.Machine.execTxPreemphRead rq s
  | .lineBondCfg rq => Sys2Proof.Machine.execLineBondCfg rq s
  | .txCalCfg rq => Sys2Proof.Machine.execTxCalCfg rq s
  | .txCalRead rq => Sys2Proof.Machine.execTxCalRead rq s
  | .txLaserWaitEnd e => Sys2Proof.Machine.execTxLaserWaitEnd e s
  | .txRampDone e => Sys2Proof.Machine.execTxRampDone e s
  | .calLimit e loop => Sys2Proof.Machine.execCalLimit e loop s
  | .sliceRetire e dac lane slice => Sys2Proof.Machine.execSliceRetire e dac lane slice s
  | .rxCfg rq => Sys2Proof.Machine.execRxCfg rq s
  | .rxRead rq => Sys2Proof.Machine.execRxRead rq s
  | .rxStatusRead rq => Sys2Proof.Machine.execRxStatusRead rq s
  | .rxQualityRead rq => Sys2Proof.Machine.execRxQualityRead rq s
  | .rxCalRead rq => Sys2Proof.Machine.execRxCalRead rq s
  | .rxReacquire rq => Sys2Proof.Machine.execRxReacquire rq s
  | .drxlos e lanes rows => Sys2Proof.Machine.execDrxlos e lanes rows s
  | .drxlosClear e lanes rows => Sys2Proof.Machine.execDrxlosClear e lanes rows s
  | .cdScanDone e tones => Sys2Proof.Machine.execCdScanDone e tones s
  | .headerCandidate e pk => Sys2Proof.Machine.execHeaderCandidate e pk s
  | .headerWindowEnd e hw => Sys2Proof.Machine.execHeaderWindowEnd e hw s
  | .huntTimeout e => Sys2Proof.Machine.execHuntTimeout e s
  | .cdTrackLimit e => Sys2Proof.Machine.execCdTrackLimit e s
  | .codewordDecode e cw => Sys2Proof.Machine.execCodewordDecode e cw s
  | .otucFrameTx id opu => Sys2Proof.Machine.execOtucFrameTx id opu s
  | .otucFrameRx id fr => Sys2Proof.Machine.execOtucFrameRx id fr s
  | .dlof id => Sys2Proof.Machine.execDlof id s
  | .dlom id => Sys2Proof.Machine.execDlom id s
  | .rowBlockRx e slice => Sys2Proof.Machine.execRowBlockRx e slice s
  | .lineOhCfg rq => Sys2Proof.Machine.execLineOhCfg rq s
  | .lineOhRead rq => Sys2Proof.Machine.execLineOhRead rq s
  | .lineTtiWrite rq => Sys2Proof.Machine.execLineTtiWrite rq s
  | .lineTtiRead rq => Sys2Proof.Machine.execLineTtiRead rq s
  | .lineOtnStatusRead rq => Sys2Proof.Machine.execLineOtnStatusRead rq s
  | .lineFecStatusRead rq => Sys2Proof.Machine.execLineFecStatusRead rq s
  | .lineRealign rq => Sys2Proof.Machine.execLineRealign rq s
  | .clPortCfg rq => Sys2Proof.Machine.execClPortCfg rq s
  | .clPortRead rq => Sys2Proof.Machine.execClPortRead rq s
  | .clPortStatusRead rq => Sys2Proof.Machine.execClPortStatusRead rq s
  | .flexoTribCfg rq => Sys2Proof.Machine.execFlexoTribCfg rq s
  | .flexoTribRead rq => Sys2Proof.Machine.execFlexoTribRead rq s
  | .laneCfg rq => Sys2Proof.Machine.execLaneCfg rq s
  | .laneStatusRead rq => Sys2Proof.Machine.execLaneStatusRead rq s
  | .lanePrbsRead rq => Sys2Proof.Machine.execLanePrbsRead rq s
  | .dllos lane => Sys2Proof.Machine.execDllos lane s
  | .trainingFrameRx p ws => Sys2Proof.Machine.execTrainingFrameRx p ws s
  | .trainTimeout p => Sys2Proof.Machine.execTrainTimeout p s
  | .laneTestEnd lane pass => Sys2Proof.Machine.execLaneTestEnd lane pass s
  | .clientFrameRx p bs bad => Sys2Proof.Machine.execClientFrameRx p bs bad s
  | .fluxDispatch => Sys2Proof.Machine.execFluxDispatch s
  | .fluxPass ctx => Sys2Proof.Machine.execFluxPass ctx s
  | .packetRetire p => Sys2Proof.Machine.execPacketRetire p s
  | .fragAgeExpiry => Sys2Proof.Machine.execFragAgeExpiry s
  | .unpackFrame slot => Sys2Proof.Machine.execUnpackFrame slot s
  | .egressMacTake p => Sys2Proof.Machine.execEgressMacTake p s
  | .groomCfg rq => Sys2Proof.Machine.execGroomCfg rq s
  | .groomRead rq => Sys2Proof.Machine.execGroomRead rq s
  | .groomStatusRead rq => Sys2Proof.Machine.execGroomStatusRead rq s
  | .slotCfg rq => Sys2Proof.Machine.execSlotCfg rq s
  | .slotRead rq => Sys2Proof.Machine.execSlotRead rq s
  | .slotStatusRead rq => Sys2Proof.Machine.execSlotStatusRead rq s
  | .progWrite rq => Sys2Proof.Machine.execProgWrite rq s
  | .ruleWrite rq => Sys2Proof.Machine.execRuleWrite rq s
  | .ruleCommit rq => Sys2Proof.Machine.execRuleCommit rq s
  | .ruleSync rq => Sys2Proof.Machine.execRuleSync rq s
  | .ruleSyncDone => Sys2Proof.Machine.execRuleSyncDone s
  | .ruleRead rq => Sys2Proof.Machine.execRuleRead rq s
  | .grmQueueCfg rq => Sys2Proof.Machine.execGrmQueueCfg rq s
  | .grmQueueFlush rq => Sys2Proof.Machine.execGrmQueueFlush rq s
  | .secCfg rq => Sys2Proof.Machine.execSecCfg rq s
  | .secRead rq => Sys2Proof.Machine.execSecRead rq s
  | .secStatusRead rq => Sys2Proof.Machine.execSecStatusRead rq s
  | .keyLoad rq => Sys2Proof.Machine.execKeyLoad rq s
  | .keySwitch rq => Sys2Proof.Machine.execKeySwitch rq s
  | .keyClear rq => Sys2Proof.Machine.execKeyClear rq s
  | .secClearLoss rq => Sys2Proof.Machine.execSecClearLoss rq s
  | .keStatusRead rq => Sys2Proof.Machine.execKeStatusRead rq s
  | .keyLockGrant => Sys2Proof.Machine.execKeyLockGrant s
  | .keyLockWaitExpiry => Sys2Proof.Machine.execKeyLockWaitExpiry s
  | .keyLockTimeout => Sys2Proof.Machine.execKeyLockTimeout s
  | .drbgReseed r => Sys2Proof.Machine.execDrbgReseed r s
  | .entFail => Sys2Proof.Machine.execEntFail s
  | .keFail => Sys2Proof.Machine.execKeFail s
  | .hkCfg rq => Sys2Proof.Machine.execHkCfg rq s
  | .hkRead rq => Sys2Proof.Machine.execHkRead rq s
  | .hkTrigger rq => Sys2Proof.Machine.execHkTrigger rq s
  | .hkResultRead rq => Sys2Proof.Machine.execHkResultRead rq s
  | .hkConversionDone conv entry vin => Sys2Proof.Machine.execHkConversionDone conv entry vin s
  | .outCfg rq => Sys2Proof.Machine.execOutCfg rq s
  | .outRead rq => Sys2Proof.Machine.execOutRead rq s
  | .outStatusRead rq => Sys2Proof.Machine.execOutStatusRead rq s
  | .blCfg rq => Sys2Proof.Machine.execBlCfg rq s
  | .blRead rq => Sys2Proof.Machine.execBlRead rq s
  | .blStatusRead rq => Sys2Proof.Machine.execBlStatusRead rq s
  | .blWindowEnd loop => Sys2Proof.Machine.execBlWindowEnd loop s
  | .i2cCfg rq => Sys2Proof.Machine.execI2cCfg rq s
  | .i2cXfer rq => Sys2Proof.Machine.execI2cXfer rq s
  | .i2cXferDone m r => Sys2Proof.Machine.execI2cXferDone m r s
  | .optStatusRead rq => Sys2Proof.Machine.execOptStatusRead rq s
  | .modeSet rq => Sys2Proof.Machine.execModeSet rq s
  | .quench rq => Sys2Proof.Machine.execQuench rq s
  | .quenchExit rq => Sys2Proof.Machine.execQuenchExit rq s
  | .modeCfg rq => Sys2Proof.Machine.execModeCfg rq s
  | .modeStatusRead rq => Sys2Proof.Machine.execModeStatusRead rq s
  | .faultAck rq => Sys2Proof.Machine.execFaultAck rq s
  | .lockstepMiscompare pair => Sys2Proof.Machine.execLockstepMiscompare pair s
  | .coreSelfTestDone core pass => Sys2Proof.Machine.execCoreSelfTestDone core pass s
  | .depthSettled => Sys2Proof.Machine.execDepthSettled s
  | .romStartDone => Sys2Proof.Machine.execRomStartDone s
  | .imageLoadDone copy => Sys2Proof.Machine.execImageLoadDone copy s
  | .fwStartDone badBanks => Sys2Proof.Machine.execFwStartDone badBanks s
  | .kindleCalibrationDone => Sys2Proof.Machine.execKindleCalibrationDone s
  | .restoreDone => Sys2Proof.Machine.execRestoreDone s
  | .bootStatusRead rq => Sys2Proof.Machine.execBootStatusRead rq s
  | .imageStage rq => Sys2Proof.Machine.execImageStage rq s
  | .bootExec rq => Sys2Proof.Machine.execBootExec rq s
  | .imageInstall rq => Sys2Proof.Machine.execImageInstall rq s
  | .imageInstallDone => Sys2Proof.Machine.execImageInstallDone s
  | .rollbackAdvance rq => Sys2Proof.Machine.execRollbackAdvance rq s
  | .signerSlotProgram rq => Sys2Proof.Machine.execSignerSlotProgram rq s
  | .signerRevoke rq => Sys2Proof.Machine.execSignerRevoke rq s
  | .sysRestart rq => Sys2Proof.Machine.execSysRestart rq s
  | .sysRestartPulse => Sys2Proof.Machine.execSysRestartPulse s
  | .pkSet rq => Sys2Proof.Machine.execPkSet rq s
  | .authKeyLoad rq => Sys2Proof.Machine.execAuthKeyLoad rq s
  | .tkLoad rq => Sys2Proof.Machine.execTkLoad rq s
  | .keySlotsRead rq => Sys2Proof.Machine.execKeySlotsRead rq s
  | .idRead rq => Sys2Proof.Machine.execIdRead rq s
  | .attest rq => Sys2Proof.Machine.execAttest rq s
  | .attestDone => Sys2Proof.Machine.execAttestDone s
  | .store rq => Sys2Proof.Machine.execStore rq s
  | .storeDone => Sys2Proof.Machine.execStoreDone s
  | .storeStatusRead rq => Sys2Proof.Machine.execStoreStatusRead rq s
  | .profileRestore rq => Sys2Proof.Machine.execProfileRestore rq s
  | .profileErase rq => Sys2Proof.Machine.execProfileErase rq s
  | .profileEraseDone => Sys2Proof.Machine.execProfileEraseDone s
  | .faultRead rq => Sys2Proof.Machine.execFaultRead rq s
  | .faultExport rq => Sys2Proof.Machine.execFaultExport rq s
  | .retireRead rq => Sys2Proof.Machine.execRetireRead rq s
  | .goldRestore table index => Sys2Proof.Machine.execGoldRestore table index s
  | .busDecerr master inCmd => Sys2Proof.Machine.execBusDecerr master inCmd s
  | .arbWdog requester inCmd => Sys2Proof.Machine.execArbWdog requester inCmd s
  | .evcRead rq => Sys2Proof.Machine.execEvcRead rq s
  | .pmRead rq => Sys2Proof.Machine.execPmRead rq s
  | .pmSnap rq => Sys2Proof.Machine.execPmSnap rq s
  | .winCfg rq => Sys2Proof.Machine.execWinCfg rq s
  | .winRead rq => Sys2Proof.Machine.execWinRead rq s
  | .evtMaskWrite rq => Sys2Proof.Machine.execEvtMaskWrite rq s
  | .evtMaskRead rq => Sys2Proof.Machine.execEvtMaskRead rq s
  | .evtPop rq => Sys2Proof.Machine.execEvtPop rq s
  | .integStatusRead rq => Sys2Proof.Machine.execIntegStatusRead rq s
  | .arbCfg rq => Sys2Proof.Machine.execArbCfg rq s
  | .powerUp => Sys2Proof.Machine.execPowerUp s
  | .dloa p lost => Sys2Proof.Machine.execDloa p lost s
  | .entropyRestartPass => Sys2Proof.Machine.execEntropyRestartPass s
  | .rollbackAdvanceDone => Sys2Proof.Machine.execRollbackAdvanceDone s
  | .debugPortAccess => Sys2Proof.Machine.execDebugPortAccess s

end Sys2Proof.Machine
end

