-- ==== Sys2Proof/Machine/Pads.lean ====
section
/-! DEFINITION. What the pins show of the state: their levels unpowered, in reset, in QUENCH and under the scan (13_optics_control R389; 14_modes_boot_and_trust R401;
16_package_and_electrical R458, R472, R473). The line pins are `ltxPins`, the laser gates `txdis`, the heaters and control voltages `outPin`. -/

namespace Sys2Proof.Machine

/-- An open-drain pin: low, or released to its pull-up. -/
def openDrain (low : Bool) : PinLevel := if low then .low else .hiZ

/-- A pin as the scan holds it, else as `own` says while the device is powered. -/
def pad (s : State) (p : ScanPin) (own : PinLevel) : PinLevel := match scanPin s p with | some l => l | none => if s.pins.powered then own else .hiZ

def strkOutPin (s : State) : PinLevel := pad s .strkOut (if strkOut s then .high else .low)
def intNPin (s : State) : PinLevel := pad s .intN (openDrain (intNLow s))
def fltNPin (s : State) : PinLevel := pad s .fltN (openDrain (fltNLow s))
def rplcNPin (s : State) : PinLevel := pad s .rplcN (openDrain (rplcNLow s))

/-- REFOUTk: the output clock, or a level; low (P low, N high) where it is not driven with the clock. -/
inductive ClockPin where
  | clock | level (l : PinLevel)
  deriving DecidableEq, Repr
def refoutPin (s : State) (k : Nat) : ClockPin := if refoutOn s k then .clock else .level (pad s (.refout k) .low)

/-- A serial lane: electrical idle, PAM4 levels, or a level that the scan holds. -/
inductive LanePin where
  | notDriven | idle | levels (l : List Nat) | held (l : PinLevel)
  deriving DecidableEq, Repr

/-- The transmit pins of client lane `n` below 48, of fabric lane `n` from 64 on (R296). -/
def lanePin (s : State) (n : Nat) : LanePin :=
  match scanPin s (if n < 48 then .client n else .fabric (n - 64)) with
  | some l => .held l
  | none => if !s.pins.powered then .notDriven else if !alive s || inQuench s || (laneOf s n).out.isEmpty then .idle else .levels (pinLevels (laneOf s n))

/-- SPIT_MISO drives the words of a read while the host selects the target, and is high impedance else (R88–R90). -/
def spitMisoPin (s : State) (selected : Bool) (b : Bool) : PinLevel := pad s .spitMiso (if alive s && selected then (if b then .high else .low) else .hiZ)

/-- SPIB_SCK, SPIB_CS_N and SPIB_DQ belong to the boot master: high impedance with RSTN low, where CS_N has its pull-up; CS_N is high between its accesses. -/
def spibCsNPin (s : State) (access : Bool) : PinLevel := pad s .spibCsN (if !alive s then .hiZ else if access then .low else .high)
def spibSckPin (s : State) (high : Bool) : PinLevel := pad s .spibSck (if !alive s then .hiZ else if high then .high else .low)

/-- I2C SCL and SDA: high impedance unpowered and with RSTN low, released between transfers; in a transfer the symbols of `I2cSt.sent` pull them low (R389, R391, R392). -/
def i2cPin (s : State) (p : ScanPin) (low : Bool) : PinLevel := pad s p (openDrain (alive s && low))

/-- HKA_IN and HKB_IN: high impedance but for the open-wire current of the entry that is sampled (R377, R389). -/
def hkPin (s : State) (c input : Nat) (t : Fin 16) : Option Int :=
  match hkDriven s c t with
  | some d => if d.1 = input then some d.2 else none
  | none => none

/-- TDO at shift `k` of a data scan that shifts `tdi` in, with the boundary register captured as `cells`; high impedance except while shifting (R458, R472). -/
def tdoPin (s : State) (cells tdi : List Bool) : Option Nat → PinLevel
  | none => .hiZ
  | some k =>
    let r := match jtagReg s.pins.jtag with | .bypass => [false] | .idcode => (List.range 32).map fun i => bit (jtagIdcode s) i | .boundary => cells
    if (r ++ tdi).getD k true then .high else .low

/-- What a cell of the boundary register captures at an output pin: its level (R472). -/
def captured (s : State) : ScanPin → PinLevel
  | .strkOut => strkOutPin s
  | .intN => intNPin s
  | .fltN => fltNPin s
  | .rplcN => rplcNPin s
  | .refout k => match refoutPin s k with | .level l => l | .clock => .high
  | .spitMiso => spitMisoPin s false false
  | .spibCsN => spibCsNPin s false
  | .spibSck => spibSckPin s false
  | .spibDq k => pad s (.spibDq k) .hiZ
  | .i2cScl m => i2cPin s (.i2cScl m) false
  | .i2cSda m => i2cPin s (.i2cSda m) false
  | .client n => pad s (.client n) .hiZ
  | .fabric n => pad s (.fabric n) .hiZ
  | .pcie n => pad s (.pcie n) .hiZ

end Sys2Proof.Machine
end

