-- ==== Sys2Proof/Safety.lean ====
section
/-! DEFINITION. The terms in which the statements speak: how a command ends, and what steps keep. -/

namespace Sys2Proof.Machine

/-- The state that a step went on to, if it went on. -/
def after : Host.Outcome State Fault Refusal → Option State
  | .next s => some s
  | _ => none

/-! ### The ways in which a command that is not refused ends -/

/-- What every command needs beside the checks of its own (R95 steps 7, 8 and 11 to 14): the device is supplied and out of reset, no fault has met the command in
progress, its level suffices, the boot stage and the mode accept it, its CMT bit, its commit stroke and its reserved bits are in order, and the commit table has room. -/
abbrev Admitted (o : OpInfo) (rq : Req) (s : State) : Prop :=
  alive s = true ∧ s.mode.miscompare = false ∧ opcodeLevel o s ≤ packetLevel rq s ∧ (s.boot.rom = true → o.rom = true) ∧ (inQuench s = true → o.q = true)
    ∧ (rq.cmt = true → o.cmt ≠ .never ∧ scnt s < rq.commit.toNat ∧ rq.commit.toNat ≤ scnt s + 16777216 ∧ pendingCount s < 4096)
    ∧ (rq.cmt = false → o.cmt ≠ .required ∧ rq.commit = 0#48) ∧ rq.rsv = 0#3 ∧ (rq.mac.all fun m => m.rsv = 0#13) = true

/-- The command completes: status OK with the result words, on its effect. Both are taken where its sequence number has been accepted (R71, R74). -/
def completed (o : OpInfo) (rq : Req) (s : State) (res : State → List W32) (eff : State → State) : State :=
  reply o.code rq (keyOf rq s) { st := .ok } (res (accepted rq s)) (eff (accepted rq s))

/-- The command completes, and its writes wait for their row 0 (R12, R33). -/
def scheduled (o : OpInfo) (rq : Req) (s : State) : State := completed o rq s (fun _ => []) (addCommit o rq)

/-- The command runs on: its effect so far, and its queue waits for the reply (R99). -/
def runsOn (rq : Req) (s : State) (eff : State → State) : State := holdCq rq s (eff (accepted rq s))

/-- The command ends as its effect answers. -/
def answered (o : OpInfo) (rq : Req) (s : State) (eff : State → Answer) : State := answer o rq s (eff (accepted rq s))

/-! ### The commands by their opcodes -/

def IsCommandSystem (e : OpInfo × (Req → Instr)) : Prop :=
  e ∈ [((opEcho, .echo) : OpInfo × (Req → Instr)), (opCapsRead, .capsRead), (opSysStatusRead, .sysStatusRead), (opQueueStatusRead, .queueStatusRead),
    (opQueueCfg, .queueCfg), (opQueueFlush, .queueFlush), (opAccessPolicyRead, .accessPolicyRead), (opAccessPolicyWrite, .accessPolicyWrite),
    (opIntClear, .intClear)]

def IsCommandStrokes (e : OpInfo × (Req → Instr)) : Prop :=
  e ∈ [((opStrokeRead, .strokeRead) : OpInfo × (Req → Instr)), (opStrokeSet, .strokeSet), (opStrokeCfg, .strokeCfg), (opStrokeJoin, .strokeJoin),
    (opRefCfg, .refCfg), (opRefStatusRead, .refStatusRead), (opRefForce, .refForce), (opClkCfg, .clkCfg), (opCommitListRead, .commitListRead),
    (opCommitCancel, .commitCancel)]

def IsCommandAnvil (e : OpInfo × (Req → Instr)) : Prop :=
  e ∈ [((opMapWrite, .mapWrite) : OpInfo × (Req → Instr)), (opMapCommit, .mapCommit), (opMapSync, .mapSync), (opMapRead, .mapRead),
    (opMapStatusRead, .mapStatusRead)]

def IsCommandContainers (e : OpInfo × (Req → Instr)) : Prop :=
  e ∈ [((opContCfg, .contCfg) : OpInfo × (Req → Instr)), (opContRead, .contRead), (opContStatusRead, .contStatusRead), (opBaCfg, .baCfg),
    (opBaRead, .baRead), (opTestRead, .testRead), (opErrInject, .errInject)]

def IsCommandProtection (e : OpInfo × (Req → Instr)) : Prop :=
  e ∈ [((opPgCfg, .pgCfg) : OpInfo × (Req → Instr)), (opPgRead, .pgRead), (opPgStatusRead, .pgStatusRead), (opPgCmd, .pgCmd), (opAlnRealign, .alnRealign),
    (opAlnStatusRead, .alnStatusRead), (opPgSummaryRead, .pgSummaryRead)]

def IsCommandFabric (e : OpInfo × (Req → Instr)) : Prop :=
  e ∈ [((opFabCfg, .fabCfg) : OpInfo × (Req → Instr)), (opFabStatusRead, .fabStatusRead), (opFabPortCfg, .fabPortCfg),
    (opFabPortStatusRead, .fabPortStatusRead), (opFabRouteRead, .fabRouteRead), (opFabLsdbRead, .fabLsdbRead), (opFabPathSet, .fabPathSet)]

def IsCommandLineTx (e : OpInfo × (Req → Instr)) : Prop :=
  e ∈ [((opTxCfg, .txCfg) : OpInfo × (Req → Instr)), (opTxRead, .txRead), (opTxStatusRead, .txStatusRead), (opTxPreemph, .txPreemph),
    (opTxPreemphRead, .txPreemphRead), (opLineBondCfg, .lineBondCfg), (opTxCalCfg, .txCalCfg), (opTxCalRead, .txCalRead)]

def IsCommandLineRx (e : OpInfo × (Req → Instr)) : Prop :=
  e ∈ [((opRxCfg, .rxCfg) : OpInfo × (Req → Instr)), (opRxRead, .rxRead), (opRxStatusRead, .rxStatusRead), (opRxQualityRead, .rxQualityRead),
    (opRxCalRead, .rxCalRead), (opRxReacquire, .rxReacquire)]

def IsCommandLineOtn (e : OpInfo × (Req → Instr)) : Prop :=
  e ∈ [((opLineOhCfg, .lineOhCfg) : OpInfo × (Req → Instr)), (opLineOhRead, .lineOhRead), (opLineTtiWrite, .lineTtiWrite), (opLineTtiRead, .lineTtiRead),
    (opLineOtnStatusRead, .lineOtnStatusRead), (opLineFecStatusRead, .lineFecStatusRead), (opLineRealign, .lineRealign)]

def IsCommandClient (e : OpInfo × (Req → Instr)) : Prop :=
  e ∈ [((opClPortCfg, .clPortCfg) : OpInfo × (Req → Instr)), (opClPortRead, .clPortRead), (opClPortStatusRead, .clPortStatusRead),
    (opFlexoTribCfg, .flexoTribCfg), (opFlexoTribRead, .flexoTribRead), (opLaneCfg, .laneCfg), (opLaneStatusRead, .laneStatusRead),
    (opLanePrbsRead, .lanePrbsRead)]

def IsCommandGroom (e : OpInfo × (Req → Instr)) : Prop :=
  e ∈ [((opGroomCfg, .groomCfg) : OpInfo × (Req → Instr)), (opGroomRead, .groomRead), (opGroomStatusRead, .groomStatusRead), (opSlotCfg, .slotCfg),
    (opSlotRead, .slotRead), (opSlotStatusRead, .slotStatusRead), (opProgWrite, .progWrite), (opRuleWrite, .ruleWrite), (opRuleCommit, .ruleCommit),
    (opRuleSync, .ruleSync), (opRuleRead, .ruleRead), (opGrmQueueCfg, .grmQueueCfg), (opGrmQueueFlush, .grmQueueFlush)]

def IsCommandSecurity (e : OpInfo × (Req → Instr)) : Prop :=
  e ∈ [((opSecCfg, .secCfg) : OpInfo × (Req → Instr)), (opSecRead, .secRead), (opSecStatusRead, .secStatusRead), (opKeyLoad, .keyLoad),
    (opKeySwitch, .keySwitch), (opKeyClear, .keyClear), (opSecClearLoss, .secClearLoss), (opKeStatusRead, .keStatusRead)]

def IsCommandOptics (e : OpInfo × (Req → Instr)) : Prop :=
  e ∈ [((opHkCfg, .hkCfg) : OpInfo × (Req → Instr)), (opHkRead, .hkRead), (opHkTrigger, .hkTrigger), (opHkResultRead, .hkResultRead), (opOutCfg, .outCfg),
    (opOutRead, .outRead), (opOutStatusRead, .outStatusRead), (opBlCfg, .blCfg), (opBlRead, .blRead), (opBlStatusRead, .blStatusRead),
    (opI2cCfg, .i2cCfg), (opI2cXfer, .i2cXfer), (opOptStatusRead, .optStatusRead)]

def IsCommandModes (e : OpInfo × (Req → Instr)) : Prop :=
  e ∈ [((opModeSet, .modeSet) : OpInfo × (Req → Instr)), (opQuench, .quench), (opQuenchExit, .quenchExit), (opModeCfg, .modeCfg),
    (opModeStatusRead, .modeStatusRead), (opFaultAck, .faultAck)]

def IsCommandBoot (e : OpInfo × (Req → Instr)) : Prop :=
  e ∈ [((opBootStatusRead, .bootStatusRead) : OpInfo × (Req → Instr)), (opImageStage, .imageStage), (opBootExec, .bootExec),
    (opImageInstall, .imageInstall), (opRollbackAdvance, .rollbackAdvance), (opSignerSlotProgram, .signerSlotProgram), (opSignerRevoke, .signerRevoke),
    (opSysRestart, .sysRestart), (opPkSet, .pkSet), (opAuthKeyLoad, .authKeyLoad), (opTkLoad, .tkLoad), (opKeySlotsRead, .keySlotsRead),
    (opIdRead, .idRead), (opAttest, .attest), (opFaultRead, .faultRead), (opFaultExport, .faultExport), (opRetireRead, .retireRead)]

def IsCommandCommits (e : OpInfo × (Req → Instr)) : Prop :=
  e ∈ [((opStore, .store) : OpInfo × (Req → Instr)), (opStoreStatusRead, .storeStatusRead), (opProfileRestore, .profileRestore),
    (opProfileErase, .profileErase)]

def IsCommandCounters (e : OpInfo × (Req → Instr)) : Prop :=
  e ∈ [((opEvcRead, .evcRead) : OpInfo × (Req → Instr)), (opPmRead, .pmRead), (opPmSnap, .pmSnap), (opWinCfg, .winCfg), (opWinRead, .winRead),
    (opEvtMaskWrite, .evtMaskWrite), (opEvtMaskRead, .evtMaskRead), (opEvtPop, .evtPop), (opIntegStatusRead, .integStatusRead), (opArbCfg, .arbCfg)]

/-- `e` is an assigned opcode with the command that executes it (R103). -/
def IsCommand (e : OpInfo × (Req → Instr)) : Prop :=
  IsCommandSystem e ∨ IsCommandStrokes e ∨ IsCommandAnvil e ∨ IsCommandContainers e ∨ IsCommandProtection e ∨ IsCommandFabric e ∨ IsCommandLineTx e ∨ IsCommandLineRx e ∨ IsCommandLineOtn e
    ∨ IsCommandClient e ∨ IsCommandGroom e ∨ IsCommandSecurity e ∨ IsCommandOptics e ∨ IsCommandModes e ∨ IsCommandBoot e ∨ IsCommandCommits e ∨ IsCommandCounters e

/-- Commands that read or answer and write nothing. -/
def Reads (c : Req → Instr) : Prop :=
  c ∈ [(.echo : Req → Instr), .capsRead, .sysStatusRead, .queueStatusRead, .accessPolicyRead, .strokeRead, .refStatusRead, .commitListRead, .mapStatusRead,
    .contStatusRead, .baRead, .testRead, .alnStatusRead, .pgSummaryRead, .fabStatusRead, .fabPortStatusRead, .fabLsdbRead, .txRead, .txStatusRead,
    .txPreemphRead, .txCalRead, .rxRead, .rxStatusRead, .rxQualityRead, .rxCalRead, .lineOhRead, .lineTtiRead, .lineOtnStatusRead, .clPortRead,
    .clPortStatusRead, .flexoTribRead, .laneStatusRead, .lanePrbsRead, .groomRead, .groomStatusRead, .slotRead, .slotStatusRead, .secStatusRead,
    .keStatusRead, .hkRead, .hkResultRead, .outRead, .outStatusRead, .blRead, .blStatusRead, .optStatusRead, .modeStatusRead, .bootStatusRead,
    .keySlotsRead, .idRead, .storeStatusRead, .faultRead, .retireRead, .winRead, .evtMaskRead, .integStatusRead]

/-- Commands whose every write waits for its row 0 (R12, R33). -/
def ScheduledWrites (c : Req → Instr) : Prop :=
  c ∈ [(.strokeCfg : Req → Instr), .strokeJoin, .refCfg, .refForce, .clkCfg, .mapCommit, .contCfg, .baCfg, .errInject, .pgCfg, .pgCmd, .alnRealign, .fabCfg,
    .fabPortCfg, .txPreemph, .lineBondCfg, .txCalCfg, .rxReacquire, .lineOhCfg, .lineTtiWrite, .lineRealign, .clPortCfg, .flexoTribCfg, .laneCfg,
    .groomCfg, .slotCfg, .ruleCommit, .secCfg, .keySwitch, .secClearLoss, .hkCfg, .hkTrigger, .outCfg, .blCfg, .modeSet, .modeCfg, .profileRestore,
    .pmSnap, .winCfg]

/-- The opcodes with a NOT_PERMITTED of their own at step 7, before the boot stage and the mode are checked (R475, R409, R176). -/
def RanksAtStep7 (o : OpInfo) : Prop :=
  o ∈ [opStrokeSet, opBootExec, opSignerSlotProgram, opSignerRevoke, opRollbackAdvance, opPgStatusRead]

/-! ### What steps keep -/

/-- What only a few commands change: the identity fused at manufacture, the queue of waiting commands, the stroke number and the row (R29),
and the OTP of the device, its anti-rollback fuses and signer slots (R409, R410). -/
structure Kept where
  fused : Fused
  pending : List Instr
  scnt : W48
  row : Nat
  fuses : Nat
  slots : List (Nat × SignerSlot)
  deriving DecidableEq

def kept (s : State) : Kept :=
  { fused := s.fused, pending := s.pending, scnt := s.stk.scnt, row := s.stk.row, fuses := s.boot.fuses, slots := s.boot.slots }

/-- Signer slots are written once (R409): a programmed slot stays programmed with its hash, and a revoked one stays revoked. -/
def SlotsHold (a b : List (Nat × SignerSlot)) : Prop :=
  ∀ k, ((tget {} a k).programmed = true → (tget {} b k).programmed = true ∧ (tget {} b k).hash = (tget {} a k).hash)
    ∧ ((tget {} a k).revoked = true → (tget {} b k).revoked = true)

/-- What a command that reaches the OTP keeps. -/
def HoldsOtp (a b : Kept) : Prop := b = { a with slots := b.slots } ∧ SlotsHold a.slots b.slots

/-- The connection map's banks are in the one form of a sparse table. -/
def MapsCanonical (s : State) : Prop :=
  twf 0#32 s.anvil.bankA = true ∧ twf 0#32 s.anvil.bankB = true

/-- The row number of the device is one of the 125 rows of a stroke (R29, R30). -/
def RowLegal (s : State) : Prop := s.stk.row ≤ 124

end Sys2Proof.Machine
end

