-- ==== Sys2Proof/Certificates/Slice0/Obligations.lean ====
section
/-! DEFINITION. The statements for the provers. -/

open Sys2Proof Sys2Proof.Machine

/-- A step runs the command at the front of the queue; on an empty queue the block idles (the model's own choice, log entry 11). -/
def Obligations.StepRunsTheFrontCommand : Prop :=
  (∀ (c : Instr) (rest : List Instr) (s : State), step { s with pending := c :: rest } = exec c { s with pending := rest }) ∧
  (∀ s : State, s.pending = [] → step s = .next s)

/-- The values that the spec gives for reset, which meet the invariants that steps keep. -/
def Obligations.ResetAsTheSpecGives : Prop :=
  let s := State.reset
  (s.stk.scnt = 0#48 ∧ s.stk.row = 0 ∧ s.mode.mode = .kindle ∧ s.boot.rom = true ∧ s.boot.stage = .romStart ∧ s.pending = []) ∧
  (s.cmd.cq = [] ∧ s.cmd.rq = [] ∧ s.cmd.chan = [] ∧ s.cmd.fwdTimeout = 5000#32 ∧ unauthWord s.cmd.unauth = 0x6AA#32 ∧ s.cmd.obsCounters = true ∧ s.cmd.fwd = []) ∧
  (s.cmd.intStatus = 0#32 ∧ s.cmd.intMask = 0#32 ∧ s.cmd.intPinEn = false ∧ s.cmd.levels = [0, 0, 0, 0, 0, 0, 1, 1, 1, 1, 1, 1]) ∧
  (s.anvil.bankA = [] ∧ s.anvil.bankB = [] ∧ s.anvil.activeB = false ∧ s.anvil.shadow = .synced ∧ s.commits = [] ∧ s.ev.counters = [] ∧ s.ev.clips = [] ∧ s.ev.log = []) ∧
  (∀ c, contEntry s c = {}) ∧ (∀ g, pgEn (pgCfgOf s g) = false) ∧ (∀ p, cpEn (cliPort s p) = false) ∧ (∀ p, fpEn (fpCfg s p) = false) ∧ RowLegal s ∧ MapsCanonical s

/-- No command of the spec faults or is refused by the model. -/
def Obligations.EveryCommandGoesOn : Prop :=
  ∀ (i : Instr) (s : State), ∃ t, exec i s = .next t

/-- A reply echoes OPCODE and TAG, swaps the addresses, and carries SCNT, the status word and the results. -/
def Obligations.ReplyHasTheFormOfR72 : Prop :=
  ∀ (opcode : Nat) (rq : Req) (key : Option (BitVec 256)) (r : Rej) (res : List W32) (s : State),
    opcode < 65536 → r.detail < 65536 → res.length ≤ 4084 →
    let p := mkReply opcode rq key r res s
    (fld (p.getD 0 0#32) 31 28 = 1 ∧ bit (p.getD 0 0#32) 27 = true ∧ bit (p.getD 0 0#32) 26 = true ∧ bit (p.getD 0 0#32) 25 = rq.mac.isSome ∧ bit (p.getD 0 0#32) 24 = false) ∧
    (fld (p.getD 0 0#32) 23 12 = rq.src.toNat ∧ fld (p.getD 0 0#32) 11 0 = s.fab.nodeAddr.toNat ∧ fld (p.getD 1 0#32) 31 16 = opcode ∧ fld (p.getD 1 0#32) 15 0 = rq.tag.toNat) ∧
    (lengthField p = p.length ∧ w48 (p.getD 2 0#32) (p.getD 3 0#32) = s.stk.scnt ∧ fld (p.getD 4 0#32) 31 16 = r.st.code ∧ fld (p.getD 4 0#32) 15 0 = r.detail) ∧
    ((p.drop 5).take res.length = res ∧ crcOk p = true) ∧
    (∀ m, rq.mac = some m → (macInfo p).slot = m.slot ∧ (macInfo p).seq = m.seq)

/-- A packet built from a command's fields is read back as that command, authentication block included. -/
def Obligations.PacketsSpellTheirCommand : Prop :=
  ∀ (q : Fin 6) (opcode : Nat) (rq : Req) (src : W12) (key : BitVec 256),
    opcode < 65536 → rq.params.length ≤ (if rq.mac.isSome then 4085 else 4091) →
    let ws := rebuild opcode rq src.toNat (some key)
    (lengthField ws = ws.length ∧ lengthOk ws = true ∧ crcOk ws = true ∧ fld (ws.getD 0 0#32) 31 28 = 1 ∧ bit (ws.getD 0 0#32) 27 = false) ∧
    (rawOpcode ws = opcode ∧ pktTarget ws = rq.tgt.toNat ∧ bit (ws.getD 0 0#32) 25 = rq.mac.isSome) ∧
    packetReq q ws = { rq with cq := q, src := src, mac := none } ∧
    (∀ m, rq.mac = some m → macInfo ws = m ∧ cmacOk key ws = true)

/-- An accepted packet runs the command of its opcode, and an opcode that is not assigned is answered BAD_OPCODE. -/
def Obligations.DispatchRunsEachOpcode : Prop :=
  (∀ e, IsCommand e → ∀ (rq : Req) (s : State), exec (e.2 rq) s = .next (dispatchReq e.1.code rq s)) ∧
  (∀ (code : Nat) (rq : Req) (s : State), (∀ e, IsCommand e → e.1.code ≠ code) → dispatchReq code rq s = reply code rq (keyOf rq s) { st := .badOpcode } [] s) ∧
  (∀ e, IsCommand e → 0 < e.1.code ∧ e.1.code < 0x0D00) ∧
  (∀ e f, IsCommand e → IsCommand f → e.1.code = f.1.code → ∀ rq, e.2 rq = f.2 rq)

/-- A packet with MAC = 1 executes only under a key that its slot holds, a CMAC that verifies and a new sequence number. -/
def Obligations.AuthenticationIsChecked : Prop :=
  ∀ (q : Fin 6) (ws : List W32) (s : State), bit (ws.getD 0 0#32) 25 = true → s.sec.keFailed = false →
    let m := macInfo ws
    let refused := fun d => rawReply q ws { st := .authFail, detail := d } (note evCmdAuthFail m.slot.val 1 s)
    (∀ k, (akOf s m.slot).key = some k → cmacOk k ws = true → (akOf s m.slot).seq.toNat < m.seq.toNat →
      execPacket q ws s = dispatchReq (rawOpcode ws) { packetReq q ws with mac := some m } s) ∧
    ((akOf s m.slot).key = none → execPacket q ws s = refused 1) ∧
    (∀ k, (akOf s m.slot).key = some k → cmacOk k ws = false → execPacket q ws s = refused 0) ∧
    (∀ k, (akOf s m.slot).key = some k → cmacOk k ws = true → m.seq.toNat ≤ (akOf s m.slot).seq.toNat → execPacket q ws s = refused 2)

/-- COMMAND_TAKE takes the packet of the first queue in turn from which one can be taken, and runs it. -/
def Obligations.CommandTakeRunsThePacket : Prop :=
  (∀ (q : Fin 6) (l m : List (Fin 6)) (ws : List W32) (r : List (List W32)) (s : State), alive s = true → turns s = l ++ q :: m → (∀ p ∈ l, takeFrom p s = none) →
    s.cmd.busyCq.contains q.val = false → cqOf s q = ws :: r → roomLeft q s (runPacket q ws (cqPop q s)) = true → exec .commandTake s = .next (runPacket q ws (cqPop q s))) ∧
  (∀ s : State, (∀ q, takeFrom q s = none) → exec .commandTake s = .next s) ∧
  (∀ (q : Fin 6) (s : State), takeFrom q s = none ↔
    s.cmd.busyCq.contains q.val = true ∨ cqOf s q = [] ∨ ∃ ws r, cqOf s q = ws :: r ∧ roomLeft q s (runPacket q ws (cqPop q s)) = false) ∧
  (∀ (q : Fin 6) (s t : State), roomLeft q s t = true ↔ q = 4 ∨ (qfill s (q + 6) + 6 ≤ 8192 ∧ (∀ x ∈ s.cmd.late, x.1 ≠ q + 6) ∧ ∀ x ∈ t.cmd.late, x.1 ≠ q + 6)) ∧
  (∀ (q : Fin 6) (s : State), cqOf (cqPop q s) q = (cqOf s q).tail ∧ (cqPop q s).cmd.rr = q ∧ ∀ p, p ≠ q.val → cqOf (cqPop q s) p = cqOf s p) ∧
  (∀ s : State, (turns s).length = 6 ∧ ∀ i < 6, ((turns s).getD i 0).val = (s.cmd.rr + 1 + i) % 6) ∧
  (∀ (q : Fin 6) (ws : List W32) (s : State), pktTarget ws = 0 → fld (ws.getD 0 0#32) 31 28 = 1 → bit (ws.getD 0 0#32) 27 = false → runPacket q ws s = execPacket q ws s) ∧
  (∀ s : State, alive s = false → exec .commandTake s = .next s)

/-- A command that is not admitted changes nothing: it gets one reply with a status other than OK. -/
def Obligations.NotAdmittedIsRefused : Prop :=
  ∀ e, IsCommand e → ∀ (rq : Req) (s : State), alive s = true → s.mode.miscompare = false → ¬ Admitted e.1 rq s →
    ∃ r : Rej, r.st ≠ .ok ∧ exec (e.2 rq) s = .next (reply e.1.code rq (keyOf rq s) r [] s)

/-- A packet whose level is below that of its opcode gets NOT_PERMITTED, whatever else is wrong with it. -/
def Obligations.LevelIsCheckedFirst : Prop :=
  (∀ e, IsCommand e → ∀ (rq : Req) (s : State), alive s = true → packetLevel rq s < opcodeLevel e.1 s →
    exec (e.2 rq) s = .next (reply e.1.code rq (keyOf rq s) { st := .notPermitted } [] s)) ∧
  (∀ (rq : Req) (m : MacInfo) (s : State), rq.mac = some m → (akOf s m.slot).key.isSome = true → packetLevel rq s = (akOf s m.slot).level) ∧
  (∀ s : State, provisioned s = true ↔ ∃ n < 8, (akOf s n).key.isSome = true ∧ (akOf s n).level = 3) ∧
  (∀ (rq : Req) (s : State), rq.mac = none → rq.cq.val ≤ 4 → (packetLevel rq s = 3 ↔ provisioned s = false)) ∧
  (∀ (rq : Req) (s : State), rq.mac = none → (rq.cq.val = 5 ∨ provisioned s = true) →
    packetLevel rq s = fld (unauthWord s.cmd.unauth) (2 * rq.cq.val + 1) (2 * rq.cq.val) ∧ (packetLevel rq s = 1 ∨ packetLevel rq s = 2))

/-- With RSTN low no host transport responds; the boot ROM and QUENCH accept only their opcodes. -/
def Obligations.OnlyAcceptedOpcodesExecute : Prop :=
  (∀ s : State, s.pins.rstnLow = true →
    (∀ (ch : Fin 4) (v : W32), exec (.cmdTailDoorbell ch v) s = .next s ∧ exec (.cmdSizeWrite ch v) s = .next s ∧ exec (.rplSizeWrite ch v) s = .next s
      ∧ exec (.rplHeadWrite ch v) s = .next s ∧ ∀ head, exec (.replyRingWrite ⟨ch, head⟩) s = .next s) ∧
    (∀ m : BitVec 4, exec (.cmdFlush m) s = .next s ∧ exec (.rplFlush m) s = .next s) ∧
    (∀ (w : W32) (off : W12), exec (.intStatusW1c w) s = .next s ∧ exec (.bar0RegisterWrite off w) s = .next s) ∧
    (∀ (ch : Fin 4) (ws : List W32) (f : Fetched), exec (.pciePacketFetch ch ws f) s = .next s) ∧
    (∀ (p : SpiPacket) (n : Nat) (b : Byte), exec (.pktWrite p) s = .next s ∧ exec (.rplRead n) s = .next s ∧ exec .statusRead s = .next s
      ∧ exec (.flush b) s = .next s ∧ exec (.spiBad b) s = .next s) ∧
    exec .commandTake s = .next s) ∧
  (∀ e, IsCommand e → (e.1.rom = true ↔ e.1.code ∈ [opEcho.code, opSysStatusRead.code, opBootStatusRead.code, opImageStage.code, opBootExec.code])) ∧
  (∀ e, IsCommand e → ∀ (rq : Req) (s : State), alive s = true → opcodeLevel e.1 s ≤ packetLevel rq s → s.boot.rom = true → e.1.rom = false →
    ∃ r : Rej, exec (e.2 rq) s = .next (reply e.1.code rq (keyOf rq s) r [] s) ∧ (r = { st := .busy, detail := 1 } ∨ r.st = .notPermitted ∧ RanksAtStep7 e.1)) ∧
  (∀ e, IsCommand e → ∀ (rq : Req) (s : State), alive s = true → opcodeLevel e.1 s ≤ packetLevel rq s → s.boot.rom = false → inQuench s = true → e.1.q = false →
    ∃ r : Rej, exec (e.2 rq) s = .next (reply e.1.code rq (keyOf rq s) r [] s) ∧ (r = { st := .modeRefused } ∨ r.st = .notPermitted ∧ RanksAtStep7 e.1))

/-- A commit stroke more than 16,777,216 strokes ahead, a full table and a stroke that has begun are refused, in this order. -/
def Obligations.CommitStrokeIsChecked : Prop :=
  (∀ (rq : Req) (s : State), alive s = true → opcodeLevel opPmSnap s ≤ packetLevel rq s → s.boot.rom = false → inQuench s = false → rq.rsv = 0#3 →
    (rq.mac.all fun m => m.rsv = 0#13) = true → rq.params.length = 0 → rq.cmt = true →
    (scnt s + 16777216 < rq.commit.toNat →
      exec (.pmSnap rq) s = .next (reply opPmSnap.code rq (keyOf rq s) { st := .badParam, detail := if (scnt s + 16777216) >>> 32 < hi16 rq.commit then 2 else 3 } [] s)) ∧
    (rq.commit.toNat ≤ scnt s + 16777216 → 4096 ≤ pendingCount s → exec (.pmSnap rq) s = .next (reply opPmSnap.code rq (keyOf rq s) { st := .capacity, detail := 0 } [] s)) ∧
    (rq.commit.toNat ≤ scnt s → pendingCount s < 4096 → exec (.pmSnap rq) s = .next (reply opPmSnap.code rq (keyOf rq s) { st := .strokePast } [] s))) ∧
  (∀ (rq : Req) (s : State), alive s = true → opcodeLevel opStrokeJoin s ≤ packetLevel rq s → s.boot.rom = false → inQuench s = false → rq.rsv = 0#3 →
    (rq.mac.all fun m => m.rsv = 0#13) = true → rq.params.length = 0 → s.root.foreign.isEmpty = false → rq.cmt = true →
    (scnt s + 16777216 < rq.commit.toNat →
      exec (.strokeJoin rq) s = .next (reply opStrokeJoin.code rq (keyOf rq s) { st := .badParam, detail := if (scnt s + 16777216) >>> 32 < hi16 rq.commit then 2 else 3 } [] s)) ∧
    (rq.commit.toNat ≤ scnt s + 16777216 → 4096 ≤ pendingCount s → exec (.strokeJoin rq) s = .next (reply opStrokeJoin.code rq (keyOf rq s) { st := .capacity, detail := 0 } [] s)) ∧
    (rq.commit.toNat ≤ scnt s → pendingCount s < 4096 → exec (.strokeJoin rq) s = .next (reply opStrokeJoin.code rq (keyOf rq s) { st := .strokePast } [] s))) ∧
  (∀ (rq : Req) (s : State), alive s = true → opcodeLevel opModeCfg s ≤ packetLevel rq s → s.boot.rom = false → inQuench s = false → rq.rsv = 0#3 →
    (rq.mac.all fun m => m.rsv = 0#13) = true → rq.params.length = 1 → rq.p 0 &&& ~~~0x80FF0FFF#32 = 0#32 → 1 ≤ fld (rq.p 0) 23 16 ∧ 1 ≤ fld (rq.p 0) 11 0 ∧ fld (rq.p 0) 11 0 ≤ 3600 → rq.cmt = true →
    (scnt s + 16777216 < rq.commit.toNat →
      exec (.modeCfg rq) s = .next (reply opModeCfg.code rq (keyOf rq s) { st := .badParam, detail := if (scnt s + 16777216) >>> 32 < hi16 rq.commit then 2 else 3 } [] s)) ∧
    (rq.commit.toNat ≤ scnt s + 16777216 → 4096 ≤ pendingCount s → exec (.modeCfg rq) s = .next (reply opModeCfg.code rq (keyOf rq s) { st := .capacity, detail := 0 } [] s)) ∧
    (rq.commit.toNat ≤ scnt s → pendingCount s < 4096 → exec (.modeCfg rq) s = .next (reply opModeCfg.code rq (keyOf rq s) { st := .strokePast } [] s)))

/-- A command that a fault of the cores, the bus or an HBM grant meets returns INTERNAL with its fault-record index, and is undone. -/
def Obligations.InternalUndoesTheCommand : Prop :=
  (∀ e, IsCommand e → ∀ (rq : Req) (s t : State), alive s = true → s.mode.miscompare = true → exec (e.2 rq) s = .next t →
    let u := internalEntry e.1.code (s.onMode fun v => { v with miscompare := false })
    ((∃ r : Rej, r.st ≠ .ok ∧ t = reply e.1.code rq (keyOf rq s) r [] s) ∨ t = reply e.1.code rq (keyOf rq s) { st := .internal, detail := u.store.record.length - 1 } [] u) ∧
    t = { s with
      cmd := { s.cmd with rq := t.cmd.rq, intStatus := t.cmd.intStatus, late := t.cmd.late, joined := t.cmd.joined }, ev := t.ev, mode := { s.mode with miscompare := t.mode.miscompare }
      store := { s.store with record := t.store.record, serial := t.store.serial } }) ∧
  (∀ (opcode : Nat) (s : State), let u := internalEntry opcode s
    u = { s with store := { s.store with record := u.store.record, serial := s.store.serial + 1#32 } } ∧ u.store.record.length = min 64 (s.store.record.length + 1)) ∧
  (∀ (opcode : Nat) (s : State), let u := internalEntry opcode s
    (u.store.record.getLast?.map fun x => (x.code, x.detail, x.serial, x.scnt)) = some (0x20, opcode, s.store.serial, s.stk.scnt)) ∧
  (∀ (rq : Req) (s : State), let a := s.onMode fun v => { v with miscompare := false }
    s.mode.miscompare = true →
    (Admitted opEcho rq a → rq.params.length ≤ (if rq.mac.isSome then 4084 else 4090) → let u := internalEntry opEcho.code a
      exec (.echo rq) s = .next (reply opEcho.code rq (keyOf rq s) { st := .internal, detail := u.store.record.length - 1 } [] u)) ∧
    (Admitted opModeCfg rq a → rq.params.length = 1 → rq.p 0 &&& ~~~0x80FF0FFF#32 = 0#32 → 1 ≤ fld (rq.p 0) 23 16 → 1 ≤ fld (rq.p 0) 11 0 → fld (rq.p 0) 11 0 ≤ 3600 →
      let u := internalEntry opModeCfg.code a
      exec (.modeCfg rq) s = .next (reply opModeCfg.code rq (keyOf rq s) { st := .internal, detail := u.store.record.length - 1 } [] u)) ∧
    (Admitted opEvtPop rq a → rq.params.length = 1 → rq.p 0 &&& ~~~0x000001FF#32 = 0#32 → 1 ≤ fld (rq.p 0) 8 0 → fld (rq.p 0) 8 0 ≤ 256 → let u := internalEntry opEvtPop.code a
      exec (.evtPop rq) s = .next (reply opEvtPop.code rq (keyOf rq s) { st := .internal, detail := u.store.record.length - 1 } [] u)))

/-- A command that only reads changes nothing but the reply queue, the interrupt flags and the last sequence number. -/
def Obligations.ReadsWriteNothing : Prop :=
  ∀ c, Reads c → ∀ (rq : Req) (s t : State), s.mode.miscompare = false → exec (c rq) s = .next t →
    t = { s with cmd := { s.cmd with rq := t.cmd.rq, intStatus := t.cmd.intStatus, late := t.cmd.late, joined := t.cmd.joined }, ev := t.ev, keys := t.keys } ∧ (t.keys = s.keys ∨ t.keys = (accepted rq s).keys)

/-- A command that writes CMT fields enters the list of waiting writes and changes nothing else. -/
def Obligations.ScheduledWritesWaitForRow0 : Prop :=
  ∀ c, ScheduledWrites c → ∀ (rq : Req) (s t : State), s.mode.miscompare = false → exec (c rq) s = .next t →
    t = { s with cmd := { s.cmd with rq := t.cmd.rq, intStatus := t.cmd.intStatus, late := t.cmd.late, joined := t.cmd.joined }, ev := t.ev, keys := t.keys, commits := t.commits }
      ∧ (t.keys = s.keys ∨ t.keys = (accepted rq s).keys)
      ∧ (t.commits = s.commits ∨ ∃ o : OpInfo, IsCommand (o, c)
          ∧ t.commits = s.commits ++ [{ stroke := if rq.cmt then some rq.commit else none, opcode := o.code, tag := rq.tag, params := rq.params }])

/-- Every other command writes only the unit it addresses. -/
def Obligations.OtherCommandsWriteTheirOwnUnit : Prop :=
  ∀ (rq : Req) (s t : State), s.mode.miscompare = false →
    ((exec (.queueCfg rq) s = .next t ∨ exec (.queueFlush rq) s = .next t ∨ exec (.accessPolicyWrite rq) s = .next t ∨ exec (.intClear rq) s = .next t ∨ exec (.evtMaskWrite rq) s = .next t ∨ exec (.evtPop rq) s = .next t ∨ exec (.evcRead rq) s = .next t) → t = { s with cmd := t.cmd, ev := t.ev, keys := t.keys }) ∧
    (exec (.commitCancel rq) s = .next t → t = { s with cmd := t.cmd, ev := t.ev, keys := t.keys, commits := t.commits }) ∧
    (exec (.strokeSet rq) s = .next t → t = { s with cmd := t.cmd, ev := t.ev, keys := t.keys, stk := t.stk }) ∧
    (exec (.mapSync rq) s = .next t → t = { s with cmd := t.cmd, ev := t.ev, keys := t.keys, anvil := t.anvil }) ∧
    (exec (.mapWrite rq) s = .next t → t = { s with cmd := t.cmd, ev := t.ev, keys := t.keys, anvil := t.anvil, integ := t.integ, store := { s.store with record := t.store.record, serial := t.store.serial } }) ∧
    ((exec (.mapRead rq) s = .next t ∨ exec (.contRead rq) s = .next t ∨ exec (.pgRead rq) s = .next t ∨ exec (.ruleRead rq) s = .next t ∨ exec (.secRead rq) s = .next t ∨ exec (.arbCfg rq) s = .next t) → t = { s with cmd := t.cmd, ev := t.ev, keys := t.keys, integ := t.integ }) ∧
    (exec (.fabRouteRead rq) s = .next t → t = { s with cmd := t.cmd, ev := t.ev, keys := t.keys, fab := { s.fab with routesDue := t.fab.routesDue } }) ∧
    (exec (.pgStatusRead rq) s = .next t → t = { s with cmd := t.cmd, ev := t.ev, keys := t.keys, prot := t.prot }) ∧
    (exec (.txCfg rq) s = .next t → t = { s with cmd := t.cmd, ev := t.ev, keys := t.keys, commits := t.commits, tx := t.tx }) ∧
    (exec (.rxCfg rq) s = .next t → t = { s with cmd := t.cmd, ev := t.ev, keys := t.keys, commits := t.commits, rx := t.rx }) ∧
    ((exec (.lineFecStatusRead rq) s = .next t ∨ exec (.faultExport rq) s = .next t) → t = { s with cmd := t.cmd, ev := t.ev, keys := t.keys, free := t.free }) ∧
    ((exec (.progWrite rq) s = .next t ∨ exec (.ruleWrite rq) s = .next t) → t = { s with cmd := t.cmd, ev := t.ev, keys := t.keys, anvil := t.anvil, grm := t.grm, integ := t.integ, store := { s.store with record := t.store.record, serial := t.store.serial } }) ∧
    ((exec (.ruleSync rq) s = .next t ∨ exec (.grmQueueCfg rq) s = .next t) → t = { s with cmd := t.cmd, ev := t.ev, keys := t.keys, grm := t.grm }) ∧
    (exec (.grmQueueFlush rq) s = .next t → t = { s with cmd := t.cmd, ev := t.ev, keys := t.keys, cont := t.cont, grm := t.grm }) ∧
    ((exec (.keyLoad rq) s = .next t ∨ exec (.keyClear rq) s = .next t ∨ exec (.authKeyLoad rq) s = .next t ∨ exec (.tkLoad rq) s = .next t) → t = { s with cmd := t.cmd, ev := t.ev, keys := t.keys, sec := t.sec, store := { s.store with record := t.store.record, serial := t.store.serial } }) ∧
    (exec (.pkSet rq) s = .next t → t = { s with cmd := t.cmd, ev := t.ev, keys := t.keys }) ∧
    (exec (.store rq) s = .next t → t = { s with cmd := t.cmd, ev := t.ev, keys := t.keys, sec := t.sec, store := t.store }) ∧
    ((exec (.i2cCfg rq) s = .next t ∨ exec (.i2cXfer rq) s = .next t) → t = { s with cmd := t.cmd, ev := t.ev, keys := t.keys, opt := t.opt }) ∧
    ((exec (.imageStage rq) s = .next t ∨ exec (.rollbackAdvance rq) s = .next t ∨ exec (.signerSlotProgram rq) s = .next t ∨ exec (.signerRevoke rq) s = .next t ∨ exec (.sysRestart rq) s = .next t) → t = { s with cmd := t.cmd, ev := t.ev, keys := t.keys, boot := t.boot }) ∧
    (exec (.imageInstall rq) s = .next t → t = { s with cmd := t.cmd, ev := t.ev, keys := t.keys, boot := t.boot }) ∧
    (exec (.faultAck rq) s = .next t → t = { s with cmd := t.cmd, ev := t.ev, keys := t.keys, mode := t.mode }) ∧
    ((exec (.attest rq) s = .next t ∨ exec (.profileErase rq) s = .next t) → t = { s with cmd := t.cmd, ev := t.ev, keys := t.keys, store := t.store }) ∧
    (exec (.pmRead rq) s = .next t → t = { s with cmd := t.cmd, ev := t.ev, keys := t.keys, pm := t.pm }) ∧
    (exec (.fabPathSet rq) s = .next t → t = { s with cmd := t.cmd, ev := t.ev, keys := t.keys, anvil := t.anvil, commits := t.commits, fab := t.fab, integ := t.integ, store := { s.store with record := t.store.record, serial := t.store.serial } }) ∧
    (exec (.quenchExit rq) s = .next t → t = { s with cmd := t.cmd, ev := t.ev, keys := t.keys, boot := t.boot, mode := t.mode, opt := t.opt, root := t.root, tx := t.tx })

/-- MAP_WRITE writes the shadow bank only, and no command writes the active bank. -/
def Obligations.NoCommandWritesTheActiveBank : Prop :=
  (∀ e, IsCommand e → ∀ (rq : Req) (s t : State), (s.boot.rom = false ∨ e.1.code ≠ opBootExec.code) → exec (e.2 rq) s = .next t →
    activeBank t = activeBank s ∧ t.anvil.activeB = s.anvil.activeB) ∧
  (∀ (rq : Req) (s t : State), exec (.mapWrite rq) s = .next t →
    t.anvil = (if s.anvil.activeB then { s.anvil with bankA := t.anvil.bankA, goldA := t.anvil.goldA, shadow := t.anvil.shadow, backBad := t.anvil.backBad }
      else { s.anvil with bankB := t.anvil.bankB, goldB := t.anvil.goldB, shadow := t.anvil.shadow, backBad := t.anvil.backBad }))

/-- When the system commands execute normally, and what they then leave. -/
def Obligations.SystemCommandsComplete : Prop :=
  (∀ (rq : Req) (s : State),
    Admitted opEcho rq s → rq.params.length ≤ (if rq.mac.isSome then 4084 else 4090) →
    exec (.echo rq) s = .next (completed opEcho rq s (fun _ => rq.params) (fun s => s))) ∧
  (∀ (rq : Req) (s : State),
    Admitted opCapsRead rq s → rq.params.length = 0 →
    exec (.capsRead rq) s = .next (completed opCapsRead rq s (fun s => capsWords s) (fun s => s))) ∧
  (∀ (rq : Req) (s : State),
    Admitted opSysStatusRead rq s → rq.params.length = 0 →
    exec (.sysStatusRead rq) s = .next (completed opSysStatusRead rq s (fun s => sysStatusWords s) (fun s => s))) ∧
  (∀ (rq : Req) (s : State),
    Admitted opQueueStatusRead rq s → rq.params.length = 0 →
    exec (.queueStatusRead rq) s = .next (completed opQueueStatusRead rq s (fun s => queueStatusWords s) (fun s => s))) ∧
  (∀ (rq : Req) (s : State),
    Admitted opQueueCfg rq s → rq.params.length = 15 → (∀ q < 12, (rq.p q).toNat ≤ levelMax s q) → 50 ≤ (rq.p 12).toNat ∧ (rq.p 12).toNat ≤ 500000 →
    rq.p 13 &&& 0xFFFFF000#32 = 0#32 → rq.p 14 &&& ~~~0x00000001#32 = 0#32 →
    exec (.queueCfg rq) s = .next (completed opQueueCfg rq s (fun _ => []) (fun s => s.onCmd fun v => { v with levels := (List.range 12).map (fun q => (rq.p q).toNat), fwdTimeout := (rq.p 12).setWidth 32, intMask := rq.p 13, intPinEn := bit (rq.p 14) 0 }))) ∧
  (∀ (rq : Req) (s : State),
    Admitted opQueueFlush rq s → rq.params.length = 1 → rq.p 0 &&& ~~~0x00000FFF#32 = 0#32 →
    exec (.queueFlush rq) s = .next (completed opQueueFlush rq s (fun _ => []) (fun s => flushMask (bitList 12 (rq.p 0).toNat) s))) ∧
  (∀ (rq : Req) (s : State),
    Admitted opAccessPolicyRead rq s → rq.params.length = 0 →
    exec (.accessPolicyRead rq) s = .next (completed opAccessPolicyRead rq s (fun s => [unauthWord s.cmd.unauth, word [(flag s.cmd.obsCounters, 0)]]) (fun s => s))) ∧
  (∀ (rq : Req) (s : State),
    Admitted opAccessPolicyWrite rq s → rq.params.length = 2 →
    (rq.p 0).toNat < 4096 ∧ (List.range 6).all (fun q => decide (fld (rq.p 0) (2 * q + 1) (2 * q) ∈ [1, 2])) = true → rq.p 1 &&& ~~~0x00000001#32 = 0#32 →
    exec (.accessPolicyWrite rq) s = .next (completed opAccessPolicyWrite rq s (fun _ => []) (fun s => s.onCmd fun v => { v with unauth := unauthOf (rq.p 0), obsCounters := bit (rq.p 1) 0 }))) ∧
  (∀ (rq : Req) (s : State),
    Admitted opIntClear rq s → rq.params.length = 1 → rq.p 0 &&& ~~~0x000003FF#32 = 0#32 →
    exec (.intClear rq) s = .next (completed opIntClear rq s (fun _ => []) (fun s => s.onCmd fun v => { v with intStatus := v.intStatus &&& ~~~(rq.p 0) })))

/-- When the stroke and clock commands execute normally, and what they then leave. -/
def Obligations.StrokeCommandsComplete : Prop :=
  (∀ (rq : Req) (s : State),
    Admitted opStrokeRead rq s → rq.params.length = 0 →
    exec (.strokeRead rq) s = .next (completed opStrokeRead rq s (fun s => strokeStatusWords s) (fun s => s))) ∧
  (∀ (rq : Req) (s : State),
    Admitted opStrokeSet rq s → isolatedRoot s = true → rq.params.length = 2 → rq.p 0 &&& ~~~0x0000FFFF#32 = 0#32 →
    exec (.strokeSet rq) s = .next (completed opStrokeSet rq s (fun _ => []) (fun s => s.onStk fun v => { v with setTo := some (w48 (rq.p 0) (rq.p 1)) }))) ∧
  (∀ (rq : Req) (s : State),
    Admitted opStrokeCfg rq s → rq.params.length = 2 → rq.p 0 &&& ~~~0xFF00C00F#32 = 0#32 → fld (rq.p 0) 3 0 ∈ [0, 1, 2, 3, 15] →
    (signed 32 (rq.p 1).toNat).natAbs ≤ 1000000 →
    exec (.strokeCfg rq) s = .next (scheduled opStrokeCfg rq s)) ∧
  (∀ (rq : Req) (s : State),
    Admitted opStrokeJoin rq s → rq.params.length = 0 → s.root.foreign.isEmpty = false →
    exec (.strokeJoin rq) s = .next (scheduled opStrokeJoin rq s)) ∧
  (∀ (rq : Req) (s : State),
    let c := fld (rq.p 0) 4 0
    Admitted opRefCfg rq s → refAbsent s c = false → rq.params.length = 2 → rq.p 0 &&& ~~~0x0000001F#32 = 0#32 → c < 24 →
    rq.p 1 &&& ~~~0xFFFFFF03#32 = 0#32 → (decide (c < 20) || decide (fld (rq.p 1) 21 16 < 48)) = true → 1 ≤ fld (rq.p 1) 15 8 ∧ fld (rq.p 1) 15 8 ≤ 100 →
    exec (.refCfg rq) s = .next (scheduled opRefCfg rq s)) ∧
  (∀ (rq : Req) (s : State),
    Admitted opRefStatusRead rq s → rq.params.length = 0 →
    exec (.refStatusRead rq) s = .next (completed opRefStatusRead rq s (fun s => clkStatusWords s ++ (List.range 24).map (refCfg s)) (fun s => s))) ∧
  (∀ (rq : Req) (s : State),
    let c := fld (rq.p 0) 4 0
    Admitted opRefForce rq s → rq.params.length = 1 → rq.p 0 &&& ~~~0x0000001F#32 = 0#32 →
    (decide (c < 8) || (decide (20 ≤ c) && decide (c < 24)) || decide (c = 31)) = true →
    exec (.refForce rq) s = .next (scheduled opRefForce rq s)) ∧
  (∀ (rq : Req) (s : State),
    Admitted opClkCfg rq s → rq.params.length = 3 → rq.p 0 &&& ~~~0xE003FFFF#32 = 0#32 → fld (rq.p 0) 31 30 ≠ 3 →
    1 ≤ fld (rq.p 0) 17 0 ∧ fld (rq.p 0) 17 0 ≤ 172800 → rq.p 1 &&& ~~~0xFFFF0000#32 = 0#32 → fld (rq.p 1) 31 16 ≤ 3600 →
    rq.p 2 &&& ~~~0xFE00FE00#32 = 0#32 → fld (rq.p 2) 31 28 ≤ 4 ∧ fld (rq.p 2) 15 12 ≤ 4 →
    exec (.clkCfg rq) s = .next (scheduled opClkCfg rq s)) ∧
  (∀ (rq : Req) (s : State),
    let i := fld (rq.p 0) 11 0
    Admitted opCommitListRead rq s → rq.params.length = 1 → rq.p 0 &&& ~~~0x00000FFF#32 = 0#32 →
    exec (.commitListRead rq) s = .next (answered opCommitListRead rq s (fun s =>
    let l := ((pendingSorted s).drop i).take 1024
    .done s (word [(flag (decide ((pendingSorted s).length ≤ i + l.length)), 31), ((i + l.length) % 4096, 16), (l.length, 0)] ::
      l.flatMap fun c => [word [(c.opcode, 16), (c.tag.toNat, 0)], word [(hi16 (c.stroke.getD 0#48), 0)], BitVec.ofNat 32 (lo32 (c.stroke.getD 0#48))])))) ∧
  (∀ (rq : Req) (s : State),
    let n := w48 (rq.p 0) (rq.p 1)
    Admitted opCommitCancel rq s → rq.params.length = 2 → rq.p 0 &&& ~~~0x0000FFFF#32 = 0#32 →
    exec (.commitCancel rq) s = .next (completed opCommitCancel rq s (fun s => [word [((s.commits.filter fun c => c.stroke = some n).length, 0)]])
      (fun s => s.onCommits fun l => l.filter fun c => c.stroke ≠ some n)))

/-- When the connection-map commands execute normally, and what they then leave. -/
def Obligations.AnvilCommandsComplete : Prop :=
  (∀ (rq : Req) (s : State),
    Admitted opMapWrite rq s → (if bit (rq.p 0) 31 then 3 else 2) ≤ rq.params.length → rq.params.length ≤ (if bit (rq.p 0) 31 then 3 else 4096) →
    rq.p 0 &&& ~~~0x8007FFFF#32 = 0#32 → rq.p 1 &&& ~~~0x00007FFF#32 = 0#32 → mapCountOk rq = true →
    (∀ e < fld (rq.p 1) 14 0, entryOk s (fld (rq.p 0) 18 0 + e) (mapEntry rq e) = true) → mapSealed s = false → s.anvil.sync = none →
    backDiffers (shadowTable s) (fld (rq.p 0) 18 0) (fld (rq.p 1) 14 0) s = false →
    exec (.mapWrite rq) s = .next (completed opMapWrite rq s (fun _ => []) (fun s => (writeShadow (fld (rq.p 0) 18 0) (mapEntries rq) s).onAnvil fun v => { v with shadow := if v.shadow = .synced then .modified else v.shadow }))) ∧
  (∀ (rq : Req) (s : State),
    Admitted opMapCommit rq s → rq.params.length = 0 → mapSealed s = false → s.anvil.sync = none →
    inUse (shadowBank s) ≤ limitAt s (actsAt s (if rq.cmt then some rq.commit else none)) →
    exec (.mapCommit rq) s = .next (completed opMapCommit rq s (fun s => [word [(flag !s.anvil.activeB, 0)]]) (fun s => addCommit opMapCommit rq s))) ∧
  (∀ (rq : Req) (s : State),
    Admitted opMapSync rq s → rq.params.length = 0 → mapSealed s = false → s.anvil.sync = none →
    exec (.mapSync rq) s = .next (runsOn rq s (fun s => s.onAnvil fun v => { v with sync := some (deferred opMapSync rq s) }))) ∧
  (∀ (rq : Req) (s : State),
    let sh := bit (rq.p 0) 31
    let st := fld (rq.p 0) 18 0
    let n := fld (rq.p 1) 11 0
    Admitted opMapRead rq s → rq.params.length = 2 → rq.p 0 &&& ~~~0x8007FFFF#32 = 0#32 → rq.p 1 &&& ~~~0x00000FFF#32 = 0#32 →
    1 ≤ n ∧ n ≤ 4000 ∧ st + n ≤ 524288 →
    exec (.mapRead rq) s = .next (answered opMapRead rq s (fun s =>
    readAnswer (if sh then shadowTable s else activeTable s) st (tgetMany 0#32 (if sh then shadowBank s else activeBank s) st n) [] s))) ∧
  (∀ (rq : Req) (s : State),
    Admitted opMapStatusRead rq s → rq.params.length = 0 →
    exec (.mapStatusRead rq) s = .next (completed opMapStatusRead rq s (fun s => mapStatusWords s) (fun s => s)))

/-- When the container, analyser and test commands execute normally, and what they then leave. -/
def Obligations.ContainerCommandsComplete : Prop :=
  (∀ (rq : Req) (s : State),
    let c := contObj (rq.p 0)
    let e := entryOfParams rq.params
    let old := contEntry s c
    let en := e.srcEn || e.snkEn
    let live := old.srcEn || old.snkEn
    let bound := boundEver s c
    Admitted opContCfg rq s → (e.home ≠ 3 || 4 ≤ e.unit || enginePresent s e.unit) = true → (e.home ≠ 1 || groomPresent s) = true → 5 ≤ rq.params.length →
    rq.params.length ≤ 21 → rq.p 0 &&& ~~~0x00003FFF#32 = 0#32 → rq.p 1 &&& ~~~0xF8FF3F00#32 = 0#32 → e.home ≤ 3 →
    (decide (1 ≤ e.pt ∧ e.pt ≤ 4) || (decide (e.pt = 0) && !en)) = true → e.unit < (if e.home = 0 then 48 else if e.home = 3 then 4 else 1) →
    (!live || (decide (e.home = old.home) && decide (e.unit = old.unit) && decide (e.pt = old.pt))) = true → (bound && decide (e.home = 3)) = false →
    rq.p 3 &&& ~~~0xFFFFF001#32 = 0#32 → 1 ≤ e.degThr ∧ e.degThr ≤ 50000 ∧ 2 ≤ e.degM ∧ e.degM ≤ 10 → rq.p 4 &&& ~~~0x001F7FFF#32 = 0#32 →
    e.runCount ≤ 16 ∧ (decide (1 ≤ e.runCount) || !en) = true → e.n ≤ 24000 ∧ (decide (1 ≤ e.n) || !en) = true → rq.params.length = 5 + e.runCount →
    (decide (rq.params.length < 5 + e.runCount) || decide (e.n ≤ e.billets)) = true → (!bound || decide (24 ≤ e.n)) = true →
    (!(en || bound) || decide (minBillets s c e (if bound then 48 else 24) ≤ e.n)) = true →
    (∀ i < e.runs.length, runInHome s e (e.runs.getD i 0#32) = true ∧ runOverlaps (takenRuns s c) e.runs i = false) →
    (!live || runsChangeOk old e (max old.n e.n)) = true → poolUse s c + e.runCount ≤ 65536 →
    exec (.contCfg rq) s = .next (scheduled opContCfg rq s)) ∧
  (∀ (rq : Req) (s : State),
    let c := contObj (rq.p 0)
    Admitted opContRead rq s → rq.params.length = 1 → rq.p 0 &&& ~~~0x00003FFF#32 = 0#32 →
    exec (.contRead rq) s = .next (answered opContRead rq s (fun s =>
    match readAnswer 2 (4 * c) (contEntry s c).words [] s with
    | .done s' res => readAnswer 3 (poolIndex s' c) (contEntry s' c).runs res s'
    | .slagged s' res i =>
      (match readAnswer 3 (poolIndex s' c) (contEntry s' c).runs res s' with
      | .done s' res | .slagged s' res _ => .slagged s' res i
      | a => a)
    | a => a))) ∧
  (∀ (rq : Req) (s : State),
    Admitted opContStatusRead rq s → rq.params.length = 1 → rq.p 0 &&& ~~~0x00003FFF#32 = 0#32 →
    exec (.contStatusRead rq) s = .next (completed opContStatusRead rq s (fun s => contStatusWords s (contObj (rq.p 0))) (fun s => s))) ∧
  (∀ (rq : Req) (s : State),
    let st := fld (rq.p 1) 13 0
    let n := fld (rq.p 2) 14 0
    Admitted opBaCfg rq s → rq.params.length = 3 → rq.p 0 &&& ~~~0x0000000F#32 = 0#32 → rq.p 1 &&& ~~~0xE0003FFF#32 = 0#32 → fld (rq.p 1) 30 29 ≠ 3 →
    rq.p 2 &&& ~~~0x00007FFF#32 = 0#32 → 1 ≤ n ∧ st + n ≤ 16384 →
    exec (.baCfg rq) s = .next (scheduled opBaCfg rq s)) ∧
  (∀ (rq : Req) (s : State),
    Admitted opBaRead rq s → rq.params.length = 1 → rq.p 0 &&& ~~~0x0000000F#32 = 0#32 →
    exec (.baRead rq) s = .next (completed opBaRead rq s (fun s => checkerWords (baCheckers s (baObj (rq.p 0)))) (fun s => s))) ∧
  (∀ (rq : Req) (s : State),
    let c := contObj (rq.p 0)
    Admitted opTestRead rq s → rq.params.length = 1 → rq.p 0 &&& ~~~0x00003FFF#32 = 0#32 → 2 ≤ (contEntry s c).home →
    exec (.testRead rq) s = .next (completed opTestRead rq s (fun s => checkerWords [tget {} s.cont.chk c]) (fun s => s))) ∧
  (∀ (rq : Req) (s : State),
    let k := fld (rq.p 0) 31 30
    let n := (rq.p 1).toNat
    Admitted opErrInject rq s → rq.params.length = 2 → k ≤ 1 → rq.p 0 &&& ~~~(if k = 0 then 0x00003FFF#32 else 0x4007FFFF#32) = 0#32 →
    rq.p 1 &&& ~~~0x0000FFFF#32 = 0#32 → 1 ≤ n ∧ (decide (k = 0) || decide (n ≤ 125)) = true →
    exec (.errInject rq) s = .next (scheduled opErrInject rq s))

/-- When the protection commands execute normally, and what they then leave. -/
def Obligations.ProtectionCommandsComplete : Prop :=
  (∀ (rq : Req) (s : State),
    let g := pgObj (rq.p 0)
    let c := pgParams rq.params
    let old := pgCfgOf s g
    let keep := !(pgEn old && pgEn c)
    let other := (pgOthers s g).flatMap (pgViews s)
    Admitted opPgCfg rq s → rq.params.length = 9 → rq.p 0 &&& ~~~0x000003FF#32 = 0#32 → rq.p 1 &&& ~~~0xFEFFF000#32 = 0#32 →
    rq.p 2 &&& ~~~0x0007FFFF#32 = 0#32 → rq.p 3 &&& ~~~0x0007FFFF#32 = 0#32 → rq.p 4 &&& ~~~0x3FFF7FFF#32 = 0#32 → rq.p 5 &&& ~~~0xFFFF07FF#32 = 0#32 →
    rq.p 6 &&& ~~~0x000001FF#32 = 0#32 → rq.p 7 &&& ~~~0xFFFFFFF0#32 = 0#32 → rq.p 8 &&& ~~~0xFFFF0000#32 = 0#32 →
    pgMode c ≠ 3 ∧ pgHold c ≤ 100 ∧ 1 ≤ pgWtr c ∧ pgWtr c ≤ 12 → (decide (pgMode c = 2) && (pgBidir c || pgAps c)) = false →
    (keep || decide (pgMode c = pgMode old)) = true → pgRangeOk s (pgWork c) (pgLen c) = true → (keep || decide (pgWork c = pgWork old)) = true →
    1 ≤ pgOffset c ∧ pgRangeOk s (pgProt c) (pgLen c) = true → pgLen c ≤ pgOffset c ∧ pgOffset c + pgLen c ≤ 524288 →
    (keep || decide (pgOffset c = pgOffset old)) = true → 1 ≤ pgLen c ∧ pgLen c ≤ 24000 → (keep || decide (pgLen c = pgLen old)) = true →
    (pgAps c && other.any fun d => pgAps d && decide (pgApsCont d = pgApsCont c)) = false → 1 ≤ pgDiff c ∧ pgDiff c ≤ 1250 →
    (keep || (decide (pgOut c = pgOut old) && decide (pgDiff c = pgDiff old))) = true →
    (decide (pgMode c ≠ 2) || (decide (pgOut c + pgLen c ≤ 65536) && !other.any fun d => pgErrorless d && outsMeet c d)) = true → pgSlack c ≤ 250 →
    2 ≤ fld (c.getD 6 0#32) 7 4 ∧ fld (c.getD 6 0#32) 7 4 ≤ 10 → 1 ≤ fld (c.getD 7 0#32) 31 16 ∧ fld (c.getD 7 0#32) 31 16 ≤ 50000 →
    (!pgErrorless c || decide (alignedUse s g + pgLen c ≤ 64000)) = true →
    exec (.pgCfg rq) s = .next (scheduled opPgCfg rq s)) ∧
  (∀ (rq : Req) (s : State),
    Admitted opPgRead rq s → rq.params.length = 1 → rq.p 0 &&& ~~~0x000003FF#32 = 0#32 →
    exec (.pgRead rq) s = .next (answered opPgRead rq s (fun s => readAnswer 4 (8 * pgObj (rq.p 0)) (pgCfgOf s (pgObj (rq.p 0))) [] s))) ∧
  (∀ (rq : Req) (s : State),
    let m := pgMode (pgCfgOf s (pgObj (rq.p 0)))
    let v := (rq.p 1).toNat
    Admitted opPgCmd rq s → rq.params.length = 2 → rq.p 0 &&& ~~~0x000003FF#32 = 0#32 →
    (if m = 2 then decide (8 ≤ v ∧ v ≤ 10) else decide (v ≤ 4)) = true →
    exec (.pgCmd rq) s = .next (scheduled opPgCmd rq s)) ∧
  (∀ (rq : Req) (s : State),
    let x := groupOf s (pgObj (rq.p 0))
    Admitted opAlnRealign rq s → rq.params.length = 1 → rq.p 0 &&& ~~~0x000003FF#32 = 0#32 → x.w.snk.inFrame = true ∧ x.p.snk.inFrame = true →
    exec (.alnRealign rq) s = .next (scheduled opAlnRealign rq s)) ∧
  (∀ (rq : Req) (s : State),
    let g := pgObj (rq.p 0)
    let clr := bit (rq.p 0) 31
    Admitted opPgStatusRead rq s → (!clr || decide (2 ≤ packetLevel rq s)) = true → rq.params.length = 1 → rq.p 0 &&& ~~~0x800003FF#32 = 0#32 →
    exec (.pgStatusRead rq) s = .next (completed opPgStatusRead rq s (fun s => pgStatusWords s g) (fun s => if clr then onGroup g (fun x => { x with cmdRej := false }) s else s))) ∧
  (∀ (rq : Req) (s : State),
    Admitted opAlnStatusRead rq s → rq.params.length = 1 → rq.p 0 &&& ~~~0x000003FF#32 = 0#32 →
    exec (.alnStatusRead rq) s = .next (completed opAlnStatusRead rq s (fun s => alnStatusWords s (pgObj (rq.p 0))) (fun s => s))) ∧
  (∀ (rq : Req) (s : State),
    Admitted opPgSummaryRead rq s → rq.params.length = 0 →
    exec (.pgSummaryRead rq) s = .next (completed opPgSummaryRead rq s (fun s => groupMap GroupSt.sel s ++ groupMap (fun x => x.w.sf || x.p.sf) s ++ groupMap groupDefect s) (fun s => s)))

/-- When the fabric commands execute normally, and what they then leave. -/
def Obligations.FabricCommandsComplete : Prop :=
  (∀ (rq : Req) (s : State),
    let rec0 := rq.cq ≠ 5 && !rq.quiet
    Admitted opFabPathSet rq s → (∀ c ∈ pathPar 0 rq s, c = none) → (∀ c ∈ pathLate 0 rq s, c = none) →
    (∀ c ∈ (if rec0 then recordCheck rq.cq rq.tag rq.tgt s else []), c = none) →
    pathBack 0 rq s = false →
    exec (.fabPathSet rq) s = .next (answered opFabPathSet rq s (fun s1 =>
    let src := if rq.cq ≠ 5 then s1.fab.nodeAddr.toNat else rq.src.toNat
    let s2 := if rec0 then addRecord rq.cq rq.tag rq.tgt rq.src opFabPathSet.code s1 else s1
    .done (pathNext 0 (min 2 (packetLevel rq s)) (hopLimit s1) s1.fab.nodeAddr.toNat rq (rebuild opFabPathSet.code rq src (keyOf rq s)) (pathWrite 0 rq s2)) [0#32]))) ∧
  (∀ (rq : Req) (s : State),
    let w := rq.p 0
    Admitted opFabCfg rq s → rq.params.length = 1 → rq.p 0 &&& ~~~0x80FF0FFF#32 = 0#32 →
    1 ≤ fld w 23 16 ∧ fld w 11 0 ≤ 4094 ∧ (bit w 31 || decide (1 ≤ fld w 11 0)) = true →
    exec (.fabCfg rq) s = .next (scheduled opFabCfg rq s)) ∧
  (∀ (rq : Req) (s : State),
    Admitted opFabStatusRead rq s → rq.params.length = 0 →
    exec (.fabStatusRead rq) s = .next (completed opFabStatusRead rq s (fun s => fabStatusWords s) (fun s => s))) ∧
  (∀ (rq : Req) (s : State),
    let p := fpObj (rq.p 0)
    Admitted opFabPortCfg rq s → (decide (12 ≤ p) || decide (retiredLanes s p ≤ 2)) = true → rq.params.length = 3 → rq.p 0 &&& ~~~0x0000000F#32 = 0#32 →
    fpObj (rq.p 0) ≤ 11 → rq.p 1 &&& ~~~0xC0FFFFFF#32 = 0#32 → 1 ≤ fld (rq.p 1) 23 16 ∧ fld (rq.p 1) 15 12 ≤ 11 → rq.p 2 &&& ~~~0xFFFFF000#32 = 0#32 →
    1 ≤ fld (rq.p 2) 31 16 ∧ 2 ≤ fld (rq.p 2) 15 12 ∧ fld (rq.p 2) 15 12 ≤ 10 →
    exec (.fabPortCfg rq) s = .next (scheduled opFabPortCfg rq s)) ∧
  (∀ (rq : Req) (s : State),
    Admitted opFabPortStatusRead rq s → rq.params.length = 1 → rq.p 0 &&& ~~~0x0000000F#32 = 0#32 → fpObj (rq.p 0) ≤ 11 →
    exec (.fabPortStatusRead rq) s = .next (completed opFabPortStatusRead rq s (fun s => fpStatusWords s (fpObj (rq.p 0))) (fun s => s))) ∧
  (∀ (rq : Req) (s : State),
    let a := fld (rq.p 0) 11 0
    let n := fld (rq.p 1) 12 0
    Admitted opFabRouteRead rq s → rq.params.length = 2 → rq.p 0 &&& ~~~0x00000FFF#32 = 0#32 → rq.p 1 &&& ~~~0x00001FFF#32 = 0#32 →
    1 ≤ n ∧ n ≤ 4000 ∧ a + n ≤ 4096 →
    exec (.fabRouteRead rq) s = .next (answered opFabRouteRead rq s (fun s => readAnswer 10 a (tgetMany routeReset s.fab.routes a n) [] s))) ∧
  (∀ (rq : Req) (s : State),
    Admitted opFabLsdbRead rq s → rq.params.length = 1 → rq.p 0 &&& ~~~0x000007FF#32 = 0#32 →
    exec (.fabLsdbRead rq) s = .next (answered opFabLsdbRead rq s (fun s =>
    let r := lsdbFrom (s.fab.lsdb.drop (rq.p 0).toNat) (rq.p 0).toNat 4000
    .done s (r.1 ++ [if r.2 < s.fab.lsdb.length then BitVec.ofNat 32 r.2 else 0xFFFFFFFF#32]))))

/-- When the line-transmitter commands execute normally, and what they then leave. -/
def Obligations.LineTxCommandsComplete : Prop :=
  (∀ (rq : Req) (s : State),
    let e := engObj (rq.p 0)
    let c := [rq.p 1, rq.p 2, rq.p 3]
    let bonded := bit (bondLast s) 31
    let changes := lcRate c ≠ lcRate (txLast s e)
    let g := if bonded && decide (e ≠ 0) then txLast s 0 else c
    let r := symbolRate (lcFormat g) (lcN g) (lcEntropy g) bonded
    Admitted opTxCfg rq s → enginePresent s (engObj (rq.p 0)) = true → (txEng s (engObj (rq.p 0))).retired = false → rq.params.length = 4 →
    rq.p 0 &&& ~~~0x00000003#32 = 0#32 → rq.p 1 &&& ~~~0xFFFFC000#32 = 0#32 → rateFieldsOk c = true → rateBoundsOk c (bonded && decide (e = 0)) = true →
    (!(bonded && decide (e = 0) && changes) || !rateFieldsOk c || spacingOk c (fld (bondLast s) 30 20)) = true → rq.p 2 &&& ~~~0xFFFFFF80#32 = 0#32 →
    (1 ≤ lcRampMs c ∧ lcRampMs c ≤ 100) ∧ lcLaserWait c ≤ 250000 → rq.p 3 &&& ~~~0xFF000000#32 = 0#32 → 16 ≤ lcDrive c ∧ lcDrive c ≤ 80 →
    (!changes || txRateFree s e) = true → (!lcEn c || fracLe r (txEng s e).maxRs.toNat) = true →
    exec (.txCfg rq) s = .next (completed opTxCfg rq s (fun _ => []) (fun s => addCommit opTxCfg rq (noteChange evLinTxRateLimit e (txEng s e).rateLimit false (onTxEng e (fun x => { x with rateLimit := false }) s))))) ∧
  (∀ (rq : Req) (s : State),
    Admitted opTxRead rq s → enginePresent s (engObj (rq.p 0)) = true → rq.params.length = 1 → rq.p 0 &&& ~~~0x00000003#32 = 0#32 →
    exec (.txRead rq) s = .next (completed opTxRead rq s (fun s => (txEng s (engObj (rq.p 0))).cfg) (fun s => s))) ∧
  (∀ (rq : Req) (s : State),
    Admitted opTxPreemph rq s → enginePresent s (engObj (rq.p 0)) = true → (txEng s (engObj (rq.p 0))).retired = false → rq.params.length = 17 →
    rq.p 0 &&& ~~~0x00000003#32 = 0#32 → (∀ i < 16, ((bytesOf (rq.p (1 + i))).all fun b => decide (b.toNat ≤ 120)) = true) →
    exec (.txPreemph rq) s = .next (scheduled opTxPreemph rq s)) ∧
  (∀ (rq : Req) (s : State),
    Admitted opTxPreemphRead rq s → enginePresent s (engObj (rq.p 0)) = true → rq.params.length = 1 → rq.p 0 &&& ~~~0x00000003#32 = 0#32 →
    exec (.txPreemphRead rq) s = .next (completed opTxPreemphRead rq s (fun s => preWords s (engObj (rq.p 0))) (fun s => s))) ∧
  (∀ (rq : Req) (s : State),
    let w := rq.p 0
    let changes := bit w 31 != bit (bondLast s) 31
    let at_ := actsAt s (if rq.cmt then some rq.commit else none)
    let modes := (waiting opModeSet s).filter fun c => decide (actsAt s c.stroke ≤ at_)
    Admitted opLineBondCfg rq s → (!changes || bondCapable s) = true → rq.params.length = 1 → rq.p 0 &&& ~~~0xFFF00000#32 = 0#32 →
    200 ≤ fld w 30 20 ∧ fld w 30 20 ≤ 700 → (!bit w 31 || spacingOk (txLast s 0) (fld w 30 20)) = true →
    (!changes || (decide (baseMode s = .forge) && modes.all fun c => modeOfCode (fld (c.p 0) 3 0) = .forge)) = true →
    (!changes || (List.range 4).all (txRateFree s)) = true →
    exec (.lineBondCfg rq) s = .next (scheduled opLineBondCfg rq s)) ∧
  (∀ (rq : Req) (s : State),
    Admitted opTxStatusRead rq s → enginePresent s (engObj (rq.p 0)) = true → rq.params.length = 1 → rq.p 0 &&& ~~~0x00000003#32 = 0#32 →
    exec (.txStatusRead rq) s = .next (completed opTxStatusRead rq s (fun s => txStatusWords s (engObj (rq.p 0))) (fun s => s))) ∧
  (∀ (rq : Req) (s : State),
    let w := rq.p 1
    let l := fld w 31 28
    let t := signed 16 (fld w 15 0)
    Admitted opTxCalCfg rq s → enginePresent s (engObj (rq.p 0)) = true → (txEng s (engObj (rq.p 0))).retired = false → rq.params.length = 2 →
    rq.p 0 &&& ~~~0x00000003#32 = 0#32 → rq.p 1 &&& ~~~0xFC00FFFF#32 = 0#32 → l ≤ 8 ∧ fld w 27 26 ≤ 1 →
    (if 6 ≤ l then decide (t = 0) else decide (t.natAbs ≤ loopRange l)) = true →
    exec (.txCalCfg rq) s = .next (scheduled opTxCalCfg rq s)) ∧
  (∀ (rq : Req) (s : State),
    Admitted opTxCalRead rq s → enginePresent s (engObj (rq.p 0)) = true → rq.params.length = 1 → rq.p 0 &&& ~~~0x00000003#32 = 0#32 →
    exec (.txCalRead rq) s = .next (completed opTxCalRead rq s (fun s => txCalWords (txEng s (engObj (rq.p 0)))) (fun s => s)))

/-- When the line-receiver and overhead commands execute normally, and what they then leave. -/
def Obligations.LineRxCommandsComplete : Prop :=
  (∀ (rq : Req) (s : State),
    let e := engObj (rq.p 0)
    let c := [rq.p 1, rq.p 2, rq.p 3, rq.p 4, rq.p 5]
    let bonded := bit (bondLast s) 31
    let g := if bonded && decide (e ≠ 0) then rxLast s 0 else c
    let r := symbolRate (lcFormat g) (lcN g) (lcEntropy g) bonded
    Admitted opRxCfg rq s → enginePresent s (engObj (rq.p 0)) = true → (rxEng s (engObj (rq.p 0))).retired = false → rq.params.length = 6 →
    rq.p 0 &&& ~~~0x00000003#32 = 0#32 → rq.p 1 &&& ~~~0xFFFFFF00#32 = 0#32 → rateFieldsOk c = true → rateBoundsOk c (bonded && decide (e = 0)) = true →
    1 ≤ rcPilotAvg c ∧ rcPilotAvg c ≤ 8 → (rcCdSet c).natAbs ≤ 20000 ∧ rcCdSpan c ≤ 200 ∧ (1 ≤ rcLosThr c ∧ rcLosThr c ≤ 64) →
    rq.p 3 &&& ~~~0xFFFFF000#32 = 0#32 → (12 ≤ rcHuntThr c ∧ rcHuntThr c ≤ 48) ∧ (12 ≤ rcVerThr c ∧ rcVerThr c ≤ rcHuntThr c) ∧ 16 ≤ rcHuntTimeout c →
    deskewFieldOk (rq.p 4) = true → deskewFieldOk (rq.p 5) = true → (!lcEn c || fracLe r (rxEng s e).maxRs.toNat) = true →
    exec (.rxCfg rq) s = .next (completed opRxCfg rq s (fun _ => []) (fun s => addCommit opRxCfg rq (noteChange evLinRxRateLimit e (rxEng s e).rateLimit false (onRxEng e (fun x => { x with rateLimit := false }) s))))) ∧
  (∀ (rq : Req) (s : State),
    Admitted opRxRead rq s → enginePresent s (engObj (rq.p 0)) = true → rq.params.length = 1 → rq.p 0 &&& ~~~0x00000003#32 = 0#32 →
    exec (.rxRead rq) s = .next (completed opRxRead rq s (fun s => (rxEng s (engObj (rq.p 0))).cfg) (fun s => s))) ∧
  (∀ (rq : Req) (s : State),
    Admitted opRxStatusRead rq s → enginePresent s (engObj (rq.p 0)) = true → rq.params.length = 1 → rq.p 0 &&& ~~~0x00000003#32 = 0#32 →
    exec (.rxStatusRead rq) s = .next (completed opRxStatusRead rq s (fun s => rxStatusWords s (engObj (rq.p 0))) (fun s => s))) ∧
  (∀ (rq : Req) (s : State),
    Admitted opRxQualityRead rq s → enginePresent s (engObj (rq.p 0)) = true → rq.params.length = 1 → rq.p 0 &&& ~~~0x00000003#32 = 0#32 →
    exec (.rxQualityRead rq) s = .next (completed opRxQualityRead rq s (fun s => rxQualityWords (rxEng s (engObj (rq.p 0)))) (fun s => s))) ∧
  (∀ (rq : Req) (s : State),
    Admitted opRxCalRead rq s → enginePresent s (engObj (rq.p 0)) = true → rq.params.length = 1 → rq.p 0 &&& ~~~0x00000003#32 = 0#32 →
    exec (.rxCalRead rq) s = .next (completed opRxCalRead rq s (fun s => rxCalWords (rxEng s (engObj (rq.p 0)))) (fun s => s))) ∧
  (∀ (rq : Req) (s : State),
    Admitted opRxReacquire rq s → enginePresent s (engObj (rq.p 0)) = true → (rxEng s (engObj (rq.p 0))).retired = false → rq.params.length = 2 →
    rq.p 0 &&& ~~~0x00000003#32 = 0#32 → rq.p 1 &&& ~~~0x00000001#32 = 0#32 → lcEn (rxEng s (engObj (rq.p 0))).cfg = true →
    exec (.rxReacquire rq) s = .next (scheduled opRxReacquire rq s)) ∧
  (∀ (rq : Req) (s : State),
    let deg := fun (w : W32) => decide (1 ≤ fld w 31 12 ∧ fld w 31 12 ≤ 860000) && decide (2 ≤ fld w 11 8 ∧ fld w 11 8 ≤ 10)
    Admitted opLineOhCfg rq s → enginePresent s (engObj (rq.p 0)) = true → rq.params.length = 5 → rq.p 0 &&& ~~~0x00000003#32 = 0#32 →
    rq.p 1 &&& ~~~0xFF800000#32 = 0#32 → rq.p 2 &&& ~~~0xFFFFFF00#32 = 0#32 → deg (rq.p 2) = true → rq.p 3 &&& ~~~0xFFFFFF00#32 = 0#32 →
    deg (rq.p 3) = true → rq.p 4 &&& ~~~0xFFFF0000#32 = 0#32 → 1 ≤ fld (rq.p 4) 31 16 ∧ fld (rq.p 4) 31 16 ≤ 5000 →
    exec (.lineOhCfg rq) s = .next (scheduled opLineOhCfg rq s)) ∧
  (∀ (rq : Req) (s : State),
    Admitted opLineOhRead rq s → enginePresent s (engObj (rq.p 0)) = true → rq.params.length = 1 → rq.p 0 &&& ~~~0x00000003#32 = 0#32 →
    exec (.lineOhRead rq) s = .next (completed opLineOhRead rq s (fun s => (otnOf s (engObj (rq.p 0))).oh) (fun s => s))) ∧
  (∀ (rq : Req) (s : State),
    Admitted opLineTtiWrite rq s → enginePresent s (engObj (rq.p 0)) = true → rq.params.length = 17 → rq.p 0 &&& ~~~0x00000303#32 = 0#32 →
    exec (.lineTtiWrite rq) s = .next (scheduled opLineTtiWrite rq s)) ∧
  (∀ (rq : Req) (s : State),
    let l := flag (bit (rq.p 0) 8)
    Admitted opLineTtiRead rq s → enginePresent s (engObj (rq.p 0)) = true → rq.params.length = 1 → rq.p 0 &&& ~~~0x00000103#32 = 0#32 →
    exec (.lineTtiRead rq) s = .next (answered opLineTtiRead rq s (fun s => let x := otnOf s (engObj (rq.p 0)); .done s (ttiWords x.ttiAcc l ++ ttiWords x.ttiTx l ++ ttiWords x.ttiExp l)))) ∧
  (∀ (rq : Req) (s : State),
    Admitted opLineOtnStatusRead rq s → enginePresent s (engObj (rq.p 0)) = true → rq.params.length = 1 → rq.p 0 &&& ~~~0x00000003#32 = 0#32 →
    exec (.lineOtnStatusRead rq) s = .next (completed opLineOtnStatusRead rq s (fun s => lineOtnWords s (engObj (rq.p 0))) (fun s => s))) ∧
  (∀ (rq : Req) (s : State),
    Admitted opLineFecStatusRead rq s → enginePresent s (engObj (rq.p 0)) = true → rq.params.length = 1 → rq.p 0 &&& ~~~0x00000003#32 = 0#32 →
    exec (.lineFecStatusRead rq) s = .next (completed opLineFecStatusRead rq s (fun s => lineFecWords s (engObj (rq.p 0))) (fun s => drawn s))) ∧
  (∀ (rq : Req) (s : State),
    Admitted opLineRealign rq s → enginePresent s (engObj (rq.p 0)) = true → rq.params.length = 1 → rq.p 0 &&& ~~~0x00000003#32 = 0#32 →
    (otnOf s (engObj (rq.p 0))).inFrame = true →
    exec (.lineRealign rq) s = .next (scheduled opLineRealign rq s))

/-- When the client-port and lane commands execute normally, and what they then leave. -/
def Obligations.ClientCommandsComplete : Prop :=
  (∀ (rq : Req) (s : State),
    let p := cliObj (rq.p 0)
    let w := rq.p 1
    Admitted opClPortCfg rq s → (!cpGroomed w || groomPresent s) = true → rq.params.length = 2 → rq.p 0 &&& ~~~0x0000003F#32 = 0#32 →
    cliObj (rq.p 0) < 48 → rq.p 1 &&& ~~~0xFF000000#32 = 0#32 → cpWidth w ∈ [1, 2, 4, 8] → p % cpWidth w = 0 → (!cpGroomed w || !cpFlexo w) = true →
    lanesOverlap s p (cpWidth w) = false → tribsForbid s p w = false →
    (!shapeChanges s p w || (!cpEn (cliPort s p) && !((cliViews s p).drop 1).any cpEn)) = true →
    exec (.clPortCfg rq) s = .next (scheduled opClPortCfg rq s)) ∧
  (∀ (rq : Req) (s : State),
    Admitted opClPortRead rq s → rq.params.length = 1 → rq.p 0 &&& ~~~0x0000003F#32 = 0#32 → cliObj (rq.p 0) < 48 →
    exec (.clPortRead rq) s = .next (completed opClPortRead rq s (fun s => [cliPort s (cliObj (rq.p 0))]) (fun s => s))) ∧
  (∀ (rq : Req) (s : State),
    Admitted opClPortStatusRead rq s → rq.params.length = 1 → rq.p 0 &&& ~~~0x0000003F#32 = 0#32 → cliObj (rq.p 0) < 48 →
    exec (.clPortStatusRead rq) s = .next (completed opClPortStatusRead rq s (fun s => cliStatusWords s (cliObj (rq.p 0))) (fun s => s))) ∧
  (∀ (rq : Req) (s : State),
    let p := cliObj (rq.p 0)
    let j := fld (rq.p 0) 11 8
    let e := (rq.p 1, rq.p 2)
    let m := cpRate (cliLast s p)
    let v := trValid e
    Admitted opFlexoTribCfg rq s → rq.params.length = 3 → rq.p 0 &&& ~~~0x00000F3F#32 = 0#32 → p < 48 → rq.p 1 &&& ~~~0xFFFFC1FF#32 = 0#32 →
    trType e ≠ 5 ∧ trType e ≠ 6 → trFirst e < 320 → rq.p 2 &&& ~~~0x000001FF#32 = 0#32 → trCount e ≤ 320 → (!v || cpFlexo (cliLast s p)) = true →
    (!v || decide (1 ≤ trCount e)) = true → (!v || (trSlots m (trType e)).all fun n => decide (trCount e = n)) = true →
    (!v || decide (trEnd e ≤ 20 * m)) = true → (!v || !(otherTribs s p j).any (slotsOverlap e)) = true →
    (!v || (decide (trType e ≠ 7) && (otherTribs s p j).all fun t => decide (trType t ≠ 7)) || (otherTribs s p j).isEmpty) = true → (!v || !contTooSmall s m e) = true →
    exec (.flexoTribCfg rq) s = .next (scheduled opFlexoTribCfg rq s)) ∧
  (∀ (rq : Req) (s : State),
    Admitted opFlexoTribRead rq s → rq.params.length = 1 → rq.p 0 &&& ~~~0x00000F3F#32 = 0#32 → cliObj (rq.p 0) < 48 →
    exec (.flexoTribRead rq) s = .next (completed opFlexoTribRead rq s (fun s => [(tribOf s (tribObj (rq.p 0))).1, (tribOf s (tribObj (rq.p 0))).2]) (fun s => s))) ∧
  (∀ (rq : Req) (s : State),
    let n := laneObj (rq.p 0)
    let w := rq.p 1
    let t := rq.p 2
    Admitted opLaneCfg rq s → (laneValid n && (laneOf s n).retired) = false → rq.params.length = 3 → rq.p 0 &&& ~~~0x000000FF#32 = 0#32 →
    laneValid (laneObj (rq.p 0)) = true → rq.p 1 &&& ~~~0xFF800000#32 = 0#32 → fld w 31 30 ≠ 3 ∧ fld w 28 27 ≠ 3 ∧ fld w 26 25 ≠ 3 →
    (decide (n < 48) || bit w 29) = true → rq.p 2 &&& ~~~0xFFFFFF80#32 = 0#32 →
    fld t 31 27 ≤ 16 ∧ 32 ≤ fld t 26 20 ∧ fld t 26 20 ≤ 64 ∧ fld t 19 15 ≤ 24 ∧ fld t 31 27 + fld t 26 20 + fld t 19 15 ≤ 64 →
    (turnsOnPrbs s n w && laneInUse s n) = false →
    exec (.laneCfg rq) s = .next (scheduled opLaneCfg rq s)) ∧
  (∀ (rq : Req) (s : State),
    Admitted opLaneStatusRead rq s → rq.params.length = 1 → rq.p 0 &&& ~~~0x000000FF#32 = 0#32 → laneValid (laneObj (rq.p 0)) = true →
    exec (.laneStatusRead rq) s = .next (completed opLaneStatusRead rq s (fun s => laneStatusWords s (laneObj (rq.p 0))) (fun s => s))) ∧
  (∀ (rq : Req) (s : State),
    Admitted opLanePrbsRead rq s → rq.params.length = 1 → rq.p 0 &&& ~~~0x000000FF#32 = 0#32 → laneValid (laneObj (rq.p 0)) = true →
    exec (.lanePrbsRead rq) s = .next (completed opLanePrbsRead rq s (fun s => (checkerWords [(laneOf s (laneObj (rq.p 0))).chk]).take 4) (fun s => s)))

/-- When the grooming commands execute normally, and what they then leave. -/
def Obligations.GroomCommandsComplete : Prop :=
  (∀ (rq : Req) (s : State),
    Admitted opGroomCfg rq s → groomPresent s = true → rq.params.length = 3 → rq.p 0 &&& ~~~0x0000000F#32 = 0#32 →
    1 ≤ (rq.p 0).toNat ∧ (rq.p 0).toNat ≤ 8 → rq.p 1 &&& ~~~0x83FF83FF#32 = 0#32 → rq.p 2 &&& ~~~0x83FF83FF#32 = 0#32 →
    exec (.groomCfg rq) s = .next (scheduled opGroomCfg rq s)) ∧
  (∀ (rq : Req) (s : State),
    Admitted opGroomRead rq s → groomPresent s = true → rq.params.length = 0 →
    exec (.groomRead rq) s = .next (completed opGroomRead rq s (fun s => s.grm.cfg) (fun s => s))) ∧
  (∀ (rq : Req) (s : State),
    Admitted opGroomStatusRead rq s → groomPresent s = true → rq.params.length = 0 →
    exec (.groomStatusRead rq) s = .next (completed opGroomStatusRead rq s (fun s => groomStatusWords s) (fun s => s))) ∧
  (∀ (rq : Req) (s : State),
    let g := slotObj (rq.p 0)
    let w := (rq.p 1, rq.p 2)
    let old := slotCfg s g
    let e := contLast s (slCont w)
    Admitted opSlotCfg rq s → groomPresent s = true → rq.params.length = 3 → rq.p 0 &&& ~~~0x000003FF#32 = 0#32 → rq.p 1 &&& ~~~0xBFFF007F#32 = 0#32 →
    1 ≤ slMib w ∧ slMib w ≤ 64 → rq.p 2 &&& ~~~0xFFF00000#32 = 0#32 → portField (slFeed w) = true ∧ portField (slOut w) = true →
    e.home = 1 ∧ e.pt = 3 ∧ contNamed s g (slCont w) = false →
    (!slEn old || !slEn w || (decide (slCont w = slCont old) && decide (slMib w = slMib old))) = true → slotMib s g w ≤ 8192 →
    exec (.slotCfg rq) s = .next (scheduled opSlotCfg rq s)) ∧
  (∀ (rq : Req) (s : State),
    Admitted opSlotRead rq s → groomPresent s = true → rq.params.length = 1 → rq.p 0 &&& ~~~0x000003FF#32 = 0#32 →
    exec (.slotRead rq) s = .next (completed opSlotRead rq s (fun s => [(slotCfg s (slotObj (rq.p 0))).1, (slotCfg s (slotObj (rq.p 0))).2]) (fun s => s))) ∧
  (∀ (rq : Req) (s : State),
    Admitted opSlotStatusRead rq s → groomPresent s = true → rq.params.length = 1 → rq.p 0 &&& ~~~0x000003FF#32 = 0#32 →
    exec (.slotStatusRead rq) s = .next (completed opSlotStatusRead rq s (fun s => slotStatusWords s (slotObj (rq.p 0))) (fun s => s))) ∧
  (∀ (rq : Req) (s : State),
    let f := fld (rq.p 0) 7 0
    let n := fld (rq.p 1) 8 0
    Admitted opProgWrite rq s → groomPresent s = true → 2 ≤ rq.params.length → rq.params.length ≤ 258 → rq.p 0 &&& ~~~0x000000FF#32 = 0#32 →
    rq.p 1 &&& ~~~0x000001FF#32 = 0#32 → 1 ≤ n ∧ f + n ≤ 256 → rq.params.length = 2 + n → (∀ i < n, instrOk (rq.p (2 + i)) = true) → grmSealed s = false →
    s.grm.pend ≠ .draining → s.grm.sync = none → backDiffers (8 + pendBank s) f n s = false →
    exec (.progWrite rq) s = .next (completed opProgWrite rq s (fun _ => []) (fun s => grmModified ((cleanWords (8 + pendBank s) f n s).onGrm fun v => { v with prog := tsetMany 0#32 v.prog (pendBank s * 256 + f) (rq.params.drop 2), goldProg := tsetMany 0#32 v.goldProg (pendBank s * 256 + f) (rq.params.drop 2) })))) ∧
  (∀ (rq : Req) (s : State),
    let f := fld (rq.p 0) 15 0
    let n := fld (rq.p 1) 7 0
    Admitted opRuleWrite rq s → groomPresent s = true → 2 ≤ rq.params.length → rq.params.length ≤ 4082 → rq.p 0 &&& ~~~0x0000FFFF#32 = 0#32 →
    rq.p 1 &&& ~~~0x000000FF#32 = 0#32 → 1 ≤ n ∧ n ≤ 240 ∧ f + n ≤ 65536 → rq.params.length = 2 + 17 * n →
    (∀ i < n, rq.p (2 + 17 * i + 16) &&& ~~~0xC00003FF#32 = 0#32) → grmSealed s = false → s.grm.pend ≠ .draining → s.grm.sync = none → backDiffers (6 + pendBank s) (17 * f) (17 * n) s = false →
    exec (.ruleWrite rq) s = .next (completed opRuleWrite rq s (fun _ => []) (fun s => grmModified ((cleanWords (6 + pendBank s) (17 * f) (17 * n) s).onGrm fun v => { v with
      rules := tsetMany ruleReset v.rules (pendBank s * 65536 + f) (rulesOf n (rq.params.drop 2))
      goldRules := tsetMany ruleReset v.goldRules (pendBank s * 65536 + f) (rulesOf n (rq.params.drop 2)) })))) ∧
  (∀ (rq : Req) (s : State),
    Admitted opRuleCommit rq s → groomPresent s = true → rq.params.length = 0 → grmSealed s = false → s.grm.pend ≠ .draining → s.grm.sync = none →
    exec (.ruleCommit rq) s = .next (completed opRuleCommit rq s (fun s => [s.grm.genNum + 1#32]) (fun s => addCommit opRuleCommit rq s))) ∧
  (∀ (rq : Req) (s : State),
    Admitted opRuleSync rq s → groomPresent s = true → rq.params.length = 0 → grmSealed s = false → s.grm.pend ≠ .draining → s.grm.sync = none →
    exec (.ruleSync rq) s = .next (runsOn rq s (fun s => s.onGrm fun v => { v with sync := some (deferred opRuleSync rq s) }))) ∧
  (∀ (rq : Req) (s : State),
    let prog := bit (rq.p 0) 30
    let f := fld (rq.p 0) 15 0
    let n := (rq.p 1).toNat
    let bank := if bit (rq.p 0) 31 then !s.grm.activeIs1 else s.grm.activeIs1
    Admitted opRuleRead rq s → groomPresent s = true → rq.params.length = 2 → rq.p 0 &&& ~~~0xC000FFFF#32 = 0#32 → (!prog || decide (f < 256)) = true →
    rq.p 1 &&& ~~~(if prog then 0x000001FF#32 else 0x000000FF#32) = 0#32 →
    1 ≤ n ∧ (if prog then decide (f + n ≤ 256) else decide (n ≤ 240) && decide (f + n ≤ 65536)) = true →
    exec (.ruleRead rq) s = .next (answered opRuleRead rq s (fun s =>
    if prog then readAnswer (8 + bankOf bank) f ((List.range n).map fun i => progWord s bank (f + i)) [] s
    else readAnswer (6 + bankOf bank) (17 * f) ((List.range n).flatMap fun i => ruleOf s bank (f + i)) [] s))) ∧
  (∀ (rq : Req) (s : State),
    Admitted opGrmQueueCfg rq s → groomPresent s = true → rq.params.length = 2 → rq.p 0 &&& ~~~0x00000FFF#32 = 0#32 →
    grmQueueOk (fld (rq.p 0) 11 0) = true → rq.p 1 &&& ~~~0x001FFFFF#32 = 0#32 →
    exec (.grmQueueCfg rq) s = .next (completed opGrmQueueCfg rq s (fun _ => []) (fun s => s.onGrm fun v => { v with levels := tset 0#32 v.levels (fld (rq.p 0) 11 0) (rq.p 1) }))) ∧
  (∀ (rq : Req) (s : State),
    Admitted opGrmQueueFlush rq s → groomPresent s = true → rq.params.length = 1 → rq.p 0 &&& ~~~0x00000FFF#32 = 0#32 →
    grmQueueOk (fld (rq.p 0) 11 0) = true →
    exec (.grmQueueFlush rq) s = .next (completed opGrmQueueFlush rq s (fun _ => []) (fun s => grmFlush (fld (rq.p 0) 11 0) s)))

/-- When the security commands execute normally, and what they then leave. -/
def Obligations.SecurityCommandsComplete : Prop :=
  (∀ (rq : Req) (s : State),
    let k := secObj (rq.p 0)
    let w := [rq.p 1, rq.p 2, rq.p 3, rq.p 4]
    let old := secCfg s k
    Admitted opSecCfg rq s → s.fused.secPresent = true → rq.params.length = 5 → rq.p 0 &&& ~~~0x000003FF#32 = 0#32 → rq.p 1 &&& ~~~0xE03FFFFF#32 = 0#32 →
    ctxFailLimit w ≠ 0 → (!ctxBind w || (!boundByOther s k (ctxCont w) && bindable s (ctxCont w))) = true →
    (ctxBind old && !ctxBind w && (ctxEnable old || ctxEnable w)) = false → (ctxBind old && decide (ctxCont old ≠ ctxCont w)) = false →
    (ctxBind w && rq.p 2 = rq.p 3) = false → rq.p 4 &&& ~~~0x00003FFF#32 = 0#32 →
    exec (.secCfg rq) s = .next (scheduled opSecCfg rq s)) ∧
  (∀ (rq : Req) (s : State),
    Admitted opSecRead rq s → s.fused.secPresent = true → rq.params.length = 1 → rq.p 0 &&& ~~~0x000003FF#32 = 0#32 →
    exec (.secRead rq) s = .next (answered opSecRead rq s (fun s => readAnswer 5 (4 * secObj (rq.p 0)) (secCfg s (secObj (rq.p 0))) [] s))) ∧
  (∀ (rq : Req) (s : State),
    Admitted opSecStatusRead rq s → s.fused.secPresent = true → rq.params.length = 1 → rq.p 0 &&& ~~~0x000003FF#32 = 0#32 →
    exec (.secStatusRead rq) s = .next (completed opSecStatusRead rq s (fun s => secStatusWords s (secObj (rq.p 0))) (fun s => s))) ∧
  (∀ (rq : Req) (s : State),
    Admitted opKeyLoad rq s → s.fused.secPresent = true → rq.params.length = 12 → rq.p 0 &&& ~~~0x000003FF#32 = 0#32 → rq.p 1 &&& ~~~0x00000003#32 = 0#32 →
    switchPending s (secObj (rq.p 0)) = false → slotBusy s (secObj (rq.p 0)) (1 - (ctxOf s (secObj (rq.p 0))).cur) = false → s.sec.keFailed = false →
    s.sec.owner = 0 →
    exec (.keyLoad rq) s = .next (runsOn rq s (fun s => keyServiceTake (deferred opKeyLoad rq s) s))) ∧
  (∀ (d : Deferred) (s : State),
    s.sec.seq = some d → s.sec.keFailed = false → d.opcode = opKeyLoad.code → switchPending s (secObj (d.req.p 0)) = false →
    slotBusy s (secObj (d.req.p 0)) (1 - (ctxOf s (secObj (d.req.p 0))).cur) = false →
    keySequenceEnd false s = (match unwrapWords d.req (tkOf s (fld (d.req.p 1) 1 0)) with
    | .ok key => replyDeferred d { st := .ok } [] (putSlot (secObj (d.req.p 0)) (1 - (ctxOf s (secObj (d.req.p 0))).cur) (some key) (keyRelease s))
    | .error r => replyDeferred d r [] (keyRelease s))) ∧
  (∀ (rq : Req) (s : State),
    Admitted opKeyClear rq s → s.fused.secPresent = true → rq.params.length = 1 → rq.p 0 &&& ~~~0x000003FF#32 = 0#32 →
    switchPending s (secObj (rq.p 0)) = false → slotBusy s (secObj (rq.p 0)) (1 - (ctxOf s (secObj (rq.p 0))).cur) = false → s.sec.keFailed = false →
    s.sec.owner = 0 →
    exec (.keyClear rq) s = .next (runsOn rq s (fun s => keyServiceTake (deferred opKeyClear rq s) s))) ∧
  (∀ (d : Deferred) (s : State),
    s.sec.seq = some d → s.sec.keFailed = false → d.opcode = opKeyClear.code → switchPending s (secObj (d.req.p 0)) = false →
    slotBusy s (secObj (d.req.p 0)) (1 - (ctxOf s (secObj (d.req.p 0))).cur) = false →
    keySequenceEnd false s = (replyDeferred d { st := .ok } []
    (onCtx (secObj (d.req.p 0)) (fun y => if y.cur = 0 then { y with key1 := none } else { y with key0 := none }) (keyRelease s)))) ∧
  (∀ (rq : Req) (s : State),
    let k := secObj (rq.p 0)
    Admitted opKeySwitch rq s → s.fused.secPresent = true → rq.params.length = 1 → rq.p 0 &&& ~~~0x000003FF#32 = 0#32 →
    (slotKey (ctxOf s k) (1 - (ctxOf s k).cur)).isSome = true → switchPending s k = false →
    exec (.keySwitch rq) s = .next (scheduled opKeySwitch rq s)) ∧
  (∀ (rq : Req) (s : State),
    Admitted opSecClearLoss rq s → s.fused.secPresent = true → rq.params.length = 1 → rq.p 0 &&& ~~~0x000003FF#32 = 0#32 →
    exec (.secClearLoss rq) s = .next (scheduled opSecClearLoss rq s)) ∧
  (∀ (rq : Req) (s : State),
    Admitted opKeStatusRead rq s → rq.params.length = 0 →
    exec (.keStatusRead rq) s = .next (completed opKeStatusRead rq s (fun s => keStatusWords s) (fun s => s)))

/-- When the optics commands execute normally, and what they then leave. -/
def Obligations.OpticsCommandsComplete : Prop :=
  (∀ (rq : Req) (s : State),
    let n := fld (rq.p 1) 20 16
    Admitted opHkCfg rq s → rq.params.length = 3 + n → rq.p 0 &&& ~~~0x00000001#32 = 0#32 → rq.p 1 &&& ~~~0x801FFFFF#32 = 0#32 → 1 ≤ n ∧ n ≤ 16 →
    rq.p 2 &&& ~~~0x0000FFFF#32 = 0#32 →
    (if fld (rq.p 1) 15 0 = 0 then decide (fld (rq.p 2) 15 0 = 0) else decide (fld (rq.p 2) 15 0 < fld (rq.p 1) 15 0)) = true →
    (∀ e < (rq.params.length - 3), hkEntryOk (rq.p (3 + e)) = true) →
    exec (.hkCfg rq) s = .next (scheduled opHkCfg rq s)) ∧
  (∀ (rq : Req) (s : State),
    Admitted opHkRead rq s → rq.params.length = 1 → rq.p 0 &&& ~~~0x00000001#32 = 0#32 →
    exec (.hkRead rq) s = .next (completed opHkRead rq s (fun s => (hkOf s (fld (rq.p 0) 0 0)).cfg) (fun s => s))) ∧
  (∀ (rq : Req) (s : State),
    Admitted opHkTrigger rq s → rq.params.length = 1 → rq.p 0 &&& ~~~0x00000001#32 = 0#32 →
    exec (.hkTrigger rq) s = .next (scheduled opHkTrigger rq s)) ∧
  (∀ (rq : Req) (s : State),
    let n := outObj (rq.p 0)
    Admitted opOutCfg rq s → rq.params.length = 3 → rq.p 0 &&& ~~~0x0000003F#32 = 0#32 → n < 40 → rq.p 1 &&& ~~~0x8000FFFF#32 = 0#32 →
    fld (rq.p 1) 15 0 ≤ fld (rq.p 2) 31 16 → (ownedView s n && decide (fld (rq.p 1) 15 0 ≠ outSetLast s n)) = false → fld (rq.p 2) 15 0 ≠ 0 →
    exec (.outCfg rq) s = .next (scheduled opOutCfg rq s)) ∧
  (∀ (rq : Req) (s : State),
    let n := outObj (rq.p 0)
    Admitted opOutRead rq s → rq.params.length = 1 → rq.p 0 &&& ~~~0x0000003F#32 = 0#32 → n < 40 →
    exec (.outRead rq) s = .next (completed opOutRead rq s (fun s => [(outOf s n).cfg1, outCfg2 s n]) (fun s => s))) ∧
  (∀ (rq : Req) (s : State),
    let l := blObj (rq.p 0)
    let w := [rq.p 1, rq.p 2, rq.p 3]
    let old := (blOf s l).cfg
    Admitted opBlCfg rq s → rq.params.length = 4 → rq.p 0 &&& ~~~0x00000007#32 = 0#32 → rq.p 1 &&& ~~~0xFFF8FFFF#32 = 0#32 →
    blOut w < 40 ∧ blAmp w ≠ 0 ∧ blHalf w ≠ 0 → ((List.range 8).any fun j => j ≠ l && (blViews s j).any fun v => blEnable v && blOut v = blOut w) = false →
    (blEnable old && blEnable w && !(blOut old = blOut w && blConv old = blConv w && blEnt old = blEnt w)) = false → 2 * blAmp w ≤ outMaxLast s (blOut w) →
    blCycles w ≠ 0 ∧ blStep w ≠ 0 →
    exec (.blCfg rq) s = .next (scheduled opBlCfg rq s)) ∧
  (∀ (rq : Req) (s : State),
    Admitted opBlRead rq s → rq.params.length = 1 → rq.p 0 &&& ~~~0x00000007#32 = 0#32 →
    exec (.blRead rq) s = .next (completed opBlRead rq s (fun s => (blOf s (blObj (rq.p 0))).cfg) (fun s => s))) ∧
  (∀ (rq : Req) (s : State),
    Admitted opHkResultRead rq s → rq.params.length = 1 → rq.p 0 &&& ~~~0x00000001#32 = 0#32 →
    exec (.hkResultRead rq) s = .next (completed opHkResultRead rq s (fun s => hkResultWords s (fld (rq.p 0) 0 0)) (fun s => s))) ∧
  (∀ (rq : Req) (s : State),
    Admitted opOutStatusRead rq s → rq.params.length = 0 →
    exec (.outStatusRead rq) s = .next (completed opOutStatusRead rq s (fun s => (List.range 40).map (outStatusWord s)) (fun s => s))) ∧
  (∀ (rq : Req) (s : State),
    Admitted opBlStatusRead rq s → rq.params.length = 1 → rq.p 0 &&& ~~~0x00000007#32 = 0#32 →
    exec (.blStatusRead rq) s = .next (completed opBlStatusRead rq s (fun s => blStatusWords s (blObj (rq.p 0))) (fun s => s))) ∧
  (∀ (rq : Req) (s : State),
    Admitted opOptStatusRead rq s → rq.params.length = 0 →
    exec (.optStatusRead rq) s = .next (completed opOptStatusRead rq s (fun s => optStatusWords s) (fun s => s))) ∧
  (∀ (rq : Req) (s : State),
    Admitted opI2cCfg rq s → rq.params.length = 2 → rq.p 0 &&& ~~~0x00000003#32 = 0#32 → rq.p 1 &&& ~~~0xC000007F#32 = 0#32 →
    fld (rq.p 1) 31 30 ≤ 2 ∧ 1 ≤ fld (rq.p 1) 6 0 ∧ fld (rq.p 1) 6 0 ≤ 100 →
    exec (.i2cCfg rq) s = .next (completed opI2cCfg rq s (fun _ => []) (fun s => onI2c (i2cObj (rq.p 0)) (fun i => { i with cfg := rq.p 1 }) s))) ∧
  (∀ (rq : Req) (s : State),
    let m := i2cObj (rq.p 0)
    Admitted opI2cXfer rq s → rq.params.length = 2 + ceilDiv (xferW (rq.p 1)) 4 → rq.p 0 &&& ~~~0x00000003#32 = 0#32 → rq.p 1 &&& ~~~0x7F1FF1FF#32 = 0#32 →
    xferW (rq.p 1) ≤ 256 ∧ xferR (rq.p 1) ≤ 256 → (i2cOf s m).xfer = none →
    exec (.i2cXfer rq) s = .next (runsOn rq s (fun s => onI2c m (fun i => { i with xfer := some (deferred opI2cXfer rq s), abort := false }) s)))

/-- When the mode, boot, trust and profile commands execute normally, and what they then leave. -/
def Obligations.ModeAndBootCommandsComplete : Prop :=
  (∀ (rq : Req) (s : State),
    Admitted opQuench rq s → rq.params.length = 0 →
    exec (.quench rq) s = .next (completed opQuench rq s (fun _ => []) (fun s => enterQuench s))) ∧
  (∀ (rq : Req) (s : State),
    Admitted opQuenchExit rq s → rq.params.length = 0 → inQuench s = true ∧ quenchHeld s = false →
    exec (.quenchExit rq) s = .next (completed opQuenchExit rq s (fun _ => []) (fun s => restartAlignment (famRelease ((s.onMode fun v => { v with mode := .kindle, origin := .kindle }).onBoot (fun v => { v with stage := .calibrating, calib := true }) |>.onOpt fun v => { v with vrefDue := true }))))) ∧
  (∀ (rq : Req) (s : State),
    Admitted opFaultAck rq s → rq.params.length = 0 → (!s.mode.latched.any fun f => s.mode.present.contains f) = true →
    exec (.faultAck rq) s = .next (completed opFaultAck rq s (fun _ => []) (fun s => s.onMode fun v => { v with latched := [] }))) ∧
  (∀ (rq : Req) (s : State),
    let t := fld (rq.p 0) 3 0
    Admitted opModeSet rq s → rq.params.length = 1 → rq.p 0 &&& ~~~0x0000000F#32 = 0#32 → 2 ≤ t ∧ t ≤ 4 → modeOfCode t = .forge ∨ bondAny s = false →
    modeOfCode t ≠ .temper ∨ 2 ≤ coresWorking s → (s.mode.mode = .kindle → s.boot.stage = .ready) → waiting opModeSet s = [] →
    modeOfCode t ≠ .temper ∨ inUse (bankAt s (actsAt s (if rq.cmt then some rq.commit else none))) ≤ limitIn .temper s →
    exec (.modeSet rq) s = .next (scheduled opModeSet rq s)) ∧
  (∀ (rq : Req) (s : State),
    Admitted opModeCfg rq s → rq.params.length = 1 → rq.p 0 &&& ~~~0x80FF0FFF#32 = 0#32 →
    1 ≤ fld (rq.p 0) 23 16 ∧ 1 ≤ fld (rq.p 0) 11 0 ∧ fld (rq.p 0) 11 0 ≤ 3600 →
    exec (.modeCfg rq) s = .next (scheduled opModeCfg rq s)) ∧
  (∀ (rq : Req) (s : State),
    Admitted opModeStatusRead rq s → rq.params.length = 0 →
    exec (.modeStatusRead rq) s = .next (completed opModeStatusRead rq s (fun s => modeStatusWords s) (fun s => s))) ∧
  (∀ (rq : Req) (s : State),
    let off := fld (rq.p 0) 20 0
    let ws := rq.params.drop 1
    Admitted opImageStage rq s → 2 ≤ rq.params.length → rq.params.length ≤ 4001 → rq.p 0 &&& ~~~0x801FFFFF#32 = 0#32 → off + ws.length ≤ 1575052 →
    exec (.imageStage rq) s = .next (completed opImageStage rq s (fun _ => []) (fun s => s.onBoot fun v => { v with staged := tsetMany 0#32 (if bit (rq.p 0) 31 then [] else v.staged) off ws, stagedAny := true }))) ∧
  (∀ (rq : Req) (s : State),
    Admitted opBootExec rq s → s.boot.rom = true → rq.params.length = 0 →
    exec (.bootExec rq) s = .next (answered opBootExec rq s (fun s =>
    let c := stagedCheck s
    if c.1 = 0 then .done (startImage 3 c.2 (stagedWord s) s) [] else .fail (bootFail c.1 s) { st := .badParam, detail := 0x8004 }))) ∧
  (∀ (rq : Req) (s : State),
    let b := bit (rq.p 0) 0
    Admitted opImageInstall rq s → rq.params.length = 1 → rq.p 0 &&& ~~~0x00000001#32 = 0#32 →
    exec (.imageInstall rq) s = .next (answered opImageInstall rq s (fun s =>
    let c := stagedCheck s
    if c.1 ≠ 0 then .fail (bootFail c.1 s) { st := .badParam, detail := 0x8004 }
    else if s.boot.source = 1 + flag b then .rej { st := .notPermitted, detail := 1 }
    else if s.boot.install.isSome then .rej { st := .busy, detail := 2 }
    else .wait (s.onBoot fun v => { v with install := some (b, v.staged, deferred opImageInstall rq s) })))) ∧
  (∀ (rq : Req) (s : State),
    let k := signerObj (rq.p 0)
    Admitted opSignerSlotProgram rq s → rq.mac.isSome = true → rq.params.length = 13 → rq.p 0 &&& ~~~0x00000003#32 = 0#32 → k < 3 →
    (tget {} s.boot.slots k).programmed = false →
    exec (.signerSlotProgram rq) s = .next (completed opSignerSlotProgram rq s (fun _ => []) (fun s => onSigner k (fun x => { x with hash := rq.params.drop 1, programmed := true }) s))) ∧
  (∀ (rq : Req) (s : State),
    let k := signerObj (rq.p 0)
    Admitted opSignerRevoke rq s → rq.mac.isSome = true → rq.params.length = 1 → rq.p 0 &&& ~~~0x00000003#32 = 0#32 → k < 3 → k ≠ s.boot.signer →
    exec (.signerRevoke rq) s = .next (completed opSignerRevoke rq s (fun _ => []) (fun s => onSigner k (fun x => { x with revoked := true }) s))) ∧
  (∀ (rq : Req) (s : State),
    Admitted opRollbackAdvance rq s → rq.mac.isSome = true → rq.params.length = 0 → s.boot.rollback = none → s.boot.runSvn.toNat ≤ s.boot.fuses →
    exec (.rollbackAdvance rq) s = .next (completed opRollbackAdvance rq s (fun s => [BitVec.ofNat 32 s.boot.fuses]) (fun s => s))) ∧
  (∀ (rq : Req) (s : State),
    Admitted opRollbackAdvance rq s → rq.mac.isSome = true → rq.params.length = 0 → s.boot.rollback = none → s.boot.fuses < s.boot.runSvn.toNat →
    exec (.rollbackAdvance rq) s = .next (runsOn rq s (fun s => s.onBoot fun v => { v with rollback := some (deferred opRollbackAdvance rq s) }))) ∧
  (∀ (rq : Req) (s : State),
    Admitted opSysRestart rq s → rq.params.length = 0 →
    exec (.sysRestart rq) s = .next (completed opSysRestart rq s (fun _ => []) (fun s => s.onBoot fun v => { v with restart := some s.stk.run }))) ∧
  (∀ (rq : Req) (s : State),
    Admitted opBootStatusRead rq s → rq.params.length = 0 →
    exec (.bootStatusRead rq) s = .next (completed opBootStatusRead rq s (fun s => bootStatusWords s) (fun s => s))) ∧
  (∀ (rq : Req) (s : State),
    Admitted opPkSet rq s → rq.params.length = 97 → rq.p 0 &&& ~~~0#32 = 0#32 →
    exec (.pkSet rq) s = .next (answered opPkSet rq s (fun s =>
    match oaepDecrypt identityModulus Config.rsaPrivate (rq.params.drop 1) with
    | none => .rej { st := .badParam, detail := 0x8005 }
    | some k => .done (s.onKeys fun v => { v with pk := some k }) []))) ∧
  (∀ (rq : Req) (s : State),
    let l := fld (rq.p 0) 9 8
    Admitted opAuthKeyLoad rq s → rq.params.length = (if l = 0 then 2 else 12) → rq.p 0 &&& ~~~0x00000307#32 = 0#32 → rq.p 1 &&& ~~~0x00000007#32 = 0#32 →
    fld (rq.p 1) 2 0 ≤ 4 → losesAdmin (fld (rq.p 0) 2 0) l s = false → s.sec.keFailed = false → s.sec.owner = 0 →
    exec (.authKeyLoad rq) s = .next (runsOn rq s (fun s => keyServiceTake (deferred opAuthKeyLoad rq s) s))) ∧
  (∀ (d : Deferred) (s : State),
    let a := fld (d.req.p 0) 2 0
    let l := fld (d.req.p 0) 9 8
    s.sec.seq = some d → s.sec.keFailed = false → d.opcode = opAuthKeyLoad.code → losesAdmin a l s = false →
    keySequenceEnd false s = (if l = 0 then replyDeferred d { st := .ok } [] ((keyRelease s).onKeys fun v => { v with ak := tset {} v.ak a {} })
    else match unwrapWords d.req (wrapKey s (fld (d.req.p 1) 2 0)) with
    | .ok key => replyDeferred d { st := .ok } [] ((keyRelease s).onKeys fun v => { v with ak := tset {} v.ak a { key := some key, level := l } })
    | .error r => replyDeferred d r [] (keyRelease s))) ∧
  (∀ (rq : Req) (s : State),
    Admitted opTkLoad rq s → rq.params.length = (if bit (rq.p 0) 8 then 2 else 12) → rq.p 0 &&& ~~~0x00000103#32 = 0#32 →
    rq.p 1 &&& ~~~0x00000007#32 = 0#32 → fld (rq.p 1) 2 0 ≤ 4 → s.sec.keFailed = false → s.sec.owner = 0 →
    exec (.tkLoad rq) s = .next (runsOn rq s (fun s => keyServiceTake (deferred opTkLoad rq s) s))) ∧
  (∀ (d : Deferred) (s : State),
    let t := fld (d.req.p 0) 1 0
    let w := fld (d.req.p 1) 2 0
    s.sec.seq = some d → s.sec.keFailed = false → d.opcode = opTkLoad.code →
    keySequenceEnd false s = (if bit (d.req.p 0) 8 then replyDeferred d { st := .ok } [] (setTk t none (keyRelease s))
    else match unwrapWords d.req (if w = t then none else wrapKey s w) with
    | .ok key => replyDeferred d { st := .ok } [] (setTk t (some key) (keyRelease s))
    | .error r => replyDeferred d r [] (keyRelease s))) ∧
  (∀ (rq : Req) (s : State),
    Admitted opKeySlotsRead rq s → rq.params.length = 0 →
    exec (.keySlotsRead rq) s = .next (completed opKeySlotsRead rq s (fun s => keySlotWords s) (fun s => s))) ∧
  (∀ (rq : Req) (s : State),
    Admitted opIdRead rq s → rq.params.length = 0 →
    exec (.idRead rq) s = .next (completed opIdRead rq s (fun s => uidWords s ++ (List.range 2165).map fun i => Config.identity (2 + i)) (fun s => s))) ∧
  (∀ (rq : Req) (s : State),
    Admitted opAttest rq s → rq.params.length = 8 →
    exec (.attest rq) s = .next (runsOn rq s (fun s => s.onStore fun v => { v with attest := v.attest ++ [deferred opAttest rq s] }))) ∧
  (∀ (rq : Req) (s : State),
    let f := fld (rq.p 0) 5 0
    let n := fld (rq.p 0) 13 8 + 1
    Admitted opFaultRead rq s → rq.params.length = 1 → rq.p 0 &&& ~~~0x00003F3F#32 = 0#32 → f + n ≤ 64 →
    exec (.faultRead rq) s = .next (completed opFaultRead rq s (fun s => (List.range n).flatMap fun i => faultEntryWords s (f + i)) (fun s => s))) ∧
  (∀ (rq : Req) (s : State),
    Admitted opFaultExport rq s → rq.params.length = 8 →
    exec (.faultExport rq) s = .next (completed opFaultExport rq s (fun s => signedReport (attestBody rq.params s ++ ((List.range 64).flatMap fun i => faultEntryWords s i) ++ retireWords s) s) (fun s => drawn s))) ∧
  (∀ (rq : Req) (s : State),
    Admitted opRetireRead rq s → rq.params.length = 0 →
    exec (.retireRead rq) s = .next (completed opRetireRead rq s (fun s => retireWords s) (fun s => s))) ∧
  (∀ (rq : Req) (s : State),
    Admitted opProfileRestore rq s → rq.params.length = 0 → (latestProfile s).isSome = true → kindleReady s = true →
    exec (.profileRestore rq) s = .next (scheduled opProfileRestore rq s)) ∧
  (∀ (rq : Req) (s : State),
    Admitted opStore rq s → slotCount s (targetB s) < 10000 → rq.params.length = 1 → rq.p 0 &&& ~~~0x00000001#32 = 0#32 → s.store.store = none →
    s.store.erase = none → s.sec.keFailed = false → s.sec.owner = 0 →
    exec (.store rq) s = .next (runsOn rq s (fun s =>
    (s.onStore fun v => { v with store := some { cmd := deferred opStore rq s, restoreAtBoot := bit (rq.p 0) 0, toB := targetB s } }).onSec
      fun v => { v with owner := 6, held := 0 }))) ∧
  (∀ (rq : Req) (s : State),
    Admitted opStoreStatusRead rq s → rq.params.length = 0 →
    exec (.storeStatusRead rq) s = .next (completed opStoreStatusRead rq s (fun s => storeStatusWords s) (fun s => s))) ∧
  (∀ (rq : Req) (s : State),
    Admitted opProfileErase rq s → rq.params.length = 0 → s.store.store = none → s.store.erase = none →
    exec (.profileErase rq) s = .next (runsOn rq s (fun s => s.onStore fun v => { v with erase := some (deferred opProfileErase rq s) })))

/-- When the counter and integrity commands execute normally, and what they then leave. -/
def Obligations.CounterCommandsComplete : Prop :=
  (∀ (rq : Req) (s : State),
    let n := fld (rq.p 0) 9 0
    let ids := (rq.params.drop 1).take n
    Admitted opEvcRead rq s → 1 ≤ rq.params.length → rq.params.length ≤ 513 → rq.p 0 &&& ~~~0x000003FF#32 = 0#32 → 1 ≤ n ∧ n ≤ 512 →
    rq.params.length = 1 + n → (∀ i < n, idOk (rq.p (1 + i)) = true) →
    exec (.evcRead rq) s = .next (answered opEvcRead rq s (fun s =>
    let t := [word [(hi16 s.stk.scnt, 0)], BitVec.ofNat 32 (lo32 s.stk.scnt)]
    let res := t ++ t ++ ids.flatMap (evcWords s)
    match ids.findIdx? fun w => s.ev.bad.contains w.toNat && !idAbsent s w with
    | some i => .slagged (zeroCounters ids s) res (4 + 2 * i)
    | none => .done s res))) ∧
  (∀ (rq : Req) (s : State),
    let n := fld (rq.p 0) 31 28
    let a := fld (rq.p 0) 15 0
    let k := fld (rq.p 1) 8 0
    Admitted opPmRead rq s → rq.params.length = 2 → rq.p 0 &&& ~~~0xF000FFFF#32 = 0#32 → n ≤ 6 → rq.p 1 &&& ~~~0x000001FF#32 = 0#32 → 1 ≤ k ∧ k ≤ 400 →
    exec (.pmRead rq) s = .next (answered opPmRead rq s (fun s =>
    let is := (List.range k).map (a + ·)
    let res := [s.pm.snapSeq, word [(s.pm.snapCause, 30), (hi16 s.pm.snapScnt, 0)], BitVec.ofNat 32 (lo32 s.pm.snapScnt)] ++ is.flatMap (pmBlock s n)
    let bad := fun i => s.pm.bad.contains (pmKey n i) && !pmAbsent s n i
    match is.findIdx? bad with
    | some j =>
      let ks := (is.filter bad).map (pmKey n)
      .slagged (s.onPm fun v => { v with bad := v.bad.filter fun x => !ks.contains x, snap := v.snap.filter fun x => !ks.contains x.1 }) res (3 + 9 * j)
    | none => .done s res))) ∧
  (∀ (rq : Req) (s : State),
    Admitted opPmSnap rq s → rq.params.length = 0 →
    exec (.pmSnap rq) s = .next (scheduled opPmSnap rq s)) ∧
  (∀ (rq : Req) (s : State),
    let c := fld (rq.p 0) 12 8
    let id := rq.p 2
    Admitted opWinCfg rq s → rq.params.length = 3 → rq.p 0 &&& ~~~0x00001F0F#32 = 0#32 → winCls c = true → rq.p 1 &&& ~~~0x8000FFFF#32 = 0#32 →
    1 ≤ fld (rq.p 1) 15 0 ∧ fld (rq.p 1) 15 0 ≤ 50000 → ((id = 0#32 && !bit (rq.p 1) 31) || (idOk id && decide (idCls id = c))) = true →
    exec (.winCfg rq) s = .next (scheduled opWinCfg rq s)) ∧
  (∀ (rq : Req) (s : State),
    let c := fld (rq.p 0) 12 8
    Admitted opWinRead rq s → rq.params.length = 1 → rq.p 0 &&& ~~~0x00001F00#32 = 0#32 → winCls c = true →
    exec (.winRead rq) s = .next (completed opWinRead rq s (fun s => (List.range 16).flatMap fun i => winWords s (16 * c + i)) (fun s => s))) ∧
  (∀ (rq : Req) (s : State),
    let c := fld (rq.p 0) 12 8
    let k := fld (rq.p 0) 7 0
    Admitted opEvtMaskWrite rq s → rq.params.length = 1 → rq.p 0 &&& ~~~0x80001FFF#32 = 0#32 → evAssigned c k = true ∧ evIntr c k = true →
    exec (.evtMaskWrite rq) s = .next (completed opEvtMaskWrite rq s (fun _ => []) (fun s => s.onEv fun v => { v with maskOff := setIf (!bit (rq.p 0) 31) v.maskOff (c * 256 + k) }))) ∧
  (∀ (rq : Req) (s : State),
    let c := fld (rq.p 0) 12 8
    Admitted opEvtMaskRead rq s → rq.params.length = 1 → rq.p 0 &&& ~~~0x00001F00#32 = 0#32 → winCls c = true →
    exec (.evtMaskRead rq) s = .next (completed opEvtMaskRead rq s (fun s => (List.range 8).map (maskWord s c)) (fun s => s))) ∧
  (∀ (rq : Req) (s : State),
    let n := fld (rq.p 0) 8 0
    Admitted opEvtPop rq s → rq.params.length = 1 → rq.p 0 &&& ~~~0x000001FF#32 = 0#32 → 1 ≤ n ∧ n ≤ 256 →
    exec (.evtPop rq) s = .next (completed opEvtPop rq s (fun s => (s.ev.log.take n).flatMap logWords) (fun s => s.onEv fun v => { v with log := v.log.drop n }))) ∧
  (∀ (rq : Req) (s : State),
    Admitted opIntegStatusRead rq s → rq.params.length = 0 →
    exec (.integStatusRead rq) s = .next (completed opIntegStatusRead rq s (fun s => integWords s ++ [s.integ.arb0, s.integ.arb1]) (fun s => s))) ∧
  (∀ (rq : Req) (s : State),
    Admitted opArbCfg rq s → rq.params.length = 2 → rq.p 1 &&& ~~~0x00FFFFFF#32 = 0#32 →
    exec (.arbCfg rq) s = .next (completed opArbCfg rq s (fun _ => []) (fun s => s.onInteg fun v => { v with arb0 := rq.p 0, arb1 := rq.p 1 })))

/-- When the pin events and resets and the fault events act, and what they then leave. -/
def Obligations.PinAndFaultEventsAct : Prop :=
  (∀ (ns : Nat) (s : State),
    s.pins.powered = true → 1000 ≤ ns →
    exec (.rstnLow ns) s = .next (resetState s)) ∧
  (∀ s : State,
    s.pins.powered = true → s.pins.rstnLow = true →
    exec .rstnRelease s = .next (((s.onPins fun v => { v with rstnLow := false, jtagForced := false }).onMode fun v => { v with mode := .kindle, origin := .kindle }).onCmd
      fun v => { v with pcieUp := !s.pins.perstLow })) ∧
  (∀ s : State,
    exec .perstNAssert s = .next (((flushAll [0, 1, 2, 3, 6, 7, 8, 9] s).onPins fun v => { v with perstLow := true }).onCmd
      fun v => { v with chan := [], intStatus := 0#32, intMask := 0#32, intPinEn := false, pcieUp := false })) ∧
  (∀ s : State,
    exec .perstNRelease s = .next ((s.onPins fun v => { v with perstLow := false }).onCmd fun v => { v with pcieUp := alive s })) ∧
  (∀ (mv : Nat) (s : State),
    s.pins.powered = true → mv < 1400 →
    exec (.powerLoss mv) s = .next ((resetState s).onPins fun v => { v with powered := false, jtagForced := false, jtag := .idcode, scan := [] })) ∧
  (∀ s : State,
    s.pins.powered = false →
    exec .powerUp s = .next ((resetState s).onPins fun v => { v with powered := true })) ∧
  (∀ (r : Nat) (s : State),
    s.boot.restart = some r → r < s.stk.run → s.stk.row = 0 →
    exec .sysRestartPulse s = .next (releaseReset (resetState s))) ∧
  (∀ (l : JtagLoad) (s : State),
    s.pins.powered = true → l.trstLow = false → jtagForces l.instr = false →
    exec (.jtagInstructionLoad l) s = .next (s.onPins fun v => { v with scan := scanned l v, jtag := l.instr })) ∧
  (∀ (l : JtagLoad) (s : State),
    alive s = true → l.trstLow = false → jtagForces l.instr = true →
    exec (.jtagInstructionLoad l) s = .next (enterQuench (s.onPins fun v => { v with scan := scanned l v, jtag := l.instr, jtagForced := true }))) ∧
  (∀ (l : JtagLoad) (s : State),
    s.pins.powered = true → l.trstLow = true →
    exec (.jtagInstructionLoad l) s = .next (s.onPins fun v => { v with jtag := .idcode })) ∧
  (∀ (rail : Rail) (uv rows : Nat) (s : State),
    alive s = true → railOut rail uv = true → 2 ≤ rows → s.mode.present.contains .railFault = false →
    exec (.railFault rail uv rows) s = .next (enterQuench ((faultRecord (16 + faultNum .railFault) 0 0 (note (faultEv .railFault) 0 1 s)).onMode fun v => { v with
      present := v.present ++ [.railFault], latched := if v.latched.contains .railFault then v.latched else v.latched ++ [.railFault] }))) ∧
  (∀ (rows : Nat) (s : State),
    alive s = true → 2 ≤ rows → s.mode.present.contains .pllUnlock = false →
    exec (.pllUnlock rows) s = .next (enterQuench ((faultRecord (16 + faultNum .pllUnlock) 0 0 (note (faultEv .pllUnlock) 0 1 s)).onMode fun v => { v with
      present := v.present ++ [.pllUnlock], latched := if v.latched.contains .pllUnlock then v.latched else v.latched ++ [.pllUnlock] }))) ∧
  (∀ (temp : Int) (rows : Nat) (s : State),
    alive s = true → 1150 ≤ temp → 2 ≤ rows →
    exec (.thermTrip temp rows) s = .next (declareFault .thermTrip (s.onMode fun v => { v with tj := BitVec.ofInt 16 temp, coolRun := 0 }))) ∧
  (∀ (temp : Int) (rows : Nat) (s : State),
    alive s = true → 1050 ≤ temp → 2 ≤ rows →
    exec (.thermWarn temp rows) s = .next (noteChange evModThermWarn 0 s.mode.thermWarn true
      (s.onMode fun v => { v with tj := BitVec.ofInt 16 temp, coolRun := 0, thermWarn := true }))) ∧
  (∀ s : State,
    250000 ≤ s.sec.reseedAge → s.sec.keFailed = false →
    exec .keFail s = .next (declareFault .keFail (s.onSec fun v => { v with keFailed := true }))) ∧
  (∀ (f : SevereFault) (strokes n : Nat) (s : State),
    faultClearAfter f = some n → s.mode.present.contains f = true → n ≤ strokes → f = .thermTrip → n ≤ s.mode.coolRun →
    exec (.severeFaultClear f strokes) s = .next (noteClear (faultEv f) 0 (s.onMode fun v => { v with present := del v.present f }))) ∧
  (∀ (pair : Fin 2) (s : State),
    alive s = true → s.mode.lockstep = true →
    exec (.lockstepMiscompare pair) s = .next (faultRecord 0x21 (2 * pair) 0 (s.onMode fun v => { v with
      miscompare := true, coreTest := ins (ins v.coreTest (2 * pair)) (2 * pair + 1) }))) ∧
  (∀ (core : Fin 4) (pass : Bool) (s : State),
    s.mode.coreTest.contains core.val = true → pass = true →
    exec (.coreSelfTestDone core pass) s = .next (s.onMode fun v => { v with coreTest := del v.coreTest core.val })) ∧
  (∀ (core : Fin 4) (pass : Bool) (s : State),
    s.mode.coreTest.contains core.val = true → pass = false → s.mode.coresLost.contains core.val = false →
    exec (.coreSelfTestDone core pass) s = .next (retireCore core (s.onMode fun v => { v with coreTest := del v.coreTest core.val }))) ∧
  (∀ (master : Fin 8) (inCmd : Bool) (s : State),
    alive s = true →
    exec (.busDecerr master inCmd) s = .next (if inCmd then (note evIntBusDecerr master 1 s).onMode fun v => { v with miscompare := true } else note evIntBusDecerr master 1 s)) ∧
  (∀ (requester : Nat) (inCmd : Bool) (s : State),
    500 ≤ tget 0 s.integ.hbmOwner requester →
    exec (.arbWdog requester inCmd) s = .next (failCommand inCmd (countCfi (note evIntArbWdog requester 1
      (s.onInteg fun v => { v with hbmOwner := v.hbmOwner.filter fun x => x.1 ≠ requester }))))) ∧
  (∀ s : State,
    alive s = true → s.integ.dbg = false →
    exec .debugPortAccess s = .next (note evIntDbgAccess 0 1 (s.onInteg fun v => { v with dbg := true }))) ∧
  (∀ (e : Fin 4) (dac : Bool) (lane : Fin 4) (slice : Fin 8) (s : State),
    alive s = true → enginePresent s e = true → sliceBeyond s e dac lane slice = true →
    exec (.sliceRetire e dac lane slice) s = .next (retireResource 1 e (flag (!dac) * 256 + lane * 16 + slice) s)) ∧
  (∀ s : State,
    depthsReached s = true →
    exec .depthSettled s = .next (s.onMode fun v => { v with depthSettled := true }))

/-- When the clock events and the row tick act, and what they then leave. -/
def Obligations.ClockEventsAct : Prop :=
  (∀ (t : Int) (s : State),
    fld s.stk.cfg0 3 0 < 4 → isFollower s = false →
    exec (.strkInEdge t) s = .next (s.onStk fun v => { v with strkIn := some (t + signed 32 s.stk.cfg1.toNat) })) ∧
  (∀ (c : Fin 24) (why : RefCause) (s : State),
    bit (refCfg s c) 0 = true → refAbsent s c = false → condHolds s c why = true →
    exec (.refFail c why) s = .next (failRef c (s.onClk fun v => { v with failWhy := tmod 0 v.failWhy c (fun m => m ||| 1 <<< (RefCause.num why)) }))) ∧
  (∀ (c : Fin 24) (s : State),
    s.clk.failed.contains c.val = true → tget 0 s.clk.failWhy c = 0 → tget 0 s.clk.okSince c + clkWtr s * 50000 < s.stk.run →
    exec (.refWtrClear c) s = .next (noteClear evStkRefFail c
      (s.onClk fun v => { v with failed := del v.failed c.val, okSince := tset 0 v.okSince c 0 }))) ∧
  (∀ s : State,
    s.clk.state = .acquiring → 5000 ≤ s.clk.lockRun →
    exec .clockLock s = .next (
      let a := enterClk .locked s
      a.onClk fun v => { v with lastQl := refQl a s.clk.selected })) ∧
  (∀ s : State,
    s.clk.state = .acquiring → 1500000 ≤ s.clk.acqRun →
    exec .acqTimeout s = .next (loseRef (note evStkAcqTimeout s.clk.selected 1 (s.onClk fun v =>
      { v with failed := ins v.failed s.clk.selected, okSince := tset 0 v.okSince s.clk.selected s.stk.run })))) ∧
  (∀ s : State,
    s.clk.state = .locked → 3000000 ≤ s.clk.lockedRun →
    exec .historyValid s = .next (s.onClk fun v => { v with histValid := true })) ∧
  (∀ s : State,
    s.clk.state = .holdover → holdoverLimit s * 50000 ≤ s.clk.holdRun →
    exec .holdoverExpired s = .next (note evStkHoldoverExpired 0 1 (enterClk .lost s))) ∧
  (∀ s : State,
    exec .lostListExpiry s = .next (s.onRoot fun v => { v with lostList := v.lostList.filter fun l => l.2 < 100 })) ∧
  (∀ s : State,
    s.root.aligned = false → 100 ≤ s.root.noAnn →
    exec .rootCandidateTimeout s = .next (s.onRoot fun v => { v with candidateByTimeout := true })) ∧
  (∀ (x : RowIn) (s : State),
    alive s = true → s.stk.row < 124 →
    exec (.rowTick x) s = .next (rowWork x ((clientTxIdle s).onStk fun v => { v with row := v.row + 1 })))

/-- When the events of the PCIe and SPI transports act, and what they then leave. -/
def Obligations.TransportEventsAct : Prop :=
  (∀ (ch : Fin 4) (v : W32) (s : State),
    pcieOn s = true →
    exec (.cmdTailDoorbell ch v) s = .next (onChan ch (fun h => { h with cmdTail := v }) s)) ∧
  (∀ (ch : Fin 4) (v : W32) (s : State),
    pcieOn s = true → (v = 0#32 ∨ (chanOf s ch).cmdSize = 0#32 ∧ ringSizeOk v = true) →
    exec (.cmdSizeWrite ch v) s = .next (onChan ch (fun h => { h with cmdSize := v, cmdHead := 0#32, cmdTail := 0#32 }) s)) ∧
  (∀ (ch : Fin 4) (v : W32) (s : State),
    pcieOn s = true → (v = 0#32 ∨ (chanOf s ch).rplSize = 0#32 ∧ ringSizeOk v = true) →
    exec (.rplSizeWrite ch v) s = .next (onChan ch (fun h => { h with rplSize := v, rplHead := 0#32, rplTail := 0#32 }) s)) ∧
  (∀ (ch : Fin 4) (v : W32) (s : State),
    pcieOn s = true →
    exec (.rplHeadWrite ch v) s = .next (levelEvent (6 + ch) (ringFill (chanOf s ch)) (ringFill (chanOf (onChan ch (fun h => { h with rplHead := v }) s) ch))
      (onChan ch (fun h => { h with rplHead := v }) s))) ∧
  (∀ (mask : BitVec 4) (s : State),
    pcieOn s = true →
    exec (.cmdFlush mask) s = .next (eachOf cmdFlush (bitList 4 mask.toNat) s)) ∧
  (∀ (mask : BitVec 4) (s : State),
    pcieOn s = true →
    exec (.rplFlush mask) s = .next (eachOf rplFlush (bitList 4 mask.toNat) s)) ∧
  (∀ (w : W32) (s : State),
    pcieOn s = true →
    exec (.intStatusW1c w) s = .next (s.onCmd fun v => { v with intStatus := v.intStatus &&& ~~~(w &&& 0x3FF#32) })) ∧
  (∀ (off : W12) (v : W32) (s : State),
    pcieOn s = true → off = 0x00C#12 →
    exec (.bar0RegisterWrite off v) s = .next (s.onCmd fun x => { x with intMask := v &&& 0xFFF#32 })) ∧
  (∀ (off : W12) (v : W32) (s : State),
    pcieOn s = true → off ≠ 0x004#12 → off ≠ 0x008#12 → off ≠ 0x00C#12 → (off.toNat < 0x100 ∨ 0x200 ≤ off.toNat) →
    exec (.bar0RegisterWrite off v) s = .next (s)) ∧
  (∀ (ch : Fin 4) (ws : List W32) (good : Bool) (cyc : CycleOf) (s : State),
    pcieOn s = true → (chanOf s ch).cmdSize ≠ 0#32 → (chanOf s ch).stopped = false → 3 ≤ ws.length → lengthOk ws = true → ws.length = lengthField ws →
    lengthField ws ≤ ringAvail (chanOf s ch) → qfill s ch + lengthField ws ≤ 8192 → 3 ≤ ringAvail (chanOf s ch) → good = true → crcOk ws = true →
    exec (.pciePacketFetch ch ws ⟨good, cyc⟩) s = .next (cqCommit cyc ch ws (advanceHead ch (lengthField ws) s))) ∧
  (∀ (ch : Fin 4) (head : Option W32) (p : List W32) (r : List (List W32)) (s : State),
    rqOf s ch = p :: r → pcieOn s = true → (ringAt ch head s).rplSize ≠ 0#32 →
    ringFill (ringAt ch head s) + p.length + 1 ≤ (ringAt ch head s).rplSize.toNat →
    exec (.replyRingWrite ⟨ch, head⟩) s = .next (
      let h := ringAt ch head s
      let s' := onChan ch (fun _ => { h with rplTail := BitVec.ofNat 32 ((h.rplTail.toNat + p.length) % h.rplSize.toNat), rplOut := p }) (rqPop ch s)
      levelEvent (6 + ch) (ringFill (chanOf s ch)) (ringFill (chanOf s' ch)) s')) ∧
  (∀ (ch : Fin 4) (v : W32) (head : Option W32) (s : State),
    rqOf s ch = [] → pcieOn s = true → head = some v →
    exec (.replyRingWrite ⟨ch, head⟩) s = .next (levelEvent (6 + ch) (ringFill (chanOf s ch)) (ringFill (chanOf (onChan ch (fun h => { h with rplHead := v }) s) ch))
      (onChan ch (fun h => { h with rplHead := v }) s))) ∧
  (∀ (bs : List Byte) (cyc : CycleOf) (s : State),
    spiOn s = true → 3 ≤ (wordsOfBytes bs).length → lengthOk (wordsOfBytes bs) = true → qfill s 4 + lengthField (wordsOfBytes bs) ≤ 8192 →
    lengthField (wordsOfBytes bs) ≤ (wordsOfBytes bs).length → crcOk ((wordsOfBytes bs).take (lengthField (wordsOfBytes bs))) = true →
    exec (.pktWrite ⟨bs, cyc⟩) s = .next (cqCommit cyc 4 ((wordsOfBytes bs).take (lengthField (wordsOfBytes bs))) s)) ∧
  (∀ (clocked : Nat) (s : State),
    spiOn s = true → rqOf s 4 = [] →
    exec (.rplRead clocked) s = .next (s.onCmd fun v => { v with spiOut := [0#32] })) ∧
  (∀ (clocked : Nat) (p : List W32) (r : List (List W32)) (s : State),
    spiOn s = true → rqOf s 4 = p :: r → 4 * p.length ≤ clocked →
    exec (.rplRead clocked) s = .next ((rqPop 4 s).onCmd fun v => { v with spiOut := p })) ∧
  (∀ s : State,
    spiOn s = true →
    exec .statusRead s = .next (s.onCmd fun v => { v with spiOut := [word [(8192 - qfill s 4, 16), (qfill s 10, 0)]] })) ∧
  (∀ (b : Byte) (s : State),
    spiOn s = true →
    exec (.flush b) s = .next (if b.getLsbD 1 then flushQueue 10 (if b.getLsbD 0 then flushQueue 4 s else s) else if b.getLsbD 0 then flushQueue 4 s else s)) ∧
  (∀ (b : Byte) (s : State),
    spiOn s = true → (b = 0#8 ∨ 5 ≤ b.toNat) →
    exec (.spiBad b) s = .next (note evCmdSpiBad 0 1 s))

/-- When the events that end a running command or a forwarding record act, and what they then leave. -/
def Obligations.CompletionEventsAct : Prop :=
  (∀ (ws : List W32) (l : List (List W32)) (r : FwdRec) (s : State),
    s.cmd.fabRpl = ws :: l → s.cmd.fwd.find? (matchesReply ws) = some r → recBroadcast r = false → rqRoom (r.queue + 6) ws.length s = true →
    exec (.fabricReplyRx ws) s = .next (rqPush (r.queue + 6) ws (s.onCmd fun v => { v with fabRpl := l, fwd := v.fwd.erase r }))) ∧
  (∀ s : State,
    exec .fwdTimeout s = .next (expireRecs (s.cmd.fwd.filter (recExpired s)) (s.onCmd fun v => { v with fwd := v.fwd.filter fun r => !recExpired s r }))) ∧
  (∀ (d : Deferred) (s : State),
    s.anvil.sync = some d → backDiffers (shadowTable s) 0 524288 s = false →
    exec .mapSyncDone s = .next (replyDeferred d { st := .ok } [] ((cleanWords (shadowTable s) 0 524288 s).onAnvil fun v =>
      if v.activeB then { v with bankA := v.bankB, goldA := v.bankB, shadow := .synced, sync := none }
      else { v with bankB := v.bankA, goldB := v.bankA, shadow := .synced, sync := none }))) ∧
  (∀ (d : Deferred) (s : State),
    s.grm.sync = some d → backDiffers (6 + pendBank s) 0 1114112 s = false → backDiffers (8 + pendBank s) 0 256 s = false →
    exec .ruleSyncDone s = .next (replyDeferred d { st := .ok } [] ((cleanWords (8 + pendBank s) 0 256 (cleanWords (6 + pendBank s) 0 1114112 s)).onGrm fun v => { v with
      prog := copyBank 256 (pendBank s) v.prog, goldProg := copyBank 256 (pendBank s) v.prog
      rules := copyBank 65536 (pendBank s) v.rules, goldRules := copyBank 65536 (pendBank s) v.rules, pend := .synced, sync := none }))) ∧
  (∀ (m : Fin 4) (r : I2cResult) (d : Deferred) (s : State),
    (i2cOf s m).xfer = some d →
    exec (.i2cXferDone m r) s = .next (
      let e := i2cOutcome (i2cOf s m) d.req r
      replyDeferred d { st := .ok } (i2cWords (d.req.p 1) e)
        (note evOptI2cFail m (flag (decide (e.xstat ≠ 0))) (onI2c m (fun i => { i with xfer := none, abort := false, sent := e.sent }) s)))) ∧
  (∀ (d : Deferred) (r : List Deferred) (s : State),
    s.store.attest = d :: r →
    exec .attestDone s = .next (replyDeferred d { st := .ok } (signedReport (attestBody d.req.params s) s) (drawn (s.onStore fun v => { v with attest := r })))) ∧
  (∀ (r : StoreRun) (p : Profile) (s : State),
    s.store.store = some r → r.content = some p → r.wrapped = true →
    exec .storeDone s = .next (replyDeferred r.cmd { st := .ok } [] (putProfile r.toB (some { p with seq := latestSeq s + 1#32 }) (s.onStore fun v => { v with store := none })))) ∧
  (∀ (d : Deferred) (s : State),
    s.store.erase = some d →
    exec .profileEraseDone s = .next (replyDeferred d { st := .ok } [] ((putProfile true none (putProfile false none (s.onStore fun v => { v with erase := none }))).onKeys
      fun v => { v with ak := [], tk := [], pk := none }))) ∧
  (∀ (b : Bool) (img : List (Nat × W32)) (d : Deferred) (s : State),
    s.boot.install = some (b, img, d) →
    exec .imageInstallDone s = .next (replyDeferred d { st := .ok } [] (s.onBoot fun v =>
      if b then { v with install := none, flashB := flashImage img } else { v with install := none, flashA := flashImage img }))) ∧
  (∀ (d : Deferred) (s : State),
    s.boot.rollback = some d →
    exec .rollbackAdvanceDone s = .next (replyDeferred d { st := .ok } [BitVec.ofNat 32 s.boot.runSvn.toNat] (s.onBoot fun v => { v with rollback := none, fuses := v.runSvn.toNat }))) ∧
  (∀ (w : KeyWait) (r : List KeyWait) (s : State),
    s.sec.wait = w :: r → s.sec.owner = 0 → s.sec.keFailed = false →
    exec .keyLockGrant s = .next (if w.cmd.opcode = opStore.code then s.onSec fun v => { v with wait := r, owner := 6, held := 0 }
      else s.onSec fun v => { v with wait := r, owner := 7, held := 0, seq := some w.cmd })) ∧
  (∀ (w : KeyWait) (s : State),
    s.sec.wait = [w] → w.since + 5000 ≤ s.stk.run →
    exec .keyLockWaitExpiry s = .next (replyDeferred w.cmd { st := .busy, detail := 2 } [] (storeEnds w.cmd (s.onSec fun v => { v with wait := [] })))) ∧
  (∀ (d : Deferred) (s : State),
    s.sec.owner ≠ 0 → 500 < s.sec.held → s.sec.seq = some d →
    exec .keyLockTimeout s = .next (internalReply d (storeEnds d (note evKeKeyLockTimeout 0 1 (keyRelease s))))) ∧
  (∀ (r : StoreRun) (s : State),
    s.sec.owner ≠ 0 → 500 < s.sec.held → s.sec.seq = none → s.store.store = some r →
    exec .keyLockTimeout s = .next (internalReply r.cmd (storeEnds r.cmd (note evKeKeyLockTimeout 0 1 (keyRelease s)))))

/-- When the protection events and received container frames act, and what they then leave. -/
def Obligations.ProtectionEventsAct : Prop :=
  (∀ (sink : SinkKind) (n rho : Nat) (s : State),
    exec (.containerFrameRx sink n rho) s = .next (match sink with
      | .cont => contFrame n rho s
      | .working => monFrame n false rho s
      | .protect => monFrame n true rho s)) ∧
  (∀ (g : Nat) (copy : Bool) (s : State),
    pgEn (pgCfgOf s g) = true → copy = true →
    exec (.pgHoldoffExpiry g copy) s = .next (
      let due := fun since : Option Nat => match since with | some t => decide (t + holdStrokes (pgCfgOf s g) ≤ s.stk.run) | none => false
      onMon g true (fun m => { m with sf := m.sf || (m.sfRaw && due m.sfSince), sd := m.sd || (m.sdRaw && due m.sdSince) }) s)) ∧
  (∀ (g k : Nat) (s : State),
    (groupOf s g).wtr = some k → pgWtr (pgCfgOf s g) * 3000000 ≤ k →
    exec (.pgWtrExpiry g) s = .next (onGroup g (fun x => { x with wtrDone := true }) s)) ∧
  (∀ (g t : Nat) (s : State),
    (groupOf s g).fopPmSince = some t → pgEn (pgCfgOf s g) = true → t + 2500 ≤ s.stk.run →
    exec (.dfopPm g) s = .next (setFopPm g true s)) ∧
  (∀ (g t : Nat) (s : State),
    (groupOf s g).fopNrSince = some t → pgEn (pgCfgOf s g) = true → pgBidir (pgCfgOf s g) = true → t + 2500 ≤ s.stk.run →
    exec (.dfopNr g) s = .next (setFopNr g true s))

/-- When the fabric events act, and what they then leave. -/
def Obligations.FabricEventsAct : Prop :=
  (∀ (p : Fin 12) (row : LinkRow) (s : State),
    (portOf s p).state = .down →
    exec (.fabLinkRowRx p row) s = .next (resendLanes p row (List.range 8) s)) ∧
  (∀ (p : Fin 12) (row : LinkRow) (s : State),
    (portOf s p).state = .train → row.missing = false → (portOf s p).tr.seen = true → rxChoose (resendLanes p row (List.range 8) s) p ≠ [] →
    exec (.fabLinkRowRx p row) s = .next (
      let a := resendLanes p row (List.range 8) s
      onPort p (fun x => { x with state := .hunt, huntRun := 0, validRun := 0, lastRow := none, rxUse := rxChoose a p, lanes6Rx := decide ((rxChoose a p).length = 6) }) a)) ∧
  (∀ (p : Fin 12) (row : LinkRow) (s : State),
    (portOf s p).state = .hunt →
    exec (.fabLinkRowRx p row) s = .next (
      let a := resendLanes p row (List.range 8) s
      huntRow p (rowOfLanes a p row) (fecCount p (rowOfLanes a p row) a))) ∧
  (∀ (p : Fin 12) (row : LinkRow) (s : State),
    portSynced s p = true →
    exec (.fabLinkRowRx p row) s = .next (
      let a := resendLanes p row (List.range 8) s
      syncRow p (rowOfLanes a p row) (fecCount p (rowOfLanes a p row) a))) ∧
  (∀ (p : Fin 12) (s : State),
    (portOf s p).state = .hunt → 2501 ≤ (portOf s p).huntRun →
    exec (.fabHuntTimeout p) s = .next (enterTrain p s)) ∧
  (∀ (p : Fin 12) (e : List W32) (r : List (List W32)) (s : State),
    ((portOf (ctlPurge p s) p).state = .hunt ∨ portSynced (ctlPurge p s) p = true) → (portOf (ctlPurge p s) p).ccOut.length < 19 →
    (portOf (ctlPurge p s) p).q0 = e :: r →
    exec (.envelopeTransmit p) s = .next (onPort p (fun x => { x with q0 := r, wire := x.wire ++ [e], ccOut := x.ccOut ++ envStream e }) (ctlPurge p s))) ∧
  (∀ (p : Fin 12) (ws : List W32) (a : State) (s : State),
    takeEnvelope p 1 ws s = some a → portSynced a p = true → (envBody ws).length = 6 → fld ((envBody ws).getD 0 0#32) 31 28 = 1 →
    exec (.helloRx p ws) s = .next (helloTake p (envBody ws) a)) ∧
  (∀ (p : Fin 12) (s : State),
    portSynced s p = true → ((s.stk.row = 0 ∧ scnt s % 1000 = 0) ∨ (portOf s p).helloSync = true) →
    exec (.helloSend p) s = .next (
      let s' := onPort p (fun x => { x with helloSeq := x.helloSeq + 1#16, helloSync := false, helloDue := false }) s
      enqueue true p (envelope 1 0 s'.fab.nodeAddr.toNat 0 (helloBody s' p)) s')) ∧
  (∀ (p : Fin 12) (s : State),
    portSynced s p = true → (s.stk.row ≠ 0 ∨ scnt s % 1000 ≠ 0) → (portOf s p).helloSync = false → (portOf s p).helloDue = true →
    50 ≤ (portOf s p).helloGap →
    exec (.helloSend p) s = .next (
      let s' := onPort p (fun x => { x with helloSeq := x.helloSeq + 1#16, helloSync := false, helloDue := false, helloGap := 0 }) s
      enqueue true p (envelope 1 0 s'.fab.nodeAddr.toNat 0 (helloBody s' p)) s')) ∧
  (∀ (p : Fin 12) (s : State),
    (portOf s p).adj ≠ .none → 3000 ≤ (portOf s p).helloAge →
    exec (.helloLoss p) s = .next (note evFabHelloLoss p 1 (adjDrop p .none (onPort p (fun x => { x with helloLost := true }) s)))) ∧
  (∀ (p : Fin 12) (ws : List W32) (a : State) (l : Lsp) (s : State),
    takeEnvelope p 2 ws s = some a → (ctlPorts a).contains p.val = true → lspRead (envBody ws) = some l →
    exec (.lspRx p ws) s = .next (lspTake p (envOrigin ws) l a)) ∧
  (∀ s : State,
    s.stk.row = 0 → s.fab.lspDue = true → s.fab.lsdb.length < 2048 →
    exec .lspOriginate s = .next (
      let s' := s.onFab fun v => { v with lseq := if v.lseq = 0xFFFFFFFF#32 then 1#32 else v.lseq + 1#32, lspDue := false, lspAge := 0, routesDue := true, lspLast := ownLsp s }
      let t := s'.onFab fun v => { v with lsdb := lspPut (ownLsp s') v.lsdb }
      enqueueAll true (lspEnvelope t.fab.nodeAddr.toNat (ownLsp s')) (ctlPorts t) t)) ∧
  (∀ s : State,
    (∃ l ∈ s.fab.lsdb, l.uid ≠ s.fused.uid ∧ 150000 ≤ l.age) →
    exec .lspAgeing s = .next (s.onFab fun v => { v with
      lsdb := v.lsdb.filter (fun l => l.uid = s.fused.uid || decide (l.age < 150000)), routesDue := true })) ∧
  (∀ s : State,
    s.fab.routesDue = true →
    exec .routeRecompute s = .next (s.onFab fun v => { v with routesNew := some (routeTable s), routesDue := false })) ∧
  (∀ (t : Nat) (s : State),
    s.fab.waitSince = some t → addrMode s = true → s.fab.exchanged = true →
    exec .addrWaitEnd s = .next (chooseAddr s)) ∧
  (∀ s : State,
    s.fab.addrState = .tentative → 5000 ≤ s.fab.claimRun →
    exec .addrClaimed s = .next (helloChange (s.onFab fun v => { v with addrState := .claimed, nextAddr := some v.tentAddr, tentAddr := 0#12, lspPend := true }))) ∧
  (∀ (p : Fin 12) (ws : List W32) (a : State) (s : State),
    takeEnvelope p 3 ws s = some a → (ctlPorts a).contains p.val = true →
    exec (.polastEnvelopeRx p ws) s = .next (polastTake p ws a)) ∧
  (∀ s : State,
    exec .broadcastRecordExpiry s = .next (s.onFab fun v => { v with bc := v.bc.filter fun r => decide (r.age < 2500) })) ∧
  (∀ (p : Fin 12) (ws : List W32) (a : State) (s : State),
    takeEnvelope p 4 ws s = some a → portUp a p = true → twoWay a p = true →
    (fld ((envBody ws).getD 0 0#32) 31 30 = 1 ∨ fld ((envBody ws).getD 0 0#32) 31 30 = 2) → rawOpcode ((envBody ws).drop 1) = opFabPathSet.code →
    lengthOk ((envBody ws).drop 1) = true → crcOk ((envBody ws).drop 1) = true →
    exec (.pathHopRx p ws) s = .next (pathHop p (fld ((envBody ws).getD 0 0#32) 31 30) (fld ((envBody ws).getD 0 0#32) 2 0) (envHops ws) (envOrigin ws) ((envBody ws).drop 1) a))

/-- When the line events act, and what they then leave. -/
def Obligations.LineEventsAct : Prop :=
  (∀ (e : Fin 4) (s : State),
    (txEng s e).state = .laserWait → s.stk.row = 0 → lcLaserWait (txEng s e).cfg ≤ (txEng s e).wait →
    exec (.txLaserWaitEnd e) s = .next (engineRow e (onTxEng e (fun x => { x with state := .rampUp, j := 0, m := rampRows x.cfg }) (streamBegin e s)))) ∧
  (∀ (e : Fin 4) (s : State),
    s.stk.row = 0 → (txEng s e).m ≤ (txEng s e).j → (txEng s e).state = .rampUp →
    exec (.txRampDone e) s = .next (note evLinTxRampDone e 1 (onTxEng e (fun x => { x with state := .on }) s))) ∧
  (∀ (e : Fin 4) (s : State),
    s.stk.row = 0 → (txEng s e).m ≤ (txEng s e).j → (txEng s e).state = .rampDown →
    exec (.txRampDone e) s = .next (
      engineRow e (onTxEng e (fun x => { x with past := [], sent := [], symPos := x.symAt, sfc := x.sfcAt }) (note evLinTxRampDone e 1 (onTxEng e (fun x => { x with state := .dark }) s))))) ∧
  (∀ (e : Fin 4) (loop i : Nat) (s : State),
    loop ≤ 8 → i ∈ loopIdx loop → 100 ≤ tget 0 (txEng s e).calLim i → (txEng s e).calLimDecl.contains loop = false →
    exec (.calLimit e loop) s = .next (note evLinCalLimit e 1 (onTxEng e (fun x => { x with calLimDecl := ins x.calLimDecl loop }) s))) ∧
  (∀ (e : Fin 4) (lanes : List Nat) (rows : Nat) (s : State),
    startCal s = false → enginePresent s e = true → (rxEng s e).state ≠ .off → (rxEng s e).los = false → lanes.length = 4 →
    (lanes.all fun v => decide (v < rcLosThr (rxEng s e).cfg)) = true → 2 ≤ rows →
    exec (.drxlos e lanes rows) s = .next (rxEnter .nosig e (rxLos e true s))) ∧
  (∀ (e : Fin 4) (lanes : List Nat) (rows : Nat) (s : State),
    startCal s = false → (rxEng s e).state = .nosig → (rxEng s e).los = true → (lanes.any fun v => decide (rcLosThr (rxEng s e).cfg ≤ v)) = true →
    125 ≤ rows →
    exec (.drxlosClear e lanes rows) s = .next (rxLeaveNosig e (rxLos e false s))) ∧
  (∀ (e : Fin 4) (tones : List Nat) (s : State),
    (rxEng s e).state = .scan → superframes s e (2 * (scanResult (rxEng s e).cfg tones).2) ≤ (rxEng s e).scanSym + rowGain s e →
    exec (.cdScanDone e tones) s = .next (rxEnter .hunt e (onRxEng e (fun x => { x with cd := (scanResult (rxEng s e).cfg tones).1 / 10 }) s))) ∧
  (∀ (e : Fin 4) (pk : Peak) (s : State),
    startCal s = false → (rxEng s e).state = .hunt → (peakView (rxEng s e).afc pk.wave).largest = true →
    reaches (peakView (rxEng s e).afc pk.wave).pfr (rcHuntThr (rxEng s e).cfg) 2 = true →
    freqWithin s e (peakView (rxEng s e).afc pk.wave).df 4000000 = true →
    exec (.headerCandidate e pk) s = .next (
      let v := peakView (rxEng s e).afc pk.wave
      let a := onRxEng e (fun x => { x with afc := v.df }) s
      takeCand (candOf e pk v) e (onRxEng e (fun x => { agcStep e 0 pk.level x with runner := none }) a))) ∧
  (∀ (e : Fin 4) (hw : HeaderWindow) (k : Cand) (s : State),
    startCal s = false → (rxEng s e).state = .verify → (rxEng s e).cand = some k →
    exec (.headerWindowEnd e hw) s = .next (verifyWindow e k hw s)) ∧
  (∀ (e : Fin 4) (hw : HeaderWindow) (k : Cand) (s : State),
    startCal s = false → (rxEng s e).state = .locked → (rxEng s e).cand = some k →
    exec (.headerWindowEnd e hw) s = .next (lockedWindow e k hw s)) ∧
  (∀ (e : Fin 4) (s : State),
    (rxEng s e).state = .hunt → superframes s e (rcHuntTimeout (rxEng s e).cfg) ≤ (rxEng s e).huntSym + rowGain s e →
    exec (.huntTimeout e) s = .next (
      let a := note evLinHuntTimeout e 1 s
      if rcCdMode (rxEng a e).cfg then rxScan e a
      else onRxEng e (fun x => { x with huntSym := (rxEng s e).huntSym - superframes s e (rcHuntTimeout (rxEng s e).cfg) }) a)) ∧
  (∀ (e : Fin 4) (s : State),
    (rxEng s e).state = .verify → superframes s e (rcHuntTimeout (rxEng s e).cfg) ≤ (rxEng s e).huntSym + rowGain s e →
    exec (.huntTimeout e) s = .next (onRxEng e (fun x => { x with huntHeld := true }) s)) ∧
  (∀ (e : Fin 4) (s : State),
    (rxEng s e).state = .locked → 100 ≤ (rxEng s e).cdLimRun → (rxEng s e).cdLimit = false →
    exec (.cdTrackLimit e) s = .next (note evLinCdTrackLimit e 1 (onRxEng e (fun x => { x with cdLimit := true }) s)))

/-- When the FEC and overhead events and the lane events act, and what they then leave. -/
def Obligations.OverheadAndLaneEventsAct : Prop :=
  (∀ (e : Fin 4) (cw : CodewordIn) (s : State),
    enginePresent s e = true → (rxEng s e).state = .locked → (otnOf s e).cwLock = true → cw.phase = (otnOf s e).cwPhase → cw.iter ≤ cwLimit s e cw.began →
    exec (.codewordDecode e cw) s = .next (cwCount e cw (decodeCodeword (lcFormat (rxRule s e)) (lcEntropy (rxRule s e)) cw) s)) ∧
  (∀ (e : Fin 4) (cw : CodewordIn) (s : State),
    enginePresent s e = true → (rxEng s e).state = .locked → (otnOf s e).cwLock = false → cw.iter ≤ cwLimit s e cw.began →
    exec (.codewordDecode e cw) s = .next (cwTestStep e cw.phase (decodeCodeword (lcFormat (rxRule s e)) (lcEntropy (rxRule s e)) cw).good s)) ∧
  (∀ (id : OtnId) (opu : List (List Byte)) (e : Fin 4) (s : State),
    id = .line e → enginePresent s e = true → txSending (txEng s e) = true → (txEng s e).bits.length < 122368 * txRate s e →
    exec (.otucFrameTx id opu) s = .next (
      let r := sendSlices id opu (List.range (txRate s e)) s
      onTxEng e (fun x => { x with bits := x.bits ++ bitsOfBytes (otucStream r.2) }) (onOtnId id (fun x => { x with txFrame := r.2, txMfas := x.txMfas + 1#8 }) r.1))) ∧
  (∀ (id : OtnId) (fr : OtucFrame) (p : Fin 48) (i : Fin 16) (s : State),
    id = .flexo p i → otnStream s id = true → (otnSt s id).inFrame = true →
    exec (.otucFrameRx id fr) s = .next (otnFrame id fr.slices s)) ∧
  (∀ (id : OtnId) (fr : OtucFrame) (p : Fin 48) (i : Fin 16) (s : State),
    id = .flexo p i → otnStream s id = true → (otnSt s id).inFrame = false →
    exec (.otucFrameRx id fr) s = .next (huntFrames id fr.hits s)) ∧
  (∀ (id : OtnId) (fr : OtucFrame) (e : Fin 4) (s : State),
    id = .line e → otnStream s id = true → (otnOf s e).inFrame = true → frameBits (rxRate s e) ≤ (otnOf s e).rxBits.length →
    exec (.otucFrameRx id fr) s = .next (
      otnFrame id (unround (rxRate s e) (markedBytes (15296 * rxRate s e) ((otnOf s e).rxBits.take (frameBits (rxRate s e)))))
        (onOtnE e (dropBits (frameBits (rxRate s e))) s))) ∧
  (∀ (id : OtnId) (fr : OtucFrame) (e : Fin 4) (s : State),
    id = .line e → otnStream s id = true → (otnOf s e).inFrame = false → frameBits (rxRate s e) + 55 ≤ (otnOf s e).rxBits.length →
    exec (.otucFrameRx id fr) s = .next (
      let hits := fasHits (frameBits (rxRate s e)) 0 ((otnOf s e).rxBits.map Prod.fst)
      let won := (huntCands hits (otnOf s e).fasCands).find? fun c => 3 ≤ c.hits && 2 ≤ c.adv
      onOtnE e (dropBits (frameBits (rxRate s e) + (match won with | some c => c.off | none => 0))) (huntFrames id hits s))) ∧
  (∀ (id : OtnId) (s : State),
    otnEnabled s id = true → (otnSt s id).inFrame = false → 18750 + (otnSt s id).oofRow ≤ 125 * (otnSt s id).oofRun + s.stk.row →
    exec (.dlof id) s = .next (idDefect id .lof true s)) ∧
  (∀ (id : OtnId) (s : State),
    otnEnabled s id = true → (otnSt s id).inMf = false → 18750 + (otnSt s id).oomRow ≤ 125 * (otnSt s id).oomRun + s.stk.row →
    exec (.dlom id) s = .next (idDefect id .lom true s)) ∧
  (∀ (e : Fin 4) (slice : Nat) (s : State),
    otnStream s (.line e) = true → (otnOf s e).inFrame = true → slice < rxRate s e → (sliceOf (otnOf s e) slice).sync = true →
    (sliceOf (otnOf s e) slice).resync = 0 → 2080 ≤ (sliceOf (otnOf s e) slice).rx.length → rhecOk ((sliceOf (otnOf s e) slice).rx.take 2080) = true →
    rbFollows 0 (sliceOf (otnOf s e) slice).last ((sliceOf (otnOf s e) slice).rx.take 2080) = true →
    exec (.rowBlockRx e slice) s = .next (
      onSlice (.line e) slice (rbQueue (rbRow ((sliceOf (otnOf s e) slice).rx.take 2080)) ((sliceOf (otnOf s e) slice).rx.take 2080)) s)) ∧
  (∀ (lane : Nat) (s : State),
    laneValid lane = true →
    exec (.dllos lane) s = .next (laneSourceLost lane (noteChange evLaneDLlos lane (laneOf s lane).los true
      (onLane lane (fun x => { x with los := true, goodRows := 0, rxReady := false }) s)))) ∧
  (∀ (p : TrainPort) (ws : List W32) (s : State),
    nearLane s p = none → training s p = true → trainFrameOk ws = true →
    exec (.trainingFrameRx p ws) s = .next (
      let a := onTr p (fun x => { x with
        seen := true, got := true, rxSet := BitVec.ofNat 8 (fld (ws.getD 2 0#32) 23 16), txSet := BitVec.ofNat 8 (fld (ws.getD 2 0#32) 15 8)
        ready := BitVec.ofNat 8 (bitsOf ((List.range 8).filter fun k => (laneField ws k).testBit 9)) }) s
      let b := eachLane (trainLane (trBase p) ws) (List.range (trLanes a p)) a
      onTr p (fun x => { x with readyRun := if trReady b p then x.readyRun + 1 else 0 }) b)) ∧
  (∀ (p : TrainPort) (ws : List W32) (k : Nat) (s : State),
    nearLane s p = some k → training s p = true → trainFrameOk (trainWords s p k) = true →
    exec (.trainingFrameRx p ws) s = .next (
      let w := trainWords s p k
      let a := onTr p (fun x => { x with
        seen := true, got := true, rxSet := BitVec.ofNat 8 (fld (w.getD 2 0#32) 23 16), txSet := BitVec.ofNat 8 (fld (w.getD 2 0#32) 15 8)
        ready := BitVec.ofNat 8 (bitsOf ((List.range 8).filter fun k => (laneField w k).testBit 9)) }) s
      let b := eachLane (trainLane (trBase p) w) (List.range (trLanes a p)) a
      onTr p (fun x => { x with readyRun := if trReady b p then x.readyRun + 1 else 0 }) b)) ∧
  (∀ (p : Fin 12) (s : State),
    (portOf s p).state = .train → 2500 ≤ (portOf s p).tr.run → (portOf s p).tr.got = false →
    exec (.trainTimeout p) s = .next (onPort p (fun x => { x with tr := { x.tr with run := 0, got := false } }) s)) ∧
  (∀ (lane : Nat) (pass : Bool) (n : Nat) (s : State),
    (laneOf s lane).test = some n → 50 ≤ n →
    exec (.laneTestEnd lane pass) s = .next (
      let s' := onLane lane (fun x => { x with
        test := none, loopPend := none, extFail := pass
        cfg1 := match x.loopPend with | some l => (x.cfg1 &&& 0x3FFFFFFF#32) ||| BitVec.ofNat 32 (l <<< 30) | none => x.cfg1 }) s
      if pass then note evLaneLaneExtFail lane 1 s' else note evLaneLaneRetired lane 1 (retireResource 3 ((lane - 64) / 8) ((lane - 64) % 8) s'))) ∧
  (∀ (p : Nat) (lost : Bool) (s : State),
    p < 48 → cpEn (cliPort s p) = true → cpFlexo (cliPort s p) = false →
    exec (.dloa p lost) s = .next (noteChange evCliDLoa p (cliSt s p).loa lost (onCliPort p (fun x => { x with loa := lost }) s)))

/-- When the grooming events act, and what they then leave. -/
def Obligations.GroomingEventsAct : Prop :=
  (∀ (p : Nat) (bs : List SByte) (bad : Bool) (s : State),
    groomedPort s p = true → portNear s p = false → inQuench s = false → bad = false → (cliSt s p).hiSer = false → (bs.any Prod.snd) = false →
    (bs.map Prod.fst).length ≤ 9600 → fcsOk (bs.map Prod.fst) = true → bytesIn (inqOf s p) + (bs.map Prod.fst).length ≤ 262144 →
    exec (.clientFrameRx p bs bad) s = .next (
      grmLevel p (grmBytes s p) (grmBytes s p + (bs.map Prod.fst).length) (note evCliRxBytes p (bs.map Prod.fst).length (note evCliRxFrames p 1
        (s.onGrm fun v => { v with inq := tset [] v.inq p (inqOf s p ++ [bs.map Prod.fst]) }))))) ∧
  (∀ (p : Nat) (bs : List SByte) (bad : Bool) (s : State),
    groomedPort s p = true → portNear s p = true → inQuench s = false → (cliSt s p).hiSer = false → (cliSt s p).txFrame ≠ [] →
    (cliSt s p).txFrame.length ≤ 9600 → fcsOk (cliSt s p).txFrame = true → bytesIn (inqOf s p) + (cliSt s p).txFrame.length ≤ 262144 →
    exec (.clientFrameRx p bs bad) s = .next (
      let f := (cliSt s p).txFrame
      grmLevel p (grmBytes s p) (grmBytes s p + f.length) (note evCliRxBytes p f.length (note evCliRxFrames p 1
        (s.onGrm fun v => { v with inq := tset [] v.inq p (inqOf s p ++ [f]) }))))) ∧
  (∀ (p c : Nat) (f : List Byte) (r : List (List Byte)) (s : State),
    nextPort s = some p → ((List.range 128).find? fun c => !ctxBusy s c) = some c → (s.grm.flight.any fun k => k.second && k.ended.isNone) = false →
    inqOf s p = f :: r →
    exec .fluxDispatch s = .next (
      s.onGrm fun v => { v with inq := tset [] v.inq p r, rr := p, ordNo := v.ordNo + 1, flight := v.flight ++
        [{ port := p, no := s.grm.ordNo, ctx := c, gen1 := s.grm.activeIs1, bytes := f, v := [f.length - 4, p, 0, 0, 0, 0, 0, 0] }] })) ∧
  (∀ (ctx : Nat) (p : Packet) (s : State),
    (s.grm.flight.find? fun p => p.ctx = ctx && p.ended.isNone) = some p →
    exec (.fluxPass ctx) s = .next (
      let r := fluxRun s (freeNat s) 64 { pk := p, pc := p.start }
      let a := if p.second || !r.pk.second then s else drawn s
      let b := match r.slagInstr with | some i => tableSlag (8 + bankOf p.gen1) i a | none => a
      let c := match r.slagRule with | some i => tableSlag (6 + bankOf p.gen1) (17 * i) b | none => b
      let d := note evIntChkCorr 0 r.mends c
      replacePacket r.pk (if r.budget then note evCliFlxBudget p.port 1 d else d))) ∧
  (∀ (p : Nat) (k : Packet) (s : State),
    (s.grm.flight.find? fun k => k.port = p) = some k → k.ended ≠ none →
    exec (.packetRetire p) s = .next (
      let r := packetOutcome k (s.onGrm fun v => { v with flight := v.flight.filter fun x => x.no ≠ k.no })
      drainCheck (match r.2 with | some g => toSlot k g (storeFragment k r.2 r.1) | none => storeFragment k r.2 r.1))) ∧
  (∀ s : State,
    exec .fragAgeExpiry s = .next (s.onGrm fun v => { v with frag := v.frag.filter fun x => s.stk.run < x.used + 2000 })) ∧
  (∀ (slot : Nat) (f : List Byte × Bool) (r : List (List Byte × Bool)) (s : State),
    slot < 1024 → slotWaits s slot = true → nextSlot s (slOut (slotCfg s slot)) = some slot → contOut s (slCont (slotCfg s slot)) = f :: r → f.2 = true →
    exec (.unpackFrame slot) s = .next (
      note evCliGrmUnpackBad (slOut (slotCfg s slot)) 1
        ((s.onCont fun v => { v with snk := tmod {} v.snk (slCont (slotCfg s slot)) fun x => { x with frames := r } }).onGrm
          fun v => { v with rrOut := tset 0 v.rrOut (slOut (slotCfg s slot)) (slot + 1) }))) ∧
  (∀ (slot : Nat) (f : List Byte × Bool) (r : List (List Byte × Bool)) (s : State),
    slot < 1024 → slotWaits s slot = true → nextSlot s (slOut (slotCfg s slot)) = some slot → contOut s (slCont (slotCfg s slot)) = f :: r → f.2 = false →
    groomedPort s (slOut (slotCfg s slot)) = true → grmBytes s (2048 + slOut (slotCfg s slot)) + f.1.length ≤ 524288 →
    exec (.unpackFrame slot) s = .next (
      let q := slOut (slotCfg s slot)
      let a := ((s.onCont fun v => { v with snk := tmod {} v.snk (slCont (slotCfg s slot)) fun x => { x with frames := r } }).onGrm
          fun v => { v with rrOut := tset 0 v.rrOut (slOut (slotCfg s slot)) (slot + 1) })
      grmLevel (2048 + q) (grmBytes s (2048 + q)) (grmBytes s (2048 + q) + f.1.length)
        (a.onGrm fun v => { v with outq := tset [] v.outq q (outqOf s q ++ [(slot, f.1)]) }))) ∧
  (∀ (slot : Nat) (f : List Byte × Bool) (r : List (List Byte × Bool)) (s : State),
    slot < 1024 → slotWaits s slot = true → nextSlot s (slOut (slotCfg s slot)) = some slot → contOut s (slCont (slotCfg s slot)) = f :: r → f.2 = false →
    (groomedPort s (slOut (slotCfg s slot)) = false ∨ 524288 < grmBytes s (2048 + slOut (slotCfg s slot)) + f.1.length) →
    exec (.unpackFrame slot) s = .next (
      note evCliGrmTxDrop (slOut (slotCfg s slot)) 1
        ((s.onCont fun v => { v with snk := tmod {} v.snk (slCont (slotCfg s slot)) fun x => { x with frames := r } }).onGrm
          fun v => { v with rrOut := tset 0 v.rrOut (slOut (slotCfg s slot)) (slot + 1) }))) ∧
  (∀ (p : Nat) (f : Nat × List Byte) (r : List (Nat × List Byte)) (s : State),
    groomedPort s p = true → outqOf s p = f :: r →
    exec (.egressMacTake p) s = .next (note evCliTxBytes p f.2.length (note evCliTxFrames p 1 (onCliPort p (fun x => { x with txFrame := f.2 }) (s.onGrm fun v => { v with outq := tset [] v.outq p r })))))

/-- When the optics and entropy events and the boot events and the restoration of a table entry act, and what they then leave. -/
def Obligations.OpticsBootAndIntegrityEventsAct : Prop :=
  (∀ (r : Reseed) (s : State),
    r.ok = true → s.sec.entUp = true → s.sec.entFail = false → s.sec.keFailed = false → reseedDue s = true →
    exec (.drbgReseed r) s = .next (
      let n := drbgReseed r.entropy (drbgNow s).1 (drbgNow s).2
      s.onSec fun v => { v with reseedAge := 0, gens := 0, drbg := { key := n.1, v := n.2, seeded := true } })) ∧
  (∀ s : State,
    exec .entFail s = .next (noteChange evKeEntFail 0 s.sec.entFail true (s.onSec fun v => { v with entFail := true, entUp := false }))) ∧
  (∀ s : State,
    exec .entropyRestartPass s = .next (noteChange evKeEntFail 0 s.sec.entFail false (s.onSec fun v => { v with entFail := false, entUp := true }))) ∧
  (∀ (conv : Fin 2) (entry : Nat) (pins : List (Fin 32 × Int)) (r : HkRun) (s : State),
    (hkOf s conv).running = some r → r.next = entry → hkEnds s r = true →
    exec (.hkConversionDone conv entry pins) s = .next (
      let v := hkRaw (hkEntry r.cfg r.next) (hkInput (hkEntry r.cfg r.next) pins)
      let a := hkResult conv r.next v.1 v.2 (r.stale.contains r.next) (hkEntry r.cfg r.next) s
      let b := eachBl (blSample conv r.next v.1 r.start) (List.range 8) a
      if r.next + 1 < hkCount r.cfg then onHk conv (fun h => { h with running := some { r with next := r.next + 1 } }) b
      else onHk conv (fun h => { h with running := none, seqScnt := BitVec.ofNat 32 (lo32 r.scnt) }) b)) ∧
  (∀ (loop : Fin 8) (t0 : Nat) (s : State),
    (blOf s loop).t0 = some t0 → blWindowOver s (blOf s loop) t0 = true →
    blDetect (blOf s loop).cfg t0 ((blOf s loop).samples.filter fun x => x.1 < blBegin (blOf s loop).cfg t0 ((blOf s loop).window + 1)) = none →
    exec (.blWindowEnd loop) s = .next (
      note evOptBlNodata loop 1 (onBl loop (fun b => { b with
        window := b.window + 1, samples := b.samples.filter fun x => decide (blBegin (blOf s loop).cfg t0 ((blOf s loop).window + 1) ≤ x.1) }) s))) ∧
  (∀ (loop : Fin 8) (t0 : Nat) (c : Int) (s : State),
    (blOf s loop).t0 = some t0 → blWindowOver s (blOf s loop) t0 = true →
    blDetect (blOf s loop).cfg t0 ((blOf s loop).samples.filter fun x => x.1 < blBegin (blOf s loop).cfg t0 ((blOf s loop).window + 1)) = some c →
    exec (.blWindowEnd loop) s = .next (
      blCorrect loop c (onBl loop (fun b => { b with
        window := b.window + 1, samples := b.samples.filter fun x => decide (blBegin (blOf s loop).cfg t0 ((blOf s loop).window + 1) ≤ x.1) }) s))) ∧
  (∀ (b : Bool) (s : State),
    alive s = true → s.boot.rom = true → s.boot.stage = .romStart → s.boot.stopped = false →
    nextCopy (s.onBoot fun v => { v with stage := .loading }) = some b →
    exec .romStartDone s = .next (s.onBoot fun v => { v with stage := .loading })) ∧
  (∀ s : State,
    alive s = true → s.boot.rom = true → s.boot.stage = .romStart → s.boot.stopped = false →
    nextCopy (s.onBoot fun v => { v with stage := .loading }) = none →
    exec .romStartDone s = .next (
      let a := s.onBoot fun v => { v with stage := .loading }
      bootFail (flashHeader a false) (a.onBoot fun v => { v with stage := .waitHost }))) ∧
  (∀ (copy : Bool) (s : State),
    alive s = true → s.boot.rom = true → s.boot.stage = .loading → s.boot.stopped = false → nextCopy s = some copy →
    exec (.imageLoadDone copy) s = .next (
      if (imageCheck s true (flashWord (flashOf s copy))).1 = 0 then
        startImage (1 + flag copy) (imageCheck s true (flashWord (flashOf s copy))).2 (flashWord (flashOf s copy)) s
      else
        let a := bootFail (imageCheck s true (flashWord (flashOf s copy))).1 (s.onBoot fun v => { v with tried := v.tried ++ [flag copy] })
        match nextCopy a with
        | some _ => a
        | none => a.onBoot fun v => { v with stage := .waitHost })) ∧
  (∀ (badBanks : List Nat) (s : State),
    stageIs .fwStart s = true →
    exec (.fwStartDone badBanks) s = .next (((((badBanks.filter fun b => b < 34).foldl (fun s b => retireResource 2 b 0 s) s).onBoot fun v => { v with stage := .calibrating, calib := false }).onOpt
        fun v => { v with vrefDue := true }))) ∧
  (∀ s : State,
    stageIs .calibrating s = true → calibrated s = true →
    exec .kindleCalibrationDone s = .next (
      ((List.range 4).foldl (fun s e => onTxEng e (fun x => if x.state = .dark then { x with famHold := true } else x) s) s).onBoot fun v => { v with
        stage := if !s.boot.calib && restoresAtBoot s then .restoring else .ready, calib := false })) ∧
  (∀ s : State,
    stageIs .restoring s = true →
    exec .restoreDone s = .next (s.onStore fun v => { v with restoreDue := true })) ∧
  (∀ (table index : Nat) (s : State),
    s.integ.restore.contains (table, entryBase table index) = true →
    (s.integ.goldBad.find? fun x => x.1 = table && entryBase table x.2.1 = entryBase table index) = none →
    exec (.goldRestore table index) s = .next (countCfi (note evIntGoldRestore table 1 (rewriteEntry table (entryBase table index) (tableWord true s table) s))))

/-- STROKE_BOUNDARY begins row 0 of the next stroke, with the number one higher, or that of a stroke step. -/
def Obligations.StrokeBoundaryBeginsAStroke : Prop :=
  (∀ (x : StrokeIn) (s : State), alive s = true → ∃ t, exec (.strokeBoundary x) s = .next t ∧ t.stk.row = 0
      ∧ t.stk.scnt = (match nextStep s with | some a => a.1 | none => s.stk.scnt + 1#48) ∧ kept t = { kept s with scnt := t.stk.scnt, row := 0 }) ∧
  (∀ (x : StrokeIn) (s : State), alive s = false → exec (.strokeBoundary x) s = .next s) ∧
  (∀ s : State, joinDue s = false → alignStep s = none → s.stk.setTo = some (s.stk.scnt + 1#48) → nextStep s = none) ∧
  (∀ (n : W48) (s : State), joinDue s = false → alignStep s = none → s.stk.setTo = some n → n ≠ s.stk.scnt + 1#48 → ∃ d, nextStep s = some (n, d, false))

/-- What the pin, fault, clock, transport and completion events leave unchanged. -/
def Obligations.ControlEventsWriteTheirOwnUnits : Prop :=
  ∀ s t : State,
    (exec .rstnRelease s = .next t → t = { s with cmd := t.cmd, mode := t.mode, pins := t.pins }) ∧
    (exec .perstNAssert s = .next t → t = { s with cmd := t.cmd, ev := t.ev, pins := t.pins }) ∧
    (exec .perstNRelease s = .next t → t = { s with cmd := t.cmd, pins := t.pins }) ∧
    (∀ a0 a1 a2, exec (.railFault a0 a1 a2) s = .next t → t.pending = s.pending ∧ t.fused = s.fused ∧ t.free = s.free ∧ t.pins = s.pins ∧ t.stk = s.stk ∧ t.root = s.root ∧ t.rows = s.rows ∧ t.diag = s.diag ∧ t.prot = s.prot ∧ t.pm = s.pm ∧ t.integ = s.integ) ∧
    (∀ a0 a1, exec (.thermTrip a0 a1) s = .next t → t.pending = s.pending ∧ t.fused = s.fused ∧ t.free = s.free ∧ t.pins = s.pins ∧ t.stk = s.stk ∧ t.root = s.root ∧ t.rows = s.rows ∧ t.diag = s.diag ∧ t.prot = s.prot ∧ t.pm = s.pm ∧ t.integ = s.integ) ∧
    (∀ a0 a1, exec (.thermWarn a0 a1) s = .next t → t = { s with ev := t.ev, mode := t.mode }) ∧
    (∀ a, exec (.pllUnlock a) s = .next t → t.pending = s.pending ∧ t.fused = s.fused ∧ t.free = s.free ∧ t.pins = s.pins ∧ t.stk = s.stk ∧ t.root = s.root ∧ t.rows = s.rows ∧ t.diag = s.diag ∧ t.prot = s.prot ∧ t.pm = s.pm ∧ t.integ = s.integ) ∧
    (∀ a0 a1, exec (.severeFaultClear a0 a1) s = .next t → t = { s with ev := t.ev, mode := t.mode }) ∧
    (∀ a, exec (.jtagInstructionLoad a) s = .next t → t.pending = s.pending ∧ t.fused = s.fused ∧ t.free = s.free ∧ t.stk = s.stk ∧ t.root = s.root ∧ t.rows = s.rows ∧ t.diag = s.diag ∧ t.prot = s.prot ∧ t.pm = s.pm ∧ t.integ = s.integ) ∧
    (∀ a, exec (.strkInEdge a) s = .next t → t = { s with stk := t.stk }) ∧
    (∀ a, exec (.rowTick a) s = .next t → t.pending = s.pending ∧ t.fused = s.fused ∧ t.commits = s.commits ∧ t.pins = s.pins ∧ t.clk = s.clk ∧ t.root = s.root ∧ t.opt = s.opt ∧ t.boot = s.boot) ∧
    (∀ a0 a1, exec (.refFail a0 a1) s = .next t → t = { s with clk := t.clk, ev := t.ev }) ∧
    (∀ a, exec (.refWtrClear a) s = .next t → t = { s with clk := t.clk, ev := t.ev }) ∧
    (exec .clockLock s = .next t → t = { s with clk := t.clk, ev := t.ev }) ∧
    (exec .acqTimeout s = .next t → t = { s with clk := t.clk, ev := t.ev }) ∧
    (exec .historyValid s = .next t → t = { s with clk := t.clk }) ∧
    (exec .holdoverExpired s = .next t → t = { s with clk := t.clk, ev := t.ev }) ∧
    (exec .lostListExpiry s = .next t → t = { s with root := t.root }) ∧
    (exec .rootCandidateTimeout s = .next t → t = { s with root := t.root }) ∧
    (∀ a0 a1, exec (.cmdTailDoorbell a0 a1) s = .next t → t = { s with cmd := t.cmd }) ∧
    (∀ a0 a1, exec (.cmdSizeWrite a0 a1) s = .next t → t = { s with cmd := t.cmd }) ∧
    (∀ a0 a1, exec (.rplSizeWrite a0 a1) s = .next t → t = { s with cmd := t.cmd }) ∧
    (∀ a0 a1, exec (.rplHeadWrite a0 a1) s = .next t → t = { s with cmd := t.cmd }) ∧
    (∀ a, exec (.cmdFlush a) s = .next t → t = { s with cmd := t.cmd, ev := t.ev }) ∧
    (∀ a, exec (.rplFlush a) s = .next t → t = { s with cmd := t.cmd, ev := t.ev }) ∧
    (∀ a, exec (.intStatusW1c a) s = .next t → t = { s with cmd := t.cmd }) ∧
    (∀ a0 a1, exec (.bar0RegisterWrite a0 a1) s = .next t → t = { s with cmd := t.cmd, ev := t.ev }) ∧
    (∀ a0 a1 a2, a2.cyc ≠ .removal → exec (.pciePacketFetch a0 a1 a2) s = .next t → t = { s with cmd := t.cmd, ev := t.ev }) ∧
    (∀ a, exec (.replyRingWrite a) s = .next t → t = { s with cmd := t.cmd, ev := t.ev }) ∧
    (∀ a, a.cyc ≠ .removal → exec (.pktWrite a) s = .next t → t = { s with cmd := t.cmd, ev := t.ev }) ∧
    (∀ a, exec (.rplRead a) s = .next t → t = { s with cmd := t.cmd, ev := t.ev }) ∧
    (exec .statusRead s = .next t → t = { s with cmd := t.cmd }) ∧
    (∀ a, exec (.flush a) s = .next t → t = { s with cmd := t.cmd, ev := t.ev }) ∧
    (∀ a, exec (.spiBad a) s = .next t → t = { s with ev := t.ev }) ∧
    (∀ a, exec (.fabricReplyRx a) s = .next t → t = { s with cmd := t.cmd, ev := t.ev }) ∧
    (exec .fwdTimeout s = .next t → t = { s with cmd := t.cmd, ev := t.ev, fab := t.fab }) ∧
    (exec .mapSyncDone s = .next t → t = { s with anvil := t.anvil, cmd := t.cmd, ev := t.ev, integ := t.integ, keys := t.keys, store := t.store }) ∧
    (∀ a0 a1 a2 a3, exec (.sliceRetire a0 a1 a2 a3) s = .next t → t = { s with mode := t.mode, store := t.store }) ∧
    (exec .ruleSyncDone s = .next t → t = { s with anvil := t.anvil, cmd := t.cmd, ev := t.ev, grm := t.grm, integ := t.integ, keys := t.keys, store := t.store }) ∧
    (exec .keyLockGrant s = .next t → t = { s with cmd := t.cmd, ev := t.ev, keys := t.keys, sec := t.sec, store := t.store }) ∧
    (exec .keyLockWaitExpiry s = .next t → t = { s with cmd := t.cmd, ev := t.ev, keys := t.keys, sec := t.sec, store := t.store }) ∧
    (exec .keyLockTimeout s = .next t → t = { s with cmd := t.cmd, ev := t.ev, keys := t.keys, sec := t.sec, store := t.store }) ∧
    (exec .keFail s = .next t → t.pending = s.pending ∧ t.fused = s.fused ∧ t.free = s.free ∧ t.pins = s.pins ∧ t.stk = s.stk ∧ t.root = s.root ∧ t.rows = s.rows ∧ t.diag = s.diag ∧ t.prot = s.prot ∧ t.pm = s.pm ∧ t.integ = s.integ) ∧
    (∀ a0 a1, exec (.i2cXferDone a0 a1) s = .next t → t = { s with cmd := t.cmd, ev := t.ev, keys := t.keys, opt := t.opt }) ∧
    (∀ a, exec (.lockstepMiscompare a) s = .next t → t = { s with mode := t.mode, store := t.store }) ∧
    (∀ a0 a1, exec (.coreSelfTestDone a0 a1) s = .next t → t.pending = s.pending ∧ t.fused = s.fused ∧ t.free = s.free ∧ t.pins = s.pins ∧ t.stk = s.stk ∧ t.root = s.root ∧ t.rows = s.rows ∧ t.diag = s.diag ∧ t.prot = s.prot ∧ t.pm = s.pm ∧ t.integ = s.integ) ∧
    (exec .depthSettled s = .next t → t = { s with mode := t.mode }) ∧
    (exec .imageInstallDone s = .next t → t = { s with boot := t.boot, cmd := t.cmd, ev := t.ev, keys := t.keys }) ∧
    (exec .attestDone s = .next t → t = { s with cmd := t.cmd, ev := t.ev, free := t.free, keys := t.keys, store := t.store }) ∧
    (exec .storeDone s = .next t → t = { s with cmd := t.cmd, ev := t.ev, keys := t.keys, store := t.store }) ∧
    (exec .profileEraseDone s = .next t → t = { s with cmd := t.cmd, ev := t.ev, keys := t.keys, store := t.store }) ∧
    (∀ a0 a1, exec (.busDecerr a0 a1) s = .next t → t = { s with ev := t.ev, mode := t.mode }) ∧
    (∀ a0 a1, exec (.arbWdog a0 a1) s = .next t → t = { s with ev := t.ev, integ := t.integ, mode := t.mode }) ∧
    (exec .rollbackAdvanceDone s = .next t → t = { s with boot := t.boot, cmd := t.cmd, ev := t.ev, keys := t.keys }) ∧
    (exec .debugPortAccess s = .next t → t = { s with ev := t.ev, integ := t.integ })

/-- What the protection, fabric, line, lane, grooming, security, optics, boot and integrity events leave unchanged. -/
def Obligations.TrafficEventsWriteTheirOwnUnits : Prop :=
  ∀ s t : State,
    (∀ a0 a1 a2, exec (.containerFrameRx a0 a1 a2) s = .next t → t.pending = s.pending ∧ t.fused = s.fused ∧ t.commits = s.commits ∧ t.otn = s.otn ∧ t.pins = s.pins ∧ t.stk = s.stk ∧ t.clk = s.clk ∧ t.root = s.root ∧ t.cmd = s.cmd ∧ t.anvil = s.anvil ∧ t.rows = s.rows ∧ t.diag = s.diag ∧ t.tx = s.tx ∧ t.rx = s.rx ∧ t.cli = s.cli ∧ t.grm = s.grm ∧ t.opt = s.opt ∧ t.mode = s.mode ∧ t.boot = s.boot ∧ t.keys = s.keys ∧ t.store = s.store) ∧
    (∀ a0 a1, exec (.pgHoldoffExpiry a0 a1) s = .next t → t = { s with prot := t.prot }) ∧
    (∀ a, exec (.pgWtrExpiry a) s = .next t → t = { s with prot := t.prot }) ∧
    (∀ a, exec (.dfopPm a) s = .next t → t = { s with ev := t.ev, prot := t.prot }) ∧
    (∀ a, exec (.dfopNr a) s = .next t → t = { s with ev := t.ev, prot := t.prot }) ∧
    (∀ a0 a1, exec (.fabLinkRowRx a0 a1) s = .next t → t = { s with cli := t.cli, clk := t.clk, ev := t.ev, fab := t.fab, pm := t.pm, root := t.root }) ∧
    (∀ a, exec (.fabHuntTimeout a) s = .next t → t = { s with cli := t.cli, fab := t.fab }) ∧
    (∀ a, exec (.envelopeTransmit a) s = .next t → t = { s with fab := t.fab }) ∧
    (∀ a0 a1, exec (.helloRx a0 a1) s = .next t → t = { s with ev := t.ev, fab := t.fab }) ∧
    (∀ a, exec (.helloSend a) s = .next t → t = { s with ev := t.ev, fab := t.fab }) ∧
    (∀ a, exec (.helloLoss a) s = .next t → t = { s with ev := t.ev, fab := t.fab }) ∧
    (∀ a0 a1, exec (.lspRx a0 a1) s = .next t → t = { s with ev := t.ev, fab := t.fab }) ∧
    (exec .lspOriginate s = .next t → t = { s with ev := t.ev, fab := t.fab }) ∧
    (exec .lspAgeing s = .next t → t = { s with fab := t.fab }) ∧
    (exec .routeRecompute s = .next t → t = { s with fab := t.fab }) ∧
    (exec .addrWaitEnd s = .next t → t = { s with fab := t.fab }) ∧
    (exec .addrClaimed s = .next t → t = { s with fab := t.fab }) ∧
    (∀ a0 a1, exec (.polastEnvelopeRx a0 a1) s = .next t → t = { s with cmd := t.cmd, ev := t.ev, fab := t.fab, integ := t.integ }) ∧
    (exec .broadcastRecordExpiry s = .next t → t = { s with fab := t.fab }) ∧
    (∀ a0 a1, exec (.pathHopRx a0 a1) s = .next t → t = { s with anvil := t.anvil, cmd := t.cmd, commits := t.commits, ev := t.ev, fab := t.fab, integ := t.integ, store := t.store }) ∧
    (∀ a, exec (.txLaserWaitEnd a) s = .next t → t = { s with cli := t.cli, ev := t.ev, free := t.free, otn := t.otn, tx := t.tx }) ∧
    (∀ a, exec (.txRampDone a) s = .next t → t = { s with cli := t.cli, ev := t.ev, free := t.free, otn := t.otn, tx := t.tx }) ∧
    (∀ a0 a1, exec (.calLimit a0 a1) s = .next t → t = { s with ev := t.ev, tx := t.tx }) ∧
    (∀ a0 a1 a2, exec (.drxlos a0 a1 a2) s = .next t → t = { s with clk := t.clk, ev := t.ev, otn := t.otn, rx := t.rx }) ∧
    (∀ a0 a1 a2, exec (.drxlosClear a0 a1 a2) s = .next t → t = { s with clk := t.clk, ev := t.ev, otn := t.otn, rx := t.rx }) ∧
    (∀ a0 a1, exec (.cdScanDone a0 a1) s = .next t → t = { s with clk := t.clk, ev := t.ev, otn := t.otn, rx := t.rx }) ∧
    (∀ a0 a1, exec (.headerCandidate a0 a1) s = .next t → t = { s with ev := t.ev, rx := t.rx }) ∧
    (∀ a0 a1, exec (.headerWindowEnd a0 a1) s = .next t → t = { s with clk := t.clk, ev := t.ev, otn := t.otn, rx := t.rx }) ∧
    (∀ a, exec (.huntTimeout a) s = .next t → t = { s with clk := t.clk, ev := t.ev, otn := t.otn, rx := t.rx }) ∧
    (∀ a, exec (.cdTrackLimit a) s = .next t → t = { s with ev := t.ev, rx := t.rx }) ∧
    (∀ a0 a1, exec (.codewordDecode a0 a1) s = .next t → t = { s with ev := t.ev, otn := t.otn }) ∧
    (∀ a0 a1, exec (.otucFrameTx a0 a1) s = .next t → t = { s with cli := t.cli, free := t.free, otn := t.otn, tx := t.tx }) ∧
    (∀ a0 a1, exec (.otucFrameRx a0 a1) s = .next t → t = { s with cli := t.cli, ev := t.ev, otn := t.otn, pm := t.pm }) ∧
    (∀ a, exec (.dlof a) s = .next t → t = { s with cli := t.cli, ev := t.ev, otn := t.otn }) ∧
    (∀ a, exec (.dlom a) s = .next t → t = { s with cli := t.cli, ev := t.ev, otn := t.otn }) ∧
    (∀ a0 a1, exec (.rowBlockRx a0 a1) s = .next t → t = { s with cli := t.cli, ev := t.ev, otn := t.otn }) ∧
    (∀ a, exec (.dllos a) s = .next t → t = { s with cli := t.cli, clk := t.clk, ev := t.ev }) ∧
    (∀ a0 a1, exec (.trainingFrameRx a0 a1) s = .next t → t = { s with cli := t.cli, fab := t.fab, free := t.free }) ∧
    (∀ a, exec (.trainTimeout a) s = .next t → t = { s with cli := t.cli, fab := t.fab }) ∧
    (∀ a0 a1, exec (.laneTestEnd a0 a1) s = .next t → t = { s with cli := t.cli, ev := t.ev, mode := t.mode, store := t.store }) ∧
    (∀ a0 a1 a2, exec (.clientFrameRx a0 a1 a2) s = .next t → t = { s with ev := t.ev, grm := t.grm }) ∧
    (exec .fluxDispatch s = .next t → t = { s with grm := t.grm }) ∧
    (∀ a, exec (.fluxPass a) s = .next t → t = { s with ev := t.ev, fab := t.fab, free := t.free, grm := t.grm, integ := t.integ }) ∧
    (∀ a, exec (.packetRetire a) s = .next t → t = { s with ev := t.ev, grm := t.grm }) ∧
    (exec .fragAgeExpiry s = .next t → t = { s with grm := t.grm }) ∧
    (∀ a, exec (.unpackFrame a) s = .next t → t = { s with cont := t.cont, ev := t.ev, grm := t.grm }) ∧
    (∀ a, exec (.egressMacTake a) s = .next t → t = { s with cli := t.cli, ev := t.ev, grm := t.grm }) ∧
    (∀ a, exec (.drbgReseed a) s = .next t → t = { s with sec := t.sec }) ∧
    (exec .entFail s = .next t → t = { s with ev := t.ev, sec := t.sec }) ∧
    (∀ a0 a1 a2, exec (.hkConversionDone a0 a1 a2) s = .next t → t = { s with ev := t.ev, opt := t.opt }) ∧
    (∀ a, exec (.blWindowEnd a) s = .next t → t = { s with ev := t.ev, opt := t.opt }) ∧
    (exec .romStartDone s = .next t → t = { s with boot := t.boot }) ∧
    (∀ a, exec (.fwStartDone a) s = .next t → t = { s with boot := t.boot, mode := t.mode, opt := t.opt, store := t.store }) ∧
    (exec .kindleCalibrationDone s = .next t → t = { s with boot := t.boot, tx := t.tx }) ∧
    (exec .restoreDone s = .next t → t = { s with store := t.store }) ∧
    (∀ a0 a1, exec (.goldRestore a0 a1) s = .next t → t.pending = s.pending ∧ t.fused = s.fused ∧ t.commits = s.commits ∧ t.free = s.free ∧ t.otn = s.otn ∧ t.pins = s.pins ∧ t.stk = s.stk ∧ t.clk = s.clk ∧ t.root = s.root ∧ t.cmd = s.cmd ∧ t.rows = s.rows ∧ t.diag = s.diag ∧ t.tx = s.tx ∧ t.rx = s.rx ∧ t.cli = s.cli ∧ t.opt = s.opt ∧ t.boot = s.boot ∧ t.keys = s.keys ∧ t.store = s.store ∧ t.pm = s.pm) ∧
    (∀ a0 a1, exec (.dloa a0 a1) s = .next t → t = { s with cli := t.cli, ev := t.ev }) ∧
    (exec .entropyRestartPass s = .next t → t = { s with ev := t.ev, sec := t.sec })

/-- A level event occurs exactly when FILL reaches LEVEL from below, and sets the flag of its queue. -/
def Obligations.LevelEventsOfR80 : Prop :=
  (∀ (q : Nat) (p : List W32) (s : State), q ≤ 5 → inCycle s q = none → qfill (cqPush q p s) q = qfill s q + p.length ∧
    (cqPush q p s).cmd.intStatus = if levelOf s q ≠ 0 ∧ qfill s q < levelOf s q ∧ levelOf s q ≤ qfill s q + p.length then s.cmd.intStatus ||| 0x200#32 else s.cmd.intStatus) ∧
  (∀ (p : List W32) (s : State), inCycle s 11 = none → if rqRoom 11 p.length s then qfill (rqPush 11 p s) 11 = qfill s 11 + p.length ∧
      (rqPush 11 p s).cmd.intStatus = if levelOf s 11 ≠ 0 ∧ qfill s 11 < levelOf s 11 ∧ levelOf s 11 ≤ qfill s 11 + p.length then s.cmd.intStatus ||| 0x200#32 else s.cmd.intStatus
    else qfill (rqPush 11 p s) 11 = qfill s 11 ∧ (rqPush 11 p s).cmd.intStatus = s.cmd.intStatus) ∧
  (∀ (p : List W32) (s : State), inCycle s 10 = none → if rqRoom 10 p.length s then qfill (rqPush 10 p s) 10 = qfill s 10 + p.length ∧
      (rqPush 10 p s).cmd.intStatus = if levelOf s 10 ≠ 0 ∧ qfill s 10 < levelOf s 10 ∧ levelOf s 10 ≤ qfill s 10 + p.length then s.cmd.intStatus ||| 0x100#32 else s.cmd.intStatus
    else qfill (rqPush 10 p s) 10 = qfill s 10 ∧ (rqPush 10 p s).cmd.intStatus = s.cmd.intStatus) ∧
  (∀ (ch : Fin 4) (head : Option W32) (s t : State), inCycle s (6 + ch) = none → exec (.replyRingWrite ⟨ch, head⟩) s = .next t →
    let a := ringFill (chanOf s ch)
    let b := ringFill (chanOf t ch)
    t.cmd.intStatus.getLsbD ch = (s.cmd.intStatus.getLsbD ch || decide (levelOf s (6 + ch) ≠ 0 ∧ a < levelOf s (6 + ch) ∧ levelOf s (6 + ch) ≤ b)) ∧
    ((∀ x ∈ s.cmd.late, x.1 ≠ 10 ∧ x.1 ≠ 11) →
      t.cmd.intStatus = if levelOf s (6 + ch) ≠ 0 ∧ a < levelOf s (6 + ch) ∧ levelOf s (6 + ch) ≤ b then s.cmd.intStatus ||| BitVec.ofNat 32 (2 ^ ch.val) else s.cmd.intStatus))

/-- RPL_READ: a reply leaves RQ4 when its last byte has been clocked out, and stays whole otherwise. -/
def Obligations.ReplyLeavesRq4WithItsLastByte : Prop :=
  ∀ (n : Nat) (p : List W32) (r : List (List W32)) (s : State), spiOn s = true → rqOf s 4 = p :: r →
    (4 * p.length ≤ n → (inCycle s 10 = none → exec (.rplRead n) s = .next ((rqRefill (s.onCmd fun v => { v with rq := tset [] v.rq 4 r })).onCmd fun v => { v with spiOut := p }))
      ∧ ∃ t, exec (.rplRead n) s = .next t ∧ t.cmd.spiOut = p ∧ (∃ l, rqOf t 4 = r ++ l) ∧ ((∀ x ∈ s.cmd.late, x.1 ≠ 10) → rqOf t 4 = r)) ∧
    (n < 4 * p.length → ∃ t, exec (.rplRead n) s = .next t ∧ t = { s with cmd := { s.cmd with spiOut := t.cmd.spiOut } }
      ∧ ∀ m, 4 * p.length ≤ m → ∃ u, exec (.rplRead m) t = .next u ∧ u.cmd.spiOut = p)

/-- A reply from the fabric closes its record and goes to its queue, or is discarded and counted. -/
def Obligations.FabricRepliesMeetTheirRecord : Prop :=
  ∀ (ws : List W32) (l : List (List W32)) (s : State), s.cmd.fabRpl = ws :: l →
    let a := s.onCmd fun v => { v with fabRpl := l }
    (s.cmd.fwd.find? (matchesReply ws) = none → exec (.fabricReplyRx ws) s = .next (note evCmdFwdLate 0 1 a)) ∧
    (∀ r, s.cmd.fwd.find? (matchesReply ws) = some r →
      let u := if recBroadcast r then a else a.onCmd fun v => { v with fwd := v.fwd.erase r }
      (rqRoom (r.queue + 6) ws.length s = true → exec (.fabricReplyRx ws) s = .next (rqPush (r.queue + 6) ws u)) ∧
      (rqRoom (r.queue + 6) ws.length s = false → exec (.fabricReplyRx ws) s = .next (note evCmdRplDrop 0 1 u)))

/-- A flush and a commit in one cycle: the packet is discarded; two changes in one cycle: FILL changes by the net amount. -/
def Obligations.OneBellowsCycle : Prop :=
  (∀ (q : Fin 6) (p : List W32) (s : State), let t := cqCommit .flush q p s
    cqOf t q = [] ∧ qfill t q = 0 ∧ t.cmd.intStatus = s.cmd.intStatus ∧ counter t evCmdCmdqFlushDiscard q = counter s evCmdCmdqFlushDiscard q + BitVec.ofNat 48 ((cqOf s q).length + 1)) ∧
  (∀ (q : Fin 6) (p w : List W32) (r : List (List W32)) (s : State), cqOf s q = w :: r → inCycle s q = none →
    let net := s.onCmd fun v => { v with
      cq := tset [] v.cq q (w :: r ++ [p])
      intStatus := if levelOf s q ≠ 0 ∧ qfill s q < levelOf s q ∧ levelOf s q ≤ qfill s q + p.length - w.length then v.intStatus ||| 0x200#32 else v.intStatus }
    qfill net q = qfill s q + p.length ∧ (nextTurn s = some q → cqCommit .removal q p s = takeFirst (turns s) net) ∧ (nextTurn s ≠ some q → cqCommit .removal q p s = cqPush q p s)) ∧
  (∀ (q : Fin 6) (p : List W32) (s : State), cqOf s q = [] → cqCommit .removal q p s = cqPush q p s) ∧
  (∀ (qs : List Nat) (s : State), (joinChanges qs s).cmd.joined = qs.map fun q => (q, .opened)) ∧
  (∀ (q b m a : Nat) (s : State), inCycle s q = some .opened → let u := levelEvent q b m s
    u.cmd.intStatus = s.cmd.intStatus ∧ ∀ c, (levelEvent q c a u).cmd.intStatus
      = if levelOf s q ≠ 0 ∧ b < levelOf s q ∧ levelOf s q ≤ a then s.cmd.intStatus ||| BitVec.ofNat 32 (2 ^ levelBit q) else s.cmd.intStatus) ∧
  (∀ (q : Fin 6) (p : List W32) (s : State), inCycle s q = some .opened → let t := cqPush q p (flushQueue q s)
    cqOf t q = [] ∧ t.cmd.intStatus = s.cmd.intStatus ∧ inCycle t q = none
      ∧ counter t evCmdCmdqFlushDiscard q = counter s evCmdCmdqFlushDiscard q + BitVec.ofNat 48 ((cqOf s q).length + 1)) ∧
  (∀ (q : Nat) (p : List W32) (s : State), q = 10 ∨ q = 11 → s.cmd.late = [] → inCycle s q = some .opened → let t := rqPush q p (flushQueue q s)
    rqOf t (q - 6) = [] ∧ t.cmd.intStatus = s.cmd.intStatus ∧ inCycle t q = none
      ∧ counter t evCmdCmdqFlushDiscard q = counter s evCmdCmdqFlushDiscard q + BitVec.ofNat 48 ((rqOf s (q - 6)).length + 1))

/-- A packet from a transport is committed only where its command queue has room: CQ0 to CQ4 stay within 8,192 words. -/
def Obligations.QueuesHoldTheirSize : Prop :=
  ∀ cyc : CycleOf, cyc ≠ .removal →
    (∀ (ch : Fin 4) (ws : List W32) (good : Bool) (s t : State), qfill s ch ≤ 8192 → exec (.pciePacketFetch ch ws ⟨good, cyc⟩) s = .next t →
      qfill t ch ≤ 8192 ∧ ∀ q, q ≤ 5 → q ≠ ch.val → cqOf t q = cqOf s q) ∧
    (∀ (bs : List Byte) (s t : State), qfill s 4 ≤ 8192 → exec (.pktWrite ⟨bs, cyc⟩) s = .next t → qfill t 4 ≤ 8192 ∧ ∀ q, q ≤ 5 → q ≠ 4 → cqOf t q = cqOf s q)

/-- MAP_WRITE writes the shadow entries it names; at its row 0 MAP_COMMIT swaps the banks; MAP_SYNC copies the active bank. -/
def Obligations.MapWriteAndSwap : Prop :=
  (∀ (k d : Nat) (ws : List W32) (s : State), let t := writeShadow k ws s
    tget 0#32 (shadowBank t) d = (if k ≤ d ∧ d < k + ws.length then ws.getD (d - k) 0#32 else tget 0#32 (shadowBank s) d)
      ∧ activeBank t = activeBank s ∧ (MapsCanonical s → MapsCanonical t)) ∧
  (∀ (c : Commit) (s : State), c.opcode = opMapCommit.code → let t := applyCommit c s
    activeBank t = shadowBank s ∧ shadowBank t = activeBank s ∧ t.anvil.shadow = .stale ∧ (MapsCanonical s → MapsCanonical t)) ∧
  (∀ (d : Deferred) (s t : State), s.anvil.sync = some d → backDiffers (shadowTable s) 0 524288 s = false → exec .mapSyncDone s = .next t →
    shadowBank t = activeBank s ∧ activeBank t = activeBank s ∧ t.anvil.shadow = .synced ∧ t.anvil.sync = none ∧ (MapsCanonical s → MapsCanonical t))

/-- A waiting write at its row 0 puts its words in force for the object it names, and for no other. -/
def Obligations.WritesTakeEffectAtTheirRow0 : Prop :=
  ∀ (c : Commit) (s : State), let t := applyCommit c s
    (c.opcode = opRefCfg.code → ∀ i, refCfg t i = if i = fld (c.p 0) 4 0 then c.p 1 else refCfg s i) ∧
    (c.opcode = opContCfg.code → ∀ i, contEntry t i = if i = contObj (c.p 0) then entryOfParams c.params else contEntry s i) ∧
    (c.opcode = opPgCfg.code → ∀ i, pgCfgOf t i = if i = pgObj (c.p 0) then pgParams c.params else pgCfgOf s i) ∧
    (c.opcode = opFabPortCfg.code → ∀ i, fpCfg t i = if i = fpObj (c.p 0) then [c.p 1, c.p 2] else fpCfg s i) ∧
    (c.opcode = opClPortCfg.code → ∀ i, cliPort t i = if i = cliObj (c.p 0) then c.p 1 else cliPort s i) ∧
    (c.opcode = opFlexoTribCfg.code → ∀ i, tribOf t i = if i = tribObj (c.p 0) then (c.p 1, c.p 2) else tribOf s i) ∧
    (c.opcode = opSlotCfg.code → ∀ i, slotCfg t i = if i = slotObj (c.p 0) then (c.p 1, c.p 2) else slotCfg s i) ∧
    (c.opcode = opSecCfg.code → ∀ i, secCfg t i = if i = secObj (c.p 0) then secParams c else secCfg s i) ∧
    (c.opcode = opStrokeCfg.code → t.stk.cfg0 = c.p 0 ∧ t.stk.cfg1 = c.p 1) ∧
    (c.opcode = opClkCfg.code → t.clk.clk0 = c.p 0 ∧ t.clk.clk1 = c.p 1 ∧ t.clk.clk2 = c.p 2) ∧
    (c.opcode = opFabCfg.code → t.fab.cfg = c.p 0) ∧ (c.opcode = opLineBondCfg.code → t.tx.bond = c.p 0) ∧
    (c.opcode = opGroomCfg.code → t.grm.cfg = c.params) ∧ (c.opcode = opModeCfg.code → t.mode.cfg = c.p 0) ∧
    (c.opcode = opRuleCommit.code → t.grm.activeIs1 = (!s.grm.activeIs1) ∧ t.grm.genNum = s.grm.genNum + 1#32)

/-- A waiting write of the other opcodes at its row 0 acts on the object it names. -/
def Obligations.ActionsTakeEffectAtTheirRow0 : Prop :=
  (∀ (c : Commit) (s : State), let t := applyCommit c s
    (c.opcode = opRefForce.code → t.clk.forced = if fld (c.p 0) 4 0 = 31 then none else some (fld (c.p 0) 4 0)) ∧
    (c.opcode = opBaCfg.code → ∀ i, baOf t i = if i = baObj (c.p 0) then { w1 := c.p 1, w2 := c.p 2 } else baOf s i) ∧
    (c.opcode = opErrInject.code → let k := contObj (c.p 0)
      (fld (c.p 0) 31 30 = 0 → (contEntry s k).srcEn = true → (srcOf t k).bipFlip = (c.p 1).toNat ∧ ∀ i, i ≠ k → srcOf t i = srcOf s i) ∧
      (fld (c.p 0) 31 30 = 0 → (contEntry s k).srcEn = false → t = s) ∧
      (fld (c.p 0) 31 30 ≠ 0 → t.rows.inject = s.rows.inject ++ [{ pos := fld (c.p 0) 18 0, left := (c.p 1).toNat }])) ∧
    (c.opcode = opPgCmd.code → let g := pgObj (c.p 0)
      (pgEn (pgCfgOf s g) = false → t = s) ∧
      (pgEn (pgCfgOf s g) = true → (c.p 1).toNat < 8 → (groupOf t g).cmdDue = some (c.p 1).toNat) ∧
      (pgErrorless (pgCfgOf s g) = true → 8 ≤ (c.p 1).toNat → (groupOf t g).alnSel = (c.p 1).toNat - 8) ∧ ∀ i, i ≠ g → groupOf t i = groupOf s i) ∧
    (c.opcode = opAlnRealign.code → let g := pgObj (c.p 0)
      ∀ n, pgErrorless (pgCfgOf s g) = true → playTarget (pgCfgOf s g) (groupOf s g) = some n →
        ((groupOf s g).play = none → (groupOf t g).play = some n) ∧
        (∀ m, (groupOf s g).play = some m → (groupOf t g).play = some m ∧ (m ≠ n → (groupOf t g).stepTo = some n)))) ∧
  (∀ (c : Commit) (s : State), let t := applyCommit c s
    let e := engObj (c.p 0)
    (c.opcode = opTxCfg.code → let w := engParams c 3
      let beyond := lcEn w && (txOverRate (onTxEng e (fun x => { x with cfg := w }) s) e || (txEng s e).retired)
      (beyond = true → lcEn (txEng t e).cfg = false ∧ (txEng t e).rateLimit = true) ∧
      (beyond = false → (txEng t e).cfg = w ∧ (lcEn w = lcEn (txEng s e).cfg → (txEng t e).state = (txEng s e).state) ∧
        (lcEn w = true → lcEn (txEng s e).cfg = false → ((txEng s e).state = .dark → (txEng t e).state = .laserWait) ∧ ((txEng s e).state = .rampDown → (txEng t e).state = .rampUp)) ∧
        (lcEn w = false → lcEn (txEng s e).cfg = true → ((txEng s e).state = .laserWait → (txEng t e).state = .dark) ∧
          ((txEng s e).state = .rampUp ∨ (txEng s e).state = .on → (txEng t e).state = .rampDown)))) ∧
    (c.opcode = opTxPreemph.code → (txEng t e).pre = engParams c 16 ∧ ∀ i, i ≠ e → txEng t i = txEng s i) ∧
    (c.opcode = opTxCalCfg.code → let l := fld (c.p 1) 31 28
      tget 1 (txEng t e).calMode l = fld (c.p 1) 27 26 ∧ tget 0 (txEng t e).calTarget l = signed 16 (fld (c.p 1) 15 0) ∧
      (∀ i, i ≠ l → tget 1 (txEng t e).calMode i = tget 1 (txEng s e).calMode i ∧ tget 0 (txEng t e).calTarget i = tget 0 (txEng s e).calTarget i) ∧ ∀ i, i ≠ e → txEng t i = txEng s i) ∧
    (c.opcode = opRxCfg.code → let w := engParams c 5
      let beyond := lcEn w && (rxOverRate (onRxEng e (fun x => { x with cfg := w }) s) e || (rxEng s e).retired)
      (beyond = true → lcEn (rxEng t e).cfg = false ∧ (rxEng t e).rateLimit = true) ∧
      (beyond = false → (rxEng t e).cfg = w ∧ (lcEn w = false → lcEn (rxEng s e).cfg = true → (rxEng t e).state = .off) ∧
        (lcEn w = true → lcEn (rxEng s e).cfg = false → (rxEng t e).state = if s.rx.dark.contains e then .nosig else if rcCdMode w then .scan else .hunt))) ∧
    (c.opcode = opRxReacquire.code →
      ((rxEng s e).state = .off → t = s) ∧ ((rxEng s e).state = .nosig → (rxEng t e).state = .nosig) ∧
      ((rxEng s e).state ≠ .off → (rxEng s e).state ≠ .nosig → bit (c.p 1) 0 = true → (rxEng t e).state = .scan ∧ (rxEng t e).acqCd = none) ∧
      ((rxEng s e).state ≠ .off → (rxEng s e).state ≠ .nosig → bit (c.p 1) 0 = false → (rxEng s e).huntHeld = false → (rxEng t e).state = .hunt)) ∧
    (c.opcode = opLineOhCfg.code → (otnOf t e).oh = engParams c 4 ∧ ∀ i, i ≠ e → otnOf t i = otnOf s i) ∧
    (c.opcode = opLineTtiWrite.code → let l := flag (bit (c.p 0) 8)
      (∀ i, ttiWords (if bit (c.p 0) 9 then (otnOf t e).ttiExp else (otnOf t e).ttiTx) i =
        if i = l then engParams c 16 else ttiWords (if bit (c.p 0) 9 then (otnOf s e).ttiExp else (otnOf s e).ttiTx) i) ∧
      (if bit (c.p 0) 9 then (otnOf t e).ttiTx = (otnOf s e).ttiTx else (otnOf t e).ttiExp = (otnOf s e).ttiExp) ∧ ∀ i, i ≠ e → otnOf t i = otnOf s i) ∧
    (c.opcode = opLineRealign.code → let x := otnOf s e
      let ages := ((List.range (rxRate s e)).filter fun k => (sliceOf x k).sync).map fun k => (localRow s + rowMod - ((sliceOf x k).last).getD 0) % rowMod
      let least : Int := (ages.foldl max 0 : Nat) + (if baseMode s = .draw then 12 else 40) - (if x.latDraw then 12 else 40)
      (x.align = none → t = s) ∧
      (∀ old, x.align = some old → ∃ (new : Nat) (k : Int), (otnOf t e).align = some new ∧ (otnOf t e).lastRealign = k ∧ (otnOf t e).latDraw = decide (baseMode s = .draw) ∧
        (new : Int) = least % 8192000 ∧ ((new : Int) - old - k) % 8192000 = 0 ∧ -4096000 ≤ k ∧ k < 4096000 ∧ counter t evLinLineSlip e = counter s evLinLineSlip e + 1#48))) ∧
  (∀ (c : Commit) (s : State), let t := applyCommit c s
    (c.opcode = opLaneCfg.code → let n := laneObj (c.p 0)
      n < 48 ∨ 64 ≤ n → (laneOf s n).test = none → (laneOf t n).cfg1 = c.p 1 ∧ (laneOf t n).cfg2 = c.p 2 ∧
      (bit (c.p 1) 29 = false → (laneOf t n).pre = fld (c.p 2) 31 27 ∧ (laneOf t n).main = fld (c.p 2) 26 20 ∧ (laneOf t n).post = fld (c.p 2) 19 15) ∧
      ∀ i, i ≠ n → i < 48 ∨ 64 ≤ i → laneOf t i = laneOf s i) ∧
    (c.opcode = opKeySwitch.code → let k := secObj (c.p 0)
      (ctxOf t k).cur = 1 - (ctxOf s k).cur ∧ (ctxOf t k).keyLoss = false ∧ ∀ i, i ≠ k → ctxOf t i = ctxOf s i) ∧
    (c.opcode = opSecClearLoss.code → let k := secObj (c.p 0)
      (ctxOf t k).keyLoss = false ∧ (ctxOf t k).cur = (ctxOf s k).cur ∧ ∀ i, i ≠ k → ctxOf t i = ctxOf s i) ∧
    (c.opcode = opHkCfg.code → ∀ i, (hkOf t i).cfg = if i = fld (c.p 0) 0 0 then c.params.drop 1 else (hkOf s i).cfg) ∧
    (c.opcode = opHkTrigger.code → ∀ i, (hkOf t i).trig = if i = fld (c.p 0) 0 0 then true else (hkOf s i).trig) ∧
    (c.opcode = opOutCfg.code → let n := outObj (c.p 0)
      (∀ l < 8, (blOf s l).t0.isSome = true → blOut (blOf s l).cfg ≠ n) → (outOf t n).cfg1 = c.p 1 ∧ outCfg2 t n = c.p 2 ∧
      ∀ i, i ≠ n → outOf t i = outOf s i ∧ outCfg2 t i = outCfg2 s i) ∧
    (c.opcode = opBlCfg.code → let l := blObj (c.p 0)
      (blOf t l).cfg = [c.p 1, c.p 2, c.p 3] ∧ (bit (c.p 1) 31 = false → (blOf t l).t0 = none) ∧ ∀ i, i ≠ l → blOf t i = blOf s i) ∧
    (c.opcode = opModeSet.code → let m := modeOfCode (fld (c.p 0) 3 0)
      (inQuench s = true → t = s) ∧
      (inQuench s = false → baseMode t = m ∧ t.mode.mode = (if s.mode.mode = .anneal ∨ annealing s = true then .anneal else m))) ∧
    (c.opcode = opProfileRestore.code → (kindleReady s = false → t = s) ∧
      (∀ b q, kindleReady s = true → latestProfile s = some (b, q) → t = restoreProfile q s ∧ t.store.restored = true ∧ t.boot.stage = .ready)) ∧
    (c.opcode = opPmSnap.code → t = s.onPm fun v => { v with snapAsked := true }) ∧
    (c.opcode = opWinCfg.code → let k := winObj (c.p 0)
      (winOf t k).enable = bit (c.p 1) 31 ∧ (winOf t k).window = fld (c.p 1) 15 0 ∧ (winOf t k).id = (c.p 2).toNat ∧ ∀ i, i ≠ k → winOf t i = winOf s i) ∧
    (c.opcode = opStrokeJoin.code → t = s)) ∧
  (∀ (a : W48 × Int) (s : State), joinDue s = true → joinStep s = some a → nextStep s = some (a.1, a.2, true))

/-- STROKE_BOUNDARY applies exactly the waiting writes of the stroke that begins, in the order of their execution, and frees them. -/
def Obligations.PendingWritesApplyAtTheirRow0 : Prop :=
  (∀ (x : StrokeIn) (s : State), alive s = true → let t := strokeBegins x s
    t.stk.scnt = nextNumber s ∧ t.stk.row = 0 ∧
    exec (.strokeBoundary x) s = .next (rowWork x.row (startRow0 x (changesAfter (localPick t) (commitsRow0 (blMoves (List.range 8) t)))))) ∧
  (∀ (x : StrokeIn) (s : State), let t := strokeBegins x s
    let stay := s.commits.filter fun c => !(c.opcode = opStrokeJoin.code && decide (c.stroke = some (s.stk.scnt + 1#48)))
    ∃ l, t.commits = (match nextStep s with | some a => stay.filter fun c => !overtaken a.1 c | none => stay) ++ l ∧
      (l = [] ∨ endsSecond s = true ∧ l = [{ stroke := some (nextNumber s + 2#48), opcode := opModeSet.code, params := [4#32] }])) ∧
  (∀ (n k : W48) (c : Commit), (isDue n c = true ↔ c.stroke = none ∨ c.stroke = some n) ∧ (c.stroke = some k → (overtaken n c = true ↔ k.toNat ≤ n.toNat)) ∧
    (c.stroke = none → overtaken n c = false)) ∧
  (∀ (n : W48) (d : Int) (al : Bool) (s : State), let t := stepEffects n d al s
    t.commits = s.commits.filter (fun c => !overtaken n c) ∧ counter t evStkStrokeStep 0 = counter s evStkStrokeStep 0 + 1#48 ∧
    counter t evStkCommitDiscard 0 = counter s evStkCommitDiscard 0 + BitVec.ofNat 48 (s.commits.filter (overtaken n)).length ∧
    t.stk.stepCount.toNat = min 65535 (s.stk.stepCount.toNat + 1)) ∧
  (∀ s : State, let due := s.commits.filter (isDue s.stk.scnt)
    (blMoves (List.range 8) s).commits = s.commits ∧ (blMoves (List.range 8) s).stk = s.stk ∧
    commitsRow0 s = (dueOrder due).foldl (fun u c => applyCommit c u) { s with commits := s.commits.filter fun c => !isDue s.stk.scnt c } ∧
    (commitsRow0 s).commits = s.commits.filter fun c => !isDue s.stk.scnt c) ∧
  (∀ l : List Commit, (dueOrder l).filter (fun c => !actsOnObject c) = (inForce l).filter (fun c => !actsOnObject c) ∧ (dueOrder l).filter actsOnObject = (inForce l).filter actsOnObject ∧
    (inForce l).Sublist l ∧ (inForce l).filter (fun c => (writeTarget c).isNone) = l.filter (fun c => (writeTarget c).isNone) ∧
    (inForce l).Pairwise (fun c d => writeTarget c = none ∨ writeTarget c ≠ writeTarget d)) ∧
  (∀ (a b : List Commit) (c : Commit), (∀ d ∈ b, writeTarget d ≠ writeTarget c) → c ∈ dueOrder (a ++ c :: b))

/-- One flipped bit of a stored byte is mended; two flipped data bits, and a slag-marked byte, are delivered with the slag mark. -/
def Obligations.SingleBitErrorsAreMended : Prop :=
  ∀ b : Byte,
    decodeByte b (checkBits b) = ⟨b, false, false⟩ ∧
    (∀ i < 8, decodeByte (b ^^^ BitVec.ofNat 8 (2 ^ i)) (checkBits b) = ⟨b, false, true⟩) ∧
    (∀ j < 6, decodeByte b (checkBits b ^^^ BitVec.ofNat 6 (2 ^ j)) = ⟨b, false, true⟩) ∧
    (∀ i < 8, ∀ k < 8, i ≠ k → (decodeByte (b ^^^ BitVec.ofNat 8 (2 ^ i) ^^^ BitVec.ofNat 8 (2 ^ k)) (checkBits b)).slag = true) ∧
    (decodeByte b (checkBits b ^^^ 0x3F#6)).slag = true ∧
    (∀ i < 8, (decodeByte (b ^^^ BitVec.ofNat 8 (2 ^ i)) (checkBits b ^^^ 0x3F#6)).slag = true) ∧
    (∀ j < 6, (decodeByte b (checkBits b ^^^ 0x3F#6 ^^^ BitVec.ofNat 6 (2 ^ j))).slag = true)

/-- n occurrences of an event add n to its counter modulo 2^48, and to no other but EVT_LOG_OVF. -/
def Obligations.EventsCountModulo48Bits : Prop :=
  ∀ (e : Ev) (inst n : Nat) (s : State),
    (evId e inst ≠ evId evIntEvtLogOvf 0 → counter (note e inst n s) e inst = counter s e inst + BitVec.ofNat 48 n) ∧
    (∀ (f : Ev) (j : Nat), evId f j ≠ evId e inst → evId f j ≠ evId evIntEvtLogOvf 0 → counter (note e inst n s) f j = counter s f j) ∧
    (∀ (f : Ev) (j : Nat), evId f j ≠ evId evIntEvtLogOvf 0 → counter (noteClear e inst s) f j = counter s f j)

/-- Each severe fault forces QUENCH, latches its cause, is recorded, and ends the waiting writes. -/
def Obligations.SevereFaultsForceQuench : Prop :=
  (∀ (f : SevereFault) (s : State), f ≠ .keFail → s.mode.present.contains f = false → inQuench s = false →
    let t := declareFault f s
    (inQuench t = true ∧ t.mode.latched.contains f = true ∧ t.mode.present.contains f = true) ∧
    (t.commits = [] ∧ counter t evStkCommitDiscard 0 = counter s evStkCommitDiscard 0 + BitVec.ofNat 48 s.commits.length) ∧
    ((∀ e < 4, lcEn (txEng t e).cfg = false ∧ lcEn (rxEng t e).cfg = false) ∧ (∀ p < 48, cpEn (cliPort t p) = false) ∧ (∀ p < 12, fpEn (fpCfg t p) = false)) ∧
    ((∀ n, outEnable t n = false ∧ (outOf t n).value = 0) ∧ (∀ l < 8, blEnable (blOf t l).cfg = false ∧ (blOf t l).t0 = none)) ∧
    (t.store.record.getLast?.map fun x => x.code) = some (16 + faultNum f)) ∧
  (∀ s : State, s.mode.present.contains .keFail = false → (declareFault .keFail s).mode.mode = s.mode.mode ∧ (declareFault .keFail s).mode.latched.contains .keFail = true)

/-- The stroke number and the row move only with the clock and with resets. -/
def Obligations.StrokeNumberMovesOnlyAtRow0 : Prop :=
  ∀ s t : State, step s = .next t → t.fused = s.fused ∧ t.pending = s.pending.tail ∧
    ((t.stk.scnt = s.stk.scnt ∧ t.stk.row = s.stk.row)
      ∨ (∃ x l, s.pending = .rowTick x :: l ∧ t.stk.scnt = s.stk.scnt ∧ t.stk.row = s.stk.row + 1)
      ∨ (∃ x l, s.pending = .strokeBoundary x :: l ∧ t.stk.scnt = (match nextStep s with | some a => a.1 | none => s.stk.scnt + 1#48) ∧ t.stk.row = 0)
      ∨ ((∃ n l, s.pending = .rstnLow n :: l ∨ s.pending = .powerLoss n :: l ∨ s.pending = .powerUp :: l ∨ s.pending = .sysRestartPulse :: l)
        ∧ t.stk.scnt = 0#48 ∧ t.stk.row = 0))

/-- Every step keeps the row within the 125 rows of a stroke. -/
def Obligations.RowStaysLegal : Prop :=
  ∀ s t : State, RowLegal s → step s = .next t → RowLegal t

/-- What is fused stays fused: signer slots are programmed once and revoked for good, and only the end of ROLLBACK_ADVANCE moves the fuses. -/
def Obligations.OtpIsWrittenOnce : Prop :=
  ∀ s t : State, step s = .next t → SlotsHold s.boot.slots t.boot.slots
    ∧ (t.boot.fuses = s.boot.fuses ∨ (∃ l, s.pending = .rollbackAdvanceDone :: l) ∧ t.boot.fuses = s.boot.runSvn.toNat)
end

