-- ==== Sys2Proof/Laws/Table.lean ====
section
/-! SUPPORT. Reads after writes of a sparse table, whatever its form, and that its writes keep the canonical form. -/

set_option Elab.async false

namespace Sys2Proof.Machine

theorem tget_filter {α : Type} {d : α} (t : List (Nat × α)) (k j : Nat) :
    tget d (t.filter fun x => x.1 ≠ k) j = if j = k then d else tget d t j := by
  induction t with
  | nil => simp [tget]
  | cons x r ih =>
    obtain ⟨i, w⟩ := x
    by_cases h1 : i = k
    · rw [List.filter_cons_of_neg (by simp [h1]), ih]
      by_cases hj : j = k
      · simp [hj]
      · simp [tget, hj, show i ≠ j by omega]
    · rw [List.filter_cons_of_pos (by simp [h1])]
      by_cases h2 : i = j
      · subst h2; simp [tget, h1]
      · simp only [tget, if_neg h2, ih]

theorem tget_tput {α : Type} {d : α} (t : List (Nat × α)) (k : Nat) (v : α) (j : Nat) (h : ∀ x ∈ t, x.1 ≠ k) :
    tget d (tput t k v) j = if j = k then v else tget d t j := by
  induction t with
  | nil => by_cases hj : j = k <;> simp [tput, tget, hj]; intro hk; exact absurd hk.symm hj
  | cons x r ih =>
    obtain ⟨i, w⟩ := x
    have hi : i ≠ k := h (i, w) (by simp)
    have ih := ih fun x hx => h x (by simp [hx])
    by_cases h1 : i < k
    · by_cases h2 : i = j
      · subst h2; simp [tput, h1, tget, hi]
      · simp [tput, h1, tget, h2, ih]
    · by_cases hj : j = k
      · subst hj; simp [tput, h1, tget]
      · simp [tput, h1, tget, hj, Ne.symm hj]

/-- What a table reads after a write, whatever its form. -/
@[simp] theorem tget_tset {α : Type} [DecidableEq α] {d : α} (t : List (Nat × α)) (k : Nat) (v : α) (j : Nat) :
    tget d (tset d t k v) j = if j = k then v else tget d t j := by
  unfold tset
  by_cases hv : v = d
  · subst hv; simp only [if_true]; exact tget_filter t k j
  · simp only [if_neg hv]
    rw [tget_tput _ _ _ _ (by simp), tget_filter]
    by_cases hj : j = k <;> simp [hj]

@[simp] theorem tget_tmod {α : Type} [DecidableEq α] {d : α} (t : List (Nat × α)) (k : Nat) (f : α → α) (j : Nat) :
    tget d (tmod d t k f) j = if j = k then f (tget d t k) else tget d t j := tget_tset t k _ j

/-- What a table reads after a write of several entries. -/
theorem tget_tsetMany {α : Type} [DecidableEq α] {d : α} (t : List (Nat × α)) (k : Nat) (vs : List α) (j : Nat) :
    tget d (tsetMany d t k vs) j = if k ≤ j ∧ j < k + vs.length then vs.getD (j - k) d else tget d t j := by
  induction vs generalizing t k with
  | nil => simp [tsetMany, show ¬(k ≤ j ∧ j < k) by omega]
  | cons v r ih =>
    rw [tsetMany, ih, tget_tset]
    by_cases h1 : k + 1 ≤ j ∧ j < k + 1 + r.length
    · rw [if_pos h1, if_pos (by simp; omega), show j - k = (j - (k + 1)) + 1 by omega]; simp
    · rw [if_neg h1]
      by_cases h2 : j = k
      · subst h2; simp
      · rw [if_neg h2, if_neg (by simp; omega)]

/-! ### The canonical form -/

theorem tsorted_mono {α : Type} [DecidableEq α] {d : α} {a b : Nat} {t : List (Nat × α)} (hab : a ≤ b) (h : tsorted d b t = true) : tsorted d a t = true := by
  cases t with
  | nil => rfl
  | cons x r => obtain ⟨j, v⟩ := x; simp [tsorted] at h ⊢; exact ⟨⟨by omega, h.1.2⟩, h.2⟩

theorem tsorted_filter {α : Type} [DecidableEq α] {d : α} {lo : Nat} {t : List (Nat × α)} (p : Nat × α → Bool) (h : tsorted d lo t = true) :
    tsorted d lo (t.filter p) = true := by
  induction t generalizing lo with
  | nil => rfl
  | cons x r ih =>
    obtain ⟨j, v⟩ := x
    simp only [tsorted, Bool.and_eq_true, decide_eq_true_eq] at h
    rw [List.filter_cons]
    split
    · simp [tsorted, h.1, ih h.2]
    · exact tsorted_mono (by omega) (ih h.2)

theorem tsorted_tput {α : Type} [DecidableEq α] {d v : α} {lo k : Nat} {t : List (Nat × α)} (h : tsorted d lo t = true) (hk : lo ≤ k) (hv : v ≠ d)
    (hn : ∀ x ∈ t, x.1 ≠ k) : tsorted d lo (tput t k v) = true := by
  induction t generalizing lo with
  | nil => simp [tput, tsorted, hv, hk]
  | cons x r ih =>
    obtain ⟨j, w⟩ := x
    have hj : j ≠ k := hn (j, w) (by simp)
    simp only [tsorted, Bool.and_eq_true, decide_eq_true_eq] at h
    by_cases h1 : j < k
    · simp [tput, h1, tsorted, h.1, ih h.2 (by omega) fun x hx => hn x (by simp [hx])]
    · simp [tput, h1, tsorted, hk, hv, h.1.2, h.2]; omega

/-- A write keeps the canonical form. -/
theorem tset_wf {α : Type} [DecidableEq α] {d : α} {t : List (Nat × α)} (k : Nat) (v : α) (h : twf d t = true) : twf d (tset d t k v) = true := by
  unfold tset
  dsimp only
  split
  · exact tsorted_filter _ h
  · exact tsorted_tput (tsorted_filter _ h) (Nat.zero_le k) ‹_› (by simp)

theorem tsetMany_wf {α : Type} [DecidableEq α] {d : α} {t : List (Nat × α)} (k : Nat) (vs : List α) (h : twf d t = true) : twf d (tsetMany d t k vs) = true := by
  induction vs generalizing t k with
  | nil => exact h
  | cons v r ih => exact ih (k + 1) (tset_wf k v h)

end Sys2Proof.Machine
end

