-- ==== Sys2Proof/Laws/Command.lean ====
section
/-! SUPPORT. What the checks of a command say together, and the ways in which a command ends. -/

set_option Elab.async false

namespace Sys2Proof.Machine

theorem firstFail_eq_none (l : List Check) : firstFail l = none ↔ ∀ c ∈ l, c = none := by
  induction l with
  | nil => simp [firstFail]
  | cons c l ih => cases c <;> simp [firstFail, ih]

theorem lowestFail_eq_none (l : List Check) : lowestFail l = none ↔ ∀ c ∈ l, c = none := by
  induction l with
  | nil => simp [lowestFail]
  | cons c l ih =>
    cases c with
    | none => simp [lowestFail, ih]
    | some r => cases h : lowestFail l <;> simp [lowestFail, h]

@[simp] theorem need_eq_none (b : Bool) (r : Rej) : need b r = none ↔ b = true := by cases b <;> simp [need]
@[simp] theorem wordOk_eq_none (i : Nat) (b : Bool) : wordOk i b = none ↔ b = true := need_eq_none _ _
@[simp] theorem causeOk_eq_none (i : Nat) (b : Bool) : causeOk i b = none ↔ b = true := need_eq_none _ _
@[simp] theorem countIs_eq_none (n : Nat) (rq : Req) : countIs n rq = none ↔ rq.params.length = n := by simp [countIs]
@[simp] theorem countIn_eq_none (a b : Nat) (rq : Req) : countIn a b rq = none ↔ a ≤ rq.params.length ∧ rq.params.length ≤ b := by simp [countIn]
@[simp] theorem onlyBits_eq_none (i : Nat) (m : W32) (rq : Req) : onlyBits i m rq = none ↔ rq.p i &&& ~~~m = 0#32 := by simp [onlyBits]

theorem need_of_false (b : Bool) (r : Rej) (h : b = false) : need b r = some r := by simp [need, h]

/-- A command passes its checks where each of them passes. -/
theorem refusal_eq_none (o : OpInfo) (rq : Req) (k : Checks) (s : State) :
    refusal o rq k s = none ↔ levelCheck o rq s = none ∧ (∀ c ∈ k.role, c = none) ∧ modeCheck o s = none ∧ (∀ c ∈ k.unit, c = none) ∧ headerCheck o rq s = none
      ∧ macCheck rq = none ∧ (∀ c ∈ k.par, c = none) ∧ (∀ c ∈ k.late, c = none) ∧ tableCheck rq s = none := by
  unfold refusal
  rw [firstFail_eq_none]
  simp only [List.mem_append, lowestFail_eq_none, List.mem_cons, or_imp, forall_and, forall_eq]
  tauto

/-- Step 7 comes first: a packet whose level is too low is refused whatever else is wrong with it. -/
theorem refusal_of_low_level (o : OpInfo) (rq : Req) (k : Checks) (s : State) (h : packetLevel rq s < opcodeLevel o s) :
    refusal o rq k s = some { st := .notPermitted } := by
  simp [refusal, levelCheck, need, firstFail, show ¬opcodeLevel o s ≤ packetLevel rq s by omega]

theorem command_of_dead (o : OpInfo) (rq : Req) (k : Checks) (s : State) (eff : State → Answer) (h : alive s = false) : command o rq k s eff = s := by
  simp [command, h]

theorem command_of_refusal (o : OpInfo) (rq : Req) (k : Checks) (s : State) (eff : State → Answer) (r : Rej) (ha : alive s = true) (h : refusal o rq k s = some r) :
    command o rq k s eff = reply o.code rq (keyOf rq s) r [] s := by
  simp [command, ha, h]

theorem command_of_pass (o : OpInfo) (rq : Req) (k : Checks) (s : State) (eff : State → Answer) (ha : alive s = true) (hm : s.mode.miscompare = false)
    (h : refusal o rq k s = none) : command o rq k s eff = answer o rq s (eff (accepted rq s)) := by
  simp [command, ha, hm, h]

theorem headerCheck_of_admitted {o : OpInfo} {rq : Req} {s : State} (h : Admitted o rq s) : headerCheck o rq s = none := by
  obtain ⟨-, -, -, -, -, h1, h2, h3, -⟩ := h
  rw [headerCheck, firstFail_eq_none]
  cases hc : rq.cmt
  · simp [h3, h2 hc, hi16, lo32]
  · have := h1 hc
    simp [h3, this.1, this.2.2.1]

/-- A command that is admitted and passes the checks of its own ends as its effect answers. -/
theorem command_of_admitted {o : OpInfo} {rq : Req} {s : State} (k : Checks) (eff : State → Answer) (h : Admitted o rq s) (hr : ∀ c ∈ k.role, c = none)
    (hu : ∀ c ∈ k.unit, c = none) (hp : ∀ c ∈ k.par, c = none) (hl : ∀ c ∈ k.late, c = none) : command o rq k s eff = answered o rq s eff := by
  have hh := headerCheck_of_admitted h
  obtain ⟨h1, h2, h3, h4, h5, h6, h7, -, h9⟩ := h
  refine command_of_pass _ _ _ _ _ h1 h2 ((refusal_eq_none _ _ _ _).2 ⟨by simp [levelCheck, h3], hr, ?_, hu, hh, ?_, hp, hl, ?_⟩)
  · unfold modeCheck
    cases hb : s.boot.rom <;> cases hq : inQuench s <;> simp_all
  · unfold macCheck
    cases hm : rq.mac <;> simp_all
  · unfold tableCheck
    cases hc : rq.cmt
    · rfl
    · have := h6 hc
      rw [if_pos rfl, firstFail_eq_none]; simp [this]

/-! ### The state in which a sequence number has been accepted: only the key slots differ -/

@[simp] theorem accepted_pending (rq : Req) (s : State) : (accepted rq s).pending = s.pending := by unfold accepted; split <;> rfl
@[simp] theorem accepted_commits (rq : Req) (s : State) : (accepted rq s).commits = s.commits := by unfold accepted; split <;> rfl
@[simp] theorem accepted_free (rq : Req) (s : State) : (accepted rq s).free = s.free := by unfold accepted; split <;> rfl
@[simp] theorem accepted_otn (rq : Req) (s : State) : (accepted rq s).otn = s.otn := by unfold accepted; split <;> rfl
@[simp] theorem accepted_fused (rq : Req) (s : State) : (accepted rq s).fused = s.fused := by unfold accepted; split <;> rfl
@[simp] theorem accepted_pins (rq : Req) (s : State) : (accepted rq s).pins = s.pins := by unfold accepted; split <;> rfl
@[simp] theorem accepted_stk (rq : Req) (s : State) : (accepted rq s).stk = s.stk := by unfold accepted; split <;> rfl
@[simp] theorem accepted_clk (rq : Req) (s : State) : (accepted rq s).clk = s.clk := by unfold accepted; split <;> rfl
@[simp] theorem accepted_root (rq : Req) (s : State) : (accepted rq s).root = s.root := by unfold accepted; split <;> rfl
@[simp] theorem accepted_cmd (rq : Req) (s : State) : (accepted rq s).cmd = s.cmd := by unfold accepted; split <;> rfl
@[simp] theorem accepted_ev (rq : Req) (s : State) : (accepted rq s).ev = s.ev := by unfold accepted; split <;> rfl
@[simp] theorem accepted_anvil (rq : Req) (s : State) : (accepted rq s).anvil = s.anvil := by unfold accepted; split <;> rfl
@[simp] theorem accepted_rows (rq : Req) (s : State) : (accepted rq s).rows = s.rows := by unfold accepted; split <;> rfl
@[simp] theorem accepted_cont (rq : Req) (s : State) : (accepted rq s).cont = s.cont := by unfold accepted; split <;> rfl
@[simp] theorem accepted_diag (rq : Req) (s : State) : (accepted rq s).diag = s.diag := by unfold accepted; split <;> rfl
@[simp] theorem accepted_prot (rq : Req) (s : State) : (accepted rq s).prot = s.prot := by unfold accepted; split <;> rfl
@[simp] theorem accepted_fab (rq : Req) (s : State) : (accepted rq s).fab = s.fab := by unfold accepted; split <;> rfl
@[simp] theorem accepted_tx (rq : Req) (s : State) : (accepted rq s).tx = s.tx := by unfold accepted; split <;> rfl
@[simp] theorem accepted_rx (rq : Req) (s : State) : (accepted rq s).rx = s.rx := by unfold accepted; split <;> rfl
@[simp] theorem accepted_cli (rq : Req) (s : State) : (accepted rq s).cli = s.cli := by unfold accepted; split <;> rfl
@[simp] theorem accepted_grm (rq : Req) (s : State) : (accepted rq s).grm = s.grm := by unfold accepted; split <;> rfl
@[simp] theorem accepted_sec (rq : Req) (s : State) : (accepted rq s).sec = s.sec := by unfold accepted; split <;> rfl
@[simp] theorem accepted_opt (rq : Req) (s : State) : (accepted rq s).opt = s.opt := by unfold accepted; split <;> rfl
@[simp] theorem accepted_mode (rq : Req) (s : State) : (accepted rq s).mode = s.mode := by unfold accepted; split <;> rfl
@[simp] theorem accepted_boot (rq : Req) (s : State) : (accepted rq s).boot = s.boot := by unfold accepted; split <;> rfl
@[simp] theorem accepted_store (rq : Req) (s : State) : (accepted rq s).store = s.store := by unfold accepted; split <;> rfl
@[simp] theorem accepted_pm (rq : Req) (s : State) : (accepted rq s).pm = s.pm := by unfold accepted; split <;> rfl
@[simp] theorem accepted_integ (rq : Req) (s : State) : (accepted rq s).integ = s.integ := by unfold accepted; split <;> rfl

/-- A new sequence number changes no key and no level. -/
@[simp] theorem akOf_accepted (rq : Req) (s : State) (n : Nat) :
    (akOf (accepted rq s) n).key = (akOf s n).key ∧ (akOf (accepted rq s) n).level = (akOf s n).level := by
  unfold accepted akOf
  split
  · simp only [State.onKeys, tget_tmod]
    split
    · subst_vars; split <;> exact ⟨rfl, rfl⟩
    · exact ⟨rfl, rfl⟩
  · exact ⟨rfl, rfl⟩

@[simp] theorem provisioned_accepted (rq : Req) (s : State) : provisioned (accepted rq s) = provisioned s := by simp [provisioned]

@[simp] theorem losesAdmin_accepted (a l : Nat) (rq : Req) (s : State) : losesAdmin a l (accepted rq s) = losesAdmin a l s := by simp [losesAdmin]

@[simp] theorem accepted_tk (rq : Req) (s : State) : (accepted rq s).keys.tk = s.keys.tk := by unfold accepted; split <;> rfl
@[simp] theorem accepted_pk (rq : Req) (s : State) : (accepted rq s).keys.pk = s.keys.pk := by unfold accepted; split <;> rfl

@[simp] theorem tkOf_accepted (rq : Req) (s : State) (n : Nat) : tkOf (accepted rq s) n = tkOf s n := by simp [tkOf]
@[simp] theorem wrapKey_accepted (rq : Req) (s : State) (n : Nat) : wrapKey (accepted rq s) n = wrapKey s n := by simp [wrapKey]
@[simp] theorem ctxOf_accepted (rq : Req) (s : State) (k : Nat) : ctxOf (accepted rq s) k = ctxOf s k := by simp [ctxOf]
@[simp] theorem keySlotFree_accepted (rq : Req) (s : State) (k : Nat) : keySlotFree (accepted rq s) k = keySlotFree s k := by
  simp [keySlotFree, switchPending, waiting, slotBusy]

@[simp] theorem shadowTable_accepted (rq : Req) (s : State) : shadowTable (accepted rq s) = shadowTable s := by simp [shadowTable]
@[simp] theorem pendBank_accepted (rq : Req) (s : State) : pendBank (accepted rq s) = pendBank s := by simp [pendBank]
@[simp] theorem baseMode_accepted (rq : Req) (s : State) : baseMode (accepted rq s) = baseMode s := by simp [baseMode]
@[simp] theorem backDiffers_accepted (t i n : Nat) (rq : Req) (s : State) : backDiffers t i n (accepted rq s) = backDiffers t i n s := by
  simp only [backDiffers, baseMode_accepted, accepted_anvil]

@[simp] theorem answered_done (o : OpInfo) (rq : Req) (s : State) (res : State → List W32) (eff : State → State) :
    answered o rq s (fun s => .done (eff s) (res s)) = completed o rq s res eff := rfl
@[simp] theorem answered_wait (o : OpInfo) (rq : Req) (s : State) (eff : State → State) : answered o rq s (fun s => .wait (eff s)) = runsOn rq s eff := rfl
@[simp] theorem answered_commitOnly (o : OpInfo) (rq : Req) (s : State) : answered o rq s (commitOnly o rq) = scheduled o rq s := rfl

/-! ### What a command and its reply can do -/

/-- An event changes the counters and the log, nothing else. -/
theorem note_eq (e : Ev) (inst n : Nat) (s : State) : note e inst n s = { s with ev := (note e inst n s).ev } := by
  unfold note logEvent
  dsimp only
  (repeat' split) <;> rfl

/-- A change of FILL can raise a level event, at once or at the second change of its clock cycle (R81). -/
theorem levelEvent_eq (q b a : Nat) (s : State) :
    levelEvent q b a s = s.onCmd fun v =>
      { v with intStatus := (levelEvent q b a s).cmd.intStatus, joined := (levelEvent q b a s).cmd.joined } := by
  unfold levelEvent levelCross raiseInt setCycle
  (repeat' split) <;> rfl

/-- A reply goes to a reply queue, or waits for room there; it can raise a level event, or be dropped and counted. -/
theorem rqPush_eq (q : Nat) (p : List W32) (s : State) :
    rqPush q p s = { s with
      cmd := { s.cmd with
        rq := (rqPush q p s).cmd.rq
        intStatus := (rqPush q p s).cmd.intStatus
        late := (rqPush q p s).cmd.late
        joined := (rqPush q p s).cmd.joined }
      ev := (rqPush q p s).ev } := by
  unfold rqPush
  dsimp only
  split
  · unfold flushedPush; rw [note_eq]; rfl
  split
  · split
    · rw [note_eq]
    · rfl
  · split
    · rw [levelEvent_eq]; rfl
    · rfl

theorem reply_eq (opcode : Nat) (rq : Req) (key : Option (BitVec 256)) (r : Rej) (res : List W32) (s : State) :
    reply opcode rq key r res s = { s with
      cmd := { s.cmd with
        rq := (reply opcode rq key r res s).cmd.rq
        intStatus := (reply opcode rq key r res s).cmd.intStatus
        late := (reply opcode rq key r res s).cmd.late
        joined := (reply opcode rq key r res s).cmd.joined }
      ev := (reply opcode rq key r res s).ev } := by
  unfold reply
  split
  · rfl
  · exact rqPush_eq _ _ _

/-- Where no fault has met the command in progress, a command does nothing, is refused with a reply, or ends as its effect answers. -/
theorem command_cases (o : OpInfo) (rq : Req) (k : Checks) (s : State) (eff : State → Answer) (hm : s.mode.miscompare = false) :
    command o rq k s eff = s ∨ (∃ r, refusal o rq k s = some r ∧ command o rq k s eff = reply o.code rq (keyOf rq s) r [] s)
      ∨ command o rq k s eff = answer o rq s (eff (accepted rq s)) := by
  unfold command
  split
  · exact .inl rfl
  · split
    · exact .inr (.inl ⟨_, ‹_›, rfl⟩)
    · simp [hm]

end Sys2Proof.Machine
end

