-- ==== Sys2Proof/Laws/CommandForm.lean ====
section
/-! SUPPORT. Every command of the opcode tables is its checks and its effect (R95); only the opcodes of `RanksAtStep7` check a role. -/

set_option Elab.async false

namespace Sys2Proof.Machine

/-- The command of an opcode is `command` of that opcode. -/
def HasForm (e : OpInfo × (Req → Instr)) : Prop :=
  ∀ (rq : Req) (s : State), ∃ k eff, exec (e.2 rq) s = .next (command e.1 rq k s eff) ∧ (RanksAtStep7 e.1 ∨ k.role = [])

theorem echo_form : HasForm (opEcho, .echo) := fun rq s => by
  unfold exec execEcho ok doEcho; exact ⟨_, _, rfl, .inr rfl⟩
theorem capsRead_form : HasForm (opCapsRead, .capsRead) := fun rq s => by
  unfold exec execCapsRead ok doCapsRead; exact ⟨_, _, rfl, .inr rfl⟩
theorem sysStatusRead_form : HasForm (opSysStatusRead, .sysStatusRead) := fun rq s => by
  unfold exec execSysStatusRead ok doSysStatusRead; exact ⟨_, _, rfl, .inr rfl⟩
theorem queueStatusRead_form : HasForm (opQueueStatusRead, .queueStatusRead) := fun rq s => by
  unfold exec execQueueStatusRead ok doQueueStatusRead; exact ⟨_, _, rfl, .inr rfl⟩
theorem queueCfg_form : HasForm (opQueueCfg, .queueCfg) := fun rq s => by
  unfold exec execQueueCfg ok doQueueCfg; exact ⟨_, _, rfl, .inr rfl⟩
theorem queueFlush_form : HasForm (opQueueFlush, .queueFlush) := fun rq s => by
  unfold exec execQueueFlush ok doQueueFlush; exact ⟨_, _, rfl, .inr rfl⟩
theorem accessPolicyRead_form : HasForm (opAccessPolicyRead, .accessPolicyRead) := fun rq s => by
  unfold exec execAccessPolicyRead ok doAccessPolicyRead; exact ⟨_, _, rfl, .inr rfl⟩
theorem accessPolicyWrite_form : HasForm (opAccessPolicyWrite, .accessPolicyWrite) := fun rq s => by
  unfold exec execAccessPolicyWrite ok doAccessPolicyWrite; exact ⟨_, _, rfl, .inr rfl⟩
theorem intClear_form : HasForm (opIntClear, .intClear) := fun rq s => by
  unfold exec execIntClear ok doIntClear; exact ⟨_, _, rfl, .inr rfl⟩

theorem IsCommandSystem.form {e : OpInfo × (Req → Instr)} (h : IsCommandSystem e) : HasForm e := by
  simp only [IsCommandSystem, List.mem_cons, List.not_mem_nil, or_false] at h
  rcases h with rfl | rfl | rfl | rfl | rfl | rfl | rfl | rfl | rfl
  exacts [echo_form, capsRead_form, sysStatusRead_form, queueStatusRead_form, queueCfg_form, queueFlush_form, accessPolicyRead_form,
    accessPolicyWrite_form, intClear_form]

theorem strokeRead_form : HasForm (opStrokeRead, .strokeRead) := fun rq s => by
  unfold exec execStrokeRead ok doStrokeRead; exact ⟨_, _, rfl, .inr rfl⟩
theorem strokeSet_form : HasForm (opStrokeSet, .strokeSet) := fun rq s => by
  unfold exec execStrokeSet ok doStrokeSet; exact ⟨_, _, rfl, .inl (by simp [RanksAtStep7])⟩
theorem strokeCfg_form : HasForm (opStrokeCfg, .strokeCfg) := fun rq s => by
  unfold exec execStrokeCfg ok doStrokeCfg; exact ⟨_, _, rfl, .inr rfl⟩
theorem strokeJoin_form : HasForm (opStrokeJoin, .strokeJoin) := fun rq s => by
  unfold exec execStrokeJoin ok doStrokeJoin; exact ⟨_, _, rfl, .inr rfl⟩
theorem refCfg_form : HasForm (opRefCfg, .refCfg) := fun rq s => by
  unfold exec execRefCfg ok doRefCfg; exact ⟨_, _, rfl, .inr rfl⟩
theorem refStatusRead_form : HasForm (opRefStatusRead, .refStatusRead) := fun rq s => by
  unfold exec execRefStatusRead ok doRefStatusRead; exact ⟨_, _, rfl, .inr rfl⟩
theorem refForce_form : HasForm (opRefForce, .refForce) := fun rq s => by
  unfold exec execRefForce ok doRefForce; exact ⟨_, _, rfl, .inr rfl⟩
theorem clkCfg_form : HasForm (opClkCfg, .clkCfg) := fun rq s => by
  unfold exec execClkCfg ok doClkCfg; exact ⟨_, _, rfl, .inr rfl⟩
theorem commitListRead_form : HasForm (opCommitListRead, .commitListRead) := fun rq s => by
  unfold exec execCommitListRead ok doCommitListRead; exact ⟨_, _, rfl, .inr rfl⟩
theorem commitCancel_form : HasForm (opCommitCancel, .commitCancel) := fun rq s => by
  unfold exec execCommitCancel ok doCommitCancel; exact ⟨_, _, rfl, .inr rfl⟩

theorem IsCommandStrokes.form {e : OpInfo × (Req → Instr)} (h : IsCommandStrokes e) : HasForm e := by
  simp only [IsCommandStrokes, List.mem_cons, List.not_mem_nil, or_false] at h
  rcases h with rfl | rfl | rfl | rfl | rfl | rfl | rfl | rfl | rfl | rfl
  exacts [strokeRead_form, strokeSet_form, strokeCfg_form, strokeJoin_form, refCfg_form, refStatusRead_form, refForce_form, clkCfg_form,
    commitListRead_form, commitCancel_form]

theorem mapWrite_form : HasForm (opMapWrite, .mapWrite) := fun rq s => by
  unfold exec execMapWrite ok doMapWrite; exact ⟨_, _, rfl, .inr rfl⟩
theorem mapCommit_form : HasForm (opMapCommit, .mapCommit) := fun rq s => by
  unfold exec execMapCommit ok doMapCommit; exact ⟨_, _, rfl, .inr rfl⟩
theorem mapSync_form : HasForm (opMapSync, .mapSync) := fun rq s => by
  unfold exec execMapSync ok doMapSync; exact ⟨_, _, rfl, .inr rfl⟩
theorem mapRead_form : HasForm (opMapRead, .mapRead) := fun rq s => by
  unfold exec execMapRead ok doMapRead; exact ⟨_, _, rfl, .inr rfl⟩
theorem mapStatusRead_form : HasForm (opMapStatusRead, .mapStatusRead) := fun rq s => by
  unfold exec execMapStatusRead ok doMapStatusRead; exact ⟨_, _, rfl, .inr rfl⟩

theorem IsCommandAnvil.form {e : OpInfo × (Req → Instr)} (h : IsCommandAnvil e) : HasForm e := by
  simp only [IsCommandAnvil, List.mem_cons, List.not_mem_nil, or_false] at h
  rcases h with rfl | rfl | rfl | rfl | rfl
  exacts [mapWrite_form, mapCommit_form, mapSync_form, mapRead_form, mapStatusRead_form]

theorem contCfg_form : HasForm (opContCfg, .contCfg) := fun rq s => by
  unfold exec execContCfg ok doContCfg; exact ⟨_, _, rfl, .inr rfl⟩
theorem contRead_form : HasForm (opContRead, .contRead) := fun rq s => by
  unfold exec execContRead ok doContRead; exact ⟨_, _, rfl, .inr rfl⟩
theorem contStatusRead_form : HasForm (opContStatusRead, .contStatusRead) := fun rq s => by
  unfold exec execContStatusRead ok doContStatusRead; exact ⟨_, _, rfl, .inr rfl⟩
theorem baCfg_form : HasForm (opBaCfg, .baCfg) := fun rq s => by
  unfold exec execBaCfg ok doBaCfg; exact ⟨_, _, rfl, .inr rfl⟩
theorem baRead_form : HasForm (opBaRead, .baRead) := fun rq s => by
  unfold exec execBaRead ok doBaRead; exact ⟨_, _, rfl, .inr rfl⟩
theorem testRead_form : HasForm (opTestRead, .testRead) := fun rq s => by
  unfold exec execTestRead ok doTestRead; exact ⟨_, _, rfl, .inr rfl⟩
theorem errInject_form : HasForm (opErrInject, .errInject) := fun rq s => by
  unfold exec execErrInject ok doErrInject; exact ⟨_, _, rfl, .inr rfl⟩

theorem IsCommandContainers.form {e : OpInfo × (Req → Instr)} (h : IsCommandContainers e) : HasForm e := by
  simp only [IsCommandContainers, List.mem_cons, List.not_mem_nil, or_false] at h
  rcases h with rfl | rfl | rfl | rfl | rfl | rfl | rfl
  exacts [contCfg_form, contRead_form, contStatusRead_form, baCfg_form, baRead_form, testRead_form, errInject_form]

theorem pgCfg_form : HasForm (opPgCfg, .pgCfg) := fun rq s => by
  unfold exec execPgCfg ok doPgCfg; exact ⟨_, _, rfl, .inr rfl⟩
theorem pgRead_form : HasForm (opPgRead, .pgRead) := fun rq s => by
  unfold exec execPgRead ok doPgRead; exact ⟨_, _, rfl, .inr rfl⟩
theorem pgStatusRead_form : HasForm (opPgStatusRead, .pgStatusRead) := fun rq s => by
  unfold exec execPgStatusRead ok doPgStatusRead; exact ⟨_, _, rfl, .inl (by simp [RanksAtStep7])⟩
theorem pgCmd_form : HasForm (opPgCmd, .pgCmd) := fun rq s => by
  unfold exec execPgCmd ok doPgCmd; exact ⟨_, _, rfl, .inr rfl⟩
theorem alnRealign_form : HasForm (opAlnRealign, .alnRealign) := fun rq s => by
  unfold exec execAlnRealign ok doAlnRealign; exact ⟨_, _, rfl, .inr rfl⟩
theorem alnStatusRead_form : HasForm (opAlnStatusRead, .alnStatusRead) := fun rq s => by
  unfold exec execAlnStatusRead ok doAlnStatusRead; exact ⟨_, _, rfl, .inr rfl⟩
theorem pgSummaryRead_form : HasForm (opPgSummaryRead, .pgSummaryRead) := fun rq s => by
  unfold exec execPgSummaryRead ok doPgSummaryRead; exact ⟨_, _, rfl, .inr rfl⟩

theorem IsCommandProtection.form {e : OpInfo × (Req → Instr)} (h : IsCommandProtection e) : HasForm e := by
  simp only [IsCommandProtection, List.mem_cons, List.not_mem_nil, or_false] at h
  rcases h with rfl | rfl | rfl | rfl | rfl | rfl | rfl
  exacts [pgCfg_form, pgRead_form, pgStatusRead_form, pgCmd_form, alnRealign_form, alnStatusRead_form, pgSummaryRead_form]

theorem fabCfg_form : HasForm (opFabCfg, .fabCfg) := fun rq s => by
  unfold exec execFabCfg ok doFabCfg; exact ⟨_, _, rfl, .inr rfl⟩
theorem fabStatusRead_form : HasForm (opFabStatusRead, .fabStatusRead) := fun rq s => by
  unfold exec execFabStatusRead ok doFabStatusRead; exact ⟨_, _, rfl, .inr rfl⟩
theorem fabPortCfg_form : HasForm (opFabPortCfg, .fabPortCfg) := fun rq s => by
  unfold exec execFabPortCfg ok doFabPortCfg; exact ⟨_, _, rfl, .inr rfl⟩
theorem fabPortStatusRead_form : HasForm (opFabPortStatusRead, .fabPortStatusRead) := fun rq s => by
  unfold exec execFabPortStatusRead ok doFabPortStatusRead; exact ⟨_, _, rfl, .inr rfl⟩
theorem fabRouteRead_form : HasForm (opFabRouteRead, .fabRouteRead) := fun rq s => by
  unfold exec execFabRouteRead ok doFabRouteRead; exact ⟨_, _, rfl, .inr rfl⟩
theorem fabLsdbRead_form : HasForm (opFabLsdbRead, .fabLsdbRead) := fun rq s => by
  unfold exec execFabLsdbRead ok doFabLsdbRead; exact ⟨_, _, rfl, .inr rfl⟩
theorem fabPathSet_form : HasForm (opFabPathSet, .fabPathSet) := fun rq s => by
  unfold exec execFabPathSet ok doFabPathSet; exact ⟨_, _, rfl, .inr rfl⟩

theorem IsCommandFabric.form {e : OpInfo × (Req → Instr)} (h : IsCommandFabric e) : HasForm e := by
  simp only [IsCommandFabric, List.mem_cons, List.not_mem_nil, or_false] at h
  rcases h with rfl | rfl | rfl | rfl | rfl | rfl | rfl
  exacts [fabCfg_form, fabStatusRead_form, fabPortCfg_form, fabPortStatusRead_form, fabRouteRead_form, fabLsdbRead_form, fabPathSet_form]

theorem txCfg_form : HasForm (opTxCfg, .txCfg) := fun rq s => by
  unfold exec execTxCfg ok doTxCfg; exact ⟨_, _, rfl, .inr rfl⟩
theorem txRead_form : HasForm (opTxRead, .txRead) := fun rq s => by
  unfold exec execTxRead ok doTxRead; exact ⟨_, _, rfl, .inr rfl⟩
theorem txStatusRead_form : HasForm (opTxStatusRead, .txStatusRead) := fun rq s => by
  unfold exec execTxStatusRead ok doTxStatusRead; exact ⟨_, _, rfl, .inr rfl⟩
theorem txPreemph_form : HasForm (opTxPreemph, .txPreemph) := fun rq s => by
  unfold exec execTxPreemph ok doTxPreemph; exact ⟨_, _, rfl, .inr rfl⟩
theorem txPreemphRead_form : HasForm (opTxPreemphRead, .txPreemphRead) := fun rq s => by
  unfold exec execTxPreemphRead ok doTxPreemphRead; exact ⟨_, _, rfl, .inr rfl⟩
theorem lineBondCfg_form : HasForm (opLineBondCfg, .lineBondCfg) := fun rq s => by
  unfold exec execLineBondCfg ok doLineBondCfg; exact ⟨_, _, rfl, .inr rfl⟩
theorem txCalCfg_form : HasForm (opTxCalCfg, .txCalCfg) := fun rq s => by
  unfold exec execTxCalCfg ok doTxCalCfg; exact ⟨_, _, rfl, .inr rfl⟩
theorem txCalRead_form : HasForm (opTxCalRead, .txCalRead) := fun rq s => by
  unfold exec execTxCalRead ok doTxCalRead; exact ⟨_, _, rfl, .inr rfl⟩

theorem IsCommandLineTx.form {e : OpInfo × (Req → Instr)} (h : IsCommandLineTx e) : HasForm e := by
  simp only [IsCommandLineTx, List.mem_cons, List.not_mem_nil, or_false] at h
  rcases h with rfl | rfl | rfl | rfl | rfl | rfl | rfl | rfl
  exacts [txCfg_form, txRead_form, txStatusRead_form, txPreemph_form, txPreemphRead_form, lineBondCfg_form, txCalCfg_form, txCalRead_form]

theorem rxCfg_form : HasForm (opRxCfg, .rxCfg) := fun rq s => by
  unfold exec execRxCfg ok doRxCfg; exact ⟨_, _, rfl, .inr rfl⟩
theorem rxRead_form : HasForm (opRxRead, .rxRead) := fun rq s => by
  unfold exec execRxRead ok doRxRead; exact ⟨_, _, rfl, .inr rfl⟩
theorem rxStatusRead_form : HasForm (opRxStatusRead, .rxStatusRead) := fun rq s => by
  unfold exec execRxStatusRead ok doRxStatusRead; exact ⟨_, _, rfl, .inr rfl⟩
theorem rxQualityRead_form : HasForm (opRxQualityRead, .rxQualityRead) := fun rq s => by
  unfold exec execRxQualityRead ok doRxQualityRead; exact ⟨_, _, rfl, .inr rfl⟩
theorem rxCalRead_form : HasForm (opRxCalRead, .rxCalRead) := fun rq s => by
  unfold exec execRxCalRead ok doRxCalRead; exact ⟨_, _, rfl, .inr rfl⟩
theorem rxReacquire_form : HasForm (opRxReacquire, .rxReacquire) := fun rq s => by
  unfold exec execRxReacquire ok doRxReacquire; exact ⟨_, _, rfl, .inr rfl⟩

theorem IsCommandLineRx.form {e : OpInfo × (Req → Instr)} (h : IsCommandLineRx e) : HasForm e := by
  simp only [IsCommandLineRx, List.mem_cons, List.not_mem_nil, or_false] at h
  rcases h with rfl | rfl | rfl | rfl | rfl | rfl
  exacts [rxCfg_form, rxRead_form, rxStatusRead_form, rxQualityRead_form, rxCalRead_form, rxReacquire_form]

theorem lineOhCfg_form : HasForm (opLineOhCfg, .lineOhCfg) := fun rq s => by
  unfold exec execLineOhCfg ok doLineOhCfg; exact ⟨_, _, rfl, .inr rfl⟩
theorem lineOhRead_form : HasForm (opLineOhRead, .lineOhRead) := fun rq s => by
  unfold exec execLineOhRead ok doLineOhRead; exact ⟨_, _, rfl, .inr rfl⟩
theorem lineTtiWrite_form : HasForm (opLineTtiWrite, .lineTtiWrite) := fun rq s => by
  unfold exec execLineTtiWrite ok doLineTtiWrite; exact ⟨_, _, rfl, .inr rfl⟩
theorem lineTtiRead_form : HasForm (opLineTtiRead, .lineTtiRead) := fun rq s => by
  unfold exec execLineTtiRead ok doLineTtiRead; exact ⟨_, _, rfl, .inr rfl⟩
theorem lineOtnStatusRead_form : HasForm (opLineOtnStatusRead, .lineOtnStatusRead) := fun rq s => by
  unfold exec execLineOtnStatusRead ok doLineOtnStatusRead; exact ⟨_, _, rfl, .inr rfl⟩
theorem lineFecStatusRead_form : HasForm (opLineFecStatusRead, .lineFecStatusRead) := fun rq s => by
  unfold exec execLineFecStatusRead ok doLineFecStatusRead; exact ⟨_, _, rfl, .inr rfl⟩
theorem lineRealign_form : HasForm (opLineRealign, .lineRealign) := fun rq s => by
  unfold exec execLineRealign ok doLineRealign; exact ⟨_, _, rfl, .inr rfl⟩

theorem IsCommandLineOtn.form {e : OpInfo × (Req → Instr)} (h : IsCommandLineOtn e) : HasForm e := by
  simp only [IsCommandLineOtn, List.mem_cons, List.not_mem_nil, or_false] at h
  rcases h with rfl | rfl | rfl | rfl | rfl | rfl | rfl
  exacts [lineOhCfg_form, lineOhRead_form, lineTtiWrite_form, lineTtiRead_form, lineOtnStatusRead_form, lineFecStatusRead_form, lineRealign_form]

theorem clPortCfg_form : HasForm (opClPortCfg, .clPortCfg) := fun rq s => by
  unfold exec execClPortCfg ok doClPortCfg; exact ⟨_, _, rfl, .inr rfl⟩
theorem clPortRead_form : HasForm (opClPortRead, .clPortRead) := fun rq s => by
  unfold exec execClPortRead ok doClPortRead; exact ⟨_, _, rfl, .inr rfl⟩
theorem clPortStatusRead_form : HasForm (opClPortStatusRead, .clPortStatusRead) := fun rq s => by
  unfold exec execClPortStatusRead ok doClPortStatusRead; exact ⟨_, _, rfl, .inr rfl⟩
theorem flexoTribCfg_form : HasForm (opFlexoTribCfg, .flexoTribCfg) := fun rq s => by
  unfold exec execFlexoTribCfg ok doFlexoTribCfg; exact ⟨_, _, rfl, .inr rfl⟩
theorem flexoTribRead_form : HasForm (opFlexoTribRead, .flexoTribRead) := fun rq s => by
  unfold exec execFlexoTribRead ok doFlexoTribRead; exact ⟨_, _, rfl, .inr rfl⟩
theorem laneCfg_form : HasForm (opLaneCfg, .laneCfg) := fun rq s => by
  unfold exec execLaneCfg ok doLaneCfg; exact ⟨_, _, rfl, .inr rfl⟩
theorem laneStatusRead_form : HasForm (opLaneStatusRead, .laneStatusRead) := fun rq s => by
  unfold exec execLaneStatusRead ok doLaneStatusRead; exact ⟨_, _, rfl, .inr rfl⟩
theorem lanePrbsRead_form : HasForm (opLanePrbsRead, .lanePrbsRead) := fun rq s => by
  unfold exec execLanePrbsRead ok doLanePrbsRead; exact ⟨_, _, rfl, .inr rfl⟩

theorem IsCommandClient.form {e : OpInfo × (Req → Instr)} (h : IsCommandClient e) : HasForm e := by
  simp only [IsCommandClient, List.mem_cons, List.not_mem_nil, or_false] at h
  rcases h with rfl | rfl | rfl | rfl | rfl | rfl | rfl | rfl
  exacts [clPortCfg_form, clPortRead_form, clPortStatusRead_form, flexoTribCfg_form, flexoTribRead_form, laneCfg_form, laneStatusRead_form, lanePrbsRead_form]

theorem groomCfg_form : HasForm (opGroomCfg, .groomCfg) := fun rq s => by
  unfold exec execGroomCfg ok doGroomCfg; exact ⟨_, _, rfl, .inr rfl⟩
theorem groomRead_form : HasForm (opGroomRead, .groomRead) := fun rq s => by
  unfold exec execGroomRead ok doGroomRead; exact ⟨_, _, rfl, .inr rfl⟩
theorem groomStatusRead_form : HasForm (opGroomStatusRead, .groomStatusRead) := fun rq s => by
  unfold exec execGroomStatusRead ok doGroomStatusRead; exact ⟨_, _, rfl, .inr rfl⟩
theorem slotCfg_form : HasForm (opSlotCfg, .slotCfg) := fun rq s => by
  unfold exec execSlotCfg ok doSlotCfg; exact ⟨_, _, rfl, .inr rfl⟩
theorem slotRead_form : HasForm (opSlotRead, .slotRead) := fun rq s => by
  unfold exec execSlotRead ok doSlotRead; exact ⟨_, _, rfl, .inr rfl⟩
theorem slotStatusRead_form : HasForm (opSlotStatusRead, .slotStatusRead) := fun rq s => by
  unfold exec execSlotStatusRead ok doSlotStatusRead; exact ⟨_, _, rfl, .inr rfl⟩
theorem progWrite_form : HasForm (opProgWrite, .progWrite) := fun rq s => by
  unfold exec execProgWrite ok doProgWrite; exact ⟨_, _, rfl, .inr rfl⟩
theorem ruleWrite_form : HasForm (opRuleWrite, .ruleWrite) := fun rq s => by
  unfold exec execRuleWrite ok doRuleWrite; exact ⟨_, _, rfl, .inr rfl⟩
theorem ruleCommit_form : HasForm (opRuleCommit, .ruleCommit) := fun rq s => by
  unfold exec execRuleCommit ok doRuleCommit; exact ⟨_, _, rfl, .inr rfl⟩
theorem ruleSync_form : HasForm (opRuleSync, .ruleSync) := fun rq s => by
  unfold exec execRuleSync ok doRuleSync; exact ⟨_, _, rfl, .inr rfl⟩
theorem ruleRead_form : HasForm (opRuleRead, .ruleRead) := fun rq s => by
  unfold exec execRuleRead ok doRuleRead; exact ⟨_, _, rfl, .inr rfl⟩
theorem grmQueueCfg_form : HasForm (opGrmQueueCfg, .grmQueueCfg) := fun rq s => by
  unfold exec execGrmQueueCfg ok doGrmQueueCfg; exact ⟨_, _, rfl, .inr rfl⟩
theorem grmQueueFlush_form : HasForm (opGrmQueueFlush, .grmQueueFlush) := fun rq s => by
  unfold exec execGrmQueueFlush ok doGrmQueueFlush; exact ⟨_, _, rfl, .inr rfl⟩

theorem IsCommandGroom.form {e : OpInfo × (Req → Instr)} (h : IsCommandGroom e) : HasForm e := by
  simp only [IsCommandGroom, List.mem_cons, List.not_mem_nil, or_false] at h
  rcases h with rfl | rfl | rfl | rfl | rfl | rfl | rfl | rfl | rfl | rfl | rfl | rfl | rfl
  exacts [groomCfg_form, groomRead_form, groomStatusRead_form, slotCfg_form, slotRead_form, slotStatusRead_form, progWrite_form, ruleWrite_form,
    ruleCommit_form, ruleSync_form, ruleRead_form, grmQueueCfg_form, grmQueueFlush_form]

theorem secCfg_form : HasForm (opSecCfg, .secCfg) := fun rq s => by
  unfold exec execSecCfg ok doSecCfg; exact ⟨_, _, rfl, .inr rfl⟩
theorem secRead_form : HasForm (opSecRead, .secRead) := fun rq s => by
  unfold exec execSecRead ok doSecRead; exact ⟨_, _, rfl, .inr rfl⟩
theorem secStatusRead_form : HasForm (opSecStatusRead, .secStatusRead) := fun rq s => by
  unfold exec execSecStatusRead ok doSecStatusRead; exact ⟨_, _, rfl, .inr rfl⟩
theorem keyLoad_form : HasForm (opKeyLoad, .keyLoad) := fun rq s => by
  unfold exec execKeyLoad ok doKeyLoad; exact ⟨_, _, rfl, .inr rfl⟩
theorem keySwitch_form : HasForm (opKeySwitch, .keySwitch) := fun rq s => by
  unfold exec execKeySwitch ok doKeySwitch; exact ⟨_, _, rfl, .inr rfl⟩
theorem keyClear_form : HasForm (opKeyClear, .keyClear) := fun rq s => by
  unfold exec execKeyClear ok doKeyClear; exact ⟨_, _, rfl, .inr rfl⟩
theorem secClearLoss_form : HasForm (opSecClearLoss, .secClearLoss) := fun rq s => by
  unfold exec execSecClearLoss ok doSecClearLoss; exact ⟨_, _, rfl, .inr rfl⟩
theorem keStatusRead_form : HasForm (opKeStatusRead, .keStatusRead) := fun rq s => by
  unfold exec execKeStatusRead ok doKeStatusRead; exact ⟨_, _, rfl, .inr rfl⟩

theorem IsCommandSecurity.form {e : OpInfo × (Req → Instr)} (h : IsCommandSecurity e) : HasForm e := by
  simp only [IsCommandSecurity, List.mem_cons, List.not_mem_nil, or_false] at h
  rcases h with rfl | rfl | rfl | rfl | rfl | rfl | rfl | rfl
  exacts [secCfg_form, secRead_form, secStatusRead_form, keyLoad_form, keySwitch_form, keyClear_form, secClearLoss_form, keStatusRead_form]

theorem hkCfg_form : HasForm (opHkCfg, .hkCfg) := fun rq s => by
  unfold exec execHkCfg ok doHkCfg; exact ⟨_, _, rfl, .inr rfl⟩
theorem hkRead_form : HasForm (opHkRead, .hkRead) := fun rq s => by
  unfold exec execHkRead ok doHkRead; exact ⟨_, _, rfl, .inr rfl⟩
theorem hkTrigger_form : HasForm (opHkTrigger, .hkTrigger) := fun rq s => by
  unfold exec execHkTrigger ok doHkTrigger; exact ⟨_, _, rfl, .inr rfl⟩
theorem hkResultRead_form : HasForm (opHkResultRead, .hkResultRead) := fun rq s => by
  unfold exec execHkResultRead ok doHkResultRead; exact ⟨_, _, rfl, .inr rfl⟩
theorem outCfg_form : HasForm (opOutCfg, .outCfg) := fun rq s => by
  unfold exec execOutCfg ok doOutCfg; exact ⟨_, _, rfl, .inr rfl⟩
theorem outRead_form : HasForm (opOutRead, .outRead) := fun rq s => by
  unfold exec execOutRead ok doOutRead; exact ⟨_, _, rfl, .inr rfl⟩
theorem outStatusRead_form : HasForm (opOutStatusRead, .outStatusRead) := fun rq s => by
  unfold exec execOutStatusRead ok doOutStatusRead; exact ⟨_, _, rfl, .inr rfl⟩
theorem blCfg_form : HasForm (opBlCfg, .blCfg) := fun rq s => by
  unfold exec execBlCfg ok doBlCfg; exact ⟨_, _, rfl, .inr rfl⟩
theorem blRead_form : HasForm (opBlRead, .blRead) := fun rq s => by
  unfold exec execBlRead ok doBlRead; exact ⟨_, _, rfl, .inr rfl⟩
theorem blStatusRead_form : HasForm (opBlStatusRead, .blStatusRead) := fun rq s => by
  unfold exec execBlStatusRead ok doBlStatusRead; exact ⟨_, _, rfl, .inr rfl⟩
theorem i2cCfg_form : HasForm (opI2cCfg, .i2cCfg) := fun rq s => by
  unfold exec execI2cCfg ok doI2cCfg; exact ⟨_, _, rfl, .inr rfl⟩
theorem i2cXfer_form : HasForm (opI2cXfer, .i2cXfer) := fun rq s => by
  unfold exec execI2cXfer ok doI2cXfer; exact ⟨_, _, rfl, .inr rfl⟩
theorem optStatusRead_form : HasForm (opOptStatusRead, .optStatusRead) := fun rq s => by
  unfold exec execOptStatusRead ok doOptStatusRead; exact ⟨_, _, rfl, .inr rfl⟩

theorem IsCommandOptics.form {e : OpInfo × (Req → Instr)} (h : IsCommandOptics e) : HasForm e := by
  simp only [IsCommandOptics, List.mem_cons, List.not_mem_nil, or_false] at h
  rcases h with rfl | rfl | rfl | rfl | rfl | rfl | rfl | rfl | rfl | rfl | rfl | rfl | rfl
  exacts [hkCfg_form, hkRead_form, hkTrigger_form, hkResultRead_form, outCfg_form, outRead_form, outStatusRead_form, blCfg_form, blRead_form,
    blStatusRead_form, i2cCfg_form, i2cXfer_form, optStatusRead_form]

theorem modeSet_form : HasForm (opModeSet, .modeSet) := fun rq s => by
  unfold exec execModeSet ok doModeSet; exact ⟨_, _, rfl, .inr rfl⟩
theorem quench_form : HasForm (opQuench, .quench) := fun rq s => by
  unfold exec execQuench ok doQuench; exact ⟨_, _, rfl, .inr rfl⟩
theorem quenchExit_form : HasForm (opQuenchExit, .quenchExit) := fun rq s => by
  unfold exec execQuenchExit ok doQuenchExit; exact ⟨_, _, rfl, .inr rfl⟩
theorem modeCfg_form : HasForm (opModeCfg, .modeCfg) := fun rq s => by
  unfold exec execModeCfg ok doModeCfg; exact ⟨_, _, rfl, .inr rfl⟩
theorem modeStatusRead_form : HasForm (opModeStatusRead, .modeStatusRead) := fun rq s => by
  unfold exec execModeStatusRead ok doModeStatusRead; exact ⟨_, _, rfl, .inr rfl⟩
theorem faultAck_form : HasForm (opFaultAck, .faultAck) := fun rq s => by
  unfold exec execFaultAck ok doFaultAck; exact ⟨_, _, rfl, .inr rfl⟩

theorem IsCommandModes.form {e : OpInfo × (Req → Instr)} (h : IsCommandModes e) : HasForm e := by
  simp only [IsCommandModes, List.mem_cons, List.not_mem_nil, or_false] at h
  rcases h with rfl | rfl | rfl | rfl | rfl | rfl
  exacts [modeSet_form, quench_form, quenchExit_form, modeCfg_form, modeStatusRead_form, faultAck_form]

theorem bootStatusRead_form : HasForm (opBootStatusRead, .bootStatusRead) := fun rq s => by
  unfold exec execBootStatusRead ok doBootStatusRead; exact ⟨_, _, rfl, .inr rfl⟩
theorem imageStage_form : HasForm (opImageStage, .imageStage) := fun rq s => by
  unfold exec execImageStage ok doImageStage; exact ⟨_, _, rfl, .inr rfl⟩
theorem bootExec_form : HasForm (opBootExec, .bootExec) := fun rq s => by
  unfold exec execBootExec ok doBootExec; exact ⟨_, _, rfl, .inl (by simp [RanksAtStep7])⟩
theorem imageInstall_form : HasForm (opImageInstall, .imageInstall) := fun rq s => by
  unfold exec execImageInstall ok doImageInstall; exact ⟨_, _, rfl, .inr rfl⟩
theorem rollbackAdvance_form : HasForm (opRollbackAdvance, .rollbackAdvance) := fun rq s => by
  unfold exec execRollbackAdvance ok doRollbackAdvance; exact ⟨_, _, rfl, .inl (by simp [RanksAtStep7])⟩
theorem signerSlotProgram_form : HasForm (opSignerSlotProgram, .signerSlotProgram) := fun rq s => by
  unfold exec execSignerSlotProgram ok doSignerSlotProgram; exact ⟨_, _, rfl, .inl (by simp [RanksAtStep7])⟩
theorem signerRevoke_form : HasForm (opSignerRevoke, .signerRevoke) := fun rq s => by
  unfold exec execSignerRevoke ok doSignerRevoke; exact ⟨_, _, rfl, .inl (by simp [RanksAtStep7])⟩
theorem sysRestart_form : HasForm (opSysRestart, .sysRestart) := fun rq s => by
  unfold exec execSysRestart ok doSysRestart; exact ⟨_, _, rfl, .inr rfl⟩
theorem pkSet_form : HasForm (opPkSet, .pkSet) := fun rq s => by
  unfold exec execPkSet ok doPkSet; exact ⟨_, _, rfl, .inr rfl⟩
theorem authKeyLoad_form : HasForm (opAuthKeyLoad, .authKeyLoad) := fun rq s => by
  unfold exec execAuthKeyLoad ok doAuthKeyLoad; exact ⟨_, _, rfl, .inr rfl⟩
theorem tkLoad_form : HasForm (opTkLoad, .tkLoad) := fun rq s => by
  unfold exec execTkLoad ok doTkLoad; exact ⟨_, _, rfl, .inr rfl⟩
theorem keySlotsRead_form : HasForm (opKeySlotsRead, .keySlotsRead) := fun rq s => by
  unfold exec execKeySlotsRead ok doKeySlotsRead; exact ⟨_, _, rfl, .inr rfl⟩
theorem idRead_form : HasForm (opIdRead, .idRead) := fun rq s => by
  unfold exec execIdRead ok doIdRead; exact ⟨_, _, rfl, .inr rfl⟩
theorem attest_form : HasForm (opAttest, .attest) := fun rq s => by
  unfold exec execAttest ok doAttest; exact ⟨_, _, rfl, .inr rfl⟩
theorem faultRead_form : HasForm (opFaultRead, .faultRead) := fun rq s => by
  unfold exec execFaultRead ok doFaultRead; exact ⟨_, _, rfl, .inr rfl⟩
theorem faultExport_form : HasForm (opFaultExport, .faultExport) := fun rq s => by
  unfold exec execFaultExport ok doFaultExport; exact ⟨_, _, rfl, .inr rfl⟩
theorem retireRead_form : HasForm (opRetireRead, .retireRead) := fun rq s => by
  unfold exec execRetireRead ok doRetireRead; exact ⟨_, _, rfl, .inr rfl⟩

theorem IsCommandBoot.form {e : OpInfo × (Req → Instr)} (h : IsCommandBoot e) : HasForm e := by
  simp only [IsCommandBoot, List.mem_cons, List.not_mem_nil, or_false] at h
  rcases h with rfl | rfl | rfl | rfl | rfl | rfl | rfl | rfl | rfl | rfl | rfl | rfl | rfl | rfl | rfl | rfl | rfl
  exacts [bootStatusRead_form, imageStage_form, bootExec_form, imageInstall_form, rollbackAdvance_form, signerSlotProgram_form, signerRevoke_form,
    sysRestart_form, pkSet_form, authKeyLoad_form, tkLoad_form, keySlotsRead_form, idRead_form, attest_form, faultRead_form, faultExport_form,
    retireRead_form]

theorem store_form : HasForm (opStore, .store) := fun rq s => by
  unfold exec execStore ok doStore; exact ⟨_, _, rfl, .inr rfl⟩
theorem storeStatusRead_form : HasForm (opStoreStatusRead, .storeStatusRead) := fun rq s => by
  unfold exec execStoreStatusRead ok doStoreStatusRead; exact ⟨_, _, rfl, .inr rfl⟩
theorem profileRestore_form : HasForm (opProfileRestore, .profileRestore) := fun rq s => by
  unfold exec execProfileRestore ok doProfileRestore; exact ⟨_, _, rfl, .inr rfl⟩
theorem profileErase_form : HasForm (opProfileErase, .profileErase) := fun rq s => by
  unfold exec execProfileErase ok doProfileErase; exact ⟨_, _, rfl, .inr rfl⟩

theorem IsCommandCommits.form {e : OpInfo × (Req → Instr)} (h : IsCommandCommits e) : HasForm e := by
  simp only [IsCommandCommits, List.mem_cons, List.not_mem_nil, or_false] at h
  rcases h with rfl | rfl | rfl | rfl
  exacts [store_form, storeStatusRead_form, profileRestore_form, profileErase_form]

theorem evcRead_form : HasForm (opEvcRead, .evcRead) := fun rq s => by
  unfold exec execEvcRead ok doEvcRead; exact ⟨_, _, rfl, .inr rfl⟩
theorem pmRead_form : HasForm (opPmRead, .pmRead) := fun rq s => by
  unfold exec execPmRead ok doPmRead; exact ⟨_, _, rfl, .inr rfl⟩
theorem pmSnap_form : HasForm (opPmSnap, .pmSnap) := fun rq s => by
  unfold exec execPmSnap ok doPmSnap; exact ⟨_, _, rfl, .inr rfl⟩
theorem winCfg_form : HasForm (opWinCfg, .winCfg) := fun rq s => by
  unfold exec execWinCfg ok doWinCfg; exact ⟨_, _, rfl, .inr rfl⟩
theorem winRead_form : HasForm (opWinRead, .winRead) := fun rq s => by
  unfold exec execWinRead ok doWinRead; exact ⟨_, _, rfl, .inr rfl⟩
theorem evtMaskWrite_form : HasForm (opEvtMaskWrite, .evtMaskWrite) := fun rq s => by
  unfold exec execEvtMaskWrite ok doEvtMaskWrite; exact ⟨_, _, rfl, .inr rfl⟩
theorem evtMaskRead_form : HasForm (opEvtMaskRead, .evtMaskRead) := fun rq s => by
  unfold exec execEvtMaskRead ok doEvtMaskRead; exact ⟨_, _, rfl, .inr rfl⟩
theorem evtPop_form : HasForm (opEvtPop, .evtPop) := fun rq s => by
  unfold exec execEvtPop ok doEvtPop; exact ⟨_, _, rfl, .inr rfl⟩
theorem integStatusRead_form : HasForm (opIntegStatusRead, .integStatusRead) := fun rq s => by
  unfold exec execIntegStatusRead ok doIntegStatusRead; exact ⟨_, _, rfl, .inr rfl⟩
theorem arbCfg_form : HasForm (opArbCfg, .arbCfg) := fun rq s => by
  unfold exec execArbCfg ok doArbCfg; exact ⟨_, _, rfl, .inr rfl⟩

theorem IsCommandCounters.form {e : OpInfo × (Req → Instr)} (h : IsCommandCounters e) : HasForm e := by
  simp only [IsCommandCounters, List.mem_cons, List.not_mem_nil, or_false] at h
  rcases h with rfl | rfl | rfl | rfl | rfl | rfl | rfl | rfl | rfl | rfl
  exacts [evcRead_form, pmRead_form, pmSnap_form, winCfg_form, winRead_form, evtMaskWrite_form, evtMaskRead_form, evtPop_form, integStatusRead_form,
    arbCfg_form]

theorem IsCommand.form {e : OpInfo × (Req → Instr)} (h : IsCommand e) : HasForm e := by
  rcases h with h | h | h | h | h | h | h | h | h | h | h | h | h | h | h | h | h
  exacts [IsCommandSystem.form h, IsCommandStrokes.form h, IsCommandAnvil.form h, IsCommandContainers.form h, IsCommandProtection.form h,
    IsCommandFabric.form h, IsCommandLineTx.form h, IsCommandLineRx.form h, IsCommandLineOtn.form h, IsCommandClient.form h, IsCommandGroom.form h,
    IsCommandSecurity.form h, IsCommandOptics.form h, IsCommandModes.form h, IsCommandBoot.form h, IsCommandCommits.form h, IsCommandCounters.form h]

end Sys2Proof.Machine
end

