-- ==== Sys2Proof/Laws/Frame.lean ====
section
/-! SUPPORT. The parts of the state that most operations leave alone (`Kept`), carried through the updates and combinators that meanings are built from. -/

set_option Elab.async false

namespace Sys2Proof.Machine

/-- An answer whose state keeps `k`. -/
def Answer.Keeps (a : Answer) (k : Kept) : Prop :=
  match a with
  | .done s _ | .slagged s _ _ | .fail s _ | .wait s => kept s = k
  | .rej _ => True

def OptKeeps (o : Option State) (k : Kept) : Prop := ∀ s, o = some s → kept s = k
def ExKeeps (o : Except Rej State) (k : Kept) : Prop := ∀ s, o = .ok s → kept s = k
def OutKeeps (o : Host.Outcome State Fault Refusal) (k : Kept) : Prop := ∃ s, o = .next s ∧ kept s = k

@[simp] theorem kept_onCommits (s : State) (f : List Commit → List Commit) : kept (s.onCommits f) = kept s := rfl
@[simp] theorem kept_onFree (s : State) (f : Nat → Nat) : kept (s.onFree f) = kept s := rfl
@[simp] theorem kept_onOtn (s : State) (f : List (Nat × OtnSt) → List (Nat × OtnSt)) : kept (s.onOtn f) = kept s := rfl
@[simp] theorem kept_onPins (s : State) (f : PinSt → PinSt) : kept (s.onPins f) = kept s := rfl
@[simp] theorem kept_onStk (s : State) (f : StrokeSt → StrokeSt) (h : ∀ v, (f v).scnt = v.scnt ∧ (f v).row = v.row) : kept (s.onStk f) = kept s := by
  simp [kept, State.onStk, h]
@[simp] theorem kept_onClk (s : State) (f : ClkSt → ClkSt) : kept (s.onClk f) = kept s := rfl
@[simp] theorem kept_onRoot (s : State) (f : RootSt → RootSt) : kept (s.onRoot f) = kept s := rfl
@[simp] theorem kept_onCmd (s : State) (f : CmdSt → CmdSt) : kept (s.onCmd f) = kept s := rfl
@[simp] theorem kept_onEv (s : State) (f : EvSt → EvSt) : kept (s.onEv f) = kept s := rfl
@[simp] theorem kept_onAnvil (s : State) (f : AnvilSt → AnvilSt) : kept (s.onAnvil f) = kept s := rfl
@[simp] theorem kept_onRows (s : State) (f : RowSt → RowSt) : kept (s.onRows f) = kept s := rfl
@[simp] theorem kept_onCont (s : State) (f : ContSt → ContSt) : kept (s.onCont f) = kept s := rfl
@[simp] theorem kept_onDiag (s : State) (f : DiagSt → DiagSt) : kept (s.onDiag f) = kept s := rfl
@[simp] theorem kept_onProt (s : State) (f : ProtSt → ProtSt) : kept (s.onProt f) = kept s := rfl
@[simp] theorem kept_onFab (s : State) (f : FabSt → FabSt) : kept (s.onFab f) = kept s := rfl
@[simp] theorem kept_onTx (s : State) (f : LineTxSt → LineTxSt) : kept (s.onTx f) = kept s := rfl
@[simp] theorem kept_onRx (s : State) (f : LineRxSt → LineRxSt) : kept (s.onRx f) = kept s := rfl
@[simp] theorem kept_onCli (s : State) (f : CliSt → CliSt) : kept (s.onCli f) = kept s := rfl
@[simp] theorem kept_onGrm (s : State) (f : GrmSt → GrmSt) : kept (s.onGrm f) = kept s := rfl
@[simp] theorem kept_onSec (s : State) (f : SecSt → SecSt) : kept (s.onSec f) = kept s := rfl
@[simp] theorem kept_onOpt (s : State) (f : OptSt → OptSt) : kept (s.onOpt f) = kept s := rfl
@[simp] theorem kept_onMode (s : State) (f : ModeSt → ModeSt) : kept (s.onMode f) = kept s := rfl
@[simp] theorem kept_onBoot (s : State) (f : BootSt → BootSt) (h : ∀ v, (f v).fuses = v.fuses ∧ (f v).slots = v.slots) : kept (s.onBoot f) = kept s := by
  simp [kept, State.onBoot, h]
@[simp] theorem kept_onKeys (s : State) (f : KeySt → KeySt) : kept (s.onKeys f) = kept s := rfl
@[simp] theorem kept_onStore (s : State) (f : StoreSt → StoreSt) : kept (s.onStore f) = kept s := rfl
@[simp] theorem kept_onPm (s : State) (f : PmSt → PmSt) : kept (s.onPm f) = kept s := rfl
@[simp] theorem kept_onInteg (s : State) (f : IntegSt → IntegSt) : kept (s.onInteg f) = kept s := rfl

@[simp] theorem kept_ite (c : Prop) [Decidable c] (a b : State) : kept (if c then a else b) = if c then kept a else kept b := apply_ite kept c a b

@[simp] theorem kept_dite (c : Prop) [Decidable c] (a : c → State) (b : ¬c → State) : kept (if h : c then a h else b h) = if h : c then kept (a h) else kept (b h) :=
  apply_dite kept c a b

@[simp] theorem kept_foldl {α : Type} (g : State → α → State) (h : ∀ s a, kept (g s a) = kept s) (l : List α) (s : State) : kept (l.foldl g s) = kept s := by
  induction l generalizing s with
  | nil => rfl
  | cons a l ih => simp [ih, h]

@[simp] theorem ok_keeps (s : State) (k : Kept) : OutKeeps (ok s) k ↔ kept s = k := by simp [OutKeeps, ok]

@[simp] theorem keeps_done (s : State) (r : List W32) (k : Kept) : (Answer.done s r).Keeps k = (kept s = k) := rfl
@[simp] theorem keeps_slagged (s : State) (r : List W32) (i : Nat) (k : Kept) : (Answer.slagged s r i).Keeps k = (kept s = k) := rfl
@[simp] theorem keeps_fail (s : State) (r : Rej) (k : Kept) : (Answer.fail s r).Keeps k = (kept s = k) := rfl
@[simp] theorem keeps_wait (s : State) (k : Kept) : (Answer.wait s).Keeps k = (kept s = k) := rfl
@[simp] theorem keeps_rej (r : Rej) (k : Kept) : (Answer.rej r).Keeps k = True := rfl
@[simp] theorem keeps_some (s : State) (k : Kept) : OptKeeps (some s) k = (kept s = k) := by simp [OptKeeps]
@[simp] theorem keeps_none (k : Kept) : OptKeeps none k = True := by simp [OptKeeps]
@[simp] theorem keeps_ok (s : State) (k : Kept) : ExKeeps (.ok s) k = (kept s = k) := by simp [ExKeeps]
@[simp] theorem keeps_error (r : Rej) (k : Kept) : ExKeeps (.error r) k = True := by simp [ExKeeps]

end Sys2Proof.Machine
end

