-- ==== Sys2Proof/Laws/FrameCore.lean ====
section
/-! SUPPORT. What the operations of the shared operations, the connection map, the contexts and the faults keep (`Kept`): one lemma each, cited instead of unfolding. -/

set_option Elab.async false

namespace Sys2Proof.Machine

/-! ### Flags -/

@[simp] theorem logEvent_kept (e : Ev) (inst n : Nat) (clear : Bool) (s : State) : kept (logEvent e inst n clear s) = kept s := by
  simp [logEvent]

@[simp] theorem note_kept (e : Ev) (inst n : Nat) (s : State) : kept (note e inst n s) = kept s := by simp [note]

@[simp] theorem tally_kept (e : Ev) (inst n : Nat) (s : State) : kept (tally e inst n s) = kept s := by simp [tally]

@[simp] theorem noteClip_kept (e : Nat) (b : Bool) (s : State) : kept (noteClip e b s) = kept s := by simp [noteClip]

@[simp] theorem noteClear_kept (e : Ev) (inst : Nat) (s : State) : kept (noteClear e inst s) = kept s := by simp [noteClear]

@[simp] theorem noteChange_kept (e : Ev) (inst : Nat) (was now : Bool) (s : State) : kept (noteChange e inst was now s) = kept s := by
  simp [noteChange]

/-! ### Ops -/

@[simp] theorem drawn_kept (s : State) : kept (drawn s) = kept s := by simp [drawn]

@[simp] theorem onChan_kept (c : Nat) (f : ChanSt → ChanSt) (s : State) : kept (onChan c f s) = kept s := by simp [onChan]

@[simp] theorem raiseInt_kept (i : Nat) (s : State) : kept (raiseInt i s) = kept s := by simp [raiseInt]

@[simp] theorem levelCross_kept (q before after : Nat) (s : State) : kept (levelCross q before after s) = kept s := by unfold levelCross; split <;> simp

@[simp] theorem setCycle_kept (q : Nat) (c : Option InCycle) (s : State) : kept (setCycle q c s) = kept s := by simp [setCycle]

@[simp] theorem levelEvent_kept (q before after : Nat) (s : State) : kept (levelEvent q before after s) = kept s := by
  unfold levelEvent; split <;> simp

@[simp] theorem joinChanges_kept (qs : List Nat) (s : State) : kept (joinChanges qs s) = kept s := by
  unfold joinChanges; split
  · rfl
  · simp only [kept_onCmd]
    exact kept_foldl _ (fun s a => by (repeat' split) <;> simp) _ s

@[simp] theorem flushedPush_kept (q : Nat) (s : State) : kept (flushedPush q s) = kept s := by simp [flushedPush]

@[simp] theorem cqPush_kept (q : Nat) (p : List W32) (s : State) : kept (cqPush q p s) = kept s := by simp [cqPush]

@[simp] theorem rqPush_kept (q : Nat) (p : List W32) (s : State) : kept (rqPush q p s) = kept s := by simp [rqPush]

@[simp] theorem rqRefill_kept (s : State) : kept (rqRefill s) = kept s := by simp [rqRefill]

@[simp] theorem rqPop_kept (c : Nat) (s : State) : kept (rqPop c s) = kept s := by simp [rqPop]

@[simp] theorem cqPop_kept (q : Nat) (s : State) : kept (cqPop q s) = kept s := by simp [cqPop]

@[simp] theorem flushQueue_kept (q : Nat) (s : State) : kept (flushQueue q s) = kept s := by simp [flushQueue]

@[simp] theorem reply_kept (opcode : Nat) (rq : Req) (key : Option (BitVec 256)) (r : Rej) (res : List W32) (s : State) : kept (reply opcode rq key r res s) = kept s := by
  simp [reply]

@[simp] theorem holdCq_kept (rq : Req) (old s : State) : kept (holdCq rq old s) = kept s := by simp [holdCq]

@[simp] theorem freeCq_kept (q : Nat) (s : State) : kept (freeCq q s) = kept s := by simp [freeCq]

@[simp] theorem accepted_kept (rq : Req) (s : State) : kept (accepted rq s) = kept s := by unfold accepted; (repeat' split) <;> simp

theorem answer_kept (o : OpInfo) (rq : Req) (s : State) (a : Answer) (h : a.Keeps (kept s)) : kept (answer o rq s a) = kept s := by
  cases a <;> simp_all [answer]

@[simp] theorem faultRecord_kept (code unit detail : Nat) (s : State) : kept (faultRecord code unit detail s) = kept s := by
  simp [faultRecord]

@[simp] theorem internalEntry_kept (opcode : Nat) (s : State) : kept (internalEntry opcode s) = kept s := by simp [internalEntry]

@[simp] theorem internalAnswer_kept (o : OpInfo) (s : State) (k : Kept) (hk : kept s = k) : (internalAnswer o s).Keeps k := by
  subst hk; simp [internalAnswer]

/-- A command keeps what its effect keeps, whichever way it ends. -/
theorem command_kept (o : OpInfo) (rq : Req) (k : Checks) (s : State) (eff : State → Answer)
    (h : ∀ s', kept s' = kept s → (eff s').Keeps (kept s)) : kept (command o rq k s eff) = kept s := by
  unfold command
  split
  · rfl
  · split
    · simp
    · split
      · exact (answer_kept _ _ _ _ (internalAnswer_kept _ _ _ rfl)).trans rfl
      · exact answer_kept _ _ _ _ (h _ (by simp))

@[simp] theorem unaccept_kept (rq : Req) (s : State) : kept (unaccept rq s) = kept s := by unfold unaccept; (repeat' split) <;> simp

@[simp] theorem replyDeferred_kept (d : Deferred) (r : Rej) (res : List W32) (s : State) : kept (replyDeferred d r res s) = kept s := by
  simp [replyDeferred]

@[simp] theorem internalReply_kept (d : Deferred) (s : State) : kept (internalReply d s) = kept s := by simp [internalReply]

@[simp] theorem addCommit_kept (o : OpInfo) (rq : Req) (s : State) : kept (addCommit o rq s) = kept s := by simp [addCommit]

@[simp] theorem commitOnly_kept (o : OpInfo) (rq : Req) (s : State) (k : Kept) (hk : kept s = k) : (commitOnly o rq s).Keeps k := by
  subst hk; simp [commitOnly]

/-! ### Integrity -/

@[simp] theorem cleanWords_kept (t i n : Nat) (s : State) : kept (cleanWords t i n s) = kept s := by simp [cleanWords]

@[simp] theorem askRestore_kept (t i : Nat) (s : State) : kept (askRestore t i s) = kept s := by simp [askRestore]

@[simp] theorem tableSlag_kept (t i : Nat) (s : State) : kept (tableSlag t i s) = kept s := by simp [tableSlag]

@[simp] theorem noteReads_kept (t i : Nat) (x2 : List WordRead) (x3 : State) : kept (noteReads t i x2 x3) = kept x3 := by
  induction x2 generalizing t i x3 <;> simp_all [noteReads]

@[simp] theorem noteEntry_kept (t i : Nat) (ws : List W32) (s : State) : kept (noteEntry t i ws s) = kept s := by unfold noteEntry; (repeat' split) <;> simp

@[simp] theorem readAnswer_kept (t i : Nat) (ws : List W32) (pre : List W32) (s : State) (k : Kept) (hk : kept s = k) : (readAnswer t i ws pre s).Keeps k := by
  subst hk; unfold readAnswer; dsimp only; (repeat' split) <;> simp_all

/-! ### Anvil -/

@[simp] theorem writeShadow_kept (k : Nat) (ws : List W32) (s : State) : kept (writeShadow k ws s) = kept s := by simp [writeShadow]

@[simp] theorem doMapWrite_kept (rq : Req) (s : State) : kept (doMapWrite rq s) = kept s := by
  unfold doMapWrite; refine command_kept _ _ _ _ _ ?_; intro s' hs; (repeat' split) <;> simp [hs]

theorem execMapWrite_kept (rq : Req) (s : State) : OutKeeps (execMapWrite rq s) (kept s) := by simp [execMapWrite]

@[simp] theorem doMapCommit_kept (rq : Req) (s : State) : kept (doMapCommit rq s) = kept s := by
  unfold doMapCommit; refine command_kept _ _ _ _ _ ?_; intro s' hs; simp [hs]

theorem execMapCommit_kept (rq : Req) (s : State) : OutKeeps (execMapCommit rq s) (kept s) := by simp [execMapCommit]

@[simp] theorem applyMapCommit_kept (s : State) : kept (applyMapCommit s) = kept s := by simp [applyMapCommit]

@[simp] theorem doMapSync_kept (rq : Req) (s : State) : kept (doMapSync rq s) = kept s := by
  unfold doMapSync; refine command_kept _ _ _ _ _ ?_; intro s' hs; simp [hs]

theorem execMapSync_kept (rq : Req) (s : State) : OutKeeps (execMapSync rq s) (kept s) := by simp [execMapSync]

theorem execMapSyncDone_kept (s : State) : OutKeeps (execMapSyncDone s) (kept s) := by
  unfold execMapSyncDone; rw [ok_keeps]; (repeat' split) <;> simp

@[simp] theorem abortMapSync_kept (s : State) : kept (abortMapSync s) = kept s := by unfold abortMapSync; (repeat' split) <;> simp

@[simp] theorem doMapRead_kept (rq : Req) (s : State) : kept (doMapRead rq s) = kept s := by
  unfold doMapRead; refine command_kept _ _ _ _ _ ?_; intro s' hs; simp [hs]

theorem execMapRead_kept (rq : Req) (s : State) : OutKeeps (execMapRead rq s) (kept s) := by simp [execMapRead]

@[simp] theorem doMapStatusRead_kept (rq : Req) (s : State) : kept (doMapStatusRead rq s) = kept s := by
  unfold doMapStatusRead; refine command_kept _ _ _ _ _ ?_; intro s' hs; simp [hs]

theorem execMapStatusRead_kept (rq : Req) (s : State) : OutKeeps (execMapStatusRead rq s) (kept s) := by simp [execMapStatusRead]

@[simp] theorem noteMapRead_kept (t d : Nat) (r : WordRead) (s : State) : kept (noteMapRead t d r s) = kept s := by unfold noteMapRead; (repeat' split) <;> simp

@[simp] theorem transitFrom_kept (t : Nat) (offset : Nat → Nat) (x2 : List (Nat × W32 × Bool)) (x3 : State) (x4 : List (Nat × Cell)) : kept (transitFrom t offset x2 x3 x4).1 = kept x3 := by
  induction x2 generalizing t x3 x4 <;> simp only [transitFrom] <;> (repeat' split) <;> simp_all

@[simp] theorem noteSwUe_kept (b : Nat) (s : State) : kept (noteSwUe b s) = kept s := by simp [noteSwUe]

@[simp] theorem applySwErr_kept (e : SwErr) (s : State) : kept (applySwErr e s) = kept s := by unfold applySwErr; (repeat' split) <;> simp

@[simp] theorem applySwErrs_kept (x0 : List SwErr) (x1 : State) : kept (applySwErrs x0 x1) = kept x1 := by
  induction x0 generalizing x1 <;> simp_all [applySwErrs]

@[simp] theorem transit_kept (offset : Nat → Nat) (errs : List SwErr) (s : State) : kept (transit offset errs s) = kept s := by simp [transit]

@[simp] theorem swSecond_kept (s : State) : kept (swSecond s).1 = kept s := by simp [swSecond]

@[simp] theorem shedIfNeeded_kept (s : State) : kept (shedIfNeeded s) = kept s := by simp [shedIfNeeded]

/-! ### Context -/

@[simp] theorem onSrc_kept (c : Nat) (f : SrcSt → SrcSt) (s : State) : kept (onSrc c f s) = kept s := by simp [onSrc]

@[simp] theorem onSnk_kept (c : Nat) (f : SinkSt → SinkSt) (s : State) : kept (onSnk c f s) = kept s := by simp [onSnk]

@[simp] theorem contAsk_kept (c : Nat) (s : State) : kept (contAsk c s) = kept s := by simp [contAsk]

@[simp] theorem secAsk_kept (k : Nat) (s : State) : kept (secAsk k s) = kept s := by simp [secAsk]

@[simp] theorem onCtx_kept (k : Nat) (f : CtxSt → CtxSt) (s : State) : kept (onCtx k f s) = kept s := by simp [onCtx]

/-! ### System -/

@[simp] theorem doEcho_kept (rq : Req) (s : State) : kept (doEcho rq s) = kept s := by
  unfold doEcho; refine command_kept _ _ _ _ _ ?_; intro s' hs; simp [hs]

theorem execEcho_kept (rq : Req) (s : State) : OutKeeps (execEcho rq s) (kept s) := by simp [execEcho]

@[simp] theorem doCapsRead_kept (rq : Req) (s : State) : kept (doCapsRead rq s) = kept s := by
  unfold doCapsRead; refine command_kept _ _ _ _ _ ?_; intro s' hs; simp [hs]

theorem execCapsRead_kept (rq : Req) (s : State) : OutKeeps (execCapsRead rq s) (kept s) := by simp [execCapsRead]

@[simp] theorem doSysStatusRead_kept (rq : Req) (s : State) : kept (doSysStatusRead rq s) = kept s := by
  unfold doSysStatusRead; refine command_kept _ _ _ _ _ ?_; intro s' hs; simp [hs]

theorem execSysStatusRead_kept (rq : Req) (s : State) : OutKeeps (execSysStatusRead rq s) (kept s) := by simp [execSysStatusRead]

@[simp] theorem doQueueStatusRead_kept (rq : Req) (s : State) : kept (doQueueStatusRead rq s) = kept s := by
  unfold doQueueStatusRead; refine command_kept _ _ _ _ _ ?_; intro s' hs; simp [hs]

theorem execQueueStatusRead_kept (rq : Req) (s : State) : OutKeeps (execQueueStatusRead rq s) (kept s) := by simp [execQueueStatusRead]

@[simp] theorem doQueueCfg_kept (rq : Req) (s : State) : kept (doQueueCfg rq s) = kept s := by
  unfold doQueueCfg; refine command_kept _ _ _ _ _ ?_; intro s' hs; simp [hs]

theorem execQueueCfg_kept (rq : Req) (s : State) : OutKeeps (execQueueCfg rq s) (kept s) := by simp [execQueueCfg]

@[simp] theorem flushMask_kept (x0 : List Nat) (x1 : State) : kept (flushMask x0 x1) = kept x1 := by
  induction x0 generalizing x1 <;> simp_all [flushMask]

@[simp] theorem doQueueFlush_kept (rq : Req) (s : State) : kept (doQueueFlush rq s) = kept s := by
  unfold doQueueFlush; refine command_kept _ _ _ _ _ ?_; intro s' hs; simp [hs]

theorem execQueueFlush_kept (rq : Req) (s : State) : OutKeeps (execQueueFlush rq s) (kept s) := by simp [execQueueFlush]

@[simp] theorem doAccessPolicyRead_kept (rq : Req) (s : State) : kept (doAccessPolicyRead rq s) = kept s := by
  unfold doAccessPolicyRead; refine command_kept _ _ _ _ _ ?_; intro s' hs; simp [hs]

theorem execAccessPolicyRead_kept (rq : Req) (s : State) : OutKeeps (execAccessPolicyRead rq s) (kept s) := by simp [execAccessPolicyRead]

@[simp] theorem doAccessPolicyWrite_kept (rq : Req) (s : State) : kept (doAccessPolicyWrite rq s) = kept s := by
  unfold doAccessPolicyWrite; refine command_kept _ _ _ _ _ ?_; intro s' hs; simp [hs]

theorem execAccessPolicyWrite_kept (rq : Req) (s : State) : OutKeeps (execAccessPolicyWrite rq s) (kept s) := by simp [execAccessPolicyWrite]

@[simp] theorem doIntClear_kept (rq : Req) (s : State) : kept (doIntClear rq s) = kept s := by
  unfold doIntClear; refine command_kept _ _ _ _ _ ?_; intro s' hs; simp [hs]

theorem execIntClear_kept (rq : Req) (s : State) : OutKeeps (execIntClear rq s) (kept s) := by simp [execIntClear]

@[simp] theorem failRef_kept (c : Nat) (s : State) : kept (failRef c s) = kept s := by simp [failRef]

@[simp] theorem sourceLost_kept (c : Nat) (s : State) : kept (sourceLost c s) = kept s := by simp [sourceLost]

@[simp] theorem laneSourceLost_kept (l : Nat) (s : State) : kept (laneSourceLost l s) = kept s := by simp [laneSourceLost]

/-! ### Faults -/

@[simp] theorem retireResource_kept (code unit detail : Nat) (s : State) : kept (retireResource code unit detail s) = kept s := by
  simp [retireResource]

@[simp] theorem countCfi_kept (s : State) : kept (countCfi s) = kept s := by simp [countCfi]

end Sys2Proof.Machine
end

