-- ==== Sys2Proof/Laws/FrameTraffic.lean ====
section
/-! SUPPORT. What the operations of clients, grooming, containers, protection, strokes and the host port keep (`Kept`): one lemma each, cited instead of unfolding. -/

set_option Elab.async false

namespace Sys2Proof.Machine

/-! ### Client -/

@[simp] theorem onLane_kept (n : Nat) (f : LaneSt → LaneSt) (s : State) : kept (onLane n f s) = kept s := by simp [onLane]

@[simp] theorem onCliPort_kept (p : Nat) (f : CliPortSt → CliPortSt) (s : State) : kept (onCliPort p f s) = kept s := by simp [onCliPort]

@[simp] theorem doClPortCfg_kept (rq : Req) (s : State) : kept (doClPortCfg rq s) = kept s := by
  unfold doClPortCfg; refine command_kept _ _ _ _ _ ?_; intro s' hs; simp [hs]

theorem execClPortCfg_kept (rq : Req) (s : State) : OutKeeps (execClPortCfg rq s) (kept s) := by simp [execClPortCfg]

@[simp] theorem eachLane_kept (f : Nat → State → State) (x1 : List Nat) (x2 : State) (hf : ∀ a0 a1, kept (f a0 a1) = kept a1) : kept (eachLane f x1 x2) = kept x2 := by
  induction x1 generalizing x2 <;> simp_all [eachLane]

@[simp] theorem laneIdle_kept (base n : Nat) (s : State) : kept (laneIdle base n s) = kept s := by simp [laneIdle]

@[simp] theorem instsOff_kept (p : Nat) (s : State) : kept (instsOff p s) = kept s := by
  unfold instsOff; exact kept_foldl _ (fun s a => kept_foldl _ (by simp) _ s) _ s

@[simp] theorem demapRows_kept (l : List Nat) (s : State) : kept (demapRows l s) = kept s := by
  induction l generalizing s <;> simp_all [demapRows]

@[simp] theorem applyClPort_kept (c : Commit) (s : State) : kept (applyClPort c s) = kept s := by unfold applyClPort; dsimp only; (repeat' split) <;> simp

@[simp] theorem clientTxIdle_kept (s : State) : kept (clientTxIdle s) = kept s := by simp [clientTxIdle]

@[simp] theorem clientLanesIdle_kept (s : State) : kept (clientLanesIdle s) = kept s := by simp [clientLanesIdle]

@[simp] theorem doClPortRead_kept (rq : Req) (s : State) : kept (doClPortRead rq s) = kept s := by
  unfold doClPortRead; refine command_kept _ _ _ _ _ ?_; intro s' hs; simp [hs]

theorem execClPortRead_kept (rq : Req) (s : State) : OutKeeps (execClPortRead rq s) (kept s) := by simp [execClPortRead]

@[simp] theorem doClPortStatusRead_kept (rq : Req) (s : State) : kept (doClPortStatusRead rq s) = kept s := by
  unfold doClPortStatusRead; refine command_kept _ _ _ _ _ ?_; intro s' hs; simp [hs]

theorem execClPortStatusRead_kept (rq : Req) (s : State) : OutKeeps (execClPortStatusRead rq s) (kept s) := by simp [execClPortStatusRead]

@[simp] theorem doFlexoTribCfg_kept (rq : Req) (s : State) : kept (doFlexoTribCfg rq s) = kept s := by
  unfold doFlexoTribCfg; refine command_kept _ _ _ _ _ ?_; intro s' hs; simp [hs]

theorem execFlexoTribCfg_kept (rq : Req) (s : State) : OutKeeps (execFlexoTribCfg rq s) (kept s) := by simp [execFlexoTribCfg]

@[simp] theorem applyTrib_kept (c : Commit) (s : State) : kept (applyTrib c s) = kept s := by simp [applyTrib]

@[simp] theorem doFlexoTribRead_kept (rq : Req) (s : State) : kept (doFlexoTribRead rq s) = kept s := by
  unfold doFlexoTribRead; refine command_kept _ _ _ _ _ ?_; intro s' hs; simp [hs]

theorem execFlexoTribRead_kept (rq : Req) (s : State) : OutKeeps (execFlexoTribRead rq s) (kept s) := by simp [execFlexoTribRead]

@[simp] theorem doLaneCfg_kept (rq : Req) (s : State) : kept (doLaneCfg rq s) = kept s := by
  unfold doLaneCfg; refine command_kept _ _ _ _ _ ?_; intro s' hs; simp [hs]

theorem execLaneCfg_kept (rq : Req) (s : State) : OutKeeps (execLaneCfg rq s) (kept s) := by simp [execLaneCfg]

@[simp] theorem applyLaneCfg_kept (c : Commit) (s : State) : kept (applyLaneCfg c s) = kept s := by simp [applyLaneCfg]

@[simp] theorem doLaneStatusRead_kept (rq : Req) (s : State) : kept (doLaneStatusRead rq s) = kept s := by
  unfold doLaneStatusRead; refine command_kept _ _ _ _ _ ?_; intro s' hs; simp [hs]

theorem execLaneStatusRead_kept (rq : Req) (s : State) : OutKeeps (execLaneStatusRead rq s) (kept s) := by simp [execLaneStatusRead]

@[simp] theorem doLanePrbsRead_kept (rq : Req) (s : State) : kept (doLanePrbsRead rq s) = kept s := by
  unfold doLanePrbsRead; refine command_kept _ _ _ _ _ ?_; intro s' hs; simp [hs]

theorem execLanePrbsRead_kept (rq : Req) (s : State) : OutKeeps (execLanePrbsRead rq s) (kept s) := by simp [execLanePrbsRead]

theorem execDllos_kept (lane : Nat) (s : State) : OutKeeps (execDllos lane s) (kept s) := by simp [execDllos]

@[simp] theorem lanesRow_kept (locked : List Nat) (s : State) : kept (lanesRow locked s) = kept s := by simp [lanesRow]

theorem execDloa_kept (p : Nat) (lost : Bool) (s : State) : OutKeeps (execDloa p lost s) (kept s) := by simp [execDloa]

@[simp] theorem trainLane_kept (base : Nat) (ws : List W32) (k : Nat) (s : State) : kept (trainLane base ws k s) = kept s := by simp [trainLane]

@[simp] theorem onPort_kept (p : Nat) (f : PortSt → PortSt) (s : State) : kept (onPort p f s) = kept s := by simp [onPort]

@[simp] theorem onTr_kept (tp : TrainPort) (f : TrainSt → TrainSt) (s : State) : kept (onTr tp f s) = kept s := by
  unfold onTr; (repeat' split) <;> simp

@[simp] theorem sendTraining_kept (tp : TrainPort) (s : State) : kept (sendTraining tp s) = kept s := by simp [sendTraining]

@[simp] theorem clientTraining_kept (s : State) : kept (clientTraining s) = kept s := by simp [clientTraining]

@[simp] theorem trainingFrameRx_kept (p : TrainPort) (ws : List W32) (s : State) : kept (trainingFrameRx p ws s) = kept s := by
  unfold trainingFrameRx; dsimp only; split <;> simp

theorem execTrainingFrameRx_kept (p : TrainPort) (ws : List W32) (s : State) : OutKeeps (execTrainingFrameRx p ws s) (kept s) := by
  simp [execTrainingFrameRx]

@[simp] theorem clientDataRow_kept (ports : List Nat) (s : State) : kept (clientDataRow ports s) = kept s := by
  unfold clientDataRow; exact kept_foldl _ (fun s p => by (repeat' split) <;> simp) _ s

@[simp] theorem startTest_kept (n : Nat) (s : State) : kept (startTest n s) = kept s := by simp [startTest]

theorem execTrainTimeout_kept (p : Fin 12) (s : State) : OutKeeps (execTrainTimeout p s) (kept s) := by simp [execTrainTimeout]

theorem execLaneTestEnd_kept (lane : Nat) (pass : Bool) (s : State) : OutKeeps (execLaneTestEnd lane pass s) (kept s) := by
  unfold execLaneTestEnd; rw [ok_keeps]; (repeat' split) <;> simp

@[simp] theorem laneSource_kept (got : Option (List Nat)) (n : Nat) (s : State) : kept (laneSource got n s) = kept s := by
  unfold laneSource; (repeat' split) <;> simp

@[simp] theorem laneCheck_kept (got : Option (List Nat)) (n : Nat) (s : State) : kept (laneCheck got n s) = kept s := by simp [laneCheck]

@[simp] theorem laneSignals_kept (rx : List (Nat × List Nat)) (s : State) : kept (laneSignals rx s) = kept s := by simp [laneSignals]

@[simp] theorem cliStroke_kept (x : StrokeIn) (s : State) : kept (cliStroke x s) = kept s := by simp [cliStroke]

/-! ### Groom -/

@[simp] theorem onSlot_kept (g : Nat) (f : SlotSt → SlotSt) (s : State) : kept (onSlot g f s) = kept s := by simp [onSlot]

@[simp] theorem grmLevel_kept (q before after : Nat) (s : State) : kept (grmLevel q before after s) = kept s := by simp [grmLevel]

@[simp] theorem dropParts_kept (s : State) (l : List Nat) : kept (dropParts s l) = kept s := by
  induction l generalizing s <;> simp_all [dropParts]

@[simp] theorem slotIdle_kept (c : Nat) (s : State) : kept (slotIdle c s) = kept s := by unfold slotIdle; split <;> simp

@[simp] theorem streamGone_kept (c : Nat) (s : State) : kept (streamGone c s) = kept s := by
  unfold streamGone; dsimp only; (repeat' split) <;> simp

@[simp] theorem reportSecMm_kept (k : Nat) (s : State) : kept (reportSecMm k s) = kept s := by simp [reportSecMm]

@[simp] theorem grmFlush_kept (q : Nat) (s : State) : kept (grmFlush q s) = kept s := by simp [grmFlush]

theorem execClientFrameRx_kept (p : Nat) (bs : List SByte) (bad : Bool) (s : State) : OutKeeps (execClientFrameRx p bs bad s) (kept s) := by
  simp [execClientFrameRx]

theorem execFluxDispatch_kept (s : State) : OutKeeps (execFluxDispatch s) (kept s) := by
  unfold execFluxDispatch; rw [ok_keeps]; (repeat' split) <;> simp

@[simp] theorem replacePacket_kept (pk : Packet) (s : State) : kept (replacePacket pk s) = kept s := by simp [replacePacket]

theorem execFluxPass_kept (ctx : Nat) (s : State) : OutKeeps (execFluxPass ctx s) (kept s) := by
  unfold execFluxPass; rw [ok_keeps]; dsimp only; (repeat' split) <;> simp_all

@[simp] theorem packetOutcome_kept (p : Packet) (s : State) : kept (packetOutcome p s).1 = kept s := by
  unfold packetOutcome; (repeat' split) <;> simp

@[simp] theorem storeFragment_kept (p : Packet) (out : Option Nat) (s : State) : kept (storeFragment p out s) = kept s := by
  unfold storeFragment; (repeat' split) <;> simp

@[simp] theorem toSlot_kept (p : Packet) (g : Nat) (s : State) : kept (toSlot p g s) = kept s := by simp [toSlot]

@[simp] theorem drainCheck_kept (s : State) : kept (drainCheck s) = kept s := by simp [drainCheck]

theorem execPacketRetire_kept (p : Nat) (s : State) : OutKeeps (execPacketRetire p s) (kept s) := by
  unfold execPacketRetire; rw [ok_keeps]; dsimp only; (repeat' split) <;> simp_all

theorem execFragAgeExpiry_kept (s : State) : OutKeeps (execFragAgeExpiry s) (kept s) := by simp [execFragAgeExpiry]

@[simp] theorem slotRead_kept (p g : Nat) (s : State) : kept (slotRead p g s).1 = kept s := by simp [slotRead]

@[simp] theorem slotDiscard_kept (g : Nat) (s : State) : kept (slotDiscard g s) = kept s := by simp [slotDiscard]

theorem execUnpackFrame_kept (slot : Nat) (s : State) : OutKeeps (execUnpackFrame slot s) (kept s) := by
  unfold execUnpackFrame; rw [ok_keeps]; (repeat' split) <;> simp

theorem execEgressMacTake_kept (p : Nat) (s : State) : OutKeeps (execEgressMacTake p s) (kept s) := by
  unfold execEgressMacTake; rw [ok_keeps]; (repeat' split) <;> simp

@[simp] theorem doGroomCfg_kept (rq : Req) (s : State) : kept (doGroomCfg rq s) = kept s := by
  unfold doGroomCfg; refine command_kept _ _ _ _ _ ?_; intro s' hs; simp [hs]

theorem execGroomCfg_kept (rq : Req) (s : State) : OutKeeps (execGroomCfg rq s) (kept s) := by simp [execGroomCfg]

@[simp] theorem applyGroomCfg_kept (c : Commit) (s : State) : kept (applyGroomCfg c s) = kept s := by simp [applyGroomCfg]

@[simp] theorem doGroomRead_kept (rq : Req) (s : State) : kept (doGroomRead rq s) = kept s := by
  unfold doGroomRead; refine command_kept _ _ _ _ _ ?_; intro s' hs; simp [hs]

theorem execGroomRead_kept (rq : Req) (s : State) : OutKeeps (execGroomRead rq s) (kept s) := by simp [execGroomRead]

@[simp] theorem doGroomStatusRead_kept (rq : Req) (s : State) : kept (doGroomStatusRead rq s) = kept s := by
  unfold doGroomStatusRead; refine command_kept _ _ _ _ _ ?_; intro s' hs; simp [hs]

theorem execGroomStatusRead_kept (rq : Req) (s : State) : OutKeeps (execGroomStatusRead rq s) (kept s) := by simp [execGroomStatusRead]

@[simp] theorem doSlotCfg_kept (rq : Req) (s : State) : kept (doSlotCfg rq s) = kept s := by
  unfold doSlotCfg; refine command_kept _ _ _ _ _ ?_; intro s' hs; simp [hs]

theorem execSlotCfg_kept (rq : Req) (s : State) : OutKeeps (execSlotCfg rq s) (kept s) := by simp [execSlotCfg]

@[simp] theorem applySlotCfg_kept (c : Commit) (s : State) : kept (applySlotCfg c s) = kept s := by simp [applySlotCfg]

@[simp] theorem doSlotRead_kept (rq : Req) (s : State) : kept (doSlotRead rq s) = kept s := by
  unfold doSlotRead; refine command_kept _ _ _ _ _ ?_; intro s' hs; simp [hs]

theorem execSlotRead_kept (rq : Req) (s : State) : OutKeeps (execSlotRead rq s) (kept s) := by simp [execSlotRead]

@[simp] theorem doSlotStatusRead_kept (rq : Req) (s : State) : kept (doSlotStatusRead rq s) = kept s := by
  unfold doSlotStatusRead; refine command_kept _ _ _ _ _ ?_; intro s' hs; simp [hs]

theorem execSlotStatusRead_kept (rq : Req) (s : State) : OutKeeps (execSlotStatusRead rq s) (kept s) := by simp [execSlotStatusRead]

@[simp] theorem grmModified_kept (s : State) : kept (grmModified s) = kept s := by simp [grmModified]

@[simp] theorem doProgWrite_kept (rq : Req) (s : State) : kept (doProgWrite rq s) = kept s := by
  unfold doProgWrite; refine command_kept _ _ _ _ _ ?_; intro s' hs; (repeat' split) <;> simp [hs]

theorem execProgWrite_kept (rq : Req) (s : State) : OutKeeps (execProgWrite rq s) (kept s) := by simp [execProgWrite]

@[simp] theorem doRuleWrite_kept (rq : Req) (s : State) : kept (doRuleWrite rq s) = kept s := by
  unfold doRuleWrite; refine command_kept _ _ _ _ _ ?_; intro s' hs; (repeat' split) <;> simp [hs]

theorem execRuleWrite_kept (rq : Req) (s : State) : OutKeeps (execRuleWrite rq s) (kept s) := by simp [execRuleWrite]

@[simp] theorem doRuleCommit_kept (rq : Req) (s : State) : kept (doRuleCommit rq s) = kept s := by
  unfold doRuleCommit; refine command_kept _ _ _ _ _ ?_; intro s' hs; simp [hs]

theorem execRuleCommit_kept (rq : Req) (s : State) : OutKeeps (execRuleCommit rq s) (kept s) := by simp [execRuleCommit]

@[simp] theorem applyRuleCommit_kept (s : State) : kept (applyRuleCommit s) = kept s := by simp [applyRuleCommit]

@[simp] theorem doRuleSync_kept (rq : Req) (s : State) : kept (doRuleSync rq s) = kept s := by
  unfold doRuleSync; refine command_kept _ _ _ _ _ ?_; intro s' hs; simp [hs]

theorem execRuleSync_kept (rq : Req) (s : State) : OutKeeps (execRuleSync rq s) (kept s) := by simp [execRuleSync]

theorem execRuleSyncDone_kept (s : State) : OutKeeps (execRuleSyncDone s) (kept s) := by
  unfold execRuleSyncDone; rw [ok_keeps]; (repeat' split) <;> simp

@[simp] theorem doRuleRead_kept (rq : Req) (s : State) : kept (doRuleRead rq s) = kept s := by
  unfold doRuleRead
  refine command_kept _ _ _ _ _ ?_
  intro s' hs
  split <;> simp [hs]

theorem execRuleRead_kept (rq : Req) (s : State) : OutKeeps (execRuleRead rq s) (kept s) := by simp [execRuleRead]

@[simp] theorem doGrmQueueCfg_kept (rq : Req) (s : State) : kept (doGrmQueueCfg rq s) = kept s := by
  unfold doGrmQueueCfg; refine command_kept _ _ _ _ _ ?_; intro s' hs; simp [hs]

theorem execGrmQueueCfg_kept (rq : Req) (s : State) : OutKeeps (execGrmQueueCfg rq s) (kept s) := by simp [execGrmQueueCfg]

@[simp] theorem doGrmQueueFlush_kept (rq : Req) (s : State) : kept (doGrmQueueFlush rq s) = kept s := by
  unfold doGrmQueueFlush; refine command_kept _ _ _ _ _ ?_; intro s' hs; simp [hs]

theorem execGrmQueueFlush_kept (rq : Req) (s : State) : OutKeeps (execGrmQueueFlush rq s) (kept s) := by simp [execGrmQueueFlush]

@[simp] theorem eachNat_kept (f : Nat → State → State) (x1 : List Nat) (x2 : State) (hf : ∀ a0 a1, kept (f a0 a1) = kept a1) : kept (eachNat f x1 x2) = kept x2 := by
  induction x1 generalizing x2 <;> simp_all [eachNat]

@[simp] theorem dropFlight_kept (p : Nat) (s : State) : kept (dropFlight p s) = kept s := by simp [dropFlight]

@[simp] theorem groomPortOff_kept (p : Nat) (s : State) : kept (groomPortOff p s) = kept s := by simp [groomPortOff]

@[simp] theorem groomQuench_kept (s : State) : kept (groomQuench s) = kept s := by simp [groomQuench]

/-! ### Perf -/

@[simp] theorem onPmRec_kept (n i : Nat) (f : PmRec → PmRec) (s : State) : kept (onPmRec n i f s) = kept s := by simp [onPmRec]

@[simp] theorem pmErrored_kept (n i : Nat) (far : Bool) (k : Nat) (s : State) : kept (pmErrored n i far k s) = kept s := by
  simp [pmErrored]

@[simp] theorem pmDefect_kept (n i : Nat) (far : Bool) (s : State) : kept (pmDefect n i far s) = kept s := by simp [pmDefect]

@[simp] theorem pmEnabled_kept (n i : Nat) (en whole : Bool) (s : State) : kept (pmEnabled n i en whole s) = kept s := by
  simp [pmEnabled]

@[simp] theorem pmSecond_kept (thr : Nat → Nat → Nat) (s : State) : kept (pmSecond thr s) = kept s := by simp [pmSecond]

@[simp] theorem pmSnapshot_kept (second : Bool) (s : State) : kept (pmSnapshot second s) = kept s := by simp [pmSnapshot]

/-! ### Sink -/

@[simp] theorem noteDefects_kept (c : Nat) (was : List Defect) (now : List Defect) (x3 : List Defect) (x4 : State) : kept (noteDefects c was now x3 x4) = kept x4 := by
  induction x3 generalizing c was now x4 <;> simp_all [noteDefects]

/-! ### Source -/

@[simp] theorem enterBytes_kept (c : Nat) (bs : List SByte) (s : State) : kept (enterBytes c bs s) = kept s := by simp [enterBytes]

@[simp] theorem enterFrame_kept (p : Nat) (bs : List SByte) (err : Bool) (s : State) : kept (enterFrame p bs err s) = kept s := by
  unfold enterFrame; (repeat' split) <;> simp

@[simp] theorem enterClient_kept (x : ClientIn) (s : State) : kept (enterClient x s) = kept s := by simp [enterClient]

@[simp] theorem frameData_kept (s : State) (c : Nat) (e : ContEntry) (p : Nat) (x : SrcSt) : kept (frameData s c e p x).1 = kept s := by
  unfold frameData; (repeat' split) <;> simp

@[simp] theorem formFrame_kept (aps : Nat → List Byte) (c : Nat) (s : State) : kept (formFrame aps c s) = kept s := by
  unfold formFrame
  extract_lets e x k st unread p d s1 unit cur tag oh oh' salt s2 s3 h s4 s5 s6 s7
  split
  · simp
  · have h1 : kept s1 = kept s := frameData_kept _ _ _ _ _
    have h2 : kept s2 = kept s := (onSrc_kept _ _ _).trans h1
    have h3 : kept s3 = kept s := by
      show kept (match k with | some k => _ | none => s2) = _
      cases k with
      | none => exact h2
      | some j =>
        dsimp only
        split
        · exact (onCtx_kept _ _ _).trans h2
        · exact h2
    have h4 : kept s4 = kept s := by
      simp only [s4]
      split <;> simp [h3]
    have h5 : kept s5 = kept s := by
      simp only [s5]
      (repeat' split) <;> simp [h3, h4]
    have h7 : kept s7 = kept s := by
      show kept (contAsk c (match k with | some k => _ | none => s5)) = _
      cases k <;> simp [h5]
    split <;> simp [h7]

@[simp] theorem sourceRow_kept (c : Nat) (s : State) : kept (sourceRow c s).1 = kept s := by
  unfold sourceRow; dsimp only; (repeat' split) <;> simp_all

@[simp] theorem sourcesRow_kept (line : Bool) (x1 : List (Nat × ContEntry)) (x2 : State) : kept (sourcesRow line x1 x2) = kept x2 := by
  induction x1 generalizing x2 with
  | nil => rfl
  | cons a l ih =>
    simp only [sourcesRow]
    split
    · exact ih x2
    · rw [ih]; simp

@[simp] theorem clearLineTest_kept (s : State) : kept (clearLineTest s) = kept s := by simp [clearLineTest]

@[simp] theorem injectRow_kept (s : State) : kept (injectRow s) = kept s := by simp [injectRow]

/-! ### Containers -/

@[simp] theorem doContCfg_kept (rq : Req) (s : State) : kept (doContCfg rq s) = kept s := by
  unfold doContCfg; refine command_kept _ _ _ _ _ ?_; intro s' hs; simp [hs]

theorem execContCfg_kept (rq : Req) (s : State) : OutKeeps (execContCfg rq s) (kept s) := by simp [execContCfg]

@[simp] theorem doContRead_kept (rq : Req) (s : State) : kept (doContRead rq s) = kept s := by
  unfold doContRead
  refine command_kept _ _ _ _ _ ?_
  intro s' hs
  have h := readAnswer_kept 2 (4 * contObj (rq.p 0)) (contEntry s' (contObj (rq.p 0))).words [] s' (kept s) hs
  revert h
  cases readAnswer 2 (4 * contObj (rq.p 0)) (contEntry s' (contObj (rq.p 0))).words [] s' with
  | slagged t res i =>
    intro h
    have h' := readAnswer_kept 3 (poolIndex t (contObj (rq.p 0))) (contEntry t (contObj (rq.p 0))).runs res t (kept s) h
    revert h'
    dsimp only
    cases readAnswer 3 (poolIndex t (contObj (rq.p 0))) (contEntry t (contObj (rq.p 0))).runs res t <;> exact id
  | _ => simp_all

theorem execContRead_kept (rq : Req) (s : State) : OutKeeps (execContRead rq s) (kept s) := by simp [execContRead]

@[simp] theorem doContStatusRead_kept (rq : Req) (s : State) : kept (doContStatusRead rq s) = kept s := by
  unfold doContStatusRead; refine command_kept _ _ _ _ _ ?_; intro s' hs; simp [hs]

theorem execContStatusRead_kept (rq : Req) (s : State) : OutKeeps (execContStatusRead rq s) (kept s) := by simp [execContStatusRead]

@[simp] theorem doBaCfg_kept (rq : Req) (s : State) : kept (doBaCfg rq s) = kept s := by
  unfold doBaCfg; refine command_kept _ _ _ _ _ ?_; intro s' hs; simp [hs]

theorem execBaCfg_kept (rq : Req) (s : State) : OutKeeps (execBaCfg rq s) (kept s) := by simp [execBaCfg]

@[simp] theorem applyBaCfg_kept (c : Commit) (s : State) : kept (applyBaCfg c s) = kept s := by simp [applyBaCfg]

@[simp] theorem doBaRead_kept (rq : Req) (s : State) : kept (doBaRead rq s) = kept s := by
  unfold doBaRead; refine command_kept _ _ _ _ _ ?_; intro s' hs; simp [hs]

theorem execBaRead_kept (rq : Req) (s : State) : OutKeeps (execBaRead rq s) (kept s) := by simp [execBaRead]

@[simp] theorem doTestRead_kept (rq : Req) (s : State) : kept (doTestRead rq s) = kept s := by
  unfold doTestRead; refine command_kept _ _ _ _ _ ?_; intro s' hs; simp [hs]

theorem execTestRead_kept (rq : Req) (s : State) : OutKeeps (execTestRead rq s) (kept s) := by simp [execTestRead]

@[simp] theorem doErrInject_kept (rq : Req) (s : State) : kept (doErrInject rq s) = kept s := by
  unfold doErrInject; refine command_kept _ _ _ _ _ ?_; intro s' hs; simp [hs]

theorem execErrInject_kept (rq : Req) (s : State) : OutKeeps (execErrInject rq s) (kept s) := by simp [execErrInject]

@[simp] theorem applyErrInject_kept (c : Commit) (s : State) : kept (applyErrInject c s) = kept s := by simp [applyErrInject]

@[simp] theorem analysersRow_kept (s : State) : kept (analysersRow s) = kept s := by
  simp only [analysersRow]
  exact kept_foldl _ (fun s x => kept_foldl _ (fun s i => kept_onDiag _ _) _ s) _ s

@[simp] theorem slotUsed_kept (k n : Nat) (s : State) : kept (slotUsed k n s) = kept s := by simp [slotUsed]

@[simp] theorem deliverItems_kept (c : Nat) (e : ContEntry) (l : List StreamItem) (s : State) : kept (deliverItems c e l s) = kept s := by
  simp [deliverItems]

@[simp] theorem deliver_kept (c : Nat) (e : ContEntry) (bs : List SByte) (s : State) : kept (deliver c e bs s) = kept s := by simp [deliver]

@[simp] theorem releaseFrameRow_kept (c : Nat) (e : ContEntry) (s : State) : kept (releaseFrameRow c e s) = kept s := by
  unfold releaseFrameRow; dsimp only; (repeat' split) <;> simp_all

@[simp] theorem releaseFrameRows_kept (c : Nat) (e : ContEntry) (x2 : Nat) (x3 : State) : kept (releaseFrameRows c e x2 x3) = kept x3 := by
  induction x2 generalizing c e x3 <;> simp_all [releaseFrameRows]

@[simp] theorem releaseDue_kept (c : Nat) (e : ContEntry) (s : State) : kept (releaseDue c e s) = kept s := by simp [releaseDue]

@[simp] theorem onBody_kept (c : Nat) (f : BodyRx → BodyRx) (s : State) : kept (onBody c f s) = kept s := by simp [onBody]

@[simp] theorem applyVerdict_kept (c : Nat) (e : ContEntry) (v : UnitVerdict) (s : State) : kept (applyVerdict c e v s) = kept s := by
  unfold applyVerdict; (repeat' split) <;> simp

@[simp] theorem dropUnit_kept (c : Nat) (s : State) : kept (dropUnit c s) = kept s := by simp [dropUnit]

@[simp] theorem applyContCfg_kept (k : Commit) (s : State) : kept (applyContCfg k s) = kept s := by
  unfold applyContCfg
  extract_lets c e old s1 s2 s3 s4 s5 s6 s7
  have h1 : kept s1 = kept s := by simp only [s1]; split <;> simp
  have h4 : kept s4 = kept s := by simp only [s4]; split <;> simp [s3, s2, h1]
  have h7 : kept s7 = kept s := by simp [s7, s6, s5, h4]
  split
  · exact h4
  · split <;> simp [h7]

@[simp] theorem sinksQuench_kept (x1 : List (Nat × ContEntry)) (x2 : State) : kept (sinksQuench x1 x2) = kept x2 := by
  induction x1 generalizing x2 <;> simp_all [sinksQuench]

@[simp] theorem secLckFrame_kept (k : Nat) (unit0 : Bool) (s : State) : kept (secLckFrame k unit0 s) = kept s := by simp [secLckFrame]

@[simp] theorem secMmFrame_kept (c : Nat) (k : Option Nat) (mm : Bool) (s : State) : kept (secMmFrame c k mm s) = kept s := by
  unfold secMmFrame; (repeat' split) <;> simp

@[simp] theorem takenFrame_kept (c : Nat) (e : ContEntry) (now : W48) (v : FrameView) (oh : List SByte) (s : State) : kept (takenFrame c e now v oh s).1 = kept s := by
  unfold takenFrame
  extract_lets s1 s2 s3 s4 k req mm s5 s6 locked unit
  have h2 : kept s2 = kept s := by simp [s2, s1]
  clear_value s2
  have h3 : kept s3 = kept s := by simp [s3, h2]
  clear_value s3
  have h4 : kept s4 = kept s := by simp [s4, h3]
  clear_value s4
  have h5 : kept s5 = kept s := by simp [s5, h4]
  clear_value s5 mm req k
  have h6 : kept s6 = kept s := by
    simp only [s6]
    (repeat' split) <;> simp [h5]
  exact h6

@[simp] theorem contOverhead_kept (c rho : Nat) (now : W48) (oh : List SByte) (s : State) : kept (contOverhead c rho now oh s) = kept s := by
  unfold contOverhead
  extract_lets e x unread here s1 verdict s2 y r s3 s4 s5 was t s6 a
  have h1 : kept s1 = kept s := by simp only [s1]; split <;> simp
  have h2 : kept s2 = kept s := by simp only [s2]; split <;> simp [h1]
  have h3 : kept s3 = kept s := by simp [s3, h2]
  have h4 : kept s4 = kept s := by
    simp only [s4]
    (repeat' split) <;> simp [h3]
  have h5 : kept s5 = kept s := by
    simp only [s5]
    split <;> simp [h4]
  have h6 : kept s6 = kept s := by simp [s6, t, h5]
  (repeat' split) <;> simp [h5, h6]

@[simp] theorem contFrame_kept (c rho : Nat) (s : State) : kept (contFrame c rho s) = kept s := by
  unfold contFrame; dsimp only; (repeat' split) <;> simp_all

@[simp] theorem sinkRow_kept (c : Nat) (e : ContEntry) (s : State) : kept (sinkRow c e s) = kept s := by simp [sinkRow]

@[simp] theorem sinksRow_kept (x0 : List (Nat × ContEntry)) (x1 : State) : kept (sinksRow x0 x1) = kept x1 := by
  induction x0 generalizing x1 <;> simp_all [sinksRow]

@[simp] theorem sinksStroke_kept (second : Bool) (x1 : List (Nat × ContEntry)) (x2 : State) : kept (sinksStroke second x1 x2) = kept x2 := by
  induction x1 generalizing x2 with
  | nil => rfl
  | cons a l ih => simp only [sinksStroke, ih]; simp

/-! ### Protection -/

@[simp] theorem doPgCfg_kept (rq : Req) (s : State) : kept (doPgCfg rq s) = kept s := by
  unfold doPgCfg; refine command_kept _ _ _ _ _ ?_; intro s' hs; simp [hs]

theorem execPgCfg_kept (rq : Req) (s : State) : OutKeeps (execPgCfg rq s) (kept s) := by simp [execPgCfg]

@[simp] theorem doPgRead_kept (rq : Req) (s : State) : kept (doPgRead rq s) = kept s := by
  unfold doPgRead; refine command_kept _ _ _ _ _ ?_; intro s' hs; simp [hs]

theorem execPgRead_kept (rq : Req) (s : State) : OutKeeps (execPgRead rq s) (kept s) := by simp [execPgRead]

@[simp] theorem onGroup_kept (g : Nat) (f : GroupSt → GroupSt) (s : State) : kept (onGroup g f s) = kept s := by simp [onGroup]

@[simp] theorem onMon_kept (g : Nat) (prot : Bool) (f : MonSt → MonSt) (s : State) : kept (onMon g prot f s) = kept s := by simp [onMon]

@[simp] theorem monRefresh_kept (g : Nat) (prot : Bool) (s : State) : kept (monRefresh g prot s) = kept s := by simp [monRefresh]

@[simp] theorem holdoffPass_kept (g : Nat) (prot : Bool) (s : State) : kept (holdoffPass g prot s) = kept s := by simp [holdoffPass]

theorem execPgHoldoffExpiry_kept (g : Nat) (copy : Bool) (s : State) : OutKeeps (execPgHoldoffExpiry g copy s) (kept s) := by
  simp [execPgHoldoffExpiry]

@[simp] theorem wtrExpire_kept (g : Nat) (s : State) : kept (wtrExpire g s) = kept s := by unfold wtrExpire; (repeat' split) <;> simp

theorem execPgWtrExpiry_kept (g : Nat) (s : State) : OutKeeps (execPgWtrExpiry g s) (kept s) := by simp [execPgWtrExpiry]

@[simp] theorem groupCommand_kept (g : Nat) (c : List W32) (s : State) : kept (groupCommand g c s) = kept s := by
  unfold groupCommand; dsimp only; (repeat' split) <;> simp_all

@[simp] theorem groupSelect_kept (g : Nat) (c : List W32) (s : State) : kept (groupSelect g c s) = kept s := by simp [groupSelect]

@[simp] theorem groupLatch_kept (g : Nat) (c : List W32) (s : State) : kept (groupLatch g c s) = kept s := by simp [groupLatch]

@[simp] theorem doPgCmd_kept (rq : Req) (s : State) : kept (doPgCmd rq s) = kept s := by
  unfold doPgCmd; refine command_kept _ _ _ _ _ ?_; intro s' hs; simp [hs]

theorem execPgCmd_kept (rq : Req) (s : State) : OutKeeps (execPgCmd rq s) (kept s) := by simp [execPgCmd]

@[simp] theorem applyPgCmd_kept (k : Commit) (s : State) : kept (applyPgCmd k s) = kept s := by simp [applyPgCmd]

@[simp] theorem setFopPm_kept (g : Nat) (on : Bool) (s : State) : kept (setFopPm g on s) = kept s := by simp [setFopPm]

@[simp] theorem setFopNr_kept (g : Nat) (on : Bool) (s : State) : kept (setFopNr g on s) = kept s := by simp [setFopNr]

@[simp] theorem acceptAps_kept (g : Nat) (v : List Byte) (s : State) : kept (acceptAps g v s) = kept s := by simp [acceptAps]

@[simp] theorem judgeFop_kept (g : Nat) (c : List W32) (s : State) : kept (judgeFop g c s) = kept s := by simp [judgeFop]

@[simp] theorem apsFrame_kept (g : Nat) (c : List W32) (fr : List SByte) (s : State) : kept (apsFrame g c fr s) = kept s := by simp [apsFrame]

@[simp] theorem dfopPmDeclare_kept (g : Nat) (s : State) : kept (dfopPmDeclare g s) = kept s := by unfold dfopPmDeclare; (repeat' split) <;> simp

theorem execDfopPm_kept (g : Nat) (s : State) : OutKeeps (execDfopPm g s) (kept s) := by simp [execDfopPm]

@[simp] theorem dfopNrDeclare_kept (g : Nat) (s : State) : kept (dfopNrDeclare g s) = kept s := by unfold dfopNrDeclare; (repeat' split) <;> simp

theorem execDfopNr_kept (g : Nat) (s : State) : OutKeeps (execDfopNr g s) (kept s) := by simp [execDfopNr]

@[simp] theorem groupSend_kept (g : Nat) (c : List W32) (s : State) : kept (groupSend g c s) = kept s := by simp [groupSend]

@[simp] theorem playInFrame_kept (g : Nat) (c : List W32) (s : State) : kept (playInFrame g c s) = kept s := by simp [playInFrame]

@[simp] theorem alnFrame_kept (g : Nat) (prot : Bool) (c : List W32) (s : State) : kept (alnFrame g prot c s) = kept s := by simp [alnFrame]

@[simp] theorem monOverhead_kept (g : Nat) (prot : Bool) (rho : Nat) (now : W48) (oh : List SByte) (s : State) : kept (monOverhead g prot rho now oh s) = kept s := by
  simp [monOverhead]

@[simp] theorem monFrame_kept (g : Nat) (prot : Bool) (rho : Nat) (s : State) : kept (monFrame g prot rho s) = kept s := by
  unfold monFrame; dsimp only; (repeat' split) <;> simp_all

@[simp] theorem containerFrame_kept (k : SinkKind) (n rho : Nat) (s : State) : kept (containerFrame k n rho s) = kept s := by
  cases k <;> simp [containerFrame]

theorem execContainerFrameRx_kept (sink : SinkKind) (n rho : Nat) (s : State) : OutKeeps (execContainerFrameRx sink n rho s) (kept s) := by
  simp [execContainerFrameRx]

@[simp] theorem monRow_kept (g : Nat) (prot : Bool) (c : List W32) (s : State) : kept (monRow g prot c s) = kept s := by simp [monRow]

@[simp] theorem monStroke_kept (second : Bool) (g : Nat) (c : List W32) (prot : Bool) (s : State) : kept (monStroke second g c prot s) = kept s := by
  simp [monStroke]

@[simp] theorem groupStroke_kept (second : Bool) (g : Nat) (c : List W32) (s : State) : kept (groupStroke second g c s) = kept s := by
  simp [groupStroke]

@[simp] theorem eachGroup_kept (f : Nat → List W32 → State → State) (x1 : List (Nat × List W32)) (x2 : State) (hf : ∀ a0 a1 a2, kept (f a0 a1 a2) = kept a2) : kept (eachGroup f x1 x2) = kept x2 := by
  induction x1 generalizing x2 <;> simp_all [eachGroup]

@[simp] theorem serverStep_kept (g : Nat) (c : List W32) (prot : Bool) (s : State) : kept (serverStep g c prot s) = kept s := by simp [serverStep]

@[simp] theorem groupRow_kept (g : Nat) (c : List W32) (s : State) : kept (groupRow g c s) = kept s := by simp [groupRow]

@[simp] theorem storeRow_kept (x : RowIn) (g : Nat) (c : List W32) (prot : Bool) (s : State) : kept (storeRow x g c prot s) = kept s := by
  simp [storeRow]

@[simp] theorem absentRow_kept (g : Nat) (c : List W32) (prot : Bool) (fw r : Nat) (s : State) : kept (absentRow g c prot fw r s).1 = kept s := by
  unfold absentRow; dsimp only; split <;> simp

@[simp] theorem readRow_kept (x : RowIn) (g : Nat) (c : List W32) (prot : Bool) (fw r : Nat) (s : State) : kept (readRow x g c prot fw r s).1 = kept s := by
  unfold readRow; dsimp only; (repeat' split) <;> simp_all

@[simp] theorem chooseRow_kept (g sel : Nat) (cur : Bool) (w : PlayRow) (p : PlayRow) (s : State) : kept (chooseRow g sel cur w p s).1 = kept s := by
  unfold chooseRow; (repeat' split) <;> simp

@[simp] theorem putIngress_kept (cs : List (Nat × Cell)) (s : State) : kept (putIngress cs s) = kept s := by simp [putIngress]

@[simp] theorem fillOut_kept (first len : Nat) (f : Fill) (s : State) : kept (fillOut first len f s) = kept s := by simp [fillOut]

@[simp] theorem stepPlay_kept (g play : Nat) (s : State) : kept (stepPlay g play s) = kept s := by
  unfold stepPlay; (repeat' split) <;> simp

@[simp] theorem playRow_kept (x : RowIn) (g : Nat) (c : List W32) (s : State) : kept (playRow x g c s) = kept s := by
  unfold playRow; dsimp only; (repeat' split) <;> simp_all

@[simp] theorem alnGroupRow_kept (x : RowIn) (g : Nat) (c : List W32) (s : State) : kept (alnGroupRow x g c s) = kept s := by simp [alnGroupRow]

@[simp] theorem offOutputs_kept (x0 : List (Nat × GroupSt)) (x1 : State) : kept (offOutputs x0 x1) = kept x1 := by
  induction x0 generalizing x1 <;> simp only [offOutputs] <;> (repeat' split) <;> simp_all

@[simp] theorem protRow_kept (x : RowIn) (s : State) : kept (protRow x s) = kept s := by simp [protRow]

@[simp] theorem setGroupDefectsClear_kept (g : Nat) (s : State) : kept (setGroupDefectsClear g s) = kept s := by simp [setGroupDefectsClear]

@[simp] theorem apsOff_kept (g : Nat) (s : State) : kept (apsOff g s) = kept s := by simp [apsOff]

@[simp] theorem applyPgCfg_kept (k : Commit) (s : State) : kept (applyPgCfg k s) = kept s := by simp [applyPgCfg]

@[simp] theorem doAlnRealign_kept (rq : Req) (s : State) : kept (doAlnRealign rq s) = kept s := by
  unfold doAlnRealign; refine command_kept _ _ _ _ _ ?_; intro s' hs; simp [hs]

theorem execAlnRealign_kept (rq : Req) (s : State) : OutKeeps (execAlnRealign rq s) (kept s) := by simp [execAlnRealign]

@[simp] theorem applyAlnRealign_kept (k : Commit) (s : State) : kept (applyAlnRealign k s) = kept s := by simp [applyAlnRealign]

@[simp] theorem doPgStatusRead_kept (rq : Req) (s : State) : kept (doPgStatusRead rq s) = kept s := by
  unfold doPgStatusRead; refine command_kept _ _ _ _ _ ?_; intro s' hs; simp [hs]

theorem execPgStatusRead_kept (rq : Req) (s : State) : OutKeeps (execPgStatusRead rq s) (kept s) := by simp [execPgStatusRead]

@[simp] theorem doAlnStatusRead_kept (rq : Req) (s : State) : kept (doAlnStatusRead rq s) = kept s := by
  unfold doAlnStatusRead; refine command_kept _ _ _ _ _ ?_; intro s' hs; simp [hs]

theorem execAlnStatusRead_kept (rq : Req) (s : State) : OutKeeps (execAlnStatusRead rq s) (kept s) := by simp [execAlnStatusRead]

@[simp] theorem doPgSummaryRead_kept (rq : Req) (s : State) : kept (doPgSummaryRead rq s) = kept s := by
  unfold doPgSummaryRead; refine command_kept _ _ _ _ _ ?_; intro s' hs; simp [hs]

theorem execPgSummaryRead_kept (rq : Req) (s : State) : OutKeeps (execPgSummaryRead rq s) (kept s) := by simp [execPgSummaryRead]

/-! ### Strokes -/

@[simp] theorem enterClk_kept (n : ClkState) (s : State) : kept (enterClk n s) = kept s := by simp [enterClk]

@[simp] theorem loseRef_kept (s : State) : kept (loseRef s) = kept s := by simp [loseRef]

@[simp] theorem reselect_kept (pick : Option Nat × Nat) (s : State) : kept (reselect pick s) = kept s := by
  unfold reselect; (repeat' split) <;> simp

@[simp] theorem latchQl_kept (s : State) : kept (latchQl s) = kept s := by simp [latchQl]

@[simp] theorem rxClocks_kept (x : StrokeIn) (s : State) : kept (rxClocks x s) = kept s := by simp [rxClocks]

@[simp] theorem measureRefs_kept (x : StrokeIn) (s : State) : kept (measureRefs x s) = kept s := by simp [measureRefs]

@[simp] theorem strkInPhase_kept (s : State) : kept (strkInPhase s) = kept s := by unfold strkInPhase; (repeat' split) <;> simp

@[simp] theorem ageClk_kept (conds : List (Nat × Nat)) (s : State) : kept (ageClk conds s) = kept s := by simp [ageClk]

theorem execRefWtrClear_kept (c : Fin 24) (s : State) : OutKeeps (execRefWtrClear c s) (kept s) := by simp [execRefWtrClear]

theorem execClockLock_kept (s : State) : OutKeeps (execClockLock s) (kept s) := by simp [execClockLock]

theorem execAcqTimeout_kept (s : State) : OutKeeps (execAcqTimeout s) (kept s) := by simp [execAcqTimeout]

theorem execHistoryValid_kept (s : State) : OutKeeps (execHistoryValid s) (kept s) := by simp [execHistoryValid]

theorem execHoldoverExpired_kept (s : State) : OutKeeps (execHoldoverExpired s) (kept s) := by simp [execHoldoverExpired]

theorem execStrkInEdge_kept (t : Int) (s : State) : OutKeeps (execStrkInEdge t s) (kept s) := by simp [execStrkInEdge]

@[simp] theorem declareLoss_kept (s : State) : kept (declareLoss s) = kept s := by simp [declareLoss]

@[simp] theorem annReceive_kept (p : Nat) (ws : List W32) (arr : Int) (s : State) : kept (annReceive p ws arr s) = kept s := by simp [annReceive]

@[simp] theorem takeRoot_kept (root : Nat × Nat) (standby : Nat × Nat) (up : Option (Nat × AnnRx)) (s : State) : kept (takeRoot root standby up s) = kept s := by
  simp [takeRoot]

@[simp] theorem listLost_kept (s : State) : kept (listLost s) = kept s := by simp [listLost]

@[simp] theorem electRoot_kept (s : State) : kept (electRoot s) = kept s := by unfold electRoot; dsimp only; (repeat' split) <;> simp_all

@[simp] theorem updateForeign_eachOfR_kept (f : Nat → State → State) (hf : ∀ n s, kept (f n s) = kept s) (l : List Nat) (s : State) :
    kept (updateForeign.eachOfR f l s) = kept s := by
  induction l generalizing s <;> simp_all [updateForeign.eachOfR]

@[simp] theorem updateForeign_kept (s : State) : kept (updateForeign s) = kept s := by simp [updateForeign]

@[simp] theorem updateForeign.eachOfR_kept (f : Nat → State → State) (x1 : List Nat) (x2 : State) (hf : ∀ a0 a1, kept (f a0 a1) = kept a1) : kept (updateForeign.eachOfR f x1 x2) = kept x2 := by
  induction x1 generalizing x2 <;> simp_all [updateForeign.eachOfR]

@[simp] theorem rootRow0_kept (pick : Option Nat × Nat) (s : State) : kept (rootRow0 pick s) = kept s := by simp [rootRow0]

theorem execRootCandidateTimeout_kept (s : State) : OutKeeps (execRootCandidateTimeout s) (kept s) := by simp [execRootCandidateTimeout]

theorem execLostListExpiry_kept (s : State) : OutKeeps (execLostListExpiry s) (kept s) := by simp [execLostListExpiry]

@[simp] theorem doStrokeRead_kept (rq : Req) (s : State) : kept (doStrokeRead rq s) = kept s := by
  unfold doStrokeRead; refine command_kept _ _ _ _ _ ?_; intro s' hs; simp [hs]

theorem execStrokeRead_kept (rq : Req) (s : State) : OutKeeps (execStrokeRead rq s) (kept s) := by simp [execStrokeRead]

@[simp] theorem doStrokeSet_kept (rq : Req) (s : State) : kept (doStrokeSet rq s) = kept s := by
  unfold doStrokeSet; refine command_kept _ _ _ _ _ ?_; intro s' hs; simp [hs]

theorem execStrokeSet_kept (rq : Req) (s : State) : OutKeeps (execStrokeSet rq s) (kept s) := by simp [execStrokeSet]

@[simp] theorem doStrokeCfg_kept (rq : Req) (s : State) : kept (doStrokeCfg rq s) = kept s := by
  unfold doStrokeCfg; refine command_kept _ _ _ _ _ ?_; intro s' hs; simp [hs]

theorem execStrokeCfg_kept (rq : Req) (s : State) : OutKeeps (execStrokeCfg rq s) (kept s) := by simp [execStrokeCfg]

@[simp] theorem applyStrokeCfg_kept (c : Commit) (s : State) : kept (applyStrokeCfg c s) = kept s := by simp [applyStrokeCfg]

@[simp] theorem doStrokeJoin_kept (rq : Req) (s : State) : kept (doStrokeJoin rq s) = kept s := by
  unfold doStrokeJoin; refine command_kept _ _ _ _ _ ?_; intro s' hs; simp [hs]

theorem execStrokeJoin_kept (rq : Req) (s : State) : OutKeeps (execStrokeJoin rq s) (kept s) := by simp [execStrokeJoin]

@[simp] theorem doRefCfg_kept (rq : Req) (s : State) : kept (doRefCfg rq s) = kept s := by
  unfold doRefCfg; refine command_kept _ _ _ _ _ ?_; intro s' hs; simp [hs]

theorem execRefCfg_kept (rq : Req) (s : State) : OutKeeps (execRefCfg rq s) (kept s) := by simp [execRefCfg]

@[simp] theorem applyRefCfg_kept (c : Commit) (s : State) : kept (applyRefCfg c s) = kept s := by simp [applyRefCfg]

@[simp] theorem doRefStatusRead_kept (rq : Req) (s : State) : kept (doRefStatusRead rq s) = kept s := by
  unfold doRefStatusRead; refine command_kept _ _ _ _ _ ?_; intro s' hs; simp [hs]

theorem execRefStatusRead_kept (rq : Req) (s : State) : OutKeeps (execRefStatusRead rq s) (kept s) := by simp [execRefStatusRead]

@[simp] theorem doRefForce_kept (rq : Req) (s : State) : kept (doRefForce rq s) = kept s := by
  unfold doRefForce; refine command_kept _ _ _ _ _ ?_; intro s' hs; simp [hs]

theorem execRefForce_kept (rq : Req) (s : State) : OutKeeps (execRefForce rq s) (kept s) := by simp [execRefForce]

@[simp] theorem applyRefForce_kept (c : Commit) (s : State) : kept (applyRefForce c s) = kept s := by simp [applyRefForce]

@[simp] theorem doClkCfg_kept (rq : Req) (s : State) : kept (doClkCfg rq s) = kept s := by
  unfold doClkCfg; refine command_kept _ _ _ _ _ ?_; intro s' hs; simp [hs]

theorem execClkCfg_kept (rq : Req) (s : State) : OutKeeps (execClkCfg rq s) (kept s) := by simp [execClkCfg]

@[simp] theorem applyClkCfg_kept (c : Commit) (s : State) : kept (applyClkCfg c s) = kept s := by simp [applyClkCfg]

@[simp] theorem doCommitListRead_kept (rq : Req) (s : State) : kept (doCommitListRead rq s) = kept s := by
  unfold doCommitListRead; refine command_kept _ _ _ _ _ ?_; intro s' hs; simp [hs]

theorem execCommitListRead_kept (rq : Req) (s : State) : OutKeeps (execCommitListRead rq s) (kept s) := by simp [execCommitListRead]

@[simp] theorem doCommitCancel_kept (rq : Req) (s : State) : kept (doCommitCancel rq s) = kept s := by
  unfold doCommitCancel; refine command_kept _ _ _ _ _ ?_; intro s' hs; simp [hs]

theorem execCommitCancel_kept (rq : Req) (s : State) : OutKeeps (execCommitCancel rq s) (kept s) := by simp [execCommitCancel]

/-! ### HostPort -/

@[simp] theorem cmdSizeWrite_kept (c : Nat) (v : W32) (s : State) : kept (cmdSizeWrite c v s) = kept s := by simp [cmdSizeWrite]

@[simp] theorem rplSizeWrite_kept (c : Nat) (v : W32) (s : State) : kept (rplSizeWrite c v s) = kept s := by simp [rplSizeWrite]

@[simp] theorem rplHeadWrite_kept (c : Nat) (v : W32) (s : State) : kept (rplHeadWrite c v s) = kept s := by simp [rplHeadWrite]

@[simp] theorem cmdFlush_kept (c : Nat) (s : State) : kept (cmdFlush c s) = kept s := by simp [cmdFlush]

@[simp] theorem rplFlush_kept (c : Nat) (s : State) : kept (rplFlush c s) = kept s := by simp [rplFlush]

@[simp] theorem eachOf_kept (f : Nat → State → State) (x1 : List Nat) (x2 : State) (hf : ∀ a0 a1, kept (f a0 a1) = kept a1) : kept (eachOf f x1 x2) = kept x2 := by
  induction x1 generalizing x2 <;> simp_all [eachOf]

@[simp] theorem intStatusWrite_kept (w : W32) (s : State) : kept (intStatusWrite w s) = kept s := by simp [intStatusWrite]

@[simp] theorem bar0Write_kept (off : Nat) (v : W32) (s : State) : kept (bar0Write off v s) = kept s := by simp [bar0Write]

theorem execCmdTailDoorbell_kept (ch : Fin 4) (v : W32) (s : State) : OutKeeps (execCmdTailDoorbell ch v s) (kept s) := by
  simp [execCmdTailDoorbell]

theorem execCmdSizeWrite_kept (ch : Fin 4) (v : W32) (s : State) : OutKeeps (execCmdSizeWrite ch v s) (kept s) := by simp [execCmdSizeWrite]

theorem execRplSizeWrite_kept (ch : Fin 4) (v : W32) (s : State) : OutKeeps (execRplSizeWrite ch v s) (kept s) := by simp [execRplSizeWrite]

theorem execRplHeadWrite_kept (ch : Fin 4) (v : W32) (s : State) : OutKeeps (execRplHeadWrite ch v s) (kept s) := by simp [execRplHeadWrite]

theorem execCmdFlush_kept (mask : BitVec 4) (s : State) : OutKeeps (execCmdFlush mask s) (kept s) := by simp [execCmdFlush]

theorem execRplFlush_kept (mask : BitVec 4) (s : State) : OutKeeps (execRplFlush mask s) (kept s) := by simp [execRplFlush]

theorem execIntStatusW1c_kept (w : W32) (s : State) : OutKeeps (execIntStatusW1c w s) (kept s) := by simp [execIntStatusW1c]

theorem execBar0RegisterWrite_kept (off : W12) (v : W32) (s : State) : OutKeeps (execBar0RegisterWrite off v s) (kept s) := by
  simp [execBar0RegisterWrite]

@[simp] theorem rawReply_kept (q : Fin 6) (ws : List W32) (r : Rej) (s : State) : kept (rawReply q ws r s) = kept s := by simp [rawReply]

@[simp] theorem advanceHead_kept (c n : Nat) (s : State) : kept (advanceHead c n s) = kept s := by simp [advanceHead]

@[simp] theorem fetch_kept (push : Nat → List W32 → State → State) (ch : Fin 4) (ws : List W32) (good : Bool) (s : State) (hpush : ∀ a0 a1 a2, kept (push a0 a1 a2) = kept a2) : kept (fetch push ch ws good s) = kept s := by
  simp [fetch, hpush]

@[simp] theorem ringPut_kept (ch : Fin 4) (head : Option W32) (p : List W32) (s : State) : kept (ringPut ch head p s) = kept s := by simp [ringPut]

@[simp] theorem ringWrite_kept (ch : Fin 4) (head : Option W32) (s : State) : kept (ringWrite ch head s) = kept s := by
  unfold ringWrite; (repeat' split) <;> simp

theorem execReplyRingWrite_kept (w : RingWrite) (s : State) : OutKeeps (execReplyRingWrite w s) (kept s) := by
  simp [execReplyRingWrite]

@[simp] theorem spiPacket_kept (push : Nat → List W32 → State → State) (bs : List Byte) (s : State) (hpush : ∀ a0 a1 a2, kept (push a0 a1 a2) = kept a2) : kept (spiPacket push bs s) = kept s := by
  simp [spiPacket, hpush]

@[simp] theorem spiRead_kept (clocked : Nat) (s : State) : kept (spiRead clocked s) = kept s := by unfold spiRead; (repeat' split) <;> simp

theorem execRplRead_kept (clocked : Nat) (s : State) : OutKeeps (execRplRead clocked s) (kept s) := by simp [execRplRead]

theorem execStatusRead_kept (s : State) : OutKeeps (execStatusRead s) (kept s) := by simp [execStatusRead]

theorem execFlush_kept (b : Byte) (s : State) : OutKeeps (execFlush b s) (kept s) := by simp [execFlush]

theorem execSpiBad_kept (b : Byte) (s : State) : OutKeeps (execSpiBad b s) (kept s) := by simp [execSpiBad]

end Sys2Proof.Machine
end

