-- ==== Sys2Proof/Laws/FrameFabric.lean ====
section
/-! SUPPORT. What the operations of the fabric keep (`Kept`): one lemma each, cited instead of unfolding. -/

set_option Elab.async false

namespace Sys2Proof.Machine

/-! ### Fabric -/

@[simp] theorem enqueue_kept (high : Bool) (p : Nat) (ws : List W32) (s : State) : kept (enqueue high p ws s) = kept s := by simp [enqueue]

@[simp] theorem enqueueAll_kept (high : Bool) (ws : List W32) (x2 : List Nat) (x3 : State) : kept (enqueueAll high ws x2 x3) = kept x3 := by
  induction x2 generalizing x3 with
  | nil => rfl
  | cons a l ih => rw [enqueueAll, ih]; simp

@[simp] theorem ctlPurge_kept (p : Nat) (s : State) : kept (ctlPurge p s) = kept s := by simp [ctlPurge]

@[simp] theorem envelopeSend_kept (p : Nat) (s : State) : kept (envelopeSend p s) = kept s := by
  unfold envelopeSend; dsimp only; (repeat' split) <;> simp_all

theorem execEnvelopeTransmit_kept (p : Fin 12) (s : State) : OutKeeps (execEnvelopeTransmit p s) (kept s) := by simp [execEnvelopeTransmit]

@[simp] theorem ccRow_kept (p ptr : Nat) (bs : List Byte) (s : State) : kept (ccRow p ptr bs s) = kept s := by simp [ccRow]

@[simp] theorem ccLost_kept (p : Nat) (s : State) : kept (ccLost p s) = kept s := by simp [ccLost]

@[simp] theorem helloSend_kept (p : Nat) (s : State) : kept (helloSend p s) = kept s := by simp [helloSend]

theorem execHelloSend_kept (p : Fin 12) (s : State) : OutKeeps (execHelloSend p s) (kept s) := by simp [execHelloSend]

@[simp] theorem helloChange_kept (s : State) : kept (helloChange s) = kept s := by simp [helloChange]

@[simp] theorem adjDrop_kept (p : Nat) (a : Adj) (s : State) : kept (adjDrop p a s) = kept s := by simp [adjDrop]

@[simp] theorem adjNone_kept (p : Nat) (s : State) : kept (adjNone p s) = kept s := by simp [adjNone]

@[simp] theorem helloLoss_kept (p : Nat) (s : State) : kept (helloLoss p s) = kept s := by simp [helloLoss]

theorem execHelloLoss_kept (p : Fin 12) (s : State) : OutKeeps (execHelloLoss p s) (kept s) := by simp [execHelloLoss]

@[simp] theorem lspOriginate_kept (s : State) : kept (lspOriginate s) = kept s := by simp [lspOriginate]

theorem execLspOriginate_kept (s : State) : OutKeeps (execLspOriginate s) (kept s) := by simp [execLspOriginate]

@[simp] theorem lspAgeing_kept (s : State) : kept (lspAgeing s) = kept s := by simp [lspAgeing]

theorem execLspAgeing_kept (s : State) : OutKeeps (execLspAgeing s) (kept s) := by simp [execLspAgeing]

@[simp] theorem sendDb_kept (p : Nat) (x1 : List Lsp) (x2 : State) : kept (sendDb p x1 x2) = kept x2 := by
  induction x1 generalizing p x2 <;> simp_all [sendDb]

@[simp] theorem helloFresh_kept (p : Nat) (b : List W32) (s : State) : kept (helloFresh p b s) = kept s := by simp [helloFresh]

@[simp] theorem helloSeen_kept (p : Nat) (b : List W32) (s : State) : kept (helloSeen p b s) = kept s := by
  unfold helloSeen
  extract_lets old adj s1 s2 s3 mm
  have h1 : kept s1 = kept s := onPort_kept _ _ _
  clear_value s1
  have h2 : kept s2 = kept s := by simp only [s2]; split <;> simp [h1]
  clear_value s2
  have h3 : kept s3 = kept s := by simp only [s3]; split <;> simp [h2]
  clear_value s3
  rw [noteChange_kept, onPort_kept, h3]

@[simp] theorem helloTake_kept (p : Nat) (b : List W32) (s : State) : kept (helloTake p b s) = kept s := by
  unfold helloTake
  extract_lets s1 old adj t t2
  have h1 : kept s1 = kept s := helloFresh_kept _ _ _
  clear_value s1
  have ht : kept t = kept s := (helloSeen_kept _ _ _).trans h1
  clear_value t
  have h2 : kept t2 = kept s := (kept_onFab _ _).trans ht
  clear_value t2
  split
  · exact ht
  · split
    · exact (sendDb_kept _ _ _).trans h2
    · exact h2

/-- Taking an envelope keeps all. -/
theorem takeEnvelope_kept {p k : Nat} {ws : List W32} {s t : State} (h : takeEnvelope p k ws s = some t) : kept t = kept s := by
  unfold takeEnvelope at h
  split at h
  · obtain rfl := Option.some.inj h; simp
  · cases h

@[simp] theorem helloRx_kept (p : Nat) (ws : List W32) (s : State) : kept (helloRx p ws s) = kept s := by
  unfold helloRx
  split
  · rfl
  · rename_i t ht
    have h := takeEnvelope_kept ht
    split <;> simp [h]

theorem execHelloRx_kept (p : Fin 12) (ws : List W32) (s : State) : OutKeeps (execHelloRx p ws s) (kept s) := by simp [execHelloRx]

@[simp] theorem chooseAddr_kept (s : State) : kept (chooseAddr s) = kept s := by simp [chooseAddr]

@[simp] theorem addrWaitEnd_kept (s : State) : kept (addrWaitEnd s) = kept s := by unfold addrWaitEnd; (repeat' split) <;> simp

theorem execAddrWaitEnd_kept (s : State) : OutKeeps (execAddrWaitEnd s) (kept s) := by simp [execAddrWaitEnd]

@[simp] theorem addrClaimed_kept (s : State) : kept (addrClaimed s) = kept s := by simp [addrClaimed]

theorem execAddrClaimed_kept (s : State) : OutKeeps (execAddrClaimed s) (kept s) := by simp [execAddrClaimed]

@[simp] theorem addrConflict_kept (s : State) : kept (addrConflict s) = kept s := by simp [addrConflict]

@[simp] theorem addrRow0_kept (s : State) : kept (addrRow0 s) = kept s := by simp [addrRow0]

@[simp] theorem lspTake_kept (p origin : Nat) (l : Lsp) (s : State) : kept (lspTake p origin l s) = kept s := by
  unfold lspTake; dsimp only; (repeat' split) <;> simp_all

@[simp] theorem lspRx_kept (p : Nat) (ws : List W32) (s : State) : kept (lspRx p ws s) = kept s := by
  unfold lspRx
  split
  · rfl
  · rename_i t ht
    have h := takeEnvelope_kept ht
    (repeat' split) <;> simp [h]

theorem execLspRx_kept (p : Fin 12) (ws : List W32) (s : State) : OutKeeps (execLspRx p ws s) (kept s) := by simp [execLspRx]

@[simp] theorem routeRecompute_kept (s : State) : kept (routeRecompute s) = kept s := by simp [routeRecompute]

theorem execRouteRecompute_kept (s : State) : OutKeeps (execRouteRecompute s) (kept s) := by simp [execRouteRecompute]

@[simp] theorem routesRow0_kept (s : State) : kept (routesRow0 s) = kept s := by unfold routesRow0; (repeat' split) <;> simp

@[simp] theorem routePacket_kept (hops origin : Nat) (ws : List W32) (s : State) : kept (routePacket hops origin ws s) = kept s := by
  simp [routePacket]

@[simp] theorem fabricCommand_kept (ws : List W32) (s : State) : kept (fabricCommand ws s) = kept s := by simp [fabricCommand]

@[simp] theorem fabricReply_kept (ws : List W32) (s : State) : kept (fabricReply ws s) = kept s := by unfold fabricReply; (repeat' split) <;> simp

@[simp] theorem fabricReplyNext_kept (ws : List W32) (s : State) : kept (fabricReplyNext ws s) = kept s := by unfold fabricReplyNext; (repeat' split) <;> simp

theorem execFabricReplyRx_kept (ws : List W32) (s : State) : OutKeeps (execFabricReplyRx ws s) (kept s) := by simp [execFabricReplyRx]

theorem bcTake_kept (origin bseq : Nat) (s : State) : OptKeeps (bcTake origin bseq s) (kept s) := by
  unfold bcTake
  split
  · simp
  · intro t ht
    obtain ⟨q, -, rfl⟩ := Option.map_eq_some_iff.mp ht
    simp

@[simp] theorem bcExpiry_kept (s : State) : kept (bcExpiry s) = kept s := by simp [bcExpiry]

theorem execBroadcastRecordExpiry_kept (s : State) : OutKeeps (execBroadcastRecordExpiry s) (kept s) := by simp [execBroadcastRecordExpiry]

@[simp] theorem floodOn_kept (p : Nat) (ws : List W32) (s : State) : kept (floodOn p ws s) = kept s := by simp [floodOn]

@[simp] theorem polastTake_kept (p : Nat) (ws : List W32) (s : State) : kept (polastTake p ws s) = kept s := by
  simp only [polastTake]
  split
  · simp
  · split
    · split
      · simp
      · rename_i t ht
        have h := bcTake_kept _ _ _ t ht
        (repeat' split) <;> simp [h]
    · (repeat' split) <;> simp

@[simp] theorem polastRx_kept (p : Nat) (ws : List W32) (s : State) : kept (polastRx p ws s) = kept s := by
  unfold polastRx
  split
  · rfl
  · rename_i t ht
    have h := takeEnvelope_kept ht
    split <;> simp [h]

theorem execPolastEnvelopeRx_kept (p : Fin 12) (ws : List W32) (s : State) : OutKeeps (execPolastEnvelopeRx p ws s) (kept s) := by simp [execPolastEnvelopeRx]

@[simp] theorem bcOwn_kept (s : State) : kept (bcOwn s) = kept s := by
  unfold bcOwn
  split
  · exact bcTake_kept _ _ _ _ ‹_›
  · rfl

@[simp] theorem sendCommand_kept (ws : List W32) (s : State) : kept (sendCommand ws s) = kept s := by simp [sendCommand]

@[simp] theorem drainRq5_kept (s : State) : kept (drainRq5 s) = kept s := by unfold drainRq5; (repeat' split) <;> simp

@[simp] theorem pathSync_kept (rq : Req) (s : State) : kept (pathSync rq s) = kept s := by simp [pathSync]

@[simp] theorem pathWrite_kept (k : Nat) (rq : Req) (s : State) : kept (pathWrite k rq s) = kept s := by simp [pathWrite]

@[simp] theorem addRecord_kept (q : Fin 6) (tag : W16) (target : W12) (src : W12) (opcode : Nat) (s : State) : kept (addRecord q tag target src opcode s) = kept s := by
  simp [addRecord]

@[simp] theorem pathNext_kept (k level hops origin : Nat) (rq : Req) (packet : List W32) (s : State) : kept (pathNext k level hops origin rq packet s) = kept s := by
  unfold pathNext; (repeat' split) <;> simp

@[simp] theorem doFabPathSet_kept (rq : Req) (s : State) : kept (doFabPathSet rq s) = kept s := by
  unfold doFabPathSet
  refine command_kept _ _ _ _ _ ?_
  intro s' hs
  dsimp only
  (repeat' split) <;> simp [hs]

theorem execFabPathSet_kept (rq : Req) (s : State) : OutKeeps (execFabPathSet rq s) (kept s) := by simp [execFabPathSet]

@[simp] theorem pathHop_kept (p level k hops origin : Nat) (packet : List W32) (s : State) : kept (pathHop p level k hops origin packet s) = kept s := by
  unfold pathHop; dsimp only; (repeat' split) <;> simp_all

@[simp] theorem pathHopRx_kept (p : Nat) (ws : List W32) (s : State) : kept (pathHopRx p ws s) = kept s := by
  unfold pathHopRx
  split
  · rfl
  · rename_i t ht
    have h := takeEnvelope_kept ht
    dsimp only
    split <;> simp [h]

theorem execPathHopRx_kept (p : Fin 12) (ws : List W32) (s : State) : OutKeeps (execPathHopRx p ws s) (kept s) := by simp [execPathHopRx]

@[simp] theorem enterTrain_kept (p : Nat) (s : State) : kept (enterTrain p s) = kept s := by simp [enterTrain]

@[simp] theorem enterDown_kept (p : Nat) (s : State) : kept (enterDown p s) = kept s := by simp [enterDown]

@[simp] theorem enterSync_kept (p : Nat) (s : State) : kept (enterSync p s) = kept s := by simp [enterSync]

@[simp] theorem declareFlos_kept (p : Nat) (s : State) : kept (declareFlos p s) = kept s := by simp [declareFlos]

@[simp] theorem huntTimeoutFab_kept (p : Nat) (s : State) : kept (huntTimeoutFab p s) = kept s := by simp [huntTimeoutFab]

theorem execFabHuntTimeout_kept (p : Fin 12) (s : State) : OutKeeps (execFabHuntTimeout p s) (kept s) := by simp [execFabHuntTimeout]

@[simp] theorem portRow0_kept (p : Nat) (s : State) : kept (portRow0 p s) = kept s := by unfold portRow0; dsimp only; (repeat' split) <;> simp_all

@[simp] theorem eachPort_kept (f : Nat → State → State) (x1 : List Nat) (x2 : State) (hf : ∀ a0 a1, kept (f a0 a1) = kept a1) : kept (eachPort f x1 x2) = kept x2 := by
  induction x1 generalizing x2 <;> simp_all [eachPort]

@[simp] theorem fabStroke_kept (s : State) : kept (fabStroke s) = kept s := by simp [fabStroke]

@[simp] theorem sdegSecond_kept (p : Nat) (s : State) : kept (sdegSecond p s) = kept s := by simp [sdegSecond]

@[simp] theorem sendLanes_kept (p : Nat) (syms : List Nat) (x2 : List Nat) (x3 : State) : kept (sendLanes p syms x2 x3) = kept x3 := by
  induction x2 generalizing p syms x3 <;> simp_all [sendLanes]

@[simp] theorem fabSend_kept (p : Nat) (s : State) : kept (fabSend p s) = kept s := by simp [fabSend]

@[simp] theorem resendLanes_kept (p : Nat) (r : LinkRow) (x2 : List Nat) (x3 : State) : kept (resendLanes p r x2 x3) = kept x3 := by
  induction x2 generalizing p r x3 <;> simp_all [resendLanes]

@[simp] theorem fecCount_kept (p : Nat) (r : RowGot) (s : State) : kept (fecCount p r s) = kept s := by simp [fecCount]

@[simp] theorem alignPush_kept (p t : Nat) (cells : List (Nat × Cell)) (s : State) : kept (alignPush p t cells s) = kept s := by
  simp [alignPush]

@[simp] theorem rowHeader_kept (p : Nat) (r : RowGot) (s : State) : kept (rowHeader p r s) = kept s := by simp [rowHeader]

@[simp] theorem huntRow_kept (p : Nat) (r : RowGot) (s : State) : kept (huntRow p r s) = kept s := by simp [huntRow]

@[simp] theorem syncRow_kept (p : Nat) (r : RowGot) (s : State) : kept (syncRow p r s) = kept s := by simp [syncRow]

@[simp] theorem judgeRow_kept (p : Nat) (r : RowGot) (s : State) : kept (judgeRow p r s) = kept s := by simp [judgeRow]

@[simp] theorem linkRow_kept (p : Nat) (r : LinkRow) (s : State) : kept (linkRow p r s) = kept s := by
  unfold linkRow; dsimp only; (repeat' split) <;> simp_all

theorem execFabLinkRowRx_kept (p : Fin 12) (row : LinkRow) (s : State) : OutKeeps (execFabLinkRowRx p row s) (kept s) := by simp [execFabLinkRowRx]

@[simp] theorem releaseRow_kept (p : Nat) (s : State) : kept (releaseRow p s).1 = kept s := by
  unfold releaseRow; dsimp only; (repeat' split) <;> simp_all

@[simp] theorem fabIngress_kept (x0 : List Nat) (x1 : State) : kept (fabIngress x0 x1) = kept x1 := by
  induction x0 generalizing x1 <;> simp only [fabIngress] <;> (repeat' split) <;> simp_all

@[simp] theorem foreignMoves_kept (was : List Nat) (x1 : List Nat) (x2 : State) : kept (foreignMoves was x1 x2) = kept x2 := by
  induction x1 generalizing was x2 <;> simp_all [foreignMoves]

@[simp] theorem doFabCfg_kept (rq : Req) (s : State) : kept (doFabCfg rq s) = kept s := by
  unfold doFabCfg; refine command_kept _ _ _ _ _ ?_; intro s' hs; simp [hs]

theorem execFabCfg_kept (rq : Req) (s : State) : OutKeeps (execFabCfg rq s) (kept s) := by simp [execFabCfg]

@[simp] theorem applyFabCfg_kept (c : Commit) (s : State) : kept (applyFabCfg c s) = kept s := by simp [applyFabCfg]

@[simp] theorem doFabStatusRead_kept (rq : Req) (s : State) : kept (doFabStatusRead rq s) = kept s := by
  unfold doFabStatusRead; refine command_kept _ _ _ _ _ ?_; intro s' hs; simp [hs]

theorem execFabStatusRead_kept (rq : Req) (s : State) : OutKeeps (execFabStatusRead rq s) (kept s) := by simp [execFabStatusRead]

@[simp] theorem doFabPortCfg_kept (rq : Req) (s : State) : kept (doFabPortCfg rq s) = kept s := by
  unfold doFabPortCfg; refine command_kept _ _ _ _ _ ?_; intro s' hs; simp [hs]

theorem execFabPortCfg_kept (rq : Req) (s : State) : OutKeeps (execFabPortCfg rq s) (kept s) := by simp [execFabPortCfg]

@[simp] theorem applyFabPortCfg_kept (c : Commit) (s : State) : kept (applyFabPortCfg c s) = kept s := by simp [applyFabPortCfg]

@[simp] theorem doFabPortStatusRead_kept (rq : Req) (s : State) : kept (doFabPortStatusRead rq s) = kept s := by
  unfold doFabPortStatusRead; refine command_kept _ _ _ _ _ ?_; intro s' hs; simp [hs]

theorem execFabPortStatusRead_kept (rq : Req) (s : State) : OutKeeps (execFabPortStatusRead rq s) (kept s) := by simp [execFabPortStatusRead]

@[simp] theorem doFabRouteRead_kept (rq : Req) (s : State) : kept (doFabRouteRead rq s) = kept s := by
  unfold doFabRouteRead; refine command_kept _ _ _ _ _ ?_; intro s' hs; simp [hs]

theorem execFabRouteRead_kept (rq : Req) (s : State) : OutKeeps (execFabRouteRead rq s) (kept s) := by simp [execFabRouteRead]

@[simp] theorem doFabLsdbRead_kept (rq : Req) (s : State) : kept (doFabLsdbRead rq s) = kept s := by
  unfold doFabLsdbRead; refine command_kept _ _ _ _ _ ?_; intro s' hs; simp [hs]

theorem execFabLsdbRead_kept (rq : Req) (s : State) : OutKeeps (execFabLsdbRead rq s) (kept s) := by simp [execFabLsdbRead]

end Sys2Proof.Machine
end

