-- ==== Sys2Proof/Laws/FrameLine.lean ====
section
/-! SUPPORT. What the operations of the line engines and the optics keep (`Kept`): one lemma each, cited instead of unfolding. -/

set_option Elab.async false

namespace Sys2Proof.Machine

/-! ### LineTx -/

@[simp] theorem onTxEng_kept (e : Nat) (f : TxSt → TxSt) (s : State) : kept (onTxEng e f s) = kept s := by simp [onTxEng]

@[simp] theorem doTxCfg_kept (rq : Req) (s : State) : kept (doTxCfg rq s) = kept s := by
  unfold doTxCfg; refine command_kept _ _ _ _ _ ?_; intro s' hs; simp [hs]

theorem execTxCfg_kept (rq : Req) (s : State) : OutKeeps (execTxCfg rq s) (kept s) := by simp [execTxCfg]

@[simp] theorem txEnable_kept (e : Nat) (s : State) : kept (txEnable e s) = kept s := by simp [txEnable]

@[simp] theorem txDisable_kept (e : Nat) (s : State) : kept (txDisable e s) = kept s := by simp [txDisable]

@[simp] theorem txRateLimit_kept (e : Nat) (s : State) : kept (txRateLimit e s) = kept s := by simp [txRateLimit]

@[simp] theorem restartFrames_kept (es : List Nat) (s : State) : kept (restartFrames es s) = kept s := by simp [restartFrames]

@[simp] theorem applyTxCfg_kept (k : Commit) (s : State) : kept (applyTxCfg k s) = kept s := by simp [applyTxCfg]

@[simp] theorem doTxRead_kept (rq : Req) (s : State) : kept (doTxRead rq s) = kept s := by
  unfold doTxRead; refine command_kept _ _ _ _ _ ?_; intro s' hs; simp [hs]

theorem execTxRead_kept (rq : Req) (s : State) : OutKeeps (execTxRead rq s) (kept s) := by simp [execTxRead]

@[simp] theorem doTxPreemph_kept (rq : Req) (s : State) : kept (doTxPreemph rq s) = kept s := by
  unfold doTxPreemph; refine command_kept _ _ _ _ _ ?_; intro s' hs; simp [hs]

theorem execTxPreemph_kept (rq : Req) (s : State) : OutKeeps (execTxPreemph rq s) (kept s) := by simp [execTxPreemph]

@[simp] theorem applyTxPreemph_kept (k : Commit) (s : State) : kept (applyTxPreemph k s) = kept s := by simp [applyTxPreemph]

@[simp] theorem doTxPreemphRead_kept (rq : Req) (s : State) : kept (doTxPreemphRead rq s) = kept s := by
  unfold doTxPreemphRead; refine command_kept _ _ _ _ _ ?_; intro s' hs; simp [hs]

theorem execTxPreemphRead_kept (rq : Req) (s : State) : OutKeeps (execTxPreemphRead rq s) (kept s) := by simp [execTxPreemphRead]

@[simp] theorem doLineBondCfg_kept (rq : Req) (s : State) : kept (doLineBondCfg rq s) = kept s := by
  unfold doLineBondCfg; refine command_kept _ _ _ _ _ ?_; intro s' hs; simp [hs]

theorem execLineBondCfg_kept (rq : Req) (s : State) : OutKeeps (execLineBondCfg rq s) (kept s) := by simp [execLineBondCfg]

@[simp] theorem applyLineBondCfg_kept (k : Commit) (s : State) : kept (applyLineBondCfg k s) = kept s := by simp [applyLineBondCfg]

@[simp] theorem rampRow_kept (s : State) : kept (rampRow s) = kept s := by simp [rampRow]

@[simp] theorem doTxStatusRead_kept (rq : Req) (s : State) : kept (doTxStatusRead rq s) = kept s := by
  unfold doTxStatusRead; refine command_kept _ _ _ _ _ ?_; intro s' hs; simp [hs]

theorem execTxStatusRead_kept (rq : Req) (s : State) : OutKeeps (execTxStatusRead rq s) (kept s) := by simp [execTxStatusRead]

@[simp] theorem calAge_kept (e l : Nat) (s : State) : kept (calAge e l s) = kept s := by simp [calAge]

@[simp] theorem calLimit_kept (e l : Nat) (s : State) : kept (calLimit e l s) = kept s := by simp [calLimit]

theorem execCalLimit_kept (e : Fin 4) (loop : Nat) (s : State) : OutKeeps (execCalLimit e loop s) (kept s) := by simp [execCalLimit]

@[simp] theorem doTxCalCfg_kept (rq : Req) (s : State) : kept (doTxCalCfg rq s) = kept s := by
  unfold doTxCalCfg; refine command_kept _ _ _ _ _ ?_; intro s' hs; simp [hs]

theorem execTxCalCfg_kept (rq : Req) (s : State) : OutKeeps (execTxCalCfg rq s) (kept s) := by simp [execTxCalCfg]

@[simp] theorem applyTxCalCfg_kept (k : Commit) (s : State) : kept (applyTxCalCfg k s) = kept s := by simp [applyTxCalCfg]

@[simp] theorem doTxCalRead_kept (rq : Req) (s : State) : kept (doTxCalRead rq s) = kept s := by
  unfold doTxCalRead; refine command_kept _ _ _ _ _ ?_; intro s' hs; simp [hs]

theorem execTxCalRead_kept (rq : Req) (s : State) : OutKeeps (execTxCalRead rq s) (kept s) := by simp [execTxCalRead]

@[simp] theorem txStroke_kept (x : StrokeIn) (s : State) : kept (txStroke x s) = kept s := by simp [txStroke]

@[simp] theorem txRow0_kept (s : State) : kept (txRow0 s) = kept s := by simp [txRow0]

/-! ### Optics -/

@[simp] theorem onHk_kept (c : Nat) (f : HkSt → HkSt) (s : State) : kept (onHk c f s) = kept s := by simp [onHk]

@[simp] theorem onOut_kept (n : Nat) (f : OutSt → OutSt) (s : State) : kept (onOut n f s) = kept s := by simp [onOut]

@[simp] theorem onBl_kept (l : Nat) (f : BlSt → BlSt) (s : State) : kept (onBl l f s) = kept s := by simp [onBl]

@[simp] theorem onI2c_kept (m : Nat) (f : I2cSt → I2cSt) (s : State) : kept (onI2c m f s) = kept s := by simp [onI2c]

@[simp] theorem onFilt_kept (c e : Nat) (f : HkFilter → HkFilter) (s : State) : kept (onFilt c e f s) = kept s := by simp [onFilt]

@[simp] theorem emptyFilts_kept (c : Nat) (x1 : List Nat) (x2 : State) : kept (emptyFilts c x1 x2) = kept x2 := by
  induction x1 generalizing c x2 <;> simp_all [emptyFilts]

@[simp] theorem sweepFilters_kept (s : State) : kept (sweepFilters s) = kept s := by simp [sweepFilters]

@[simp] theorem doHkCfg_kept (rq : Req) (s : State) : kept (doHkCfg rq s) = kept s := by
  unfold doHkCfg; refine command_kept _ _ _ _ _ ?_; intro s' hs; simp [hs]

theorem execHkCfg_kept (rq : Req) (s : State) : OutKeeps (execHkCfg rq s) (kept s) := by simp [execHkCfg]

@[simp] theorem applyHkCfg_kept (p : Commit) (s : State) : kept (applyHkCfg p s) = kept s := by simp [applyHkCfg]

@[simp] theorem doHkRead_kept (rq : Req) (s : State) : kept (doHkRead rq s) = kept s := by
  unfold doHkRead; refine command_kept _ _ _ _ _ ?_; intro s' hs; simp [hs]

theorem execHkRead_kept (rq : Req) (s : State) : OutKeeps (execHkRead rq s) (kept s) := by simp [execHkRead]

@[simp] theorem doHkTrigger_kept (rq : Req) (s : State) : kept (doHkTrigger rq s) = kept s := by
  unfold doHkTrigger; refine command_kept _ _ _ _ _ ?_; intro s' hs; simp [hs]

theorem execHkTrigger_kept (rq : Req) (s : State) : OutKeeps (execHkTrigger rq s) (kept s) := by simp [execHkTrigger]

@[simp] theorem applyHkTrigger_kept (p : Commit) (s : State) : kept (applyHkTrigger p s) = kept s := by simp [applyHkTrigger]

@[simp] theorem hkRow0_kept (c : Nat) (s : State) : kept (hkRow0 c s) = kept s := by simp [hkRow0]

@[simp] theorem hkResult_kept (c e raw : Nat) (ovr stale : Bool) (w : W32) (s : State) : kept (hkResult c e raw ovr stale w s) = kept s := by
  simp [hkResult]

@[simp] theorem setOutCfg2_kept (n : Nat) (w : W32) (s : State) : kept (setOutCfg2 n w s) = kept s := by simp [setOutCfg2]

@[simp] theorem doOutCfg_kept (rq : Req) (s : State) : kept (doOutCfg rq s) = kept s := by
  unfold doOutCfg; refine command_kept _ _ _ _ _ ?_; intro s' hs; simp [hs]

theorem execOutCfg_kept (rq : Req) (s : State) : OutKeeps (execOutCfg rq s) (kept s) := by simp [execOutCfg]

@[simp] theorem applyOutCfg_kept (c : Commit) (s : State) : kept (applyOutCfg c s) = kept s := by
  unfold applyOutCfg; dsimp only; split <;> simp

@[simp] theorem doOutRead_kept (rq : Req) (s : State) : kept (doOutRead rq s) = kept s := by
  unfold doOutRead; refine command_kept _ _ _ _ _ ?_; intro s' hs; simp [hs]

theorem execOutRead_kept (rq : Req) (s : State) : OutKeeps (execOutRead rq s) (kept s) := by simp [execOutRead]

@[simp] theorem outsRow0_kept (x0 : List Nat) (x1 : State) : kept (outsRow0 x0 x1) = kept x1 := by
  induction x0 generalizing x1 <;> simp_all [outsRow0]

@[simp] theorem htrStroke_kept (fail : List Nat) (x1 : List Nat) (x2 : State) : kept (htrStroke fail x1 x2) = kept x2 := by
  induction x1 generalizing fail x2 <;> simp_all [htrStroke]

@[simp] theorem doBlCfg_kept (rq : Req) (s : State) : kept (doBlCfg rq s) = kept s := by
  unfold doBlCfg; refine command_kept _ _ _ _ _ ?_; intro s' hs; simp [hs]

theorem execBlCfg_kept (rq : Req) (s : State) : OutKeeps (execBlCfg rq s) (kept s) := by simp [execBlCfg]

@[simp] theorem blStop_kept (l : Nat) (s : State) : kept (blStop l s) = kept s := by simp [blStop]

@[simp] theorem applyBlCfg_kept (c : Commit) (s : State) : kept (applyBlCfg c s) = kept s := by
  unfold applyBlCfg; dsimp only; (repeat' split) <;> simp_all

@[simp] theorem doBlRead_kept (rq : Req) (s : State) : kept (doBlRead rq s) = kept s := by
  unfold doBlRead; refine command_kept _ _ _ _ _ ?_; intro s' hs; simp [hs]

theorem execBlRead_kept (rq : Req) (s : State) : OutKeeps (execBlRead rq s) (kept s) := by simp [execBlRead]

@[simp] theorem blMoves_kept (x0 : List Nat) (x1 : State) : kept (blMoves x0 x1) = kept x1 := by
  induction x0 generalizing x1 <;> simp only [blMoves] <;> (repeat' split) <;> simp_all

@[simp] theorem blRow0_kept (l : Nat) (s : State) : kept (blRow0 l s) = kept s := by unfold blRow0; dsimp only; (repeat' split) <;> simp_all

@[simp] theorem eachBl_kept (f : Nat → State → State) (x1 : List Nat) (x2 : State) (hf : ∀ a0 a1, kept (f a0 a1) = kept a1) : kept (eachBl f x1 x2) = kept x2 := by
  induction x1 generalizing x2 <;> simp_all [eachBl]

@[simp] theorem blSample_kept (c e raw start l : Nat) (s : State) : kept (blSample c e raw start l s) = kept s := by
  unfold blSample; dsimp only; (repeat' split) <;> simp_all

@[simp] theorem hkDeliver_kept (c : Nat) (r : HkRun) (nv : Int) (s : State) : kept (hkDeliver c r nv s) = kept s := by simp [hkDeliver]

@[simp] theorem hkConversionDone_kept (c e : Nat) (vin : List (Fin 32 × Int)) (s : State) : kept (hkConversionDone c e vin s) = kept s := by
  unfold hkConversionDone; (repeat' split) <;> simp

theorem execHkConversionDone_kept (conv : Fin 2) (entry : Nat) (vin : List (Fin 32 × Int)) (s : State) : OutKeeps (execHkConversionDone conv entry vin s) (kept s) := by
  simp [execHkConversionDone]

@[simp] theorem blCorrect_kept (l : Nat) (c : Int) (s : State) : kept (blCorrect l c s) = kept s := by simp [blCorrect]

@[simp] theorem blWindowEnd_kept (l : Nat) (s : State) : kept (blWindowEnd l s) = kept s := by
  unfold blWindowEnd; dsimp only; (repeat' split) <;> simp_all

theorem execBlWindowEnd_kept (loop : Fin 8) (s : State) : OutKeeps (execBlWindowEnd loop s) (kept s) := by simp [execBlWindowEnd]

@[simp] theorem onRxEng_kept (e : Nat) (f : RxSt → RxSt) (s : State) : kept (onRxEng e f s) = kept s := by simp [onRxEng]

@[simp] theorem factoryFamilies_kept (s : State) : kept (factoryFamilies s) = kept s := by
  unfold factoryFamilies; exact kept_foldl _ (fun s e => by simp) _ s

@[simp] theorem vrefJudge_kept (code : W16) (s : State) : kept (vrefJudge code s) = kept s := by simp [vrefJudge]

@[simp] theorem optRow0_kept (x : StrokeIn) (s : State) : kept (optRow0 x s) = kept s := by simp [optRow0]

@[simp] theorem optStroke_kept (x : StrokeIn) (s : State) : kept (optStroke x s) = kept s := by simp [optStroke]

@[simp] theorem optQuench_kept (s : State) : kept (optQuench s) = kept s := by simp [optQuench]

@[simp] theorem doHkResultRead_kept (rq : Req) (s : State) : kept (doHkResultRead rq s) = kept s := by
  unfold doHkResultRead; refine command_kept _ _ _ _ _ ?_; intro s' hs; simp [hs]

theorem execHkResultRead_kept (rq : Req) (s : State) : OutKeeps (execHkResultRead rq s) (kept s) := by simp [execHkResultRead]

@[simp] theorem doOutStatusRead_kept (rq : Req) (s : State) : kept (doOutStatusRead rq s) = kept s := by
  unfold doOutStatusRead; refine command_kept _ _ _ _ _ ?_; intro s' hs; simp [hs]

theorem execOutStatusRead_kept (rq : Req) (s : State) : OutKeeps (execOutStatusRead rq s) (kept s) := by simp [execOutStatusRead]

@[simp] theorem doBlStatusRead_kept (rq : Req) (s : State) : kept (doBlStatusRead rq s) = kept s := by
  unfold doBlStatusRead; refine command_kept _ _ _ _ _ ?_; intro s' hs; simp [hs]

theorem execBlStatusRead_kept (rq : Req) (s : State) : OutKeeps (execBlStatusRead rq s) (kept s) := by simp [execBlStatusRead]

@[simp] theorem doOptStatusRead_kept (rq : Req) (s : State) : kept (doOptStatusRead rq s) = kept s := by
  unfold doOptStatusRead; refine command_kept _ _ _ _ _ ?_; intro s' hs; simp [hs]

theorem execOptStatusRead_kept (rq : Req) (s : State) : OutKeeps (execOptStatusRead rq s) (kept s) := by simp [execOptStatusRead]

@[simp] theorem doI2cCfg_kept (rq : Req) (s : State) : kept (doI2cCfg rq s) = kept s := by
  unfold doI2cCfg; refine command_kept _ _ _ _ _ ?_; intro s' hs; simp [hs]

theorem execI2cCfg_kept (rq : Req) (s : State) : OutKeeps (execI2cCfg rq s) (kept s) := by simp [execI2cCfg]

@[simp] theorem doI2cXfer_kept (rq : Req) (s : State) : kept (doI2cXfer rq s) = kept s := by
  unfold doI2cXfer; refine command_kept _ _ _ _ _ ?_; intro s' hs; simp [hs]

theorem execI2cXfer_kept (rq : Req) (s : State) : OutKeeps (execI2cXfer rq s) (kept s) := by simp [execI2cXfer]

@[simp] theorem i2cXferDone_kept (m : Nat) (r : I2cResult) (s : State) : kept (i2cXferDone m r s) = kept s := by
  unfold i2cXferDone; (repeat' split) <;> simp

theorem execI2cXferDone_kept (m : Fin 4) (r : I2cResult) (s : State) : OutKeeps (execI2cXferDone m r s) (kept s) := by simp [execI2cXferDone]

/-! ### LineRx -/

@[simp] theorem rxTimers_kept (e : Nat) (s : State) : kept (rxTimers e s) = kept s := by simp [rxTimers]

@[simp] theorem onOtnE_kept (e : Nat) (f : OtnSt → OtnSt) (s : State) : kept (onOtnE e f s) = kept s := by simp [onOtnE]

@[simp] theorem otnDefect_kept (e : Nat) (d : LineDefect) (ev : Ev) (now : Bool) (s : State) : kept (otnDefect e d ev now s) = kept s := by
  simp [otnDefect]

@[simp] theorem otnOff_kept (e : Nat) (s : State) : kept (otnOff e s) = kept s := by simp [otnOff]

@[simp] theorem rxLosf_kept (e : Nat) (now : Bool) (s : State) : kept (rxLosf e now s) = kept s := by simp [rxLosf]

@[simp] theorem rxLos_kept (e : Nat) (now : Bool) (s : State) : kept (rxLos e now s) = kept s := by simp [rxLos]

@[simp] theorem clearDescMm_kept (e : Nat) (s : State) : kept (clearDescMm e s) = kept s := by simp [clearDescMm]

@[simp] theorem countDescMm_kept (e : Nat) (s : State) : kept (countDescMm e s) = kept s := by simp [countDescMm]

@[simp] theorem cdLimitClear_kept (e : Nat) (s : State) : kept (cdLimitClear e s) = kept s := by simp [cdLimitClear]

@[simp] theorem rxEnter_kept (st : RxState) (e : Nat) (s : State) : kept (rxEnter st e s) = kept s := by simp [rxEnter]

@[simp] theorem rxScan_kept (e : Nat) (s : State) : kept (rxScan e s) = kept s := by simp [rxScan]

@[simp] theorem huntExpire_kept (left e : Nat) (s : State) : kept (huntExpire left e s) = kept s := by simp [huntExpire]

@[simp] theorem rxHunt_kept (e : Nat) (s : State) : kept (rxHunt e s) = kept s := by simp [rxHunt]

@[simp] theorem rxLeaveNosig_kept (e : Nat) (s : State) : kept (rxLeaveNosig e s) = kept s := by simp [rxLeaveNosig]

@[simp] theorem rxStart_kept (e : Nat) (s : State) : kept (rxStart e s) = kept s := by simp [rxStart]

@[simp] theorem rxOff_kept (e : Nat) (s : State) : kept (rxOff e s) = kept s := by simp [rxOff]

@[simp] theorem drxlos_kept (e : Nat) (lanes : List Nat) (rows : Nat) (s : State) : kept (drxlos e lanes rows s) = kept s := by simp [drxlos]

theorem execDrxlos_kept (e : Fin 4) (lanes : List Nat) (rows : Nat) (s : State) : OutKeeps (execDrxlos e lanes rows s) (kept s) := by
  simp [execDrxlos]

@[simp] theorem drxlosClear_kept (e : Nat) (lanes : List Nat) (rows : Nat) (s : State) : kept (drxlosClear e lanes rows s) = kept s := by
  simp [drxlosClear]

theorem execDrxlosClear_kept (e : Fin 4) (lanes : List Nat) (rows : Nat) (s : State) : OutKeeps (execDrxlosClear e lanes rows s) (kept s) := by
  simp [execDrxlosClear]

@[simp] theorem cdScanDone_kept (e : Nat) (tones : List Nat) (s : State) : kept (cdScanDone e tones s) = kept s := by simp [cdScanDone]

theorem execCdScanDone_kept (e : Fin 4) (tones : List Nat) (s : State) : OutKeeps (execCdScanDone e tones s) (kept s) := by simp [execCdScanDone]

@[simp] theorem huntTimeout_kept (e : Nat) (s : State) : kept (huntTimeout e s) = kept s := by
  unfold huntTimeout; dsimp only; (repeat' split) <;> simp_all

theorem execHuntTimeout_kept (e : Fin 4) (s : State) : OutKeeps (execHuntTimeout e s) (kept s) := by simp [execHuntTimeout]

@[simp] theorem descNote_kept (e : Nat) (d : W64) (n : Nat) (v : DescView) (s : State) : kept (descNote e d n v s) = kept s := by
  unfold descNote; (repeat' split) <;> simp

@[simp] theorem takeCand_kept (k : Cand) (e : Nat) (s : State) : kept (takeCand k e s) = kept s := by simp [takeCand]

@[simp] theorem verifyPeak_kept (e : Nat) (k : Cand) (c : Cand) (s : State) : kept (verifyPeak e k c s) = kept s := by simp [verifyPeak]

@[simp] theorem headerCandidate_kept (e : Nat) (pk : Peak) (s : State) : kept (headerCandidate e pk s) = kept s := by
  unfold headerCandidate; dsimp only; (repeat' split) <;> simp_all

theorem execHeaderCandidate_kept (e : Fin 4) (pk : Peak) (s : State) : OutKeeps (execHeaderCandidate e pk s) (kept s) := by
  simp [execHeaderCandidate]

@[simp] theorem rxLocked_kept (e : Nat) (s : State) : kept (rxLocked e s) = kept s := by simp [rxLocked]

@[simp] theorem candFail_kept (e n : Nat) (s : State) : kept (candFail e n s) = kept s := by
  unfold candFail; dsimp only; (repeat' split) <;> simp_all

@[simp] theorem windowSeen_kept (e : Nat) (k : Cand) (hw : HeaderWindow) (v : PeakView) (s : State) : kept (windowSeen e k hw v s) = kept s := by
  simp [windowSeen]

@[simp] theorem headerRefine_kept (e : Nat) (df : Int) (w : RxWave) (s : State) : kept (headerRefine e df w s) = kept s := by simp [headerRefine]

@[simp] theorem verifyWindow_kept (e : Nat) (k : Cand) (hw : HeaderWindow) (s : State) : kept (verifyWindow e k hw s) = kept s := by
  simp [verifyWindow]

@[simp] theorem lockedTrack_kept (e sfc : Nat) (desc : Option W64) (w : RxWave) (s : State) : kept (lockedTrack e sfc desc w s) = kept s := by simp [lockedTrack]

@[simp] theorem lockedWindow_kept (e : Nat) (k : Cand) (hw : HeaderWindow) (s : State) : kept (lockedWindow e k hw s) = kept s := by
  simp [lockedWindow]

@[simp] theorem headerWindowEnd_kept (e : Nat) (hw : HeaderWindow) (s : State) : kept (headerWindowEnd e hw s) = kept s := by
  unfold headerWindowEnd; dsimp only; (repeat' split) <;> simp_all

theorem execHeaderWindowEnd_kept (e : Fin 4) (hw : HeaderWindow) (s : State) : OutKeeps (execHeaderWindowEnd e hw s) (kept s) := by
  simp [execHeaderWindowEnd]

@[simp] theorem cdTrackLimit_kept (e : Nat) (s : State) : kept (cdTrackLimit e s) = kept s := by simp [cdTrackLimit]

theorem execCdTrackLimit_kept (e : Fin 4) (s : State) : OutKeeps (execCdTrackLimit e s) (kept s) := by simp [execCdTrackLimit]

@[simp] theorem rxMeasure_kept (cal : List (Nat × Nat × Int × Nat × Int)) (e : Nat) (s : State) : kept (rxMeasure cal e s) = kept s := by
  simp [rxMeasure]

@[simp] theorem rxCalAge_kept (e i : Nat) (s : State) : kept (rxCalAge e i s) = kept s := by simp [rxCalAge]

@[simp] theorem jointStep_kept (s : State) : kept (jointStep s) = kept s := by simp [jointStep]

@[simp] theorem rxQualitySet_kept (e : Nat) (m : Option (List Int)) (s : State) : kept (rxQualitySet e m s) = kept s := by simp [rxQualitySet]

@[simp] theorem rxEngStroke_kept (x : StrokeIn) (e : Nat) (s : State) : kept (rxEngStroke x e s) = kept s := by simp [rxEngStroke]

@[simp] theorem rxStroke_kept (x : StrokeIn) (s : State) : kept (rxStroke x s) = kept s := by simp [rxStroke]

@[simp] theorem rxRow0_kept (s : State) : kept (rxRow0 s) = kept s := by simp [rxRow0]

@[simp] theorem slipRow_kept (x0 : List (Nat × Nat)) (x1 : State) : kept (slipRow x0 x1) = kept x1 := by
  induction x0 generalizing x1 <;> simp_all [slipRow]

@[simp] theorem doRxCfg_kept (rq : Req) (s : State) : kept (doRxCfg rq s) = kept s := by
  unfold doRxCfg; refine command_kept _ _ _ _ _ ?_; intro s' hs; simp [hs]

theorem execRxCfg_kept (rq : Req) (s : State) : OutKeeps (execRxCfg rq s) (kept s) := by simp [execRxCfg]

@[simp] theorem rxRateLimit_kept (e : Nat) (s : State) : kept (rxRateLimit e s) = kept s := by simp [rxRateLimit]

@[simp] theorem rxRestart_kept (e : Nat) (s : State) : kept (rxRestart e s) = kept s := by simp [rxRestart]

@[simp] theorem applyRxCfg_kept (k : Commit) (s : State) : kept (applyRxCfg k s) = kept s := by simp [applyRxCfg]

@[simp] theorem doRxRead_kept (rq : Req) (s : State) : kept (doRxRead rq s) = kept s := by
  unfold doRxRead; refine command_kept _ _ _ _ _ ?_; intro s' hs; simp [hs]

theorem execRxRead_kept (rq : Req) (s : State) : OutKeeps (execRxRead rq s) (kept s) := by simp [execRxRead]

@[simp] theorem doRxStatusRead_kept (rq : Req) (s : State) : kept (doRxStatusRead rq s) = kept s := by
  unfold doRxStatusRead; refine command_kept _ _ _ _ _ ?_; intro s' hs; simp [hs]

theorem execRxStatusRead_kept (rq : Req) (s : State) : OutKeeps (execRxStatusRead rq s) (kept s) := by simp [execRxStatusRead]

@[simp] theorem doRxQualityRead_kept (rq : Req) (s : State) : kept (doRxQualityRead rq s) = kept s := by
  unfold doRxQualityRead; refine command_kept _ _ _ _ _ ?_; intro s' hs; simp [hs]

theorem execRxQualityRead_kept (rq : Req) (s : State) : OutKeeps (execRxQualityRead rq s) (kept s) := by simp [execRxQualityRead]

@[simp] theorem doRxCalRead_kept (rq : Req) (s : State) : kept (doRxCalRead rq s) = kept s := by
  unfold doRxCalRead; refine command_kept _ _ _ _ _ ?_; intro s' hs; simp [hs]

theorem execRxCalRead_kept (rq : Req) (s : State) : OutKeeps (execRxCalRead rq s) (kept s) := by simp [execRxCalRead]

@[simp] theorem doRxReacquire_kept (rq : Req) (s : State) : kept (doRxReacquire rq s) = kept s := by
  unfold doRxReacquire; refine command_kept _ _ _ _ _ ?_; intro s' hs; simp [hs]

theorem execRxReacquire_kept (rq : Req) (s : State) : OutKeeps (execRxReacquire rq s) (kept s) := by simp [execRxReacquire]

@[simp] theorem applyRxReacquire_kept (k : Commit) (s : State) : kept (applyRxReacquire k s) = kept s := by simp [applyRxReacquire]

/-! ### LineCode -/

@[simp] theorem iterRow_kept (e : Nat) (s : State) : kept (iterRow e s) = kept s := by simp [iterRow]

@[simp] theorem cwTestStep_kept (e phase : Nat) (good : Bool) (s : State) : kept (cwTestStep e phase good s) = kept s := by
  simp [cwTestStep]

@[simp] theorem cwCount_kept (e : Nat) (r : CodewordIn) (v : CodewordView) (s : State) : kept (cwCount e r v s) = kept s := by simp [cwCount]

@[simp] theorem codewordDecode_kept (e : Nat) (r : CodewordIn) (s : State) : kept (codewordDecode e r s) = kept s := by simp [codewordDecode]

theorem execCodewordDecode_kept (e : Fin 4) (cw : CodewordIn) (s : State) : OutKeeps (execCodewordDecode e cw s) (kept s) := by
  simp [execCodewordDecode]

/-! ### LineOtn -/

@[simp] theorem onOtnId_kept (id : OtnId) (f : OtnSt → OtnSt) (s : State) : kept (onOtnId id f s) = kept s := by
  unfold onOtnId; (repeat' split) <;> simp

@[simp] theorem idDefect_kept (id : OtnId) (d : LineDefect) (now : Bool) (s : State) : kept (idDefect id d now s) = kept s := by simp [idDefect]

@[simp] theorem commonDefect_kept (id : OtnId) (d : LineDefect) (now : Bool) (s : State) : kept (commonDefect id d now s) = kept s := by
  simp [commonDefect]

@[simp] theorem onSlice_kept (id : OtnId) (i : Nat) (f : SliceSt → SliceSt) (s : State) : kept (onSlice id i f s) = kept s := by simp [onSlice]

@[simp] theorem huntFrames_kept (id : OtnId) (hits : List (Nat × Byte)) (s : State) : kept (huntFrames id hits s) = kept s := by simp [huntFrames]

@[simp] theorem framePersist_kept (id : OtnId) (d : LineDefect) (k on off : Nat) (cond : Bool) (s : State) : kept (framePersist id d k on off cond s) = kept s := by
  simp [framePersist]

@[simp] theorem ttiAccept_kept (id : OtnId) (pm : Bool) (t : List Byte) (s : State) : kept (ttiAccept id pm t s) = kept s := by simp [ttiAccept]

@[simp] theorem ttiByte_kept (id : OtnId) (pm : Bool) (k : Nat) (b : Byte) (s : State) : kept (ttiByte id pm k b s) = kept s := by simp [ttiByte]

@[simp] theorem ptByte_kept (id : OtnId) (b : Byte) (s : State) : kept (ptByte id b s) = kept s := by simp [ptByte]

@[simp] theorem framePm_kept (id : OtnId) (v : List SliceView) (s : State) : kept (framePm id v s) = kept s := by
  unfold framePm; (repeat' split) <;> simp

@[simp] theorem frameCount_kept (id : OtnId) (v : List SliceView) (s : State) : kept (frameCount id v s) = kept s := by
  unfold frameCount; (repeat' split) <;> simp

@[simp] theorem farDefect_kept (id : OtnId) (pm : Bool) (s : State) : kept (farDefect id pm s) = kept s := by
  unfold farDefect; (repeat' split) <;> simp

@[simp] theorem frameOverhead_kept (id : OtnId) (fr : List SByte) (s : State) : kept (frameOverhead id fr s) = kept s := by simp [frameOverhead]

@[simp] theorem otnFrame_kept (id : OtnId) (slices : List (List SByte)) (s : State) : kept (otnFrame id slices s) = kept s := by simp [otnFrame]

@[simp] theorem lineFrameRx_kept (e : Fin 4) (s : State) : kept (lineFrameRx e s) = kept s := by simp [lineFrameRx]

@[simp] theorem otucFrameRx_kept (id : OtnId) (fr : OtucFrame) (s : State) : kept (otucFrameRx id fr s) = kept s := by
  unfold otucFrameRx; (repeat' split) <;> simp

theorem execOtucFrameRx_kept (id : OtnId) (fr : OtucFrame) (s : State) : OutKeeps (execOtucFrameRx id fr s) (kept s) := by simp [execOtucFrameRx]

@[simp] theorem dlof_kept (id : OtnId) (s : State) : kept (dlof id s) = kept s := by simp [dlof]

theorem execDlof_kept (id : OtnId) (s : State) : OutKeeps (execDlof id s) (kept s) := by simp [execDlof]

@[simp] theorem dlom_kept (id : OtnId) (s : State) : kept (dlom id s) = kept s := by simp [dlom]

theorem execDlom_kept (id : OtnId) (s : State) : OutKeeps (execDlom id s) (kept s) := by simp [execDlom]

@[simp] theorem lineTxRow_kept (e : Nat) (s : State) : kept (lineTxRow e s) = kept s := by simp [lineTxRow]

@[simp] theorem sendSlice_kept (id : OtnId) (opu : List (List Byte)) (k : Nat) (s : State) : kept (sendSlice id opu k s).1 = kept s := by
  simp [sendSlice]

@[simp] theorem sendSlices_kept (id : OtnId) (opu : List (List Byte)) (x2 : List Nat) (x3 : State) : kept (sendSlices id opu x2 x3).1 = kept x3 := by
  induction x2 generalizing id opu x3 <;> simp_all [sendSlices]

@[simp] theorem sendFrame_kept (id : OtnId) (opu : List (List Byte)) (n : Nat) (s : State) : kept (sendFrame id opu n s).1 = kept s := by
  simp [sendFrame]

@[simp] theorem otucFrameTx_kept (id : OtnId) (opu : List (List Byte)) (s : State) : kept (otucFrameTx id opu s) = kept s := by
  unfold otucFrameTx; (repeat' split) <;> simp

theorem execOtucFrameTx_kept (id : OtnId) (opu : List (List Byte)) (s : State) : OutKeeps (execOtucFrameTx id opu s) (kept s) := by
  simp [execOtucFrameTx]

@[simp] theorem fixAlign_kept (e row : Nat) (s : State) : kept (fixAlign e row s) = kept s := by simp [fixAlign]

@[simp] theorem rowBlockRx_kept (e : Fin 4) (k : Nat) (s : State) : kept (rowBlockRx e k s) = kept s := by
  unfold rowBlockRx; dsimp only; (repeat' split) <;> simp_all

theorem execRowBlockRx_kept (e : Fin 4) (slice : Nat) (s : State) : OutKeeps (execRowBlockRx e slice s) (kept s) := by simp [execRowBlockRx]

@[simp] theorem lineSsf_kept (id : OtnId) (s : State) : kept (lineSsf id s) = kept s := by unfold lineSsf; (repeat' split) <;> simp

@[simp] theorem otnPmRow_kept (id : OtnId) (s : State) : kept (otnPmRow id s) = kept s := by simp [otnPmRow]

@[simp] theorem lineFill_kept (e : Nat) (f : Fill) (s : State) : kept (lineFill e f s) = kept s := by simp [lineFill]

@[simp] theorem alignOverflow_kept (e : Nat) (s : State) : kept (alignOverflow e s) = kept s := by simp [alignOverflow]

@[simp] theorem lineIngress_kept (e : Nat) (s : State) : kept (lineIngress e s) = kept s := by
  unfold lineIngress; dsimp only; (repeat' split) <;> simp_all

@[simp] theorem realign_kept (e : Nat) (s : State) : kept (realign e s) = kept s := by unfold realign; dsimp only; (repeat' split) <;> simp_all

@[simp] theorem framesStroke_kept (id : OtnId) (s : State) : kept (framesStroke id s) = kept s := by simp [framesStroke]

@[simp] theorem framesRow_kept (id : OtnId) (s : State) : kept (framesRow id s) = kept s := by simp [framesRow]

@[simp] theorem fecStroke_kept (e : Nat) (s : State) : kept (fecStroke e s) = kept s := by
  unfold fecStroke; dsimp only; (repeat' split) <;> simp_all

@[simp] theorem degSecond_kept (id : OtnId) (pm : Bool) (s : State) : kept (degSecond id pm s) = kept s := by simp [degSecond]

@[simp] theorem eachOtn_kept (f : OtnId → State → State) (x1 : List OtnId) (x2 : State) (hf : ∀ a0 a1, kept (f a0 a1) = kept a1) : kept (eachOtn f x1 x2) = kept x2 := by
  induction x1 generalizing x2 <;> simp_all [eachOtn]

@[simp] theorem otnStroke_kept (second : Bool) (s : State) : kept (otnStroke second s) = kept s := by simp [otnStroke]

@[simp] theorem otnSecondDone_kept (s : State) : kept (otnSecondDone s) = kept s := by simp [otnSecondDone]

@[simp] theorem doLineOhCfg_kept (rq : Req) (s : State) : kept (doLineOhCfg rq s) = kept s := by
  unfold doLineOhCfg; refine command_kept _ _ _ _ _ ?_; intro s' hs; simp [hs]

theorem execLineOhCfg_kept (rq : Req) (s : State) : OutKeeps (execLineOhCfg rq s) (kept s) := by simp [execLineOhCfg]

@[simp] theorem applyLineOhCfg_kept (k : Commit) (s : State) : kept (applyLineOhCfg k s) = kept s := by simp [applyLineOhCfg]

@[simp] theorem doLineOhRead_kept (rq : Req) (s : State) : kept (doLineOhRead rq s) = kept s := by
  unfold doLineOhRead; refine command_kept _ _ _ _ _ ?_; intro s' hs; simp [hs]

theorem execLineOhRead_kept (rq : Req) (s : State) : OutKeeps (execLineOhRead rq s) (kept s) := by simp [execLineOhRead]

@[simp] theorem doLineTtiWrite_kept (rq : Req) (s : State) : kept (doLineTtiWrite rq s) = kept s := by
  unfold doLineTtiWrite; refine command_kept _ _ _ _ _ ?_; intro s' hs; simp [hs]

theorem execLineTtiWrite_kept (rq : Req) (s : State) : OutKeeps (execLineTtiWrite rq s) (kept s) := by simp [execLineTtiWrite]

@[simp] theorem applyLineTtiWrite_kept (k : Commit) (s : State) : kept (applyLineTtiWrite k s) = kept s := by simp [applyLineTtiWrite]

@[simp] theorem doLineTtiRead_kept (rq : Req) (s : State) : kept (doLineTtiRead rq s) = kept s := by
  unfold doLineTtiRead; refine command_kept _ _ _ _ _ ?_; intro s' hs; simp [hs]

theorem execLineTtiRead_kept (rq : Req) (s : State) : OutKeeps (execLineTtiRead rq s) (kept s) := by simp [execLineTtiRead]

@[simp] theorem doLineOtnStatusRead_kept (rq : Req) (s : State) : kept (doLineOtnStatusRead rq s) = kept s := by
  unfold doLineOtnStatusRead; refine command_kept _ _ _ _ _ ?_; intro s' hs; simp [hs]

theorem execLineOtnStatusRead_kept (rq : Req) (s : State) : OutKeeps (execLineOtnStatusRead rq s) (kept s) := by simp [execLineOtnStatusRead]

@[simp] theorem doLineFecStatusRead_kept (rq : Req) (s : State) : kept (doLineFecStatusRead rq s) = kept s := by
  unfold doLineFecStatusRead; refine command_kept _ _ _ _ _ ?_; intro s' hs; simp [hs]

theorem execLineFecStatusRead_kept (rq : Req) (s : State) : OutKeeps (execLineFecStatusRead rq s) (kept s) := by simp [execLineFecStatusRead]

@[simp] theorem doLineRealign_kept (rq : Req) (s : State) : kept (doLineRealign rq s) = kept s := by
  unfold doLineRealign; refine command_kept _ _ _ _ _ ?_; intro s' hs; simp [hs]

theorem execLineRealign_kept (rq : Req) (s : State) : OutKeeps (execLineRealign rq s) (kept s) := by simp [execLineRealign]

@[simp] theorem applyLineRealign_kept (k : Commit) (s : State) : kept (applyLineRealign k s) = kept s := by simp [applyLineRealign]

end Sys2Proof.Machine
end

