-- ==== Sys2Proof/Laws/FrameControl.lean ====
section
/-! SUPPORT. What the operations of security, modes, boot, commits, the scrubber and the counters keep (`Kept`): one lemma each, cited instead of unfolding. -/

set_option Elab.async false

namespace Sys2Proof.Machine

/-! ### Security -/

@[simp] theorem doSecCfg_kept (rq : Req) (s : State) : kept (doSecCfg rq s) = kept s := by
  unfold doSecCfg; refine command_kept _ _ _ _ _ ?_; intro s' hs; simp [hs]

theorem execSecCfg_kept (rq : Req) (s : State) : OutKeeps (execSecCfg rq s) (kept s) := by simp [execSecCfg]

@[simp] theorem clearLoss_kept (k : Nat) (s : State) : kept (clearLoss k s) = kept s := by simp [clearLoss]

@[simp] theorem unbindDefects_kept (k : Nat) (s : State) : kept (unbindDefects k s) = kept s := by simp [unbindDefects]

@[simp] theorem applySecCfg_kept (c : Commit) (s : State) : kept (applySecCfg c s) = kept s := by simp [applySecCfg]

@[simp] theorem doSecRead_kept (rq : Req) (s : State) : kept (doSecRead rq s) = kept s := by
  unfold doSecRead; refine command_kept _ _ _ _ _ ?_; intro s' hs; simp [hs]

theorem execSecRead_kept (rq : Req) (s : State) : OutKeeps (execSecRead rq s) (kept s) := by simp [execSecRead]

@[simp] theorem doSecStatusRead_kept (rq : Req) (s : State) : kept (doSecStatusRead rq s) = kept s := by
  unfold doSecStatusRead; refine command_kept _ _ _ _ _ ?_; intro s' hs; simp [hs]

theorem execSecStatusRead_kept (rq : Req) (s : State) : OutKeeps (execSecStatusRead rq s) (kept s) := by simp [execSecStatusRead]

@[simp] theorem putSlot_kept (k n : Nat) (key : Option (BitVec 256)) (s : State) : kept (putSlot k n key s) = kept s := by simp [putSlot]

@[simp] theorem keyLoadAct_kept (rq : Req) (s : State) (k : Kept) (hk : kept s = k) : ExKeeps (keyLoadAct rq s) k := by
  subst hk
  unfold keyLoadAct
  dsimp only
  split
  · simp
  · split <;> simp

@[simp] theorem keyClearAct_kept (rq : Req) (s : State) (k : Kept) (hk : kept s = k) : ExKeeps (keyClearAct rq s) k := by
  subst hk; unfold keyClearAct; dsimp only; (repeat' split) <;> simp_all

@[simp] theorem keyServiceTake_kept (d : Deferred) (s : State) : kept (keyServiceTake d s) = kept s := by simp [keyServiceTake]

@[simp] theorem keyRelease_kept (s : State) : kept (keyRelease s) = kept s := by simp [keyRelease]

@[simp] theorem keyWaits_kept (d : Deferred) (s : State) : kept (keyWaits d s) = kept s := by simp [keyWaits]

@[simp] theorem withKeyLock_kept (o : OpInfo) (rq : Req) (s : State) (k : Kept) (hk : kept s = k) : (withKeyLock o rq s).Keeps k := by
  subst hk; unfold withKeyLock; (repeat' split) <;> simp

@[simp] theorem doKeyLoad_kept (rq : Req) (s : State) : kept (doKeyLoad rq s) = kept s := by
  unfold doKeyLoad; refine command_kept _ _ _ _ _ ?_; intro s' hs; simp [hs]

theorem execKeyLoad_kept (rq : Req) (s : State) : OutKeeps (execKeyLoad rq s) (kept s) := by simp [execKeyLoad]

@[simp] theorem doKeyClear_kept (rq : Req) (s : State) : kept (doKeyClear rq s) = kept s := by
  unfold doKeyClear; refine command_kept _ _ _ _ _ ?_; intro s' hs; simp [hs]

theorem execKeyClear_kept (rq : Req) (s : State) : OutKeeps (execKeyClear rq s) (kept s) := by simp [execKeyClear]

@[simp] theorem doKeySwitch_kept (rq : Req) (s : State) : kept (doKeySwitch rq s) = kept s := by
  unfold doKeySwitch; refine command_kept _ _ _ _ _ ?_; intro s' hs; simp [hs]

theorem execKeySwitch_kept (rq : Req) (s : State) : OutKeeps (execKeySwitch rq s) (kept s) := by simp [execKeySwitch]

@[simp] theorem applyKeySwitch_kept (c : Commit) (s : State) : kept (applyKeySwitch c s) = kept s := by simp [applyKeySwitch]

@[simp] theorem doSecClearLoss_kept (rq : Req) (s : State) : kept (doSecClearLoss rq s) = kept s := by
  unfold doSecClearLoss; refine command_kept _ _ _ _ _ ?_; intro s' hs; simp [hs]

theorem execSecClearLoss_kept (rq : Req) (s : State) : OutKeeps (execSecClearLoss rq s) (kept s) := by simp [execSecClearLoss]

@[simp] theorem applySecClearLoss_kept (c : Commit) (s : State) : kept (applySecClearLoss c s) = kept s := by simp [applySecClearLoss]

@[simp] theorem sealSink_kept (c : Nat) (s : State) : kept (sealSink c s) = kept s := by simp [sealSink]

@[simp] theorem openSink_kept (c : Nat) (s : State) : kept (openSink c s) = kept s := by simp [openSink]

@[simp] theorem ctxRow0_kept (k : Nat) (s : State) : kept (ctxRow0 k s) = kept s := by simp [ctxRow0]

@[simp] theorem eachCtx_kept (x0 : List Nat) (x1 : State) : kept (eachCtx x0 x1) = kept x1 := by
  induction x0 generalizing x1 <;> simp_all [eachCtx]

@[simp] theorem contextsRow0_kept (s : State) : kept (contextsRow0 s) = kept s := by simp [contextsRow0]

@[simp] theorem zeroiseContexts_kept (s : State) : kept (zeroiseContexts s) = kept s := by simp [zeroiseContexts]

@[simp] theorem keyStroke_kept (n : Nat) (s : State) : kept (keyStroke n s) = kept s := by simp [keyStroke]

theorem execDrbgReseed_kept (r : Reseed) (s : State) : OutKeeps (execDrbgReseed r s) (kept s) := by simp [execDrbgReseed]

theorem execEntFail_kept (s : State) : OutKeeps (execEntFail s) (kept s) := by simp [execEntFail]

theorem execEntropyRestartPass_kept (s : State) : OutKeeps (execEntropyRestartPass s) (kept s) := by simp [execEntropyRestartPass]

@[simp] theorem doKeStatusRead_kept (rq : Req) (s : State) : kept (doKeStatusRead rq s) = kept s := by
  unfold doKeStatusRead; refine command_kept _ _ _ _ _ ?_; intro s' hs; simp [hs]

theorem execKeStatusRead_kept (rq : Req) (s : State) : OutKeeps (execKeStatusRead rq s) (kept s) := by simp [execKeStatusRead]

/-! ### Modes -/

@[simp] theorem discardCommits_kept (s : State) : kept (discardCommits s) = kept s := by simp [discardCommits]

@[simp] theorem linesQuench_kept (s : State) : kept (linesQuench s) = kept s := by simp [linesQuench]

@[simp] theorem clientsQuench_kept (s : State) : kept (clientsQuench s) = kept s := by simp [clientsQuench]

@[simp] theorem fabricQuench_kept (s : State) : kept (fabricQuench s) = kept s := by simp [fabricQuench]

@[simp] theorem enterQuench_kept (s : State) : kept (enterQuench s) = kept s := by simp [enterQuench]

@[simp] theorem doQuench_kept (rq : Req) (s : State) : kept (doQuench rq s) = kept s := by
  unfold doQuench; refine command_kept _ _ _ _ _ ?_; intro s' hs; simp [hs]

theorem execQuench_kept (rq : Req) (s : State) : OutKeeps (execQuench rq s) (kept s) := by simp [execQuench]

@[simp] theorem restartAlignment_kept (s : State) : kept (restartAlignment s) = kept s := by simp [restartAlignment]

@[simp] theorem famRelease_kept (s : State) : kept (famRelease s) = kept s := by simp [famRelease]

@[simp] theorem doQuenchExit_kept (rq : Req) (s : State) : kept (doQuenchExit rq s) = kept s := by
  unfold doQuenchExit; refine command_kept _ _ _ _ _ ?_; intro s' hs; simp [hs]

theorem execQuenchExit_kept (rq : Req) (s : State) : OutKeeps (execQuenchExit rq s) (kept s) := by simp [execQuenchExit]

@[simp] theorem declareFault_kept (f : SevereFault) (s : State) : kept (declareFault f s) = kept s := by simp [declareFault]

theorem execThermTrip_kept (temp : Int) (rows : Nat) (s : State) : OutKeeps (execThermTrip temp rows s) (kept s) := by simp [execThermTrip]

theorem execThermWarn_kept (temp : Int) (rows : Nat) (s : State) : OutKeeps (execThermWarn temp rows s) (kept s) := by simp [execThermWarn]

theorem execRailFault_kept (rail : Rail) (uv rows : Nat) (s : State) : OutKeeps (execRailFault rail uv rows s) (kept s) := by
  simp [execRailFault]

theorem execPllUnlock_kept (rows : Nat) (s : State) : OutKeeps (execPllUnlock rows s) (kept s) := by simp [execPllUnlock]

@[simp] theorem clearFault_kept (f : SevereFault) (s : State) : kept (clearFault f s) = kept s := by simp [clearFault]

@[simp] theorem severeClear_kept (f : SevereFault) (strokes : Nat) (s : State) : kept (severeClear f strokes s) = kept s := by
  unfold severeClear; (repeat' split) <;> simp

theorem execSevereFaultClear_kept (f : SevereFault) (strokes : Nat) (s : State) : OutKeeps (execSevereFaultClear f strokes s) (kept s) := by
  simp [execSevereFaultClear]

@[simp] theorem thermStroke_kept (tj : Int) (s : State) : kept (thermStroke tj s) = kept s := by simp [thermStroke]

@[simp] theorem doFaultAck_kept (rq : Req) (s : State) : kept (doFaultAck rq s) = kept s := by
  unfold doFaultAck; refine command_kept _ _ _ _ _ ?_; intro s' hs; simp [hs]

theorem execFaultAck_kept (rq : Req) (s : State) : OutKeeps (execFaultAck rq s) (kept s) := by simp [execFaultAck]

theorem execKeFail_kept (s : State) : OutKeeps (execKeFail s) (kept s) := by simp [execKeFail]

@[simp] theorem dropDac_kept (e lane slice : Nat) (s : State) : kept (dropDac e lane slice s) = kept s := by simp [dropDac]

@[simp] theorem dropAdc_kept (e lane slice : Nat) (s : State) : kept (dropAdc e lane slice s) = kept s := by simp [dropAdc]

@[simp] theorem dropResource_kept (code unit detail : Nat) (s : State) : kept (dropResource code unit detail s) = kept s := by
  simp [dropResource]

@[simp] theorem annealEntry_kept (s : State) : kept (annealEntry s) = kept s := by simp [annealEntry]

@[simp] theorem retireRow0_kept (s : State) : kept (retireRow0 s) = kept s := by simp [retireRow0]

theorem execSliceRetire_kept (e : Fin 4) (dac : Bool) (lane : Fin 4) (slice : Fin 8) (s : State) : OutKeeps (execSliceRetire e dac lane slice s) (kept s) := by
  simp [execSliceRetire]

@[simp] theorem retireCore_kept (c : Nat) (s : State) : kept (retireCore c s) = kept s := by simp [retireCore]

theorem execLockstepMiscompare_kept (pair : Fin 2) (s : State) : OutKeeps (execLockstepMiscompare pair s) (kept s) := by
  simp [execLockstepMiscompare]

@[simp] theorem coreSelfTest_kept (c : Nat) (pass : Bool) (s : State) : kept (coreSelfTest c pass s) = kept s := by simp [coreSelfTest]

theorem execCoreSelfTestDone_kept (core : Fin 4) (pass : Bool) (s : State) : OutKeeps (execCoreSelfTestDone core pass s) (kept s) := by
  simp [execCoreSelfTestDone]

@[simp] theorem depthChange_kept (s : State) : kept (depthChange s) = kept s := by simp [depthChange]

@[simp] theorem modeEntered_kept (was : Mode) (s : State) : kept (modeEntered was s) = kept s := by simp [modeEntered]

@[simp] theorem enterMode_kept (m : Mode) (s : State) : kept (enterMode m s) = kept s := by simp [enterMode]

theorem execDepthSettled_kept (s : State) : OutKeeps (execDepthSettled s) (kept s) := by simp [execDepthSettled]

@[simp] theorem doModeSet_kept (rq : Req) (s : State) : kept (doModeSet rq s) = kept s := by
  unfold doModeSet; refine command_kept _ _ _ _ _ ?_; intro s' hs; simp [hs]

theorem execModeSet_kept (rq : Req) (s : State) : OutKeeps (execModeSet rq s) (kept s) := by simp [execModeSet]

@[simp] theorem applyModeSet_kept (c : Commit) (s : State) : kept (applyModeSet c s) = kept s := by simp [applyModeSet]

@[simp] theorem doModeCfg_kept (rq : Req) (s : State) : kept (doModeCfg rq s) = kept s := by
  unfold doModeCfg; refine command_kept _ _ _ _ _ ?_; intro s' hs; simp [hs]

theorem execModeCfg_kept (rq : Req) (s : State) : OutKeeps (execModeCfg rq s) (kept s) := by simp [execModeCfg]

@[simp] theorem applyModeCfg_kept (c : Commit) (s : State) : kept (applyModeCfg c s) = kept s := by simp [applyModeCfg]

@[simp] theorem fallBack_kept (s : State) : kept (fallBack s) = kept s := by unfold fallBack; (repeat' split) <;> simp

@[simp] theorem modeSecond_kept (s : State) : kept (modeSecond s) = kept s := by simp [modeSecond]

@[simp] theorem doModeStatusRead_kept (rq : Req) (s : State) : kept (doModeStatusRead rq s) = kept s := by
  unfold doModeStatusRead; refine command_kept _ _ _ _ _ ?_; intro s' hs; simp [hs]

theorem execModeStatusRead_kept (rq : Req) (s : State) : OutKeeps (execModeStatusRead rq s) (kept s) := by simp [execModeStatusRead]

/-! ### Boot -/

@[simp] theorem bootFail_kept (code : Nat) (s : State) : kept (bootFail code s) = kept s := by simp [bootFail]

@[simp] theorem romStartDone_kept (s : State) : kept (romStartDone s) = kept s := by unfold romStartDone; dsimp only; (repeat' split) <;> simp_all

theorem execRomStartDone_kept (s : State) : OutKeeps (execRomStartDone s) (kept s) := by simp [execRomStartDone]

@[simp] theorem countBadSlots_kept (s : State) : kept (countBadSlots s) = kept s := by simp [countBadSlots]

@[simp] theorem sweepTables_kept (s : State) : kept (sweepTables s) = kept s := by simp [sweepTables]

@[simp] theorem kindleSweep_kept (s : State) : kept (kindleSweep s) = kept s := by simp [kindleSweep]

@[simp] theorem reapplyRetired_kept (s : State) : kept (reapplyRetired s) = kept s := by simp [reapplyRetired]

@[simp] theorem restoreKeys_kept (s : State) : kept (restoreKeys s) = kept s := by unfold restoreKeys; (repeat' split) <;> simp

@[simp] theorem startImage_kept (source slot : Nat) (img : Nat → W32) (s : State) : kept (startImage source slot img s) = kept s := by
  simp [startImage]

@[simp] theorem imageLoadDone_kept (b : Bool) (s : State) : kept (imageLoadDone b s) = kept s := by
  unfold imageLoadDone; dsimp only; (repeat' split) <;> simp_all

theorem execImageLoadDone_kept (copy : Bool) (s : State) : OutKeeps (execImageLoadDone copy s) (kept s) := by simp [execImageLoadDone]

@[simp] theorem fwStartDone_kept (badBanks : List Nat) (s : State) : kept (fwStartDone badBanks s) = kept s := by simp [fwStartDone]

theorem execFwStartDone_kept (badBanks : List Nat) (s : State) : OutKeeps (execFwStartDone badBanks s) (kept s) := by simp [execFwStartDone]

@[simp] theorem calibrationDone_kept (s : State) : kept (calibrationDone s) = kept s := by simp [calibrationDone]

theorem execKindleCalibrationDone_kept (s : State) : OutKeeps (execKindleCalibrationDone s) (kept s) := by simp [execKindleCalibrationDone]

theorem execRestoreDone_kept (s : State) : OutKeeps (execRestoreDone s) (kept s) := by simp [execRestoreDone]

@[simp] theorem doImageStage_kept (rq : Req) (s : State) : kept (doImageStage rq s) = kept s := by
  unfold doImageStage; refine command_kept _ _ _ _ _ ?_; intro s' hs; simp [hs]

theorem execImageStage_kept (rq : Req) (s : State) : OutKeeps (execImageStage rq s) (kept s) := by simp [execImageStage]

@[simp] theorem doBootExec_kept (rq : Req) (s : State) : kept (doBootExec rq s) = kept s := by
  unfold doBootExec; refine command_kept _ _ _ _ _ ?_; intro s' hs; dsimp only; (repeat' split) <;> simp [hs]

theorem execBootExec_kept (rq : Req) (s : State) : OutKeeps (execBootExec rq s) (kept s) := by simp [execBootExec]

@[simp] theorem doImageInstall_kept (rq : Req) (s : State) : kept (doImageInstall rq s) = kept s := by
  unfold doImageInstall; refine command_kept _ _ _ _ _ ?_; intro s' hs; dsimp only; (repeat' split) <;> simp [hs]

theorem execImageInstall_kept (rq : Req) (s : State) : OutKeeps (execImageInstall rq s) (kept s) := by simp [execImageInstall]

theorem execImageInstallDone_kept (s : State) : OutKeeps (execImageInstallDone s) (kept s) := by
  unfold execImageInstallDone; rw [ok_keeps]; (repeat' split) <;> simp

theorem onSigner_kept (k : Nat) (f : SignerSlot → SignerSlot) (s : State) :
    kept (onSigner k f s) = { kept s with slots := tmod {} s.boot.slots k f } := rfl

theorem HoldsOtp.rfl (k : Kept) : HoldsOtp k k := ⟨Eq.refl k, fun _ => ⟨fun h => ⟨h, Eq.refl _⟩, fun h => h⟩⟩

theorem HoldsOtp.of_eq {a b : Kept} (h : b = a) : HoldsOtp a b := h ▸ HoldsOtp.rfl a

theorem onSigner_holds (k : Nat) (f : SignerSlot → SignerSlot) (s s' : State) (hs : kept s' = kept s)
    (hp : (tget {} s.boot.slots k).programmed = true → (f (tget {} s.boot.slots k)).programmed = true ∧ (f (tget {} s.boot.slots k)).hash = (tget {} s.boot.slots k).hash)
    (hr : (tget {} s.boot.slots k).revoked = true → (f (tget {} s.boot.slots k)).revoked = true) :
    HoldsOtp (kept s) (kept (onSigner k f s')) := by
  have hb : s'.boot.slots = s.boot.slots := congrArg Kept.slots hs
  refine ⟨by rw [onSigner_kept, hs], fun j => ?_⟩
  rw [onSigner_kept]
  simp only [hb, tget_tmod]
  by_cases hj : j = k
  · subst hj; simpa using ⟨hp, hr⟩
  · simp only [if_neg hj]; exact ⟨fun h => ⟨h, Eq.refl _⟩, fun h => h⟩

theorem command_holds (o : OpInfo) (rq : Req) (k : Checks) (s : State) (eff : State → Answer)
    (h : refusal o rq k s = none → ∀ s', kept s' = kept s → HoldsOtp (kept s) (kept (answer o rq s (eff s')))) : HoldsOtp (kept s) (kept (command o rq k s eff)) := by
  unfold command
  split
  · exact HoldsOtp.rfl _
  · split
    · exact HoldsOtp.of_eq (by simp)
    · split
      · exact HoldsOtp.of_eq ((answer_kept _ _ _ _ (internalAnswer_kept _ _ _ rfl)).trans rfl)
      · exact h ‹_› _ (by simp)

/-- SIGNER_SLOT_PROGRAM writes a slot that was not programmed, and nothing else of the OTP. -/
theorem doSignerSlotProgram_holds (rq : Req) (s : State) : HoldsOtp (kept s) (kept (doSignerSlotProgram rq s)) := by
  refine command_holds _ _ _ _ _ fun hr s' hs => ?_
  have hn := (refusal_eq_none _ _ _ _).1 hr
  have hp : (tget {} s.boot.slots (signerObj (rq.p 0))).programmed = false := by
    have h := hn.2.2.2.2.2.2.1; simp at h; exact h.2.2.2
  simp only [answer, reply_kept]
  refine onSigner_holds _ _ _ _ hs ?_ ?_
  · simp [hp]
  · exact fun h => h

/-- SIGNER_REVOKE revokes a slot, and changes nothing else of the OTP. -/
theorem doSignerRevoke_holds (rq : Req) (s : State) : HoldsOtp (kept s) (kept (doSignerRevoke rq s)) := by
  refine command_holds _ _ _ _ _ fun _ s' hs => ?_
  simp only [answer, reply_kept]
  exact onSigner_holds _ _ _ _ hs (fun h => ⟨h, Eq.refl _⟩) (fun _ => Eq.refl _)

@[simp] theorem doRollbackAdvance_kept (rq : Req) (s : State) : kept (doRollbackAdvance rq s) = kept s := by
  unfold doRollbackAdvance; refine command_kept _ _ _ _ _ ?_; intro s' hs; (repeat' split) <;> simp_all [Answer.Keeps]

theorem execRollbackAdvance_kept (rq : Req) (s : State) : OutKeeps (execRollbackAdvance rq s) (kept s) := by simp [execRollbackAdvance]

/-- The fuses are blown to the SVN of the running image, if a ROLLBACK_ADVANCE waits. -/
theorem execRollbackAdvanceDone_kept (s t : State) (h : execRollbackAdvanceDone s = .next t) : kept t = kept s ∨ kept t = { kept s with fuses := s.boot.runSvn.toNat } := by
  simp only [execRollbackAdvanceDone, ok, Host.Outcome.next.injEq] at h; subst h
  split
  · exact .inl rfl
  · exact .inr (by rw [replyDeferred_kept]; rfl)

@[simp] theorem doSysRestart_kept (rq : Req) (s : State) : kept (doSysRestart rq s) = kept s := by
  unfold doSysRestart; refine command_kept _ _ _ _ _ ?_; intro s' hs; simp [hs]

theorem execSysRestart_kept (rq : Req) (s : State) : OutKeeps (execSysRestart rq s) (kept s) := by simp [execSysRestart]

@[simp] theorem doBootStatusRead_kept (rq : Req) (s : State) : kept (doBootStatusRead rq s) = kept s := by
  unfold doBootStatusRead; refine command_kept _ _ _ _ _ ?_; intro s' hs; simp [hs]

theorem execBootStatusRead_kept (rq : Req) (s : State) : OutKeeps (execBootStatusRead rq s) (kept s) := by simp [execBootStatusRead]

@[simp] theorem doPkSet_kept (rq : Req) (s : State) : kept (doPkSet rq s) = kept s := by
  unfold doPkSet; refine command_kept _ _ _ _ _ ?_; intro s' hs; (repeat' split) <;> simp_all [Answer.Keeps]

theorem execPkSet_kept (rq : Req) (s : State) : OutKeeps (execPkSet rq s) (kept s) := by simp [execPkSet]

@[simp] theorem authLoadAct_kept (rq : Req) (s : State) (k : Kept) (hk : kept s = k) : ExKeeps (authLoadAct rq s) k := by
  subst hk
  unfold authLoadAct
  dsimp only
  split
  · exact (keeps_error _ _).mpr trivial
  · split
    · exact (keeps_ok _ _).mpr rfl
    · split
      · exact (keeps_error _ _).mpr trivial
      · exact (keeps_ok _ _).mpr rfl

@[simp] theorem doAuthKeyLoad_kept (rq : Req) (s : State) : kept (doAuthKeyLoad rq s) = kept s := by
  unfold doAuthKeyLoad; refine command_kept _ _ _ _ _ ?_; intro s' hs; simp [hs]

theorem execAuthKeyLoad_kept (rq : Req) (s : State) : OutKeeps (execAuthKeyLoad rq s) (kept s) := by simp [execAuthKeyLoad]

@[simp] theorem setTk_kept (t : Nat) (k : Option (BitVec 256)) (s : State) : kept (setTk t k s) = kept s := by simp [setTk]

@[simp] theorem tkLoadAct_kept (rq : Req) (s : State) (k : Kept) (hk : kept s = k) : ExKeeps (tkLoadAct rq s) k := by
  subst hk
  unfold tkLoadAct
  dsimp only
  split
  · exact (keeps_ok _ _).mpr (setTk_kept _ _ _)
  · split
    · exact (keeps_error _ _).mpr trivial
    · exact (keeps_ok _ _).mpr (setTk_kept _ _ _)

@[simp] theorem doTkLoad_kept (rq : Req) (s : State) : kept (doTkLoad rq s) = kept s := by
  unfold doTkLoad; refine command_kept _ _ _ _ _ ?_; intro s' hs; simp [hs]

theorem execTkLoad_kept (rq : Req) (s : State) : OutKeeps (execTkLoad rq s) (kept s) := by simp [execTkLoad]

@[simp] theorem doKeySlotsRead_kept (rq : Req) (s : State) : kept (doKeySlotsRead rq s) = kept s := by
  unfold doKeySlotsRead; refine command_kept _ _ _ _ _ ?_; intro s' hs; simp [hs]

theorem execKeySlotsRead_kept (rq : Req) (s : State) : OutKeeps (execKeySlotsRead rq s) (kept s) := by simp [execKeySlotsRead]

@[simp] theorem keyAct_kept (d : Deferred) (s : State) (k : Kept) (hk : kept s = k) : ExKeeps (keyAct d s) k := by
  subst hk; unfold keyAct; (repeat' split) <;> simp

@[simp] theorem storeEnds_kept (d : Deferred) (s : State) : kept (storeEnds d s) = kept s := by simp [storeEnds]

@[simp] theorem keyLockGrant_kept (s : State) : kept (keyLockGrant s) = kept s := by
  unfold keyLockGrant; dsimp only; (repeat' split) <;> simp

@[simp] theorem keySequenceEnd_kept (stuck : Bool) (s : State) : kept (keySequenceEnd stuck s) = kept s := by
  unfold keySequenceEnd
  dsimp only
  split
  · rfl
  · split
    · rename_i d _
      split
      · simp
      · have h := keyAct_kept d (keyRelease s) _ rfl
        revert h
        cases keyAct d (keyRelease s) <;> simp
    · (repeat' split) <;> simp

theorem execKeyLockGrant_kept (s : State) : OutKeeps (execKeyLockGrant s) (kept s) := by simp [execKeyLockGrant]

@[simp] theorem keyWaitExpiry_kept (x0 : List KeyWait) (x1 : State) : kept (keyWaitExpiry x0 x1) = kept x1 := by
  induction x0 generalizing x1 <;> simp_all [keyWaitExpiry]

theorem execKeyLockWaitExpiry_kept (s : State) : OutKeeps (execKeyLockWaitExpiry s) (kept s) := by simp [execKeyLockWaitExpiry]

@[simp] theorem keyLockTimeout_kept (s : State) : kept (keyLockTimeout s) = kept s := by
  unfold keyLockTimeout; dsimp only; (repeat' split) <;> simp_all

theorem execKeyLockTimeout_kept (s : State) : OutKeeps (execKeyLockTimeout s) (kept s) := by simp [execKeyLockTimeout]

@[simp] theorem doIdRead_kept (rq : Req) (s : State) : kept (doIdRead rq s) = kept s := by
  unfold doIdRead; refine command_kept _ _ _ _ _ ?_; intro s' hs; simp [hs]

theorem execIdRead_kept (rq : Req) (s : State) : OutKeeps (execIdRead rq s) (kept s) := by simp [execIdRead]

@[simp] theorem doAttest_kept (rq : Req) (s : State) : kept (doAttest rq s) = kept s := by
  unfold doAttest; refine command_kept _ _ _ _ _ ?_; intro s' hs; simp [hs]

theorem execAttest_kept (rq : Req) (s : State) : OutKeeps (execAttest rq s) (kept s) := by simp [execAttest]

theorem execAttestDone_kept (s : State) : OutKeeps (execAttestDone s) (kept s) := by unfold execAttestDone; rw [ok_keeps]; (repeat' split) <;> simp

@[simp] theorem doFaultRead_kept (rq : Req) (s : State) : kept (doFaultRead rq s) = kept s := by
  unfold doFaultRead; refine command_kept _ _ _ _ _ ?_; intro s' hs; simp [hs]

theorem execFaultRead_kept (rq : Req) (s : State) : OutKeeps (execFaultRead rq s) (kept s) := by simp [execFaultRead]

@[simp] theorem doFaultExport_kept (rq : Req) (s : State) : kept (doFaultExport rq s) = kept s := by
  unfold doFaultExport; refine command_kept _ _ _ _ _ ?_; intro s' hs; simp [hs]

theorem execFaultExport_kept (rq : Req) (s : State) : OutKeeps (execFaultExport rq s) (kept s) := by simp [execFaultExport]

@[simp] theorem doRetireRead_kept (rq : Req) (s : State) : kept (doRetireRead rq s) = kept s := by
  unfold doRetireRead; refine command_kept _ _ _ _ _ ?_; intro s' hs; simp [hs]

theorem execRetireRead_kept (rq : Req) (s : State) : OutKeeps (execRetireRead rq s) (kept s) := by simp [execRetireRead]

/-! ### Commits -/

@[simp] theorem commitClPort_kept (c : Commit) (s : State) : kept (commitClPort c s) = kept s := by simp [commitClPort]

@[simp] theorem applyWinCfg_kept (c : Commit) (s : State) : kept (applyWinCfg c s) = kept s := by simp [applyWinCfg]

/-- Every write that waits for a row 0 keeps what commands keep. -/
theorem commitOps_kept : ∀ x ∈ commitOps, ∀ c s, kept (x.2 c s) = kept s := by
  simp [commitOps]

@[simp] theorem applyOp_kept (c : Commit) (s : State) : kept (applyOp c s) = kept s := by
  unfold applyOp
  split
  · rename_i x hx
    exact commitOps_kept x (List.mem_of_find?_eq_some hx) c s
  · rfl

@[simp] theorem applyAll_kept (x0 : List Commit) (x1 : State) : kept (applyAll x0 x1) = kept x1 := by
  induction x0 generalizing x1 <;> simp_all [applyAll]

@[simp] theorem restoreMap_kept (p : Profile) (s : State) : kept (restoreMap p s) = kept s := by simp [restoreMap]

@[simp] theorem restoreGroom_kept (p : Profile) (s : State) : kept (restoreGroom p s) = kept s := by simp [restoreGroom]

@[simp] theorem restoreDirect_kept (p : Profile) (s : State) : kept (restoreDirect p s) = kept s := by simp [restoreDirect]

@[simp] theorem restoreProfile_kept (p : Profile) (s : State) : kept (restoreProfile p s) = kept s := by simp [restoreProfile]

@[simp] theorem restoreRow0_kept (s : State) : kept (restoreRow0 s) = kept s := by unfold restoreRow0; (repeat' split) <;> simp

@[simp] theorem doProfileRestore_kept (rq : Req) (s : State) : kept (doProfileRestore rq s) = kept s := by
  unfold doProfileRestore; refine command_kept _ _ _ _ _ ?_; intro s' hs; simp [hs]

theorem execProfileRestore_kept (rq : Req) (s : State) : OutKeeps (execProfileRestore rq s) (kept s) := by simp [execProfileRestore]

@[simp] theorem applyProfileRestore_kept (s : State) : kept (applyProfileRestore s) = kept s := by
  unfold applyProfileRestore; (repeat' split) <;> simp

@[simp] theorem applyCommit_kept (c : Commit) (s : State) : kept (applyCommit c s) = kept s := by simp [applyCommit]

@[simp] theorem applyCommits_kept (x0 : List Commit) (x1 : State) : kept (applyCommits x0 x1) = kept x1 := by
  induction x0 generalizing x1 <;> simp_all [applyCommits]

@[simp] theorem commitsRow0_kept (s : State) : kept (commitsRow0 s) = kept s := by simp [commitsRow0]

@[simp] theorem doStore_kept (rq : Req) (s : State) : kept (doStore rq s) = kept s := by
  unfold doStore
  refine command_kept _ _ _ _ _ ?_
  intro s' hs
  dsimp only
  (repeat' split) <;> simp [hs]

theorem execStore_kept (rq : Req) (s : State) : OutKeeps (execStore rq s) (kept s) := by simp [execStore]

@[simp] theorem storeRow0_kept (s : State) : kept (storeRow0 s) = kept s := by unfold storeRow0; dsimp only; (repeat' split) <;> simp

@[simp] theorem putProfile_kept (b : Bool) (p : Option Profile) (s : State) : kept (putProfile b p s) = kept s := by simp [putProfile]

@[simp] theorem storeDone_kept (s : State) : kept (storeDone s) = kept s := by unfold storeDone; (repeat' split) <;> simp

theorem execStoreDone_kept (s : State) : OutKeeps (execStoreDone s) (kept s) := by simp [execStoreDone]

@[simp] theorem doStoreStatusRead_kept (rq : Req) (s : State) : kept (doStoreStatusRead rq s) = kept s := by
  unfold doStoreStatusRead; refine command_kept _ _ _ _ _ ?_; intro s' hs; simp [hs]

theorem execStoreStatusRead_kept (rq : Req) (s : State) : OutKeeps (execStoreStatusRead rq s) (kept s) := by simp [execStoreStatusRead]

@[simp] theorem doProfileErase_kept (rq : Req) (s : State) : kept (doProfileErase rq s) = kept s := by
  unfold doProfileErase; refine command_kept _ _ _ _ _ ?_; intro s' hs; simp [hs]

theorem execProfileErase_kept (rq : Req) (s : State) : OutKeeps (execProfileErase rq s) (kept s) := by simp [execProfileErase]

@[simp] theorem profileEraseDone_kept (s : State) : kept (profileEraseDone s) = kept s := by unfold profileEraseDone; (repeat' split) <;> simp

theorem execProfileEraseDone_kept (s : State) : OutKeeps (execProfileEraseDone s) (kept s) := by simp [execProfileEraseDone]

/-! ### Scrub -/

@[simp] theorem setTableWord_kept (t i : Nat) (w : W32) (s : State) : kept (setTableWord t i w s) = kept s := by
  unfold setTableWord; dsimp only; (repeat' split) <;> simp_all

@[simp] theorem eachWord_kept (f : Nat → State → State) (x1 : List Nat) (x2 : State) (hf : ∀ a0 a1, kept (f a0 a1) = kept a1) : kept (eachWord f x1 x2) = kept x2 := by
  induction x1 generalizing x2 <;> simp_all [eachWord]

@[simp] theorem upset_kept (u : Nat × Nat × Nat) (s : State) : kept (upset u s) = kept s := by simp [upset]

@[simp] theorem upsets_kept (x0 : List (Nat × Nat × Nat)) (x1 : State) : kept (upsets x0 x1) = kept x1 := by
  induction x0 generalizing x1 <;> simp_all [upsets]

@[simp] theorem scrubBad_kept (t i : Nat) (s : State) : kept (scrubBad t i s) = kept s := by simp [scrubBad]

@[simp] theorem scrubWord_kept (t i : Nat) (s : State) : kept (scrubWord t i s) = kept s := by simp [scrubWord]

@[simp] theorem scrubMapWords_kept (x0 : Nat) (x1 : State) : kept (scrubMapWords x0 x1) = kept x1 := by
  induction x0 generalizing x1 <;> simp_all [scrubMapWords]

@[simp] theorem scrubTableWords_kept (x0 : Nat) (x1 : State) : kept (scrubTableWords x0 x1) = kept x1 := by
  induction x0 generalizing x1 <;> simp only [scrubTableWords] <;> (repeat' split) <;> simp_all

@[simp] theorem scrubRow_kept (x : RowIn) (s : State) : kept (scrubRow x s) = kept s := by simp [scrubRow]

@[simp] theorem hbmErr_kept (crc : Bool) (stack : Nat) (s : State) : kept (hbmErr crc stack s) = kept s := by simp [hbmErr]

@[simp] theorem grmBlocks_kept (x0 : List (Nat × Bool × Nat × Nat × Nat)) (x1 : State) : kept (grmBlocks x0 x1) = kept x1 := by
  induction x0 generalizing x1 <;> simp_all [grmBlocks]

@[simp] theorem stackFixes_kept (x0 : List (Nat × Nat)) (x1 : State) : kept (stackFixes x0 x1) = kept x1 := by
  induction x0 generalizing x1 <;> simp_all [stackFixes]

@[simp] theorem memoryRow_kept (x : RowIn) (s : State) : kept (memoryRow x s) = kept s := by simp [memoryRow]

@[simp] theorem rewriteEntry_kept (t i : Nat) (val : Nat → W32) (s : State) : kept (rewriteEntry t i val s) = kept s := by
  simp [rewriteEntry]

@[simp] theorem restoreEntry_kept (t i : Nat) (s : State) : kept (restoreEntry t i s) = kept s := by
  unfold restoreEntry; dsimp only; (repeat' split) <;> simp_all

@[simp] theorem goldRestore_kept (t i : Nat) (s : State) : kept (goldRestore t i s) = kept s := by simp [goldRestore]

theorem execGoldRestore_kept (table index : Nat) (s : State) : OutKeeps (execGoldRestore table index s) (kept s) := by
  simp [execGoldRestore]

@[simp] theorem failCommand_kept (inCmd : Bool) (s : State) : kept (failCommand inCmd s) = kept s := by simp [failCommand]

theorem execBusDecerr_kept (master : Fin 8) (inCmd : Bool) (s : State) : OutKeeps (execBusDecerr master inCmd s) (kept s) := by
  simp [execBusDecerr]

@[simp] theorem hbmStroke_kept (stuck : List Nat) (limit : List (Nat × Nat)) (s : State) : kept (hbmStroke stuck limit s) = kept s := by simp [hbmStroke]

theorem execArbWdog_kept (requester : Nat) (inCmd : Bool) (s : State) : OutKeeps (execArbWdog requester inCmd s) (kept s) := by simp [execArbWdog]

theorem execDebugPortAccess_kept (s : State) : OutKeeps (execDebugPortAccess s) (kept s) := by simp [execDebugPortAccess]

/-! ### Counters -/

@[simp] theorem zeroCounter_kept (id : Nat) (s : State) : kept (zeroCounter id s) = kept s := by simp [zeroCounter]

@[simp] theorem zeroCounters_kept (x0 : List W32) (x1 : State) : kept (zeroCounters x0 x1) = kept x1 := by
  induction x0 generalizing x1 <;> simp_all [zeroCounters]

@[simp] theorem doEvcRead_kept (rq : Req) (s : State) : kept (doEvcRead rq s) = kept s := by
  unfold doEvcRead; refine command_kept _ _ _ _ _ ?_; intro s' hs; dsimp only; (repeat' split) <;> simp [hs]

theorem execEvcRead_kept (rq : Req) (s : State) : OutKeeps (execEvcRead rq s) (kept s) := by simp [execEvcRead]

@[simp] theorem doPmRead_kept (rq : Req) (s : State) : kept (doPmRead rq s) = kept s := by
  unfold doPmRead; refine command_kept _ _ _ _ _ ?_; intro s' hs; dsimp only; (repeat' split) <;> simp [hs]

theorem execPmRead_kept (rq : Req) (s : State) : OutKeeps (execPmRead rq s) (kept s) := by simp [execPmRead]

@[simp] theorem doPmSnap_kept (rq : Req) (s : State) : kept (doPmSnap rq s) = kept s := by
  unfold doPmSnap; refine command_kept _ _ _ _ _ ?_; intro s' hs; simp [hs]

theorem execPmSnap_kept (rq : Req) (s : State) : OutKeeps (execPmSnap rq s) (kept s) := by simp [execPmSnap]

@[simp] theorem pmJudge_kept (on : List Nat) (whole : Bool) (x2 : List Nat) (x3 : State) : kept (pmJudge on whole x2 x3) = kept x3 := by
  induction x2 generalizing x3 with
  | nil => rfl
  | cons a l ih => rw [pmJudge, ih]; simp

@[simp] theorem pmRow0_kept (whole : Bool) (s : State) : kept (pmRow0 whole s) = kept s := by simp [pmRow0]

@[simp] theorem doWinCfg_kept (rq : Req) (s : State) : kept (doWinCfg rq s) = kept s := by
  unfold doWinCfg; refine command_kept _ _ _ _ _ ?_; intro s' hs; simp [hs]

theorem execWinCfg_kept (rq : Req) (s : State) : OutKeeps (execWinCfg rq s) (kept s) := by simp [execWinCfg]

@[simp] theorem windowsEnd_kept (s : State) : kept (windowsEnd s) = kept s := by simp [windowsEnd]

@[simp] theorem windowsStart_kept (s : State) : kept (windowsStart s) = kept s := by simp [windowsStart]

@[simp] theorem doWinRead_kept (rq : Req) (s : State) : kept (doWinRead rq s) = kept s := by
  unfold doWinRead; refine command_kept _ _ _ _ _ ?_; intro s' hs; simp [hs]

theorem execWinRead_kept (rq : Req) (s : State) : OutKeeps (execWinRead rq s) (kept s) := by simp [execWinRead]

@[simp] theorem doEvtMaskWrite_kept (rq : Req) (s : State) : kept (doEvtMaskWrite rq s) = kept s := by
  unfold doEvtMaskWrite; refine command_kept _ _ _ _ _ ?_; intro s' hs; simp [hs]

theorem execEvtMaskWrite_kept (rq : Req) (s : State) : OutKeeps (execEvtMaskWrite rq s) (kept s) := by simp [execEvtMaskWrite]

@[simp] theorem doEvtMaskRead_kept (rq : Req) (s : State) : kept (doEvtMaskRead rq s) = kept s := by
  unfold doEvtMaskRead; refine command_kept _ _ _ _ _ ?_; intro s' hs; simp [hs]

theorem execEvtMaskRead_kept (rq : Req) (s : State) : OutKeeps (execEvtMaskRead rq s) (kept s) := by simp [execEvtMaskRead]

@[simp] theorem doEvtPop_kept (rq : Req) (s : State) : kept (doEvtPop rq s) = kept s := by
  unfold doEvtPop; refine command_kept _ _ _ _ _ ?_; intro s' hs; simp [hs]

theorem execEvtPop_kept (rq : Req) (s : State) : OutKeeps (execEvtPop rq s) (kept s) := by simp [execEvtPop]

@[simp] theorem doIntegStatusRead_kept (rq : Req) (s : State) : kept (doIntegStatusRead rq s) = kept s := by
  unfold doIntegStatusRead; refine command_kept _ _ _ _ _ ?_; intro s' hs; simp [hs]

theorem execIntegStatusRead_kept (rq : Req) (s : State) : OutKeeps (execIntegStatusRead rq s) (kept s) := by simp [execIntegStatusRead]

@[simp] theorem doArbCfg_kept (rq : Req) (s : State) : kept (doArbCfg rq s) = kept s := by
  unfold doArbCfg; refine command_kept _ _ _ _ _ ?_; intro s' hs; simp [hs]

theorem execArbCfg_kept (rq : Req) (s : State) : OutKeeps (execArbCfg rq s) (kept s) := by simp [execArbCfg]

end Sys2Proof.Machine
end

