-- ==== Sys2Proof/Laws/FrameStep.lean ====
section
/-! SUPPORT. What the operations of the pins, the turn of a command queue and the clock keep (`Kept`): one lemma each, cited instead of unfolding. -/

set_option Elab.async false

namespace Sys2Proof.Machine

/-! ### Pins -/

theorem resetState_kept (s : State) : kept (resetState s) = { kept s with scnt := 0#48, row := 0 } := by
  have hf : (bootAtReset s.boot).fuses = s.boot.fuses := by unfold bootAtReset; split <;> (try split) <;> rfl
  have hs : (bootAtReset s.boot).slots = s.boot.slots := by unfold bootAtReset; split <;> (try split) <;> rfl
  simp [kept, resetState, hf, hs]; exact ⟨rfl, rfl⟩

@[simp] theorem releaseReset_kept (s : State) : kept (releaseReset s) = kept s := by simp [releaseReset]

/-- A reset leaves what is fused and the queue; the stroke and the row begin anew. -/
theorem execRstnLow_kept (ns : Nat) (s t : State) (h : execRstnLow ns s = .next t) : kept t = kept s ∨ kept t = { kept s with scnt := 0#48, row := 0 } := by
  simp only [execRstnLow, ok, Host.Outcome.next.injEq] at h; subst h
  (repeat' split) <;> simp [resetState_kept]

theorem execRstnRelease_kept (s : State) : OutKeeps (execRstnRelease s) (kept s) := by simp [execRstnRelease]

@[simp] theorem flushAll_kept (x0 : List Nat) (x1 : State) : kept (flushAll x0 x1) = kept x1 := by
  induction x0 generalizing x1 <;> simp_all [flushAll]

theorem execPerstNAssert_kept (s : State) : OutKeeps (execPerstNAssert s) (kept s) := by simp [execPerstNAssert]

theorem execPerstNRelease_kept (s : State) : OutKeeps (execPerstNRelease s) (kept s) := by simp [execPerstNRelease]

/-- A reset leaves what is fused and the queue; the stroke and the row begin anew. -/
theorem execPowerLoss_kept (mv : Nat) (s t : State) (h : execPowerLoss mv s = .next t) : kept t = kept s ∨ kept t = { kept s with scnt := 0#48, row := 0 } := by
  simp only [execPowerLoss, ok, Host.Outcome.next.injEq] at h; subst h
  (repeat' split) <;> simp [resetState_kept]

/-- A reset leaves what is fused and the queue; the stroke and the row begin anew. -/
theorem execPowerUp_kept (s t : State) (h : execPowerUp s = .next t) : kept t = kept s ∨ kept t = { kept s with scnt := 0#48, row := 0 } := by
  simp only [execPowerUp, ok, Host.Outcome.next.injEq] at h; subst h
  (repeat' split) <;> simp [resetState_kept]

/-- A reset leaves what is fused and the queue; the stroke and the row begin anew. -/
theorem execSysRestartPulse_kept (s t : State) (h : execSysRestartPulse s = .next t) : kept t = kept s ∨ kept t = { kept s with scnt := 0#48, row := 0 } := by
  simp only [execSysRestartPulse, ok, Host.Outcome.next.injEq] at h; subst h
  (repeat' split) <;> simp [resetState_kept]

@[simp] theorem jtagLoad_kept (l : JtagLoad) (s : State) : kept (jtagLoad l s) = kept s := by unfold jtagLoad; dsimp only; (repeat' split) <;> simp

theorem execJtagInstructionLoad_kept (l : JtagLoad) (s : State) : OutKeeps (execJtagInstructionLoad l s) (kept s) := by
  simp [execJtagInstructionLoad]

/-! ### CommandTake -/

theorem handlersSystem_kept : ∀ h ∈ handlersSystem, ∀ rq s, kept (h.2 rq s) = kept s := by
  simp [handlersSystem]

theorem handlersStrokes_kept : ∀ h ∈ handlersStrokes, ∀ rq s, kept (h.2 rq s) = kept s := by
  simp [handlersStrokes]

theorem handlersAnvil_kept : ∀ h ∈ handlersAnvil, ∀ rq s, kept (h.2 rq s) = kept s := by
  simp [handlersAnvil]

theorem handlersProtection_kept : ∀ h ∈ handlersProtection, ∀ rq s, kept (h.2 rq s) = kept s := by
  simp [handlersProtection]

theorem handlersFabric_kept : ∀ h ∈ handlersFabric, ∀ rq s, kept (h.2 rq s) = kept s := by
  simp [handlersFabric]

theorem handlersLine_kept : ∀ h ∈ handlersLine, ∀ rq s, kept (h.2 rq s) = kept s := by
  simp [handlersLine]

theorem handlersClient_kept : ∀ h ∈ handlersClient, ∀ rq s, kept (h.2 rq s) = kept s := by
  simp [handlersClient]

theorem handlersGroom_kept : ∀ h ∈ handlersGroom, ∀ rq s, kept (h.2 rq s) = kept s := by
  simp [handlersGroom]

theorem handlersSecurity_kept : ∀ h ∈ handlersSecurity, ∀ rq s, kept (h.2 rq s) = kept s := by
  simp [handlersSecurity]

theorem handlersOptics_kept : ∀ h ∈ handlersOptics, ∀ rq s, kept (h.2 rq s) = kept s := by
  simp [handlersOptics]

theorem handlersIntegrity_kept : ∀ h ∈ handlersIntegrity, ∀ rq s, kept (h.2 rq s) = kept s := by
  simp [handlersIntegrity]

theorem handlersDiag_kept : ∀ h ∈ handlersDiag, ∀ rq s, kept (h.2 rq s) = kept s := by
  simp [handlersDiag]

theorem handlersModes_hold : ∀ h ∈ handlersModes, ∀ rq s, HoldsOtp (kept s) (kept (h.2 rq s)) := by
  simp [handlersModes, HoldsOtp.rfl, doSignerSlotProgram_holds, doSignerRevoke_holds]

theorem handlers_hold : ∀ h ∈ handlers, ∀ rq s, HoldsOtp (kept s) (kept (h.2 rq s)) := by
  intro h hm rq s
  simp only [handlers, List.mem_append, or_assoc] at hm
  rcases hm with hm | hm | hm | hm | hm | hm | hm | hm | hm | hm | hm | hm | hm
  · exact HoldsOtp.of_eq (handlersSystem_kept h hm rq s)
  · exact HoldsOtp.of_eq (handlersStrokes_kept h hm rq s)
  · exact HoldsOtp.of_eq (handlersAnvil_kept h hm rq s)
  · exact HoldsOtp.of_eq (handlersProtection_kept h hm rq s)
  · exact HoldsOtp.of_eq (handlersFabric_kept h hm rq s)
  · exact HoldsOtp.of_eq (handlersLine_kept h hm rq s)
  · exact HoldsOtp.of_eq (handlersClient_kept h hm rq s)
  · exact HoldsOtp.of_eq (handlersGroom_kept h hm rq s)
  · exact HoldsOtp.of_eq (handlersSecurity_kept h hm rq s)
  · exact HoldsOtp.of_eq (handlersOptics_kept h hm rq s)
  · exact handlersModes_hold h hm rq s
  · exact HoldsOtp.of_eq (handlersIntegrity_kept h hm rq s)
  · exact HoldsOtp.of_eq (handlersDiag_kept h hm rq s)

/-- The commands that a queue can run keep all but the signer slots, which hold. -/
theorem dispatchReq_holds (opcode : Nat) (rq : Req) (s : State) : HoldsOtp (kept s) (kept (dispatchReq opcode rq s)) := by
  unfold dispatchReq
  split
  · exact handlers_hold _ (List.mem_of_find?_eq_some ‹_›) rq s
  · exact HoldsOtp.of_eq (by simp)

theorem execPacket_holds (q : Fin 6) (ws : List W32) (s : State) : HoldsOtp (kept s) (kept (execPacket q ws s)) := by
  unfold execPacket
  split
  · split
    · exact HoldsOtp.of_eq (by simp)
    · exact dispatchReq_holds _ _ _
  · exact dispatchReq_holds _ _ _

@[simp] theorem forward_kept (q : Fin 6) (ws : List W32) (s : State) : kept (forward q ws s) = kept s := by simp [forward]

@[simp] theorem expireRec_kept (r : FwdRec) (s : State) : kept (expireRec r s) = kept s := by simp [expireRec]

@[simp] theorem expireRecs_kept (x0 : List FwdRec) (x1 : State) : kept (expireRecs x0 x1) = kept x1 := by
  induction x0 generalizing x1 <;> simp_all [expireRecs]

@[simp] theorem fwdTimeouts_kept (s : State) : kept (fwdTimeouts s) = kept s := by simp [fwdTimeouts]

theorem execFwdTimeout_kept (s : State) : OutKeeps (execFwdTimeout s) (kept s) := by simp [execFwdTimeout]

theorem runPacket_holds (q : Fin 6) (ws : List W32) (s : State) : HoldsOtp (kept s) (kept (runPacket q ws s)) := by
  unfold runPacket
  extract_lets w t
  split
  · exact HoldsOtp.of_eq (rawReply_kept _ _ _ _)
  · split
    · exact HoldsOtp.of_eq (note_kept _ _ _ _)
    · split
      · exact execPacket_holds _ _ _
      · split
        · exact HoldsOtp.of_eq (rawReply_kept _ _ _ _)
        · split
          · exact forward_kept q ws s ▸ execPacket_holds q ws (forward q ws s)
          · exact HoldsOtp.of_eq (forward_kept _ _ _)

theorem takeFrom_holds (q : Fin 6) (s t : State) (h : takeFrom q s = some t) : HoldsOtp (kept s) (kept t) := by
  unfold takeFrom at h
  (repeat' split at h) <;> simp at h
  rw [← h.2, ← cqPop_kept q.val s]
  exact runPacket_holds q _ (cqPop q s)

theorem takeFirst_holds (l : List (Fin 6)) (s : State) : HoldsOtp (kept s) (kept (takeFirst l s)) := by
  induction l with
  | nil => exact HoldsOtp.rfl _
  | cons q l ih =>
    unfold takeFirst
    split
    · exact takeFrom_holds _ _ _ ‹_›
    · exact ih

/-- COMMAND_TAKE keeps all but the signer slots, which hold. -/
theorem execCommandTake_holds (s t : State) (h : execCommandTake s = .next t) : HoldsOtp (kept s) (kept t) := by
  simp only [execCommandTake, ok, Host.Outcome.next.injEq] at h; subst h
  split
  · exact takeFirst_holds _ _
  · exact HoldsOtp.rfl _

/-- A commit to a command queue keeps all but the signer slots, which hold: a command may leave the queue in the same cycle. -/
theorem cqCommit_holds (cyc : CycleOf) (q : Nat) (p : List W32) (s s' : State) (hs : kept s' = kept s) : HoldsOtp (kept s) (kept (cqCommit cyc q p s')) := by
  rw [← hs]
  cases cyc with
  | alone => exact HoldsOtp.of_eq (by simp [cqCommit])
  | flush => exact HoldsOtp.of_eq (by simp [cqCommit])
  | removal =>
    simp only [cqCommit]
    split
    · have h := takeFirst_holds (turns s') (levelEvent q (qfill s' q) (qfill s' q + p.length - ((cqOf s' q).headD []).length)
        (s'.onCmd fun v => { v with cq := tset [] v.cq q (cqOf s' q ++ [p]) }))
      rwa [levelEvent_kept, kept_onCmd] at h
    · exact HoldsOtp.of_eq (cqPush_kept _ _ _)

theorem execPciePacketFetch_holds (ch : Fin 4) (ws : List W32) (f : Fetched) (s t : State)
    (h : execPciePacketFetch ch ws f s = .next t) : HoldsOtp (kept s) (kept t) := by
  simp only [execPciePacketFetch, ok, Host.Outcome.next.injEq] at h; subst h
  unfold fetch
  dsimp only
  (repeat' split) <;> first
    | exact cqCommit_holds _ _ _ _ _ (by simp [advanceHead])
    | exact HoldsOtp.of_eq (by simp)

theorem execPktWrite_holds (p : SpiPacket) (s t : State) (h : execPktWrite p s = .next t) : HoldsOtp (kept s) (kept t) := by
  simp only [execPktWrite, ok, Host.Outcome.next.injEq] at h; subst h
  unfold spiPacket
  dsimp only
  (repeat' split) <;> first
    | exact cqCommit_holds _ _ _ _ _ (by simp)
    | exact HoldsOtp.of_eq (by simp)

/-! ### LineSend -/

@[simp] theorem feedFrame_kept (e : Fin 4) (s : State) : kept (feedFrame e s) = kept s := by simp [feedFrame]

@[simp] theorem formCodeword_kept (e : Fin 4) (s : State) : kept (formCodeword e s) = kept s := by simp [formCodeword]

@[simp] theorem formCodewords_kept (e : Fin 4) (n x2 : Nat) (x3 : State) : kept (formCodewords e n x2 x3) = kept x3 := by
  induction x2 generalizing e n x3 <;> simp_all [formCodewords]

@[simp] theorem trafficRow_kept (e : Fin 4) (n first : Nat) (s : State) : kept (trafficRow e n first s) = kept s := by simp [trafficRow]

@[simp] theorem calRow_kept (e : Fin 4) (n first : Nat) (s : State) : kept (calRow e n first s) = kept s := by simp [calRow]

@[simp] theorem silentRow_kept (e : Nat) (s : State) : kept (silentRow e s) = kept s := by simp [silentRow]

@[simp] theorem engineRow_kept (e : Fin 4) (s : State) : kept (engineRow e s) = kept s := by simp [engineRow]

@[simp] theorem rampDone_kept (e : Fin 4) (s : State) : kept (rampDone e s) = kept s := by simp [rampDone]

theorem execTxRampDone_kept (e : Fin 4) (s : State) : OutKeeps (execTxRampDone e s) (kept s) := by simp [execTxRampDone]

@[simp] theorem streamBegin_kept (e : Nat) (s : State) : kept (streamBegin e s) = kept s := by simp [streamBegin]

@[simp] theorem laserWaitEnd_kept (e : Fin 4) (s : State) : kept (laserWaitEnd e s) = kept s := by simp [laserWaitEnd]

theorem execTxLaserWaitEnd_kept (e : Fin 4) (s : State) : OutKeeps (execTxLaserWaitEnd e s) (kept s) := by simp [execTxLaserWaitEnd]

@[simp] theorem enginesRow_kept (s : State) : kept (enginesRow s) = kept s := by simp [enginesRow]

/-! ### Stroke -/

@[simp] theorem eachNum_kept (f : Nat → State → State) (x1 : List Nat) (x2 : State) (hf : ∀ a0 a1, kept (f a0 a1) = kept a1) : kept (eachNum f x1 x2) = kept x2 := by
  induction x1 generalizing x2 <;> simp_all [eachNum]

@[simp] theorem eachClient_kept (x0 : List ClientIn) (x1 : State) : kept (eachClient x0 x1) = kept x1 := by
  induction x0 generalizing x1 <;> simp_all [eachClient]

@[simp] theorem eachOtnId_kept (f : OtnId → State → State) (x1 : List OtnId) (x2 : State) (hf : ∀ a0 a1, kept (f a0 a1) = kept a1) : kept (eachOtnId f x1 x2) = kept x2 := by
  induction x1 generalizing x2 <;> simp_all [eachOtnId]

@[simp] theorem turnIngress_kept (s : State) : kept (turnIngress s) = kept s := by simp [turnIngress]

@[simp] theorem ingressWork_kept (x : RowIn) (s : State) : kept (ingressWork x s) = kept s := by simp [ingressWork]

@[simp] theorem egressWork_kept (x : RowIn) (s : State) : kept (egressWork x s) = kept s := by simp [egressWork]

@[simp] theorem ociFormed_kept (e : Fin 4) (s : State) : kept (ociFormed e s) = kept s := by simp [ociFormed]

@[simp] theorem ociRow_kept (s : State) : kept (ociRow s) = kept s := by
  unfold ociRow; exact kept_foldl _ (fun s e => by split <;> simp) _ s

@[simp] theorem bufUpset_kept (u : BufUpset) (s : State) : kept (bufUpset u s) = kept s := by
  unfold bufUpset; dsimp only; (repeat' split) <;> simp

@[simp] theorem bufUpsets_kept (x0 : List BufUpset) (x1 : State) : kept (bufUpsets x0 x1) = kept x1 := by
  induction x0 generalizing x1 <;> simp_all [bufUpsets]

@[simp] theorem rowWork_kept (x : RowIn) (s : State) : kept (rowWork x s) = kept s := by simp [rowWork]

theorem rowTick_kept (x : RowIn) (s : State) :
    kept (rowTick x s) = if alive s = true ∧ s.stk.row < 124 then { kept s with row := s.stk.row + 1 } else kept s := by
  have h : kept (clientTxIdle s) = kept s := clientTxIdle_kept s
  have hr : (clientTxIdle s).stk.row = s.stk.row := congrArg Kept.row h
  have hb : kept ((clientTxIdle s).onStk fun v => { v with row := v.row + 1 }) = { kept s with row := s.stk.row + 1 } := by
    rw [← h]; simp [kept, State.onStk, hr]
  unfold rowTick
  by_cases ha : alive s = true <;> by_cases hl : 124 ≤ s.stk.row <;> simp [ha, hl, Nat.not_lt.2]
  rw [if_pos (by omega)]
  exact hb

/-- ROW_TICK moves the row of a stroke on, up to 124. -/
theorem execRowTick_kept (x : RowIn) (s t : State) (h : execRowTick x s = .next t) :
    kept t = if alive s = true ∧ s.stk.row < 124 then { kept s with row := s.stk.row + 1 } else kept s := by
  simp only [execRowTick, ok, Host.Outcome.next.injEq] at h; subst h
  exact rowTick_kept x s

theorem execRefFail_kept (c : Fin 24) (why : RefCause) (s : State) : OutKeeps (execRefFail c why s) (kept s) := by simp [execRefFail]

@[simp] theorem clkStroke_kept (x : StrokeIn) (s : State) : kept (clkStroke x s) = kept s := by simp [clkStroke]

@[simp] theorem rootStroke_kept (s : State) : kept (rootStroke s) = kept s := by simp [rootStroke]

@[simp] theorem strokeEnd_kept (x : StrokeIn) (second : Bool) (s : State) : kept (strokeEnd x second s) = kept s := by simp [strokeEnd]

@[simp] theorem secondEnd_kept (s : State) : kept (secondEnd s) = kept s := by simp [secondEnd]

@[simp] theorem stepEffects_kept (n : W48) (shift : Int) (align : Bool) (s : State) : kept (stepEffects n shift align s) = kept s := by
  simp [stepEffects]

@[simp] theorem dropJoin_kept (s : State) : kept (dropJoin s) = kept s := by simp [dropJoin]

@[simp] theorem groupsRow0_kept (s : State) : kept (groupsRow0 s) = kept s := by simp [groupsRow0]

@[simp] theorem changesAfter_kept (pick : Option Nat × Nat) (s : State) : kept (changesAfter pick s) = kept s := by simp [changesAfter]

@[simp] theorem changesRow0_kept (s : State) : kept (changesRow0 s) = kept s := by simp [changesRow0]

@[simp] theorem formFrames_kept (s : State) : kept (formFrames s) = kept s := by simp [formFrames]

@[simp] theorem startRow0_kept (x : StrokeIn) (s : State) : kept (startRow0 x s) = kept s := by simp [startRow0]

@[simp] theorem strokeEnds_kept (x : StrokeIn) (s : State) : kept (strokeEnds x s) = kept s := by
  unfold strokeEnds; dsimp only; split <;> simp

theorem strokeBegins_kept (x : StrokeIn) (s : State) : kept (strokeBegins x s) = { kept s with scnt := nextNumber s, row := 0 } := by
  have hb : ∀ (s' : State) (n : W48) (f : StrokeSt → StrokeSt), kept s' = kept s → (∀ v, (f v).scnt = n ∧ (f v).row = 0) →
      kept (s'.onStk f) = { kept s with scnt := n, row := 0 } := by
    intro s' n f h hf; rw [← h]; simp [kept, State.onStk, hf]
  unfold strokeBegins
  extract_lets t t'
  have h1 : kept t = { kept s with scnt := nextNumber s, row := 0 } := by
    simp only [t, windowsEnd_kept]
    exact hb _ _ _ (by simp) fun v => ⟨rfl, rfl⟩
  have h2 : kept t' = kept t := by
    simp only [t']
    split
    · exact stepEffects_kept _ _ _ _
    · rfl
  split
  · rw [modeSecond_kept, h2, h1]
  · rw [h2, h1]

theorem strokeBoundary_kept (x : StrokeIn) (s : State) :
    kept (strokeBoundary x s) = if alive s = true then { kept s with scnt := nextNumber s, row := 0 } else kept s := by
  unfold strokeBoundary
  by_cases ha : alive s = true
  · simp [ha, strokeBegins_kept]
  · simp [ha]

/-- STROKE_BOUNDARY begins row 0 of the next stroke. -/
theorem execStrokeBoundary_kept (x : StrokeIn) (s t : State) (h : execStrokeBoundary x s = .next t) :
    kept t = if alive s = true then { kept s with scnt := nextNumber s, row := 0 } else kept s := by
  simp only [execStrokeBoundary, ok, Host.Outcome.next.injEq] at h; subst h
  exact strokeBoundary_kept x s

end Sys2Proof.Machine
end

