-- ==== Sys2Proof/Laws/FrameQuench.lean ====
section
/-! SUPPORT. COMMIT_DISCARD through the operations of an entry into QUENCH: only the discarded writes count there. -/

set_option Elab.async false

namespace Sys2Proof.Machine

/-- The counter of COMMIT_DISCARD. -/
def discards (s : State) : W48 := counter s evStkCommitDiscard 0

/-- An event other than COMMIT_DISCARD. -/
def otherEvent (e : Ev) : Bool := decide (e.code < 256) && (decide (e.cls ≠ evStkCommitDiscard.cls) || decide (e.code ≠ evStkCommitDiscard.code))

@[simp] theorem discards_onCommits (s : State) (f : List Commit → List Commit) : discards (s.onCommits f) = discards s := rfl
@[simp] theorem discards_onFree (s : State) (f : Nat → Nat) : discards (s.onFree f) = discards s := rfl
@[simp] theorem discards_onOtn (s : State) (f : List (Nat × OtnSt) → List (Nat × OtnSt)) : discards (s.onOtn f) = discards s := rfl
@[simp] theorem discards_onPins (s : State) (f : PinSt → PinSt) : discards (s.onPins f) = discards s := rfl
@[simp] theorem discards_onStk (s : State) (f : StrokeSt → StrokeSt) : discards (s.onStk f) = discards s := rfl
@[simp] theorem discards_onClk (s : State) (f : ClkSt → ClkSt) : discards (s.onClk f) = discards s := rfl
@[simp] theorem discards_onRoot (s : State) (f : RootSt → RootSt) : discards (s.onRoot f) = discards s := rfl
@[simp] theorem discards_onCmd (s : State) (f : CmdSt → CmdSt) : discards (s.onCmd f) = discards s := rfl
@[simp] theorem discards_onAnvil (s : State) (f : AnvilSt → AnvilSt) : discards (s.onAnvil f) = discards s := rfl
@[simp] theorem discards_onRows (s : State) (f : RowSt → RowSt) : discards (s.onRows f) = discards s := rfl
@[simp] theorem discards_onCont (s : State) (f : ContSt → ContSt) : discards (s.onCont f) = discards s := rfl
@[simp] theorem discards_onDiag (s : State) (f : DiagSt → DiagSt) : discards (s.onDiag f) = discards s := rfl
@[simp] theorem discards_onProt (s : State) (f : ProtSt → ProtSt) : discards (s.onProt f) = discards s := rfl
@[simp] theorem discards_onFab (s : State) (f : FabSt → FabSt) : discards (s.onFab f) = discards s := rfl
@[simp] theorem discards_onTx (s : State) (f : LineTxSt → LineTxSt) : discards (s.onTx f) = discards s := rfl
@[simp] theorem discards_onRx (s : State) (f : LineRxSt → LineRxSt) : discards (s.onRx f) = discards s := rfl
@[simp] theorem discards_onCli (s : State) (f : CliSt → CliSt) : discards (s.onCli f) = discards s := rfl
@[simp] theorem discards_onGrm (s : State) (f : GrmSt → GrmSt) : discards (s.onGrm f) = discards s := rfl
@[simp] theorem discards_onSec (s : State) (f : SecSt → SecSt) : discards (s.onSec f) = discards s := rfl
@[simp] theorem discards_onOpt (s : State) (f : OptSt → OptSt) : discards (s.onOpt f) = discards s := rfl
@[simp] theorem discards_onMode (s : State) (f : ModeSt → ModeSt) : discards (s.onMode f) = discards s := rfl
@[simp] theorem discards_onBoot (s : State) (f : BootSt → BootSt) : discards (s.onBoot f) = discards s := rfl
@[simp] theorem discards_onKeys (s : State) (f : KeySt → KeySt) : discards (s.onKeys f) = discards s := rfl
@[simp] theorem discards_onStore (s : State) (f : StoreSt → StoreSt) : discards (s.onStore f) = discards s := rfl
@[simp] theorem discards_onPm (s : State) (f : PmSt → PmSt) : discards (s.onPm f) = discards s := rfl
@[simp] theorem discards_onInteg (s : State) (f : IntegSt → IntegSt) : discards (s.onInteg f) = discards s := rfl

@[simp] theorem discards_ite (c : Prop) [Decidable c] (a b : State) : discards (if c then a else b) = if c then discards a else discards b := apply_ite discards c a b

@[simp] theorem discards_dite (c : Prop) [Decidable c] (a : c → State) (b : ¬c → State) : discards (if h : c then a h else b h) = if h : c then discards (a h) else discards (b h) :=
  apply_dite discards c a b

@[simp] theorem discards_foldl {α : Type} (g : State → α → State) (h : ∀ s a, discards (g s a) = discards s) (l : List α) (s : State) : discards (l.foldl g s) = discards s := by
  induction l generalizing s with
  | nil => rfl
  | cons a l ih => simp [ih, h]

@[simp] theorem evCliDHiSer_other : otherEvent evCliDHiSer = true := by decide
@[simp] theorem evCliDLoa_other : otherEvent evCliDLoa = true := by decide
@[simp] theorem evCmdCmdqFlushDiscard_other : otherEvent evCmdCmdqFlushDiscard = true := by decide
@[simp] theorem evCmdRplDrop_other : otherEvent evCmdRplDrop = true := by decide
@[simp] theorem evFabDFlos_other : otherEvent evFabDFlos = true := by decide
@[simp] theorem evFabDNbrMm_other : otherEvent evFabDNbrMm = true := by decide
@[simp] theorem evFabDSbdi_other : otherEvent evFabDSbdi = true := by decide
@[simp] theorem evFabDSdeg_other : otherEvent evFabDSdeg = true := by decide
@[simp] theorem evFabHelloLoss_other : otherEvent evFabHelloLoss = true := by decide
@[simp] theorem evGrqGrmFlushDiscard_other : otherEvent evGrqGrmFlushDiscard = true := by decide
@[simp] theorem evLinCdTrackLimit_other : otherEvent evLinCdTrackLimit = true := by decide
@[simp] theorem evLinDLosf_other : otherEvent evLinDLosf = true := by decide
@[simp] theorem evLinDRxlos_other : otherEvent evLinDRxlos = true := by decide
@[simp] theorem evLinDescMm_other : otherEvent evLinDescMm = true := by decide
@[simp] theorem evSecSecFail_other : otherEvent evSecSecFail = true := by decide
@[simp] theorem evSecSecUnchecked_other : otherEvent evSecSecUnchecked = true := by decide
@[simp] theorem evSecSecUnits_other : otherEvent evSecSecUnits = true := by decide
@[simp] theorem evSlotSlotDiscard_other : otherEvent evSlotSlotDiscard = true := by decide
@[simp] theorem evStkRefFail_other : otherEvent evStkRefFail = true := by decide

theorem evId_other (e : Ev) (i : Nat) (h : otherEvent e = true) : evId evStkCommitDiscard 0 ≠ evId e i := by
  have hc : evStkCommitDiscard.cls = 0x01 := rfl
  have hd : evStkCommitDiscard.code = 0x08 := rfl
  simp only [otherEvent, hc, hd, Bool.and_eq_true, Bool.or_eq_true, decide_eq_true_eq] at h
  unfold evId; rw [hc, hd]; omega

theorem tget_tmod_ne {α : Type} [DecidableEq α] {d : α} (t : List (Nat × α)) (k : Nat) (f : α → α) (j : Nat) (h : j ≠ k) : tget d (tmod d t k f) j = tget d t j := by
  rw [tget_tmod, if_neg h]

@[simp] theorem logEvent_discards (e : Ev) (i n : Nat) (c : Bool) (s : State) : discards (logEvent e i n c s) = discards s := by
  unfold logEvent discards counter
  dsimp only
  split
  · rfl
  · split
    · rfl
    · split
      · rfl
      · simp only [State.onEv]
        exact tget_tmod_ne _ _ _ _ (by decide)

@[simp] theorem note_discards (e : Ev) (i n : Nat) (s : State) (h : otherEvent e = true) : discards (note e i n s) = discards s := by
  have hc : discards (s.onEv fun v => { v with counters := tmod 0#48 v.counters (evId e i) (· + BitVec.ofNat 48 n) }) = discards s := by
    simp only [State.onEv, discards, counter]
    exact tget_tmod_ne _ _ _ _ (evId_other e i h)
  unfold note
  split
  · rfl
  · dsimp only
    split
    · rw [logEvent_discards, hc]
    · exact hc

@[simp] theorem noteClear_discards (e : Ev) (i : Nat) (s : State) : discards (noteClear e i s) = discards s := by
  unfold noteClear; split <;> simp

@[simp] theorem noteChange_discards (e : Ev) (i : Nat) (a b : Bool) (s : State) (h : otherEvent e = true) : discards (noteChange e i a b s) = discards s := by
  unfold noteChange; (repeat' split) <;> simp [h]

@[simp] theorem lineDefect_other (d : LineDefect) : otherEvent d.ev = true := by cases d <;> decide

@[simp] theorem lineDefect_flexo_other (d : LineDefect) : otherEvent d.ev.flexo = true := by cases d <;> decide


@[simp] theorem raiseInt_discards (i : Nat) (s : State) : discards (raiseInt i s) = discards s := by simp [raiseInt]

@[simp] theorem levelCross_discards (q before after : Nat) (s : State) : discards (levelCross q before after s) = discards s := by unfold levelCross; split <;> simp

@[simp] theorem setCycle_discards (q : Nat) (c : Option InCycle) (s : State) : discards (setCycle q c s) = discards s := by simp [setCycle]

@[simp] theorem levelEvent_discards (q before after : Nat) (s : State) : discards (levelEvent q before after s) = discards s := by
  unfold levelEvent; split <;> simp

@[simp] theorem flushedPush_discards (q : Nat) (s : State) : discards (flushedPush q s) = discards s := by simp [flushedPush]

@[simp] theorem rqPush_discards (q : Nat) (p : List W32) (s : State) : discards (rqPush q p s) = discards s := by simp [rqPush]

@[simp] theorem reply_discards (opcode : Nat) (rq : Req) (key : Option (BitVec 256)) (r : Rej) (res : List W32) (s : State) : discards (reply opcode rq key r res s) = discards s := by
  simp [reply]

@[simp] theorem freeCq_discards (q : Nat) (s : State) : discards (freeCq q s) = discards s := by simp [freeCq]

@[simp] theorem faultRecord_discards (code unit detail : Nat) (s : State) : discards (faultRecord code unit detail s) = discards s := by
  simp [faultRecord]

@[simp] theorem unaccept_discards (rq : Req) (s : State) : discards (unaccept rq s) = discards s := by unfold unaccept; (repeat' split) <;> simp

@[simp] theorem replyDeferred_discards (d : Deferred) (r : Rej) (res : List W32) (s : State) : discards (replyDeferred d r res s) = discards s := by
  simp [replyDeferred]

@[simp] theorem abortMapSync_discards (s : State) : discards (abortMapSync s) = discards s := by unfold abortMapSync; (repeat' split) <;> simp

@[simp] theorem onSrc_discards (c : Nat) (f : SrcSt → SrcSt) (s : State) : discards (onSrc c f s) = discards s := by simp [onSrc]

@[simp] theorem onSnk_discards (c : Nat) (f : SinkSt → SinkSt) (s : State) : discards (onSnk c f s) = discards s := by simp [onSnk]

@[simp] theorem onCtx_discards (k : Nat) (f : CtxSt → CtxSt) (s : State) : discards (onCtx k f s) = discards s := by simp [onCtx]

@[simp] theorem failRef_discards (c : Nat) (s : State) : discards (failRef c s) = discards s := by simp [failRef]

@[simp] theorem sourceLost_discards (c : Nat) (s : State) : discards (sourceLost c s) = discards s := by simp [sourceLost]

@[simp] theorem onLane_discards (n : Nat) (f : LaneSt → LaneSt) (s : State) : discards (onLane n f s) = discards s := by simp [onLane]

@[simp] theorem onCliPort_discards (p : Nat) (f : CliPortSt → CliPortSt) (s : State) : discards (onCliPort p f s) = discards s := by simp [onCliPort]

@[simp] theorem eachLane_discards (f : Nat → State → State) (x1 : List Nat) (x2 : State) (hf : ∀ a0 a1, discards (f a0 a1) = discards a1) : discards (eachLane f x1 x2) = discards x2 := by
  induction x1 generalizing x2 <;> simp_all [eachLane]

@[simp] theorem laneIdle_discards (base n : Nat) (s : State) : discards (laneIdle base n s) = discards s := by simp [laneIdle]

@[simp] theorem instsOff_discards (p : Nat) (s : State) : discards (instsOff p s) = discards s := by
  unfold instsOff; exact discards_foldl _ (fun s a => discards_foldl _ (by simp) _ s) _ s

@[simp] theorem applyClPort_discards (c : Commit) (s : State) : discards (applyClPort c s) = discards s := by unfold applyClPort; dsimp only; (repeat' split) <;> simp

@[simp] theorem clientLanesIdle_discards (s : State) : discards (clientLanesIdle s) = discards s := by simp [clientLanesIdle]

@[simp] theorem onPort_discards (p : Nat) (f : PortSt → PortSt) (s : State) : discards (onPort p f s) = discards s := by simp [onPort]

@[simp] theorem onSlot_discards (g : Nat) (f : SlotSt → SlotSt) (s : State) : discards (onSlot g f s) = discards s := by simp [onSlot]

@[simp] theorem dropParts_discards (s : State) (l : List Nat) : discards (dropParts s l) = discards s := by
  induction l generalizing s <;> simp_all [dropParts]

@[simp] theorem grmFlush_discards (q : Nat) (s : State) : discards (grmFlush q s) = discards s := by simp [grmFlush]

@[simp] theorem drainCheck_discards (s : State) : discards (drainCheck s) = discards s := by simp [drainCheck]

@[simp] theorem slotDiscard_discards (g : Nat) (s : State) : discards (slotDiscard g s) = discards s := by simp [slotDiscard]

@[simp] theorem eachNat_discards (f : Nat → State → State) (x1 : List Nat) (x2 : State) (hf : ∀ a0 a1, discards (f a0 a1) = discards a1) : discards (eachNat f x1 x2) = discards x2 := by
  induction x1 generalizing x2 <;> simp_all [eachNat]

@[simp] theorem dropFlight_discards (p : Nat) (s : State) : discards (dropFlight p s) = discards s := by simp [dropFlight]

@[simp] theorem groomPortOff_discards (p : Nat) (s : State) : discards (groomPortOff p s) = discards s := by simp [groomPortOff]

@[simp] theorem groomQuench_discards (s : State) : discards (groomQuench s) = discards s := by simp [groomQuench]

@[simp] theorem slotUsed_discards (k n : Nat) (s : State) : discards (slotUsed k n s) = discards s := by simp [slotUsed]

@[simp] theorem onBody_discards (c : Nat) (f : BodyRx → BodyRx) (s : State) : discards (onBody c f s) = discards s := by simp [onBody]

@[simp] theorem applyVerdict_discards (c : Nat) (e : ContEntry) (v : UnitVerdict) (s : State) : discards (applyVerdict c e v s) = discards s := by
  unfold applyVerdict; (repeat' split) <;> simp

@[simp] theorem dropUnit_discards (c : Nat) (s : State) : discards (dropUnit c s) = discards s := by simp [dropUnit]

@[simp] theorem sinksQuench_discards (x1 : List (Nat × ContEntry)) (x2 : State) : discards (sinksQuench x1 x2) = discards x2 := by
  induction x1 generalizing x2 <;> simp_all [sinksQuench]

@[simp] theorem ctlPurge_discards (p : Nat) (s : State) : discards (ctlPurge p s) = discards s := by simp [ctlPurge]

@[simp] theorem adjDrop_discards (p : Nat) (a : Adj) (s : State) : discards (adjDrop p a s) = discards s := by simp [adjDrop]

@[simp] theorem adjNone_discards (p : Nat) (s : State) : discards (adjNone p s) = discards s := by simp [adjNone]

@[simp] theorem enterDown_discards (p : Nat) (s : State) : discards (enterDown p s) = discards s := by simp [enterDown]

@[simp] theorem onTxEng_discards (e : Nat) (f : TxSt → TxSt) (s : State) : discards (onTxEng e f s) = discards s := by simp [onTxEng]

@[simp] theorem onOut_discards (n : Nat) (f : OutSt → OutSt) (s : State) : discards (onOut n f s) = discards s := by simp [onOut]

@[simp] theorem onBl_discards (l : Nat) (f : BlSt → BlSt) (s : State) : discards (onBl l f s) = discards s := by simp [onBl]

@[simp] theorem onI2c_discards (m : Nat) (f : I2cSt → I2cSt) (s : State) : discards (onI2c m f s) = discards s := by simp [onI2c]

@[simp] theorem blStop_discards (l : Nat) (s : State) : discards (blStop l s) = discards s := by simp [blStop]

@[simp] theorem onRxEng_discards (e : Nat) (f : RxSt → RxSt) (s : State) : discards (onRxEng e f s) = discards s := by simp [onRxEng]

@[simp] theorem optQuench_discards (s : State) : discards (optQuench s) = discards s := by simp [optQuench]

@[simp] theorem onOtnE_discards (e : Nat) (f : OtnSt → OtnSt) (s : State) : discards (onOtnE e f s) = discards s := by simp [onOtnE]

@[simp] theorem otnDefect_discards (e : Nat) (d : LineDefect) (ev : Ev) (now : Bool) (s : State) (h : otherEvent ev = true) : discards (otnDefect e d ev now s) = discards s := by
  unfold otnDefect; rw [noteChange_discards _ _ _ _ _ h]; split <;> simp

@[simp] theorem otnOff_discards (e : Nat) (s : State) : discards (otnOff e s) = discards s := by simp [otnOff]

@[simp] theorem rxLosf_discards (e : Nat) (now : Bool) (s : State) : discards (rxLosf e now s) = discards s := by simp [rxLosf]

@[simp] theorem rxLos_discards (e : Nat) (now : Bool) (s : State) : discards (rxLos e now s) = discards s := by simp [rxLos]

@[simp] theorem clearDescMm_discards (e : Nat) (s : State) : discards (clearDescMm e s) = discards s := by simp [clearDescMm]

@[simp] theorem cdLimitClear_discards (e : Nat) (s : State) : discards (cdLimitClear e s) = discards s := by simp [cdLimitClear]

@[simp] theorem rxEnter_discards (st : RxState) (e : Nat) (s : State) : discards (rxEnter st e s) = discards s := by simp [rxEnter]

@[simp] theorem rxOff_discards (e : Nat) (s : State) : discards (rxOff e s) = discards s := by simp [rxOff]

@[simp] theorem zeroiseContexts_discards (s : State) : discards (zeroiseContexts s) = discards s := by simp [zeroiseContexts]

@[simp] theorem linesQuench_discards (s : State) : discards (linesQuench s) = discards s := by simp [linesQuench]

@[simp] theorem clientsQuench_discards (s : State) : discards (clientsQuench s) = discards s := by simp [clientsQuench]

@[simp] theorem fabricQuench_discards (s : State) : discards (fabricQuench s) = discards s := by simp [fabricQuench]

end Sys2Proof.Machine
end

