-- ==== Sys2Proof/Laws/FrameWaiting.lean ====
section
/-! SUPPORT. The table of waiting writes, which the operations of a stroke's end and of row 0 leave alone: one lemma each. -/

set_option Elab.async false

namespace Sys2Proof.Machine

/-- The waiting writes. -/
def held (s : State) : List Commit := s.commits

def ExHolds (o : Except Rej State) (k : List Commit) : Prop := ∀ s, o = .ok s → held s = k
@[simp] theorem holds_ok (s : State) (k : List Commit) : ExHolds (.ok s) k = (held s = k) := by simp [ExHolds]
@[simp] theorem holds_error (r : Rej) (k : List Commit) : ExHolds (.error r) k = True := by simp [ExHolds]

@[simp] theorem held_onCommits (s : State) (f : List Commit → List Commit) : held (s.onCommits f) = f (held s) := rfl
@[simp] theorem held_onFree (s : State) (f : Nat → Nat) : held (s.onFree f) = held s := rfl
@[simp] theorem held_onOtn (s : State) (f : List (Nat × OtnSt) → List (Nat × OtnSt)) : held (s.onOtn f) = held s := rfl
@[simp] theorem held_onPins (s : State) (f : PinSt → PinSt) : held (s.onPins f) = held s := rfl
@[simp] theorem held_onStk (s : State) (f : StrokeSt → StrokeSt) : held (s.onStk f) = held s := rfl
@[simp] theorem held_onClk (s : State) (f : ClkSt → ClkSt) : held (s.onClk f) = held s := rfl
@[simp] theorem held_onRoot (s : State) (f : RootSt → RootSt) : held (s.onRoot f) = held s := rfl
@[simp] theorem held_onCmd (s : State) (f : CmdSt → CmdSt) : held (s.onCmd f) = held s := rfl
@[simp] theorem held_onEv (s : State) (f : EvSt → EvSt) : held (s.onEv f) = held s := rfl
@[simp] theorem held_onAnvil (s : State) (f : AnvilSt → AnvilSt) : held (s.onAnvil f) = held s := rfl
@[simp] theorem held_onRows (s : State) (f : RowSt → RowSt) : held (s.onRows f) = held s := rfl
@[simp] theorem held_onCont (s : State) (f : ContSt → ContSt) : held (s.onCont f) = held s := rfl
@[simp] theorem held_onDiag (s : State) (f : DiagSt → DiagSt) : held (s.onDiag f) = held s := rfl
@[simp] theorem held_onProt (s : State) (f : ProtSt → ProtSt) : held (s.onProt f) = held s := rfl
@[simp] theorem held_onFab (s : State) (f : FabSt → FabSt) : held (s.onFab f) = held s := rfl
@[simp] theorem held_onTx (s : State) (f : LineTxSt → LineTxSt) : held (s.onTx f) = held s := rfl
@[simp] theorem held_onRx (s : State) (f : LineRxSt → LineRxSt) : held (s.onRx f) = held s := rfl
@[simp] theorem held_onCli (s : State) (f : CliSt → CliSt) : held (s.onCli f) = held s := rfl
@[simp] theorem held_onGrm (s : State) (f : GrmSt → GrmSt) : held (s.onGrm f) = held s := rfl
@[simp] theorem held_onSec (s : State) (f : SecSt → SecSt) : held (s.onSec f) = held s := rfl
@[simp] theorem held_onOpt (s : State) (f : OptSt → OptSt) : held (s.onOpt f) = held s := rfl
@[simp] theorem held_onMode (s : State) (f : ModeSt → ModeSt) : held (s.onMode f) = held s := rfl
@[simp] theorem held_onBoot (s : State) (f : BootSt → BootSt) : held (s.onBoot f) = held s := rfl
@[simp] theorem held_onKeys (s : State) (f : KeySt → KeySt) : held (s.onKeys f) = held s := rfl
@[simp] theorem held_onStore (s : State) (f : StoreSt → StoreSt) : held (s.onStore f) = held s := rfl
@[simp] theorem held_onPm (s : State) (f : PmSt → PmSt) : held (s.onPm f) = held s := rfl
@[simp] theorem held_onInteg (s : State) (f : IntegSt → IntegSt) : held (s.onInteg f) = held s := rfl

@[simp] theorem held_ite (c : Prop) [Decidable c] (a b : State) : held (if c then a else b) = if c then held a else held b := apply_ite held c a b

@[simp] theorem held_dite (c : Prop) [Decidable c] (a : c → State) (b : ¬c → State) : held (if h : c then a h else b h) = if h : c then held (a h) else held (b h) :=
  apply_dite held c a b

@[simp] theorem held_foldl {α : Type} (g : State → α → State) (h : ∀ s a, held (g s a) = held s) (l : List α) (s : State) : held (l.foldl g s) = held s := by
  induction l generalizing s with
  | nil => rfl
  | cons a l ih => simp [ih, h]

@[simp] theorem logEvent_held (e : Ev) (inst n : Nat) (clear : Bool) (s : State) : held (logEvent e inst n clear s) = held s := by
  simp [logEvent]

@[simp] theorem note_held (e : Ev) (inst n : Nat) (s : State) : held (note e inst n s) = held s := by simp [note]

@[simp] theorem noteClear_held (e : Ev) (inst : Nat) (s : State) : held (noteClear e inst s) = held s := by simp [noteClear]

@[simp] theorem noteChange_held (e : Ev) (inst : Nat) (was now : Bool) (s : State) : held (noteChange e inst was now s) = held s := by
  simp [noteChange]

@[simp] theorem drawn_held (s : State) : held (drawn s) = held s := by simp [drawn]

@[simp] theorem raiseInt_held (i : Nat) (s : State) : held (raiseInt i s) = held s := by simp [raiseInt]

@[simp] theorem levelCross_held (q before after : Nat) (s : State) : held (levelCross q before after s) = held s := by unfold levelCross; split <;> simp

@[simp] theorem setCycle_held (q : Nat) (c : Option InCycle) (s : State) : held (setCycle q c s) = held s := by simp [setCycle]

@[simp] theorem levelEvent_held (q before after : Nat) (s : State) : held (levelEvent q before after s) = held s := by
  unfold levelEvent; split <;> simp

@[simp] theorem flushedPush_held (q : Nat) (s : State) : held (flushedPush q s) = held s := by simp [flushedPush]

@[simp] theorem rqPush_held (q : Nat) (p : List W32) (s : State) : held (rqPush q p s) = held s := by simp [rqPush]

@[simp] theorem reply_held (opcode : Nat) (rq : Req) (key : Option (BitVec 256)) (r : Rej) (res : List W32) (s : State) : held (reply opcode rq key r res s) = held s := by
  simp [reply]

@[simp] theorem freeCq_held (q : Nat) (s : State) : held (freeCq q s) = held s := by simp [freeCq]

@[simp] theorem faultRecord_held (code unit detail : Nat) (s : State) : held (faultRecord code unit detail s) = held s := by
  simp [faultRecord]

@[simp] theorem internalEntry_held (opcode : Nat) (s : State) : held (internalEntry opcode s) = held s := by simp [internalEntry]

@[simp] theorem unaccept_held (rq : Req) (s : State) : held (unaccept rq s) = held s := by unfold unaccept; (repeat' split) <;> simp

@[simp] theorem replyDeferred_held (d : Deferred) (r : Rej) (res : List W32) (s : State) : held (replyDeferred d r res s) = held s := by
  simp [replyDeferred]

@[simp] theorem internalReply_held (d : Deferred) (s : State) : held (internalReply d s) = held s := by simp [internalReply]

@[simp] theorem cleanWords_held (t i n : Nat) (s : State) : held (cleanWords t i n s) = held s := by simp [cleanWords]

@[simp] theorem applyMapCommit_held (s : State) : held (applyMapCommit s) = held s := by simp [applyMapCommit]

@[simp] theorem swSecond_held (s : State) : held (swSecond s).1 = held s := by simp [swSecond]

@[simp] theorem shedIfNeeded_held (s : State) : held (shedIfNeeded s) = held s := by simp [shedIfNeeded]

@[simp] theorem onSrc_held (c : Nat) (f : SrcSt → SrcSt) (s : State) : held (onSrc c f s) = held s := by simp [onSrc]

@[simp] theorem onSnk_held (c : Nat) (f : SinkSt → SinkSt) (s : State) : held (onSnk c f s) = held s := by simp [onSnk]

@[simp] theorem onCtx_held (k : Nat) (f : CtxSt → CtxSt) (s : State) : held (onCtx k f s) = held s := by simp [onCtx]

@[simp] theorem failRef_held (c : Nat) (s : State) : held (failRef c s) = held s := by simp [failRef]

@[simp] theorem sourceLost_held (c : Nat) (s : State) : held (sourceLost c s) = held s := by simp [sourceLost]

@[simp] theorem retireResource_held (code unit detail : Nat) (s : State) : held (retireResource code unit detail s) = held s := by
  simp [retireResource]

@[simp] theorem onLane_held (n : Nat) (f : LaneSt → LaneSt) (s : State) : held (onLane n f s) = held s := by simp [onLane]

@[simp] theorem onCliPort_held (p : Nat) (f : CliPortSt → CliPortSt) (s : State) : held (onCliPort p f s) = held s := by simp [onCliPort]

@[simp] theorem eachLane_held (f : Nat → State → State) (x1 : List Nat) (x2 : State) (hf : ∀ a0 a1, held (f a0 a1) = held a1) : held (eachLane f x1 x2) = held x2 := by
  induction x1 generalizing x2 <;> simp_all [eachLane]

@[simp] theorem laneIdle_held (base n : Nat) (s : State) : held (laneIdle base n s) = held s := by simp [laneIdle]

@[simp] theorem instsOff_held (p : Nat) (s : State) : held (instsOff p s) = held s := by
  unfold instsOff; exact held_foldl _ (fun s a => held_foldl _ (by simp) _ s) _ s

@[simp] theorem applyClPort_held (c : Commit) (s : State) : held (applyClPort c s) = held s := by unfold applyClPort; dsimp only; (repeat' split) <;> simp

@[simp] theorem clientTxIdle_held (s : State) : held (clientTxIdle s) = held s := by simp [clientTxIdle]

@[simp] theorem applyTrib_held (c : Commit) (s : State) : held (applyTrib c s) = held s := by simp [applyTrib]

@[simp] theorem applyLaneCfg_held (c : Commit) (s : State) : held (applyLaneCfg c s) = held s := by simp [applyLaneCfg]

@[simp] theorem onPort_held (p : Nat) (f : PortSt → PortSt) (s : State) : held (onPort p f s) = held s := by simp [onPort]

@[simp] theorem onTr_held (tp : TrainPort) (f : TrainSt → TrainSt) (s : State) : held (onTr tp f s) = held s := by
  unfold onTr; (repeat' split) <;> simp

@[simp] theorem startTest_held (n : Nat) (s : State) : held (startTest n s) = held s := by simp [startTest]

@[simp] theorem cliStroke_held (x : StrokeIn) (s : State) : held (cliStroke x s) = held s := by simp [cliStroke]

@[simp] theorem onSlot_held (g : Nat) (f : SlotSt → SlotSt) (s : State) : held (onSlot g f s) = held s := by simp [onSlot]

@[simp] theorem dropParts_held (s : State) (l : List Nat) : held (dropParts s l) = held s := by
  induction l generalizing s <;> simp_all [dropParts]

@[simp] theorem streamGone_held (c : Nat) (s : State) : held (streamGone c s) = held s := by
  unfold streamGone; dsimp only; (repeat' split) <;> simp

@[simp] theorem reportSecMm_held (k : Nat) (s : State) : held (reportSecMm k s) = held s := by simp [reportSecMm]

@[simp] theorem grmFlush_held (q : Nat) (s : State) : held (grmFlush q s) = held s := by simp [grmFlush]

@[simp] theorem drainCheck_held (s : State) : held (drainCheck s) = held s := by simp [drainCheck]

@[simp] theorem slotDiscard_held (g : Nat) (s : State) : held (slotDiscard g s) = held s := by simp [slotDiscard]

@[simp] theorem applyGroomCfg_held (c : Commit) (s : State) : held (applyGroomCfg c s) = held s := by simp [applyGroomCfg]

@[simp] theorem applySlotCfg_held (c : Commit) (s : State) : held (applySlotCfg c s) = held s := by simp [applySlotCfg]

@[simp] theorem applyRuleCommit_held (s : State) : held (applyRuleCommit s) = held s := by simp [applyRuleCommit]

@[simp] theorem eachNat_held (f : Nat → State → State) (x1 : List Nat) (x2 : State) (hf : ∀ a0 a1, held (f a0 a1) = held a1) : held (eachNat f x1 x2) = held x2 := by
  induction x1 generalizing x2 <;> simp_all [eachNat]

@[simp] theorem dropFlight_held (p : Nat) (s : State) : held (dropFlight p s) = held s := by simp [dropFlight]

@[simp] theorem groomPortOff_held (p : Nat) (s : State) : held (groomPortOff p s) = held s := by simp [groomPortOff]

@[simp] theorem onPmRec_held (n i : Nat) (f : PmRec → PmRec) (s : State) : held (onPmRec n i f s) = held s := by simp [onPmRec]

@[simp] theorem pmErrored_held (n i : Nat) (far : Bool) (k : Nat) (s : State) : held (pmErrored n i far k s) = held s := by
  simp [pmErrored]

@[simp] theorem pmDefect_held (n i : Nat) (far : Bool) (s : State) : held (pmDefect n i far s) = held s := by simp [pmDefect]

@[simp] theorem pmSecond_held (thr : Nat → Nat → Nat) (s : State) : held (pmSecond thr s) = held s := by simp [pmSecond]

@[simp] theorem noteDefects_held (c : Nat) (was : List Defect) (now : List Defect) (x3 : List Defect) (x4 : State) : held (noteDefects c was now x3 x4) = held x4 := by
  induction x3 generalizing c was now x4 <;> simp_all [noteDefects]

@[simp] theorem applyBaCfg_held (c : Commit) (s : State) : held (applyBaCfg c s) = held s := by simp [applyBaCfg]

@[simp] theorem applyErrInject_held (c : Commit) (s : State) : held (applyErrInject c s) = held s := by simp [applyErrInject]

@[simp] theorem slotUsed_held (k n : Nat) (s : State) : held (slotUsed k n s) = held s := by simp [slotUsed]

@[simp] theorem onBody_held (c : Nat) (f : BodyRx → BodyRx) (s : State) : held (onBody c f s) = held s := by simp [onBody]

@[simp] theorem applyVerdict_held (c : Nat) (e : ContEntry) (v : UnitVerdict) (s : State) : held (applyVerdict c e v s) = held s := by
  unfold applyVerdict; (repeat' split) <;> simp

@[simp] theorem dropUnit_held (c : Nat) (s : State) : held (dropUnit c s) = held s := by simp [dropUnit]

@[simp] theorem applyContCfg_held (k : Commit) (s : State) : held (applyContCfg k s) = held s := by
  unfold applyContCfg
  extract_lets c e old s1 s2 s3 s4 s5 s6 s7
  have h1 : held s1 = held s := by simp only [s1]; split <;> simp
  have h4 : held s4 = held s := by simp only [s4]; split <;> simp [s3, s2, h1]
  have h7 : held s7 = held s := by simp [s7, s6, s5, h4]
  split
  · exact h4
  · split <;> simp [h7]

@[simp] theorem sinksStroke_held (second : Bool) (x1 : List (Nat × ContEntry)) (x2 : State) : held (sinksStroke second x1 x2) = held x2 := by
  induction x1 generalizing x2 with
  | nil => rfl
  | cons a l ih => simp only [sinksStroke, ih]; simp

@[simp] theorem onGroup_held (g : Nat) (f : GroupSt → GroupSt) (s : State) : held (onGroup g f s) = held s := by simp [onGroup]

@[simp] theorem onMon_held (g : Nat) (prot : Bool) (f : MonSt → MonSt) (s : State) : held (onMon g prot f s) = held s := by simp [onMon]

@[simp] theorem monRefresh_held (g : Nat) (prot : Bool) (s : State) : held (monRefresh g prot s) = held s := by simp [monRefresh]

@[simp] theorem applyPgCmd_held (k : Commit) (s : State) : held (applyPgCmd k s) = held s := by simp [applyPgCmd]

@[simp] theorem setFopPm_held (g : Nat) (on : Bool) (s : State) : held (setFopPm g on s) = held s := by simp [setFopPm]

@[simp] theorem setFopNr_held (g : Nat) (on : Bool) (s : State) : held (setFopNr g on s) = held s := by simp [setFopNr]

@[simp] theorem monStroke_held (second : Bool) (g : Nat) (c : List W32) (prot : Bool) (s : State) : held (monStroke second g c prot s) = held s := by
  simp [monStroke]

@[simp] theorem groupStroke_held (second : Bool) (g : Nat) (c : List W32) (s : State) : held (groupStroke second g c s) = held s := by
  simp [groupStroke]

@[simp] theorem eachGroup_held (f : Nat → List W32 → State → State) (x1 : List (Nat × List W32)) (x2 : State) (hf : ∀ a0 a1 a2, held (f a0 a1 a2) = held a2) : held (eachGroup f x1 x2) = held x2 := by
  induction x1 generalizing x2 <;> simp_all [eachGroup]

@[simp] theorem setGroupDefectsClear_held (g : Nat) (s : State) : held (setGroupDefectsClear g s) = held s := by simp [setGroupDefectsClear]

@[simp] theorem apsOff_held (g : Nat) (s : State) : held (apsOff g s) = held s := by simp [apsOff]

@[simp] theorem applyPgCfg_held (k : Commit) (s : State) : held (applyPgCfg k s) = held s := by simp [applyPgCfg]

@[simp] theorem applyAlnRealign_held (k : Commit) (s : State) : held (applyAlnRealign k s) = held s := by simp [applyAlnRealign]

@[simp] theorem rxClocks_held (x : StrokeIn) (s : State) : held (rxClocks x s) = held s := by simp [rxClocks]

@[simp] theorem measureRefs_held (x : StrokeIn) (s : State) : held (measureRefs x s) = held s := by simp [measureRefs]

@[simp] theorem strkInPhase_held (s : State) : held (strkInPhase s) = held s := by unfold strkInPhase; (repeat' split) <;> simp

@[simp] theorem ageClk_held (conds : List (Nat × Nat)) (s : State) : held (ageClk conds s) = held s := by simp [ageClk]

@[simp] theorem declareLoss_held (s : State) : held (declareLoss s) = held s := by simp [declareLoss]

@[simp] theorem applyStrokeCfg_held (c : Commit) (s : State) : held (applyStrokeCfg c s) = held s := by simp [applyStrokeCfg]

@[simp] theorem applyRefCfg_held (c : Commit) (s : State) : held (applyRefCfg c s) = held s := by simp [applyRefCfg]

@[simp] theorem applyRefForce_held (c : Commit) (s : State) : held (applyRefForce c s) = held s := by simp [applyRefForce]

@[simp] theorem applyClkCfg_held (c : Commit) (s : State) : held (applyClkCfg c s) = held s := by simp [applyClkCfg]

@[simp] theorem ctlPurge_held (p : Nat) (s : State) : held (ctlPurge p s) = held s := by simp [ctlPurge]

@[simp] theorem helloChange_held (s : State) : held (helloChange s) = held s := by simp [helloChange]

@[simp] theorem adjDrop_held (p : Nat) (a : Adj) (s : State) : held (adjDrop p a s) = held s := by simp [adjDrop]

@[simp] theorem adjNone_held (p : Nat) (s : State) : held (adjNone p s) = held s := by simp [adjNone]

@[simp] theorem enterTrain_held (p : Nat) (s : State) : held (enterTrain p s) = held s := by simp [enterTrain]

@[simp] theorem enterDown_held (p : Nat) (s : State) : held (enterDown p s) = held s := by simp [enterDown]

@[simp] theorem eachPort_held (f : Nat → State → State) (x1 : List Nat) (x2 : State) (hf : ∀ a0 a1, held (f a0 a1) = held a1) : held (eachPort f x1 x2) = held x2 := by
  induction x1 generalizing x2 <;> simp_all [eachPort]

@[simp] theorem fabStroke_held (s : State) : held (fabStroke s) = held s := by simp [fabStroke]

@[simp] theorem sdegSecond_held (p : Nat) (s : State) : held (sdegSecond p s) = held s := by simp [sdegSecond]

@[simp] theorem applyFabCfg_held (c : Commit) (s : State) : held (applyFabCfg c s) = held s := by simp [applyFabCfg]

@[simp] theorem applyFabPortCfg_held (c : Commit) (s : State) : held (applyFabPortCfg c s) = held s := by simp [applyFabPortCfg]

@[simp] theorem onTxEng_held (e : Nat) (f : TxSt → TxSt) (s : State) : held (onTxEng e f s) = held s := by simp [onTxEng]

@[simp] theorem txEnable_held (e : Nat) (s : State) : held (txEnable e s) = held s := by simp [txEnable]

@[simp] theorem txDisable_held (e : Nat) (s : State) : held (txDisable e s) = held s := by simp [txDisable]

@[simp] theorem txRateLimit_held (e : Nat) (s : State) : held (txRateLimit e s) = held s := by simp [txRateLimit]

@[simp] theorem restartFrames_held (es : List Nat) (s : State) : held (restartFrames es s) = held s := by simp [restartFrames]

@[simp] theorem applyTxCfg_held (k : Commit) (s : State) : held (applyTxCfg k s) = held s := by simp [applyTxCfg]

@[simp] theorem applyTxPreemph_held (k : Commit) (s : State) : held (applyTxPreemph k s) = held s := by simp [applyTxPreemph]

@[simp] theorem applyLineBondCfg_held (k : Commit) (s : State) : held (applyLineBondCfg k s) = held s := by simp [applyLineBondCfg]

@[simp] theorem calAge_held (e l : Nat) (s : State) : held (calAge e l s) = held s := by simp [calAge]

@[simp] theorem applyTxCalCfg_held (k : Commit) (s : State) : held (applyTxCalCfg k s) = held s := by simp [applyTxCalCfg]

@[simp] theorem txStroke_held (x : StrokeIn) (s : State) : held (txStroke x s) = held s := by simp [txStroke]

@[simp] theorem onHk_held (c : Nat) (f : HkSt → HkSt) (s : State) : held (onHk c f s) = held s := by simp [onHk]

@[simp] theorem onOut_held (n : Nat) (f : OutSt → OutSt) (s : State) : held (onOut n f s) = held s := by simp [onOut]

@[simp] theorem onBl_held (l : Nat) (f : BlSt → BlSt) (s : State) : held (onBl l f s) = held s := by simp [onBl]

@[simp] theorem onI2c_held (m : Nat) (f : I2cSt → I2cSt) (s : State) : held (onI2c m f s) = held s := by simp [onI2c]

@[simp] theorem onFilt_held (c e : Nat) (f : HkFilter → HkFilter) (s : State) : held (onFilt c e f s) = held s := by simp [onFilt]

@[simp] theorem emptyFilts_held (c : Nat) (x1 : List Nat) (x2 : State) : held (emptyFilts c x1 x2) = held x2 := by
  induction x1 generalizing c x2 <;> simp_all [emptyFilts]

@[simp] theorem applyHkCfg_held (p : Commit) (s : State) : held (applyHkCfg p s) = held s := by simp [applyHkCfg]

@[simp] theorem applyHkTrigger_held (p : Commit) (s : State) : held (applyHkTrigger p s) = held s := by simp [applyHkTrigger]

@[simp] theorem setOutCfg2_held (n : Nat) (w : W32) (s : State) : held (setOutCfg2 n w s) = held s := by simp [setOutCfg2]

@[simp] theorem applyOutCfg_held (c : Commit) (s : State) : held (applyOutCfg c s) = held s := by
  unfold applyOutCfg; dsimp only; split <;> simp

@[simp] theorem htrStroke_held (fail : List Nat) (x1 : List Nat) (x2 : State) : held (htrStroke fail x1 x2) = held x2 := by
  induction x1 generalizing fail x2 <;> simp_all [htrStroke]

@[simp] theorem blStop_held (l : Nat) (s : State) : held (blStop l s) = held s := by simp [blStop]

@[simp] theorem applyBlCfg_held (c : Commit) (s : State) : held (applyBlCfg c s) = held s := by
  unfold applyBlCfg; dsimp only; (repeat' split) <;> simp_all

@[simp] theorem blMoves_held (x0 : List Nat) (x1 : State) : held (blMoves x0 x1) = held x1 := by
  induction x0 generalizing x1 <;> simp only [blMoves] <;> (repeat' split) <;> simp_all

@[simp] theorem onRxEng_held (e : Nat) (f : RxSt → RxSt) (s : State) : held (onRxEng e f s) = held s := by simp [onRxEng]

@[simp] theorem optStroke_held (x : StrokeIn) (s : State) : held (optStroke x s) = held s := by simp [optStroke]

@[simp] theorem onOtnE_held (e : Nat) (f : OtnSt → OtnSt) (s : State) : held (onOtnE e f s) = held s := by simp [onOtnE]

@[simp] theorem otnDefect_held (e : Nat) (d : LineDefect) (ev : Ev) (now : Bool) (s : State) : held (otnDefect e d ev now s) = held s := by
  simp [otnDefect]

@[simp] theorem otnOff_held (e : Nat) (s : State) : held (otnOff e s) = held s := by simp [otnOff]

@[simp] theorem rxLosf_held (e : Nat) (now : Bool) (s : State) : held (rxLosf e now s) = held s := by simp [rxLosf]

@[simp] theorem rxLos_held (e : Nat) (now : Bool) (s : State) : held (rxLos e now s) = held s := by simp [rxLos]

@[simp] theorem clearDescMm_held (e : Nat) (s : State) : held (clearDescMm e s) = held s := by simp [clearDescMm]

@[simp] theorem cdLimitClear_held (e : Nat) (s : State) : held (cdLimitClear e s) = held s := by simp [cdLimitClear]

@[simp] theorem rxEnter_held (st : RxState) (e : Nat) (s : State) : held (rxEnter st e s) = held s := by simp [rxEnter]

@[simp] theorem rxScan_held (e : Nat) (s : State) : held (rxScan e s) = held s := by simp [rxScan]

@[simp] theorem huntExpire_held (left e : Nat) (s : State) : held (huntExpire left e s) = held s := by simp [huntExpire]

@[simp] theorem rxHunt_held (e : Nat) (s : State) : held (rxHunt e s) = held s := by simp [rxHunt]

@[simp] theorem rxLeaveNosig_held (e : Nat) (s : State) : held (rxLeaveNosig e s) = held s := by simp [rxLeaveNosig]

@[simp] theorem rxStart_held (e : Nat) (s : State) : held (rxStart e s) = held s := by simp [rxStart]

@[simp] theorem rxOff_held (e : Nat) (s : State) : held (rxOff e s) = held s := by simp [rxOff]

@[simp] theorem rxMeasure_held (cal : List (Nat × Nat × Int × Nat × Int)) (e : Nat) (s : State) : held (rxMeasure cal e s) = held s := by
  simp [rxMeasure]

@[simp] theorem rxCalAge_held (e i : Nat) (s : State) : held (rxCalAge e i s) = held s := by simp [rxCalAge]

@[simp] theorem jointStep_held (s : State) : held (jointStep s) = held s := by simp [jointStep]

@[simp] theorem rxQualitySet_held (e : Nat) (m : Option (List Int)) (s : State) : held (rxQualitySet e m s) = held s := by simp [rxQualitySet]

@[simp] theorem rxEngStroke_held (x : StrokeIn) (e : Nat) (s : State) : held (rxEngStroke x e s) = held s := by simp [rxEngStroke]

@[simp] theorem rxStroke_held (x : StrokeIn) (s : State) : held (rxStroke x s) = held s := by simp [rxStroke]

@[simp] theorem rxRateLimit_held (e : Nat) (s : State) : held (rxRateLimit e s) = held s := by simp [rxRateLimit]

@[simp] theorem rxRestart_held (e : Nat) (s : State) : held (rxRestart e s) = held s := by simp [rxRestart]

@[simp] theorem applyRxCfg_held (k : Commit) (s : State) : held (applyRxCfg k s) = held s := by simp [applyRxCfg]

@[simp] theorem applyRxReacquire_held (k : Commit) (s : State) : held (applyRxReacquire k s) = held s := by simp [applyRxReacquire]

@[simp] theorem onOtnId_held (id : OtnId) (f : OtnSt → OtnSt) (s : State) : held (onOtnId id f s) = held s := by
  unfold onOtnId; (repeat' split) <;> simp

@[simp] theorem idDefect_held (id : OtnId) (d : LineDefect) (now : Bool) (s : State) : held (idDefect id d now s) = held s := by simp [idDefect]

@[simp] theorem realign_held (e : Nat) (s : State) : held (realign e s) = held s := by unfold realign; dsimp only; (repeat' split) <;> simp_all

@[simp] theorem framesStroke_held (id : OtnId) (s : State) : held (framesStroke id s) = held s := by simp [framesStroke]

@[simp] theorem fecStroke_held (e : Nat) (s : State) : held (fecStroke e s) = held s := by
  unfold fecStroke; dsimp only; (repeat' split) <;> simp_all

@[simp] theorem degSecond_held (id : OtnId) (pm : Bool) (s : State) : held (degSecond id pm s) = held s := by simp [degSecond]

@[simp] theorem eachOtn_held (f : OtnId → State → State) (x1 : List OtnId) (x2 : State) (hf : ∀ a0 a1, held (f a0 a1) = held a1) : held (eachOtn f x1 x2) = held x2 := by
  induction x1 generalizing x2 <;> simp_all [eachOtn]

@[simp] theorem otnStroke_held (second : Bool) (s : State) : held (otnStroke second s) = held s := by simp [otnStroke]

@[simp] theorem otnSecondDone_held (s : State) : held (otnSecondDone s) = held s := by simp [otnSecondDone]

@[simp] theorem applyLineOhCfg_held (k : Commit) (s : State) : held (applyLineOhCfg k s) = held s := by simp [applyLineOhCfg]

@[simp] theorem applyLineTtiWrite_held (k : Commit) (s : State) : held (applyLineTtiWrite k s) = held s := by simp [applyLineTtiWrite]

@[simp] theorem applyLineRealign_held (k : Commit) (s : State) : held (applyLineRealign k s) = held s := by simp [applyLineRealign]

@[simp] theorem clearLoss_held (k : Nat) (s : State) : held (clearLoss k s) = held s := by simp [clearLoss]

@[simp] theorem unbindDefects_held (k : Nat) (s : State) : held (unbindDefects k s) = held s := by simp [unbindDefects]

@[simp] theorem applySecCfg_held (c : Commit) (s : State) : held (applySecCfg c s) = held s := by simp [applySecCfg]

@[simp] theorem putSlot_held (k n : Nat) (key : Option (BitVec 256)) (s : State) : held (putSlot k n key s) = held s := by simp [putSlot]

@[simp] theorem keyLoadAct_held (rq : Req) (s : State) (k : List Commit) (hk : held s = k) : ExHolds (keyLoadAct rq s) k := by
  subst hk
  unfold keyLoadAct
  dsimp only
  split
  · simp
  · split <;> simp

@[simp] theorem keyClearAct_held (rq : Req) (s : State) (k : List Commit) (hk : held s = k) : ExHolds (keyClearAct rq s) k := by
  subst hk; unfold keyClearAct; dsimp only; (repeat' split) <;> simp_all

@[simp] theorem keyRelease_held (s : State) : held (keyRelease s) = held s := by simp [keyRelease]

@[simp] theorem applyKeySwitch_held (c : Commit) (s : State) : held (applyKeySwitch c s) = held s := by simp [applyKeySwitch]

@[simp] theorem applySecClearLoss_held (c : Commit) (s : State) : held (applySecClearLoss c s) = held s := by simp [applySecClearLoss]

@[simp] theorem keyStroke_held (n : Nat) (s : State) : held (keyStroke n s) = held s := by simp [keyStroke]

@[simp] theorem thermStroke_held (tj : Int) (s : State) : held (thermStroke tj s) = held s := by simp [thermStroke]

@[simp] theorem depthChange_held (s : State) : held (depthChange s) = held s := by simp [depthChange]

@[simp] theorem modeEntered_held (was : Mode) (s : State) : held (modeEntered was s) = held s := by simp [modeEntered]

@[simp] theorem enterMode_held (m : Mode) (s : State) : held (enterMode m s) = held s := by simp [enterMode]

@[simp] theorem applyModeSet_held (c : Commit) (s : State) : held (applyModeSet c s) = held s := by simp [applyModeSet]

@[simp] theorem applyModeCfg_held (c : Commit) (s : State) : held (applyModeCfg c s) = held s := by simp [applyModeCfg]

@[simp] theorem authLoadAct_held (rq : Req) (s : State) (k : List Commit) (hk : held s = k) : ExHolds (authLoadAct rq s) k := by
  subst hk
  unfold authLoadAct
  dsimp only
  split
  · exact (holds_error _ _).mpr trivial
  · split
    · exact (holds_ok _ _).mpr rfl
    · split
      · exact (holds_error _ _).mpr trivial
      · exact (holds_ok _ _).mpr rfl

@[simp] theorem setTk_held (t : Nat) (k : Option (BitVec 256)) (s : State) : held (setTk t k s) = held s := by simp [setTk]

@[simp] theorem tkLoadAct_held (rq : Req) (s : State) (k : List Commit) (hk : held s = k) : ExHolds (tkLoadAct rq s) k := by
  subst hk
  unfold tkLoadAct
  dsimp only
  split
  · exact (holds_ok _ _).mpr (setTk_held _ _ _)
  · split
    · exact (holds_error _ _).mpr trivial
    · exact (holds_ok _ _).mpr (setTk_held _ _ _)

@[simp] theorem keyAct_held (d : Deferred) (s : State) (k : List Commit) (hk : held s = k) : ExHolds (keyAct d s) k := by
  subst hk; unfold keyAct; (repeat' split) <;> simp

@[simp] theorem keySequenceEnd_held (stuck : Bool) (s : State) : held (keySequenceEnd stuck s) = held s := by
  unfold keySequenceEnd
  dsimp only
  split
  · rfl
  · split
    · rename_i d _
      split
      · simp
      · have h := keyAct_held d (keyRelease s) _ rfl
        revert h
        cases keyAct d (keyRelease s) <;> simp
    · (repeat' split) <;> simp

@[simp] theorem commitClPort_held (c : Commit) (s : State) : held (commitClPort c s) = held s := by simp [commitClPort]

@[simp] theorem applyWinCfg_held (c : Commit) (s : State) : held (applyWinCfg c s) = held s := by simp [applyWinCfg]

theorem commitOps_held : ∀ x ∈ commitOps, ∀ c s, held (x.2 c s) = held s := by
  simp [commitOps]

@[simp] theorem applyOp_held (c : Commit) (s : State) : held (applyOp c s) = held s := by
  unfold applyOp
  split
  · rename_i x hx
    exact commitOps_held x (List.mem_of_find?_eq_some hx) c s
  · rfl

@[simp] theorem applyAll_held (x0 : List Commit) (x1 : State) : held (applyAll x0 x1) = held x1 := by
  induction x0 generalizing x1 <;> simp_all [applyAll]

@[simp] theorem restoreMap_held (p : Profile) (s : State) : held (restoreMap p s) = held s := by simp [restoreMap]

@[simp] theorem restoreGroom_held (p : Profile) (s : State) : held (restoreGroom p s) = held s := by simp [restoreGroom]

@[simp] theorem restoreDirect_held (p : Profile) (s : State) : held (restoreDirect p s) = held s := by simp [restoreDirect]

@[simp] theorem restoreProfile_held (p : Profile) (s : State) : held (restoreProfile p s) = held s := by simp [restoreProfile]

@[simp] theorem applyProfileRestore_held (s : State) : held (applyProfileRestore s) = held s := by
  unfold applyProfileRestore; (repeat' split) <;> simp

@[simp] theorem applyCommit_held (c : Commit) (s : State) : held (applyCommit c s) = held s := by simp [applyCommit]

@[simp] theorem hbmStroke_held (stuck : List Nat) (limit : List (Nat × Nat)) (s : State) : held (hbmStroke stuck limit s) = held s := by simp [hbmStroke]

@[simp] theorem windowsEnd_held (s : State) : held (windowsEnd s) = held s := by simp [windowsEnd]

@[simp] theorem eachNum_held (f : Nat → State → State) (x1 : List Nat) (x2 : State) (hf : ∀ a0 a1, held (f a0 a1) = held a1) : held (eachNum f x1 x2) = held x2 := by
  induction x1 generalizing x2 <;> simp_all [eachNum]

@[simp] theorem clkStroke_held (x : StrokeIn) (s : State) : held (clkStroke x s) = held s := by simp [clkStroke]

@[simp] theorem rootStroke_held (s : State) : held (rootStroke s) = held s := by simp [rootStroke]

@[simp] theorem strokeEnd_held (x : StrokeIn) (second : Bool) (s : State) : held (strokeEnd x second s) = held s := by simp [strokeEnd]

@[simp] theorem secondEnd_held (s : State) : held (secondEnd s) = held s := by simp [secondEnd]

@[simp] theorem strokeEnds_held (x : StrokeIn) (s : State) : held (strokeEnds x s) = held s := by
  unfold strokeEnds; dsimp only; split <;> simp

/-- The fall-back adds one entry at most. -/
theorem fallBack_held (s : State) : held (fallBack s) = held s ∨ held (fallBack s) = held s ++ [{ stroke := some (s.stk.scnt + 2#48), opcode := opModeSet.code, params := [4#32] }] := by
  unfold fallBack
  split
  · exact .inl (by simp)
  · exact .inr (by simp)

theorem modeSecond_held (s : State) : held (modeSecond s) = held s
    ∨ held (modeSecond s) = held s ++ [{ stroke := some (s.stk.scnt + 2#48), opcode := opModeSet.code, params := [4#32] }] := by
  unfold modeSecond
  extract_lets t
  split
  · exact .inl rfl
  · split
    · exact fallBack_held t
    · exact .inl rfl

@[simp] theorem stepEffects_held (n : W48) (d : Int) (al : Bool) (s : State) : held (stepEffects n d al s) = (held s).filter fun c => !overtaken n c := by
  simp [stepEffects]

end Sys2Proof.Machine
end

