-- ==== Sys2Proof/Laws/Samples.lean ====
section
/-! SUPPORT. A row that `mayClip` passes over has no limited sample: `rowClips` says exactly whether a code of the row is limited. -/

set_option Elab.async false

namespace Sys2Proof.Machine

/-! ### Bounds in fixed point -/

theorem fxOne_pos : 0 < fxOne := by decide

theorem fxMul_mono {a b c : Int} (hc : 0 ≤ c) (h : a ≤ b) : fxMul a c ≤ fxMul b c :=
  Int.ediv_le_ediv fxOne_pos (mul_le_mul_of_nonneg_right h hc)

theorem fxMul_abs (a b : Int) : |fxMul a b| ≤ fxMul |a| |b| + 1 := by
  unfold fxMul
  rw [← abs_mul]
  have hp := fxOne_pos
  generalize fxOne = m at hp ⊢
  rcases abs_cases (a * b) with ⟨h, h0⟩ | ⟨h, h0⟩ <;> rw [h]
  · rw [abs_of_nonneg (Int.ediv_nonneg h0 hp.le)]; omega
  · have h1 : a * b / m ≤ 0 := Int.ediv_le_of_le_mul hp (by omega)
    rw [abs_of_nonpos h1]
    have e1 := Int.mul_ediv_add_emod (a * b) m
    have e2 := Int.mul_ediv_add_emod (-(a * b)) m
    have l1 := Int.emod_nonneg (a * b) hp.ne'
    have l2 := Int.emod_lt_of_pos (-(a * b)) hp
    have l3 := Int.emod_lt_of_pos (a * b) hp
    have l4 := Int.emod_nonneg (-(a * b)) hp.ne'
    nlinarith

theorem fxMul_bound {a b t : Int} (h : |a| ≤ t) : |fxMul a b| ≤ fxMul t |b| + 1 :=
  (fxMul_abs a b).trans (by have := fxMul_mono (abs_nonneg b) h; omega)

theorem foldl_add_int (l : List Int) (a : Int) : l.foldl (· + ·) a = a + l.foldl (· + ·) 0 := by
  induction l generalizing a with
  | nil => simp
  | cons b l ih => simp only [List.foldl_cons]; rw [ih, ih (0 + b)]; ring

theorem le_foldl_max (l : List Int) (a : Int) : a ≤ l.foldl max a := by
  induction l generalizing a with
  | nil => simp
  | cons b l ih => exact (le_max_left a b).trans (ih _)

theorem mem_le_foldl_max {l : List Int} {x : Int} (h : x ∈ l) (a : Int) : x ≤ l.foldl max a := by
  induction l generalizing a with
  | nil => simp at h
  | cons b l ih =>
    rcases List.mem_cons.mp h with rfl | h
    · exact (le_max_right a _).trans (le_foldl_max l _)
    · exact ih h _

/-! ### A code -/

/-- The sum of a pulse over symbols up to `peak`. -/
theorem pulse_bound {peak : Int} (pulse syms : List Int) (h : ∀ y ∈ syms, |y| ≤ peak) (hp : 0 ≤ peak) :
    |(List.zipWith fxMul syms pulse).foldl (· + ·) 0| ≤ (pulse.map fun v => fxMul peak v.natAbs + 1).foldl (· + ·) 0 := by
  induction syms generalizing pulse with
  | nil =>
    simp only [List.zipWith_nil_left, List.foldl_nil, abs_zero]
    induction pulse with
    | nil => simp
    | cons v p ih =>
      simp only [List.map_cons, List.foldl_cons]; rw [foldl_add_int]
      have : 0 ≤ fxMul peak v.natAbs := Int.ediv_nonneg (by positivity) fxOne_pos.le
      omega
  | cons y l ih =>
    cases pulse with
    | nil => simp
    | cons v p =>
      simp only [List.zipWith_cons_cons, List.map_cons, List.foldl_cons]
      rw [foldl_add_int, foldl_add_int _ (0 + _)]
      have h1 := ih p (fun z hz => h z (List.mem_cons_of_mem _ hz))
      have h2 := fxMul_bound (b := v) (h y (List.mem_cons_self ..))
      rw [← Int.natCast_natAbs v] at h2
      refine (abs_add_le _ _).trans ?_
      simp only [zero_add]
      omega

theorem fracShowInt_abs (a : Int) (b : Nat) : |fracShowInt a b| ≤ a.natAbs / b + 1 := by
  have : (fracShow (a.natAbs, b) : Int) ≤ a.natAbs / b + 1 := by
    have e : ((a.natAbs / b : Nat) : Int) = (a.natAbs : Int) / b := by simp
    rw [← e]
    simp only [fracShow, flag]
    split
    · omega
    · split <;> omega
  unfold fracShowInt
  split <;> simp only [abs_neg, Nat.abs_cast] <;> exact this

theorem dacCode_bound {peak scale : Int} (corr : Int × Int × Int) (pulse syms : List Int) (h : ∀ y ∈ syms, |y| ≤ peak) (hp : 0 ≤ peak)
    {top : Int} (ht : (pulse.map fun v => fxMul peak v.natAbs + 1).foldl (· + ·) 0 ≤ top)
    (hl : fxMul (fxMul top scale.natAbs + 1) corr.2.1.natAbs + 1 + corr.2.2.natAbs ≤ 126 * fxOne) :
    dacLimit (dacCode scale corr pulse syms) = dacCode scale corr pulse syms := by
  have h1 := (pulse_bound pulse syms h hp).trans ht
  show dacLimit (fracShowInt (fxMul (fxMul ((List.zipWith fxMul syms pulse).foldl (· + ·) 0) scale) corr.2.1 + corr.2.2) (2 ^ 80)) =
    fracShowInt (fxMul (fxMul ((List.zipWith fxMul syms pulse).foldl (· + ·) 0) scale) corr.2.1 + corr.2.2) (2 ^ 80)
  generalize hv : (List.zipWith fxMul syms pulse).foldl (· + ·) 0 = v at h1
  have h2 := fxMul_bound (b := scale) h1
  have h3 := fxMul_bound (b := corr.2.1) h2
  simp only [← Int.natCast_natAbs] at h3
  simp only [Int.natCast_natAbs] at h3 hl
  have h4 : |fxMul (fxMul v scale) corr.2.1 + corr.2.2| ≤ 126 * fxOne := (abs_add_le _ _).trans (by omega)
  generalize fxMul (fxMul v scale) corr.2.1 + corr.2.2 = x at h4
  have h5 := fracShowInt_abs x (2 ^ 80)
  have h6 : ((x.natAbs : Int)) / ((2 ^ 80 : Nat) : Int) ≤ 126 := by
    rw [Int.natCast_natAbs]
    refine Int.ediv_le_of_le_mul (by norm_num) ?_
    simpa [fxOne] using h4
  have h7 : |fracShowInt x (2 ^ 80)| ≤ 127 := by omega
  rw [abs_le] at h7
  unfold dacLimit clamp
  omega

/-! ### The symbols of a row -/

theorem getD_zero_abs (v : List Int) (i : Nat) (a : Int) : |v.getD i 0| ≤ v.foldl (fun (m : Int) x => max m x.natAbs) (max a 0) := by
  have key : ∀ (v : List Int) (a : Int), 0 ≤ a → a ≤ v.foldl (fun (m : Int) x => max m x.natAbs) a := by
    intro v; induction v with
    | nil => simp
    | cons b l ih => intro a ha; exact (le_max_left a _).trans (ih _ (ha.trans (le_max_left ..)))
  induction v generalizing i a with
  | nil => simp
  | cons b l ih =>
    cases i with
    | zero =>
      simp only [List.getD_cons_zero, List.foldl_cons]
      refine le_trans ?_ (key l _ ((le_max_right a 0).trans (le_max_left ..)))
      rw [← Int.natCast_natAbs]; exact le_max_right ..
    | succ i =>
      simp only [List.getD_cons_succ, List.foldl_cons]
      have := ih i (max (max a 0) b.natAbs)
      rwa [max_eq_left (((le_max_right a 0).trans (le_max_left ..)))] at this

theorem fxSqrt_nonneg (v : Int) : 0 ≤ fxSqrt v := by unfold fxSqrt; exact Int.natCast_nonneg _

/-- A symbol is no larger on a lane than its peak. -/
theorem symValue_bound (energy : Int) (lane : Nat) (y : LineSym) : |symValue energy lane y| ≤ symPeak energy y := by
  have h := getD_zero_abs y.v lane 0
  rw [max_self] at h
  have hs := fxSqrt_nonneg energy
  have ho := fxOne_pos
  unfold symValue symPeak
  split <;> rw [abs_mul]
  · rw [abs_of_nonneg hs]; exact mul_le_mul_of_nonneg_right h hs
  · rw [abs_of_pos ho]; exact mul_le_mul_of_nonneg_right h ho.le

theorem foldl_natAbs_le {v : List Int} {m a : Int} (ha : a ≤ m) (h : ∀ x ∈ v, (x.natAbs : Int) ≤ m) : v.foldl (fun (m : Int) x => max m x.natAbs) a ≤ m := by
  induction v generalizing a with
  | nil => simpa
  | cons b l ih => exact ih (max_le ha (h b (List.mem_cons_self ..))) fun x hx => h x (List.mem_cons_of_mem _ hx)

theorem symPeak_default (energy : Int) : symPeak energy {} = 0 := by simp [symPeak]

theorem symPeak_ref (energy : Int) (x y : Qpsk) : symPeak energy (refSymbol x y) ≤ fxSqrt energy := by
  have : (refSymbol x y).v.foldl (fun (m : Int) v => max m v.natAbs) 0 ≤ 1 := by
    refine foldl_natAbs_le (by norm_num) fun z hz => ?_
    simp only [refSymbol, List.mem_map] at hz
    obtain ⟨b, -, rfl⟩ := hz
    cases b <;> simp
  have := mul_le_mul_of_nonneg_right this (fxSqrt_nonneg energy)
  simpa [symPeak, refSymbol] using this

/-- The largest amplitude of a format. -/
def topAmp (format : Nat) : Int := if format = 0 then 1 else if format = 1 then 3 else 7

theorem amplitude_le (format : Nat) (l : List Bool) : (amplitude format l : Int) ≤ topAmp format := by
  unfold amplitude topAmp
  split
  · simp
  · split
    · split <;> simp
    · split <;> split <;> simp

theorem symPeak_data (energy : Int) (format : Nat) (labels signs : List Bool) : symPeak energy (dataSymbol format labels signs) ≤ topAmp format * fxOne := by
  have : (dataSymbol format labels signs).v.foldl (fun (m : Int) v => max m v.natAbs) 0 ≤ topAmp format := by
    refine foldl_natAbs_le (by unfold topAmp; split <;> [skip; split] <;> norm_num) fun z hz => ?_
    simp only [dataSymbol, List.mem_iff_getElem] at hz
    obtain ⟨i, hi, rfl⟩ := hz
    simp only [List.getElem_zipWith]
    have := amplitude_le format ((pieces ((symbolBits format - 4) / 4) 4 labels)[i]'(by simp at hi; omega))
    split <;> simpa using this
  have := mul_le_mul_of_nonneg_right this fxOne_pos.le
  simpa [symPeak, dataSymbol] using this

/-- What holds of header, pilots, the data given and an empty symbol holds of every symbol composed. -/
theorem composeSyms_forall (s : State) (e n pos : Nat) (count inc : W16) (data : List LineSym) (P : LineSym → Prop)
    (h0 : P {}) (hr : ∀ x y, P (refSymbol x y)) (hd : ∀ y ∈ data, P y) : ∀ y ∈ (composeSyms s e n pos count inc data).out, P y := by
  have key : ∀ (l : List Nat) (t : Composed), (∀ y ∈ t.out, P y) → (∀ y ∈ t.data, P y) →
      ∀ y ∈ (l.foldl (fun t _ => composeStep (bondedNow s) e (descriptor s e) inc t) t).out, P y := by
    intro l
    induction l with
    | nil => intro t ho _; simpa using ho
    | cons a l ih =>
      intro t ho hd
      refine ih _ ?_ ?_
      · have hh : P (t.data.headD {}) := by
          cases hdat : t.data with
          | nil => simpa using h0
          | cons z w => exact hd z (by simp [hdat])
        unfold composeStep
        dsimp only
        split
        · intro y hy; rcases List.mem_cons.mp hy with rfl | hy
          · exact hr _ _
          · exact ho y hy
        · split
          · intro y hy; rcases List.mem_cons.mp hy with rfl | hy
            · exact hr _ _
            · exact ho y hy
          · intro y hy; rcases List.mem_cons.mp hy with rfl | hy
            · exact hh
            · exact ho y hy
      · unfold composeStep
        dsimp only
        split
        · exact hd
        · split
          · exact hd
          · exact fun y hy => hd y (List.mem_of_mem_drop hy)
  exact key _ _ (by simp) hd

theorem foldl_peak_mem (energy : Int) (l : List LineSym) (a : Int) : a ≤ l.foldl (fun m y => max m (symPeak energy y)) a ∧
    ∀ y ∈ l, symPeak energy y ≤ l.foldl (fun m y => max m (symPeak energy y)) a := by
  induction l generalizing a with
  | nil => simp
  | cons b l ih =>
    have h := ih (max a (symPeak energy b))
    refine ⟨(le_max_left ..).trans h.1, fun y hy => ?_⟩
    rcases List.mem_cons.mp hy with rfl | hy
    · exact (le_max_right ..).trans h.1
    · exact h.2 y hy

/-- Every value that a code of the row is made of is bounded by `rowPeak`. -/
theorem rowValues_bound (s : State) (e lane : Nat) : ∀ v ∈ rowValues s e lane, |v| ≤ rowPeak s e := by
  intro v hv
  simp only [rowValues, List.mem_map] at hv
  obtain ⟨y, hy, rfl⟩ := hv
  refine (symValue_bound _ _ _).trans ?_
  have hk := foldl_peak_mem (rowEnergy s e) ((txEng s e).past ++ (txEng s e).sent)
    (max (fxSqrt (rowEnergy s e)) (topAmp (lcFormat (txRule s e)) * fxOne))
  have he : rowPeak s e = ((txEng s e).past ++ (txEng s e).sent).foldl (fun m y => max m (symPeak (rowEnergy s e) y))
      (max (fxSqrt (rowEnergy s e)) (topAmp (lcFormat (txRule s e)) * fxOne)) := rfl
  rw [← he] at hk
  have hsq := (le_max_left ..).trans hk.1
  have hamp := (le_max_right ..).trans hk.1
  have h0 : symPeak (rowEnergy s e) {} ≤ rowPeak s e := by
    rw [symPeak_default]; exact (fxSqrt_nonneg _).trans hsq
  simp only [List.mem_append, List.mem_replicate] at hy
  rcases hy with (⟨-, rfl⟩ | hy) | hy
  · exact h0
  · exact hk.2 y (List.mem_append_left _ hy)
  · unfold rowSyms at hy
    dsimp only at hy
    split at hy
    · exact hk.2 y (List.mem_append_right _ hy)
    · simp only [calSyms, List.mem_reverse] at hy
      refine composeSyms_forall s e _ _ _ _ _ (fun y => symPeak _ y ≤ rowPeak s e) h0 (fun x y => (symPeak_ref _ x y).trans hsq) ?_ y hy
      intro z hz
      obtain ⟨b, -, rfl⟩ := List.mem_map.mp hz
      exact (symPeak_data _ _ _ _).trans hamp

/-! ### A row -/

theorem pulseFrom_mem (sh : LaneShape) (delay : Int) (f : Nat) :
    pulseFrom (laneTables sh) delay f = [] ∨ (pulseFrom (laneTables sh) delay f ∈ pulseTable sh.resp delay ∧ sh.corr ≠ []) := by
  unfold pulseFrom
  cases h : (laneTables sh).find? fun y => y.1 = delay with
  | none => simp
  | some y =>
    have hd := List.find?_some h
    have hm := List.mem_of_find?_eq_some h
    simp only [laneTables, List.mem_map] at hm
    obtain ⟨d, hdm, rfl⟩ := hm
    simp only [decide_eq_true_eq] at hd
    subst hd
    simp only [Option.map_some, Option.getD_some]
    by_cases hf : f < (pulseTable sh.resp d).length
    · right
      rw [List.getD_eq_getElem _ _ hf]
      refine ⟨List.getElem_mem hf, fun h0 => ?_⟩
      simp [h0] at hdm
    · left; rw [List.getD_eq_default _ _ (by omega)]

/-- A lane whose crest stays below the limit has no code beyond it. -/
theorem dacStep_safe (sh : LaneShape) (first m : Nat) (peak : Int) (hp : 0 ≤ peak) (hc : laneCrest peak sh ≤ 126 * fxOne)
    (t : List Int × List Int × Nat) (ho : ∀ v ∈ t.1, dacLimit v = v) (hs : ∀ v ∈ t.2.1, |v| ≤ peak) :
    (∀ v ∈ (dacStep sh (laneTables sh) first t m).1, dacLimit v = v) ∧ ∀ v ∈ (dacStep sh (laneTables sh) first t m).2.1, |v| ≤ peak := by
  have hrest : ∀ k, ∀ v ∈ t.2.1.drop k, |v| ≤ peak := fun k v hv => hs v (List.mem_of_mem_drop hv)
  refine ⟨fun v hv => ?_, fun v hv => hrest _ v hv⟩
  rcases List.mem_cons.mp hv with rfl | hv
  · have hw : ∀ y ∈ (t.2.1.drop ((4 * m - 5 * first) / 5 - t.2.2)).take (2 * pulseReach + 1), |y| ≤ peak := fun y hy => hrest _ y (List.mem_of_mem_take hy)
    generalize hcorr : sh.corr.getD (m % sh.corr.length) (0, 0, 0) = corr
    by_cases hne : sh.corr = []
    · have hcz : corr = (0, 0, 0) := by rw [← hcorr, hne]; simp
      subst hcz
      rcases pulseFrom_mem sh 0 ((4 * m - 5 * first) % 5) with hnil | ⟨-, hx⟩
      · rw [hnil]
        exact dacCode_bound _ _ _ hw hp (top := 0) (by simp) (by simp [fxMul, fxOne])
      · exact absurd hne hx
    · have hmem : corr ∈ sh.corr := by
        have hl : m % sh.corr.length < sh.corr.length := Nat.mod_lt _ (List.length_pos_iff.mpr hne)
        rw [← hcorr, List.getD_eq_getElem _ _ hl]; exact List.getElem_mem hl
      have hle := mem_le_foldl_max (List.mem_map_of_mem (f := fun c : Int × Int × Int =>
        fxMul (fxMul (((pulseTable sh.resp c.1).map fun p => (p.map fun v => fxMul peak v.natAbs + 1).foldl (· + ·) 0).foldl max 0) sh.scale.natAbs + 1) c.2.1.natAbs + 1 + c.2.2.natAbs)
        (List.mem_eraseDups.mpr hmem)) 0
      refine dacCode_bound corr _ _ hw hp ?_ (hle.trans hc)
      rcases pulseFrom_mem sh corr.1 ((4 * m - 5 * first) % 5) with hnil | ⟨hin, -⟩
      · rw [hnil]; simpa using le_foldl_max _ 0
      · exact mem_le_foldl_max (List.mem_map_of_mem (f := fun p : List Int => (p.map fun v => fxMul peak v.natAbs + 1).foldl (· + ·) 0) hin) 0
  · exact ho v hv

theorem rowPeak_nonneg (s : State) (e : Nat) : 0 ≤ rowPeak s e :=
  ((fxSqrt_nonneg _).trans (le_max_left ..)).trans (foldl_peak_mem _ _ _).1

/-- Where no lane can reach the limit, no code of the row is limited. -/
theorem dacRow_safe (s : State) (e lane : Nat) (hc : laneCrest (rowPeak s e) (laneShape s e lane) ≤ 126 * fxOne) : ∀ v ∈ dacRow s e lane, dacLimit v = v := by
  have key : ∀ (l : List Nat) (a : Nat) (t : List Int × List Int × Nat), (∀ v ∈ t.1, dacLimit v = v) → (∀ v ∈ t.2.1, |v| ≤ rowPeak s e) →
      ∀ v ∈ (l.foldl (fun t i => dacStep (laneShape s e lane) (laneTables (laneShape s e lane)) (txEng s e).first t (a + i)) t).1, dacLimit v = v := by
    intro l a
    induction l with
    | nil => intro t ho _; simpa using ho
    | cons i l ih =>
      intro t ho hs
      have h := dacStep_safe (laneShape s e lane) (txEng s e).first (a + i) (rowPeak s e) (rowPeak_nonneg s e) hc t ho hs
      exact ih _ h.1 h.2
  unfold dacRow
  dsimp only
  split
  · simp
  · intro v hv
    exact key _ _ _ (by simp) (rowValues_bound s e lane) v (List.mem_reverse.mp hv)

/-- TX_CLIP counts a row exactly where a sample of it is limited (R221). -/
theorem rowClips_eq (s : State) (e : Nat) :
    rowClips s e = (List.range 4).any fun l => (dacRow s e l).any fun v => decide (dacLimit v ≠ v) := by
  by_cases hm : mayClip s e = true
  · by_cases hl : rowLen (txEng s e) = 0
    · simp [rowClips, hl, dacRow]
    · simp [rowClips, hl, hm]
  · have hs : ∀ l ∈ List.range 4, laneCrest (rowPeak s e) (laneShape s e l) ≤ 126 * fxOne := by
      intro l hl
      by_contra h
      exact hm (List.any_eq_true.mpr ⟨laneShape s e l, List.mem_eraseDups.mpr (List.mem_map_of_mem hl), by simpa using h⟩)
    have : ((List.range 4).any fun l => (dacRow s e l).any fun v => decide (dacLimit v ≠ v)) = false := by
      rw [List.any_eq_false]
      intro l hl
      simp only [Bool.not_eq_true, List.any_eq_false, decide_eq_true_eq, not_not]
      exact fun v hv => dacRow_safe s e l (hs l hl) v hv
    rw [this]
    simp [rowClips, Bool.eq_false_iff.mpr hm]

end Sys2Proof.Machine
end

