-- ==== Sys2Proof/Laws/State.lean ====
section
/-! SUPPORT. What each named update writes and what it leaves, one lemma per update, true by rfl. -/

set_option Elab.async false

namespace Sys2Proof.Machine

@[simp] theorem State.onPending_self (s : State) (f : List Instr → List Instr) : (s.onPending f).pending = f s.pending := rfl
@[simp] theorem State.onPending_rest (s : State) (f : List Instr → List Instr) :
    (s.onPending f).commits = s.commits ∧ (s.onPending f).free = s.free ∧ (s.onPending f).otn = s.otn ∧ (s.onPending f).fused = s.fused ∧ (s.onPending f).pins = s.pins ∧ (s.onPending f).stk = s.stk ∧ (s.onPending f).clk = s.clk ∧ (s.onPending f).root = s.root ∧ (s.onPending f).cmd = s.cmd ∧ (s.onPending f).ev = s.ev ∧ (s.onPending f).anvil = s.anvil ∧ (s.onPending f).rows = s.rows ∧ (s.onPending f).cont = s.cont ∧ (s.onPending f).diag = s.diag ∧ (s.onPending f).prot = s.prot ∧ (s.onPending f).fab = s.fab ∧ (s.onPending f).tx = s.tx ∧ (s.onPending f).rx = s.rx ∧ (s.onPending f).cli = s.cli ∧ (s.onPending f).grm = s.grm ∧ (s.onPending f).sec = s.sec ∧ (s.onPending f).opt = s.opt ∧ (s.onPending f).mode = s.mode ∧ (s.onPending f).boot = s.boot ∧ (s.onPending f).keys = s.keys ∧ (s.onPending f).store = s.store ∧ (s.onPending f).pm = s.pm ∧ (s.onPending f).integ = s.integ :=
  ⟨rfl, rfl, rfl, rfl, rfl, rfl, rfl, rfl, rfl, rfl, rfl, rfl, rfl, rfl, rfl, rfl, rfl, rfl, rfl, rfl, rfl, rfl, rfl, rfl, rfl, rfl, rfl, rfl⟩
@[simp] theorem State.onCommits_self (s : State) (f : List Commit → List Commit) : (s.onCommits f).commits = f s.commits := rfl
@[simp] theorem State.onCommits_rest (s : State) (f : List Commit → List Commit) :
    (s.onCommits f).pending = s.pending ∧ (s.onCommits f).free = s.free ∧ (s.onCommits f).otn = s.otn ∧ (s.onCommits f).fused = s.fused ∧ (s.onCommits f).pins = s.pins ∧ (s.onCommits f).stk = s.stk ∧ (s.onCommits f).clk = s.clk ∧ (s.onCommits f).root = s.root ∧ (s.onCommits f).cmd = s.cmd ∧ (s.onCommits f).ev = s.ev ∧ (s.onCommits f).anvil = s.anvil ∧ (s.onCommits f).rows = s.rows ∧ (s.onCommits f).cont = s.cont ∧ (s.onCommits f).diag = s.diag ∧ (s.onCommits f).prot = s.prot ∧ (s.onCommits f).fab = s.fab ∧ (s.onCommits f).tx = s.tx ∧ (s.onCommits f).rx = s.rx ∧ (s.onCommits f).cli = s.cli ∧ (s.onCommits f).grm = s.grm ∧ (s.onCommits f).sec = s.sec ∧ (s.onCommits f).opt = s.opt ∧ (s.onCommits f).mode = s.mode ∧ (s.onCommits f).boot = s.boot ∧ (s.onCommits f).keys = s.keys ∧ (s.onCommits f).store = s.store ∧ (s.onCommits f).pm = s.pm ∧ (s.onCommits f).integ = s.integ :=
  ⟨rfl, rfl, rfl, rfl, rfl, rfl, rfl, rfl, rfl, rfl, rfl, rfl, rfl, rfl, rfl, rfl, rfl, rfl, rfl, rfl, rfl, rfl, rfl, rfl, rfl, rfl, rfl, rfl⟩
@[simp] theorem State.onFree_self (s : State) (f : Nat → Nat) : (s.onFree f).free = f s.free := rfl
@[simp] theorem State.onFree_rest (s : State) (f : Nat → Nat) :
    (s.onFree f).pending = s.pending ∧ (s.onFree f).commits = s.commits ∧ (s.onFree f).otn = s.otn ∧ (s.onFree f).fused = s.fused ∧ (s.onFree f).pins = s.pins ∧ (s.onFree f).stk = s.stk ∧ (s.onFree f).clk = s.clk ∧ (s.onFree f).root = s.root ∧ (s.onFree f).cmd = s.cmd ∧ (s.onFree f).ev = s.ev ∧ (s.onFree f).anvil = s.anvil ∧ (s.onFree f).rows = s.rows ∧ (s.onFree f).cont = s.cont ∧ (s.onFree f).diag = s.diag ∧ (s.onFree f).prot = s.prot ∧ (s.onFree f).fab = s.fab ∧ (s.onFree f).tx = s.tx ∧ (s.onFree f).rx = s.rx ∧ (s.onFree f).cli = s.cli ∧ (s.onFree f).grm = s.grm ∧ (s.onFree f).sec = s.sec ∧ (s.onFree f).opt = s.opt ∧ (s.onFree f).mode = s.mode ∧ (s.onFree f).boot = s.boot ∧ (s.onFree f).keys = s.keys ∧ (s.onFree f).store = s.store ∧ (s.onFree f).pm = s.pm ∧ (s.onFree f).integ = s.integ :=
  ⟨rfl, rfl, rfl, rfl, rfl, rfl, rfl, rfl, rfl, rfl, rfl, rfl, rfl, rfl, rfl, rfl, rfl, rfl, rfl, rfl, rfl, rfl, rfl, rfl, rfl, rfl, rfl, rfl⟩
@[simp] theorem State.onOtn_self (s : State) (f : List (Nat × OtnSt) → List (Nat × OtnSt)) : (s.onOtn f).otn = f s.otn := rfl
@[simp] theorem State.onOtn_rest (s : State) (f : List (Nat × OtnSt) → List (Nat × OtnSt)) :
    (s.onOtn f).pending = s.pending ∧ (s.onOtn f).commits = s.commits ∧ (s.onOtn f).free = s.free ∧ (s.onOtn f).fused = s.fused ∧ (s.onOtn f).pins = s.pins ∧ (s.onOtn f).stk = s.stk ∧ (s.onOtn f).clk = s.clk ∧ (s.onOtn f).root = s.root ∧ (s.onOtn f).cmd = s.cmd ∧ (s.onOtn f).ev = s.ev ∧ (s.onOtn f).anvil = s.anvil ∧ (s.onOtn f).rows = s.rows ∧ (s.onOtn f).cont = s.cont ∧ (s.onOtn f).diag = s.diag ∧ (s.onOtn f).prot = s.prot ∧ (s.onOtn f).fab = s.fab ∧ (s.onOtn f).tx = s.tx ∧ (s.onOtn f).rx = s.rx ∧ (s.onOtn f).cli = s.cli ∧ (s.onOtn f).grm = s.grm ∧ (s.onOtn f).sec = s.sec ∧ (s.onOtn f).opt = s.opt ∧ (s.onOtn f).mode = s.mode ∧ (s.onOtn f).boot = s.boot ∧ (s.onOtn f).keys = s.keys ∧ (s.onOtn f).store = s.store ∧ (s.onOtn f).pm = s.pm ∧ (s.onOtn f).integ = s.integ :=
  ⟨rfl, rfl, rfl, rfl, rfl, rfl, rfl, rfl, rfl, rfl, rfl, rfl, rfl, rfl, rfl, rfl, rfl, rfl, rfl, rfl, rfl, rfl, rfl, rfl, rfl, rfl, rfl, rfl⟩
@[simp] theorem State.onFused_self (s : State) (f : Fused → Fused) : (s.onFused f).fused = f s.fused := rfl
@[simp] theorem State.onFused_rest (s : State) (f : Fused → Fused) :
    (s.onFused f).pending = s.pending ∧ (s.onFused f).commits = s.commits ∧ (s.onFused f).free = s.free ∧ (s.onFused f).otn = s.otn ∧ (s.onFused f).pins = s.pins ∧ (s.onFused f).stk = s.stk ∧ (s.onFused f).clk = s.clk ∧ (s.onFused f).root = s.root ∧ (s.onFused f).cmd = s.cmd ∧ (s.onFused f).ev = s.ev ∧ (s.onFused f).anvil = s.anvil ∧ (s.onFused f).rows = s.rows ∧ (s.onFused f).cont = s.cont ∧ (s.onFused f).diag = s.diag ∧ (s.onFused f).prot = s.prot ∧ (s.onFused f).fab = s.fab ∧ (s.onFused f).tx = s.tx ∧ (s.onFused f).rx = s.rx ∧ (s.onFused f).cli = s.cli ∧ (s.onFused f).grm = s.grm ∧ (s.onFused f).sec = s.sec ∧ (s.onFused f).opt = s.opt ∧ (s.onFused f).mode = s.mode ∧ (s.onFused f).boot = s.boot ∧ (s.onFused f).keys = s.keys ∧ (s.onFused f).store = s.store ∧ (s.onFused f).pm = s.pm ∧ (s.onFused f).integ = s.integ :=
  ⟨rfl, rfl, rfl, rfl, rfl, rfl, rfl, rfl, rfl, rfl, rfl, rfl, rfl, rfl, rfl, rfl, rfl, rfl, rfl, rfl, rfl, rfl, rfl, rfl, rfl, rfl, rfl, rfl⟩
@[simp] theorem State.onPins_self (s : State) (f : PinSt → PinSt) : (s.onPins f).pins = f s.pins := rfl
@[simp] theorem State.onPins_rest (s : State) (f : PinSt → PinSt) :
    (s.onPins f).pending = s.pending ∧ (s.onPins f).commits = s.commits ∧ (s.onPins f).free = s.free ∧ (s.onPins f).otn = s.otn ∧ (s.onPins f).fused = s.fused ∧ (s.onPins f).stk = s.stk ∧ (s.onPins f).clk = s.clk ∧ (s.onPins f).root = s.root ∧ (s.onPins f).cmd = s.cmd ∧ (s.onPins f).ev = s.ev ∧ (s.onPins f).anvil = s.anvil ∧ (s.onPins f).rows = s.rows ∧ (s.onPins f).cont = s.cont ∧ (s.onPins f).diag = s.diag ∧ (s.onPins f).prot = s.prot ∧ (s.onPins f).fab = s.fab ∧ (s.onPins f).tx = s.tx ∧ (s.onPins f).rx = s.rx ∧ (s.onPins f).cli = s.cli ∧ (s.onPins f).grm = s.grm ∧ (s.onPins f).sec = s.sec ∧ (s.onPins f).opt = s.opt ∧ (s.onPins f).mode = s.mode ∧ (s.onPins f).boot = s.boot ∧ (s.onPins f).keys = s.keys ∧ (s.onPins f).store = s.store ∧ (s.onPins f).pm = s.pm ∧ (s.onPins f).integ = s.integ :=
  ⟨rfl, rfl, rfl, rfl, rfl, rfl, rfl, rfl, rfl, rfl, rfl, rfl, rfl, rfl, rfl, rfl, rfl, rfl, rfl, rfl, rfl, rfl, rfl, rfl, rfl, rfl, rfl, rfl⟩
@[simp] theorem State.onStk_self (s : State) (f : StrokeSt → StrokeSt) : (s.onStk f).stk = f s.stk := rfl
@[simp] theorem State.onStk_rest (s : State) (f : StrokeSt → StrokeSt) :
    (s.onStk f).pending = s.pending ∧ (s.onStk f).commits = s.commits ∧ (s.onStk f).free = s.free ∧ (s.onStk f).otn = s.otn ∧ (s.onStk f).fused = s.fused ∧ (s.onStk f).pins = s.pins ∧ (s.onStk f).clk = s.clk ∧ (s.onStk f).root = s.root ∧ (s.onStk f).cmd = s.cmd ∧ (s.onStk f).ev = s.ev ∧ (s.onStk f).anvil = s.anvil ∧ (s.onStk f).rows = s.rows ∧ (s.onStk f).cont = s.cont ∧ (s.onStk f).diag = s.diag ∧ (s.onStk f).prot = s.prot ∧ (s.onStk f).fab = s.fab ∧ (s.onStk f).tx = s.tx ∧ (s.onStk f).rx = s.rx ∧ (s.onStk f).cli = s.cli ∧ (s.onStk f).grm = s.grm ∧ (s.onStk f).sec = s.sec ∧ (s.onStk f).opt = s.opt ∧ (s.onStk f).mode = s.mode ∧ (s.onStk f).boot = s.boot ∧ (s.onStk f).keys = s.keys ∧ (s.onStk f).store = s.store ∧ (s.onStk f).pm = s.pm ∧ (s.onStk f).integ = s.integ :=
  ⟨rfl, rfl, rfl, rfl, rfl, rfl, rfl, rfl, rfl, rfl, rfl, rfl, rfl, rfl, rfl, rfl, rfl, rfl, rfl, rfl, rfl, rfl, rfl, rfl, rfl, rfl, rfl, rfl⟩
@[simp] theorem State.onClk_self (s : State) (f : ClkSt → ClkSt) : (s.onClk f).clk = f s.clk := rfl
@[simp] theorem State.onClk_rest (s : State) (f : ClkSt → ClkSt) :
    (s.onClk f).pending = s.pending ∧ (s.onClk f).commits = s.commits ∧ (s.onClk f).free = s.free ∧ (s.onClk f).otn = s.otn ∧ (s.onClk f).fused = s.fused ∧ (s.onClk f).pins = s.pins ∧ (s.onClk f).stk = s.stk ∧ (s.onClk f).root = s.root ∧ (s.onClk f).cmd = s.cmd ∧ (s.onClk f).ev = s.ev ∧ (s.onClk f).anvil = s.anvil ∧ (s.onClk f).rows = s.rows ∧ (s.onClk f).cont = s.cont ∧ (s.onClk f).diag = s.diag ∧ (s.onClk f).prot = s.prot ∧ (s.onClk f).fab = s.fab ∧ (s.onClk f).tx = s.tx ∧ (s.onClk f).rx = s.rx ∧ (s.onClk f).cli = s.cli ∧ (s.onClk f).grm = s.grm ∧ (s.onClk f).sec = s.sec ∧ (s.onClk f).opt = s.opt ∧ (s.onClk f).mode = s.mode ∧ (s.onClk f).boot = s.boot ∧ (s.onClk f).keys = s.keys ∧ (s.onClk f).store = s.store ∧ (s.onClk f).pm = s.pm ∧ (s.onClk f).integ = s.integ :=
  ⟨rfl, rfl, rfl, rfl, rfl, rfl, rfl, rfl, rfl, rfl, rfl, rfl, rfl, rfl, rfl, rfl, rfl, rfl, rfl, rfl, rfl, rfl, rfl, rfl, rfl, rfl, rfl, rfl⟩
@[simp] theorem State.onRoot_self (s : State) (f : RootSt → RootSt) : (s.onRoot f).root = f s.root := rfl
@[simp] theorem State.onRoot_rest (s : State) (f : RootSt → RootSt) :
    (s.onRoot f).pending = s.pending ∧ (s.onRoot f).commits = s.commits ∧ (s.onRoot f).free = s.free ∧ (s.onRoot f).otn = s.otn ∧ (s.onRoot f).fused = s.fused ∧ (s.onRoot f).pins = s.pins ∧ (s.onRoot f).stk = s.stk ∧ (s.onRoot f).clk = s.clk ∧ (s.onRoot f).cmd = s.cmd ∧ (s.onRoot f).ev = s.ev ∧ (s.onRoot f).anvil = s.anvil ∧ (s.onRoot f).rows = s.rows ∧ (s.onRoot f).cont = s.cont ∧ (s.onRoot f).diag = s.diag ∧ (s.onRoot f).prot = s.prot ∧ (s.onRoot f).fab = s.fab ∧ (s.onRoot f).tx = s.tx ∧ (s.onRoot f).rx = s.rx ∧ (s.onRoot f).cli = s.cli ∧ (s.onRoot f).grm = s.grm ∧ (s.onRoot f).sec = s.sec ∧ (s.onRoot f).opt = s.opt ∧ (s.onRoot f).mode = s.mode ∧ (s.onRoot f).boot = s.boot ∧ (s.onRoot f).keys = s.keys ∧ (s.onRoot f).store = s.store ∧ (s.onRoot f).pm = s.pm ∧ (s.onRoot f).integ = s.integ :=
  ⟨rfl, rfl, rfl, rfl, rfl, rfl, rfl, rfl, rfl, rfl, rfl, rfl, rfl, rfl, rfl, rfl, rfl, rfl, rfl, rfl, rfl, rfl, rfl, rfl, rfl, rfl, rfl, rfl⟩
@[simp] theorem State.onCmd_self (s : State) (f : CmdSt → CmdSt) : (s.onCmd f).cmd = f s.cmd := rfl
@[simp] theorem State.onCmd_rest (s : State) (f : CmdSt → CmdSt) :
    (s.onCmd f).pending = s.pending ∧ (s.onCmd f).commits = s.commits ∧ (s.onCmd f).free = s.free ∧ (s.onCmd f).otn = s.otn ∧ (s.onCmd f).fused = s.fused ∧ (s.onCmd f).pins = s.pins ∧ (s.onCmd f).stk = s.stk ∧ (s.onCmd f).clk = s.clk ∧ (s.onCmd f).root = s.root ∧ (s.onCmd f).ev = s.ev ∧ (s.onCmd f).anvil = s.anvil ∧ (s.onCmd f).rows = s.rows ∧ (s.onCmd f).cont = s.cont ∧ (s.onCmd f).diag = s.diag ∧ (s.onCmd f).prot = s.prot ∧ (s.onCmd f).fab = s.fab ∧ (s.onCmd f).tx = s.tx ∧ (s.onCmd f).rx = s.rx ∧ (s.onCmd f).cli = s.cli ∧ (s.onCmd f).grm = s.grm ∧ (s.onCmd f).sec = s.sec ∧ (s.onCmd f).opt = s.opt ∧ (s.onCmd f).mode = s.mode ∧ (s.onCmd f).boot = s.boot ∧ (s.onCmd f).keys = s.keys ∧ (s.onCmd f).store = s.store ∧ (s.onCmd f).pm = s.pm ∧ (s.onCmd f).integ = s.integ :=
  ⟨rfl, rfl, rfl, rfl, rfl, rfl, rfl, rfl, rfl, rfl, rfl, rfl, rfl, rfl, rfl, rfl, rfl, rfl, rfl, rfl, rfl, rfl, rfl, rfl, rfl, rfl, rfl, rfl⟩
@[simp] theorem State.onEv_self (s : State) (f : EvSt → EvSt) : (s.onEv f).ev = f s.ev := rfl
@[simp] theorem State.onEv_rest (s : State) (f : EvSt → EvSt) :
    (s.onEv f).pending = s.pending ∧ (s.onEv f).commits = s.commits ∧ (s.onEv f).free = s.free ∧ (s.onEv f).otn = s.otn ∧ (s.onEv f).fused = s.fused ∧ (s.onEv f).pins = s.pins ∧ (s.onEv f).stk = s.stk ∧ (s.onEv f).clk = s.clk ∧ (s.onEv f).root = s.root ∧ (s.onEv f).cmd = s.cmd ∧ (s.onEv f).anvil = s.anvil ∧ (s.onEv f).rows = s.rows ∧ (s.onEv f).cont = s.cont ∧ (s.onEv f).diag = s.diag ∧ (s.onEv f).prot = s.prot ∧ (s.onEv f).fab = s.fab ∧ (s.onEv f).tx = s.tx ∧ (s.onEv f).rx = s.rx ∧ (s.onEv f).cli = s.cli ∧ (s.onEv f).grm = s.grm ∧ (s.onEv f).sec = s.sec ∧ (s.onEv f).opt = s.opt ∧ (s.onEv f).mode = s.mode ∧ (s.onEv f).boot = s.boot ∧ (s.onEv f).keys = s.keys ∧ (s.onEv f).store = s.store ∧ (s.onEv f).pm = s.pm ∧ (s.onEv f).integ = s.integ :=
  ⟨rfl, rfl, rfl, rfl, rfl, rfl, rfl, rfl, rfl, rfl, rfl, rfl, rfl, rfl, rfl, rfl, rfl, rfl, rfl, rfl, rfl, rfl, rfl, rfl, rfl, rfl, rfl, rfl⟩
@[simp] theorem State.onAnvil_self (s : State) (f : AnvilSt → AnvilSt) : (s.onAnvil f).anvil = f s.anvil := rfl
@[simp] theorem State.onAnvil_rest (s : State) (f : AnvilSt → AnvilSt) :
    (s.onAnvil f).pending = s.pending ∧ (s.onAnvil f).commits = s.commits ∧ (s.onAnvil f).free = s.free ∧ (s.onAnvil f).otn = s.otn ∧ (s.onAnvil f).fused = s.fused ∧ (s.onAnvil f).pins = s.pins ∧ (s.onAnvil f).stk = s.stk ∧ (s.onAnvil f).clk = s.clk ∧ (s.onAnvil f).root = s.root ∧ (s.onAnvil f).cmd = s.cmd ∧ (s.onAnvil f).ev = s.ev ∧ (s.onAnvil f).rows = s.rows ∧ (s.onAnvil f).cont = s.cont ∧ (s.onAnvil f).diag = s.diag ∧ (s.onAnvil f).prot = s.prot ∧ (s.onAnvil f).fab = s.fab ∧ (s.onAnvil f).tx = s.tx ∧ (s.onAnvil f).rx = s.rx ∧ (s.onAnvil f).cli = s.cli ∧ (s.onAnvil f).grm = s.grm ∧ (s.onAnvil f).sec = s.sec ∧ (s.onAnvil f).opt = s.opt ∧ (s.onAnvil f).mode = s.mode ∧ (s.onAnvil f).boot = s.boot ∧ (s.onAnvil f).keys = s.keys ∧ (s.onAnvil f).store = s.store ∧ (s.onAnvil f).pm = s.pm ∧ (s.onAnvil f).integ = s.integ :=
  ⟨rfl, rfl, rfl, rfl, rfl, rfl, rfl, rfl, rfl, rfl, rfl, rfl, rfl, rfl, rfl, rfl, rfl, rfl, rfl, rfl, rfl, rfl, rfl, rfl, rfl, rfl, rfl, rfl⟩
@[simp] theorem State.onRows_self (s : State) (f : RowSt → RowSt) : (s.onRows f).rows = f s.rows := rfl
@[simp] theorem State.onRows_rest (s : State) (f : RowSt → RowSt) :
    (s.onRows f).pending = s.pending ∧ (s.onRows f).commits = s.commits ∧ (s.onRows f).free = s.free ∧ (s.onRows f).otn = s.otn ∧ (s.onRows f).fused = s.fused ∧ (s.onRows f).pins = s.pins ∧ (s.onRows f).stk = s.stk ∧ (s.onRows f).clk = s.clk ∧ (s.onRows f).root = s.root ∧ (s.onRows f).cmd = s.cmd ∧ (s.onRows f).ev = s.ev ∧ (s.onRows f).anvil = s.anvil ∧ (s.onRows f).cont = s.cont ∧ (s.onRows f).diag = s.diag ∧ (s.onRows f).prot = s.prot ∧ (s.onRows f).fab = s.fab ∧ (s.onRows f).tx = s.tx ∧ (s.onRows f).rx = s.rx ∧ (s.onRows f).cli = s.cli ∧ (s.onRows f).grm = s.grm ∧ (s.onRows f).sec = s.sec ∧ (s.onRows f).opt = s.opt ∧ (s.onRows f).mode = s.mode ∧ (s.onRows f).boot = s.boot ∧ (s.onRows f).keys = s.keys ∧ (s.onRows f).store = s.store ∧ (s.onRows f).pm = s.pm ∧ (s.onRows f).integ = s.integ :=
  ⟨rfl, rfl, rfl, rfl, rfl, rfl, rfl, rfl, rfl, rfl, rfl, rfl, rfl, rfl, rfl, rfl, rfl, rfl, rfl, rfl, rfl, rfl, rfl, rfl, rfl, rfl, rfl, rfl⟩
@[simp] theorem State.onCont_self (s : State) (f : ContSt → ContSt) : (s.onCont f).cont = f s.cont := rfl
@[simp] theorem State.onCont_rest (s : State) (f : ContSt → ContSt) :
    (s.onCont f).pending = s.pending ∧ (s.onCont f).commits = s.commits ∧ (s.onCont f).free = s.free ∧ (s.onCont f).otn = s.otn ∧ (s.onCont f).fused = s.fused ∧ (s.onCont f).pins = s.pins ∧ (s.onCont f).stk = s.stk ∧ (s.onCont f).clk = s.clk ∧ (s.onCont f).root = s.root ∧ (s.onCont f).cmd = s.cmd ∧ (s.onCont f).ev = s.ev ∧ (s.onCont f).anvil = s.anvil ∧ (s.onCont f).rows = s.rows ∧ (s.onCont f).diag = s.diag ∧ (s.onCont f).prot = s.prot ∧ (s.onCont f).fab = s.fab ∧ (s.onCont f).tx = s.tx ∧ (s.onCont f).rx = s.rx ∧ (s.onCont f).cli = s.cli ∧ (s.onCont f).grm = s.grm ∧ (s.onCont f).sec = s.sec ∧ (s.onCont f).opt = s.opt ∧ (s.onCont f).mode = s.mode ∧ (s.onCont f).boot = s.boot ∧ (s.onCont f).keys = s.keys ∧ (s.onCont f).store = s.store ∧ (s.onCont f).pm = s.pm ∧ (s.onCont f).integ = s.integ :=
  ⟨rfl, rfl, rfl, rfl, rfl, rfl, rfl, rfl, rfl, rfl, rfl, rfl, rfl, rfl, rfl, rfl, rfl, rfl, rfl, rfl, rfl, rfl, rfl, rfl, rfl, rfl, rfl, rfl⟩
@[simp] theorem State.onDiag_self (s : State) (f : DiagSt → DiagSt) : (s.onDiag f).diag = f s.diag := rfl
@[simp] theorem State.onDiag_rest (s : State) (f : DiagSt → DiagSt) :
    (s.onDiag f).pending = s.pending ∧ (s.onDiag f).commits = s.commits ∧ (s.onDiag f).free = s.free ∧ (s.onDiag f).otn = s.otn ∧ (s.onDiag f).fused = s.fused ∧ (s.onDiag f).pins = s.pins ∧ (s.onDiag f).stk = s.stk ∧ (s.onDiag f).clk = s.clk ∧ (s.onDiag f).root = s.root ∧ (s.onDiag f).cmd = s.cmd ∧ (s.onDiag f).ev = s.ev ∧ (s.onDiag f).anvil = s.anvil ∧ (s.onDiag f).rows = s.rows ∧ (s.onDiag f).cont = s.cont ∧ (s.onDiag f).prot = s.prot ∧ (s.onDiag f).fab = s.fab ∧ (s.onDiag f).tx = s.tx ∧ (s.onDiag f).rx = s.rx ∧ (s.onDiag f).cli = s.cli ∧ (s.onDiag f).grm = s.grm ∧ (s.onDiag f).sec = s.sec ∧ (s.onDiag f).opt = s.opt ∧ (s.onDiag f).mode = s.mode ∧ (s.onDiag f).boot = s.boot ∧ (s.onDiag f).keys = s.keys ∧ (s.onDiag f).store = s.store ∧ (s.onDiag f).pm = s.pm ∧ (s.onDiag f).integ = s.integ :=
  ⟨rfl, rfl, rfl, rfl, rfl, rfl, rfl, rfl, rfl, rfl, rfl, rfl, rfl, rfl, rfl, rfl, rfl, rfl, rfl, rfl, rfl, rfl, rfl, rfl, rfl, rfl, rfl, rfl⟩
@[simp] theorem State.onProt_self (s : State) (f : ProtSt → ProtSt) : (s.onProt f).prot = f s.prot := rfl
@[simp] theorem State.onProt_rest (s : State) (f : ProtSt → ProtSt) :
    (s.onProt f).pending = s.pending ∧ (s.onProt f).commits = s.commits ∧ (s.onProt f).free = s.free ∧ (s.onProt f).otn = s.otn ∧ (s.onProt f).fused = s.fused ∧ (s.onProt f).pins = s.pins ∧ (s.onProt f).stk = s.stk ∧ (s.onProt f).clk = s.clk ∧ (s.onProt f).root = s.root ∧ (s.onProt f).cmd = s.cmd ∧ (s.onProt f).ev = s.ev ∧ (s.onProt f).anvil = s.anvil ∧ (s.onProt f).rows = s.rows ∧ (s.onProt f).cont = s.cont ∧ (s.onProt f).diag = s.diag ∧ (s.onProt f).fab = s.fab ∧ (s.onProt f).tx = s.tx ∧ (s.onProt f).rx = s.rx ∧ (s.onProt f).cli = s.cli ∧ (s.onProt f).grm = s.grm ∧ (s.onProt f).sec = s.sec ∧ (s.onProt f).opt = s.opt ∧ (s.onProt f).mode = s.mode ∧ (s.onProt f).boot = s.boot ∧ (s.onProt f).keys = s.keys ∧ (s.onProt f).store = s.store ∧ (s.onProt f).pm = s.pm ∧ (s.onProt f).integ = s.integ :=
  ⟨rfl, rfl, rfl, rfl, rfl, rfl, rfl, rfl, rfl, rfl, rfl, rfl, rfl, rfl, rfl, rfl, rfl, rfl, rfl, rfl, rfl, rfl, rfl, rfl, rfl, rfl, rfl, rfl⟩
@[simp] theorem State.onFab_self (s : State) (f : FabSt → FabSt) : (s.onFab f).fab = f s.fab := rfl
@[simp] theorem State.onFab_rest (s : State) (f : FabSt → FabSt) :
    (s.onFab f).pending = s.pending ∧ (s.onFab f).commits = s.commits ∧ (s.onFab f).free = s.free ∧ (s.onFab f).otn = s.otn ∧ (s.onFab f).fused = s.fused ∧ (s.onFab f).pins = s.pins ∧ (s.onFab f).stk = s.stk ∧ (s.onFab f).clk = s.clk ∧ (s.onFab f).root = s.root ∧ (s.onFab f).cmd = s.cmd ∧ (s.onFab f).ev = s.ev ∧ (s.onFab f).anvil = s.anvil ∧ (s.onFab f).rows = s.rows ∧ (s.onFab f).cont = s.cont ∧ (s.onFab f).diag = s.diag ∧ (s.onFab f).prot = s.prot ∧ (s.onFab f).tx = s.tx ∧ (s.onFab f).rx = s.rx ∧ (s.onFab f).cli = s.cli ∧ (s.onFab f).grm = s.grm ∧ (s.onFab f).sec = s.sec ∧ (s.onFab f).opt = s.opt ∧ (s.onFab f).mode = s.mode ∧ (s.onFab f).boot = s.boot ∧ (s.onFab f).keys = s.keys ∧ (s.onFab f).store = s.store ∧ (s.onFab f).pm = s.pm ∧ (s.onFab f).integ = s.integ :=
  ⟨rfl, rfl, rfl, rfl, rfl, rfl, rfl, rfl, rfl, rfl, rfl, rfl, rfl, rfl, rfl, rfl, rfl, rfl, rfl, rfl, rfl, rfl, rfl, rfl, rfl, rfl, rfl, rfl⟩
@[simp] theorem State.onTx_self (s : State) (f : LineTxSt → LineTxSt) : (s.onTx f).tx = f s.tx := rfl
@[simp] theorem State.onTx_rest (s : State) (f : LineTxSt → LineTxSt) :
    (s.onTx f).pending = s.pending ∧ (s.onTx f).commits = s.commits ∧ (s.onTx f).free = s.free ∧ (s.onTx f).otn = s.otn ∧ (s.onTx f).fused = s.fused ∧ (s.onTx f).pins = s.pins ∧ (s.onTx f).stk = s.stk ∧ (s.onTx f).clk = s.clk ∧ (s.onTx f).root = s.root ∧ (s.onTx f).cmd = s.cmd ∧ (s.onTx f).ev = s.ev ∧ (s.onTx f).anvil = s.anvil ∧ (s.onTx f).rows = s.rows ∧ (s.onTx f).cont = s.cont ∧ (s.onTx f).diag = s.diag ∧ (s.onTx f).prot = s.prot ∧ (s.onTx f).fab = s.fab ∧ (s.onTx f).rx = s.rx ∧ (s.onTx f).cli = s.cli ∧ (s.onTx f).grm = s.grm ∧ (s.onTx f).sec = s.sec ∧ (s.onTx f).opt = s.opt ∧ (s.onTx f).mode = s.mode ∧ (s.onTx f).boot = s.boot ∧ (s.onTx f).keys = s.keys ∧ (s.onTx f).store = s.store ∧ (s.onTx f).pm = s.pm ∧ (s.onTx f).integ = s.integ :=
  ⟨rfl, rfl, rfl, rfl, rfl, rfl, rfl, rfl, rfl, rfl, rfl, rfl, rfl, rfl, rfl, rfl, rfl, rfl, rfl, rfl, rfl, rfl, rfl, rfl, rfl, rfl, rfl, rfl⟩
@[simp] theorem State.onRx_self (s : State) (f : LineRxSt → LineRxSt) : (s.onRx f).rx = f s.rx := rfl
@[simp] theorem State.onRx_rest (s : State) (f : LineRxSt → LineRxSt) :
    (s.onRx f).pending = s.pending ∧ (s.onRx f).commits = s.commits ∧ (s.onRx f).free = s.free ∧ (s.onRx f).otn = s.otn ∧ (s.onRx f).fused = s.fused ∧ (s.onRx f).pins = s.pins ∧ (s.onRx f).stk = s.stk ∧ (s.onRx f).clk = s.clk ∧ (s.onRx f).root = s.root ∧ (s.onRx f).cmd = s.cmd ∧ (s.onRx f).ev = s.ev ∧ (s.onRx f).anvil = s.anvil ∧ (s.onRx f).rows = s.rows ∧ (s.onRx f).cont = s.cont ∧ (s.onRx f).diag = s.diag ∧ (s.onRx f).prot = s.prot ∧ (s.onRx f).fab = s.fab ∧ (s.onRx f).tx = s.tx ∧ (s.onRx f).cli = s.cli ∧ (s.onRx f).grm = s.grm ∧ (s.onRx f).sec = s.sec ∧ (s.onRx f).opt = s.opt ∧ (s.onRx f).mode = s.mode ∧ (s.onRx f).boot = s.boot ∧ (s.onRx f).keys = s.keys ∧ (s.onRx f).store = s.store ∧ (s.onRx f).pm = s.pm ∧ (s.onRx f).integ = s.integ :=
  ⟨rfl, rfl, rfl, rfl, rfl, rfl, rfl, rfl, rfl, rfl, rfl, rfl, rfl, rfl, rfl, rfl, rfl, rfl, rfl, rfl, rfl, rfl, rfl, rfl, rfl, rfl, rfl, rfl⟩
@[simp] theorem State.onCli_self (s : State) (f : CliSt → CliSt) : (s.onCli f).cli = f s.cli := rfl
@[simp] theorem State.onCli_rest (s : State) (f : CliSt → CliSt) :
    (s.onCli f).pending = s.pending ∧ (s.onCli f).commits = s.commits ∧ (s.onCli f).free = s.free ∧ (s.onCli f).otn = s.otn ∧ (s.onCli f).fused = s.fused ∧ (s.onCli f).pins = s.pins ∧ (s.onCli f).stk = s.stk ∧ (s.onCli f).clk = s.clk ∧ (s.onCli f).root = s.root ∧ (s.onCli f).cmd = s.cmd ∧ (s.onCli f).ev = s.ev ∧ (s.onCli f).anvil = s.anvil ∧ (s.onCli f).rows = s.rows ∧ (s.onCli f).cont = s.cont ∧ (s.onCli f).diag = s.diag ∧ (s.onCli f).prot = s.prot ∧ (s.onCli f).fab = s.fab ∧ (s.onCli f).tx = s.tx ∧ (s.onCli f).rx = s.rx ∧ (s.onCli f).grm = s.grm ∧ (s.onCli f).sec = s.sec ∧ (s.onCli f).opt = s.opt ∧ (s.onCli f).mode = s.mode ∧ (s.onCli f).boot = s.boot ∧ (s.onCli f).keys = s.keys ∧ (s.onCli f).store = s.store ∧ (s.onCli f).pm = s.pm ∧ (s.onCli f).integ = s.integ :=
  ⟨rfl, rfl, rfl, rfl, rfl, rfl, rfl, rfl, rfl, rfl, rfl, rfl, rfl, rfl, rfl, rfl, rfl, rfl, rfl, rfl, rfl, rfl, rfl, rfl, rfl, rfl, rfl, rfl⟩
@[simp] theorem State.onGrm_self (s : State) (f : GrmSt → GrmSt) : (s.onGrm f).grm = f s.grm := rfl
@[simp] theorem State.onGrm_rest (s : State) (f : GrmSt → GrmSt) :
    (s.onGrm f).pending = s.pending ∧ (s.onGrm f).commits = s.commits ∧ (s.onGrm f).free = s.free ∧ (s.onGrm f).otn = s.otn ∧ (s.onGrm f).fused = s.fused ∧ (s.onGrm f).pins = s.pins ∧ (s.onGrm f).stk = s.stk ∧ (s.onGrm f).clk = s.clk ∧ (s.onGrm f).root = s.root ∧ (s.onGrm f).cmd = s.cmd ∧ (s.onGrm f).ev = s.ev ∧ (s.onGrm f).anvil = s.anvil ∧ (s.onGrm f).rows = s.rows ∧ (s.onGrm f).cont = s.cont ∧ (s.onGrm f).diag = s.diag ∧ (s.onGrm f).prot = s.prot ∧ (s.onGrm f).fab = s.fab ∧ (s.onGrm f).tx = s.tx ∧ (s.onGrm f).rx = s.rx ∧ (s.onGrm f).cli = s.cli ∧ (s.onGrm f).sec = s.sec ∧ (s.onGrm f).opt = s.opt ∧ (s.onGrm f).mode = s.mode ∧ (s.onGrm f).boot = s.boot ∧ (s.onGrm f).keys = s.keys ∧ (s.onGrm f).store = s.store ∧ (s.onGrm f).pm = s.pm ∧ (s.onGrm f).integ = s.integ :=
  ⟨rfl, rfl, rfl, rfl, rfl, rfl, rfl, rfl, rfl, rfl, rfl, rfl, rfl, rfl, rfl, rfl, rfl, rfl, rfl, rfl, rfl, rfl, rfl, rfl, rfl, rfl, rfl, rfl⟩
@[simp] theorem State.onSec_self (s : State) (f : SecSt → SecSt) : (s.onSec f).sec = f s.sec := rfl
@[simp] theorem State.onSec_rest (s : State) (f : SecSt → SecSt) :
    (s.onSec f).pending = s.pending ∧ (s.onSec f).commits = s.commits ∧ (s.onSec f).free = s.free ∧ (s.onSec f).otn = s.otn ∧ (s.onSec f).fused = s.fused ∧ (s.onSec f).pins = s.pins ∧ (s.onSec f).stk = s.stk ∧ (s.onSec f).clk = s.clk ∧ (s.onSec f).root = s.root ∧ (s.onSec f).cmd = s.cmd ∧ (s.onSec f).ev = s.ev ∧ (s.onSec f).anvil = s.anvil ∧ (s.onSec f).rows = s.rows ∧ (s.onSec f).cont = s.cont ∧ (s.onSec f).diag = s.diag ∧ (s.onSec f).prot = s.prot ∧ (s.onSec f).fab = s.fab ∧ (s.onSec f).tx = s.tx ∧ (s.onSec f).rx = s.rx ∧ (s.onSec f).cli = s.cli ∧ (s.onSec f).grm = s.grm ∧ (s.onSec f).opt = s.opt ∧ (s.onSec f).mode = s.mode ∧ (s.onSec f).boot = s.boot ∧ (s.onSec f).keys = s.keys ∧ (s.onSec f).store = s.store ∧ (s.onSec f).pm = s.pm ∧ (s.onSec f).integ = s.integ :=
  ⟨rfl, rfl, rfl, rfl, rfl, rfl, rfl, rfl, rfl, rfl, rfl, rfl, rfl, rfl, rfl, rfl, rfl, rfl, rfl, rfl, rfl, rfl, rfl, rfl, rfl, rfl, rfl, rfl⟩
@[simp] theorem State.onOpt_self (s : State) (f : OptSt → OptSt) : (s.onOpt f).opt = f s.opt := rfl
@[simp] theorem State.onOpt_rest (s : State) (f : OptSt → OptSt) :
    (s.onOpt f).pending = s.pending ∧ (s.onOpt f).commits = s.commits ∧ (s.onOpt f).free = s.free ∧ (s.onOpt f).otn = s.otn ∧ (s.onOpt f).fused = s.fused ∧ (s.onOpt f).pins = s.pins ∧ (s.onOpt f).stk = s.stk ∧ (s.onOpt f).clk = s.clk ∧ (s.onOpt f).root = s.root ∧ (s.onOpt f).cmd = s.cmd ∧ (s.onOpt f).ev = s.ev ∧ (s.onOpt f).anvil = s.anvil ∧ (s.onOpt f).rows = s.rows ∧ (s.onOpt f).cont = s.cont ∧ (s.onOpt f).diag = s.diag ∧ (s.onOpt f).prot = s.prot ∧ (s.onOpt f).fab = s.fab ∧ (s.onOpt f).tx = s.tx ∧ (s.onOpt f).rx = s.rx ∧ (s.onOpt f).cli = s.cli ∧ (s.onOpt f).grm = s.grm ∧ (s.onOpt f).sec = s.sec ∧ (s.onOpt f).mode = s.mode ∧ (s.onOpt f).boot = s.boot ∧ (s.onOpt f).keys = s.keys ∧ (s.onOpt f).store = s.store ∧ (s.onOpt f).pm = s.pm ∧ (s.onOpt f).integ = s.integ :=
  ⟨rfl, rfl, rfl, rfl, rfl, rfl, rfl, rfl, rfl, rfl, rfl, rfl, rfl, rfl, rfl, rfl, rfl, rfl, rfl, rfl, rfl, rfl, rfl, rfl, rfl, rfl, rfl, rfl⟩
@[simp] theorem State.onMode_self (s : State) (f : ModeSt → ModeSt) : (s.onMode f).mode = f s.mode := rfl
@[simp] theorem State.onMode_rest (s : State) (f : ModeSt → ModeSt) :
    (s.onMode f).pending = s.pending ∧ (s.onMode f).commits = s.commits ∧ (s.onMode f).free = s.free ∧ (s.onMode f).otn = s.otn ∧ (s.onMode f).fused = s.fused ∧ (s.onMode f).pins = s.pins ∧ (s.onMode f).stk = s.stk ∧ (s.onMode f).clk = s.clk ∧ (s.onMode f).root = s.root ∧ (s.onMode f).cmd = s.cmd ∧ (s.onMode f).ev = s.ev ∧ (s.onMode f).anvil = s.anvil ∧ (s.onMode f).rows = s.rows ∧ (s.onMode f).cont = s.cont ∧ (s.onMode f).diag = s.diag ∧ (s.onMode f).prot = s.prot ∧ (s.onMode f).fab = s.fab ∧ (s.onMode f).tx = s.tx ∧ (s.onMode f).rx = s.rx ∧ (s.onMode f).cli = s.cli ∧ (s.onMode f).grm = s.grm ∧ (s.onMode f).sec = s.sec ∧ (s.onMode f).opt = s.opt ∧ (s.onMode f).boot = s.boot ∧ (s.onMode f).keys = s.keys ∧ (s.onMode f).store = s.store ∧ (s.onMode f).pm = s.pm ∧ (s.onMode f).integ = s.integ :=
  ⟨rfl, rfl, rfl, rfl, rfl, rfl, rfl, rfl, rfl, rfl, rfl, rfl, rfl, rfl, rfl, rfl, rfl, rfl, rfl, rfl, rfl, rfl, rfl, rfl, rfl, rfl, rfl, rfl⟩
@[simp] theorem State.onBoot_self (s : State) (f : BootSt → BootSt) : (s.onBoot f).boot = f s.boot := rfl
@[simp] theorem State.onBoot_rest (s : State) (f : BootSt → BootSt) :
    (s.onBoot f).pending = s.pending ∧ (s.onBoot f).commits = s.commits ∧ (s.onBoot f).free = s.free ∧ (s.onBoot f).otn = s.otn ∧ (s.onBoot f).fused = s.fused ∧ (s.onBoot f).pins = s.pins ∧ (s.onBoot f).stk = s.stk ∧ (s.onBoot f).clk = s.clk ∧ (s.onBoot f).root = s.root ∧ (s.onBoot f).cmd = s.cmd ∧ (s.onBoot f).ev = s.ev ∧ (s.onBoot f).anvil = s.anvil ∧ (s.onBoot f).rows = s.rows ∧ (s.onBoot f).cont = s.cont ∧ (s.onBoot f).diag = s.diag ∧ (s.onBoot f).prot = s.prot ∧ (s.onBoot f).fab = s.fab ∧ (s.onBoot f).tx = s.tx ∧ (s.onBoot f).rx = s.rx ∧ (s.onBoot f).cli = s.cli ∧ (s.onBoot f).grm = s.grm ∧ (s.onBoot f).sec = s.sec ∧ (s.onBoot f).opt = s.opt ∧ (s.onBoot f).mode = s.mode ∧ (s.onBoot f).keys = s.keys ∧ (s.onBoot f).store = s.store ∧ (s.onBoot f).pm = s.pm ∧ (s.onBoot f).integ = s.integ :=
  ⟨rfl, rfl, rfl, rfl, rfl, rfl, rfl, rfl, rfl, rfl, rfl, rfl, rfl, rfl, rfl, rfl, rfl, rfl, rfl, rfl, rfl, rfl, rfl, rfl, rfl, rfl, rfl, rfl⟩
@[simp] theorem State.onKeys_self (s : State) (f : KeySt → KeySt) : (s.onKeys f).keys = f s.keys := rfl
@[simp] theorem State.onKeys_rest (s : State) (f : KeySt → KeySt) :
    (s.onKeys f).pending = s.pending ∧ (s.onKeys f).commits = s.commits ∧ (s.onKeys f).free = s.free ∧ (s.onKeys f).otn = s.otn ∧ (s.onKeys f).fused = s.fused ∧ (s.onKeys f).pins = s.pins ∧ (s.onKeys f).stk = s.stk ∧ (s.onKeys f).clk = s.clk ∧ (s.onKeys f).root = s.root ∧ (s.onKeys f).cmd = s.cmd ∧ (s.onKeys f).ev = s.ev ∧ (s.onKeys f).anvil = s.anvil ∧ (s.onKeys f).rows = s.rows ∧ (s.onKeys f).cont = s.cont ∧ (s.onKeys f).diag = s.diag ∧ (s.onKeys f).prot = s.prot ∧ (s.onKeys f).fab = s.fab ∧ (s.onKeys f).tx = s.tx ∧ (s.onKeys f).rx = s.rx ∧ (s.onKeys f).cli = s.cli ∧ (s.onKeys f).grm = s.grm ∧ (s.onKeys f).sec = s.sec ∧ (s.onKeys f).opt = s.opt ∧ (s.onKeys f).mode = s.mode ∧ (s.onKeys f).boot = s.boot ∧ (s.onKeys f).store = s.store ∧ (s.onKeys f).pm = s.pm ∧ (s.onKeys f).integ = s.integ :=
  ⟨rfl, rfl, rfl, rfl, rfl, rfl, rfl, rfl, rfl, rfl, rfl, rfl, rfl, rfl, rfl, rfl, rfl, rfl, rfl, rfl, rfl, rfl, rfl, rfl, rfl, rfl, rfl, rfl⟩
@[simp] theorem State.onStore_self (s : State) (f : StoreSt → StoreSt) : (s.onStore f).store = f s.store := rfl
@[simp] theorem State.onStore_rest (s : State) (f : StoreSt → StoreSt) :
    (s.onStore f).pending = s.pending ∧ (s.onStore f).commits = s.commits ∧ (s.onStore f).free = s.free ∧ (s.onStore f).otn = s.otn ∧ (s.onStore f).fused = s.fused ∧ (s.onStore f).pins = s.pins ∧ (s.onStore f).stk = s.stk ∧ (s.onStore f).clk = s.clk ∧ (s.onStore f).root = s.root ∧ (s.onStore f).cmd = s.cmd ∧ (s.onStore f).ev = s.ev ∧ (s.onStore f).anvil = s.anvil ∧ (s.onStore f).rows = s.rows ∧ (s.onStore f).cont = s.cont ∧ (s.onStore f).diag = s.diag ∧ (s.onStore f).prot = s.prot ∧ (s.onStore f).fab = s.fab ∧ (s.onStore f).tx = s.tx ∧ (s.onStore f).rx = s.rx ∧ (s.onStore f).cli = s.cli ∧ (s.onStore f).grm = s.grm ∧ (s.onStore f).sec = s.sec ∧ (s.onStore f).opt = s.opt ∧ (s.onStore f).mode = s.mode ∧ (s.onStore f).boot = s.boot ∧ (s.onStore f).keys = s.keys ∧ (s.onStore f).pm = s.pm ∧ (s.onStore f).integ = s.integ :=
  ⟨rfl, rfl, rfl, rfl, rfl, rfl, rfl, rfl, rfl, rfl, rfl, rfl, rfl, rfl, rfl, rfl, rfl, rfl, rfl, rfl, rfl, rfl, rfl, rfl, rfl, rfl, rfl, rfl⟩
@[simp] theorem State.onPm_self (s : State) (f : PmSt → PmSt) : (s.onPm f).pm = f s.pm := rfl
@[simp] theorem State.onPm_rest (s : State) (f : PmSt → PmSt) :
    (s.onPm f).pending = s.pending ∧ (s.onPm f).commits = s.commits ∧ (s.onPm f).free = s.free ∧ (s.onPm f).otn = s.otn ∧ (s.onPm f).fused = s.fused ∧ (s.onPm f).pins = s.pins ∧ (s.onPm f).stk = s.stk ∧ (s.onPm f).clk = s.clk ∧ (s.onPm f).root = s.root ∧ (s.onPm f).cmd = s.cmd ∧ (s.onPm f).ev = s.ev ∧ (s.onPm f).anvil = s.anvil ∧ (s.onPm f).rows = s.rows ∧ (s.onPm f).cont = s.cont ∧ (s.onPm f).diag = s.diag ∧ (s.onPm f).prot = s.prot ∧ (s.onPm f).fab = s.fab ∧ (s.onPm f).tx = s.tx ∧ (s.onPm f).rx = s.rx ∧ (s.onPm f).cli = s.cli ∧ (s.onPm f).grm = s.grm ∧ (s.onPm f).sec = s.sec ∧ (s.onPm f).opt = s.opt ∧ (s.onPm f).mode = s.mode ∧ (s.onPm f).boot = s.boot ∧ (s.onPm f).keys = s.keys ∧ (s.onPm f).store = s.store ∧ (s.onPm f).integ = s.integ :=
  ⟨rfl, rfl, rfl, rfl, rfl, rfl, rfl, rfl, rfl, rfl, rfl, rfl, rfl, rfl, rfl, rfl, rfl, rfl, rfl, rfl, rfl, rfl, rfl, rfl, rfl, rfl, rfl, rfl⟩
@[simp] theorem State.onInteg_self (s : State) (f : IntegSt → IntegSt) : (s.onInteg f).integ = f s.integ := rfl
@[simp] theorem State.onInteg_rest (s : State) (f : IntegSt → IntegSt) :
    (s.onInteg f).pending = s.pending ∧ (s.onInteg f).commits = s.commits ∧ (s.onInteg f).free = s.free ∧ (s.onInteg f).otn = s.otn ∧ (s.onInteg f).fused = s.fused ∧ (s.onInteg f).pins = s.pins ∧ (s.onInteg f).stk = s.stk ∧ (s.onInteg f).clk = s.clk ∧ (s.onInteg f).root = s.root ∧ (s.onInteg f).cmd = s.cmd ∧ (s.onInteg f).ev = s.ev ∧ (s.onInteg f).anvil = s.anvil ∧ (s.onInteg f).rows = s.rows ∧ (s.onInteg f).cont = s.cont ∧ (s.onInteg f).diag = s.diag ∧ (s.onInteg f).prot = s.prot ∧ (s.onInteg f).fab = s.fab ∧ (s.onInteg f).tx = s.tx ∧ (s.onInteg f).rx = s.rx ∧ (s.onInteg f).cli = s.cli ∧ (s.onInteg f).grm = s.grm ∧ (s.onInteg f).sec = s.sec ∧ (s.onInteg f).opt = s.opt ∧ (s.onInteg f).mode = s.mode ∧ (s.onInteg f).boot = s.boot ∧ (s.onInteg f).keys = s.keys ∧ (s.onInteg f).store = s.store ∧ (s.onInteg f).pm = s.pm :=
  ⟨rfl, rfl, rfl, rfl, rfl, rfl, rfl, rfl, rfl, rfl, rfl, rfl, rfl, rfl, rfl, rfl, rfl, rfl, rfl, rfl, rfl, rfl, rfl, rfl, rfl, rfl, rfl, rfl⟩

end Sys2Proof.Machine
end

