-- ==== Sys2Proof/WellFormed.lean ====
section
/-! DEFINITION. Well-formed commands: operands that name a unit the device has and packets of a length that the spec admits. No meaning rests on these checks;
a command outside them changes nothing or is refused by the rules themselves. -/

namespace Sys2Proof

/-- A command packet has at most 4,096 words: header, parameters, authentication block and CRC (R67). -/
def reqWf (rq : Req) : Bool := decide (5 + rq.params.length + (if rq.mac.isSome then 6 else 0) ≤ 4096)

/-- A packet as a transport delivers it: 5 to 4,096 words (R67). -/
def packetWf (ws : List W32) : Bool := decide (5 ≤ ws.length) && decide (ws.length ≤ 4096)

/-- A control-channel envelope has 3 to 4,099 words (R193). -/
def envWf (ws : List W32) : Bool := decide (3 ≤ ws.length) && decide (ws.length ≤ 4099)

/-- Protection groups G0–G1023 (R150). -/
def groupWf (g : Nat) : Bool := decide (g < 1024)

/-- Containers 0–16,383 (R123), and the monitors of a group (R155). -/
def sinkWf : SinkKind → Nat → Bool
  | .cont, c => decide (c < 16384)
  | .working, g => groupWf g
  | .protect, g => groupWf g

/-- Client lanes 0–47 and fabric lanes 64–159 (R296). -/
def laneWf (n : Nat) : Bool := decide (n < 48) || (decide (64 ≤ n) && decide (n < 160))

/-- Client ports 0–47 (R297). -/
def portWf (p : Nat) : Bool := decide (p < 48)

/-- Grooming slots 0–1,023 (R337). -/
def slotWf (k : Nat) : Bool := decide (k < 1024)

/-- A link row brings 3,400 symbols of 10 bits on each of its eight or six lanes (R309), or has not arrived. -/
def linkRowWf (r : LinkRow) : Bool :=
  r.missing || ((decide (r.lanes.length = 8) || decide (r.lanes.length = 6)) && r.lanes.all fun l => decide (l.1 < 8) && decide (l.2.length = 3400) && l.2.all fun v => decide (v < 1024))

/-- The slices of an OTUCn frame have 15,296 bytes each (R277). -/
def otucWf (f : OtucFrame) : Bool := f.slices.all fun l => decide (l.length = 15296)

/-- The client ports of a row exist. -/
def rowInWf (x : RowIn) : Bool := x.client.all fun c => portWf c.port

/-- The command is well-formed. -/
def Instr.wellFormed : Instr → Bool
  | .rstnLow _ => true
  | .rstnRelease => true
  | .perstNAssert => true
  | .perstNRelease => true
  | .powerLoss _ => true
  | .railFault _ _ _ => true
  | .thermTrip _ _ => true
  | .thermWarn _ _ => true
  | .pllUnlock _ => true
  | .severeFaultClear _ _ => true
  | .jtagInstructionLoad _ => true
  | .strkInEdge _ => true
  | .rowTick x => rowInWf x
  | .strokeBoundary x => rowInWf x.row
  | .refFail _ _ => true
  | .refWtrClear _ => true
  | .clockLock => true
  | .acqTimeout => true
  | .historyValid => true
  | .holdoverExpired => true
  | .lostListExpiry => true
  | .rootCandidateTimeout => true
  | .cmdTailDoorbell _ _ => true
  | .cmdSizeWrite _ _ => true
  | .rplSizeWrite _ _ => true
  | .rplHeadWrite _ _ => true
  | .cmdFlush _ => true
  | .rplFlush _ => true
  | .intStatusW1c _ => true
  | .bar0RegisterWrite _ _ => true
  | .pciePacketFetch _ ws _ => packetWf ws
  | .replyRingWrite _ => true
  | .pktWrite _ => true
  | .rplRead _ => true
  | .statusRead => true
  | .flush _ => true
  | .spiBad _ => true
  | .commandTake => true
  | .fabricReplyRx ws => packetWf ws
  | .fwdTimeout => true
  | .echo rq => reqWf rq
  | .capsRead rq => reqWf rq
  | .sysStatusRead rq => reqWf rq
  | .queueStatusRead rq => reqWf rq
  | .queueCfg rq => reqWf rq
  | .queueFlush rq => reqWf rq
  | .accessPolicyRead rq => reqWf rq
  | .accessPolicyWrite rq => reqWf rq
  | .intClear rq => reqWf rq
  | .strokeRead rq => reqWf rq
  | .strokeSet rq => reqWf rq
  | .strokeCfg rq => reqWf rq
  | .strokeJoin rq => reqWf rq
  | .refCfg rq => reqWf rq
  | .refStatusRead rq => reqWf rq
  | .refForce rq => reqWf rq
  | .clkCfg rq => reqWf rq
  | .commitListRead rq => reqWf rq
  | .commitCancel rq => reqWf rq
  | .mapWrite rq => reqWf rq
  | .mapCommit rq => reqWf rq
  | .mapSync rq => reqWf rq
  | .mapSyncDone => true
  | .mapRead rq => reqWf rq
  | .mapStatusRead rq => reqWf rq
  | .contCfg rq => reqWf rq
  | .contRead rq => reqWf rq
  | .contStatusRead rq => reqWf rq
  | .containerFrameRx sink n rho => sinkWf sink n && decide (rho < 125)
  | .baCfg rq => reqWf rq
  | .baRead rq => reqWf rq
  | .testRead rq => reqWf rq
  | .errInject rq => reqWf rq
  | .pgCfg rq => reqWf rq
  | .pgRead rq => reqWf rq
  | .pgStatusRead rq => reqWf rq
  | .pgCmd rq => reqWf rq
  | .alnRealign rq => reqWf rq
  | .alnStatusRead rq => reqWf rq
  | .pgSummaryRead rq => reqWf rq
  | .pgHoldoffExpiry g _ => groupWf g
  | .pgWtrExpiry g => groupWf g
  | .dfopPm g => groupWf g
  | .dfopNr g => groupWf g
  | .fabLinkRowRx _ row => linkRowWf row
  | .fabHuntTimeout _ => true
  | .envelopeTransmit _ => true
  | .helloRx _ ws => envWf ws
  | .helloSend _ => true
  | .helloLoss _ => true
  | .lspRx _ ws => envWf ws
  | .lspOriginate => true
  | .lspAgeing => true
  | .routeRecompute => true
  | .addrWaitEnd => true
  | .addrClaimed => true
  | .polastEnvelopeRx _ ws => envWf ws
  | .broadcastRecordExpiry => true
  | .pathHopRx _ ws => envWf ws
  | .fabCfg rq => reqWf rq
  | .fabStatusRead rq => reqWf rq
  | .fabPortCfg rq => reqWf rq
  | .fabPortStatusRead rq => reqWf rq
  | .fabRouteRead rq => reqWf rq
  | .fabLsdbRead rq => reqWf rq
  | .fabPathSet rq => reqWf rq
  | .txCfg rq => reqWf rq
  | .txRead rq => reqWf rq
  | .txStatusRead rq => reqWf rq
  | .txPreemph rq => reqWf rq
  | .txPreemphRead rq => reqWf rq
  | .lineBondCfg rq => reqWf rq
  | .txCalCfg rq => reqWf rq
  | .txCalRead rq => reqWf rq
  | .txLaserWaitEnd _ => true
  | .txRampDone _ => true
  | .calLimit _ loop => decide (loop ≤ 8)
  | .sliceRetire _ _ _ _ => true
  | .rxCfg rq => reqWf rq
  | .rxRead rq => reqWf rq
  | .rxStatusRead rq => reqWf rq
  | .rxQualityRead rq => reqWf rq
  | .rxCalRead rq => reqWf rq
  | .rxReacquire rq => reqWf rq
  | .drxlos _ _ _ => true
  | .drxlosClear _ _ _ => true
  | .cdScanDone _ _ => true
  | .headerCandidate _ _ => true
  | .headerWindowEnd _ _ => true
  | .huntTimeout _ => true
  | .cdTrackLimit _ => true
  | .codewordDecode _ cw => decide (cw.phase < 4096)
  | .otucFrameTx _ _ => true
  | .otucFrameRx _ fr => otucWf fr
  | .dlof _ => true
  | .dlom _ => true
  | .rowBlockRx _ slice => decide (slice < 32)
  | .lineOhCfg rq => reqWf rq
  | .lineOhRead rq => reqWf rq
  | .lineTtiWrite rq => reqWf rq
  | .lineTtiRead rq => reqWf rq
  | .lineOtnStatusRead rq => reqWf rq
  | .lineFecStatusRead rq => reqWf rq
  | .lineRealign rq => reqWf rq
  | .clPortCfg rq => reqWf rq
  | .clPortRead rq => reqWf rq
  | .clPortStatusRead rq => reqWf rq
  | .flexoTribCfg rq => reqWf rq
  | .flexoTribRead rq => reqWf rq
  | .laneCfg rq => reqWf rq
  | .laneStatusRead rq => reqWf rq
  | .lanePrbsRead rq => reqWf rq
  | .dllos lane => laneWf lane
  | .trainingFrameRx _ _ => true
  | .trainTimeout _ => true
  | .laneTestEnd lane _ => laneWf lane
  | .clientFrameRx p _ _ => portWf p
  | .fluxDispatch => true
  | .fluxPass ctx => decide (ctx < 128)
  | .packetRetire p => portWf p
  | .fragAgeExpiry => true
  | .unpackFrame slot => slotWf slot
  | .egressMacTake p => portWf p
  | .groomCfg rq => reqWf rq
  | .groomRead rq => reqWf rq
  | .groomStatusRead rq => reqWf rq
  | .slotCfg rq => reqWf rq
  | .slotRead rq => reqWf rq
  | .slotStatusRead rq => reqWf rq
  | .progWrite rq => reqWf rq
  | .ruleWrite rq => reqWf rq
  | .ruleCommit rq => reqWf rq
  | .ruleSync rq => reqWf rq
  | .ruleSyncDone => true
  | .ruleRead rq => reqWf rq
  | .grmQueueCfg rq => reqWf rq
  | .grmQueueFlush rq => reqWf rq
  | .secCfg rq => reqWf rq
  | .secRead rq => reqWf rq
  | .secStatusRead rq => reqWf rq
  | .keyLoad rq => reqWf rq
  | .keySwitch rq => reqWf rq
  | .keyClear rq => reqWf rq
  | .secClearLoss rq => reqWf rq
  | .keStatusRead rq => reqWf rq
  | .keyLockGrant => true
  | .keyLockWaitExpiry => true
  | .keyLockTimeout => true
  | .drbgReseed _ => true
  | .entFail => true
  | .keFail => true
  | .hkCfg rq => reqWf rq
  | .hkRead rq => reqWf rq
  | .hkTrigger rq => reqWf rq
  | .hkResultRead rq => reqWf rq
  | .hkConversionDone _ entry _ => decide (entry < 16)
  | .outCfg rq => reqWf rq
  | .outRead rq => reqWf rq
  | .outStatusRead rq => reqWf rq
  | .blCfg rq => reqWf rq
  | .blRead rq => reqWf rq
  | .blStatusRead rq => reqWf rq
  | .blWindowEnd _ => true
  | .i2cCfg rq => reqWf rq
  | .i2cXfer rq => reqWf rq
  | .i2cXferDone _ r => decide (r.units.length ≤ 514)
  | .optStatusRead rq => reqWf rq
  | .modeSet rq => reqWf rq
  | .quench rq => reqWf rq
  | .quenchExit rq => reqWf rq
  | .modeCfg rq => reqWf rq
  | .modeStatusRead rq => reqWf rq
  | .faultAck rq => reqWf rq
  | .lockstepMiscompare _ => true
  | .coreSelfTestDone _ _ => true
  | .depthSettled => true
  | .romStartDone => true
  | .imageLoadDone _ => true
  | .fwStartDone badBanks => badBanks.all fun b => decide (b < 34)
  | .kindleCalibrationDone => true
  | .restoreDone => true
  | .bootStatusRead rq => reqWf rq
  | .imageStage rq => reqWf rq
  | .bootExec rq => reqWf rq
  | .imageInstall rq => reqWf rq
  | .imageInstallDone => true
  | .rollbackAdvance rq => reqWf rq
  | .signerSlotProgram rq => reqWf rq
  | .signerRevoke rq => reqWf rq
  | .sysRestart rq => reqWf rq
  | .sysRestartPulse => true
  | .pkSet rq => reqWf rq
  | .authKeyLoad rq => reqWf rq
  | .tkLoad rq => reqWf rq
  | .keySlotsRead rq => reqWf rq
  | .idRead rq => reqWf rq
  | .attest rq => reqWf rq
  | .attestDone => true
  | .store rq => reqWf rq
  | .storeDone => true
  | .storeStatusRead rq => reqWf rq
  | .profileRestore rq => reqWf rq
  | .profileErase rq => reqWf rq
  | .profileEraseDone => true
  | .faultRead rq => reqWf rq
  | .faultExport rq => reqWf rq
  | .retireRead rq => reqWf rq
  | .goldRestore table _ => decide (table ≤ 10)
  | .busDecerr _ _ => true
  | .arbWdog requester _ => decide (requester < 5)
  | .evcRead rq => reqWf rq
  | .pmRead rq => reqWf rq
  | .pmSnap rq => reqWf rq
  | .winCfg rq => reqWf rq
  | .winRead rq => reqWf rq
  | .evtMaskWrite rq => reqWf rq
  | .evtMaskRead rq => reqWf rq
  | .evtPop rq => reqWf rq
  | .integStatusRead rq => reqWf rq
  | .arbCfg rq => reqWf rq
  | .powerUp => true
  | .dloa p _ => portWf p
  | .entropyRestartPass => true
  | .rollbackAdvanceDone => true
  | .debugPortAccess => true

end Sys2Proof
end

