-- ==== Sys2Proof/Tests/Slice0.lean ====
section
/-! SUPPORT. The model's own tests: an ill-formed command for each check of WellFormed, single effects with values taken from the spec, and a state with operands for each clause of each
statement that has hypotheses. -/

set_option Elab.async false

namespace Sys2Proof.Tests

open Sys2Proof Sys2Proof.Machine

/-! ### States and operands -/

/-- Firmware runs in KINDLE at READY, a second after its start. -/
def W : State := (State.reset.onStk fun v => { v with scnt := 50010#48, run := 50010 }).onBoot fun v => { v with rom := false, stage := .ready, source := 1 }
/-- A request on CQ0 for the next row 0. -/
def R (ws : List W32) : Req := { params := ws }
def packetOf (ws : List W32) : List W32 := ws ++ [crcWords ws]
def echoPacket : List W32 := packetOf [0x10000000#32, 0x00010000#32, 0x00280000#32, 0#32]
def Wiso : State := W.onRoot fun v => { v with isRoot := true }
def Wforeign : State := W.onRoot fun v => { v with foreign := [0] }
def Wkey : State := W.onSec fun v => { v with ctx := [(7, { key1 := some 1#256 })] }
def Wquench : State := W.onMode fun v => { v with mode := .quench, origin := .quench }
def Wsvn : State := W.onBoot fun v => { v with runSvn := 1#8 }
def Wprofile : State := W.onStore fun v => { v with slotA := some {} }
def Wcont (c : Nat) (w : W32) : State := W.onCont fun v => { v with table := [(c, { w0 := w })] }
def Waligned : State := W.onProt fun v => { v with grp := [(5, { w := { snk := { inFrame := true } }, p := { snk := { inFrame := true } } })] }
def Wrx : State :=
  (W.onRx fun v => { v with eng := [(3, { cfg := [0x8402B400#32, 0x0000C804#32, 0x61240000#32, 0#32, 0#32] })] }).onOtn fun _ => [(1, { inFrame := true })]
def Wpath : State := W.onFab fun v => { v with nodeAddr := 1#12, port := [(0, { state := .up, adj := .twoWay, nbrAddr := 2#12 })] }
def Wport (x : PortSt) : State := W.onFab fun v => { v with nodeAddr := 1#12, port := [(11, x)] }
def Wgroup (x : GroupSt) : State := W.onProt fun v => { v with cfg := [(5, [0x90001000#32])], grp := [(5, x)] }
def Wrx0 (x : RxSt) : State := W.onRx fun v => { v with eng := [(0, x)] }
def Wline (x : OtnSt) : State := (Wrx0 { state := .locked }).onOtn fun _ => [(0, x)]
def Werrorless (play : Option Nat) : State := W.onProt fun v => { v with cfg := [(5, [0xC0001000#32])], grp := [(5, { w := { snk := { inFrame := true } }, play := play })] }
def Wretired : State := W.onTx fun v => { v with eng := [(3, { retired := true })] }
def Wgroomed (p : Nat) : State := W.onCli fun v => { v with portCfg := [(p, 0xC1000000#32)] }
def trainFrame : List W32 := packetOf [0xF0F0F0F0#32, 0x0F0F0F0F#32, 0x10000000#32, 0#32, 0#32, 0#32, 0#32]
/-- Every engine's calibration has shown its error since enough strokes. -/
def Wcal : State := (W.onTx fun v => { v with eng := (List.range 4).map fun e => (e, { calRun := [(6, 50), (7, 50), (8, 50)] }) }).onRx
  fun v => { v with eng := (List.range 4).map fun e => (e, { calRun := [(0, 50)] }) }
/-- A signal of one symbol, at which the last symbol of the correlation part would stand for offset 256. -/
def onePoint : Peak := { wave := { first := 767, x := [(1, 0)] } }
def onePointStream : Stream := { first := 767, syms := [((1, 0), (0, 0))], dfs := [0] }
theorem onePoint_stream : streamOf none 0 onePoint.wave = onePointStream := by
  have h : (streamOf none 0 onePoint.wave).syms = [((1, 0), (0, 0))] ∧ (streamOf none 0 onePoint.wave).dfs = [0] := by decide +kernel
  show Stream.mk _ _ _ = Stream.mk _ _ _
  rw [← h.1, ← h.2]
  rfl
theorem corrSeq_length (y : Bool) : (corrSeq y).length = 512 := by cases y <;> decide +kernel
theorem corrSeq_last : (corrSeq false).drop 495 = [(-1, 1), (1, 1), (-1, -1), (1, -1), (-1, -1), (-1, 1), (-1, 1), (-1, -1), (1, 1), (-1, 1), (-1, -1), (1, 1), (1, -1),
      (-1, -1), (-1, 1), (-1, 1), (-1, -1)]
    ∧ (corrSeq true).drop 495 = [(-1, 1), (1, -1), (1, 1), (-1, -1), (1, 1), (1, 1), (-1, -1), (-1, -1), (1, -1), (-1, 1), (-1, 1), (-1, 1), (1, 1), (-1, 1), (1, 1), (-1, -1),
      (1, -1)] := by decide +kernel
theorem onePoint_outside (t : Int) (h : t ≤ 255) : metricAt onePointStream t = 0 := by
  have e : 512 ≤ ((767 : Int) - t).toNat := by omega
  simp only [metricAt, metric, onePointStream, List.drop_eq_nil_of_le (Nat.le_trans (Nat.le_of_eq (corrSeq_length _)) e), correlate, List.zipWith_nil_right]
  rfl
theorem onePoint_inside (j : Nat) (h : j < 17) : metricAt onePointStream (272 - (j : Int)) = 4 := by
  have e : ((767 : Int) - (272 - (j : Int))).toNat = 495 + j := by omega
  have z : (272 - (j : Int) - 767).toNat = 0 := by omega
  simp only [metricAt, metric, onePointStream, e, z, ← List.drop_drop, corrSeq_last.1, corrSeq_last.2]
  interval_cases j <;> decide
theorem onePoint_peak : metricAt onePointStream 256 = 4 := onePoint_inside 16 (by omega)
theorem onePoint_view : peakView 0 onePoint.wave = { pfr := (8192, 0), df := 0, largest := true } := by
  have p : pfrAt onePointStream 256 = (8192, 0) := by
    have z : ∀ l : List Nat, (l.map fun (k : Nat) => metricAt onePointStream ((256 : Int) - 1 - (k : Int))).sum = 0 := fun l => by induction l with
      | nil => rfl
      | cons k l ih => rw [List.map_cons, List.sum_cons, ih, onePoint_outside _ (by omega)]
    unfold pfrAt
    rw [onePoint_peak]
    exact congrArg (Prod.mk 8192) (z _)
  have l : ((List.range 33).all fun i => decide (metricAt onePointStream (240 + (i : Int)) ≤ metricAt onePointStream 256)) = true := by
    rw [List.all_eq_true]
    intro i hi
    rw [decide_eq_true_eq, onePoint_peak]
    have := List.mem_range.mp hi
    by_cases c : i ≤ 15
    · rw [onePoint_outside _ (by omega)]; omega
    · have := onePoint_inside (32 - i) (by omega)
      rw [show (240 + (i : Int)) = 272 - ((32 - i : Nat) : Int) by omega, this]
  show PeakView.mk (pfrAt (streamOf none 0 onePoint.wave) 256) _ _ = _
  rw [onePoint_stream, p]
  exact congrArg (PeakView.mk (8192, 0) 0) l
theorem onePoint_qualifies : startCal (Wrx0 { state := .hunt }) = false ∧ (rxEng (Wrx0 { state := .hunt }) 0).state = .hunt ∧ (peakView (rxEng (Wrx0 { state := .hunt }) 0).afc onePoint.wave).largest = true
    ∧ reaches (peakView (rxEng (Wrx0 { state := .hunt }) 0).afc onePoint.wave).pfr (rcHuntThr (rxEng (Wrx0 { state := .hunt }) 0).cfg) 2 = true
    ∧ freqWithin (Wrx0 { state := .hunt }) 0 (peakView (rxEng (Wrx0 { state := .hunt }) 0).afc onePoint.wave).df 4000000 = true := by
  have a : (rxEng (Wrx0 { state := .hunt }) 0).afc = 0 := rfl
  rw [a, onePoint_view]
  exact ⟨by decide +kernel, rfl, rfl, by simp [reaches, fxOne], by simp [freqWithin]⟩
def Wslot (bs : List Byte) (bad : Bool) : State := (W.onGrm fun v => { v with slotCfg := [(3, (0x800C0001#32, 0#32))] }).onCont fun v => { v with snk := [(12, { frames := [(bs, bad)] })] }
def Wflexo (x : OtnSt) : State := W.onCli fun v => { v with portCfg := [(47, 0xA1000000#32)], port := [(47, { otn := [(0, x)] })] }
def Wbits (x : OtnSt) : State :=
  (Wrx0 { state := .locked, cfg := [0x01000000#32] }).onOtn fun _ => [(0, { x with rxBits := List.replicate 122423 (false, false) })]
theorem Wbits_rate (x : OtnSt) : rxRate (Wbits x) 0 = 1 :=
  have h : ∀ l, rxRate ((Wrx0 { state := .locked, cfg := [0x01000000#32] }).onOtn fun _ => l) 0 = rxRate (Wrx0 { state := .locked, cfg := [0x01000000#32] }) 0 := fun _ => rfl
  (h _).trans (by decide +kernel)
theorem Wbits_bits (x : OtnSt) : (otnOf (Wbits x) 0).rxBits.length = 122423 := List.length_replicate ..
def goodHeader : List (Nat × W32) :=
  [(0, 0x41544746#32), (1, 1#32), (3, 0#32), (4, 0#32), (5, 0#32), (114, 65537#32), (123, 0#32), (124, 0#32), (125, 0#32), (126, 0#32), (127, 0#32)]
/-- A queue of a forwarding record that has no room. -/
def fullQueue : List (Nat × List (List W32)) := [(0, [List.replicate 8192 0#32])]
/-- An ECHO with an authentication block of key slot 0 and sequence number 1, signed with `k`. -/
def echoHead : List W32 := [0x12000000#32, 0x00010000#32, 0x00580000#32, 0#32, 0#32, 1#32]
def signedEcho (k : BitVec 256) : List W32 := echoHead ++ macOver k 0xFFFFF000#32 echoHead ++ [crcWords (echoHead ++ macOver k 0xFFFFF000#32 echoHead)]
def Wak (seq : W48) : State := W.onKeys fun v => { v with ak := [(0, { key := some 5#256, level := 3, seq := seq })] }

/-! ### Well-formedness: one ill-formed command for each check -/

theorem test_wf_request_length : (Instr.echo (R (List.replicate 4092 0#32))).wellFormed = false := by decide +kernel
theorem test_wf_packet : (Instr.pciePacketFetch 0 [0#32] ⟨true, .alone⟩).wellFormed = false ∧ (Instr.fabricReplyRx []).wellFormed = false := by decide
theorem test_wf_envelope : (Instr.helloRx 0 [0#32]).wellFormed = false ∧ (Instr.lspRx 0 []).wellFormed = false ∧ (Instr.polastEnvelopeRx 0 []).wellFormed = false
    ∧ (Instr.pathHopRx 0 []).wellFormed = false := by decide
theorem test_wf_group : (Instr.pgHoldoffExpiry 1024 true).wellFormed = false ∧ (Instr.pgWtrExpiry 1024).wellFormed = false ∧ (Instr.dfopPm 1024).wellFormed = false
    ∧ (Instr.dfopNr 1024).wellFormed = false := by decide
theorem test_wf_sink : (Instr.containerFrameRx .cont 16384 0).wellFormed = false ∧ (Instr.containerFrameRx .working 1024 0).wellFormed = false
    ∧ (Instr.containerFrameRx .protect 1024 0).wellFormed = false ∧ (Instr.containerFrameRx .cont 0 125).wellFormed = false := by decide
theorem test_wf_lane : (Instr.dllos 48).wellFormed = false ∧ (Instr.laneTestEnd 160 true).wellFormed = false := by decide
theorem test_wf_port : (Instr.clientFrameRx 48 [] false).wellFormed = false ∧ (Instr.packetRetire 48).wellFormed = false ∧ (Instr.egressMacTake 48).wellFormed = false
    ∧ (Instr.dloa 48 true).wellFormed = false := by decide
theorem test_wf_row : (Instr.rowTick { client := [{ port := 48, bytes := [] }] }).wellFormed = false ∧ (Instr.strokeBoundary { row := { client := [{ port := 48, bytes := [] }] } }).wellFormed = false := by decide
theorem test_wf_link_row : (Instr.fabLinkRowRx 0 { lanes := [] }).wellFormed = false := by decide
theorem test_wf_otuc_frame : (Instr.otucFrameRx (.line 0) { slices := [[]] }).wellFormed = false := by decide +kernel
theorem test_wf_slot : (Instr.unpackFrame 1024).wellFormed = false := by decide
theorem test_wf_context : (Instr.fluxPass 128).wellFormed = false := by decide
theorem test_wf_small_numbers : (Instr.calLimit 0 9).wellFormed = false ∧ (Instr.codewordDecode 0 { phase := 4096 }).wellFormed = false
    ∧ (Instr.rowBlockRx 0 32).wellFormed = false ∧ (Instr.hkConversionDone 0 16 []).wellFormed = false ∧ (Instr.i2cXferDone 0 { units := List.replicate 515 {} }).wellFormed = false ∧ (Instr.fwStartDone [34]).wellFormed = false
    ∧ (Instr.goldRestore 11 0).wellFormed = false ∧ (Instr.arbWdog 5 false).wellFormed = false := by decide +kernel

/-! ### Values that the spec states -/

/-- R69: the CRC-32C of "123456789" is 0xE3069283. -/
theorem test_crc32c_check_value : crc32c ([0x31, 0x32, 0x33, 0x34, 0x35, 0x36, 0x37, 0x38, 0x39].map (BitVec.ofNat 8)) = 0xE3069283#32 := by decide +kernel

/-- 00_scope, example: the CAPS of an ATG-3208-N at stepping 1. -/
theorem test_caps_of_atg3208n : capsWords { State.reset with fused := { partCode := 0x3208#16, secPresent := false } } = [0x32081002#32, 0xFFFFFF0F#32, 0x000C3003#32] := by
  decide +kernel

/-- 03, example: node 677 executes the forwarded CAPS_READ in stroke 7,200,123 and replies to node 19. -/
theorem test_caps_read_of_node_677 :
    (match exec .commandTake (((W.onStk fun v => { v with scnt := 7200123#48 }).onFab fun v => { v with nodeAddr := 677#12 }).onCmd
        fun v => { v with cq := [(5, [packetOf [0x102A5013#32, 0x00020031#32, 0x00280000#32, 0#32]])] }) with
      | .next t => rqOf t 5
      | _ => [])
      = [packetOf [0x1C0132A5#32, 0x00020031#32, 0x00480000#32, 0x006DDD7B#32, 0#32, 0x32161007#32, 0xFFFFFFFF#32, 0x000C300F#32]] := by decide +kernel

/-- 06, example: A's write equals a RUN MAP_WRITE with base entry 0x420D0400, B's 0x70FA0400 and C's 0xB8FA0400. -/
theorem test_path_set_entries : (List.range 3).map (fun k => pathEntry
    (R [0x580003E8#32, 0x06421068#32, 0x000447D0#32, 0x0DC387D0#32, 0x0004C7D0#32, 0x12D5C7D0#32, 0x00024000#32]) k 0) = [0x420D0400#32, 0x70FA0400#32, 0xB8FA0400#32] := by decide +kernel

/-- 07, example: Rs is 189.362 GBd, and the ramp of 10 ms has 62,500 rows. -/
theorem test_tx_cfg_example : (let r := symbolRate 1 12 (lcEntropy [0xAC014000#32]) false; fracGe r 189361500 && fracLe r 189362500) = true
    ∧ rampRows [0xAC014000#32, 0x1430D400#32, 0x28000000#32] = 62500 := by decide +kernel

/-- 04, example: CONT_CFG of C12 is accepted and waits for its stroke, with OK in the reply. -/
theorem test_cont_cfg_example :
    (match exec (.contCfg { R [12#32, 0xC0010000#32, 0x0A120B12#32, 0x1D4C7001#32, 0x00011068#32, 0x40001067#32] with cmt := true, commit := 5000000#48 }) W with
      | .next t => (t.commits.map fun c => (c.stroke, c.opcode), (rqOf t 0).map fun p => p.getD 4 0#32)
      | _ => ([], [])) = ([(some 5000000#48, 0x0210)], [0#32]) := by decide +kernel

/-- R34, example: after row 0 of stroke 2,000,000 has begun, MAP_COMMIT with that stroke gets STROKE_PAST and nothing waits. -/
theorem test_map_commit_too_late :
    (match exec (.mapCommit { R [] with cmt := true, commit := 2000000#48 }) (W.onStk fun v => { v with scnt := 2000000#48, row := 1 }) with
      | .next t => (t.commits.length, (rqOf t 0).map fun p => fld (p.getD 4 0#32) 31 16)
      | _ => (1, [])) = (0, [Status.strokePast.code]) := by decide +kernel

/-- No row of the opcode table has bits. -/
theorem test_no_word_spells_a_command (n w : Nat) : decodeTableWord n w = none ∧ State.reset.withFetchWord n w = State.reset := ⟨rfl, rfl⟩

/-! ### Witnesses of the statements about commands in general -/

theorem witness_StepRunsTheFrontCommand : State.reset.pending = [] := rfl
theorem witness_ReplyHasTheFormOfR72 : ∃ (opcode : Nat) (r : Rej) (res : List W32), opcode < 65536 ∧ r.detail < 65536 ∧ res.length ≤ 4084 :=
  ⟨65535, { st := .badParam, detail := 65535 }, List.replicate 4084 0#32, by decide +kernel⟩
theorem witness_PacketsSpellTheirCommand :
    (∃ (opcode : Nat) (rq : Req), opcode < 65536 ∧ rq.mac = none ∧ rq.params.length ≤ (if rq.mac.isSome then 4085 else 4091))
    ∧ ∃ (opcode : Nat) (rq : Req) (m : MacInfo), opcode < 65536 ∧ rq.mac = some m ∧ rq.params.length ≤ (if rq.mac.isSome then 4085 else 4091) :=
  ⟨⟨65535, R (List.replicate 4091 0#32), by decide +kernel⟩, 65535, { R (List.replicate 4085 0#32) with mac := some { slot := 0, seq := 1#48 } }, { slot := 0, seq := 1#48 },
    by decide +kernel⟩
theorem witness_IsCommand : IsCommand (opEcho, .echo) ∧ IsCommand (opCapsRead, .capsRead) := by
  simp [IsCommand, IsCommandSystem]
theorem no_code (l : List (OpInfo × (Req → Instr))) (h : (l.all fun e => e.1.code != 0xFFFF) = true) : ∀ e ∈ l, e.1.code ≠ 0xFFFF := by
  intro e he; simpa using List.all_eq_true.mp h e he
theorem witness_DispatchRunsEachOpcode_unassigned : ∃ code : Nat, ∀ e, IsCommand e → e.1.code ≠ code := by
  refine ⟨0xFFFF, fun e h => ?_⟩
  rcases h with h | h | h | h | h | h | h | h | h | h | h | h | h | h | h | h | h <;> exact no_code _ rfl e h
theorem signedEcho_verifies (k : BitVec 256) : cmacOk k (signedEcho k) = true := by
  have h : (macOver k 0xFFFFF000#32 echoHead).length = 4 := rfl
  have e : ∀ (m : List W32) (c : W32), m.length = 4 → (echoHead ++ m ++ [c]).length - 5 = 6 ∧ (echoHead ++ m ++ [c]).take 6 = echoHead
      ∧ ((echoHead ++ m ++ [c]).drop 6).take 4 = m := by
    intro m c hm
    match m, hm with
    | [_, _, _, _], _ => exact ⟨rfl, rfl, rfl⟩
  obtain ⟨e1, e2, e3⟩ := e _ (crcWords (echoHead ++ macOver k 0xFFFFF000#32 echoHead)) h
  unfold cmacOk signedEcho
  rw [e1, e2, e3, decide_eq_true_eq]
/-- Every clause: a good packet, an empty slot, no CMAC, an old sequence number. -/
theorem witness_AuthenticationIsChecked :
    (∃ (ws : List W32) (s : State) (k : BitVec 256), bit (ws.getD 0 0#32) 25 = true ∧ s.sec.keFailed = false ∧ (akOf s (macInfo ws).slot).key = some k
      ∧ cmacOk k ws = true ∧ (akOf s (macInfo ws).slot).seq.toNat < (macInfo ws).seq.toNat)
    ∧ (∃ (ws : List W32) (s : State), bit (ws.getD 0 0#32) 25 = true ∧ s.sec.keFailed = false ∧ (akOf s (macInfo ws).slot).key = none)
    ∧ (∃ (ws : List W32) (s : State) (k : BitVec 256), bit (ws.getD 0 0#32) 25 = true ∧ s.sec.keFailed = false ∧ (akOf s (macInfo ws).slot).key = some k ∧ cmacOk k ws = false)
    ∧ (∃ (ws : List W32) (s : State) (k : BitVec 256), bit (ws.getD 0 0#32) 25 = true ∧ s.sec.keFailed = false ∧ (akOf s (macInfo ws).slot).key = some k
      ∧ cmacOk k ws = true ∧ (macInfo ws).seq.toNat ≤ (akOf s (macInfo ws).slot).seq.toNat) :=
  ⟨⟨signedEcho 5#256, Wak 0#48, 5#256, rfl, rfl, rfl, signedEcho_verifies _, by decide +kernel⟩, ⟨[0x12000000#32], W, by decide +kernel⟩,
    ⟨[0x12000000#32], Wak 0#48, 5#256, by decide +kernel⟩, signedEcho 5#256, Wak 1#48, 5#256, rfl, rfl, rfl, signedEcho_verifies _, by decide +kernel⟩
/-- Every clause: the second queue in turn, no queue, a packet for the device itself, a device without power. -/
theorem witness_CommandTakeRunsThePacket :
    (∃ (q : Fin 6) (l m : List (Fin 6)) (ws : List W32) (r : List (List W32)) (s : State), alive s = true ∧ turns s = l ++ q :: m ∧ (∀ p ∈ l, takeFrom p s = none)
      ∧ s.cmd.busyCq.contains q.val = false ∧ cqOf s q = ws :: r ∧ roomLeft q s (runPacket q ws (cqPop q s)) = true)
    ∧ (∃ s : State, ∀ q, takeFrom q s = none)
    ∧ (∃ ws : List W32, pktTarget ws = 0 ∧ fld (ws.getD 0 0#32) 31 28 = 1 ∧ bit (ws.getD 0 0#32) 27 = false) ∧ ∃ s : State, alive s = false :=
  ⟨⟨1, [0], [2, 3, 4, 5], echoPacket, [], W.onCmd fun v => { v with cq := [(0, [echoPacket]), (1, [echoPacket])], busyCq := [0] }, by decide +kernel⟩,
    ⟨W, by decide +kernel⟩, ⟨[0x10000000#32], by decide⟩, W.onPins fun v => { v with rstnLow := true }, by decide +kernel⟩
theorem witness_NotAdmittedIsRefused : ∃ (rq : Req) (s : State), alive s = true ∧ s.mode.miscompare = false ∧ ¬ Admitted opCapsRead rq s :=
  ⟨R [], State.reset, by decide +kernel⟩
/-- Every clause: CQ5 has level USER-less access at reset, CQ4 is the last local queue of an unprovisioned device, CQ5 and a provisioned device. -/
theorem witness_LevelIsCheckedFirst :
    (∃ (rq : Req) (s : State), alive s = true ∧ packetLevel rq s < opcodeLevel opModeSet s) ∧ (∃ (rq : Req) (s : State), rq.mac = none ∧ rq.cq.val ≤ 4 ∧ provisioned s = false)
    ∧ (∃ (rq : Req) (s : State), rq.mac = none ∧ (rq.cq.val = 5 ∨ provisioned s = true)) ∧ ∃ (rq : Req) (s : State), rq.mac = none ∧ rq.cq.val ≤ 4 ∧ provisioned s = true :=
  ⟨⟨{ cq := 5 }, W, by decide +kernel⟩, ⟨{ cq := 4 }, W, by decide +kernel⟩, ⟨{ cq := 5 }, W, by decide +kernel⟩, { cq := 4 }, Wak 0#48, by decide +kernel⟩
/-- Every clause: RSTN low, a command outside the boot ROM's set while it serves, and one outside the set of QUENCH in QUENCH. -/
theorem witness_OnlyAcceptedOpcodesExecute :
    (∃ s : State, s.pins.rstnLow = true)
    ∧ (∃ (rq : Req) (s : State), alive s = true ∧ opcodeLevel opCapsRead s ≤ packetLevel rq s ∧ s.boot.rom = true ∧ opCapsRead.rom = false)
    ∧ ∃ (rq : Req) (s : State), alive s = true ∧ opcodeLevel opModeSet s ≤ packetLevel rq s ∧ s.boot.rom = false ∧ inQuench s = true ∧ opModeSet.q = false :=
  ⟨⟨W.onPins fun v => { v with rstnLow := true }, rfl⟩, ⟨R [], State.reset, by decide +kernel⟩, R [], Wquench, by decide +kernel⟩
/-- What every commit stroke of CommitStrokeIsChecked shares, for one of its opcodes. -/
abbrev CommitCase (o : OpInfo) (n : Nat) (rq : Req) (s : State) : Prop :=
  alive s = true ∧ opcodeLevel o s ≤ packetLevel rq s ∧ s.boot.rom = false ∧ inQuench s = false ∧ rq.rsv = 0#3 ∧ (rq.mac.all fun m => m.rsv = 0#13) = true
    ∧ rq.params.length = n ∧ rq.cmt = true
def at_ (ws : List W32) (n : W48) : Req := { R ws with cmt := true, commit := n }
def Wfull : State := Wforeign.onCommits fun _ => List.replicate 4096 { stroke := some 60000#48, opcode := opPmSnap.code }
/-- Every clause at its boundary: one stroke too far, a full table at the last stroke, the stroke in progress. -/
theorem witness_CommitStrokeIsChecked :
    (∃ rq s, CommitCase opPmSnap 0 rq s ∧ scnt s + 16777216 < rq.commit.toNat)
    ∧ (∃ rq s, CommitCase opPmSnap 0 rq s ∧ rq.commit.toNat ≤ scnt s + 16777216 ∧ 4096 ≤ pendingCount s)
    ∧ (∃ rq s, CommitCase opPmSnap 0 rq s ∧ rq.commit.toNat ≤ scnt s ∧ pendingCount s < 4096)
    ∧ (∃ rq s, CommitCase opStrokeJoin 0 rq s ∧ s.root.foreign.isEmpty = false ∧ scnt s + 16777216 < rq.commit.toNat)
    ∧ (∃ rq s, CommitCase opStrokeJoin 0 rq s ∧ s.root.foreign.isEmpty = false ∧ rq.commit.toNat ≤ scnt s + 16777216 ∧ 4096 ≤ pendingCount s)
    ∧ (∃ rq s, CommitCase opStrokeJoin 0 rq s ∧ s.root.foreign.isEmpty = false ∧ rq.commit.toNat ≤ scnt s ∧ pendingCount s < 4096)
    ∧ (∃ rq s, CommitCase opModeCfg 1 rq s ∧ rq.p 0 &&& ~~~0x80FF0FFF#32 = 0#32 ∧ (1 ≤ fld (rq.p 0) 23 16 ∧ 1 ≤ fld (rq.p 0) 11 0 ∧ fld (rq.p 0) 11 0 ≤ 3600)
      ∧ scnt s + 16777216 < rq.commit.toNat)
    ∧ (∃ rq s, CommitCase opModeCfg 1 rq s ∧ rq.p 0 &&& ~~~0x80FF0FFF#32 = 0#32 ∧ (1 ≤ fld (rq.p 0) 23 16 ∧ 1 ≤ fld (rq.p 0) 11 0 ∧ fld (rq.p 0) 11 0 ≤ 3600)
      ∧ rq.commit.toNat ≤ scnt s + 16777216 ∧ 4096 ≤ pendingCount s)
    ∧ ∃ rq s, CommitCase opModeCfg 1 rq s ∧ rq.p 0 &&& ~~~0x80FF0FFF#32 = 0#32 ∧ (1 ≤ fld (rq.p 0) 23 16 ∧ 1 ≤ fld (rq.p 0) 11 0 ∧ fld (rq.p 0) 11 0 ≤ 3600)
      ∧ rq.commit.toNat ≤ scnt s ∧ pendingCount s < 4096 :=
  ⟨⟨at_ [] 16827227#48, W, by decide +kernel⟩, ⟨at_ [] 16827226#48, Wfull, by decide +kernel⟩, ⟨at_ [] 50010#48, W, by decide +kernel⟩,
    ⟨at_ [] 16827227#48, Wforeign, by decide +kernel⟩, ⟨at_ [] 16827226#48, Wfull, by decide +kernel⟩, ⟨at_ [] 50010#48, Wforeign, by decide +kernel⟩,
    ⟨at_ [0x00010001#32] 16827227#48, W, by decide +kernel⟩, ⟨at_ [0x00010E10#32] 16827226#48, Wfull, by decide +kernel⟩, at_ [0x80FF0E10#32] 50010#48, W, by decide +kernel⟩
/-- Every clause: a command that a fault meets, and an ECHO, a MODE_CFG and an EVT_POP that would have executed. -/
theorem witness_InternalUndoesTheCommand : let s := W.onMode fun v => { v with miscompare := true }
    let a := s.onMode fun v => { v with miscompare := false }
    alive s = true ∧ s.mode.miscompare = true ∧ (∃ t, exec (.echo (R [])) s = .next t) ∧ Admitted opEcho (R []) a
    ∧ (∃ rq, Admitted opModeCfg rq a ∧ rq.params.length = 1 ∧ rq.p 0 &&& ~~~0x80FF0FFF#32 = 0#32 ∧ 1 ≤ fld (rq.p 0) 23 16 ∧ 1 ≤ fld (rq.p 0) 11 0 ∧ fld (rq.p 0) 11 0 ≤ 3600)
    ∧ ∃ rq, Admitted opEvtPop rq a ∧ rq.params.length = 1 ∧ rq.p 0 &&& ~~~0x000001FF#32 = 0#32 ∧ 1 ≤ fld (rq.p 0) 8 0 ∧ fld (rq.p 0) 8 0 ≤ 256 :=
  ⟨by decide +kernel, rfl, ⟨_, rfl⟩, by decide +kernel, ⟨R [0x00010E10#32], by decide +kernel⟩, R [256#32], by decide +kernel⟩
theorem witness_ReadsWriteNothing : Reads .echo ∧ ∃ t, W.mode.miscompare = false ∧ exec (.echo (R [])) W = .next t := ⟨by simp [Reads], _, rfl, rfl⟩
theorem witness_ScheduledWritesWaitForRow0 : ScheduledWrites .strokeCfg ∧ ∃ t, W.mode.miscompare = false ∧ exec (.strokeCfg (R [0#32, 0#32])) W = .next t :=
  ⟨by simp [ScheduledWrites], _, rfl, rfl⟩
theorem witness_NoCommandWritesTheActiveBank :
    (∃ t, (W.boot.rom = false ∨ opEcho.code ≠ opBootExec.code) ∧ exec (.echo (R [])) W = .next t)
    ∧ (∃ t, State.reset.boot.rom = true ∧ opEcho.code ≠ opBootExec.code ∧ exec (.echo (R [])) State.reset = .next t) ∧ ∃ t, exec (.mapWrite (R [0#32, 1#32, 0#32])) W = .next t :=
  ⟨⟨_, .inl rfl, rfl⟩, ⟨_, rfl, by decide, rfl⟩, _, rfl⟩

/-! ### Witnesses of the statements about parts of the state -/

/-- The clauses: any command queue, a full reply queue and an empty one, a ring whose words are written; no queue is in the middle of a cycle of two changes. -/
theorem witness_LevelEventsOfR80 : (∃ q : Nat, q ≤ 5 ∧ inCycle W q = none) ∧ inCycle W 9 = none ∧ inCycle W 10 = none ∧ inCycle W 11 = none ∧ (∃ (p : List W32) (s : State), rqRoom 10 p.length s = true) ∧ (∃ (p : List W32) (s : State), rqRoom 11 p.length s = false)
    ∧ ∃ t, (∀ x ∈ W.cmd.late, x.1 ≠ 10 ∧ x.1 ≠ 11) ∧ exec (.replyRingWrite ⟨3, none⟩) W = .next t :=
  ⟨⟨5, by decide⟩, rfl, rfl, rfl, ⟨List.replicate 8192 0#32, W, by decide +kernel⟩, ⟨List.replicate 8193 0#32, W, by decide +kernel⟩, _, by decide +kernel, rfl⟩
/-- Both clauses at the boundary: the last byte clocked out, and one byte short of it. -/
theorem witness_ReplyLeavesRq4WithItsLastByte :
    ∃ (p : List W32) (r : List (List W32)) (s t : State), spiOn s = true ∧ inCycle s 10 = none ∧ rqOf s 4 = p :: r ∧ 4 * p.length ≤ 4 ∧ 3 < 4 * p.length ∧ (∀ x ∈ s.cmd.late, x.1 ≠ 10)
      ∧ exec (.rplRead 4) s = .next t :=
  ⟨[1#32], [], W.onCmd fun v => { v with rq := [(4, [[1#32]])] }, _, by decide +kernel, rfl, rfl, by decide, by decide, by decide +kernel, rfl⟩
def Wfwd (l : List FwdRec) : State := (W.onFab fun v => { v with nodeAddr := 1#12 }).onCmd fun v => { v with fwd := l, fabRpl := [[0x18001002#32]] }
/-- Every clause: no record, a record with room in its queue, one without. -/
theorem witness_FabricRepliesMeetTheirRecord :
    (∃ (ws : List W32) (l : List (List W32)) (s : State), s.cmd.fabRpl = ws :: l ∧ s.cmd.fwd.find? (matchesReply ws) = none)
    ∧ (∃ (ws : List W32) (l : List (List W32)) (r : FwdRec) (s : State), s.cmd.fabRpl = ws :: l ∧ s.cmd.fwd.find? (matchesReply ws) = some r ∧ rqRoom (r.queue + 6) ws.length s = true)
    ∧ ∃ (ws : List W32) (l : List (List W32)) (r : FwdRec) (s : State), s.cmd.fabRpl = ws :: l ∧ s.cmd.fwd.find? (matchesReply ws) = some r ∧ rqRoom (r.queue + 6) ws.length s = false :=
  ⟨⟨[0x18001002#32], [], Wfwd [], by decide +kernel⟩, ⟨[0x18001002#32], [], { target := 2#12, own := 1#12 }, Wfwd [{ target := 2#12, own := 1#12 }], by decide +kernel⟩,
    [0x18001002#32], [], { target := 2#12, own := 1#12 }, (Wfwd [{ target := 2#12, own := 1#12 }]).onCmd fun v => { v with rq := fullQueue }, by decide +kernel⟩
theorem witness_QueuesHoldTheirSize : CycleOf.flush ≠ .removal ∧ (qfill W 3 ≤ 8192 ∧ ∃ t, exec (.pciePacketFetch 3 [] ⟨true, .flush⟩) W = .next t)
    ∧ qfill W 4 ≤ 8192 ∧ ∃ t, exec (.pktWrite ⟨[], .flush⟩) W = .next t :=
  ⟨by decide, ⟨by decide +kernel, _, rfl⟩, by decide +kernel, _, rfl⟩
/-- No stored copy of an entry is wrong where no upset has met one. -/
theorem backDiffers_of_empty (t n : Nat) (s : State) (h : s.anvil.backBad = []) : backDiffers t 0 n s = false := by simp [backDiffers, h]
theorem witness_MapWriteAndSwap : (∃ c : Commit, c.opcode = opMapCommit.code)
    ∧ ∃ (d : Deferred) (s t : State), s.anvil.sync = some d ∧ backDiffers (shadowTable s) 0 524288 s = false ∧ exec .mapSyncDone s = .next t :=
  ⟨⟨{ opcode := opMapCommit.code }, rfl⟩, {}, W.onAnvil fun v => { v with sync := some {} }, _, rfl, backDiffers_of_empty _ _ _ rfl, rfl⟩
/-- Every clause: the queue whose turn it is, one whose command under way holds it, an empty one, a cycle of two changes that begins. -/
theorem witness_OneBellowsCycle :
    (∃ (q : Fin 6) (w : List W32) (r : List (List W32)) (s : State), cqOf s q = w :: r ∧ inCycle s q = none ∧ nextTurn s = some q)
    ∧ (∃ (q : Fin 6) (w : List W32) (r : List (List W32)) (s : State), cqOf s q = w :: r ∧ inCycle s q = none ∧ nextTurn s ≠ some q) ∧ (∃ (q : Fin 6) (s : State), cqOf s q = [])
    ∧ (∃ (q : Fin 6) (s : State), inCycle s q = some .opened) ∧ ∀ q ∈ [10, 11], ∃ s : State, s.cmd.late = [] ∧ inCycle s q = some .opened :=
  ⟨⟨0, echoPacket, [], W.onCmd fun v => { v with cq := [(0, [echoPacket])] }, by decide +kernel⟩,
    ⟨0, echoPacket, [], W.onCmd fun v => { v with cq := [(0, [echoPacket])], busyCq := [0] }, by decide +kernel⟩, ⟨0, W, rfl⟩, ⟨5, joinChanges [5] W, by decide +kernel⟩,
    fun q h => ⟨joinChanges [10, 11] W, by decide +kernel, by fin_cases h <;> decide +kernel⟩⟩
/-- Each clause is about a waiting write of its opcode. -/
theorem witness_WritesTakeEffectAtTheirRow0 : ∀ o ∈ [opRefCfg, opContCfg, opPgCfg, opFabPortCfg, opClPortCfg, opFlexoTribCfg, opSlotCfg, opSecCfg, opStrokeCfg, opClkCfg, opFabCfg,
    opLineBondCfg, opGroomCfg, opModeCfg, opRuleCommit], ∃ c : Commit, c.opcode = o.code := fun o _ => ⟨{ opcode := o.code }, rfl⟩
/-- The clauses at boundary values: an engine past its rate limit and within it, ramping and dark; containers, groups, lanes, contexts, outputs and modes of both kinds. -/
theorem witness_ActionsTakeEffectAtTheirRow0 :
    (∃ (c : Commit) (s : State), c.opcode = opErrInject.code ∧ fld (c.p 0) 31 30 = 0 ∧ (contEntry s (contObj (c.p 0))).srcEn = true)
    ∧ (∃ (c : Commit) (s : State), c.opcode = opErrInject.code ∧ fld (c.p 0) 31 30 = 0 ∧ (contEntry s (contObj (c.p 0))).srcEn = false)
    ∧ (∃ c : Commit, c.opcode = opErrInject.code ∧ fld (c.p 0) 31 30 ≠ 0)
    ∧ (∃ (c : Commit) (s : State), c.opcode = opPgCmd.code ∧ pgEn (pgCfgOf s (pgObj (c.p 0))) = true ∧ (c.p 1).toNat < 8)
    ∧ (∃ (c : Commit) (s : State), c.opcode = opPgCmd.code ∧ pgErrorless (pgCfgOf s (pgObj (c.p 0))) = true ∧ 8 ≤ (c.p 1).toNat)
    ∧ (∃ c : Commit, c.opcode = opPgCmd.code ∧ pgEn (pgCfgOf W (pgObj (c.p 0))) = false)
    ∧ (∃ (c : Commit) (n : Nat) (s : State), c.opcode = opAlnRealign.code ∧ pgErrorless (pgCfgOf s (pgObj (c.p 0))) = true
      ∧ playTarget (pgCfgOf s (pgObj (c.p 0))) (groupOf s (pgObj (c.p 0))) = some n ∧ (groupOf s (pgObj (c.p 0))).play = none)
    ∧ (∃ (c : Commit) (n m : Nat) (s : State), c.opcode = opAlnRealign.code ∧ pgErrorless (pgCfgOf s (pgObj (c.p 0))) = true
      ∧ playTarget (pgCfgOf s (pgObj (c.p 0))) (groupOf s (pgObj (c.p 0))) = some n ∧ (groupOf s (pgObj (c.p 0))).play = some m ∧ m ≠ n)
    ∧ (∃ e < 4, ∀ w : List W32, lcEn w = true → (txOverRate (onTxEng e (fun x => { x with cfg := w }) Wretired) e || (txEng Wretired e).retired) = true)
    ∧ (∀ st ∈ [TxState.dark, .laserWait, .rampUp, .rampDown, .on], ∃ s : State, lcEn (txEng s 0).cfg = false ∧ (txEng s 0).state = st)
    ∧ (∀ st ∈ [RxState.off, .nosig, .hunt], ∃ s : State, (rxEng s 0).state = st ∧ (rxEng s 0).huntHeld = false)
    ∧ (∃ x : OtnSt, x.align = none) ∧ (∃ x : OtnSt, x.align = some 8191999)
    ∧ (∃ s : State, (laneOf s 47).test = none ∧ (laneOf s 159).test = none) ∧ (∃ s : State, ∀ l < 8, (blOf s l).t0.isSome = true → blOut (blOf s l).cfg ≠ 39)
    ∧ inQuench Wquench = true ∧ inQuench W = false ∧ kindleReady Wprofile = true ∧ (∃ b q, latestProfile Wprofile = some (b, q)) ∧ kindleReady Wquench = false :=
  ⟨⟨{ opcode := opErrInject.code, params := [12#32, 1#32] }, Wcont 12 0x80000000#32, by decide +kernel⟩, ⟨{ opcode := opErrInject.code, params := [12#32, 1#32] }, W, by decide +kernel⟩,
    ⟨{ opcode := opErrInject.code, params := [0xC007FFFF#32, 125#32] }, by decide⟩, ⟨{ opcode := opPgCmd.code, params := [5#32, 4#32] }, Wgroup {}, by decide +kernel⟩,
    ⟨{ opcode := opPgCmd.code, params := [5#32, 8#32] }, Werrorless none, by decide +kernel⟩, ⟨{ opcode := opPgCmd.code, params := [1023#32, 0#32] }, by decide +kernel⟩,
    ⟨{ opcode := opAlnRealign.code, params := [5#32] }, 2, Werrorless none, by decide +kernel⟩,
    ⟨{ opcode := opAlnRealign.code, params := [5#32] }, 2, 1, Werrorless (some 1), by decide +kernel⟩,
    ⟨3, by decide, fun w _ => by rw [show (txEng Wretired 3).retired = true from rfl, Bool.or_true]⟩,
    fun st _ => ⟨W.onTx fun v => { v with eng := [(0, { state := st })] }, by cases st <;> decide +kernel, rfl⟩, fun st _ => ⟨Wrx0 { state := st }, rfl, rfl⟩,
    ⟨{}, rfl⟩, ⟨{ align := some 8191999 }, rfl⟩, ⟨W, by decide +kernel⟩, ⟨W, by decide +kernel⟩, by decide +kernel, by decide +kernel, by decide +kernel, ⟨_, _, rfl⟩, by decide +kernel⟩
/-- Every clause: a device that runs, a stroke step that is due, a write that waits without a stroke and one with. -/
theorem witness_PendingWritesApplyAtTheirRow0 : alive W = true ∧ (nextStep (Wiso.onStk fun v => { v with setTo := some 7#48 })).isSome = true ∧ nextStep W = none
    ∧ (∃ c : Commit, c.stroke = none) ∧ (∃ (c : Commit) (k : W48), c.stroke = some k)
    ∧ ∃ (a b : List Commit) (c : Commit), (∀ d ∈ b, writeTarget d ≠ writeTarget c) ∧ (writeTarget c).isSome = true ∧ b ≠ [] :=
  ⟨by decide +kernel, by decide +kernel, by decide +kernel, ⟨{}, rfl⟩, ⟨{ stroke := some 7#48 }, 7#48, rfl⟩,
    [], [{ opcode := opHkCfg.code, params := [1#32] }], { opcode := opHkCfg.code, params := [0#32] }, by decide +kernel⟩
theorem witness_EventsCountModulo48Bits : evId evFabCtlDrop 11 ≠ evId evIntEvtLogOvf 0 ∧ evId evFabCtlDrop 10 ≠ evId evFabCtlDrop 11 ∧ evId evFabCtlDrop 10 ≠ evId evIntEvtLogOvf 0 := by
  decide
theorem witness_SevereFaultsForceQuench : (∀ f ∈ [SevereFault.thermTrip, .railFault, .pllUnlock, .coreLoss], f ≠ .keFail ∧ W.mode.present.contains f = false) ∧ inQuench W = false
    ∧ W.mode.present.contains .keFail = false := by decide +kernel
theorem witness_StrokeNumberMovesOnlyAtRow0 : ∃ t, step { W with pending := [.strokeBoundary { row := {} }] } = .next t := ⟨_, rfl⟩
theorem witness_RowStaysLegal : ∃ s t, RowLegal s ∧ s.stk.row = 124 ∧ step s = .next t :=
  ⟨{ W.onStk (fun v => { v with row := 124 }) with pending := [.rowTick {}] }, _, by unfold RowLegal; decide +kernel, rfl, rfl⟩
theorem witness_OtpIsWrittenOnce : ∃ t, step { W with pending := [.rollbackAdvanceDone] } = .next t := ⟨_, rfl⟩
/-- A sequence that runs for an opcode, with a key engine that works. -/
abbrev EndCase (o : OpInfo) : Prop := ∃ (d : Deferred) (s : State), s.sec.seq = some d ∧ s.sec.keFailed = false ∧ d.opcode = o.code ∧ switchPending s (secObj (d.req.p 0)) = false
    ∧ slotBusy s (secObj (d.req.p 0)) (1 - (ctxOf s (secObj (d.req.p 0))).cur) = false ∧ losesAdmin (fld (d.req.p 0) 2 0) (fld (d.req.p 0) 9 8) s = false
def endOf (o : OpInfo) : Deferred := { opcode := o.code, req := R [7#32, 0#32] }
def Wend (o : OpInfo) : State := W.onSec fun v => { v with owner := 7, seq := some (endOf o) }
/-- The ends of the key sequences. -/
theorem witness_SecurityCommandsComplete_ends : EndCase opKeyLoad ∧ EndCase opKeyClear ∧ EndCase opAuthKeyLoad ∧ EndCase opTkLoad :=
  ⟨⟨endOf opKeyLoad, Wend opKeyLoad, by decide +kernel⟩, ⟨endOf opKeyClear, Wend opKeyClear, by decide +kernel⟩, ⟨endOf opAuthKeyLoad, Wend opAuthKeyLoad, by decide +kernel⟩, endOf opTkLoad, Wend opTkLoad, by decide +kernel⟩

/-! ### Witnesses of the completion statements -/

/-- Every clause of SystemCommandsComplete that has hypotheses has a command and a state that meet them. -/
theorem witness_SystemCommandsComplete :
    (∃ (rq : Req) (s : State), Admitted opEcho rq s ∧ rq.params.length ≤ (if rq.mac.isSome then 4084 else 4090))
    ∧ (∃ (rq : Req) (s : State), Admitted opCapsRead rq s ∧ rq.params.length = 0)
    ∧ (∃ (rq : Req) (s : State), Admitted opSysStatusRead rq s ∧ rq.params.length = 0)
    ∧ (∃ (rq : Req) (s : State), Admitted opQueueStatusRead rq s ∧ rq.params.length = 0)
    ∧ (∃ (rq : Req) (s : State), Admitted opQueueCfg rq s ∧ rq.params.length = 15 ∧ (∀ q < 12, (rq.p q).toNat ≤ levelMax s q) ∧ 50 ≤ (rq.p 12).toNat ∧ (rq.p 12).toNat ≤
      500000 ∧ rq.p 13 &&& 0xFFFFF000#32 = 0#32 ∧ rq.p 14 &&& ~~~0x00000001#32 = 0#32)
    ∧ (∃ (rq : Req) (s : State), Admitted opQueueFlush rq s ∧ rq.params.length = 1 ∧ rq.p 0 &&& ~~~0x00000FFF#32 = 0#32)
    ∧ (∃ (rq : Req) (s : State), Admitted opAccessPolicyRead rq s ∧ rq.params.length = 0)
    ∧ (∃ (rq : Req) (s : State), Admitted opAccessPolicyWrite rq s ∧ rq.params.length = 2 ∧ (rq.p 0).toNat < 4096 ∧ (List.range 6).all (fun q => decide (fld (rq.p 0) (2 * q
      + 1) (2 * q) ∈ [1, 2])) = true ∧ rq.p 1 &&& ~~~0x00000001#32 = 0#32)
    ∧ (∃ (rq : Req) (s : State), Admitted opIntClear rq s ∧ rq.params.length = 1 ∧ rq.p 0 &&& ~~~0x000003FF#32 = 0#32) :=
  ⟨⟨R [1#32, 2#32, 3#32], W, by decide +kernel⟩,
    ⟨R [], W, by decide +kernel⟩,
    ⟨R [], W, by decide +kernel⟩,
    ⟨R [], W, by decide +kernel⟩,
    ⟨R [0#32, 0#32, 0#32, 0#32, 0#32, 0#32, 1#32, 1#32, 1#32, 1#32, 1#32, 1#32, 5000#32, 0#32, 0#32], W, by decide +kernel⟩,
    ⟨R [0#32], W, by decide +kernel⟩,
    ⟨R [], W, by decide +kernel⟩,
    ⟨R [1706#32, 1#32], W, by decide +kernel⟩,
    ⟨R [0#32], W, by decide +kernel⟩⟩

/-- Every clause of StrokeCommandsComplete that has hypotheses has a command and a state that meet them. -/
theorem witness_StrokeCommandsComplete :
    (∃ (rq : Req) (s : State), Admitted opStrokeRead rq s ∧ rq.params.length = 0)
    ∧ (∃ (rq : Req) (s : State), Admitted opStrokeSet rq s ∧ isolatedRoot s = true ∧ rq.params.length = 2 ∧ rq.p 0 &&& ~~~0x0000FFFF#32 = 0#32)
    ∧ (∃ (rq : Req) (s : State), Admitted opStrokeCfg rq s ∧ rq.params.length = 2 ∧ rq.p 0 &&& ~~~0xFF00C00F#32 = 0#32 ∧ fld (rq.p 0) 3 0 ∈ [0, 1, 2, 3, 15] ∧ (signed 32
      (rq.p 1).toNat).natAbs ≤ 1000000)
    ∧ (∃ (rq : Req) (s : State), Admitted opStrokeJoin rq s ∧ rq.params.length = 0 ∧ s.root.foreign.isEmpty = false)
    ∧ (∃ (rq : Req) (s : State),
      let c := fld (rq.p 0) 4 0
      Admitted opRefCfg rq s ∧ refAbsent s c = false ∧ rq.params.length = 2 ∧ rq.p 0 &&& ~~~0x0000001F#32 = 0#32 ∧ c < 24 ∧ rq.p 1 &&& ~~~0xFFFFFF03#32 = 0#32 ∧
        (decide (c < 20) || decide (fld (rq.p 1) 21 16 < 48)) = true ∧ 1 ≤ fld (rq.p 1) 15 8 ∧ fld (rq.p 1) 15 8 ≤ 100)
    ∧ (∃ (rq : Req) (s : State), Admitted opRefStatusRead rq s ∧ rq.params.length = 0)
    ∧ (∃ (rq : Req) (s : State),
      let c := fld (rq.p 0) 4 0
      Admitted opRefForce rq s ∧ rq.params.length = 1 ∧ rq.p 0 &&& ~~~0x0000001F#32 = 0#32 ∧ (decide (c < 8) || (decide (20 ≤ c) && decide (c < 24)) || decide (c =
        31)) = true)
    ∧ (∃ (rq : Req) (s : State), Admitted opClkCfg rq s ∧ rq.params.length = 3 ∧ rq.p 0 &&& ~~~0xE003FFFF#32 = 0#32 ∧ fld (rq.p 0) 31 30 ≠ 3 ∧ 1 ≤ fld (rq.p 0) 17 0 ∧ fld
      (rq.p 0) 17 0 ≤ 172800 ∧ rq.p 1 &&& ~~~0xFFFF0000#32 = 0#32 ∧ fld (rq.p 1) 31 16 ≤ 3600 ∧ rq.p 2 &&& ~~~0xFE00FE00#32 = 0#32 ∧ fld (rq.p 2) 31 28 ≤ 4 ∧ fld
      (rq.p 2) 15 12 ≤ 4)
    ∧ (∃ (rq : Req) (s : State), Admitted opCommitListRead rq s ∧ rq.params.length = 1 ∧ rq.p 0 &&& ~~~0x00000FFF#32 = 0#32)
    ∧ (∃ (rq : Req) (s : State), Admitted opCommitCancel rq s ∧ rq.params.length = 2 ∧ rq.p 0 &&& ~~~0x0000FFFF#32 = 0#32) :=
  ⟨⟨R [], W, by decide +kernel⟩,
    ⟨R [0#32, 100#32], Wiso, by decide +kernel⟩,
    ⟨R [32783#32, 0#32], W, by decide +kernel⟩,
    ⟨{ R [] with cmt := true, commit := 50011#48 }, Wforeign, by decide +kernel⟩,
    ⟨R [0#32, 0x0F000900#32], W, by decide +kernel⟩,
    ⟨R [], W, by decide +kernel⟩,
    ⟨R [31#32], W, by decide +kernel⟩,
    ⟨R [0x60015180#32, 0x012C0000#32, 0x34003400#32], W, by decide +kernel⟩,
    ⟨R [0#32], W, by decide +kernel⟩,
    ⟨R [0#32, 0#32], W, by decide +kernel⟩⟩

/-- Every clause of AnvilCommandsComplete that has hypotheses has a command and a state that meet them. -/
theorem witness_AnvilCommandsComplete :
    (∃ (rq : Req) (s : State), Admitted opMapWrite rq s ∧ (if bit (rq.p 0) 31 then 3 else 2) ≤ rq.params.length ∧ rq.params.length ≤ (if bit (rq.p 0) 31 then 3 else 4096)
      ∧ rq.p 0 &&& ~~~0x8007FFFF#32 = 0#32 ∧ rq.p 1 &&& ~~~0x00007FFF#32 = 0#32 ∧ mapCountOk rq = true ∧ (∀ e < fld (rq.p 1) 14 0, entryOk s (fld (rq.p 0) 18 0 + e)
      (mapEntry rq e) = true) ∧ mapSealed s = false ∧ s.anvil.sync = none ∧ backDiffers (shadowTable s) (fld (rq.p 0) 18 0) (fld (rq.p 1) 14 0) s = false)
    ∧ (∃ (rq : Req) (s : State), Admitted opMapCommit rq s ∧ rq.params.length = 0 ∧ mapSealed s = false ∧ s.anvil.sync = none ∧ inUse (shadowBank s) ≤ limitAt s (actsAt s
      (if rq.cmt then some rq.commit else none)))
    ∧ (∃ (rq : Req) (s : State), Admitted opMapSync rq s ∧ rq.params.length = 0 ∧ mapSealed s = false ∧ s.anvil.sync = none)
    ∧ (∃ (rq : Req) (s : State),
      let st := fld (rq.p 0) 18 0
      let n := fld (rq.p 1) 11 0
      Admitted opMapRead rq s ∧ rq.params.length = 2 ∧ rq.p 0 &&& ~~~0x8007FFFF#32 = 0#32 ∧ rq.p 1 &&& ~~~0x00000FFF#32 = 0#32 ∧ 1 ≤ n ∧ n ≤ 4000 ∧ st + n ≤ 524288)
    ∧ (∃ (rq : Req) (s : State), Admitted opMapStatusRead rq s ∧ rq.params.length = 0) :=
  ⟨⟨R [0x8007FFFD#32, 3#32, 0#32], W, by decide +kernel⟩,
    ⟨R [], W, by decide +kernel⟩,
    ⟨R [], W, by decide +kernel⟩,
    ⟨R [0x0007F060#32, 4000#32], W, by decide +kernel⟩,
    ⟨R [], W, by decide +kernel⟩⟩

/-- Every clause of ContainerCommandsComplete that has hypotheses has a command and a state that meet them. -/
theorem witness_ContainerCommandsComplete :
    (∃ (rq : Req) (s : State),
      let c := contObj (rq.p 0)
      let e := entryOfParams rq.params
      let old := contEntry s c
      let en := e.srcEn || e.snkEn
      let live := old.srcEn || old.snkEn
      let bound := boundEver s c
      Admitted opContCfg rq s ∧ (e.home ≠ 3 || 4 ≤ e.unit || enginePresent s e.unit) = true ∧ (e.home ≠ 1 || groomPresent s) = true ∧ 5 ≤ rq.params.length ∧
        rq.params.length ≤ 21 ∧ rq.p 0 &&& ~~~0x00003FFF#32 = 0#32 ∧ rq.p 1 &&& ~~~0xF8FF3F00#32 = 0#32 ∧ e.home ≤ 3 ∧ (decide (1 ≤ e.pt ∧ e.pt ≤ 4) || (decide
        (e.pt = 0) && !en)) = true ∧ e.unit < (if e.home = 0 then 48 else if e.home = 3 then 4 else 1) ∧ (!live || (decide (e.home = old.home) && decide
        (e.unit = old.unit) && decide (e.pt = old.pt))) = true ∧ (bound && decide (e.home = 3)) = false ∧ rq.p 3 &&& ~~~0xFFFFF001#32 = 0#32 ∧ 1 ≤ e.degThr ∧
        e.degThr ≤ 50000 ∧ 2 ≤ e.degM ∧ e.degM ≤ 10 ∧ rq.p 4 &&& ~~~0x001F7FFF#32 = 0#32 ∧ e.runCount ≤ 16 ∧ (decide (1 ≤ e.runCount) || !en) = true ∧ e.n ≤
        24000 ∧ (decide (1 ≤ e.n) || !en) = true ∧ rq.params.length = 5 + e.runCount ∧ (decide (rq.params.length < 5 + e.runCount) || decide (e.n ≤ e.billets))
        = true ∧ (!bound || decide (24 ≤ e.n)) = true ∧ (!(en || bound) || decide (minBillets s c e (if bound then 48 else 24) ≤ e.n)) = true ∧ (∀ i <
        e.runs.length, runInHome s e (e.runs.getD i 0#32) = true ∧ runOverlaps (takenRuns s c) e.runs i = false) ∧ (!live || runsChangeOk old e (max old.n
        e.n)) = true ∧ poolUse s c + e.runCount ≤ 65536)
    ∧ (∃ (rq : Req) (s : State), Admitted opContRead rq s ∧ rq.params.length = 1 ∧ rq.p 0 &&& ~~~0x00003FFF#32 = 0#32)
    ∧ (∃ (rq : Req) (s : State), Admitted opContStatusRead rq s ∧ rq.params.length = 1 ∧ rq.p 0 &&& ~~~0x00003FFF#32 = 0#32)
    ∧ (∃ (rq : Req) (s : State),
      let st := fld (rq.p 1) 13 0
      let n := fld (rq.p 2) 14 0
      Admitted opBaCfg rq s ∧ rq.params.length = 3 ∧ rq.p 0 &&& ~~~0x0000000F#32 = 0#32 ∧ rq.p 1 &&& ~~~0xE0003FFF#32 = 0#32 ∧ fld (rq.p 1) 30 29 ≠ 3 ∧ rq.p 2 &&&
        ~~~0x00007FFF#32 = 0#32 ∧ 1 ≤ n ∧ st + n ≤ 16384)
    ∧ (∃ (rq : Req) (s : State), Admitted opBaRead rq s ∧ rq.params.length = 1 ∧ rq.p 0 &&& ~~~0x0000000F#32 = 0#32)
    ∧ (∃ (rq : Req) (s : State),
      let c := contObj (rq.p 0)
      Admitted opTestRead rq s ∧ rq.params.length = 1 ∧ rq.p 0 &&& ~~~0x00003FFF#32 = 0#32 ∧ 2 ≤ (contEntry s c).home)
    ∧ (∃ (rq : Req) (s : State),
      let k := fld (rq.p 0) 31 30
      let n := (rq.p 1).toNat
      Admitted opErrInject rq s ∧ rq.params.length = 2 ∧ k ≤ 1 ∧ rq.p 0 &&& ~~~(if k = 0 then 0x00003FFF#32 else 0x4007FFFF#32) = 0#32 ∧ rq.p 1 &&& ~~~0x0000FFFF#32
        = 0#32 ∧ 1 ≤ n ∧ (decide (k = 0) || decide (n ≤ 125)) = true) :=
  ⟨⟨R [100#32, 0x50040000#32, 8738#32, 0x1D4C7000#32, 0x00010064#32, 0xF8000063#32], W, by decide +kernel⟩,
    ⟨R [12#32], W, by decide +kernel⟩,
    ⟨R [12#32], W, by decide +kernel⟩,
    ⟨R [0#32, 0x20000010#32, 32#32], W, by decide +kernel⟩,
    ⟨R [0#32], W, by decide +kernel⟩,
    ⟨R [12#32], Wcont 12 0x18000000#32, by decide +kernel⟩,
    ⟨{ R [12#32, 1#32] with cmt := true, commit := 50011#48 }, W, by decide +kernel⟩⟩

/-- Every clause of ProtectionCommandsComplete that has hypotheses has a command and a state that meet them. -/
theorem witness_ProtectionCommandsComplete :
    (∃ (rq : Req) (s : State),
      let g := pgObj (rq.p 0)
      let c := pgParams rq.params
      let old := pgCfgOf s g
      let keep := !(pgEn old && pgEn c)
      let other := (pgOthers s g).flatMap (pgViews s)
      Admitted opPgCfg rq s ∧ rq.params.length = 9 ∧ rq.p 0 &&& ~~~0x000003FF#32 = 0#32 ∧ rq.p 1 &&& ~~~0xFEFFF000#32 = 0#32 ∧ rq.p 2 &&& ~~~0x0007FFFF#32 = 0#32 ∧
        rq.p 3 &&& ~~~0x0007FFFF#32 = 0#32 ∧ rq.p 4 &&& ~~~0x3FFF7FFF#32 = 0#32 ∧ rq.p 5 &&& ~~~0xFFFF07FF#32 = 0#32 ∧ rq.p 6 &&& ~~~0x000001FF#32 = 0#32 ∧
        rq.p 7 &&& ~~~0xFFFFFFF0#32 = 0#32 ∧ rq.p 8 &&& ~~~0xFFFF0000#32 = 0#32 ∧ pgMode c ≠ 3 ∧ pgHold c ≤ 100 ∧ 1 ≤ pgWtr c ∧ pgWtr c ≤ 12 ∧ (decide (pgMode
        c = 2) && (pgBidir c || pgAps c)) = false ∧ (keep || decide (pgMode c = pgMode old)) = true ∧ pgRangeOk s (pgWork c) (pgLen c) = true ∧ (keep || decide
        (pgWork c = pgWork old)) = true ∧ 1 ≤ pgOffset c ∧ pgRangeOk s (pgProt c) (pgLen c) = true ∧ pgLen c ≤ pgOffset c ∧ pgOffset c + pgLen c ≤ 524288 ∧
        (keep || decide (pgOffset c = pgOffset old)) = true ∧ 1 ≤ pgLen c ∧ pgLen c ≤ 24000 ∧ (keep || decide (pgLen c = pgLen old)) = true ∧ (pgAps c &&
        other.any fun d => pgAps d && decide (pgApsCont d = pgApsCont c)) = false ∧ 1 ≤ pgDiff c ∧ pgDiff c ≤ 1250 ∧ (keep || (decide (pgOut c = pgOut old) &&
        decide (pgDiff c = pgDiff old))) = true ∧ (decide (pgMode c ≠ 2) || (decide (pgOut c + pgLen c ≤ 65536) && !other.any fun d => pgErrorless d &&
        outsMeet c d)) = true ∧ pgSlack c ≤ 250 ∧ 2 ≤ fld (c.getD 6 0#32) 7 4 ∧ fld (c.getD 6 0#32) 7 4 ≤ 10 ∧ 1 ≤ fld (c.getD 7 0#32) 31 16 ∧ fld (c.getD 7
        0#32) 31 16 ≤ 50000 ∧ (!pgErrorless c || decide (alignedUse s g + pgLen c ≤ 64000)) = true)
    ∧ (∃ (rq : Req) (s : State), Admitted opPgRead rq s ∧ rq.params.length = 1 ∧ rq.p 0 &&& ~~~0x000003FF#32 = 0#32)
    ∧ (∃ (rq : Req) (s : State),
      let m := pgMode (pgCfgOf s (pgObj (rq.p 0)))
      let v := (rq.p 1).toNat
      Admitted opPgCmd rq s ∧ rq.params.length = 2 ∧ rq.p 0 &&& ~~~0x000003FF#32 = 0#32 ∧ (if m = 2 then decide (8 ≤ v ∧ v ≤ 10) else decide (v ≤ 4)) = true)
    ∧ (∃ (rq : Req) (s : State),
      let x := groupOf s (pgObj (rq.p 0))
      Admitted opAlnRealign rq s ∧ rq.params.length = 1 ∧ rq.p 0 &&& ~~~0x000003FF#32 = 0#32 ∧ x.w.snk.inFrame = true ∧ x.p.snk.inFrame = true)
    ∧ (∃ (rq : Req) (s : State),
      let clr := bit (rq.p 0) 31
      Admitted opPgStatusRead rq s ∧ (!clr || decide (2 ≤ packetLevel rq s)) = true ∧ rq.params.length = 1 ∧ rq.p 0 &&& ~~~0x800003FF#32 = 0#32)
    ∧ (∃ (rq : Req) (s : State), Admitted opAlnStatusRead rq s ∧ rq.params.length = 1 ∧ rq.p 0 &&& ~~~0x000003FF#32 = 0#32)
    ∧ (∃ (rq : Req) (s : State), Admitted opPgSummaryRead rq s ∧ rq.params.length = 0) :=
  ⟨⟨R [5#32, 0x80005000#32, 0x000403E8#32, 0x000147D0#32, 100#32, 1250#32, 256#32, 112#32, 0x1D4C0000#32], W, by decide +kernel⟩,
    ⟨R [5#32], W, by decide +kernel⟩,
    ⟨R [5#32, 1#32], W, by decide +kernel⟩,
    ⟨R [5#32], Waligned, by decide +kernel⟩,
    ⟨R [5#32], W, by decide +kernel⟩,
    ⟨R [5#32], W, by decide +kernel⟩,
    ⟨R [], W, by decide +kernel⟩⟩

/-- Every clause of FabricCommandsComplete that has hypotheses has a command and a state that meet them. -/
theorem witness_FabricCommandsComplete :
    (∃ (rq : Req) (s : State),
      let rec0 := rq.cq ≠ 5 && !rq.quiet
      Admitted opFabPathSet rq s ∧ (∀ c ∈ pathPar 0 rq s, c = none) ∧ (∀ c ∈ pathLate 0 rq s, c = none) ∧ (∀ c ∈ (if rec0 then recordCheck rq.cq rq.tag rq.tgt s else
        []), c = none) ∧ pathBack 0 rq s = false)
    ∧ (∃ (rq : Req) (s : State),
      let w := rq.p 0
      Admitted opFabCfg rq s ∧ rq.params.length = 1 ∧ rq.p 0 &&& ~~~0x80FF0FFF#32 = 0#32 ∧ 1 ≤ fld w 23 16 ∧ fld w 11 0 ≤ 4094 ∧ (bit w 31 || decide (1 ≤ fld w 11
        0)) = true)
    ∧ (∃ (rq : Req) (s : State), Admitted opFabStatusRead rq s ∧ rq.params.length = 0)
    ∧ (∃ (rq : Req) (s : State),
      let p := fpObj (rq.p 0)
      Admitted opFabPortCfg rq s ∧ (decide (12 ≤ p) || decide (retiredLanes s p ≤ 2)) = true ∧ rq.params.length = 3 ∧ rq.p 0 &&& ~~~0x0000000F#32 = 0#32 ∧ fpObj
        (rq.p 0) ≤ 11 ∧ rq.p 1 &&& ~~~0xC0FFFFFF#32 = 0#32 ∧ 1 ≤ fld (rq.p 1) 23 16 ∧ fld (rq.p 1) 15 12 ≤ 11 ∧ rq.p 2 &&& ~~~0xFFFFF000#32 = 0#32 ∧ 1 ≤ fld
        (rq.p 2) 31 16 ∧ 2 ≤ fld (rq.p 2) 15 12 ∧ fld (rq.p 2) 15 12 ≤ 10)
    ∧ (∃ (rq : Req) (s : State), Admitted opFabPortStatusRead rq s ∧ rq.params.length = 1 ∧ rq.p 0 &&& ~~~0x0000000F#32 = 0#32 ∧ fpObj (rq.p 0) ≤ 11)
    ∧ (∃ (rq : Req) (s : State),
      let a := fld (rq.p 0) 11 0
      let n := fld (rq.p 1) 12 0
      Admitted opFabRouteRead rq s ∧ rq.params.length = 2 ∧ rq.p 0 &&& ~~~0x00000FFF#32 = 0#32 ∧ rq.p 1 &&& ~~~0x00001FFF#32 = 0#32 ∧ 1 ≤ n ∧ n ≤ 4000 ∧ a + n ≤ 4096)
    ∧ (∃ (rq : Req) (s : State), Admitted opFabLsdbRead rq s ∧ rq.params.length = 1 ∧ rq.p 0 &&& ~~~0x000007FF#32 = 0#32) :=
  ⟨⟨R [0x10000001#32, 0x00100000#32, 0x00038000#32, 0x00238000#32, 0#32], Wpath, by decide +kernel⟩,
    ⟨R [0x00200013#32], W, by decide +kernel⟩,
    ⟨R [], W, by decide +kernel⟩,
    ⟨R [3#32, 0xC00B0000#32, 0x00103000#32], W, by decide +kernel⟩,
    ⟨R [3#32], W, by decide +kernel⟩,
    ⟨R [1#32, 5#32], W, by decide +kernel⟩,
    ⟨R [0#32], W, by decide +kernel⟩⟩

/-- Every clause of LineTxCommandsComplete that has hypotheses has a command and a state that meet them. -/
theorem witness_LineTxCommandsComplete :
    (∃ (rq : Req) (s : State),
      let e := engObj (rq.p 0)
      let c := [rq.p 1, rq.p 2, rq.p 3]
      let bonded := bit (bondLast s) 31
      let changes := lcRate c ≠ lcRate (txLast s e)
      let g := if bonded && decide (e ≠ 0) then txLast s 0 else c
      let r := symbolRate (lcFormat g) (lcN g) (lcEntropy g) bonded
      Admitted opTxCfg rq s ∧ enginePresent s (engObj (rq.p 0)) = true ∧ (txEng s (engObj (rq.p 0))).retired = false ∧ rq.params.length = 4 ∧ rq.p 0 &&&
        ~~~0x00000003#32 = 0#32 ∧ rq.p 1 &&& ~~~0xFFFFC000#32 = 0#32 ∧ rateFieldsOk c = true ∧ rateBoundsOk c (bonded && decide (e = 0)) = true ∧ (!(bonded &&
        decide (e = 0) && changes) || !rateFieldsOk c || spacingOk c (fld (bondLast s) 30 20)) = true ∧ rq.p 2 &&& ~~~0xFFFFFF80#32 = 0#32 ∧ (1 ≤ lcRampMs c ∧
        lcRampMs c ≤ 100) ∧ lcLaserWait c ≤ 250000 ∧ rq.p 3 &&& ~~~0xFF000000#32 = 0#32 ∧ 16 ≤ lcDrive c ∧ lcDrive c ≤ 80 ∧ (!changes || txRateFree s e) = true
        ∧ (!lcEn c || fracLe r (txEng s e).maxRs.toNat) = true)
    ∧ (∃ (rq : Req) (s : State), Admitted opTxRead rq s ∧ enginePresent s (engObj (rq.p 0)) = true ∧ rq.params.length = 1 ∧ rq.p 0 &&& ~~~0x00000003#32 = 0#32)
    ∧ (∃ (rq : Req) (s : State), Admitted opTxPreemph rq s ∧ enginePresent s (engObj (rq.p 0)) = true ∧ (txEng s (engObj (rq.p 0))).retired = false ∧ rq.params.length = 17
      ∧ rq.p 0 &&& ~~~0x00000003#32 = 0#32 ∧ (∀ i < 16, ((bytesOf (rq.p (1 + i))).all fun b => decide (b.toNat ≤ 120)) = true))
    ∧ (∃ (rq : Req) (s : State), Admitted opTxPreemphRead rq s ∧ enginePresent s (engObj (rq.p 0)) = true ∧ rq.params.length = 1 ∧ rq.p 0 &&& ~~~0x00000003#32 = 0#32)
    ∧ (∃ (rq : Req) (s : State),
      let w := rq.p 0
      let changes := bit w 31 != bit (bondLast s) 31
      let at_ := actsAt s (if rq.cmt then some rq.commit else none)
      let modes := (waiting opModeSet s).filter fun c => decide (actsAt s c.stroke ≤ at_)
      Admitted opLineBondCfg rq s ∧ (!changes || bondCapable s) = true ∧ rq.params.length = 1 ∧ rq.p 0 &&& ~~~0xFFF00000#32 = 0#32 ∧ 200 ≤ fld w 30 20 ∧ fld w 30 20
        ≤ 700 ∧ (!bit w 31 || spacingOk (txLast s 0) (fld w 30 20)) = true ∧ (!changes || (decide (baseMode s = .forge) && modes.all fun c => modeOfCode (fld
        (c.p 0) 3 0) = .forge)) = true ∧ (!changes || (List.range 4).all (txRateFree s)) = true)
    ∧ (∃ (rq : Req) (s : State), Admitted opTxStatusRead rq s ∧ enginePresent s (engObj (rq.p 0)) = true ∧ rq.params.length = 1 ∧ rq.p 0 &&& ~~~0x00000003#32 = 0#32)
    ∧ (∃ (rq : Req) (s : State),
      let w := rq.p 1
      let l := fld w 31 28
      let t := signed 16 (fld w 15 0)
      Admitted opTxCalCfg rq s ∧ enginePresent s (engObj (rq.p 0)) = true ∧ (txEng s (engObj (rq.p 0))).retired = false ∧ rq.params.length = 2 ∧ rq.p 0 &&&
        ~~~0x00000003#32 = 0#32 ∧ rq.p 1 &&& ~~~0xFC00FFFF#32 = 0#32 ∧ l ≤ 8 ∧ fld w 27 26 ≤ 1 ∧ (if 6 ≤ l then decide (t = 0) else decide (t.natAbs ≤
        loopRange l)) = true)
    ∧ (∃ (rq : Req) (s : State), Admitted opTxCalRead rq s ∧ enginePresent s (engObj (rq.p 0)) = true ∧ rq.params.length = 1 ∧ rq.p 0 &&& ~~~0x00000003#32 = 0#32) :=
  ⟨⟨R [1#32, 0x84028000#32, 0x04003200#32, 0x28000000#32], W, by decide +kernel⟩,
    ⟨R [2#32], W, by decide +kernel⟩,
    ⟨R ([2#32] ++ List.replicate 16 0#32), W, by decide +kernel⟩,
    ⟨R [2#32], W, by decide +kernel⟩,
    ⟨R [0x19000000#32], W, by decide +kernel⟩,
    ⟨R [2#32], W, by decide +kernel⟩,
    ⟨R [1#32, 0x10000005#32], W, by decide +kernel⟩,
    ⟨R [1#32], W, by decide +kernel⟩⟩

/-- Every clause of LineRxCommandsComplete that has hypotheses has a command and a state that meet them. -/
theorem witness_LineRxCommandsComplete :
    (∃ (rq : Req) (s : State),
      let e := engObj (rq.p 0)
      let c := [rq.p 1, rq.p 2, rq.p 3, rq.p 4, rq.p 5]
      let bonded := bit (bondLast s) 31
      let g := if bonded && decide (e ≠ 0) then rxLast s 0 else c
      let r := symbolRate (lcFormat g) (lcN g) (lcEntropy g) bonded
      Admitted opRxCfg rq s ∧ enginePresent s (engObj (rq.p 0)) = true ∧ (rxEng s (engObj (rq.p 0))).retired = false ∧ rq.params.length = 6 ∧ rq.p 0 &&&
        ~~~0x00000003#32 = 0#32 ∧ rq.p 1 &&& ~~~0xFFFFFF00#32 = 0#32 ∧ rateFieldsOk c = true ∧ rateBoundsOk c (bonded && decide (e = 0)) = true ∧ 1 ≤
        rcPilotAvg c ∧ rcPilotAvg c ≤ 8 ∧ (rcCdSet c).natAbs ≤ 20000 ∧ rcCdSpan c ≤ 200 ∧ (1 ≤ rcLosThr c ∧ rcLosThr c ≤ 64) ∧ rq.p 3 &&& ~~~0xFFFFF000#32 =
        0#32 ∧ (12 ≤ rcHuntThr c ∧ rcHuntThr c ≤ 48) ∧ (12 ≤ rcVerThr c ∧ rcVerThr c ≤ rcHuntThr c) ∧ 16 ≤ rcHuntTimeout c ∧ deskewFieldOk (rq.p 4) = true ∧
        deskewFieldOk (rq.p 5) = true ∧ (!lcEn c || fracLe r (rxEng s e).maxRs.toNat) = true)
    ∧ (∃ (rq : Req) (s : State), Admitted opRxRead rq s ∧ enginePresent s (engObj (rq.p 0)) = true ∧ rq.params.length = 1 ∧ rq.p 0 &&& ~~~0x00000003#32 = 0#32)
    ∧ (∃ (rq : Req) (s : State), Admitted opRxStatusRead rq s ∧ enginePresent s (engObj (rq.p 0)) = true ∧ rq.params.length = 1 ∧ rq.p 0 &&& ~~~0x00000003#32 = 0#32)
    ∧ (∃ (rq : Req) (s : State), Admitted opRxQualityRead rq s ∧ enginePresent s (engObj (rq.p 0)) = true ∧ rq.params.length = 1 ∧ rq.p 0 &&& ~~~0x00000003#32 = 0#32)
    ∧ (∃ (rq : Req) (s : State), Admitted opRxCalRead rq s ∧ enginePresent s (engObj (rq.p 0)) = true ∧ rq.params.length = 1 ∧ rq.p 0 &&& ~~~0x00000003#32 = 0#32)
    ∧ (∃ (rq : Req) (s : State), Admitted opRxReacquire rq s ∧ enginePresent s (engObj (rq.p 0)) = true ∧ (rxEng s (engObj (rq.p 0))).retired = false ∧ rq.params.length = 2
      ∧ rq.p 0 &&& ~~~0x00000003#32 = 0#32 ∧ rq.p 1 &&& ~~~0x00000001#32 = 0#32 ∧ lcEn (rxEng s (engObj (rq.p 0))).cfg = true)
    ∧ (∃ (rq : Req) (s : State),
      let deg := fun (w : W32) => decide (1 ≤ fld w 31 12 ∧ fld w 31 12 ≤ 860000) && decide (2 ≤ fld w 11 8 ∧ fld w 11 8 ≤ 10)
      Admitted opLineOhCfg rq s ∧ enginePresent s (engObj (rq.p 0)) = true ∧ rq.params.length = 5 ∧ rq.p 0 &&& ~~~0x00000003#32 = 0#32 ∧ rq.p 1 &&& ~~~0xFF800000#32
        = 0#32 ∧ rq.p 2 &&& ~~~0xFFFFFF00#32 = 0#32 ∧ deg (rq.p 2) = true ∧ rq.p 3 &&& ~~~0xFFFFFF00#32 = 0#32 ∧ deg (rq.p 3) = true ∧ rq.p 4 &&&
        ~~~0xFFFF0000#32 = 0#32 ∧ 1 ≤ fld (rq.p 4) 31 16 ∧ fld (rq.p 4) 31 16 ≤ 5000)
    ∧ (∃ (rq : Req) (s : State), Admitted opLineOhRead rq s ∧ enginePresent s (engObj (rq.p 0)) = true ∧ rq.params.length = 1 ∧ rq.p 0 &&& ~~~0x00000003#32 = 0#32)
    ∧ (∃ (rq : Req) (s : State), Admitted opLineTtiWrite rq s ∧ enginePresent s (engObj (rq.p 0)) = true ∧ rq.params.length = 17 ∧ rq.p 0 &&& ~~~0x00000303#32 = 0#32)
    ∧ (∃ (rq : Req) (s : State), Admitted opLineTtiRead rq s ∧ enginePresent s (engObj (rq.p 0)) = true ∧ rq.params.length = 1 ∧ rq.p 0 &&& ~~~0x00000103#32 = 0#32)
    ∧ (∃ (rq : Req) (s : State), Admitted opLineOtnStatusRead rq s ∧ enginePresent s (engObj (rq.p 0)) = true ∧ rq.params.length = 1 ∧ rq.p 0 &&& ~~~0x00000003#32 = 0#32)
    ∧ (∃ (rq : Req) (s : State), Admitted opLineFecStatusRead rq s ∧ enginePresent s (engObj (rq.p 0)) = true ∧ rq.params.length = 1 ∧ rq.p 0 &&& ~~~0x00000003#32 = 0#32)
    ∧ (∃ (rq : Req) (s : State), Admitted opLineRealign rq s ∧ enginePresent s (engObj (rq.p 0)) = true ∧ rq.params.length = 1 ∧ rq.p 0 &&& ~~~0x00000003#32 = 0#32 ∧ (otnOf
      s (engObj (rq.p 0))).inFrame = true) :=
  ⟨⟨R [1#32, 0x2C015400#32, 51204#32, 0x61240000#32, 0#32, 0#32], W, by decide +kernel⟩,
    ⟨R [1#32], W, by decide +kernel⟩,
    ⟨R [1#32], W, by decide +kernel⟩,
    ⟨R [1#32], W, by decide +kernel⟩,
    ⟨R [1#32], W, by decide +kernel⟩,
    ⟨R [3#32, 0#32], Wrx, by decide +kernel⟩,
    ⟨R [1#32, 0#32, 5888#32, 5888#32, 0x00010000#32], W, by decide +kernel⟩,
    ⟨R [1#32], W, by decide +kernel⟩,
    ⟨R ([1#32] ++ List.replicate 16 0#32), W, by decide +kernel⟩,
    ⟨R [1#32], W, by decide +kernel⟩,
    ⟨R [1#32], W, by decide +kernel⟩,
    ⟨R [1#32], W, by decide +kernel⟩,
    ⟨R [1#32], Wrx, by decide +kernel⟩⟩

/-- Every clause of ClientCommandsComplete that has hypotheses has a command and a state that meet them. -/
theorem witness_ClientCommandsComplete :
    (∃ (rq : Req) (s : State),
      let p := cliObj (rq.p 0)
      let w := rq.p 1
      Admitted opClPortCfg rq s ∧ (!cpGroomed w || groomPresent s) = true ∧ rq.params.length = 2 ∧ rq.p 0 &&& ~~~0x0000003F#32 = 0#32 ∧ cliObj (rq.p 0) < 48 ∧ rq.p 1
        &&& ~~~0xFF000000#32 = 0#32 ∧ cpWidth w ∈ [1, 2, 4, 8] ∧ p % cpWidth w = 0 ∧ (!cpGroomed w || !cpFlexo w) = true ∧ lanesOverlap s p (cpWidth w) = false
        ∧ tribsForbid s p w = false ∧ (!shapeChanges s p w || (!cpEn (cliPort s p) && !((cliViews s p).drop 1).any cpEn)) = true)
    ∧ (∃ (rq : Req) (s : State), Admitted opClPortRead rq s ∧ rq.params.length = 1 ∧ rq.p 0 &&& ~~~0x0000003F#32 = 0#32 ∧ cliObj (rq.p 0) < 48)
    ∧ (∃ (rq : Req) (s : State), Admitted opClPortStatusRead rq s ∧ rq.params.length = 1 ∧ rq.p 0 &&& ~~~0x0000003F#32 = 0#32 ∧ cliObj (rq.p 0) < 48)
    ∧ (∃ (rq : Req) (s : State),
      let p := cliObj (rq.p 0)
      let j := fld (rq.p 0) 11 8
      let e := (rq.p 1, rq.p 2)
      let m := cpRate (cliLast s p)
      let v := trValid e
      Admitted opFlexoTribCfg rq s ∧ rq.params.length = 3 ∧ rq.p 0 &&& ~~~0x00000F3F#32 = 0#32 ∧ p < 48 ∧ rq.p 1 &&& ~~~0xFFFFC1FF#32 = 0#32 ∧ trType e ≠ 5 ∧ trType
        e ≠ 6 ∧ trFirst e < 320 ∧ rq.p 2 &&& ~~~0x000001FF#32 = 0#32 ∧ trCount e ≤ 320 ∧ (!v || cpFlexo (cliLast s p)) = true ∧ (!v || decide (1 ≤ trCount e))
        = true ∧ (!v || (trSlots m (trType e)).all fun n => decide (trCount e = n)) = true ∧ (!v || decide (trEnd e ≤ 20 * m)) = true ∧ (!v || !(otherTribs s p
        j).any (slotsOverlap e)) = true ∧ (!v || (decide (trType e ≠ 7) && (otherTribs s p j).all fun t => decide (trType t ≠ 7)) || (otherTribs s p
        j).isEmpty) = true ∧ (!v || !contTooSmall s m e) = true)
    ∧ (∃ (rq : Req) (s : State), Admitted opFlexoTribRead rq s ∧ rq.params.length = 1 ∧ rq.p 0 &&& ~~~0x00000F3F#32 = 0#32 ∧ cliObj (rq.p 0) < 48)
    ∧ (∃ (rq : Req) (s : State),
      let n := laneObj (rq.p 0)
      let w := rq.p 1
      let t := rq.p 2
      Admitted opLaneCfg rq s ∧ (laneValid n && (laneOf s n).retired) = false ∧ rq.params.length = 3 ∧ rq.p 0 &&& ~~~0x000000FF#32 = 0#32 ∧ laneValid (laneObj (rq.p
        0)) = true ∧ rq.p 1 &&& ~~~0xFF800000#32 = 0#32 ∧ fld w 31 30 ≠ 3 ∧ fld w 28 27 ≠ 3 ∧ fld w 26 25 ≠ 3 ∧ (decide (n < 48) || bit w 29) = true ∧ rq.p 2
        &&& ~~~0xFFFFFF80#32 = 0#32 ∧ fld t 31 27 ≤ 16 ∧ 32 ≤ fld t 26 20 ∧ fld t 26 20 ≤ 64 ∧ fld t 19 15 ≤ 24 ∧ fld t 31 27 + fld t 26 20 + fld t 19 15 ≤ 64
        ∧ (turnsOnPrbs s n w && laneInUse s n) = false)
    ∧ (∃ (rq : Req) (s : State), Admitted opLaneStatusRead rq s ∧ rq.params.length = 1 ∧ rq.p 0 &&& ~~~0x000000FF#32 = 0#32 ∧ laneValid (laneObj (rq.p 0)) = true)
    ∧ (∃ (rq : Req) (s : State), Admitted opLanePrbsRead rq s ∧ rq.params.length = 1 ∧ rq.p 0 &&& ~~~0x000000FF#32 = 0#32 ∧ laneValid (laneObj (rq.p 0)) = true) :=
  ⟨⟨R [0#32, 0x84000000#32], W, by decide +kernel⟩,
    ⟨R [4#32], W, by decide +kernel⟩,
    ⟨R [4#32], W, by decide +kernel⟩,
    ⟨R [8#32, 0#32, 0#32], W, by decide +kernel⟩,
    ⟨R [8#32], W, by decide +kernel⟩,
    ⟨R [5#32, 0#32, 0x04000000#32], W, by decide +kernel⟩,
    ⟨R [5#32], W, by decide +kernel⟩,
    ⟨R [5#32], W, by decide +kernel⟩⟩

/-- Every clause of GroomCommandsComplete that has hypotheses has a command and a state that meet them. -/
theorem witness_GroomCommandsComplete :
    (∃ (rq : Req) (s : State), Admitted opGroomCfg rq s ∧ groomPresent s = true ∧ rq.params.length = 3 ∧ rq.p 0 &&& ~~~0x0000000F#32 = 0#32 ∧ 1 ≤ (rq.p 0).toNat ∧ (rq.p
      0).toNat ≤ 8 ∧ rq.p 1 &&& ~~~0x83FF83FF#32 = 0#32 ∧ rq.p 2 &&& ~~~0x83FF83FF#32 = 0#32)
    ∧ (∃ (rq : Req) (s : State), Admitted opGroomRead rq s ∧ groomPresent s = true ∧ rq.params.length = 0)
    ∧ (∃ (rq : Req) (s : State), Admitted opGroomStatusRead rq s ∧ groomPresent s = true ∧ rq.params.length = 0)
    ∧ (∃ (rq : Req) (s : State),
      let g := slotObj (rq.p 0)
      let w := (rq.p 1, rq.p 2)
      let old := slotCfg s g
      let e := contLast s (slCont w)
      Admitted opSlotCfg rq s ∧ groomPresent s = true ∧ rq.params.length = 3 ∧ rq.p 0 &&& ~~~0x000003FF#32 = 0#32 ∧ rq.p 1 &&& ~~~0xBFFF007F#32 = 0#32 ∧ 1 ≤ slMib w
        ∧ slMib w ≤ 64 ∧ rq.p 2 &&& ~~~0xFFF00000#32 = 0#32 ∧ portField (slFeed w) = true ∧ portField (slOut w) = true ∧ e.home = 1 ∧ e.pt = 3 ∧ contNamed s g
        (slCont w) = false ∧ (!slEn old || !slEn w || (decide (slCont w = slCont old) && decide (slMib w = slMib old))) = true ∧ slotMib s g w ≤ 8192)
    ∧ (∃ (rq : Req) (s : State), Admitted opSlotRead rq s ∧ groomPresent s = true ∧ rq.params.length = 1 ∧ rq.p 0 &&& ~~~0x000003FF#32 = 0#32)
    ∧ (∃ (rq : Req) (s : State), Admitted opSlotStatusRead rq s ∧ groomPresent s = true ∧ rq.params.length = 1 ∧ rq.p 0 &&& ~~~0x000003FF#32 = 0#32)
    ∧ (∃ (rq : Req) (s : State),
      let f := fld (rq.p 0) 7 0
      let n := fld (rq.p 1) 8 0
      Admitted opProgWrite rq s ∧ groomPresent s = true ∧ 2 ≤ rq.params.length ∧ rq.params.length ≤ 258 ∧ rq.p 0 &&& ~~~0x000000FF#32 = 0#32 ∧ rq.p 1 &&&
        ~~~0x000001FF#32 = 0#32 ∧ 1 ≤ n ∧ f + n ≤ 256 ∧ rq.params.length = 2 + n ∧ (∀ i < n, instrOk (rq.p (2 + i)) = true) ∧ grmSealed s = false ∧ s.grm.pend
        ≠ .draining ∧ s.grm.sync = none ∧ backDiffers (8 + pendBank s) f n s = false)
    ∧ (∃ (rq : Req) (s : State),
      let f := fld (rq.p 0) 15 0
      let n := fld (rq.p 1) 7 0
      Admitted opRuleWrite rq s ∧ groomPresent s = true ∧ 2 ≤ rq.params.length ∧ rq.params.length ≤ 4082 ∧ rq.p 0 &&& ~~~0x0000FFFF#32 = 0#32 ∧ rq.p 1 &&&
        ~~~0x000000FF#32 = 0#32 ∧ 1 ≤ n ∧ n ≤ 240 ∧ f + n ≤ 65536 ∧ rq.params.length = 2 + 17 * n ∧ (∀ i < n, rq.p (2 + 17 * i + 16) &&& ~~~0xC00003FF#32 =
        0#32) ∧ grmSealed s = false ∧ s.grm.pend ≠ .draining ∧ s.grm.sync = none ∧ backDiffers (6 + pendBank s) (17 * f) (17 * n) s = false)
    ∧ (∃ (rq : Req) (s : State), Admitted opRuleCommit rq s ∧ groomPresent s = true ∧ rq.params.length = 0 ∧ grmSealed s = false ∧ s.grm.pend ≠ .draining ∧ s.grm.sync =
      none)
    ∧ (∃ (rq : Req) (s : State), Admitted opRuleSync rq s ∧ groomPresent s = true ∧ rq.params.length = 0 ∧ grmSealed s = false ∧ s.grm.pend ≠ .draining ∧ s.grm.sync = none)
    ∧ (∃ (rq : Req) (s : State),
      let prog := bit (rq.p 0) 30
      let f := fld (rq.p 0) 15 0
      let n := (rq.p 1).toNat
      Admitted opRuleRead rq s ∧ groomPresent s = true ∧ rq.params.length = 2 ∧ rq.p 0 &&& ~~~0xC000FFFF#32 = 0#32 ∧ (!prog || decide (f < 256)) = true ∧ rq.p 1 &&&
        ~~~(if prog then 0x000001FF#32 else 0x000000FF#32) = 0#32 ∧ 1 ≤ n ∧ (if prog then decide (f + n ≤ 256) else decide (n ≤ 240) && decide (f + n ≤ 65536))
        = true)
    ∧ (∃ (rq : Req) (s : State), Admitted opGrmQueueCfg rq s ∧ groomPresent s = true ∧ rq.params.length = 2 ∧ rq.p 0 &&& ~~~0x00000FFF#32 = 0#32 ∧ grmQueueOk (fld (rq.p 0)
      11 0) = true ∧ rq.p 1 &&& ~~~0x001FFFFF#32 = 0#32)
    ∧ (∃ (rq : Req) (s : State), Admitted opGrmQueueFlush rq s ∧ groomPresent s = true ∧ rq.params.length = 1 ∧ rq.p 0 &&& ~~~0x00000FFF#32 = 0#32 ∧ grmQueueOk (fld (rq.p
      0) 11 0) = true) :=
  ⟨⟨R [4#32, 0#32, 0#32], W, by decide +kernel⟩,
    ⟨R [], W, by decide +kernel⟩,
    ⟨R [], W, by decide +kernel⟩,
    ⟨R [3#32, 0x800C0040#32, 0#32], Wcont 12 0x08030000#32, by decide +kernel⟩,
    ⟨R [3#32], W, by decide +kernel⟩,
    ⟨R [3#32], W, by decide +kernel⟩,
    ⟨R [0#32, 1#32, 0#32], W, by decide +kernel⟩,
    ⟨R ([0#32, 1#32] ++ List.replicate 17 0#32), W, by decide +kernel⟩,
    ⟨R [], W, by decide +kernel⟩,
    ⟨R [], W, by decide +kernel⟩,
    ⟨R [0#32, 1#32], W, by decide +kernel⟩,
    ⟨R [0#32, 1#32], W, by decide +kernel⟩,
    ⟨R [0#32], W, by decide +kernel⟩⟩

/-- Every clause of SecurityCommandsComplete that has hypotheses has a command and a state that meet them. -/
theorem witness_SecurityCommandsComplete :
    (∃ (rq : Req) (s : State),
      let k := secObj (rq.p 0)
      let w := [rq.p 1, rq.p 2, rq.p 3, rq.p 4]
      let old := secCfg s k
      Admitted opSecCfg rq s ∧ s.fused.secPresent = true ∧ rq.params.length = 5 ∧ rq.p 0 &&& ~~~0x000003FF#32 = 0#32 ∧ rq.p 1 &&& ~~~0xE03FFFFF#32 = 0#32 ∧
        ctxFailLimit w ≠ 0 ∧ (!ctxBind w || (!boundByOther s k (ctxCont w) && bindable s (ctxCont w))) = true ∧ (ctxBind old && !ctxBind w && (ctxEnable old ||
        ctxEnable w)) = false ∧ (ctxBind old && decide (ctxCont old ≠ ctxCont w)) = false ∧ (ctxBind w && rq.p 2 = rq.p 3) = false ∧ rq.p 4 &&&
        ~~~0x00003FFF#32 = 0#32)
    ∧ (∃ (rq : Req) (s : State), Admitted opSecRead rq s ∧ s.fused.secPresent = true ∧ rq.params.length = 1 ∧ rq.p 0 &&& ~~~0x000003FF#32 = 0#32)
    ∧ (∃ (rq : Req) (s : State), Admitted opSecStatusRead rq s ∧ s.fused.secPresent = true ∧ rq.params.length = 1 ∧ rq.p 0 &&& ~~~0x000003FF#32 = 0#32)
    ∧ (∃ (rq : Req) (s : State), Admitted opKeyLoad rq s ∧ s.fused.secPresent = true ∧ rq.params.length = 12 ∧ rq.p 0 &&& ~~~0x000003FF#32 = 0#32 ∧ rq.p 1 &&&
      ~~~0x00000003#32 = 0#32 ∧ switchPending s (secObj (rq.p 0)) = false ∧ slotBusy s (secObj (rq.p 0)) (1 - (ctxOf s (secObj (rq.p 0))).cur) = false ∧
      s.sec.keFailed = false ∧ s.sec.owner = 0)
    ∧ (∃ (rq : Req) (s : State), Admitted opKeyClear rq s ∧ s.fused.secPresent = true ∧ rq.params.length = 1 ∧ rq.p 0 &&& ~~~0x000003FF#32 = 0#32 ∧ switchPending s (secObj
      (rq.p 0)) = false ∧ slotBusy s (secObj (rq.p 0)) (1 - (ctxOf s (secObj (rq.p 0))).cur) = false ∧ s.sec.keFailed = false ∧ s.sec.owner = 0)
    ∧ (∃ (rq : Req) (s : State),
      let k := secObj (rq.p 0)
      Admitted opKeySwitch rq s ∧ s.fused.secPresent = true ∧ rq.params.length = 1 ∧ rq.p 0 &&& ~~~0x000003FF#32 = 0#32 ∧ (slotKey (ctxOf s k) (1 - (ctxOf s
        k).cur)).isSome = true ∧ switchPending s k = false)
    ∧ (∃ (rq : Req) (s : State), Admitted opSecClearLoss rq s ∧ s.fused.secPresent = true ∧ rq.params.length = 1 ∧ rq.p 0 &&& ~~~0x000003FF#32 = 0#32)
    ∧ (∃ (rq : Req) (s : State), Admitted opKeStatusRead rq s ∧ rq.params.length = 0) :=
  ⟨⟨R [5#32, 0x80020014#32, 1#32, 2#32, 20#32], W, by decide +kernel⟩,
    ⟨R [7#32], W, by decide +kernel⟩,
    ⟨R [7#32], W, by decide +kernel⟩,
    ⟨R ([7#32] ++ List.replicate 11 0#32), W, by decide +kernel⟩,
    ⟨R [7#32], W, by decide +kernel⟩,
    ⟨{ R [7#32] with cmt := true, commit := 50011#48 }, Wkey, by decide +kernel⟩,
    ⟨R [7#32], W, by decide +kernel⟩,
    ⟨R [], W, by decide +kernel⟩⟩

/-- Every clause of OpticsCommandsComplete that has hypotheses has a command and a state that meet them. -/
theorem witness_OpticsCommandsComplete :
    (∃ (rq : Req) (s : State),
      let n := fld (rq.p 1) 20 16
      Admitted opHkCfg rq s ∧ rq.params.length = 3 + n ∧ rq.p 0 &&& ~~~0x00000001#32 = 0#32 ∧ rq.p 1 &&& ~~~0x801FFFFF#32 = 0#32 ∧ 1 ≤ n ∧ n ≤ 16 ∧ rq.p 2 &&&
        ~~~0x0000FFFF#32 = 0#32 ∧ (if fld (rq.p 1) 15 0 = 0 then decide (fld (rq.p 2) 15 0 = 0) else decide (fld (rq.p 2) 15 0 < fld (rq.p 1) 15 0)) = true ∧
        (∀ e < (rq.params.length - 3), hkEntryOk (rq.p (3 + e)) = true))
    ∧ (∃ (rq : Req) (s : State), Admitted opHkRead rq s ∧ rq.params.length = 1 ∧ rq.p 0 &&& ~~~0x00000001#32 = 0#32)
    ∧ (∃ (rq : Req) (s : State), Admitted opHkTrigger rq s ∧ rq.params.length = 1 ∧ rq.p 0 &&& ~~~0x00000001#32 = 0#32)
    ∧ (∃ (rq : Req) (s : State),
      let n := outObj (rq.p 0)
      Admitted opOutCfg rq s ∧ rq.params.length = 3 ∧ rq.p 0 &&& ~~~0x0000003F#32 = 0#32 ∧ n < 40 ∧ rq.p 1 &&& ~~~0x8000FFFF#32 = 0#32 ∧ fld (rq.p 1) 15 0 ≤ fld
        (rq.p 2) 31 16 ∧ (ownedView s n && decide (fld (rq.p 1) 15 0 ≠ outSetLast s n)) = false ∧ fld (rq.p 2) 15 0 ≠ 0)
    ∧ (∃ (rq : Req) (s : State),
      let n := outObj (rq.p 0)
      Admitted opOutRead rq s ∧ rq.params.length = 1 ∧ rq.p 0 &&& ~~~0x0000003F#32 = 0#32 ∧ n < 40)
    ∧ (∃ (rq : Req) (s : State),
      let l := blObj (rq.p 0)
      let w := [rq.p 1, rq.p 2, rq.p 3]
      let old := (blOf s l).cfg
      Admitted opBlCfg rq s ∧ rq.params.length = 4 ∧ rq.p 0 &&& ~~~0x00000007#32 = 0#32 ∧ rq.p 1 &&& ~~~0xFFF8FFFF#32 = 0#32 ∧ blOut w < 40 ∧ blAmp w ≠ 0 ∧ blHalf w
        ≠ 0 ∧ ((List.range 8).any fun j => j ≠ l && (blViews s j).any fun v => blEnable v && blOut v = blOut w) = false ∧ (blEnable old && blEnable w &&
        !(blOut old = blOut w && blConv old = blConv w && blEnt old = blEnt w)) = false ∧ 2 * blAmp w ≤ outMaxLast s (blOut w) ∧ blCycles w ≠ 0 ∧ blStep w ≠ 0)
    ∧ (∃ (rq : Req) (s : State), Admitted opBlRead rq s ∧ rq.params.length = 1 ∧ rq.p 0 &&& ~~~0x00000007#32 = 0#32)
    ∧ (∃ (rq : Req) (s : State), Admitted opHkResultRead rq s ∧ rq.params.length = 1 ∧ rq.p 0 &&& ~~~0x00000001#32 = 0#32)
    ∧ (∃ (rq : Req) (s : State), Admitted opOutStatusRead rq s ∧ rq.params.length = 0)
    ∧ (∃ (rq : Req) (s : State), Admitted opBlStatusRead rq s ∧ rq.params.length = 1 ∧ rq.p 0 &&& ~~~0x00000007#32 = 0#32)
    ∧ (∃ (rq : Req) (s : State), Admitted opOptStatusRead rq s ∧ rq.params.length = 0)
    ∧ (∃ (rq : Req) (s : State), Admitted opI2cCfg rq s ∧ rq.params.length = 2 ∧ rq.p 0 &&& ~~~0x00000003#32 = 0#32 ∧ rq.p 1 &&& ~~~0xC000007F#32 = 0#32 ∧ fld (rq.p 1) 31
      30 ≤ 2 ∧ 1 ≤ fld (rq.p 1) 6 0 ∧ fld (rq.p 1) 6 0 ≤ 100)
    ∧ (∃ (rq : Req) (s : State),
      let m := i2cObj (rq.p 0)
      Admitted opI2cXfer rq s ∧ rq.params.length = 2 + ceilDiv (xferW (rq.p 1)) 4 ∧ rq.p 0 &&& ~~~0x00000003#32 = 0#32 ∧ rq.p 1 &&& ~~~0x7F1FF1FF#32 = 0#32 ∧ xferW
        (rq.p 1) ≤ 256 ∧ xferR (rq.p 1) ≤ 256 ∧ (i2cOf s m).xfer = none) :=
  ⟨⟨R [0#32, 0x00010000#32, 0#32, 0x00010000#32], W, by decide +kernel⟩,
    ⟨R [0#32], W, by decide +kernel⟩,
    ⟨R [0#32], W, by decide +kernel⟩,
    ⟨R [3#32, 0#32, 0x00010001#32], W, by decide +kernel⟩,
    ⟨R [3#32], W, by decide +kernel⟩,
    ⟨R [1#32, 0x83000101#32, 0x00010001#32, 0#32], W, by decide +kernel⟩,
    ⟨R [1#32], W, by decide +kernel⟩,
    ⟨R [0#32], W, by decide +kernel⟩,
    ⟨R [], W, by decide +kernel⟩,
    ⟨R [1#32], W, by decide +kernel⟩,
    ⟨R [], W, by decide +kernel⟩,
    ⟨R [1#32, 32#32], W, by decide +kernel⟩,
    ⟨R [1#32, 0x50000001#32], W, by decide +kernel⟩⟩

/-- Every clause of ModeAndBootCommandsComplete that has hypotheses has a command and a state that meet them. -/
theorem witness_ModeAndBootCommandsComplete :
    (∃ (rq : Req) (s : State), Admitted opQuench rq s ∧ rq.params.length = 0)
    ∧ (∃ (rq : Req) (s : State), Admitted opQuenchExit rq s ∧ rq.params.length = 0 ∧ inQuench s = true ∧ quenchHeld s = false)
    ∧ (∃ (rq : Req) (s : State), Admitted opFaultAck rq s ∧ rq.params.length = 0 ∧ (!s.mode.latched.any fun f => s.mode.present.contains f) = true)
    ∧ (∃ (rq : Req) (s : State),
      let t := fld (rq.p 0) 3 0
      Admitted opModeSet rq s ∧ rq.params.length = 1 ∧ rq.p 0 &&& ~~~0x0000000F#32 = 0#32 ∧ 2 ≤ t ∧ t ≤ 4 ∧ (modeOfCode t = .forge ∨ bondAny s = false) ∧ (modeOfCode
        t ≠ .temper ∨ 2 ≤ coresWorking s) ∧ (s.mode.mode = .kindle → s.boot.stage = .ready) ∧ waiting opModeSet s = [] ∧ (modeOfCode t ≠ .temper ∨ inUse
        (bankAt s (actsAt s (if rq.cmt then some rq.commit else none))) ≤ limitIn .temper s))
    ∧ (∃ (rq : Req) (s : State), Admitted opModeCfg rq s ∧ rq.params.length = 1 ∧ rq.p 0 &&& ~~~0x80FF0FFF#32 = 0#32 ∧ 1 ≤ fld (rq.p 0) 23 16 ∧ 1 ≤ fld (rq.p 0) 11 0 ∧ fld
      (rq.p 0) 11 0 ≤ 3600)
    ∧ (∃ (rq : Req) (s : State), Admitted opModeStatusRead rq s ∧ rq.params.length = 0)
    ∧ (∃ (rq : Req) (s : State),
      let off := fld (rq.p 0) 20 0
      let ws := rq.params.drop 1
      Admitted opImageStage rq s ∧ 2 ≤ rq.params.length ∧ rq.params.length ≤ 4001 ∧ rq.p 0 &&& ~~~0x801FFFFF#32 = 0#32 ∧ off + ws.length ≤ 1575052)
    ∧ (∃ (rq : Req) (s : State), Admitted opBootExec rq s ∧ s.boot.rom = true ∧ rq.params.length = 0)
    ∧ (∃ (rq : Req) (s : State), Admitted opImageInstall rq s ∧ rq.params.length = 1 ∧ rq.p 0 &&& ~~~0x00000001#32 = 0#32)
    ∧ (∃ (rq : Req) (s : State),
      let k := signerObj (rq.p 0)
      Admitted opSignerSlotProgram rq s ∧ rq.mac.isSome = true ∧ rq.params.length = 13 ∧ rq.p 0 &&& ~~~0x00000003#32 = 0#32 ∧ k < 3 ∧ (tget {} s.boot.slots
        k).programmed = false)
    ∧ (∃ (rq : Req) (s : State),
      let k := signerObj (rq.p 0)
      Admitted opSignerRevoke rq s ∧ rq.mac.isSome = true ∧ rq.params.length = 1 ∧ rq.p 0 &&& ~~~0x00000003#32 = 0#32 ∧ k < 3 ∧ k ≠ s.boot.signer)
    ∧ (∃ (rq : Req) (s : State), Admitted opRollbackAdvance rq s ∧ rq.mac.isSome = true ∧ rq.params.length = 0 ∧ s.boot.rollback = none ∧ s.boot.runSvn.toNat ≤ s.boot.fuses)
    ∧ (∃ (rq : Req) (s : State), Admitted opRollbackAdvance rq s ∧ rq.mac.isSome = true ∧ rq.params.length = 0 ∧ s.boot.rollback = none ∧ s.boot.fuses < s.boot.runSvn.toNat)
    ∧ (∃ (rq : Req) (s : State), Admitted opSysRestart rq s ∧ rq.params.length = 0)
    ∧ (∃ (rq : Req) (s : State), Admitted opBootStatusRead rq s ∧ rq.params.length = 0)
    ∧ (∃ (rq : Req) (s : State), Admitted opPkSet rq s ∧ rq.params.length = 97 ∧ rq.p 0 &&& ~~~0#32 = 0#32)
    ∧ (∃ (rq : Req) (s : State),
      let l := fld (rq.p 0) 9 8
      Admitted opAuthKeyLoad rq s ∧ rq.params.length = (if l = 0 then 2 else 12) ∧ rq.p 0 &&& ~~~0x00000307#32 = 0#32 ∧ rq.p 1 &&& ~~~0x00000007#32 = 0#32 ∧ fld
        (rq.p 1) 2 0 ≤ 4 ∧ losesAdmin (fld (rq.p 0) 2 0) l s = false ∧ s.sec.keFailed = false ∧ s.sec.owner = 0)
    ∧ (∃ (rq : Req) (s : State), Admitted opTkLoad rq s ∧ rq.params.length = (if bit (rq.p 0) 8 then 2 else 12) ∧ rq.p 0 &&& ~~~0x00000103#32 = 0#32 ∧ rq.p 1 &&&
      ~~~0x00000007#32 = 0#32 ∧ fld (rq.p 1) 2 0 ≤ 4 ∧ s.sec.keFailed = false ∧ s.sec.owner = 0)
    ∧ (∃ (rq : Req) (s : State), Admitted opKeySlotsRead rq s ∧ rq.params.length = 0)
    ∧ (∃ (rq : Req) (s : State), Admitted opIdRead rq s ∧ rq.params.length = 0)
    ∧ (∃ (rq : Req) (s : State), Admitted opAttest rq s ∧ rq.params.length = 8)
    ∧ (∃ (rq : Req) (s : State),
      let f := fld (rq.p 0) 5 0
      let n := fld (rq.p 0) 13 8 + 1
      Admitted opFaultRead rq s ∧ rq.params.length = 1 ∧ rq.p 0 &&& ~~~0x00003F3F#32 = 0#32 ∧ f + n ≤ 64)
    ∧ (∃ (rq : Req) (s : State), Admitted opFaultExport rq s ∧ rq.params.length = 8)
    ∧ (∃ (rq : Req) (s : State), Admitted opRetireRead rq s ∧ rq.params.length = 0)
    ∧ (∃ (rq : Req) (s : State), Admitted opProfileRestore rq s ∧ rq.params.length = 0 ∧ (latestProfile s).isSome = true ∧ kindleReady s = true)
    ∧ (∃ (rq : Req) (s : State), Admitted opStore rq s ∧ slotCount s (targetB s) < 10000 ∧ rq.params.length = 1 ∧ rq.p 0 &&& ~~~0x00000001#32 = 0#32 ∧ s.store.store = none
      ∧ s.store.erase = none ∧ s.sec.keFailed = false ∧ s.sec.owner = 0)
    ∧ (∃ (rq : Req) (s : State), Admitted opStoreStatusRead rq s ∧ rq.params.length = 0)
    ∧ (∃ (rq : Req) (s : State), Admitted opProfileErase rq s ∧ rq.params.length = 0 ∧ s.store.store = none ∧ s.store.erase = none) :=
  ⟨⟨R [], W, by decide +kernel⟩,
    ⟨R [], Wquench, by decide +kernel⟩,
    ⟨R [], W, by decide +kernel⟩,
    ⟨R [2#32], W, by decide +kernel⟩,
    ⟨R [0x80400E10#32], W, by decide +kernel⟩,
    ⟨R [], W, by decide +kernel⟩,
    ⟨R [0#32, 1#32], W, by decide +kernel⟩,
    ⟨R [], State.reset, by decide +kernel⟩,
    ⟨R [1#32], W, by decide +kernel⟩,
    ⟨{ R ([1#32] ++ List.replicate 12 0#32) with mac := some { slot := 0, seq := 1#48 } }, W, by decide +kernel⟩,
    ⟨{ R [1#32] with mac := some { slot := 0, seq := 1#48 } }, W, by decide +kernel⟩,
    ⟨{ R [] with mac := some { slot := 0, seq := 1#48 } }, W, by decide +kernel⟩,
    ⟨{ R [] with mac := some { slot := 0, seq := 1#48 } }, Wsvn, by decide +kernel⟩,
    ⟨R [], W, by decide +kernel⟩,
    ⟨R [], W, by decide +kernel⟩,
    ⟨R (List.replicate 97 0#32), W, by decide +kernel⟩,
    ⟨R [0#32, 0#32], W, by decide +kernel⟩,
    ⟨R [256#32, 0#32], W, by decide +kernel⟩,
    ⟨R [], W, by decide +kernel⟩,
    ⟨R [], W, by decide +kernel⟩,
    ⟨R [0#32, 0#32, 0#32, 0#32, 0#32, 0#32, 0#32, 0#32], W, by decide +kernel⟩,
    ⟨R [0#32], W, by decide +kernel⟩,
    ⟨R [0#32, 0#32, 0#32, 0#32, 0#32, 0#32, 0#32, 0#32], W, by decide +kernel⟩,
    ⟨R [], W, by decide +kernel⟩,
    ⟨R [], Wprofile, by decide +kernel⟩,
    ⟨R [0#32], W, by decide +kernel⟩,
    ⟨R [], W, by decide +kernel⟩,
    ⟨R [], W, by decide +kernel⟩⟩

/-- Every clause of CounterCommandsComplete that has hypotheses has a command and a state that meet them. -/
theorem witness_CounterCommandsComplete :
    (∃ (rq : Req) (s : State),
      let n := fld (rq.p 0) 9 0
      Admitted opEvcRead rq s ∧ 1 ≤ rq.params.length ∧ rq.params.length ≤ 513 ∧ rq.p 0 &&& ~~~0x000003FF#32 = 0#32 ∧ 1 ≤ n ∧ n ≤ 512 ∧ rq.params.length = 1 + n ∧ (∀
        i < n, idOk (rq.p (1 + i)) = true))
    ∧ (∃ (rq : Req) (s : State),
      let n := fld (rq.p 0) 31 28
      let k := fld (rq.p 1) 8 0
      Admitted opPmRead rq s ∧ rq.params.length = 2 ∧ rq.p 0 &&& ~~~0xF000FFFF#32 = 0#32 ∧ n ≤ 6 ∧ rq.p 1 &&& ~~~0x000001FF#32 = 0#32 ∧ 1 ≤ k ∧ k ≤ 400)
    ∧ (∃ (rq : Req) (s : State), Admitted opPmSnap rq s ∧ rq.params.length = 0)
    ∧ (∃ (rq : Req) (s : State),
      let c := fld (rq.p 0) 12 8
      let id := rq.p 2
      Admitted opWinCfg rq s ∧ rq.params.length = 3 ∧ rq.p 0 &&& ~~~0x00001F0F#32 = 0#32 ∧ winCls c = true ∧ rq.p 1 &&& ~~~0x8000FFFF#32 = 0#32 ∧ 1 ≤ fld (rq.p 1) 15
        0 ∧ fld (rq.p 1) 15 0 ≤ 50000 ∧ ((id = 0#32 && !bit (rq.p 1) 31) || (idOk id && decide (idCls id = c))) = true)
    ∧ (∃ (rq : Req) (s : State),
      let c := fld (rq.p 0) 12 8
      Admitted opWinRead rq s ∧ rq.params.length = 1 ∧ rq.p 0 &&& ~~~0x00001F00#32 = 0#32 ∧ winCls c = true)
    ∧ (∃ (rq : Req) (s : State),
      let c := fld (rq.p 0) 12 8
      let k := fld (rq.p 0) 7 0
      Admitted opEvtMaskWrite rq s ∧ rq.params.length = 1 ∧ rq.p 0 &&& ~~~0x80001FFF#32 = 0#32 ∧ evAssigned c k = true ∧ evIntr c k = true)
    ∧ (∃ (rq : Req) (s : State),
      let c := fld (rq.p 0) 12 8
      Admitted opEvtMaskRead rq s ∧ rq.params.length = 1 ∧ rq.p 0 &&& ~~~0x00001F00#32 = 0#32 ∧ winCls c = true)
    ∧ (∃ (rq : Req) (s : State),
      let n := fld (rq.p 0) 8 0
      Admitted opEvtPop rq s ∧ rq.params.length = 1 ∧ rq.p 0 &&& ~~~0x000001FF#32 = 0#32 ∧ 1 ≤ n ∧ n ≤ 256)
    ∧ (∃ (rq : Req) (s : State), Admitted opIntegStatusRead rq s ∧ rq.params.length = 0)
    ∧ (∃ (rq : Req) (s : State), Admitted opArbCfg rq s ∧ rq.params.length = 2 ∧ rq.p 1 &&& ~~~0x00FFFFFF#32 = 0#32) :=
  ⟨⟨R [1#32, 0x01000008#32], W, by decide +kernel⟩,
    ⟨R [0#32, 2#32], W, by decide +kernel⟩,
    ⟨{ R [] with cmt := true, commit := 50011#48 }, W, by decide +kernel⟩,
    ⟨R [1027#32, 0x80000032#32, 0x04002806#32], W, by decide +kernel⟩,
    ⟨R [256#32], W, by decide +kernel⟩,
    ⟨R [257#32], W, by decide +kernel⟩,
    ⟨R [256#32], W, by decide +kernel⟩,
    ⟨R [1#32], W, by decide +kernel⟩,
    ⟨R [], W, by decide +kernel⟩,
    ⟨R [0#32, 0#32], W, by decide +kernel⟩⟩

/-- Every clause of PinAndFaultEventsAct that has hypotheses has a command and a state that meet them. -/
theorem witness_PinAndFaultEventsAct :
    (∃ (ns : Nat) (s : State), s.pins.powered = true ∧ 1000 ≤ ns)
    ∧ (∃ (s : State), s.pins.powered = true ∧ s.pins.rstnLow = true)
    ∧ (∃ (mv : Nat) (s : State), s.pins.powered = true ∧ mv < 1400)
    ∧ (∃ (s : State), s.pins.powered = false)
    ∧ (∃ (r : Nat) (s : State), s.boot.restart = some r ∧ r < s.stk.run ∧ s.stk.row = 0)
    ∧ (∃ (l : JtagLoad) (s : State), s.pins.powered = true ∧ l.trstLow = false ∧ jtagForces l.instr = false)
    ∧ (∃ (l : JtagLoad) (s : State), alive s = true ∧ l.trstLow = false ∧ jtagForces l.instr = true)
    ∧ (∃ (l : JtagLoad) (s : State), s.pins.powered = true ∧ l.trstLow = true)
    ∧ (∃ (rail : Rail) (uv : Nat) (rows : Nat) (s : State), alive s = true ∧ railOut rail uv = true ∧ 2 ≤ rows ∧ s.mode.present.contains .railFault = false)
    ∧ (∃ (rows : Nat) (s : State), alive s = true ∧ 2 ≤ rows ∧ s.mode.present.contains .pllUnlock = false)
    ∧ (∃ (temp : Int) (rows : Nat) (s : State), alive s = true ∧ 1150 ≤ temp ∧ 2 ≤ rows)
    ∧ (∃ (temp : Int) (rows : Nat) (s : State), alive s = true ∧ 1050 ≤ temp ∧ 2 ≤ rows)
    ∧ (∃ (s : State), 250000 ≤ s.sec.reseedAge ∧ s.sec.keFailed = false)
    ∧ (∃ (f : SevereFault) (strokes : Nat) (n : Nat) (s : State), faultClearAfter f = some n ∧ s.mode.present.contains f = true ∧ n ≤ strokes ∧ f = .thermTrip ∧ n ≤
      s.mode.coolRun)
    ∧ (∃ (s : State), alive s = true ∧ s.mode.lockstep = true)
    ∧ (∃ (core : Fin 4) (pass : Bool) (s : State), s.mode.coreTest.contains core.val = true ∧ pass = true)
    ∧ (∃ (core : Fin 4) (pass : Bool) (s : State), s.mode.coreTest.contains core.val = true ∧ pass = false ∧ s.mode.coresLost.contains core.val = false)
    ∧ (∃ (s : State), alive s = true)
    ∧ (∃ (requester : Nat) (s : State), 500 ≤ tget 0 s.integ.hbmOwner requester)
    ∧ (∃ (s : State), alive s = true ∧ s.integ.dbg = false)
    ∧ (∃ (e : Fin 4) (dac : Bool) (lane : Fin 4) (slice : Fin 8) (s : State), alive s = true ∧ enginePresent s e = true ∧ sliceBeyond s e dac lane slice = true)
    ∧ (∃ (s : State), depthsReached s = true) :=
  ⟨⟨1000, W, by decide +kernel⟩,
    ⟨(W.onPins fun v => { v with rstnLow := true }), by decide +kernel⟩,
    ⟨1399, W, by decide +kernel⟩,
    ⟨(W.onPins fun v => { v with powered := false }), by decide +kernel⟩,
    ⟨50009, (W.onBoot fun v => { v with restart := some 50009 }), by decide +kernel⟩,
    ⟨{ instr := .preload }, W, by decide +kernel⟩,
    ⟨{ instr := .highz }, W, by decide +kernel⟩,
    ⟨{ instr := .extest, trstLow := true }, W, by decide +kernel⟩,
    ⟨.vddCore, 704999, 2, W, by decide +kernel⟩,
    ⟨2, W, by decide +kernel⟩,
    ⟨1150, 2, W, by decide +kernel⟩,
    ⟨1050, 2, W, by decide +kernel⟩,
    ⟨(W.onSec fun v => { v with reseedAge := 250000 }), by decide +kernel⟩,
    ⟨.thermTrip, 50000, 50000, (W.onMode fun v => { v with present := [.thermTrip], coolRun := 50000 }), by decide +kernel⟩,
    ⟨(W.onMode fun v => { v with lockstep := true }), by decide +kernel⟩,
    ⟨3, true, (W.onMode fun v => { v with coreTest := [3] }), by decide +kernel⟩,
    ⟨3, false, (W.onMode fun v => { v with coreTest := [3] }), by decide +kernel⟩,
    ⟨W, by decide +kernel⟩,
    ⟨2, (W.onInteg fun v => { v with hbmOwner := [(2, 500)] }), by decide +kernel⟩,
    ⟨W, by decide +kernel⟩,
    ⟨3, true, 3, 7, (W.onTx fun v => { v with eng := [(3, { calLim := [(63, 100)] })] }), by decide +kernel⟩,
    ⟨(W.onMode fun v => { v with depthSettled := false }), by decide +kernel⟩⟩

/-- Every clause of ClockEventsAct that has hypotheses has a command and a state that meet them. -/
theorem witness_ClockEventsAct :
    (∃ (s : State), fld s.stk.cfg0 3 0 < 4 ∧ isFollower s = false)
    ∧ (∃ (c : Fin 24) (why : RefCause) (s : State), bit (refCfg s c) 0 = true ∧ refAbsent s c = false ∧ condHolds s c why = true)
    ∧ (∃ (c : Fin 24) (s : State), s.clk.failed.contains c.val = true ∧ tget 0 s.clk.failWhy c = 0 ∧ tget 0 s.clk.okSince c + clkWtr s * 50000 < s.stk.run)
    ∧ (∃ (s : State), s.clk.state = .acquiring ∧ 5000 ≤ s.clk.lockRun)
    ∧ (∃ (s : State), s.clk.state = .acquiring ∧ 1500000 ≤ s.clk.acqRun)
    ∧ (∃ (s : State), s.clk.state = .locked ∧ 3000000 ≤ s.clk.lockedRun)
    ∧ (∃ (s : State), s.clk.state = .holdover ∧ holdoverLimit s * 50000 ≤ s.clk.holdRun)
    ∧ (∃ (s : State), s.root.aligned = false ∧ 100 ≤ s.root.noAnn)
    ∧ (∃ (s : State), alive s = true ∧ s.stk.row < 124) :=
  ⟨⟨(W.onStk fun v => { v with cfg0 := 3#32 }), by decide +kernel⟩,
    ⟨23, .edge, (W.onClk fun v => { v with refCfg := [(23, 0x0F000901#32)] }), by decide +kernel⟩,
    ⟨0, (W.onClk fun v => { v with failed := [0], clk1 := 0x00010000#32, okSince := [(0, 9)] }), by decide +kernel⟩,
    ⟨(W.onClk fun v => { v with state := .acquiring, lockRun := 5000 }), by decide +kernel⟩,
    ⟨(W.onClk fun v => { v with state := .acquiring, acqRun := 1500000 }), by decide +kernel⟩,
    ⟨(W.onClk fun v => { v with state := .locked, lockedRun := 3000000 }), by decide +kernel⟩,
    ⟨(W.onClk fun v => { v with state := .holdover, clk0 := 0x60000001#32, holdRun := 50000 }), by decide +kernel⟩,
    ⟨(W.onRoot fun v => { v with noAnn := 100 }), by decide +kernel⟩,
    ⟨(W.onStk fun v => { v with row := 123 }), by decide +kernel⟩⟩

/-- Every clause of TransportEventsAct that has hypotheses has a command and a state that meet them. -/
theorem witness_TransportEventsAct :
    (∃ (s : State), pcieOn s = true)
    ∧ (∃ (ch : Fin 4) (v : W32) (s : State), pcieOn s = true ∧ (v = 0#32 ∨ (chanOf s ch).cmdSize = 0#32 ∧ ringSizeOk v = true))
    ∧ (∃ (ch : Fin 4) (v : W32) (s : State), pcieOn s = true ∧ (v = 0#32 ∨ (chanOf s ch).rplSize = 0#32 ∧ ringSizeOk v = true))
    ∧ (∃ (s : State), pcieOn s = true)
    ∧ (∃ (s : State), pcieOn s = true)
    ∧ (∃ (s : State), pcieOn s = true)
    ∧ (∃ (s : State), pcieOn s = true)
    ∧ (∃ (off : W12) (s : State), pcieOn s = true ∧ off = 0x00C#12)
    ∧ (∃ (off : W12) (s : State), pcieOn s = true ∧ off ≠ 0x004#12 ∧ off ≠ 0x008#12 ∧ off ≠ 0x00C#12 ∧ (off.toNat < 0x100 ∨ 0x200 ≤ off.toNat))
    ∧ (∃ (ch : Fin 4) (ws : List W32) (good : Bool) (s : State), pcieOn s = true ∧ (chanOf s ch).cmdSize ≠ 0#32 ∧ (chanOf s ch).stopped = false ∧ 3 ≤ ws.length ∧ lengthOk
      ws = true ∧ ws.length = lengthField ws ∧ lengthField ws ≤ ringAvail (chanOf s ch) ∧ qfill s ch + lengthField ws ≤ 8192 ∧ 3 ≤ ringAvail (chanOf s ch) ∧ good =
      true ∧ crcOk ws = true)
    ∧ (∃ (ch : Fin 4) (head : Option W32) (p : List W32) (r : List (List W32)) (s : State), rqOf s ch = p :: r ∧ pcieOn s = true ∧ (ringAt ch head s).rplSize ≠ 0#32 ∧
      ringFill (ringAt ch head s) + p.length + 1 ≤ (ringAt ch head s).rplSize.toNat)
    ∧ (∃ (ch : Fin 4) (v : W32) (head : Option W32) (s : State), rqOf s ch = [] ∧ pcieOn s = true ∧ head = some v)
    ∧ (∃ (bs : List Byte) (s : State), spiOn s = true ∧ 3 ≤ (wordsOfBytes bs).length ∧ lengthOk (wordsOfBytes bs) = true ∧ qfill s 4 + lengthField (wordsOfBytes bs) ≤ 8192
      ∧ lengthField (wordsOfBytes bs) ≤ (wordsOfBytes bs).length ∧ crcOk ((wordsOfBytes bs).take (lengthField (wordsOfBytes bs))) = true)
    ∧ (∃ (s : State), spiOn s = true ∧ rqOf s 4 = [])
    ∧ (∃ (clocked : Nat) (p : List W32) (r : List (List W32)) (s : State), spiOn s = true ∧ rqOf s 4 = p :: r ∧ 4 * p.length ≤ clocked)
    ∧ (∃ (s : State), spiOn s = true)
    ∧ (∃ (s : State), spiOn s = true)
    ∧ (∃ (b : Byte) (s : State), spiOn s = true ∧ (b = 0#8 ∨ 5 ≤ b.toNat)) :=
  ⟨⟨W, by decide +kernel⟩,
    ⟨3, 0#32, W, by decide +kernel⟩,
    ⟨3, 0#32, W, by decide +kernel⟩,
    ⟨W, by decide +kernel⟩,
    ⟨W, by decide +kernel⟩,
    ⟨W, by decide +kernel⟩,
    ⟨W, by decide +kernel⟩,
    ⟨0x00C#12, W, by decide +kernel⟩,
    ⟨0x200#12, W, by decide +kernel⟩,
    ⟨3, packetOf [0x10000000#32, 0x00010000#32, 0x00280000#32, 0#32], true, (W.onCmd fun v => { v with chan := [(3, { cmdSize := 1024#32, cmdTail := 5#32 })] }), by decide +kernel⟩,
    ⟨3, some 6#32, [1#32], [], (W.onCmd fun v => { v with chan := [(3, { rplSize := 8192#32, rplTail := 6#32 })], rq := [(3, [[1#32]])] }), by decide +kernel⟩,
    ⟨3, 7#32, some 7#32, W, by decide +kernel⟩,
    ⟨bytesOfWords (packetOf [0x10000000#32, 0x00010000#32, 0x00280000#32, 0#32]), W, by decide +kernel⟩,
    ⟨W, by decide +kernel⟩,
    ⟨4, [1#32], [], (W.onCmd fun v => { v with rq := [(4, [[1#32]])] }), by decide +kernel⟩,
    ⟨W, by decide +kernel⟩,
    ⟨W, by decide +kernel⟩,
    ⟨5#8, W, by decide +kernel⟩⟩

/-- Every clause of CompletionEventsAct that has hypotheses has a command and a state that meet them. -/
theorem witness_CompletionEventsAct :
    (∃ (ws : List W32) (l : List (List W32)) (r : FwdRec) (s : State), s.cmd.fabRpl = ws :: l ∧ s.cmd.fwd.find? (matchesReply ws) = some r ∧ recBroadcast r = false ∧
      rqRoom (r.queue + 6) ws.length s = true)
    ∧ (∃ (d : Deferred) (s : State), s.anvil.sync = some d ∧ backDiffers (shadowTable s) 0 524288 s = false)
    ∧ (∃ (d : Deferred) (s : State), s.grm.sync = some d ∧ backDiffers (6 + pendBank s) 0 1114112 s = false ∧ backDiffers (8 + pendBank s) 0 256 s = false)
    ∧ (∃ (m : Fin 4) (d : Deferred) (s : State), (i2cOf s m).xfer = some d)
    ∧ (∃ (d : Deferred) (r : List Deferred) (s : State), s.store.attest = d :: r)
    ∧ (∃ (r : StoreRun) (p : Profile) (s : State), s.store.store = some r ∧ r.content = some p ∧ r.wrapped = true)
    ∧ (∃ (d : Deferred) (s : State), s.store.erase = some d)
    ∧ (∃ (b : Bool) (img : List (Nat × W32)) (d : Deferred) (s : State), s.boot.install = some (b, img, d))
    ∧ (∃ (d : Deferred) (s : State), s.boot.rollback = some d)
    ∧ (∃ (w : KeyWait) (r : List KeyWait) (s : State), s.sec.wait = w :: r ∧ s.sec.owner = 0 ∧ s.sec.keFailed = false)
    ∧ (∃ (w : KeyWait) (s : State), s.sec.wait = [w] ∧ w.since + 5000 ≤ s.stk.run)
    ∧ (∃ (d : Deferred) (s : State), s.sec.owner ≠ 0 ∧ 500 < s.sec.held ∧ s.sec.seq = some d)
    ∧ (∃ (r : StoreRun) (s : State), s.sec.owner ≠ 0 ∧ 500 < s.sec.held ∧ s.sec.seq = none ∧ s.store.store = some r) :=
  ⟨⟨[0x18001002#32], [], { target := 2#12, own := 1#12 }, (W.onCmd fun v => { v with fwd := [{ target := 2#12, own := 1#12 }], fabRpl := [[0x18001002#32]] }), by decide +kernel⟩,
    ⟨{}, (W.onAnvil fun v => { v with sync := some {} }), by decide +kernel⟩,
    ⟨{}, (W.onGrm fun v => { v with sync := some {} }), by decide +kernel⟩,
    ⟨3, {}, (W.onOpt fun v => { v with i2c := [(3, { xfer := some {} })] }), by decide +kernel⟩,
    ⟨{}, [], (W.onStore fun v => { v with attest := [{}] }), by decide +kernel⟩,
    ⟨{ content := some {}, wrapped := true }, {}, (W.onStore fun v => { v with store := some { content := some {}, wrapped := true } }), by decide +kernel⟩,
    ⟨{}, (W.onStore fun v => { v with erase := some {} }), by decide +kernel⟩,
    ⟨true, [], {}, (W.onBoot fun v => { v with install := some (true, [], {}) }), by decide +kernel⟩,
    ⟨{}, (W.onBoot fun v => { v with rollback := some {} }), by decide +kernel⟩,
    ⟨{ cmd := { opcode := opTkLoad.code, req := R [0x100#32, 0#32] } }, [], (W.onSec fun v => { v with wait := [{ cmd := { opcode := opTkLoad.code, req := R [0x100#32, 0#32] } }] }), ⟨rfl, rfl, rfl⟩⟩,
    ⟨{ cmd := {}, since := 45010 }, (W.onSec fun v => { v with wait := [{ cmd := {}, since := 45010 }] }), by decide +kernel⟩,
    ⟨{}, (W.onSec fun v => { v with owner := 7, held := 501, seq := some {} }), by decide +kernel⟩,
    ⟨{}, (W.onSec fun v => { v with owner := 6, held := 501 }).onStore fun v => { v with store := some {} }, by decide +kernel⟩⟩

/-- Every clause of ProtectionEventsAct that has hypotheses has a command and a state that meet them. -/
theorem witness_ProtectionEventsAct :
    (∃ (g : Nat) (copy : Bool) (s : State), pgEn (pgCfgOf s g) = true ∧ copy = true)
    ∧ (∃ (g : Nat) (k : Nat) (s : State), (groupOf s g).wtr = some k ∧ pgWtr (pgCfgOf s g) * 3000000 ≤ k)
    ∧ (∃ (g : Nat) (t : Nat) (s : State), (groupOf s g).fopPmSince = some t ∧ pgEn (pgCfgOf s g) = true ∧ t + 2500 ≤ s.stk.run)
    ∧ (∃ (g : Nat) (t : Nat) (s : State), (groupOf s g).fopNrSince = some t ∧ pgEn (pgCfgOf s g) = true ∧ pgBidir (pgCfgOf s g) = true ∧ t + 2500 ≤ s.stk.run) :=
  ⟨⟨5, true, (Wgroup {  }), by decide +kernel⟩,
    ⟨5, 3000000, (Wgroup { wtr := some 3000000 }), by decide +kernel⟩,
    ⟨5, 47510, (Wgroup { fopPmSince := some 47510 }), by decide +kernel⟩,
    ⟨5, 47510, (Wgroup { fopNrSince := some 47510 }), by decide +kernel⟩⟩

/-- Every clause of FabricEventsAct that has hypotheses has a command and a state that meet them. -/
theorem witness_FabricEventsAct :
    (∃ (p : Fin 12) (s : State), (portOf s p).state = .down)
    ∧ (∃ (p : Fin 12) (row : LinkRow) (s : State), (portOf s p).state = .train ∧ row.missing = false ∧ (portOf s p).tr.seen = true ∧ rxChoose (resendLanes p row (List.range
      8) s) p ≠ [])
    ∧ (∃ (p : Fin 12) (s : State), (portOf s p).state = .hunt)
    ∧ (∃ (p : Fin 12) (s : State), portSynced s p = true)
    ∧ (∃ (p : Fin 12) (s : State), (portOf s p).state = .hunt ∧ 2501 ≤ (portOf s p).huntRun)
    ∧ (∃ (p : Fin 12) (e : List W32) (r : List (List W32)) (s : State), ((portOf (ctlPurge p s) p).state = .hunt ∨ portSynced (ctlPurge p s) p = true) ∧ (portOf (ctlPurge p
      s) p).ccOut.length < 19 ∧ (portOf (ctlPurge p s) p).q0 = e :: r)
    ∧ (∃ (p : Fin 12) (ws : List W32) (a : State) (s : State), takeEnvelope p 1 ws s = some a ∧ portSynced a p = true ∧ (envBody ws).length = 6 ∧ fld ((envBody ws).getD 0
      0#32) 31 28 = 1)
    ∧ (∃ (p : Fin 12) (s : State), portSynced s p = true ∧ ((s.stk.row = 0 ∧ scnt s % 1000 = 0) ∨ (portOf s p).helloSync = true))
    ∧ (∃ (p : Fin 12) (s : State), portSynced s p = true ∧ (s.stk.row ≠ 0 ∨ scnt s % 1000 ≠ 0) ∧ (portOf s p).helloSync = false ∧ (portOf s p).helloDue = true ∧ 50 ≤
      (portOf s p).helloGap)
    ∧ (∃ (p : Fin 12) (s : State), (portOf s p).adj ≠ .none ∧ 3000 ≤ (portOf s p).helloAge)
    ∧ (∃ (p : Fin 12) (ws : List W32) (a : State) (l : Lsp) (s : State), takeEnvelope p 2 ws s = some a ∧ (ctlPorts a).contains p.val = true ∧ lspRead (envBody ws) = some l)
    ∧ (∃ (s : State), s.stk.row = 0 ∧ s.fab.lspDue = true ∧ s.fab.lsdb.length < 2048)
    ∧ (∃ (s : State), (∃ l ∈ s.fab.lsdb, l.uid ≠ s.fused.uid ∧ 150000 ≤ l.age))
    ∧ (∃ (s : State), s.fab.routesDue = true)
    ∧ (∃ (t : Nat) (s : State), s.fab.waitSince = some t ∧ addrMode s = true ∧ s.fab.exchanged = true)
    ∧ (∃ (s : State), s.fab.addrState = .tentative ∧ 5000 ≤ s.fab.claimRun)
    ∧ (∃ (p : Fin 12) (ws : List W32) (a : State) (s : State), takeEnvelope p 3 ws s = some a ∧ (ctlPorts a).contains p.val = true)
    ∧ (∃ (p : Fin 12) (ws : List W32) (a : State) (s : State), takeEnvelope p 4 ws s = some a ∧ portUp a p = true ∧ twoWay a p = true ∧ (fld ((envBody ws).getD 0 0#32) 31
      30 = 1 ∨ fld ((envBody ws).getD 0 0#32) 31 30 = 2) ∧ rawOpcode ((envBody ws).drop 1) = opFabPathSet.code ∧ lengthOk ((envBody ws).drop 1) = true ∧ crcOk
      ((envBody ws).drop 1) = true) :=
  ⟨⟨11, (Wport { state := .down }), by decide +kernel⟩,
    ⟨11, {}, ((Wport { state := .train, tr := { seen := true, txSet := 0xFF#8 } }).onCli fun v => { v with flane := (List.range 8).map fun l => (88 + l, { rxReady := true }) }), by decide +kernel⟩,
    ⟨11, (Wport { state := .hunt }), by decide +kernel⟩,
    ⟨11, (Wport { state := .up }), by decide +kernel⟩,
    ⟨11, (Wport { state := .hunt, huntRun := 2501 }), by decide +kernel⟩,
    ⟨11, [0x10000000#32], [], (Wport { state := .hunt, q0 := [[0x10000000#32]], ccOut := List.replicate 18 (0#8, false) }), by decide +kernel⟩,
    ⟨11, envelope 1 0 2 0 [0x10000000#32, 0#32, 0#32, 0#32, 0#32, 0#32], _, (Wport { state := .sync, ccGot := [envelope 1 0 2 0 [0x10000000#32, 0#32, 0#32, 0#32, 0#32, 0#32]] }), ⟨if_pos (by decide +kernel), by decide +kernel⟩⟩,
    ⟨11, ((Wport { state := .sync }).onStk fun v => { v with scnt := 51000#48 }), by decide +kernel⟩,
    ⟨11, Wport { state := .sync, helloDue := true, helloGap := 50 }, by decide +kernel⟩,
    ⟨11, (Wport { adj := .oneWay, helloAge := 3000 }), by decide +kernel⟩,
    ⟨11, lspEnvelope 2 { uid := 2#64, seq := 1#32 }, _, { uid := 2#64, seq := 1#32 }, (Wport { state := .up, adj := .twoWay, ccGot := [lspEnvelope 2 { uid := 2#64, seq := 1#32 }] }), ⟨if_pos (by decide +kernel), by decide +kernel⟩⟩,
    ⟨(W.onFab fun v => { v with lspDue := true }), by decide +kernel⟩,
    ⟨(W.onFab fun v => { v with lsdb := [{ uid := 2#64, age := 150000 }] }), by decide +kernel⟩,
    ⟨(W.onFab fun v => { v with routesDue := true }), by decide +kernel⟩,
    ⟨50000, (W.onFab fun v => { v with waitSince := some 50000, exchanged := true }), by decide +kernel⟩,
    ⟨(W.onFab fun v => { v with addrState := .tentative, claimRun := 5000 }), by decide +kernel⟩,
    ⟨11, envelope 3 0 2 0 [], _, (Wport { state := .up, adj := .twoWay, ccGot := [envelope 3 0 2 0 []] }), ⟨if_pos (by decide +kernel), by decide +kernel⟩⟩,
    ⟨11, envelope 4 0 2 0 (0x40000001#32 :: packetOf [0x10000000#32, word [(opFabPathSet.code, 16)], 0x00280000#32, 0#32]), _, (Wport { state := .up, adj := .twoWay, ccGot := [envelope 4 0 2 0 (0x40000001#32 :: packetOf [0x10000000#32, word [(opFabPathSet.code, 16)], 0x00280000#32, 0#32])] }), ⟨if_pos (by decide +kernel), by decide +kernel⟩⟩⟩

/-- Every clause of LineEventsAct that has hypotheses has a command and a state that meet them. -/
theorem witness_LineEventsAct :
    (∃ (e : Fin 4) (s : State), (txEng s e).state = .laserWait ∧ s.stk.row = 0 ∧ lcLaserWait (txEng s e).cfg ≤ (txEng s e).wait)
    ∧ (∃ (e : Fin 4) (s : State), s.stk.row = 0 ∧ (txEng s e).m ≤ (txEng s e).j ∧ (txEng s e).state = .rampUp)
    ∧ (∃ (e : Fin 4) (s : State), s.stk.row = 0 ∧ (txEng s e).m ≤ (txEng s e).j ∧ (txEng s e).state = .rampDown)
    ∧ (∃ (e : Fin 4) (loop : Nat) (i : Nat) (s : State), loop ≤ 8 ∧ i ∈ loopIdx loop ∧ 100 ≤ tget 0 (txEng s e).calLim i ∧ (txEng s e).calLimDecl.contains loop = false)
    ∧ (∃ (e : Fin 4) (lanes : List Nat) (rows : Nat) (s : State), startCal s = false ∧ enginePresent s e = true ∧ (rxEng s e).state ≠ .off ∧ (rxEng s e).los = false ∧
      lanes.length = 4 ∧ (lanes.all fun v => decide (v < rcLosThr (rxEng s e).cfg)) = true ∧ 2 ≤ rows)
    ∧ (∃ (e : Fin 4) (lanes : List Nat) (rows : Nat) (s : State), startCal s = false ∧ (rxEng s e).state = .nosig ∧ (rxEng s e).los = true ∧ (lanes.any fun v => decide
      (rcLosThr (rxEng s e).cfg ≤ v)) = true ∧ 125 ≤ rows)
    ∧ (∃ (e : Fin 4) (tones : List Nat) (s : State), (rxEng s e).state = .scan ∧ superframes s e (2 * (scanResult (rxEng s e).cfg tones).2) ≤ (rxEng s e).scanSym + rowGain
      s e)
    ∧ (∃ (e : Fin 4) (pk : Peak) (s : State), startCal s = false ∧ (rxEng s e).state = .hunt ∧ (peakView (rxEng s e).afc pk.wave).largest = true ∧ reaches (peakView (rxEng
      s e).afc pk.wave).pfr (rcHuntThr (rxEng s e).cfg) 2 = true ∧ freqWithin s e (peakView (rxEng s e).afc pk.wave).df 4000000 = true)
    ∧ (∃ (e : Fin 4) (k : Cand) (s : State), startCal s = false ∧ (rxEng s e).state = .verify ∧ (rxEng s e).cand = some k)
    ∧ (∃ (e : Fin 4) (k : Cand) (s : State), startCal s = false ∧ (rxEng s e).state = .locked ∧ (rxEng s e).cand = some k)
    ∧ (∃ (e : Fin 4) (s : State), (rxEng s e).state = .hunt ∧ superframes s e (rcHuntTimeout (rxEng s e).cfg) ≤ (rxEng s e).huntSym + rowGain s e)
    ∧ (∃ (e : Fin 4) (s : State), (rxEng s e).state = .verify ∧ superframes s e (rcHuntTimeout (rxEng s e).cfg) ≤ (rxEng s e).huntSym + rowGain s e)
    ∧ (∃ (e : Fin 4) (s : State), (rxEng s e).state = .locked ∧ 100 ≤ (rxEng s e).cdLimRun ∧ (rxEng s e).cdLimit = false) :=
  ⟨⟨0, (W.onTx fun v => { v with eng := [(0, { state := .laserWait, wait := 250000 })] }), by decide +kernel⟩,
    ⟨0, (W.onTx fun v => { v with eng := [(0, { state := .rampUp, j := 5, m := 5 })] }), by decide +kernel⟩,
    ⟨0, (W.onTx fun v => { v with eng := [(0, { state := .rampDown, j := 5, m := 5 })] }), by decide +kernel⟩,
    ⟨0, 8, 127, (W.onTx fun v => { v with eng := [(0, { calLim := [(127, 100)] })] }), by decide +kernel⟩,
    ⟨0, [0, 0, 0, 0], 2, (Wrx0 { state := .hunt }), by decide +kernel⟩,
    ⟨0, [64, 0, 0, 0], 125, (Wrx0 { state := .nosig, los := true }), by decide +kernel⟩,
    ⟨0, [], (Wrx0 { state := .scan, scanSym := 10 ^ 40 }), by decide +kernel⟩,
    ⟨0, onePoint, (Wrx0 { state := .hunt }), onePoint_qualifies⟩,
    ⟨0, {}, (Wrx0 { state := .verify, cand := some {} }), by decide +kernel⟩,
    ⟨0, {}, (Wrx0 { state := .locked, cand := some {} }), by decide +kernel⟩,
    ⟨0, (Wrx0 { state := .hunt, huntSym := 10 ^ 40 }), by decide +kernel⟩,
    ⟨0, (Wrx0 { state := .verify, huntSym := 10 ^ 40 }), by decide +kernel⟩,
    ⟨0, (Wrx0 { state := .locked, cdLimRun := 100 }), by decide +kernel⟩⟩

/-- Every clause of OverheadAndLaneEventsAct that has hypotheses has a command and a state that meet them. -/
theorem witness_OverheadAndLaneEventsAct :
    (∃ (e : Fin 4) (cw : CodewordIn) (s : State), enginePresent s e = true ∧ (rxEng s e).state = .locked ∧ (otnOf s e).cwLock = true ∧ cw.phase = (otnOf s e).cwPhase ∧
      cw.iter ≤ cwLimit s e cw.began)
    ∧ (∃ (e : Fin 4) (cw : CodewordIn) (s : State), enginePresent s e = true ∧ (rxEng s e).state = .locked ∧ (otnOf s e).cwLock = false ∧ cw.iter ≤ cwLimit s e cw.began)
    ∧ (∃ (id : OtnId) (e : Fin 4) (s : State), id = .line e ∧ enginePresent s e = true ∧ txSending (txEng s e) = true ∧ (txEng s e).bits.length < 122368 * txRate s e)
    ∧ (∃ (id : OtnId) (p : Fin 48) (i : Fin 16) (s : State), id = .flexo p i ∧ otnStream s id = true ∧ (otnSt s id).inFrame = true)
    ∧ (∃ (id : OtnId) (p : Fin 48) (i : Fin 16) (s : State), id = .flexo p i ∧ otnStream s id = true ∧ (otnSt s id).inFrame = false)
    ∧ (∃ (id : OtnId) (e : Fin 4) (s : State), id = .line e ∧ otnStream s id = true ∧ (otnOf s e).inFrame = true ∧ frameBits (rxRate s e) ≤ (otnOf s e).rxBits.length)
    ∧ (∃ (id : OtnId) (e : Fin 4) (s : State), id = .line e ∧ otnStream s id = true ∧ (otnOf s e).inFrame = false ∧ frameBits (rxRate s e) + 55 ≤ (otnOf s e).rxBits.length)
    ∧ (∃ (id : OtnId) (s : State), otnEnabled s id = true ∧ (otnSt s id).inFrame = false ∧ 18750 + (otnSt s id).oofRow ≤ 125 * (otnSt s id).oofRun + s.stk.row)
    ∧ (∃ (id : OtnId) (s : State), otnEnabled s id = true ∧ (otnSt s id).inMf = false ∧ 18750 + (otnSt s id).oomRow ≤ 125 * (otnSt s id).oomRun + s.stk.row)
    ∧ (∃ (e : Fin 4) (slice : Nat) (s : State), otnStream s (.line e) = true ∧ (otnOf s e).inFrame = true ∧ slice < rxRate s e ∧ (sliceOf (otnOf s e) slice).sync = true ∧
      (sliceOf (otnOf s e) slice).resync = 0 ∧ 2080 ≤ (sliceOf (otnOf s e) slice).rx.length ∧ rhecOk ((sliceOf (otnOf s e) slice).rx.take 2080) = true ∧ rbFollows 0
      (sliceOf (otnOf s e) slice).last ((sliceOf (otnOf s e) slice).rx.take 2080) = true)
    ∧ (∃ (lane : Nat), laneValid lane = true)
    ∧ (∃ (p : TrainPort) (ws : List W32) (s : State), nearLane s p = none ∧ training s p = true ∧ trainFrameOk ws = true)
    ∧ (∃ (p : TrainPort) (k : Nat) (s : State), nearLane s p = some k ∧ training s p = true ∧ trainFrameOk (trainWords s p k) = true)
    ∧ (∃ (p : Fin 12) (s : State), (portOf s p).state = .train ∧ 2500 ≤ (portOf s p).tr.run ∧ (portOf s p).tr.got = false)
    ∧ (∃ (lane : Nat) (n : Nat) (s : State), (laneOf s lane).test = some n ∧ 50 ≤ n)
    ∧ (∃ (p : Nat) (s : State), p < 48 ∧ cpEn (cliPort s p) = true ∧ cpFlexo (cliPort s p) = false) :=
  ⟨⟨0, { phase := 3, iter := 16 }, Wline { cwLock := true, cwPhase := 3 }, by decide +kernel⟩,
    ⟨0, { iter := 16 }, Wline {}, by decide +kernel⟩,
    ⟨.line 0, 0, (W.onTx fun v => { v with eng := [(0, { state := .on, cfg := [0x0C000000#32] })] }), by decide +kernel⟩,
    ⟨.flexo 47 0, 47, 0, Wflexo { inFrame := true }, by decide +kernel⟩,
    ⟨.flexo 47 0, 47, 0, Wflexo {}, by decide +kernel⟩,
    ⟨.line 0, 0, Wbits { cwLock := true, inFrame := true }, ⟨rfl, by decide +kernel, by decide +kernel, by simp [Wbits_bits, Wbits_rate, frameBits]⟩⟩,
    ⟨.line 0, 0, Wbits { cwLock := true }, ⟨rfl, by decide +kernel, by decide +kernel, by simp [Wbits_bits, Wbits_rate, frameBits]⟩⟩,
    ⟨.line 0, Wline { oofRun := 150 }, by decide +kernel⟩,
    ⟨.line 0, Wline { oomRun := 150 }, by decide +kernel⟩,
    ⟨0, 0, Wline { cwLock := true, inFrame := true, slices := [(0, { sync := true, rx := List.replicate 2080 (0#8, false) })] }, by decide +kernel⟩,
    ⟨159, by decide +kernel⟩,
    ⟨.fab 11, trainFrame, (Wport { state := .train }), by decide +kernel⟩,
    ⟨.fab 11, 7, ((Wport { state := .train }).onCli fun v => { v with flane := [(95, { cfg1 := 0x40000000#32, out := [1] })] }), by decide +kernel⟩,
    ⟨11, (Wport { state := .train, tr := { run := 2500 } }), by decide +kernel⟩,
    ⟨64, 50, (W.onCli fun v => { v with flane := [(0, { test := some 50 })] }), by decide +kernel⟩,
    ⟨47, (W.onCli fun v => { v with portCfg := [(47, 0x81000000#32)] }), by decide +kernel⟩⟩

/-- Every clause of GroomingEventsAct that has hypotheses has a command and a state that meet them. -/
theorem witness_GroomingEventsAct :
    (∃ (p : Nat) (bs : List SByte) (bad : Bool) (s : State), groomedPort s p = true ∧ portNear s p = false ∧ inQuench s = false ∧ bad = false ∧ (cliSt s p).hiSer = false
      ∧ (bs.any Prod.snd) = false ∧ (bs.map Prod.fst).length ≤ 9600 ∧ fcsOk (bs.map Prod.fst) = true ∧ bytesIn (inqOf s p) + (bs.map Prod.fst).length ≤ 262144)
    ∧ (∃ (p : Nat) (s : State), groomedPort s p = true ∧ portNear s p = true ∧ inQuench s = false ∧ (cliSt s p).hiSer = false ∧ (cliSt s p).txFrame ≠ [] ∧ (cliSt s
      p).txFrame.length ≤ 9600 ∧ fcsOk (cliSt s p).txFrame = true ∧ bytesIn (inqOf s p) + (cliSt s p).txFrame.length ≤ 262144)
    ∧ (∃ (p : Nat) (c : Nat) (f : List Byte) (r : List (List Byte)) (s : State), nextPort s = some p ∧ ((List.range 128).find? fun c => !ctxBusy s c) = some c ∧
      (s.grm.flight.any fun k => k.second && k.ended.isNone) = false ∧ inqOf s p = f :: r)
    ∧ (∃ (ctx : Nat) (p : Packet) (s : State), (s.grm.flight.find? fun p => p.ctx = ctx && p.ended.isNone) = some p)
    ∧ (∃ (p : Nat) (k : Packet) (s : State), (s.grm.flight.find? fun k => k.port = p) = some k ∧ k.ended ≠ none)
    ∧ (∃ (slot : Nat) (f : List Byte × Bool) (r : List (List Byte × Bool)) (s : State), slot < 1024 ∧ slotWaits s slot = true ∧ nextSlot s (slOut (slotCfg s slot)) = some
      slot ∧ contOut s (slCont (slotCfg s slot)) = f :: r ∧ f.2 = true)
    ∧ (∃ (slot : Nat) (f : List Byte × Bool) (r : List (List Byte × Bool)) (s : State), slot < 1024 ∧ slotWaits s slot = true ∧ nextSlot s (slOut (slotCfg s slot)) = some
      slot ∧ contOut s (slCont (slotCfg s slot)) = f :: r ∧ f.2 = false ∧ groomedPort s (slOut (slotCfg s slot)) = true ∧ grmBytes s (2048 + slOut (slotCfg s slot))
      + f.1.length ≤ 524288)
    ∧ (∃ (slot : Nat) (f : List Byte × Bool) (r : List (List Byte × Bool)) (s : State), slot < 1024 ∧ slotWaits s slot = true ∧ nextSlot s (slOut (slotCfg s slot)) = some
      slot ∧ contOut s (slCont (slotCfg s slot)) = f :: r ∧ f.2 = false ∧ (groomedPort s (slOut (slotCfg s slot)) = false ∨ 524288 < grmBytes s (2048 + slOut
      (slotCfg s slot)) + f.1.length))
    ∧ (∃ (p : Nat) (f : Nat × List Byte) (r : List (Nat × List Byte)) (s : State), groomedPort s p = true ∧ outqOf s p = f :: r) :=
  ⟨⟨47, (List.replicate 60 0#8 ++ fcsOf (List.replicate 60 0#8)).map fun b => (b, false), false, Wgroomed 47, by decide +kernel⟩,
    ⟨47, (Wgroomed 47).onCli fun v => { v with lane := [(47, { cfg1 := 0x40000000#32 })], port := [(47, { txFrame := List.replicate 60 0#8 ++ fcsOf (List.replicate 60 0#8) })] }, by decide +kernel⟩,
    ⟨47, 0, [1#8], [], (W.onGrm fun v => { v with inq := [(47, [[1#8]])], rr := 46 }), by decide +kernel⟩,
    ⟨127, { ctx := 127 }, (W.onGrm fun v => { v with flight := [{ ctx := 127 }] }), by decide +kernel⟩,
    ⟨47, { port := 47, ended := some .miss }, (W.onGrm fun v => { v with flight := [{ port := 47, ended := some .miss }] }), by decide +kernel⟩,
    ⟨3, ([], true), [], Wslot [] true, by decide +kernel⟩,
    ⟨3, ([1#8], false), [], ((Wslot [1#8] false).onCli fun v => { v with portCfg := [(0, 0xC1000000#32)] }), by decide +kernel⟩,
    ⟨3, ([1#8], false), [], Wslot [1#8] false, by decide +kernel⟩,
    ⟨47, (0, [1#8]), [], ((Wgroomed 47).onGrm fun v => { v with outq := [(47, [(0, [1#8])])] }), by decide +kernel⟩⟩

/-- Every clause of OpticsBootAndIntegrityEventsAct that has hypotheses has a command and a state that meet them. -/
theorem witness_OpticsBootAndIntegrityEventsAct :
    (∃ (r : Reseed) (s : State), r.ok = true ∧ s.sec.entUp = true ∧ s.sec.entFail = false ∧ s.sec.keFailed = false ∧ reseedDue s = true)
    ∧ (∃ (conv : Fin 2) (entry : Nat) (r : HkRun) (s : State), (hkOf s conv).running = some r ∧ r.next = entry ∧ hkEnds s r = true)
    ∧ (∃ (loop : Fin 8) (t0 : Nat) (s : State), (blOf s loop).t0 = some t0 ∧ blWindowOver s (blOf s loop) t0 = true ∧ blDetect (blOf s loop).cfg t0 ((blOf s
      loop).samples.filter fun x => x.1 < blBegin (blOf s loop).cfg t0 ((blOf s loop).window + 1)) = none)
    ∧ (∃ (loop : Fin 8) (t0 : Nat) (c : Int) (s : State), (blOf s loop).t0 = some t0 ∧ blWindowOver s (blOf s loop) t0 = true ∧ blDetect (blOf s loop).cfg t0 ((blOf s
      loop).samples.filter fun x => x.1 < blBegin (blOf s loop).cfg t0 ((blOf s loop).window + 1)) = some c)
    ∧ (∃ (b : Bool) (s : State), alive s = true ∧ s.boot.rom = true ∧ s.boot.stage = .romStart ∧ s.boot.stopped = false ∧ nextCopy (s.onBoot fun v => { v with stage :=
      .loading }) = some b)
    ∧ (∃ (s : State), alive s = true ∧ s.boot.rom = true ∧ s.boot.stage = .romStart ∧ s.boot.stopped = false ∧ nextCopy (s.onBoot fun v => { v with stage := .loading }) =
      none)
    ∧ (∃ (copy : Bool) (s : State), alive s = true ∧ s.boot.rom = true ∧ s.boot.stage = .loading ∧ s.boot.stopped = false ∧ nextCopy s = some copy)
    ∧ (∃ (s : State), stageIs .fwStart s = true)
    ∧ (∃ (s : State), stageIs .calibrating s = true ∧ calibrated s = true)
    ∧ (∃ (s : State), stageIs .restoring s = true)
    ∧ (∃ (table : Nat) (index : Nat) (s : State), s.integ.restore.contains (table, entryBase table index) = true ∧ (s.integ.goldBad.find? fun x => x.1 = table && entryBase
      table x.2.1 = entryBase table index) = none) :=
  ⟨⟨{}, (W.onSec fun v => { v with entUp := true, reseedAge := 50000 }), by decide +kernel⟩,
    ⟨1, 0, { start := 50009 }, (W.onOpt fun v => { v with hk := [(1, { running := some { start := 50009 } })] }), by decide +kernel⟩,
    ⟨7, 0, (W.onOpt fun v => { v with bl := [(7, { t0 := some 0 })] }), by decide +kernel⟩,
    ⟨7, 0, 0, (W.onOpt fun v => { v with bl := [(7, { cfg := [0x83000101#32, 0x00010001#32, 0#32], t0 := some 0, samples := [(0, 5), (1, 5)] })] }), by decide +kernel⟩,
    ⟨false, State.reset.onBoot fun v => { v with flashA := goodHeader }, by decide +kernel⟩,
    ⟨State.reset, by decide +kernel⟩,
    ⟨false, State.reset.onBoot fun v => { v with stage := .loading, flashA := goodHeader }, by decide +kernel⟩,
    ⟨(W.onBoot fun v => { v with stage := .fwStart }), by decide +kernel⟩,
    ⟨(Wcal.onBoot fun v => { v with stage := .calibrating }), by decide +kernel⟩,
    ⟨(W.onBoot fun v => { v with stage := .restoring }), by decide +kernel⟩,
    ⟨0, 524287, (W.onInteg fun v => { v with restore := [(0, 524287)] }), by decide +kernel⟩⟩

/-! ### Witnesses of the frames -/

/-- Every clause of ControlEventsWriteTheirOwnUnits is about a command that goes on. -/
theorem witness_ControlEventsWriteTheirOwnUnits :
    (∃ t, exec .rstnRelease W = .next t) ∧ (∃ t, exec .perstNAssert W = .next t) ∧ (∃ t, exec .perstNRelease W = .next t) ∧ (∃ t, exec (.railFault .vddCore 704999 2) W =
      .next t) ∧ (∃ t, exec (.thermTrip 1150 2) W = .next t) ∧ (∃ t, exec (.thermWarn 1050 2) W = .next t) ∧ (∃ t, exec (.pllUnlock 2) W = .next t) ∧ (∃ t, exec
      (.severeFaultClear .thermTrip 50000) W = .next t) ∧ (∃ t, exec (.jtagInstructionLoad { instr := .preload }) W = .next t) ∧ (∃ t, exec (.strkInEdge 0) W = .next
      t) ∧ (∃ t, exec (.rowTick {}) W = .next t) ∧ (∃ t, exec (.refFail 23 .edge) W = .next t) ∧ (∃ t, exec (.refWtrClear 0) W = .next t) ∧ (∃ t, exec .clockLock W =
      .next t) ∧ (∃ t, exec .acqTimeout W = .next t) ∧ (∃ t, exec .historyValid W = .next t) ∧ (∃ t, exec .holdoverExpired W = .next t) ∧ (∃ t, exec .lostListExpiry
      W = .next t) ∧ (∃ t, exec .rootCandidateTimeout W = .next t) ∧ (∃ t, exec (.cmdTailDoorbell 3 0xFFFFFFFF#32) W = .next t) ∧ (∃ t, exec (.cmdSizeWrite 3 0#32) W
      = .next t) ∧ (∃ t, exec (.rplSizeWrite 3 0#32) W = .next t) ∧ (∃ t, exec (.rplHeadWrite 3 0#32) W = .next t) ∧ (∃ t, exec (.cmdFlush 15#4) W = .next t) ∧ (∃ t,
      exec (.rplFlush 15#4) W = .next t) ∧ (∃ t, exec (.intStatusW1c 0xFFFFFFFF#32) W = .next t) ∧ (∃ t, exec (.bar0RegisterWrite 0x00C#12 0xFFF#32) W = .next t) ∧
      (∃ t, exec (.pciePacketFetch 3 [] ⟨true, .flush⟩) W = .next t) ∧ (∃ t, exec (.replyRingWrite ⟨3, none⟩) W = .next t) ∧ (∃ t, exec (.pktWrite ⟨[], .flush⟩) W =
      .next t) ∧ (∃ t, exec (.rplRead 0) W = .next t) ∧ (∃ t, exec .statusRead W = .next t) ∧ (∃ t, exec (.flush 3#8) W = .next t) ∧ (∃ t, exec (.spiBad 5#8) W =
      .next t) ∧ (∃ t, exec (.fabricReplyRx [0x18001002#32]) W = .next t) ∧ (∃ t, exec .fwdTimeout W = .next t) ∧ (∃ t, exec .mapSyncDone W = .next t) ∧ (∃ t, exec
      (.sliceRetire 3 true 3 7) W = .next t) ∧ (∃ t, exec .ruleSyncDone W = .next t) ∧ (∃ t, exec .keyLockGrant W = .next t) ∧ (∃ t, exec .keyLockWaitExpiry W =
      .next t) ∧ (∃ t, exec .keyLockTimeout W = .next t) ∧ (∃ t, exec .keFail W = .next t) ∧ (∃ t, exec (.i2cXferDone 3 {}) W = .next t) ∧ (∃ t, exec
      (.lockstepMiscompare 0) W = .next t) ∧ (∃ t, exec (.coreSelfTestDone 3 true) W = .next t) ∧ (∃ t, exec .depthSettled W = .next t) ∧ (∃ t, exec
      .imageInstallDone W = .next t) ∧ (∃ t, exec .attestDone W = .next t) ∧ (∃ t, exec .storeDone W = .next t) ∧ (∃ t, exec .profileEraseDone W = .next t) ∧ (∃ t,
      exec (.busDecerr 7 true) W = .next t) ∧ (∃ t, exec (.arbWdog 2 true) W = .next t) ∧ (∃ t, exec .rollbackAdvanceDone W = .next t) ∧ (∃ t, exec .debugPortAccess
      W = .next t) :=
  ⟨⟨_, rfl⟩, ⟨_, rfl⟩, ⟨_, rfl⟩, ⟨_, rfl⟩, ⟨_, rfl⟩, ⟨_, rfl⟩, ⟨_, rfl⟩, ⟨_, rfl⟩, ⟨_, rfl⟩, ⟨_, rfl⟩, ⟨_, rfl⟩, ⟨_, rfl⟩, ⟨_, rfl⟩, ⟨_, rfl⟩, ⟨_, rfl⟩, ⟨_, rfl⟩, ⟨_,
    rfl⟩, ⟨_, rfl⟩, ⟨_, rfl⟩, ⟨_, rfl⟩, ⟨_, rfl⟩, ⟨_, rfl⟩, ⟨_, rfl⟩, ⟨_, rfl⟩, ⟨_, rfl⟩, ⟨_, rfl⟩, ⟨_, rfl⟩, ⟨_, rfl⟩, ⟨_, rfl⟩, ⟨_, rfl⟩, ⟨_, rfl⟩, ⟨_, rfl⟩, ⟨_,
    rfl⟩, ⟨_, rfl⟩, ⟨_, rfl⟩, ⟨_, rfl⟩, ⟨_, rfl⟩, ⟨_, rfl⟩, ⟨_, rfl⟩, ⟨_, rfl⟩, ⟨_, rfl⟩, ⟨_, rfl⟩, ⟨_, rfl⟩, ⟨_, rfl⟩, ⟨_, rfl⟩, ⟨_, rfl⟩, ⟨_, rfl⟩, ⟨_, rfl⟩, ⟨_,
    rfl⟩, ⟨_, rfl⟩, ⟨_, rfl⟩, ⟨_, rfl⟩, ⟨_, rfl⟩, ⟨_, rfl⟩, ⟨_, rfl⟩⟩

/-- Every clause of TrafficEventsWriteTheirOwnUnits is about a command that goes on. -/
theorem witness_TrafficEventsWriteTheirOwnUnits :
    (∃ t, exec (.containerFrameRx .cont 0 0) W = .next t) ∧ (∃ t, exec (.pgHoldoffExpiry 5 true) W = .next t) ∧ (∃ t, exec (.pgWtrExpiry 5) W = .next t) ∧ (∃ t, exec
      (.dfopPm 5) W = .next t) ∧ (∃ t, exec (.dfopNr 5) W = .next t) ∧ (∃ t, exec (.fabLinkRowRx 11 {}) W = .next t) ∧ (∃ t, exec (.fabHuntTimeout 11) W = .next t) ∧
      (∃ t, exec (.envelopeTransmit 11) W = .next t) ∧ (∃ t, exec (.helloRx 11 (envelope 1 0 2 0 [0x10000000#32, 0#32, 0#32, 0#32, 0#32, 0#32])) W = .next t) ∧ (∃ t,
      exec (.helloSend 11) W = .next t) ∧ (∃ t, exec (.helloLoss 11) W = .next t) ∧ (∃ t, exec (.lspRx 11 (lspEnvelope 2 { uid := 2#64, seq := 1#32 })) W = .next t)
      ∧ (∃ t, exec .lspOriginate W = .next t) ∧ (∃ t, exec .lspAgeing W = .next t) ∧ (∃ t, exec .routeRecompute W = .next t) ∧ (∃ t, exec .addrWaitEnd W = .next t) ∧
      (∃ t, exec .addrClaimed W = .next t) ∧ (∃ t, exec (.polastEnvelopeRx 11 (envelope 3 0 2 0 [])) W = .next t) ∧ (∃ t, exec .broadcastRecordExpiry W = .next t) ∧
      (∃ t, exec (.pathHopRx 11 (envelope 4 0 2 0 (0x40000001#32 :: packetOf [0x10000000#32, word [(opFabPathSet.code, 16)], 0x00280000#32, 0#32]))) W = .next t) ∧
      (∃ t, exec (.txLaserWaitEnd 0) W = .next t) ∧ (∃ t, exec (.txRampDone 0) W = .next t) ∧ (∃ t, exec (.calLimit 0 8) W = .next t) ∧ (∃ t, exec (.drxlos 0 [0, 0,
      0, 0] 2) W = .next t) ∧ (∃ t, exec (.drxlosClear 0 [64, 0, 0, 0] 125) W = .next t) ∧ (∃ t, exec (.cdScanDone 0 []) W = .next t) ∧ (∃ t, exec (.headerCandidate
      0 onePoint) W = .next t) ∧ (∃ t, exec (.headerWindowEnd 0 {}) W = .next t) ∧ (∃ t, exec (.huntTimeout 0) W = .next t) ∧ (∃ t, exec (.cdTrackLimit 0) W = .next
      t) ∧ (∃ t, exec (.codewordDecode 0 { phase := 3, iter := 16 }) W = .next t) ∧ (∃ t, exec (.otucFrameTx (.line 0) []) W = .next t) ∧ (∃ t, exec (.otucFrameRx
      (.flexo 47 0) {}) W = .next t) ∧ (∃ t, exec (.dlof (.line 0)) W = .next t) ∧ (∃ t, exec (.dlom (.line 0)) W = .next t) ∧ (∃ t, exec (.rowBlockRx 0 0) W = .next
      t) ∧ (∃ t, exec (.dllos 159) W = .next t) ∧ (∃ t, exec (.trainingFrameRx (.fab 11) trainFrame) W = .next t) ∧ (∃ t, exec (.trainTimeout 11) W = .next t) ∧ (∃
      t, exec (.laneTestEnd 64 true) W = .next t) ∧ (∃ t, exec (.clientFrameRx 47 ((List.replicate 60 0#8 ++ fcsOf (List.replicate 60 0#8)).map fun b => (b, false))
      false) W = .next t) ∧ (∃ t, exec .fluxDispatch W = .next t) ∧ (∃ t, exec (.fluxPass 127) W = .next t) ∧ (∃ t, exec (.packetRetire 47) W = .next t) ∧ (∃ t, exec
      .fragAgeExpiry W = .next t) ∧ (∃ t, exec (.unpackFrame 3) W = .next t) ∧ (∃ t, exec (.egressMacTake 47) W = .next t) ∧ (∃ t, exec (.drbgReseed {}) W = .next t)
      ∧ (∃ t, exec .entFail W = .next t) ∧ (∃ t, exec (.hkConversionDone 1 0 [(31, 100)]) W = .next t) ∧ (∃ t, exec (.blWindowEnd 7) W = .next t) ∧ (∃ t, exec
      .romStartDone W = .next t) ∧ (∃ t, exec (.fwStartDone [33]) W = .next t) ∧ (∃ t, exec .kindleCalibrationDone W = .next t) ∧ (∃ t, exec .restoreDone W = .next
      t) ∧ (∃ t, exec (.goldRestore 0 0) W = .next t) ∧ (∃ t, exec (.dloa 47 true) W = .next t) ∧ (∃ t, exec .entropyRestartPass W = .next t) :=
  ⟨⟨_, rfl⟩, ⟨_, rfl⟩, ⟨_, rfl⟩, ⟨_, rfl⟩, ⟨_, rfl⟩, ⟨_, rfl⟩, ⟨_, rfl⟩, ⟨_, rfl⟩, ⟨_, rfl⟩, ⟨_, rfl⟩, ⟨_, rfl⟩, ⟨_, rfl⟩, ⟨_, rfl⟩, ⟨_, rfl⟩, ⟨_, rfl⟩, ⟨_, rfl⟩, ⟨_,
    rfl⟩, ⟨_, rfl⟩, ⟨_, rfl⟩, ⟨_, rfl⟩, ⟨_, rfl⟩, ⟨_, rfl⟩, ⟨_, rfl⟩, ⟨_, rfl⟩, ⟨_, rfl⟩, ⟨_, rfl⟩, ⟨_, rfl⟩, ⟨_, rfl⟩, ⟨_, rfl⟩, ⟨_, rfl⟩, ⟨_, rfl⟩, ⟨_, rfl⟩, ⟨_,
    rfl⟩, ⟨_, rfl⟩, ⟨_, rfl⟩, ⟨_, rfl⟩, ⟨_, rfl⟩, ⟨_, rfl⟩, ⟨_, rfl⟩, ⟨_, rfl⟩, ⟨_, rfl⟩, ⟨_, rfl⟩, ⟨_, rfl⟩, ⟨_, rfl⟩, ⟨_, rfl⟩, ⟨_, rfl⟩, ⟨_, rfl⟩, ⟨_, rfl⟩, ⟨_,
    rfl⟩, ⟨_, rfl⟩, ⟨_, rfl⟩, ⟨_, rfl⟩, ⟨_, rfl⟩, ⟨_, rfl⟩, ⟨_, rfl⟩, ⟨_, rfl⟩, ⟨_, rfl⟩, ⟨_, rfl⟩⟩

/-- Every clause of OtherCommandsWriteTheirOwnUnit is about a command that goes on where no fault has met it. -/
theorem witness_OtherCommandsWriteTheirOwnUnit : W.mode.miscompare = false ∧
    (∃ t, exec (.queueCfg (R [])) W = .next t) ∧ (∃ t, exec (.queueFlush (R [])) W = .next t) ∧ (∃ t, exec (.accessPolicyWrite (R [])) W = .next t) ∧ (∃ t, exec
      (.intClear (R [])) W = .next t) ∧ (∃ t, exec (.evtMaskWrite (R [])) W = .next t) ∧ (∃ t, exec (.evtPop (R [])) W = .next t) ∧ (∃ t, exec (.evcRead (R [])) W =
      .next t) ∧ (∃ t, exec (.commitCancel (R [])) W = .next t) ∧ (∃ t, exec (.strokeSet (R [])) W = .next t) ∧ (∃ t, exec (.mapSync (R [])) W = .next t) ∧ (∃ t,
      exec (.mapWrite (R [])) W = .next t) ∧ (∃ t, exec (.mapRead (R [])) W = .next t) ∧ (∃ t, exec (.contRead (R [])) W = .next t) ∧ (∃ t, exec (.pgRead (R [])) W =
      .next t) ∧ (∃ t, exec (.ruleRead (R [])) W = .next t) ∧ (∃ t, exec (.secRead (R [])) W = .next t) ∧ (∃ t, exec (.arbCfg (R [])) W = .next t) ∧ (∃ t, exec
      (.fabRouteRead (R [])) W = .next t) ∧ (∃ t, exec (.pgStatusRead (R [])) W = .next t) ∧ (∃ t, exec (.txCfg (R [])) W = .next t) ∧ (∃ t, exec (.rxCfg (R [])) W =
      .next t) ∧ (∃ t, exec (.lineFecStatusRead (R [])) W = .next t) ∧ (∃ t, exec (.faultExport (R [])) W = .next t) ∧ (∃ t, exec (.progWrite (R [])) W = .next t) ∧
      (∃ t, exec (.ruleWrite (R [])) W = .next t) ∧ (∃ t, exec (.ruleSync (R [])) W = .next t) ∧ (∃ t, exec (.grmQueueCfg (R [])) W = .next t) ∧ (∃ t, exec
      (.grmQueueFlush (R [])) W = .next t) ∧ (∃ t, exec (.keyLoad (R [])) W = .next t) ∧ (∃ t, exec (.keyClear (R [])) W = .next t) ∧ (∃ t, exec (.authKeyLoad (R
      [])) W = .next t) ∧ (∃ t, exec (.tkLoad (R [])) W = .next t) ∧ (∃ t, exec (.pkSet (R [])) W = .next t) ∧ (∃ t, exec (.store (R [])) W = .next t) ∧ (∃ t, exec
      (.i2cCfg (R [])) W = .next t) ∧ (∃ t, exec (.i2cXfer (R [])) W = .next t) ∧ (∃ t, exec (.imageStage (R [])) W = .next t) ∧ (∃ t, exec (.rollbackAdvance (R []))
      W = .next t) ∧ (∃ t, exec (.signerSlotProgram (R [])) W = .next t) ∧ (∃ t, exec (.signerRevoke (R [])) W = .next t) ∧ (∃ t, exec (.sysRestart (R [])) W = .next
      t) ∧ (∃ t, exec (.imageInstall (R [])) W = .next t) ∧ (∃ t, exec (.faultAck (R [])) W = .next t) ∧ (∃ t, exec (.attest (R [])) W = .next t) ∧ (∃ t, exec
      (.profileErase (R [])) W = .next t) ∧ (∃ t, exec (.pmRead (R [])) W = .next t) ∧ (∃ t, exec (.fabPathSet (R [])) W = .next t) ∧ (∃ t, exec (.quenchExit (R []))
      W = .next t) :=
  ⟨rfl, ⟨_, rfl⟩, ⟨_, rfl⟩, ⟨_, rfl⟩, ⟨_, rfl⟩, ⟨_, rfl⟩, ⟨_, rfl⟩, ⟨_, rfl⟩, ⟨_, rfl⟩, ⟨_, rfl⟩, ⟨_, rfl⟩, ⟨_, rfl⟩, ⟨_, rfl⟩, ⟨_, rfl⟩, ⟨_, rfl⟩, ⟨_, rfl⟩, ⟨_, rfl⟩, ⟨_,
    rfl⟩, ⟨_, rfl⟩, ⟨_, rfl⟩, ⟨_, rfl⟩, ⟨_, rfl⟩, ⟨_, rfl⟩, ⟨_, rfl⟩, ⟨_, rfl⟩, ⟨_, rfl⟩, ⟨_, rfl⟩, ⟨_, rfl⟩, ⟨_, rfl⟩, ⟨_, rfl⟩, ⟨_, rfl⟩, ⟨_, rfl⟩, ⟨_, rfl⟩, ⟨_,
    rfl⟩, ⟨_, rfl⟩, ⟨_, rfl⟩, ⟨_, rfl⟩, ⟨_, rfl⟩, ⟨_, rfl⟩, ⟨_, rfl⟩, ⟨_, rfl⟩, ⟨_, rfl⟩, ⟨_, rfl⟩, ⟨_, rfl⟩, ⟨_, rfl⟩, ⟨_, rfl⟩, ⟨_, rfl⟩, ⟨_, rfl⟩, ⟨_, rfl⟩⟩

end Sys2Proof.Tests
end

section
/-! O15: the commands that write CMT fields only enter the list of waiting writes. -/

namespace Sys2Proof.Machine

/-! ### The commands whose writes wait (R12, R33) -/

/-- The commands that enter their write in the list and answer nothing else, with their opcodes. -/
def commitOnlyOps : List (OpInfo × (Req → Instr)) :=
  [(opStrokeCfg, .strokeCfg), (opStrokeJoin, .strokeJoin), (opRefCfg, .refCfg), (opRefForce, .refForce), (opClkCfg, .clkCfg), (opContCfg, .contCfg),
    (opBaCfg, .baCfg), (opErrInject, .errInject), (opPgCfg, .pgCfg), (opPgCmd, .pgCmd), (opAlnRealign, .alnRealign), (opFabCfg, .fabCfg),
    (opFabPortCfg, .fabPortCfg), (opTxPreemph, .txPreemph), (opLineBondCfg, .lineBondCfg), (opTxCalCfg, .txCalCfg), (opRxReacquire, .rxReacquire),
    (opLineOhCfg, .lineOhCfg), (opLineTtiWrite, .lineTtiWrite), (opLineRealign, .lineRealign), (opClPortCfg, .clPortCfg),
    (opFlexoTribCfg, .flexoTribCfg), (opLaneCfg, .laneCfg), (opGroomCfg, .groomCfg), (opSlotCfg, .slotCfg), (opSecCfg, .secCfg),
    (opKeySwitch, .keySwitch), (opSecClearLoss, .secClearLoss), (opHkCfg, .hkCfg), (opHkTrigger, .hkTrigger), (opOutCfg, .outCfg), (opBlCfg, .blCfg),
    (opModeSet, .modeSet), (opModeCfg, .modeCfg), (opProfileRestore, .profileRestore), (opPmSnap, .pmSnap), (opWinCfg, .winCfg)]

/-- The commands of `ScheduledWrites` with their opcodes; MAP_COMMIT and RULE_COMMIT answer with a result word. -/
def scheduledOps : List (OpInfo × (Req → Instr)) := (opMapCommit, .mapCommit) :: (opRuleCommit, .ruleCommit) :: commitOnlyOps

theorem exists_scheduledOp {c : Req → Instr} (h : ScheduledWrites c) : ∃ o, (o, c) ∈ scheduledOps := by
  have hall : ∀ c, ScheduledWrites c → c ∈ scheduledOps.map Prod.snd := by simp [ScheduledWrites, scheduledOps, commitOnlyOps]
  obtain ⟨⟨o, _⟩, ho, rfl⟩ := List.mem_map.1 (hall c h)
  exact ⟨o, ho⟩

theorem isCommand_of_scheduledOps : ∀ e ∈ scheduledOps, IsCommand e := by
  simp [scheduledOps, commitOnlyOps, IsCommand, IsCommandStrokes, IsCommandAnvil, IsCommandContainers, IsCommandProtection, IsCommandFabric, IsCommandLineTx,
    IsCommandLineRx, IsCommandLineOtn, IsCommandClient, IsCommandGroom, IsCommandSecurity, IsCommandOptics, IsCommandModes, IsCommandCommits,
    IsCommandCounters]

/-- The command of an opcode is its checks, and its one effect is an entry in the list of waiting writes. -/
def Schedules (e : OpInfo × (Req → Instr)) : Prop :=
  ∀ (rq : Req) (s : State), ∃ (k : Checks) (res : State → List W32),
    exec (e.2 rq) s = .next (command e.1 rq k s fun s => .done (addCommit e.1 rq s) (res s))

theorem commitOnlyOps_schedule : ∀ e ∈ commitOnlyOps, Schedules e := by
  simp only [commitOnlyOps, List.forall_mem_cons, List.not_mem_nil, false_implies, implies_true, and_true]
  and_intros <;> exact fun _ _ => ⟨_, fun _ => [], rfl⟩

theorem scheduledOps_schedule : ∀ e ∈ scheduledOps, Schedules e :=
  List.forall_mem_cons.2 ⟨fun _ _ => ⟨_, fun s => [word [(flag !s.anvil.activeB, 0)]], rfl⟩,
    List.forall_mem_cons.2 ⟨fun _ _ => ⟨_, fun s => [s.grm.genNum + 1#32], rfl⟩, commitOnlyOps_schedule⟩⟩

/-- How a command whose writes wait ends, where no fault has met the command in progress: without effect, refused with a reply, or with its entry made and a reply. -/
theorem Schedules.cases {o : OpInfo} {c : Req → Instr} (h : Schedules (o, c)) {rq : Req} {s t : State} (hm : s.mode.miscompare = false)
    (ht : exec (c rq) s = .next t) :
    t = s ∨ (∃ r, t = reply o.code rq (keyOf rq s) r [] s)
      ∨ ∃ res, t = reply o.code rq (keyOf rq s) { st := .ok } res (addCommit o rq (accepted rq s)) := by
  obtain ⟨k, res, he⟩ := h rq s
  obtain rfl : command o rq k s (fun s => .done (addCommit o rq s) (res s)) = t := Host.Outcome.next.inj (he.symm.trans ht)
  rcases command_cases o rq k s (fun s => .done (addCommit o rq s) (res s)) hm with h | ⟨r, -, h⟩ | h
  exacts [.inl h, .inr (.inl ⟨r, h⟩), .inr (.inr ⟨_, h⟩)]

/-! ### What a reply and an accepted sequence number leave -/

theorem reply_keys (opcode : Nat) (rq : Req) (key : Option (BitVec 256)) (r : Rej) (res : List W32) (s : State) :
    (reply opcode rq key r res s).keys = s.keys := by rw [reply_eq]

theorem reply_commits (opcode : Nat) (rq : Req) (key : Option (BitVec 256)) (r : Rej) (res : List W32) (s : State) :
    (reply opcode rq key r res s).commits = s.commits := by rw [reply_eq]

/-- The acceptance of a sequence number changes the key slots, nothing else. -/
theorem accepted_eq (rq : Req) (s : State) : accepted rq s = { s with keys := (accepted rq s).keys } := by unfold accepted; split <;> rfl

/-- A reply after an entry has been made changes what a reply changes, the key slots and the list of waiting writes. -/
theorem reply_addCommit_eq (o : OpInfo) (rq : Req) (key : Option (BitVec 256)) (r : Rej) (res : List W32) (s : State) :
    let t := reply o.code rq key r res (addCommit o rq (accepted rq s))
    t = { s with
      cmd := { s.cmd with rq := t.cmd.rq, intStatus := t.cmd.intStatus, late := t.cmd.late, joined := t.cmd.joined }
      ev := t.ev
      keys := t.keys
      commits := t.commits } := by
  intro t
  have ht : t = _ := reply_eq o.code rq key r res (addCommit o rq (accepted rq s))
  rw [accepted_eq] at ht
  rw [ht]
  rfl


/-- Settles O15: the command does nothing, is refused with a reply, or makes its entry and replies; a reply touches only the reply queues,
the interrupt flags and the events. -/
theorem scheduledWritesWaitForRow0 : Obligations.ScheduledWritesWaitForRow0 := by
  intro c hc rq s t hm ht
  obtain ⟨o, ho⟩ := exists_scheduledOp hc
  rcases (scheduledOps_schedule _ ho).cases hm ht with rfl | ⟨r, rfl⟩ | ⟨res, rfl⟩
  · exact ⟨rfl, .inl rfl, .inl rfl⟩
  · refine ⟨?_, .inl (reply_keys ..), .inl (reply_commits ..)⟩
    conv_lhs => rw [reply_eq]
    rw [reply_keys, reply_commits]
  · exact ⟨reply_addCommit_eq .., .inr (reply_keys ..), .inr ⟨o, isCommand_of_scheduledOps _ ho, by simp [reply_commits, addCommit]⟩⟩

end Sys2Proof.Machine
end

section
/-! O53: what STROKE_BOUNDARY does with the list of waiting writes. -/

namespace Sys2Proof.Machine

/-! ### Counters of events (R449) -/

/-- The event log moves no counter but EVT_LOG_OVF. -/
theorem counter_logEvent {f : Ev} {j : Nat} (h : evId f j ≠ evId evIntEvtLogOvf 0) (e : Ev) (inst n : Nat) (clear : Bool) (s : State) :
    counter (logEvent e inst n clear s) f j = counter s f j := by
  unfold logEvent counter
  dsimp only
  split
  · rfl
  split
  · rfl
  split
  · rfl
  · simp [State.onEv, h]

/-- `n` occurrences of an event add `n` to its counter, modulo 2^48, and to no other but EVT_LOG_OVF. -/
theorem counter_note {f : Ev} {j : Nat} (h : evId f j ≠ evId evIntEvtLogOvf 0) (e : Ev) (inst n : Nat) (s : State) :
    counter (note e inst n s) f j = if evId f j = evId e inst then counter s f j + BitVec.ofNat 48 n else counter s f j := by
  have hon (g : EvSt → EvSt) : counter (s.onEv g) f j = tget 0#48 (g s.ev).counters (evId f j) := rfl
  unfold note
  dsimp only
  split
  · subst n; simp
  · split
    · rw [counter_logEvent h, hon, tget_tmod]
      split
      · rename_i he; simp [counter, he]
      · rfl
    · rw [hon, tget_tmod]
      split
      · rename_i he; simp [counter, he]
      · rfl

/-! ### Which entries are due, and which are overtaken (R12, R36, R37) -/

theorem isDue_iff (n : W48) (c : Commit) : isDue n c = true ↔ c.stroke = none ∨ c.stroke = some n := by
  unfold isDue
  cases c.stroke <;> simp

theorem overtaken_of_stroke (n : W48) {k : W48} {c : Commit} (h : c.stroke = some k) : overtaken n c = true ↔ k.toNat ≤ n.toNat := by
  simp [overtaken, h]

theorem overtaken_of_no_stroke (n : W48) {c : Commit} (h : c.stroke = none) : overtaken n c = false := by simp [overtaken, h]

/-! ### The stroke step (R36, R37) -/

theorem satAdd_eq_min (lim a b : Nat) : satAdd lim a b = min lim (a + b) := by unfold satAdd; split <;> omega

/-- A stroke step moves the counters of STROKE_STEP and of COMMIT_DISCARD. -/
theorem counter_stepEffects {f : Ev} {j : Nat} (h : evId f j ≠ evId evIntEvtLogOvf 0) (n : W48) (d : Int) (al : Bool) (s : State) :
    counter (stepEffects n d al s) f j =
      counter (note evStkCommitDiscard 0 (s.commits.filter (overtaken n)).length (note evStkStrokeStep 0 1 s)) f j := by
  have hev : counter (stepEffects n d al s) f j = counter (note evStkCommitDiscard 0 (s.commits.filter (overtaken n)).length
    (note evStkStrokeStep 0 1 (s.onCommits fun l => l.filter fun c => !overtaken n c))) f j := rfl
  rw [hev]
  simp only [counter_note h]
  rfl

theorem note_stk (e : Ev) (inst n : Nat) (s : State) : (note e inst n s).stk = s.stk := by rw [note_eq]

theorem stepEffects_stepCount (n : W48) (d : Int) (al : Bool) (s : State) :
    (stepEffects n d al s).stk.stepCount.toNat = min 65535 (s.stk.stepCount.toNat + 1) := by
  have hcount : (stepEffects n d al s).stk.stepCount = BitVec.ofNat 16 (satAdd 65535 s.stk.stepCount.toNat 1) := by
    simp [stepEffects, note_stk]
  rw [hcount, satAdd_eq_min, BitVec.toNat_ofNat]
  omega

theorem stepEffects_spec (n : W48) (d : Int) (al : Bool) (s : State) : let t := stepEffects n d al s
    t.commits = s.commits.filter (fun c => !overtaken n c) ∧ counter t evStkStrokeStep 0 = counter s evStkStrokeStep 0 + 1#48 ∧
    counter t evStkCommitDiscard 0 = counter s evStkCommitDiscard 0 + BitVec.ofNat 48 (s.commits.filter (overtaken n)).length ∧
    t.stk.stepCount.toNat = min 65535 (s.stk.stepCount.toNat + 1) := by
  have hstep : evId evStkStrokeStep 0 ≠ evId evIntEvtLogOvf 0 := by decide
  have hdiscard : evId evStkCommitDiscard 0 ≠ evId evIntEvtLogOvf 0 := by decide
  have hne : evId evStkStrokeStep 0 ≠ evId evStkCommitDiscard 0 := by decide
  refine ⟨stepEffects_held n d al s, ?_, ?_, stepEffects_stepCount n d al s⟩
  · rw [counter_stepEffects hstep, counter_note hstep, counter_note hstep, if_neg hne, if_pos rfl]
  · rw [counter_stepEffects hdiscard, counter_note hdiscard, counter_note hdiscard, if_pos rfl, if_neg hne.symm]

/-! ### The stroke that begins (R29, R35, R399) -/

/-- The boundary after the stroke that ends has been judged: the next stroke has its number, and a STROKE_JOIN that was due has acted. -/
def strokeNumbered (x : StrokeIn) (s : State) : State :=
  windowsEnd ((dropJoin (strokeEnds x s)).onStk fun v => { v with
    scnt := nextNumber s, row := 0, run := v.run + 1, setTo := none, strkIn := none, secondEnd := endsSecond s, stepped := (nextStep s).isSome })

/-- The boundary after the step, if there is one. -/
def strokeStepped (x : StrokeIn) (s : State) : State :=
  (nextStep s).elim (strokeNumbered x s) fun a => stepEffects a.1 a.2.1 a.2.2 (strokeNumbered x s)

theorem strokeBegins_eq (x : StrokeIn) (s : State) :
    strokeBegins x s = if endsSecond s then modeSecond (strokeStepped x s) else strokeStepped x s := by
  unfold strokeBegins strokeStepped strokeNumbered
  cases nextStep s <;> rfl

theorem strokeBegins_scnt (x : StrokeIn) (s : State) : (strokeBegins x s).stk.scnt = nextNumber s := congrArg Kept.scnt (strokeBegins_kept x s)

theorem strokeBegins_row (x : StrokeIn) (s : State) : (strokeBegins x s).stk.row = 0 := congrArg Kept.row (strokeBegins_kept x s)

theorem strokeStepped_scnt (x : StrokeIn) (s : State) : (strokeStepped x s).stk.scnt = nextNumber s := by
  have hkept : kept (strokeBegins x s) = kept (strokeStepped x s) := by
    rw [strokeBegins_eq]
    split
    · exact modeSecond_kept _
    · rfl
  exact (congrArg Kept.scnt hkept).symm.trans (strokeBegins_scnt x s)

theorem strokeNumbered_held (x : StrokeIn) (s : State) :
    held (strokeNumbered x s) = s.commits.filter fun c => !(c.opcode = opStrokeJoin.code && decide (c.stroke = some (s.stk.scnt + 1#48))) := by
  have hscnt : (strokeEnds x s).stk.scnt = s.stk.scnt := congrArg Kept.scnt (strokeEnds_kept x s)
  simp only [strokeNumbered, windowsEnd_held, held_onStk, dropJoin, held_onCommits, strokeEnds_held, hscnt]
  rfl

/-- What waits once the stroke has begun is what waited when the step was done, but for the MODE_SET of a fall-back at the end of a second. -/
theorem strokeBegins_held (x : StrokeIn) (s : State) : ∃ l, held (strokeBegins x s) = held (strokeStepped x s) ++ l ∧
    (l = [] ∨ endsSecond s = true ∧ l = [{ stroke := some (nextNumber s + 2#48), opcode := opModeSet.code, params := [4#32] }]) := by
  rw [strokeBegins_eq]
  split
  · rename_i hsec
    rcases modeSecond_held (strokeStepped x s) with h | h
    · exact ⟨[], by simp [h], .inl rfl⟩
    · exact ⟨_, h, .inr ⟨hsec, by rw [strokeStepped_scnt]⟩⟩
  · exact ⟨[], by simp, .inl rfl⟩

theorem execStrokeBoundary_eq (x : StrokeIn) (s : State) (h : alive s = true) : let t := strokeBegins x s
    exec (.strokeBoundary x) s = .next (rowWork x.row (startRow0 x (changesAfter (localPick t) (commitsRow0 (blMoves (List.range 8) t))))) := by
  simp [exec, execStrokeBoundary, ok, strokeBoundary, changesRow0, h]

/-! ### The writes that are due (R25, R35) -/

theorem blMoves_stk (l : List Nat) (s : State) : (blMoves l s).stk = s.stk := by
  induction l generalizing s with
  | nil => rfl
  | cons a l ih =>
    unfold blMoves
    split
    · exact ih s
    · rw [ih]; rfl

theorem applyCommits_eq_foldl (l : List Commit) (s : State) : applyCommits l s = l.foldl (fun u c => applyCommit c u) s := by
  induction l generalizing s with
  | nil => rfl
  | cons c l ih => exact ih _

theorem commitsRow0_held (s : State) : held (commitsRow0 s) = s.commits.filter fun c => !isDue s.stk.scnt c := by
  unfold commitsRow0
  rw [applyCommits_eq_foldl, held_foldl _ fun s c => applyCommit_held c s]
  rfl

theorem dueOrder_filter_acts (l : List Commit) :
    (dueOrder l).filter (fun c => !actsOnObject c) = (inForce l).filter (fun c => !actsOnObject c) ∧
      (dueOrder l).filter actsOnObject = (inForce l).filter actsOnObject := by
  simp [dueOrder, List.filter_append, List.filter_filter]

theorem mem_dueOrder {l : List Commit} {c : Commit} : c ∈ dueOrder l ↔ c ∈ inForce l := by
  cases h : actsOnObject c <;> simp [dueOrder, h]

/-- An entry that is superseded by a later write of the same fields. -/
theorem superseded_iff (c : Commit) (r : List Commit) :
    ((writeTarget c).isSome && r.any fun d => writeTarget d = writeTarget c) = true ↔ writeTarget c ≠ none ∧ ∃ d ∈ r, writeTarget d = writeTarget c := by
  simp [Option.isSome_iff_ne_none]

theorem inForce_sublist (l : List Commit) : (inForce l).Sublist l := by
  induction l with
  | nil => exact .slnil
  | cons c r ih =>
    unfold inForce
    split
    · exact ih.cons c
    · exact ih.cons_cons c

/-- An entry that writes no fields of its own is never superseded. -/
theorem inForce_filter_untargeted (l : List Commit) :
    (inForce l).filter (fun c => (writeTarget c).isNone) = l.filter fun c => (writeTarget c).isNone := by
  induction l with
  | nil => rfl
  | cons c r ih =>
    unfold inForce
    split
    · rename_i h
      have hsome := ((superseded_iff c r).1 h).1
      rw [ih, List.filter_cons_of_neg (by simpa using hsome)]
    · simp only [List.filter_cons, ih]

/-- Of the entries that come into force no two write the same fields. -/
theorem inForce_pairwise (l : List Commit) : (inForce l).Pairwise fun c d => writeTarget c = none ∨ writeTarget c ≠ writeTarget d := by
  induction l with
  | nil => exact .nil
  | cons c r ih =>
    unfold inForce
    split
    · exact ih
    · rename_i h
      rw [superseded_iff] at h
      refine .cons (fun d hd => ?_) ih
      by_cases hnone : writeTarget c = none
      · exact .inl hnone
      · exact .inr fun heq => h ⟨hnone, d, (inForce_sublist r).mem hd, heq.symm⟩

/-- The last write of its fields comes into force. -/
theorem mem_inForce_of_last (a b : List Commit) (c : Commit) (h : ∀ d ∈ b, writeTarget d ≠ writeTarget c) : c ∈ inForce (a ++ c :: b) := by
  induction a with
  | nil =>
    rw [List.nil_append, inForce, if_neg]
    · exact List.mem_cons_self
    · rw [superseded_iff]
      exact fun ⟨_, d, hd, heq⟩ => h d hd heq
  | cons e a ih =>
    rw [List.cons_append, inForce]
    split
    · exact ih
    · exact List.mem_cons_of_mem e ih

/-- Settles O53: a stroke boundary drops a STROKE_JOIN that has acted and what a step overtakes, adds at most the MODE_SET of a fall-back, and row 0 takes the due writes
from the list and applies those in force in the order of `dueOrder`. -/
theorem pendingWritesApplyAtTheirRow0 : Obligations.PendingWritesApplyAtTheirRow0 := by
  refine ⟨fun x s ha => ⟨strokeBegins_scnt x s, strokeBegins_row x s, execStrokeBoundary_eq x s ha⟩, fun x s => ?_,
    fun n k c => ⟨isDue_iff n c, overtaken_of_stroke n, overtaken_of_no_stroke n⟩, stepEffects_spec,
    fun s => ⟨blMoves_held _ s, blMoves_stk _ s, applyCommits_eq_foldl _ _, commitsRow0_held s⟩,
    fun l => ⟨(dueOrder_filter_acts l).1, (dueOrder_filter_acts l).2, inForce_sublist l, inForce_filter_untargeted l, inForce_pairwise l⟩,
    fun a b c h => mem_dueOrder.2 (mem_inForce_of_last a b c h)⟩
  obtain ⟨l, hheld, hl⟩ := strokeBegins_held x s
  refine ⟨l, hheld.trans (congrArg (· ++ l) ?_), hl⟩
  unfold strokeStepped
  cases nextStep s with
  | none => exact strokeNumbered_held x s
  | some a => exact (stepEffects_held ..).trans (congrArg _ (strokeNumbered_held x s))

end Sys2Proof.Machine
end

section
/-! O51: what each configuration write puts in force at its row 0, and that the rest of its work leaves the words in force alone. -/

namespace Sys2Proof.Machine

/-! ### The words in force, carried through the updates that meanings are built from -/

/-- The configuration words in force, and the generation of the rules that is active. -/
structure Words where
  stroke : W32 × W32
  refCfg : List (Nat × W32)
  clk : W32 × W32 × W32
  cont : List (Nat × ContEntry)
  pg : List (Nat × List W32)
  fab : W32
  fabPort : List (Nat × List W32)
  bond : W32
  cliPort : List (Nat × W32)
  trib : List (Nat × W32 × W32)
  groom : List W32
  slot : List (Nat × W32 × W32)
  generation : Bool × W32
  sec : List (Nat × List W32)
  mode : W32

def words (s : State) : Words where
  stroke := (s.stk.cfg0, s.stk.cfg1)
  refCfg := s.clk.refCfg
  clk := (s.clk.clk0, s.clk.clk1, s.clk.clk2)
  cont := s.cont.table
  pg := s.prot.cfg
  fab := s.fab.cfg
  fabPort := s.fab.portCfg
  bond := s.tx.bond
  cliPort := s.cli.portCfg
  trib := s.cli.trib
  groom := s.grm.cfg
  slot := s.grm.slotCfg
  generation := (s.grm.activeIs1, s.grm.genNum)
  sec := s.sec.cfg
  mode := s.mode.cfg

@[simp] theorem words_onEv (s : State) (f : EvSt → EvSt) : words (s.onEv f) = words s := rfl
@[simp] theorem words_onPm (s : State) (f : PmSt → PmSt) : words (s.onPm f) = words s := rfl
@[simp] theorem words_onInteg (s : State) (f : IntegSt → IntegSt) : words (s.onInteg f) = words s := rfl
@[simp] theorem words_onCont (s : State) (f : ContSt → ContSt) (h : ∀ v, (f v).table = v.table) : words (s.onCont f) = words s := by
  simp [words, State.onCont, h]
@[simp] theorem words_onProt (s : State) (f : ProtSt → ProtSt) (h : ∀ v, (f v).cfg = v.cfg) : words (s.onProt f) = words s := by
  simp [words, State.onProt, h]
@[simp] theorem words_onFab (s : State) (f : FabSt → FabSt) (h : ∀ v, (f v).cfg = v.cfg ∧ (f v).portCfg = v.portCfg) : words (s.onFab f) = words s := by
  simp [words, State.onFab, h]
@[simp] theorem words_onTx (s : State) (f : LineTxSt → LineTxSt) (h : ∀ v, (f v).bond = v.bond) : words (s.onTx f) = words s := by
  simp [words, State.onTx, h]
@[simp] theorem words_onCli (s : State) (f : CliSt → CliSt) (h : ∀ v, (f v).portCfg = v.portCfg ∧ (f v).trib = v.trib) : words (s.onCli f) = words s := by
  simp [words, State.onCli, h]
@[simp] theorem words_onGrm (s : State) (f : GrmSt → GrmSt)
    (h : ∀ v, (f v).cfg = v.cfg ∧ (f v).slotCfg = v.slotCfg ∧ (f v).activeIs1 = v.activeIs1 ∧ (f v).genNum = v.genNum) : words (s.onGrm f) = words s := by
  simp [words, State.onGrm, h]
@[simp] theorem words_onSec (s : State) (f : SecSt → SecSt) (h : ∀ v, (f v).cfg = v.cfg) : words (s.onSec f) = words s := by
  simp [words, State.onSec, h]
@[simp] theorem words_onMode (s : State) (f : ModeSt → ModeSt) (h : ∀ v, (f v).cfg = v.cfg) : words (s.onMode f) = words s := by
  simp [words, State.onMode, h]

@[simp] theorem words_ite (c : Prop) [Decidable c] (a b : State) : words (if c then a else b) = if c then words a else words b := apply_ite words c a b

theorem words_foldl {α : Type} (g : State → α → State) (h : ∀ s a, words (g s a) = words s) (l : List α) (s : State) : words (l.foldl g s) = words s := by
  induction l generalizing s with
  | nil => rfl
  | cons a l ih => exact (ih _).trans (h s a)

/-! ### Shared operations -/

@[simp] theorem note_words (e : Ev) (inst n : Nat) (s : State) : words (note e inst n s) = words s := by rw [note_eq]; rfl
@[simp] theorem noteClear_words (e : Ev) (inst : Nat) (s : State) : words (noteClear e inst s) = words s := by simp [noteClear, logEvent]
@[simp] theorem noteChange_words (e : Ev) (inst : Nat) (was now : Bool) (s : State) : words (noteChange e inst was now s) = words s := by simp [noteChange]
@[simp] theorem cleanWords_words (t i n : Nat) (s : State) : words (cleanWords t i n s) = words s := by simp [cleanWords]
@[simp] theorem onPmRec_words (n i : Nat) (f : PmRec → PmRec) (s : State) : words (onPmRec n i f s) = words s := by simp [onPmRec]
@[simp] theorem pmDefect_words (n i : Nat) (far : Bool) (s : State) : words (pmDefect n i far s) = words s := by simp [pmDefect]

/-! ### Containers and their contexts -/

@[simp] theorem onSrc_words (c : Nat) (f : SrcSt → SrcSt) (s : State) : words (onSrc c f s) = words s := by simp [onSrc]
@[simp] theorem onSnk_words (c : Nat) (f : SinkSt → SinkSt) (s : State) : words (onSnk c f s) = words s := by simp [onSnk]
@[simp] theorem onBody_words (c : Nat) (f : BodyRx → BodyRx) (s : State) : words (onBody c f s) = words s := by simp [onBody]
@[simp] theorem onCtx_words (k : Nat) (f : CtxSt → CtxSt) (s : State) : words (onCtx k f s) = words s := by simp [onCtx]
@[simp] theorem reportSecMm_words (k : Nat) (s : State) : words (reportSecMm k s) = words s := by simp [reportSecMm]
@[simp] theorem clearLoss_words (k : Nat) (s : State) : words (clearLoss k s) = words s := by simp [clearLoss]
@[simp] theorem unbindDefects_words (k : Nat) (s : State) : words (unbindDefects k s) = words s := by simp [unbindDefects]

@[simp] theorem noteDefects_words (c : Nat) (was now l : List Defect) (s : State) : words (noteDefects c was now l s) = words s := by
  induction l generalizing s with
  | nil => rfl
  | cons d l ih => simp [noteDefects, ih]

/-- A unit that is not checked, or for which no verdict is due, is counted at most. -/
@[simp] theorem dropUnit_words (c : Nat) (s : State) : words (dropUnit c s) = words s := by
  unfold dropUnit applyVerdict
  split <;> simp

/-! ### Protection groups -/

@[simp] theorem onGroup_words (g : Nat) (f : GroupSt → GroupSt) (s : State) : words (onGroup g f s) = words s := by simp [onGroup]
@[simp] theorem onMon_words (g : Nat) (prot : Bool) (f : MonSt → MonSt) (s : State) : words (onMon g prot f s) = words s := by simp [onMon]
@[simp] theorem monRefresh_words (g : Nat) (prot : Bool) (s : State) : words (monRefresh g prot s) = words s := by simp [monRefresh]
@[simp] theorem setFopPm_words (g : Nat) (on : Bool) (s : State) : words (setFopPm g on s) = words s := by simp [setFopPm]
@[simp] theorem setFopNr_words (g : Nat) (on : Bool) (s : State) : words (setFopNr g on s) = words s := by simp [setFopNr]
@[simp] theorem setGroupDefectsClear_words (g : Nat) (s : State) : words (setGroupDefectsClear g s) = words s := by simp [setGroupDefectsClear]
@[simp] theorem apsOff_words (g : Nat) (s : State) : words (apsOff g s) = words s := by simp [apsOff]

/-! ### Lanes, ports and engines -/

@[simp] theorem onLane_words (n : Nat) (f : LaneSt → LaneSt) (s : State) : words (onLane n f s) = words s :=
  words_onCli s _ fun v => by split <;> exact ⟨rfl, rfl⟩

theorem eachLane_words (f : Nat → State → State) (h : ∀ n s, words (f n s) = words s) (l : List Nat) (s : State) : words (eachLane f l s) = words s := by
  induction l generalizing s with
  | nil => rfl
  | cons n l ih => exact (ih _).trans (h n s)

@[simp] theorem laneIdle_words (base n : Nat) (s : State) : words (laneIdle base n s) = words s := eachLane_words _ (fun _ _ => by simp) _ _
@[simp] theorem startTest_words (n : Nat) (s : State) : words (startTest n s) = words s := by simp [startTest]
@[simp] theorem onCliPort_words (p : Nat) (f : CliPortSt → CliPortSt) (s : State) : words (onCliPort p f s) = words s := by simp [onCliPort]
@[simp] theorem instsOff_words (p : Nat) (s : State) : words (instsOff p s) = words s :=
  words_foldl _ (fun s _ => words_foldl _ (fun _ _ => noteChange_words ..) _ s) _ s

@[simp] theorem onPort_words (p : Nat) (f : PortSt → PortSt) (s : State) : words (onPort p f s) = words s := by simp [onPort]
@[simp] theorem helloChange_words (s : State) : words (helloChange s) = words s := by simp [helloChange]
@[simp] theorem ctlPurge_words (p : Nat) (s : State) : words (ctlPurge p s) = words s := by simp [ctlPurge]
@[simp] theorem adjNone_words (p : Nat) (s : State) : words (adjNone p s) = words s := by simp [adjNone, adjDrop]
@[simp] theorem enterDown_words (p : Nat) (s : State) : words (enterDown p s) = words s := by simp [enterDown]

@[simp] theorem enterTrain_words (p : Nat) (s : State) : words (enterTrain p s) = words s := by
  unfold enterTrain
  dsimp only
  rw [eachLane_words _ fun _ _ => by simp]
  simp

@[simp] theorem onTxEng_words (e : Nat) (f : TxSt → TxSt) (s : State) : words (onTxEng e f s) = words s := by simp [onTxEng]
@[simp] theorem restartFrames_words (es : List Nat) (s : State) : words (restartFrames es s) = words s := words_foldl _ (fun _ _ => onTxEng_words ..) _ _

/-! ### Packet grooming -/

@[simp] theorem drainCheck_words (s : State) : words (drainCheck s) = words s := by simp [drainCheck]
@[simp] theorem onSlot_words (g : Nat) (f : SlotSt → SlotSt) (s : State) : words (onSlot g f s) = words s := by simp [onSlot]
@[simp] theorem slotDiscard_words (g : Nat) (s : State) : words (slotDiscard g s) = words s := by simp [slotDiscard]
@[simp] theorem dropFlight_words (p : Nat) (s : State) : words (dropFlight p s) = words s := by simp [dropFlight]

@[simp] theorem dropParts_words (s : State) (l : List Nat) : words (dropParts s l) = words s := by
  induction l generalizing s with
  | nil => rfl
  | cons g l ih => simp [dropParts, ih]

@[simp] theorem grmFlush_words (q : Nat) (s : State) : words (grmFlush q s) = words s := by simp [grmFlush]

theorem eachNat_words (f : Nat → State → State) (h : ∀ n s, words (f n s) = words s) (l : List Nat) (s : State) : words (eachNat f l s) = words s := by
  induction l generalizing s with
  | nil => rfl
  | cons n l ih => exact (ih _).trans (h n s)

@[simp] theorem groomPortOff_words (p : Nat) (s : State) : words (groomPortOff p s) = words s := by
  unfold groomPortOff
  dsimp only
  rw [eachNat_words _ slotDiscard_words]
  simp

/-! ### What each write puts in force -/

theorem applyContCfg_words (k : Commit) (s : State) :
    words (applyContCfg k s) = { words s with cont := tset {} (words s).cont (contObj (k.p 0)) (entryOfParams k.params) } := by
  unfold applyContCfg
  extract_lets c e old s1 s2 s3 s4 s5 s6 s7
  have hclean : words s2 = words s := by simp [s2, s1]
  have hwrite : words s3 = { words s with cont := tset {} (words s).cont c e } := congrArg (fun w : Words => { w with cont := tset {} w.cont c e }) hclean
  have hsrc : words s4 = words s3 := by simp [s4]
  have hsnk : words s7 = words s4 := by simp [s7, s6, s5]
  rw [← hwrite, ← hsrc]
  split
  · rfl
  · split <;> simp [hsnk]

theorem applyPgCfg_words (k : Commit) (s : State) :
    words (applyPgCfg k s) = { words s with pg := tset pgReset (words s).pg (pgObj (k.p 0)) (pgParams k.params) } := by
  unfold applyPgCfg
  extract_lets g c old s1 s2 s3
  have hwrite : words s2 = { words s with pg := tset pgReset (words s).pg g c } :=
    congrArg (fun w : Words => { w with pg := tset pgReset w.pg g c }) (cleanWords_words 4 (8 * g) 8 s)
  rw [← hwrite]
  split
  · simp
  split
  · rw [onGroup_words]
    exact (words_ite ..).trans (by rw [note_words, ite_self]; exact setGroupDefectsClear_words g s2)
  · split
    · rw [monRefresh_words, monRefresh_words]
      split <;> simp
    · rfl

theorem applyFabCfg_words (c : Commit) (s : State) : words (applyFabCfg c s) = { words s with fab := c.p 0 } := by
  unfold applyFabCfg
  extract_lets was s1 s2
  have hwrite : words s1 = { words s with fab := c.p 0 } := rfl
  rw [← hwrite]
  (repeat' split) <;> simp [s2]

theorem applyFabPortCfg_words (c : Commit) (s : State) :
    words (applyFabPortCfg c s) = { words s with fabPort := tset fabPortReset (words s).fabPort (fpObj (c.p 0)) [c.p 1, c.p 2] } := by
  unfold applyFabPortCfg
  extract_lets p old s1
  have hwrite : words s1 = { words s with fabPort := tset fabPortReset (words s).fabPort p [c.p 1, c.p 2] } := rfl
  rw [← hwrite]
  (repeat' split) <;> simp

theorem applyLineBondCfg_words (k : Commit) (s : State) : words (applyLineBondCfg k s) = { words s with bond := k.p 0 } := by
  unfold applyLineBondCfg
  extract_lets was s1 n
  have hwrite : words s1 = { words s with bond := k.p 0 } := rfl
  rw [← hwrite]
  split
  · rfl
  · rw [restartFrames_words, words_ite, words_foldl _ fun _ _ => onTxEng_words .., ite_self]

/-- The writes of a client port, whatever becomes of its lanes and of the packets of a groomed port. -/
theorem commitClPort_words (c : Commit) (s : State) :
    words (commitClPort c s) = { words s with cliPort := tset 0x01000000#32 (words s).cliPort (cliObj (c.p 0)) (c.p 1) } := by
  have happly : words (applyClPort c s) = { words s with cliPort := tset 0x01000000#32 (words s).cliPort (cliObj (c.p 0)) (c.p 1) } := by
    unfold applyClPort
    extract_lets p old w s1 s2 s3
    have hwrite : words s1 = { words s with cliPort := tset 0x01000000#32 (words s).cliPort p w } := rfl
    rw [← hwrite]
    (repeat' split) <;> simp [s3, s2, eachLane_words]
  unfold commitClPort
  dsimp only
  split
  · rw [groomPortOff_words, happly]
  · exact happly

theorem applySlotCfg_words (c : Commit) (s : State) :
    words (applySlotCfg c s) = { words s with slot := tset slotReset (words s).slot (slotObj (c.p 0)) (c.p 1, c.p 2) } := by
  unfold applySlotCfg
  extract_lets g old s1
  have hwrite : words s1 = { words s with slot := tset slotReset (words s).slot g (c.p 1, c.p 2) } := rfl
  rw [← hwrite]
  split <;> simp

theorem applyRuleCommit_words (s : State) :
    words (applyRuleCommit s) = { words s with generation := (!s.grm.activeIs1, s.grm.genNum + 1#32) } := by
  unfold applyRuleCommit
  rw [drainCheck_words]
  rfl

theorem applySecCfg_words (c : Commit) (s : State) :
    words (applySecCfg c s) = { words s with sec := tset secDefault (words s).sec (secObj (c.p 0)) (secParams c) } := by
  unfold applySecCfg
  extract_lets k w old s1 s2 s3
  have hwrite : words s2 = { words s with sec := tset secDefault (words s).sec k w } :=
    congrArg (fun v : Words => { v with sec := tset secDefault v.sec k w }) (cleanWords_words 5 (4 * k) 4 s)
  have hloss : words s3 = words s2 := by simp [s3]
  rw [← hwrite, ← hloss]
  (repeat' split) <;> simp

/-! ### A write by its opcode -/

/-- No opcode stands twice in the table of operations. -/
theorem commitOps_nodup : (commitOps.map Prod.fst).Nodup := by decide

theorem find_commitOps {n : Nat} {f : Commit → State → State} (h : (n, f) ∈ commitOps) : (commitOps.find? fun x => x.1 = n) = some (n, f) := by
  cases hx : commitOps.find? fun x => x.1 = n with
  | none => exact absurd (List.find?_eq_none.1 hx _ h) (by simp)
  | some x =>
    have hn : x.1 = n := by simpa using List.find?_some hx
    rw [List.inj_on_of_nodup_map commitOps_nodup (List.mem_of_find?_eq_some hx) h hn]

/-- A write at its row 0 does what the table gives for its opcode. -/
theorem applyCommit_of_mem {n : Nat} {f : Commit → State → State} (h : (n, f) ∈ commitOps) {c : Commit} (hc : c.opcode = n) (s : State) :
    applyCommit c s = f c s := by
  have hrestore : c.opcode ≠ opProfileRestore.code := by
    have hmem : c.opcode ∈ commitOps.map Prod.fst := hc ▸ List.mem_map_of_mem h
    exact fun he => absurd (he ▸ hmem) (by decide : opProfileRestore.code ∉ commitOps.map Prod.fst)
  rw [applyCommit, if_neg hrestore, applyOp, hc, find_commitOps h]

/-! ### What is read after a write -/

theorem refCfg_applyRefCfg (c : Commit) (s : State) (i : Nat) : refCfg (applyRefCfg c s) i = if i = fld (c.p 0) 4 0 then c.p 1 else refCfg s i :=
  tget_tset ..

theorem contEntry_applyContCfg (c : Commit) (s : State) (i : Nat) :
    contEntry (applyContCfg c s) i = if i = contObj (c.p 0) then entryOfParams c.params else contEntry s i :=
  (congrArg (fun w : Words => tget ({} : ContEntry) w.cont i) (applyContCfg_words c s)).trans (tget_tset ..)

theorem pgCfgOf_applyPgCfg (c : Commit) (s : State) (i : Nat) : pgCfgOf (applyPgCfg c s) i = if i = pgObj (c.p 0) then pgParams c.params else pgCfgOf s i :=
  (congrArg (fun w : Words => tget pgReset w.pg i) (applyPgCfg_words c s)).trans (tget_tset ..)

theorem fpCfg_applyFabPortCfg (c : Commit) (s : State) (i : Nat) : fpCfg (applyFabPortCfg c s) i = if i = fpObj (c.p 0) then [c.p 1, c.p 2] else fpCfg s i :=
  (congrArg (fun w : Words => tget fabPortReset w.fabPort i) (applyFabPortCfg_words c s)).trans (tget_tset ..)

theorem cliPort_commitClPort (c : Commit) (s : State) (i : Nat) : cliPort (commitClPort c s) i = if i = cliObj (c.p 0) then c.p 1 else cliPort s i :=
  (congrArg (fun w : Words => tget 0x01000000#32 w.cliPort i) (commitClPort_words c s)).trans (tget_tset ..)

theorem tribOf_applyTrib (c : Commit) (s : State) (i : Nat) : tribOf (applyTrib c s) i = if i = tribObj (c.p 0) then (c.p 1, c.p 2) else tribOf s i :=
  tget_tset ..

theorem slotCfg_applySlotCfg (c : Commit) (s : State) (i : Nat) : slotCfg (applySlotCfg c s) i = if i = slotObj (c.p 0) then (c.p 1, c.p 2) else slotCfg s i :=
  (congrArg (fun w : Words => tget slotReset w.slot i) (applySlotCfg_words c s)).trans (tget_tset ..)

theorem secCfg_applySecCfg (c : Commit) (s : State) (i : Nat) : secCfg (applySecCfg c s) i = if i = secObj (c.p 0) then secParams c else secCfg s i :=
  (congrArg (fun w : Words => tget secDefault w.sec i) (applySecCfg_words c s)).trans (tget_tset ..)

/-- Settles O51: each of these writes is the operation that `commitOps` gives for its opcode, which writes the words of its object in the table of its kind and leaves the
rest of the words in force. -/
theorem writesTakeEffectAtTheirRow0 : Obligations.WritesTakeEffectAtTheirRow0 := by
  intro c s t
  have happly {o : OpInfo} (f : Commit → State → State) (h : (o.code, f) ∈ commitOps) (hc : c.opcode = o.code) : t = f c s := applyCommit_of_mem h hc s
  refine ⟨fun h => ?refCfg, fun h => ?contCfg, fun h => ?pgCfg, fun h => ?fabPortCfg, fun h => ?clPortCfg, fun h => ?flexoTribCfg, fun h => ?slotCfg,
    fun h => ?secCfg, fun h => ?strokeCfg, fun h => ?clkCfg, fun h => ?fabCfg, fun h => ?lineBondCfg, fun h => ?groomCfg, fun h => ?modeCfg,
    fun h => ?ruleCommit⟩
  case refCfg => rw [happly applyRefCfg (by simp [commitOps]) h]; exact refCfg_applyRefCfg c s
  case contCfg => rw [happly applyContCfg (by simp [commitOps]) h]; exact contEntry_applyContCfg c s
  case pgCfg => rw [happly applyPgCfg (by simp [commitOps]) h]; exact pgCfgOf_applyPgCfg c s
  case fabPortCfg => rw [happly applyFabPortCfg (by simp [commitOps]) h]; exact fpCfg_applyFabPortCfg c s
  case clPortCfg => rw [happly commitClPort (by simp [commitOps]) h]; exact cliPort_commitClPort c s
  case flexoTribCfg => rw [happly applyTrib (by simp [commitOps]) h]; exact tribOf_applyTrib c s
  case slotCfg => rw [happly applySlotCfg (by simp [commitOps]) h]; exact slotCfg_applySlotCfg c s
  case secCfg => rw [happly applySecCfg (by simp [commitOps]) h]; exact secCfg_applySecCfg c s
  case strokeCfg => rw [happly applyStrokeCfg (by simp [commitOps]) h]; exact ⟨rfl, rfl⟩
  case clkCfg => rw [happly applyClkCfg (by simp [commitOps]) h]; exact ⟨rfl, rfl, rfl⟩
  case fabCfg => rw [happly applyFabCfg (by simp [commitOps]) h]; exact congrArg Words.fab (applyFabCfg_words c s)
  case lineBondCfg => rw [happly applyLineBondCfg (by simp [commitOps]) h]; exact congrArg Words.bond (applyLineBondCfg_words c s)
  case groomCfg => rw [happly applyGroomCfg (by simp [commitOps]) h]; rfl
  case modeCfg => rw [happly applyModeCfg (by simp [commitOps]) h]; rfl
  case ruleCommit =>
    rw [happly (fun _ s => applyRuleCommit s) (by simp [commitOps]) h]
    exact Prod.mk.inj (congrArg Words.generation (applyRuleCommit_words s))

end Sys2Proof.Machine
end

section
/-! O56: a severe fault is latched and recorded, and forces an entry into QUENCH, which switches off every driver and discards the waiting writes. -/

namespace Sys2Proof.Machine

/-! ### What an entry into QUENCH is judged by -/

/-- A part of the device that an entry into QUENCH switches off (R27, R227, R400). -/
inductive Driver where
  | transmitter (e : Nat)
  | receiver (e : Nat)
  | client (p : Nat)
  | fabric (p : Nat)
  | output (n : Nat)
  | loop (l : Nat)

/-- The driver is not enabled; an output then stands at code 0 and a bias loop does not run. -/
def off (s : State) : Driver → Prop
  | .transmitter e => lcEn (txEng s e).cfg = false
  | .receiver e => lcEn (rxEng s e).cfg = false
  | .client p => cpEn (cliPort s p) = false
  | .fabric p => fpEn (fpCfg s p) = false
  | .output n => outEnable s n = false ∧ (outOf s n).value = 0
  | .loop l => blEnable (blOf s l).cfg = false ∧ (blOf s l).t0 = none

/-- The mode and the severe faults, the fault record, the waiting writes and the drivers that are off. -/
structure QuenchView where
  mode : Mode
  present : List SevereFault
  latched : List SevereFault
  record : List FaultEntry
  waiting : List Commit
  off : Driver → Prop

def quenchView (s : State) : QuenchView where
  mode := s.mode.mode
  present := s.mode.present
  latched := s.mode.latched
  record := s.store.record
  waiting := s.commits
  off := off s

/-- The view with some more drivers off. -/
def QuenchView.lower (v : QuenchView) (ds : List Driver) : QuenchView := { v with off := fun d => d ∈ ds ∨ v.off d }

@[simp] theorem QuenchView.lower_off (v : QuenchView) (ds : List Driver) (d : Driver) : (v.lower ds).off d ↔ d ∈ ds ∨ v.off d := .rfl

theorem QuenchView.lower_nil (v : QuenchView) : v.lower [] = v := by simp [lower]

theorem QuenchView.lower_lower (v : QuenchView) (a b : List Driver) : (v.lower a).lower b = v.lower (a ++ b) := by
  simp only [lower, List.mem_append, QuenchView.mk.injEq, true_and]
  funext d
  exact propext (by tauto)

theorem QuenchView.lower_of_off {v : QuenchView} {d : Driver} (h : v.off d) : v.lower [d] = v := by
  simp only [lower, List.mem_singleton]
  congr 1
  funext x
  exact propext (or_iff_right_of_imp fun hx => hx ▸ h)

/-- Operations that each switch off some drivers, one after the other. -/
theorem quenchView_foldl {α : Type} {g : State → α → State} {ds : α → List Driver} (h : ∀ s a, quenchView (g s a) = (quenchView s).lower (ds a)) (l : List α)
    (s : State) : quenchView (l.foldl g s) = (quenchView s).lower (l.flatMap ds) := by
  induction l generalizing s with
  | nil => exact (QuenchView.lower_nil _).symm
  | cons a l ih => rw [List.foldl_cons, ih, h, QuenchView.lower_lower, List.flatMap_cons]

theorem quenchView_foldl_same {α : Type} {g : State → α → State} (h : ∀ s a, quenchView (g s a) = quenchView s) (l : List α) (s : State) :
    quenchView (l.foldl g s) = quenchView s := by
  rw [quenchView_foldl (ds := fun _ => []) fun s a => (h s a).trans (QuenchView.lower_nil _).symm]
  simp [QuenchView.lower]

/-! ### The view, carried through the updates that meanings are built from -/

@[simp] theorem quenchView_onOtn (s : State) (f : List (Nat × OtnSt) → List (Nat × OtnSt)) : quenchView (s.onOtn f) = quenchView s := rfl
@[simp] theorem quenchView_onClk (s : State) (f : ClkSt → ClkSt) : quenchView (s.onClk f) = quenchView s := rfl
@[simp] theorem quenchView_onCmd (s : State) (f : CmdSt → CmdSt) : quenchView (s.onCmd f) = quenchView s := rfl
@[simp] theorem quenchView_onEv (s : State) (f : EvSt → EvSt) : quenchView (s.onEv f) = quenchView s := rfl
@[simp] theorem quenchView_onAnvil (s : State) (f : AnvilSt → AnvilSt) : quenchView (s.onAnvil f) = quenchView s := rfl
@[simp] theorem quenchView_onCont (s : State) (f : ContSt → ContSt) : quenchView (s.onCont f) = quenchView s := rfl
@[simp] theorem quenchView_onGrm (s : State) (f : GrmSt → GrmSt) : quenchView (s.onGrm f) = quenchView s := rfl
@[simp] theorem quenchView_onSec (s : State) (f : SecSt → SecSt) : quenchView (s.onSec f) = quenchView s := rfl
@[simp] theorem quenchView_onBoot (s : State) (f : BootSt → BootSt) : quenchView (s.onBoot f) = quenchView s := rfl
@[simp] theorem quenchView_onKeys (s : State) (f : KeySt → KeySt) : quenchView (s.onKeys f) = quenchView s := rfl

@[simp] theorem quenchView_onMode (s : State) (f : ModeSt → ModeSt) (h : ∀ v, (f v).mode = v.mode ∧ (f v).present = v.present ∧ (f v).latched = v.latched) :
    quenchView (s.onMode f) = quenchView s := by
  obtain ⟨hmode, hpresent, hlatched⟩ := h s.mode
  simp only [quenchView, State.onMode, hmode, hpresent, hlatched]
  rfl

@[simp] theorem quenchView_onStore (s : State) (f : StoreSt → StoreSt) (h : ∀ v, (f v).record = v.record) : quenchView (s.onStore f) = quenchView s := by
  simp only [quenchView, State.onStore, h]
  rfl

/-- An update that can change no more than the drivers, and changes none of them. -/
theorem quenchView_of_off {s t : State} (h : off t = off s) (hv : { quenchView t with off := off s } = quenchView s) : quenchView t = quenchView s := by
  rw [← hv, ← h]; rfl

@[simp] theorem quenchView_onCli (s : State) (f : CliSt → CliSt) (h : ∀ v, (f v).portCfg = v.portCfg) : quenchView (s.onCli f) = quenchView s :=
  quenchView_of_off (funext fun d => by
    cases d with
    | client p => simp only [off, cliPort, State.onCli, h]
    | _ => rfl) rfl

@[simp] theorem quenchView_onFab (s : State) (f : FabSt → FabSt) (h : ∀ v, (f v).portCfg = v.portCfg) : quenchView (s.onFab f) = quenchView s :=
  quenchView_of_off (funext fun d => by
    cases d with
    | fabric p => simp only [off, fpCfg, State.onFab, h]
    | _ => rfl) rfl

@[simp] theorem quenchView_ite (c : Prop) [Decidable c] (a b : State) : quenchView (if c then a else b) = if c then quenchView a else quenchView b :=
  apply_ite quenchView c a b

/-! ### Shared operations -/

@[simp] theorem note_quenchView (e : Ev) (inst n : Nat) (s : State) : quenchView (note e inst n s) = quenchView s := by rw [note_eq]; rfl
@[simp] theorem noteClear_quenchView (e : Ev) (inst : Nat) (s : State) : quenchView (noteClear e inst s) = quenchView s := by simp [noteClear, logEvent]
@[simp] theorem noteChange_quenchView (e : Ev) (inst : Nat) (was now : Bool) (s : State) : quenchView (noteChange e inst was now s) = quenchView s := by
  simp [noteChange]

@[simp] theorem replyDeferred_quenchView (d : Deferred) (r : Rej) (res : List W32) (s : State) : quenchView (replyDeferred d r res s) = quenchView s := by
  have hunaccept : quenchView (unaccept d.req s) = quenchView s := by unfold unaccept; split <;> simp
  unfold replyDeferred freeCq
  rw [quenchView_onCmd, reply_eq]
  exact (quenchView_ite ..).trans (by rw [hunaccept, ite_self])

@[simp] theorem abortMapSync_quenchView (s : State) : quenchView (abortMapSync s) = quenchView s := by unfold abortMapSync; split <;> simp

theorem eachNat_quenchView {f : Nat → State → State} (h : ∀ n s, quenchView (f n s) = quenchView s) (l : List Nat) (s : State) :
    quenchView (eachNat f l s) = quenchView s := by
  induction l generalizing s with
  | nil => rfl
  | cons n l ih => exact (ih _).trans (h n s)

/-! ### Containers and their contexts -/

@[simp] theorem onSnk_quenchView (c : Nat) (f : SinkSt → SinkSt) (s : State) : quenchView (onSnk c f s) = quenchView s := by simp [onSnk]
@[simp] theorem onBody_quenchView (c : Nat) (f : BodyRx → BodyRx) (s : State) : quenchView (onBody c f s) = quenchView s := by simp [onBody]

/-- A unit that is not checked, or for which no verdict is due, is counted at most. -/
@[simp] theorem dropUnit_quenchView (c : Nat) (s : State) : quenchView (dropUnit c s) = quenchView s := by
  unfold dropUnit applyVerdict
  split <;> simp

@[simp] theorem sinksQuench_quenchView (l : List (Nat × ContEntry)) (s : State) : quenchView (sinksQuench l s) = quenchView s := by
  induction l generalizing s with
  | nil => rfl
  | cons x l ih => simp [sinksQuench, ih]

@[simp] theorem zeroiseContexts_quenchView (s : State) : quenchView (zeroiseContexts s) = quenchView s := by simp [zeroiseContexts]

/-! ### Packet grooming -/

@[simp] theorem drainCheck_quenchView (s : State) : quenchView (drainCheck s) = quenchView s := by simp [drainCheck]
@[simp] theorem onSlot_quenchView (g : Nat) (f : SlotSt → SlotSt) (s : State) : quenchView (onSlot g f s) = quenchView s := by simp [onSlot]
@[simp] theorem slotDiscard_quenchView (g : Nat) (s : State) : quenchView (slotDiscard g s) = quenchView s := by simp [slotDiscard]
@[simp] theorem dropFlight_quenchView (p : Nat) (s : State) : quenchView (dropFlight p s) = quenchView s := by simp [dropFlight]

@[simp] theorem dropParts_quenchView (s : State) (l : List Nat) : quenchView (dropParts s l) = quenchView s := by
  induction l generalizing s with
  | nil => rfl
  | cons g l ih => simp [dropParts, ih]

@[simp] theorem grmFlush_quenchView (q : Nat) (s : State) : quenchView (grmFlush q s) = quenchView s := by simp [grmFlush]

@[simp] theorem groomPortOff_quenchView (p : Nat) (s : State) : quenchView (groomPortOff p s) = quenchView s := by
  unfold groomPortOff
  dsimp only
  rw [eachNat_quenchView slotDiscard_quenchView]
  simp

@[simp] theorem groomQuench_quenchView (s : State) : quenchView (groomQuench s) = quenchView s := by
  unfold groomQuench
  dsimp only
  rw [drainCheck_quenchView, quenchView_onGrm, eachNat_quenchView grmFlush_quenchView]

/-! ### Lanes and ports -/

@[simp] theorem onLane_quenchView (n : Nat) (f : LaneSt → LaneSt) (s : State) : quenchView (onLane n f s) = quenchView s :=
  quenchView_onCli s _ fun v => by split <;> rfl

@[simp] theorem laneIdle_quenchView (base n : Nat) (s : State) : quenchView (laneIdle base n s) = quenchView s := by
  unfold laneIdle
  generalize List.range n = l
  induction l generalizing s with
  | nil => rfl
  | cons i l ih => exact (ih _).trans (by simp)

@[simp] theorem onCliPort_quenchView (p : Nat) (f : CliPortSt → CliPortSt) (s : State) : quenchView (onCliPort p f s) = quenchView s := by simp [onCliPort]

@[simp] theorem instsOff_quenchView (p : Nat) (s : State) : quenchView (instsOff p s) = quenchView s :=
  quenchView_foldl_same (fun s _ => quenchView_foldl_same (fun _ _ => noteChange_quenchView ..) _ s) _ s

@[simp] theorem clientLanesIdle_quenchView (s : State) : quenchView (clientLanesIdle s) = quenchView s := by simp [clientLanesIdle]

@[simp] theorem onPort_quenchView (p : Nat) (f : PortSt → PortSt) (s : State) : quenchView (onPort p f s) = quenchView s := by simp [onPort]
@[simp] theorem ctlPurge_quenchView (p : Nat) (s : State) : quenchView (ctlPurge p s) = quenchView s := by simp [ctlPurge]
@[simp] theorem adjNone_quenchView (p : Nat) (s : State) : quenchView (adjNone p s) = quenchView s := by simp [adjNone, adjDrop]
@[simp] theorem enterDown_quenchView (p : Nat) (s : State) : quenchView (enterDown p s) = quenchView s := by simp [enterDown]

/-! ### Receivers -/

@[simp] theorem onRxEng_quenchView (e : Nat) (f : RxSt → RxSt) (s : State) (h : ∀ x, (f x).cfg = x.cfg) : quenchView (onRxEng e f s) = quenchView s := by
  refine quenchView_of_off ?_ rfl
  funext d
  cases d with
  | receiver i =>
    have hcfg : (rxEng (onRxEng e f s) i).cfg = (rxEng s i).cfg := by
      simp only [rxEng, onRxEng, State.onRx, tget_tmod]
      split
      · rename_i hi; rw [h, hi]
      · rfl
    simp only [off, hcfg]
  | _ => rfl

@[simp] theorem onOtnE_quenchView (e : Nat) (f : OtnSt → OtnSt) (s : State) : quenchView (onOtnE e f s) = quenchView s := by simp [onOtnE]

@[simp] theorem otnOff_quenchView (e : Nat) (s : State) : quenchView (otnOff e s) = quenchView s := by
  unfold otnOff
  rw [quenchView_foldl_same fun _ _ => by simp [otnDefect], onOtnE_quenchView]

@[simp] theorem sourceLost_quenchView (c : Nat) (s : State) : quenchView (sourceLost c s) = quenchView s := by simp [sourceLost, failRef]
@[simp] theorem rxLosf_quenchView (e : Nat) (now : Bool) (s : State) : quenchView (rxLosf e now s) = quenchView s := by simp [rxLosf]
@[simp] theorem rxLos_quenchView (e : Nat) (now : Bool) (s : State) : quenchView (rxLos e now s) = quenchView s := by simp [rxLos]
@[simp] theorem clearDescMm_quenchView (e : Nat) (s : State) : quenchView (clearDescMm e s) = quenchView s := by simp [clearDescMm]
@[simp] theorem cdLimitClear_quenchView (e : Nat) (s : State) : quenchView (cdLimitClear e s) = quenchView s := by simp [cdLimitClear]
@[simp] theorem rxEnter_quenchView (st : RxState) (e : Nat) (s : State) : quenchView (rxEnter st e s) = quenchView s := by simp [rxEnter]
@[simp] theorem rxOff_quenchView (e : Nat) (s : State) : quenchView (rxOff e s) = quenchView s := by simp [rxOff]

/-! ### What each part of the entry switches off -/

/-- An update after which just one more driver is off. -/
theorem quenchView_lower {s t : State} {k : Driver} (hoff : ∀ d, off t d ↔ d = k ∨ off s d) (hv : { quenchView t with off := off s } = quenchView s) :
    quenchView t = (quenchView s).lower [k] := by
  have h : off t = fun d => d ∈ [k] ∨ off s d := funext fun d => propext (by simpa using hoff d)
  rw [← hv]
  exact show { quenchView t with off := off t } = _ by rw [h]; rfl

theorem bit31_low31 (w : W32) : bit (w &&& 0x7FFFFFFF#32) 31 = false := by
  simp only [bit, BitVec.getLsbD_and]
  exact Bool.and_false _

theorem bit31_setAt (w : List W32) : bit ((setAt w 0 (w.getD 0 0#32 &&& 0x7FFFFFFF#32)).getD 0 0#32) 31 = false := by
  cases w with
  | nil => rfl
  | cons a r => exact bit31_low31 a

theorem lcEn_lowerEnable (w : List W32) : lcEn (lowerEnable w) = false := bit31_setAt w
theorem fpEn_lowerEnable (w : List W32) : fpEn (lowerEnable w) = false := bit31_setAt w

/-- A property of what a table reads after a write of a value that has it. -/
theorem ite_iff_or {α : Type} {P : α → Prop} {x y : α} (c : Prop) [Decidable c] (hx : P x) : P (if c then x else y) ↔ c ∨ P y := by
  by_cases hc : c <;> simp [hc, hx]

theorem onTxEng_lower (e : Nat) (f : TxSt → TxSt) (s : State) (h : ∀ x, lcEn (f x).cfg = false) :
    quenchView (onTxEng e f s) = (quenchView s).lower [.transmitter e] := by
  refine quenchView_lower (fun d => ?_) rfl
  cases d with
  | transmitter i =>
    simp only [off, txEng, onTxEng, State.onTx, tget_tmod, Driver.transmitter.injEq]
    exact ite_iff_or (P := fun x : TxSt => lcEn x.cfg = false) _ (h _)
  | _ => simp [off]; rfl

theorem onRxEng_lower (e : Nat) (f : RxSt → RxSt) (s : State) (h : ∀ x, lcEn (f x).cfg = false) :
    quenchView (onRxEng e f s) = (quenchView s).lower [.receiver e] := by
  refine quenchView_lower (fun d => ?_) rfl
  cases d with
  | receiver i =>
    simp only [off, rxEng, onRxEng, State.onRx, tget_tmod, Driver.receiver.injEq]
    exact ite_iff_or (P := fun x : RxSt => lcEn x.cfg = false) _ (h _)
  | _ => simp [off]; rfl

theorem cliPort_lower (p : Nat) (w : W32) (s : State) (h : cpEn w = false) :
    quenchView (s.onCli fun v => { v with portCfg := tset 0x01000000#32 v.portCfg p w }) = (quenchView s).lower [.client p] := by
  refine quenchView_lower (fun d => ?_) rfl
  cases d with
  | client i =>
    simp only [off, cliPort, State.onCli, tget_tset, Driver.client.injEq]
    exact ite_iff_or (P := fun x => cpEn x = false) _ h
  | _ => simp [off]; rfl

theorem fpCfg_lower (p : Nat) (w : List W32) (s : State) (h : fpEn w = false) :
    quenchView (s.onFab fun v => { v with portCfg := tset fabPortReset v.portCfg p w }) = (quenchView s).lower [.fabric p] := by
  refine quenchView_lower (fun d => ?_) rfl
  cases d with
  | fabric i =>
    simp only [off, fpCfg, State.onFab, tget_tset, Driver.fabric.injEq]
    exact ite_iff_or (P := fun x => fpEn x = false) _ h
  | _ => simp [off]; rfl

theorem onOut_lower (n : Nat) (f : OutSt → OutSt) (s : State) (h : ∀ x, bit (f x).cfg1 31 = false ∧ (f x).value = 0) :
    quenchView (onOut n f s) = (quenchView s).lower [.output n] := by
  refine quenchView_lower (fun d => ?_) rfl
  cases d with
  | output i =>
    simp only [off, outEnable, outOf, onOut, State.onOpt, tget_tmod, Driver.output.injEq]
    exact ite_iff_or (P := fun x : OutSt => bit x.cfg1 31 = false ∧ x.value = 0) _ (h _)
  | _ => simp [off]; rfl

/-! ### Lines (R227) -/

/-- Transmitter and receiver of one engine. -/
def lineQuench (s : State) (e : Nat) : State :=
  let s := onTxEng e (fun x => { x with cfg := lowerEnable x.cfg, state := .dark, wait := 0, sent := [], past := [], calLen := 0 }) s
  if lcEn (rxEng s e).cfg then rxOff e (onRxEng e (fun x => { x with cfg := lowerEnable x.cfg }) s) else s

theorem linesQuench_eq (s : State) : linesQuench s = (List.range 4).foldl lineQuench s := rfl

theorem lineQuench_lower (s : State) (e : Nat) : quenchView (lineQuench s e) = (quenchView s).lower [.transmitter e, .receiver e] := by
  unfold lineQuench
  extract_lets s1
  have htx : quenchView s1 = (quenchView s).lower [.transmitter e] := onTxEng_lower _ _ _ fun x => lcEn_lowerEnable x.cfg
  refine Eq.trans ?_ (QuenchView.lower_lower _ [.transmitter e] [.receiver e])
  rw [← htx]
  split
  · exact (rxOff_quenchView ..).trans (onRxEng_lower _ _ _ fun x => lcEn_lowerEnable x.cfg)
  · rename_i hrx
    exact (QuenchView.lower_of_off (show off s1 (.receiver e) from Bool.eq_false_of_not_eq_true hrx)).symm

theorem linesQuench_lower (s : State) : quenchView (linesQuench s) = (quenchView s).lower ((List.range 4).flatMap fun e => [.transmitter e, .receiver e]) := by
  rw [linesQuench_eq, quenchView_foldl lineQuench_lower]

theorem linesQuench_off (s : State) {e : Nat} (he : e < 4) :
    (quenchView (linesQuench s)).off (.transmitter e) ∧ (quenchView (linesQuench s)).off (.receiver e) := by
  have hmem (d : Driver) (hd : d ∈ [Driver.transmitter e, .receiver e]) : (quenchView (linesQuench s)).off d := by
    rw [linesQuench_lower]
    exact .inl (List.mem_flatMap.2 ⟨e, List.mem_range.2 he, hd⟩)
  exact ⟨hmem _ (by simp), hmem _ (by simp)⟩

/-! ### Client ports -/

/-- Client port `x.1`, enabled with configuration word `x.2`. -/
def clientQuench (s : State) (x : Nat × W32) : State :=
  let s := applyClPort { opcode := opClPortCfg.code, params := [BitVec.ofNat 32 x.1, x.2 &&& 0x7FFFFFFF#32] } s
  if cpGroomed x.2 then groomPortOff x.1 s else s

theorem clientsQuench_eq (s : State) : clientsQuench s = clientLanesIdle ((s.cli.portCfg.filter fun x => cpEn x.2).foldl clientQuench s) := rfl

theorem applyClPort_lower (c : Commit) (s : State) (h : cpEn (c.p 1) = false) :
    quenchView (applyClPort c s) = (quenchView s).lower [.client (cliObj (c.p 0))] := by
  unfold applyClPort
  extract_lets p old w s1 s2 s3
  rw [← cliPort_lower p w s h, if_neg (by simp [w, h])]
  split <;> simp [s3, s2, s1]

theorem clientQuench_lower (s : State) (x : Nat × W32) : quenchView (clientQuench s x) = (quenchView s).lower [.client (cliObj (BitVec.ofNat 32 x.1))] := by
  unfold clientQuench
  extract_lets s1
  have hoff : quenchView s1 = (quenchView s).lower [.client (cliObj (BitVec.ofNat 32 x.1))] := applyClPort_lower _ _ (bit31_low31 x.2)
  split <;> simp [hoff]

theorem clientsQuench_lower (s : State) :
    quenchView (clientsQuench s) = (quenchView s).lower ((s.cli.portCfg.filter fun x => cpEn x.2).flatMap fun x => [.client (cliObj (BitVec.ofNat 32 x.1))]) := by
  rw [clientsQuench_eq, clientLanesIdle_quenchView, quenchView_foldl clientQuench_lower]

theorem cliObj_ofNat {p : Nat} (hp : p < 48) : cliObj (BitVec.ofNat 32 p) = p := by
  simp only [cliObj, fld, BitVec.toNat_ofNat, Nat.shiftRight_zero]
  omega

/-- What a table reads is in its list, unless it is what an unlisted index reads as. -/
theorem tget_eq_or_mem {α : Type} (d : α) (t : List (Nat × α)) (k : Nat) : tget d t k = d ∨ (k, tget d t k) ∈ t := by
  induction t with
  | nil => exact .inl rfl
  | cons x r ih =>
    obtain ⟨j, v⟩ := x
    by_cases hj : j = k
    · subst hj; simp [tget]
    · simp only [tget, if_neg hj]
      exact ih.imp id (List.mem_cons_of_mem _)

theorem clientsQuench_off (s : State) {p : Nat} (hp : p < 48) : (quenchView (clientsQuench s)).off (.client p) := by
  rw [clientsQuench_lower, QuenchView.lower_off]
  by_cases h : cpEn (cliPort s p) = false
  · exact .inr h
  · have hen : cpEn (cliPort s p) = true := by simpa using h
    have hmem : (p, cliPort s p) ∈ s.cli.portCfg := (tget_eq_or_mem _ s.cli.portCfg p).resolve_left fun hd => h (congrArg cpEn hd)
    exact .inl (List.mem_flatMap.2 ⟨_, List.mem_filter.2 ⟨hmem, hen⟩, by simp [cliObj_ofNat hp]⟩)

/-! ### Fabric ports -/

/-- An enabled fabric port. -/
def fabricPortQuench (s : State) (p : Nat) : State :=
  enterDown p (s.onFab fun v => { v with portCfg := tset fabPortReset v.portCfg p (lowerEnable (fpCfg s p)) })

theorem fabricQuench_eq (s : State) : fabricQuench s = ((List.range 12).filter fun p => fpEn (fpCfg s p)).foldl fabricPortQuench s := rfl

theorem fabricPortQuench_lower (s : State) (p : Nat) : quenchView (fabricPortQuench s p) = (quenchView s).lower [.fabric p] := by
  rw [fabricPortQuench, enterDown_quenchView, fpCfg_lower _ _ _ (fpEn_lowerEnable _)]

theorem fabricQuench_lower (s : State) :
    quenchView (fabricQuench s) = (quenchView s).lower (((List.range 12).filter fun p => fpEn (fpCfg s p)).flatMap fun p => [.fabric p]) := by
  rw [fabricQuench_eq, quenchView_foldl fabricPortQuench_lower]

theorem fabricQuench_off (s : State) {p : Nat} (hp : p < 12) : (quenchView (fabricQuench s)).off (.fabric p) := by
  rw [fabricQuench_lower, QuenchView.lower_off]
  by_cases h : fpEn (fpCfg s p) = false
  · exact .inr h
  · exact .inl (List.mem_flatMap.2 ⟨p, List.mem_filter.2 ⟨List.mem_range.2 hp, by simpa using h⟩, List.mem_singleton_self _⟩)

/-! ### Optics -/

def outQuench (s : State) (n : Nat) : State := onOut n (fun o => { o with cfg1 := o.cfg1 &&& 0x7FFFFFFF#32, value := 0 }) s

def loopQuench (s : State) (l : Nat) : State := blStop l (onBl l (fun b => { b with cfg := setAt b.cfg 0 (b.cfg.getD 0 0#32 &&& 0x7FFFFFFF#32) }) s)

/-- A running transfer of an I2C master is marked to end (R392). -/
def i2cQuench (s : State) (m : Nat) : State := if (i2cOf s m).xfer.isSome then onI2c m (fun i => { i with abort := true }) s else s

theorem optQuench_eq (s : State) :
    optQuench s = (List.range 4).foldl i2cQuench ((List.range 8).foldl loopQuench ((outIds s).foldl outQuench s)) := rfl

theorem outQuench_lower (s : State) (n : Nat) : quenchView (outQuench s n) = (quenchView s).lower [.output n] :=
  onOut_lower _ _ _ fun x => ⟨bit31_low31 x.cfg1, rfl⟩

theorem blOf_onBl (l : Nat) (f : BlSt → BlSt) (s : State) (i : Nat) : blOf (onBl l f s) i = if i = l then f (blOf s l) else blOf s i := tget_tmod ..

theorem loopQuench_lower (s : State) (l : Nat) : quenchView (loopQuench s l) = (quenchView s).lower [.loop l] := by
  refine quenchView_lower (fun d => ?_) rfl
  cases d with
  | loop i =>
    simp only [off, loopQuench, blStop, blOf_onBl, if_true, Driver.loop.injEq]
    by_cases hi : i = l
    · simpa [hi] using! bit31_setAt (blOf s l).cfg
    · simp [hi]
  | _ => simp [off]; rfl

theorem i2cQuench_quenchView (s : State) (m : Nat) : quenchView (i2cQuench s m) = quenchView s := by
  unfold i2cQuench
  split <;> rfl

theorem optQuench_lower (s : State) : quenchView (optQuench s) = (quenchView s).lower
    ((outIds s).flatMap (fun n => [.output n]) ++ (List.range 8).flatMap fun l => [.loop l]) := by
  rw [optQuench_eq, quenchView_foldl_same i2cQuench_quenchView, quenchView_foldl loopQuench_lower, quenchView_foldl outQuench_lower,
    QuenchView.lower_lower]

theorem optQuench_off_output (s : State) (n : Nat) : (quenchView (optQuench s)).off (.output n) := by
  rw [optQuench_lower, QuenchView.lower_off]
  rcases tget_eq_or_mem {} s.opt.out n with hd | hmem
  · have hout : outOf s n = {} := hd
    exact .inr (by simp [quenchView, off, outEnable, hout, bit])
  · exact .inl (List.mem_append_left _ (List.mem_flatMap.2 ⟨n, List.mem_map.2 ⟨_, hmem, rfl⟩, List.mem_singleton_self _⟩))

theorem optQuench_off_loop (s : State) {l : Nat} (hl : l < 8) : (quenchView (optQuench s)).off (.loop l) := by
  rw [optQuench_lower, QuenchView.lower_off]
  exact .inl (List.mem_append_right _ (List.mem_flatMap.2 ⟨l, List.mem_range.2 hl, List.mem_singleton_self _⟩))

/-! ### The entry into QUENCH (R27, R39, R400) -/

/-- What an entry into QUENCH does before it switches off the drivers: the boot stops, the mode is QUENCH, the
waiting writes are discarded, and the sinks drop what they were receiving. -/
def quenchBegun (s : State) : State :=
  let s := if s.boot.rom then s.onBoot fun v => { v with stopped := true } else s
  let s := s.onMode fun v => { v with mode := .quench, origin := .quench, autoBlocked := false, lockstep := false, miscompare := false }
  let s := abortMapSync (discardCommits s)
  sinksQuench (enabledSnk s) s

def driversQuench (s : State) : State := optQuench (fabricQuench (clientsQuench (linesQuench s)))

/-- What an entry into QUENCH does after it has switched off the drivers. -/
def quenchEnded (s : State) : State :=
  ((zeroiseContexts (groomQuench s)).onStore fun v => { v with restoreDue := false }).onCont fun v =>
    { v with src := v.src.map fun x => (x.1, { x.2 with unit := false }) }

theorem enterQuench_eq {s : State} (h : inQuench s = false) : enterQuench s = quenchEnded (driversQuench (quenchBegun s)) := by
  unfold enterQuench
  rw [if_neg (by simp [h])]
  rfl

theorem quenchBegun_quenchView (s : State) : quenchView (quenchBegun s) = { quenchView s with mode := .quench, waiting := [] } := by
  unfold quenchBegun
  extract_lets s1 s2 s3
  have hboot : quenchView s1 = quenchView s := by simp [s1]
  calc
    quenchView (sinksQuench (enabledSnk s3) s3) = quenchView (discardCommits s2) := by rw [sinksQuench_quenchView, abortMapSync_quenchView]
    _ = { quenchView s1 with mode := .quench, waiting := [] } := note_quenchView ..
    _ = { quenchView s with mode := .quench, waiting := [] } := congrArg (fun v : QuenchView => { v with mode := .quench, waiting := [] }) hboot

theorem driversQuench_lower (s : State) : ∃ ds, quenchView (driversQuench s) = (quenchView s).lower ds := by
  unfold driversQuench
  rw [optQuench_lower, fabricQuench_lower, clientsQuench_lower, linesQuench_lower]
  simp only [QuenchView.lower_lower]
  exact ⟨_, rfl⟩

theorem quenchEnded_quenchView (s : State) : quenchView (quenchEnded s) = quenchView s := by simp [quenchEnded]

/-- The drivers that the device has; an output beyond those it has stands as at reset. -/
def Driver.Present : Driver → Prop
  | .transmitter e | .receiver e => e < 4
  | .client p => p < 48
  | .fabric p => p < 12
  | .output _ => True
  | .loop l => l < 8

theorem driversQuench_off (s : State) {d : Driver} (h : d.Present) : (quenchView (driversQuench s)).off d := by
  unfold driversQuench
  cases d with
  | output n => exact optQuench_off_output _ n
  | loop l => exact optQuench_off_loop _ h
  | fabric p =>
    rw [optQuench_lower]
    exact .inr (fabricQuench_off _ h)
  | client p =>
    rw [optQuench_lower, fabricQuench_lower]
    exact .inr (.inr (clientsQuench_off _ h))
  | transmitter e =>
    rw [optQuench_lower, fabricQuench_lower, clientsQuench_lower]
    exact .inr (.inr (.inr (linesQuench_off _ h).1))
  | receiver e =>
    rw [optQuench_lower, fabricQuench_lower, clientsQuench_lower]
    exact .inr (.inr (.inr (linesQuench_off _ h).2))

theorem enterQuench_keeps {s : State} (h : inQuench s = false) : let t := enterQuench s
    t.mode.mode = .quench ∧ t.mode.present = s.mode.present ∧ t.mode.latched = s.mode.latched ∧ t.store.record = s.store.record ∧ t.commits = [] := by
  obtain ⟨ds, hds⟩ := driversQuench_lower (quenchBegun s)
  have hview : quenchView (enterQuench s) = { quenchView s with mode := .quench, waiting := [] }.lower ds := by
    rw [enterQuench_eq h, quenchEnded_quenchView, hds, quenchBegun_quenchView]
  exact ⟨congrArg QuenchView.mode hview, congrArg QuenchView.present hview, congrArg QuenchView.latched hview, congrArg QuenchView.record hview,
    congrArg QuenchView.waiting hview⟩

theorem enterQuench_off {s : State} (h : inQuench s = false) {d : Driver} (hd : d.Present) : off (enterQuench s) d := by
  have hview : quenchView (enterQuench s) = quenchView (driversQuench (quenchBegun s)) := by rw [enterQuench_eq h, quenchEnded_quenchView]
  exact (congrArg (QuenchView.off · d) hview).mpr (driversQuench_off _ hd)

theorem enterQuench_discards {s : State} (h : inQuench s = false) : discards (enterQuench s) = discards s + BitVec.ofNat 48 s.commits.length := by
  have hcount (u : State) : discards (discardCommits u) = discards u + BitVec.ofNat 48 u.commits.length :=
    (counter_note (by decide) ..).trans (if_pos rfl)
  rw [enterQuench_eq h]
  simp [quenchEnded, driversQuench, quenchBegun, hcount, apply_ite State.commits]

/-! ### A severe fault (R402, R423) -/

/-- The fault is counted, recorded and latched; the mode is as it was. -/
def faultDeclared (f : SevereFault) (s : State) : State :=
  (faultRecord (16 + faultNum f) 0 0 (note (faultEv f) 0 1 s)).onMode fun v =>
    { v with present := v.present ++ [f], latched := if v.latched.contains f then v.latched else v.latched ++ [f] }

theorem declareFault_eq {f : SevereFault} {s : State} (h : s.mode.present.contains f = false) :
    declareFault f s = if f = .keFail then faultDeclared f s else enterQuench (faultDeclared f s) := by
  unfold declareFault
  rw [if_neg (Bool.not_eq_true _ ▸ h)]
  rfl

theorem faultRecord_newest (code unit detail : Nat) (s : State) : (faultRecord code unit detail s).store.record.getLast?.map (fun x => x.code) = some code := by
  simp only [faultRecord, State.onStore_self]
  rw [List.getLast?_drop, if_neg (by simp), List.getLast?_concat]
  rfl

theorem faultDeclared_mode (f : SevereFault) (s : State) : (faultDeclared f s).mode = { s.mode with
    present := s.mode.present ++ [f], latched := if s.mode.latched.contains f then s.mode.latched else s.mode.latched ++ [f] } := by
  unfold faultDeclared faultRecord
  rw [note_eq]
  rfl

theorem faultDeclared_latched (f : SevereFault) (s : State) : f ∈ (faultDeclared f s).mode.latched := by
  rw [faultDeclared_mode]
  dsimp only
  split
  · exact List.contains_iff_mem.1 ‹_›
  · exact List.mem_append_right _ (List.mem_singleton_self f)

theorem faultDeclared_present (f : SevereFault) (s : State) : f ∈ (faultDeclared f s).mode.present := by
  rw [faultDeclared_mode]
  exact List.mem_append_right _ (List.mem_singleton_self f)

theorem faultDeclared_commits (f : SevereFault) (s : State) : (faultDeclared f s).commits = s.commits := by
  unfold faultDeclared faultRecord
  rw [note_eq]
  rfl

theorem faultDeclared_discards (f : SevereFault) (s : State) : discards (faultDeclared f s) = discards s := by
  have hev : otherEvent (faultEv f) = true := by cases f <;> decide
  simp [faultDeclared, hev]

/-- Settles O56: the fault is latched and recorded, and the entry into QUENCH that follows keeps this, discards and counts the waiting writes and leaves every driver off;
after KE_FAIL no entry follows. -/
theorem severeFaultsForceQuench : Obligations.SevereFaultsForceQuench := by
  refine ⟨fun f s hf hp hq => ?_, fun s hp => ?_⟩
  · have hq' : inQuench (faultDeclared f s) = false := by rw [inQuench, faultDeclared_mode]; exact hq
    obtain ⟨hmode, hpresent, hlatched, hrecord, hwaiting⟩ := enterQuench_keeps hq'
    have hoff {d : Driver} (hd : d.Present) := enterQuench_off hq' hd
    have hcount := enterQuench_discards hq'
    rw [faultDeclared_discards, faultDeclared_commits] at hcount
    rw [declareFault_eq hp, if_neg hf]
    refine ⟨⟨decide_eq_true hmode, List.contains_iff_mem.2 ?_, List.contains_iff_mem.2 ?_⟩, ⟨hwaiting, hcount⟩,
      ⟨fun e he => ⟨hoff (d := .transmitter e) he, hoff (d := .receiver e) he⟩, fun p h => hoff (d := .client p) h, fun p h => hoff (d := .fabric p) h⟩,
      ⟨fun n => hoff (d := .output n) trivial, fun l h => hoff (d := .loop l) h⟩, ?_⟩
    · rw [hlatched]
      exact faultDeclared_latched f s
    · rw [hpresent]
      exact faultDeclared_present f s
    · rw [hrecord]
      exact faultRecord_newest ..
  · rw [declareFault_eq hp, if_pos rfl]
    exact ⟨by rw [faultDeclared_mode], List.contains_iff_mem.2 (faultDeclared_latched _ s)⟩

end Sys2Proof.Machine
end

section
/-! O57, O58, O42: what moves the stroke number and the row. -/

namespace Sys2Proof.Machine

/-! ### What a step can do to the parts of the state that most commands keep (`Kept`) -/

/-- The commands and events that can change `Kept`: resets, the clock, and what can reach the OTP, by itself or by running a packet. -/
inductive MovesKept : Instr → Prop
  | rstnLow (ns : Nat) : MovesKept (.rstnLow ns)
  | powerLoss (mv : Nat) : MovesKept (.powerLoss mv)
  | powerUp : MovesKept .powerUp
  | sysRestartPulse : MovesKept .sysRestartPulse
  | rowTick (x : RowIn) : MovesKept (.rowTick x)
  | strokeBoundary (x : StrokeIn) : MovesKept (.strokeBoundary x)
  | pciePacketFetch (ch : Fin 4) (ws : List W32) (f : Fetched) : MovesKept (.pciePacketFetch ch ws f)
  | pktWrite (p : SpiPacket) : MovesKept (.pktWrite p)
  | commandTake : MovesKept .commandTake
  | signerSlotProgram (rq : Req) : MovesKept (.signerSlotProgram rq)
  | signerRevoke (rq : Req) : MovesKept (.signerRevoke rq)
  | rollbackAdvanceDone : MovesKept .rollbackAdvanceDone

/-- Every other command and event keeps them: the lemmas of the families, in the order of `Instr`. -/
theorem exec_kept {i : Instr} (hi : ¬ MovesKept i) (s : State) : OutKeeps (exec i s) (kept s) := by
  cases i
  case rstnLow | powerLoss | powerUp | sysRestartPulse | rowTick | strokeBoundary | pciePacketFetch | pktWrite | commandTake | signerSlotProgram | signerRevoke
      | rollbackAdvanceDone => exact absurd (by constructor) hi
  exacts [
    execRailFault_kept .., execThermTrip_kept .., execThermWarn_kept .., execPllUnlock_kept .., execSevereFaultClear_kept ..,
    execJtagInstructionLoad_kept .., execStrkInEdge_kept .., execRefFail_kept .., execRefWtrClear_kept .., execCmdTailDoorbell_kept ..,
    execCmdSizeWrite_kept .., execRplSizeWrite_kept .., execRplHeadWrite_kept .., execCmdFlush_kept .., execRplFlush_kept ..,
    execIntStatusW1c_kept .., execBar0RegisterWrite_kept .., execReplyRingWrite_kept .., execRplRead_kept .., execFlush_kept .., execSpiBad_kept ..,
    execFabricReplyRx_kept .., execEcho_kept .., execCapsRead_kept .., execSysStatusRead_kept .., execQueueStatusRead_kept .., execQueueCfg_kept ..,
    execQueueFlush_kept .., execAccessPolicyRead_kept .., execAccessPolicyWrite_kept .., execIntClear_kept .., execStrokeRead_kept ..,
    execStrokeSet_kept .., execStrokeCfg_kept .., execStrokeJoin_kept .., execRefCfg_kept .., execRefStatusRead_kept .., execRefForce_kept ..,
    execClkCfg_kept .., execCommitListRead_kept .., execCommitCancel_kept .., execMapWrite_kept .., execMapCommit_kept .., execMapSync_kept ..,
    execMapRead_kept .., execMapStatusRead_kept .., execContCfg_kept .., execContRead_kept .., execContStatusRead_kept ..,
    execContainerFrameRx_kept .., execBaCfg_kept .., execBaRead_kept .., execTestRead_kept .., execErrInject_kept .., execPgCfg_kept ..,
    execPgRead_kept .., execPgStatusRead_kept .., execPgCmd_kept .., execAlnRealign_kept .., execAlnStatusRead_kept .., execPgSummaryRead_kept ..,
    execPgHoldoffExpiry_kept .., execPgWtrExpiry_kept .., execDfopPm_kept .., execDfopNr_kept .., execFabLinkRowRx_kept ..,
    execFabHuntTimeout_kept .., execEnvelopeTransmit_kept .., execHelloRx_kept .., execHelloSend_kept .., execHelloLoss_kept .., execLspRx_kept ..,
    execPolastEnvelopeRx_kept .., execPathHopRx_kept .., execFabCfg_kept .., execFabStatusRead_kept .., execFabPortCfg_kept ..,
    execFabPortStatusRead_kept .., execFabRouteRead_kept .., execFabLsdbRead_kept .., execFabPathSet_kept .., execTxCfg_kept .., execTxRead_kept ..,
    execTxStatusRead_kept .., execTxPreemph_kept .., execTxPreemphRead_kept .., execLineBondCfg_kept .., execTxCalCfg_kept .., execTxCalRead_kept ..,
    execTxLaserWaitEnd_kept .., execTxRampDone_kept .., execCalLimit_kept .., execSliceRetire_kept .., execRxCfg_kept .., execRxRead_kept ..,
    execRxStatusRead_kept .., execRxQualityRead_kept .., execRxCalRead_kept .., execRxReacquire_kept .., execDrxlos_kept .., execDrxlosClear_kept ..,
    execCdScanDone_kept .., execHeaderCandidate_kept .., execHeaderWindowEnd_kept .., execHuntTimeout_kept .., execCdTrackLimit_kept ..,
    execCodewordDecode_kept .., execOtucFrameTx_kept .., execOtucFrameRx_kept .., execDlof_kept .., execDlom_kept .., execRowBlockRx_kept ..,
    execLineOhCfg_kept .., execLineOhRead_kept .., execLineTtiWrite_kept .., execLineTtiRead_kept .., execLineOtnStatusRead_kept ..,
    execLineFecStatusRead_kept .., execLineRealign_kept .., execClPortCfg_kept .., execClPortRead_kept .., execClPortStatusRead_kept ..,
    execFlexoTribCfg_kept .., execFlexoTribRead_kept .., execLaneCfg_kept .., execLaneStatusRead_kept .., execLanePrbsRead_kept ..,
    execDllos_kept .., execTrainingFrameRx_kept .., execTrainTimeout_kept .., execLaneTestEnd_kept .., execClientFrameRx_kept ..,
    execFluxPass_kept .., execPacketRetire_kept .., execUnpackFrame_kept .., execEgressMacTake_kept .., execGroomCfg_kept .., execGroomRead_kept ..,
    execGroomStatusRead_kept .., execSlotCfg_kept .., execSlotRead_kept .., execSlotStatusRead_kept .., execProgWrite_kept .., execRuleWrite_kept ..,
    execRuleCommit_kept .., execRuleSync_kept .., execRuleRead_kept .., execGrmQueueCfg_kept .., execGrmQueueFlush_kept .., execSecCfg_kept ..,
    execSecRead_kept .., execSecStatusRead_kept .., execKeyLoad_kept .., execKeySwitch_kept .., execKeyClear_kept .., execSecClearLoss_kept ..,
    execKeStatusRead_kept .., execDrbgReseed_kept .., execHkCfg_kept .., execHkRead_kept .., execHkTrigger_kept .., execHkResultRead_kept ..,
    execHkConversionDone_kept .., execOutCfg_kept .., execOutRead_kept .., execOutStatusRead_kept .., execBlCfg_kept .., execBlRead_kept ..,
    execBlStatusRead_kept .., execBlWindowEnd_kept .., execI2cCfg_kept .., execI2cXfer_kept .., execI2cXferDone_kept .., execOptStatusRead_kept ..,
    execModeSet_kept .., execQuench_kept .., execQuenchExit_kept .., execModeCfg_kept .., execModeStatusRead_kept .., execFaultAck_kept ..,
    execLockstepMiscompare_kept .., execCoreSelfTestDone_kept .., execImageLoadDone_kept .., execFwStartDone_kept .., execBootStatusRead_kept ..,
    execImageStage_kept .., execBootExec_kept .., execImageInstall_kept .., execRollbackAdvance_kept .., execSysRestart_kept .., execPkSet_kept ..,
    execAuthKeyLoad_kept .., execTkLoad_kept .., execKeySlotsRead_kept .., execIdRead_kept .., execAttest_kept .., execStore_kept ..,
    execStoreStatusRead_kept .., execProfileRestore_kept .., execProfileErase_kept .., execFaultRead_kept .., execFaultExport_kept ..,
    execRetireRead_kept .., execGoldRestore_kept .., execBusDecerr_kept .., execArbWdog_kept .., execEvcRead_kept .., execPmRead_kept ..,
    execPmSnap_kept .., execWinCfg_kept .., execWinRead_kept .., execEvtMaskWrite_kept .., execEvtMaskRead_kept .., execEvtPop_kept ..,
    execIntegStatusRead_kept .., execArbCfg_kept .., execDloa_kept .., execRstnRelease_kept .., execPerstNAssert_kept .., execPerstNRelease_kept ..,
    execClockLock_kept .., execAcqTimeout_kept .., execHistoryValid_kept .., execHoldoverExpired_kept .., execLostListExpiry_kept ..,
    execRootCandidateTimeout_kept .., execStatusRead_kept .., execFwdTimeout_kept .., execMapSyncDone_kept .., execLspOriginate_kept ..,
    execLspAgeing_kept .., execRouteRecompute_kept .., execAddrWaitEnd_kept .., execAddrClaimed_kept .., execBroadcastRecordExpiry_kept ..,
    execFluxDispatch_kept .., execFragAgeExpiry_kept .., execRuleSyncDone_kept .., execKeyLockGrant_kept .., execKeyLockWaitExpiry_kept ..,
    execKeyLockTimeout_kept .., execEntFail_kept .., execKeFail_kept .., execDepthSettled_kept .., execRomStartDone_kept ..,
    execKindleCalibrationDone_kept .., execRestoreDone_kept .., execImageInstallDone_kept .., execAttestDone_kept .., execStoreDone_kept ..,
    execProfileEraseDone_kept .., execEntropyRestartPass_kept .., execDebugPortAccess_kept ..]

/-! ### The stroke number and the row (R29, R30) -/

/-- The resets of the device, which begin the stroke numbers anew. -/
inductive Resets : Instr → Prop
  | rstnLow (ns : Nat) : Resets (.rstnLow ns)
  | powerLoss (mv : Nat) : Resets (.powerLoss mv)
  | powerUp : Resets .powerUp
  | sysRestartPulse : Resets .sysRestartPulse

/-- How a command or event can move the stroke number and the row: not at all, to the next row, to row 0 of the stroke that begins, or to where a reset begins. -/
inductive TimeMove (s t : State) : Instr → Prop
  | stays (i : Instr) (hscnt : t.stk.scnt = s.stk.scnt) (hrow : t.stk.row = s.stk.row) : TimeMove s t i
  | ticks (x : RowIn) (hlast : s.stk.row < 124) (hscnt : t.stk.scnt = s.stk.scnt) (hrow : t.stk.row = s.stk.row + 1) : TimeMove s t (.rowTick x)
  | begins (x : StrokeIn) (hscnt : t.stk.scnt = nextNumber s) (hrow : t.stk.row = 0) : TimeMove s t (.strokeBoundary x)
  | resets {i : Instr} (hi : Resets i) (hscnt : t.stk.scnt = 0#48) (hrow : t.stk.row = 0) : TimeMove s t i

/-- The identity and the queue stay, and the stroke number and the row move as they can. -/
def KeepsTime (i : Instr) (s t : State) : Prop := t.fused = s.fused ∧ t.pending = s.pending ∧ TimeMove s t i

/-- What moves no more of `Kept` than the OTP moves neither stroke number nor row. -/
theorem KeepsTime.of_otp {i : Instr} {s t : State} {fuses : Nat} {slots : List (Nat × SignerSlot)} (h : kept t = { kept s with fuses := fuses, slots := slots }) :
    KeepsTime i s t :=
  ⟨congrArg Kept.fused h, congrArg Kept.pending h, .stays i (congrArg Kept.scnt h) (congrArg Kept.row h)⟩

theorem KeepsTime.of_holds {i : Instr} {s t : State} (h : HoldsOtp (kept s) (kept t)) : KeepsTime i s t := .of_otp h.1

theorem KeepsTime.of_reset {i : Instr} {s t : State} (hi : Resets i) (h : kept t = kept s ∨ kept t = { kept s with scnt := 0#48, row := 0 }) : KeepsTime i s t := by
  rcases h with h | h
  · exact .of_otp h
  · exact ⟨congrArg Kept.fused h, congrArg Kept.pending h, .resets hi (congrArg Kept.scnt h) (congrArg Kept.row h)⟩

theorem rowTick_keepsTime {x : RowIn} {s t : State} (h : exec (.rowTick x) s = .next t) : KeepsTime (.rowTick x) s t := by
  have hk := execRowTick_kept x s t h
  split at hk
  · exact ⟨congrArg Kept.fused hk, congrArg Kept.pending hk, .ticks x (by tauto) (congrArg Kept.scnt hk) (congrArg Kept.row hk)⟩
  · exact .of_otp hk

theorem strokeBoundary_keepsTime {x : StrokeIn} {s t : State} (h : exec (.strokeBoundary x) s = .next t) : KeepsTime (.strokeBoundary x) s t := by
  have hk := execStrokeBoundary_kept x s t h
  split at hk
  · exact ⟨congrArg Kept.fused hk, congrArg Kept.pending hk, .begins x (congrArg Kept.scnt hk) (congrArg Kept.row hk)⟩
  · exact .of_otp hk

/-- Every command and event keeps the identity and the queue's rest, and moves the stroke number and the row only as `TimeMove` allows. -/
theorem exec_keepsTime {i : Instr} {s t : State} (h : exec i s = .next t) : KeepsTime i s t := by
  by_cases hi : MovesKept i
  · cases hi with
    | rstnLow ns => exact .of_reset (.rstnLow ns) (execRstnLow_kept ns s t h)
    | powerLoss mv => exact .of_reset (.powerLoss mv) (execPowerLoss_kept mv s t h)
    | powerUp => exact .of_reset .powerUp (execPowerUp_kept s t h)
    | sysRestartPulse => exact .of_reset .sysRestartPulse (execSysRestartPulse_kept s t h)
    | rowTick x => exact rowTick_keepsTime h
    | strokeBoundary x => exact strokeBoundary_keepsTime h
    | pciePacketFetch ch ws f => exact .of_holds (execPciePacketFetch_holds ch ws f s t h)
    | pktWrite p => exact .of_holds (execPktWrite_holds p s t h)
    | commandTake => exact .of_holds (execCommandTake_holds s t h)
    | signerSlotProgram rq => exact .of_holds (Host.Outcome.next.inj h ▸ doSignerSlotProgram_holds rq s)
    | signerRevoke rq => exact .of_holds (Host.Outcome.next.inj h ▸ doSignerRevoke_holds rq s)
    | rollbackAdvanceDone => exact (execRollbackAdvanceDone_kept s t h).elim (fun h => .of_otp h) fun h => .of_otp h
  · obtain ⟨u, hu, hk⟩ := exec_kept hi s
    obtain rfl : t = u := Host.Outcome.next.inj (h.symm.trans hu)
    exact .of_otp hk

/-- A step executes the command in front on the state with the queue's rest, or idles on an empty queue. -/
theorem step_cases {s t : State} (h : step s = .next t) :
    s.pending = [] ∧ t = s ∨ ∃ i l, s.pending = i :: l ∧ exec i { s with pending := l } = .next t := by
  unfold step at h
  split at h
  · exact .inl ⟨‹_›, (Host.Outcome.next.inj h).symm⟩
  · exact .inr ⟨_, _, ‹_›, h⟩

/-- Settles O57: the command in front moves the stroke number and the row only as `TimeMove` allows; an empty queue moves nothing. -/
theorem strokeNumberMovesOnlyAtRow0 : Obligations.StrokeNumberMovesOnlyAtRow0 := by
  intro s t h
  rcases step_cases h with ⟨hp, rfl⟩ | ⟨i, l, hp, hexec⟩
  · exact ⟨rfl, by rw [hp]; rfl, .inl ⟨rfl, rfl⟩⟩
  · obtain ⟨hfused, hpending, hmove⟩ := exec_keepsTime hexec
    refine ⟨hfused, by rw [hpending, hp]; rfl, ?_⟩
    cases hmove with
    | stays _ hscnt hrow => exact .inl ⟨hscnt, hrow⟩
    | ticks x _ hscnt hrow => exact .inr (.inl ⟨x, l, hp, hscnt, hrow⟩)
    | begins x hscnt hrow => exact .inr (.inr (.inl ⟨x, l, hp, hscnt, hrow⟩))
    | resets hi hscnt hrow =>
      refine .inr (.inr (.inr ⟨?_, hscnt, hrow⟩))
      cases hi with
      | rstnLow ns => exact ⟨ns, l, .inl hp⟩
      | powerLoss mv => exact ⟨mv, l, .inr (.inl hp)⟩
      | powerUp => exact ⟨0, l, .inr (.inr (.inl hp))⟩
      | sysRestartPulse => exact ⟨0, l, .inr (.inr (.inr hp))⟩

/-- Settles O58: a tick leaves only a row before the last, and a boundary or a reset begins at row 0. -/
theorem rowStaysLegal : Obligations.RowStaysLegal := by
  intro s t hlegal h
  rcases step_cases h with ⟨-, rfl⟩ | ⟨i, l, -, hexec⟩
  · exact hlegal
  · obtain ⟨-, -, hmove⟩ := exec_keepsTime hexec
    unfold RowLegal at hlegal ⊢
    cases hmove with
    | stays _ _ hrow => exact hrow.trans_le hlegal
    | ticks _ hlast _ hrow => exact hrow.trans_le hlast
    | begins _ _ hrow => exact hrow.trans_le (Nat.zero_le _)
    | resets _ _ hrow => exact hrow.trans_le (Nat.zero_le _)

/-! ### The number of the stroke that begins (R29, R36) -/

/-- Where neither a due STROKE_JOIN nor an alignment makes a step, only the number that STROKE_SET asks for can. -/
theorem nextStep_of_setTo {s : State} (hjoin : joinDue s = false) (halign : alignStep s = none) : nextStep s =
    s.stk.setTo.bind fun n => if n = s.stk.scnt + 1#48 then none else some (n, ((n.toNat : Int) - (scnt s + 1 : Nat)) * 2000000, false) := by
  simp only [nextStep, hjoin, Bool.false_eq_true, if_false, halign]
  cases s.stk.setTo <;> rfl

/-- Settles O42: `strokeBoundary_kept` says what a boundary keeps, and `nextStep_of_setTo` which step a STROKE_SET makes. -/
theorem strokeBoundaryBeginsAStroke : Obligations.StrokeBoundaryBeginsAStroke := by
  refine ⟨fun x s ha => ?_, fun x s ha => ?_, fun s hjoin halign hset => ?_, fun n s hjoin halign hset hn => ?_⟩
  · have hk := strokeBoundary_kept x s
    rw [if_pos ha] at hk
    have hscnt : (strokeBoundary x s).stk.scnt = nextNumber s := congrArg Kept.scnt hk
    exact ⟨_, rfl, congrArg Kept.row hk, hscnt, by rw [hk, hscnt]⟩
  · have hsame : strokeBoundary x s = s := by rw [strokeBoundary, ha]; rfl
    exact congrArg Host.Outcome.next hsame
  · rw [nextStep_of_setTo hjoin halign, hset, Option.bind_some, if_pos rfl]
  · exact ⟨_, by rw [nextStep_of_setTo hjoin halign, hset, Option.bind_some, if_neg hn]⟩

end Sys2Proof.Machine
end

section
/-! O12: the order of the checks of a commit stroke. -/

namespace Sys2Proof.Machine

/-! ### Where the commit stroke is checked (R32 to R34, R95 steps 11, 13 and 14) -/

theorem firstFail_append_of_pass {l : List Check} (h : ∀ c ∈ l, c = none) (m : List Check) : firstFail (l ++ m) = firstFail m := by
  induction l with
  | nil => rfl
  | cons c l ih =>
    obtain ⟨rfl, hl⟩ := List.forall_mem_cons.1 h
    exact ih hl

/-- A refusal of step 11 stands where nothing after it is wrong. -/
theorem lowestFail_cons_of_pass {l : List Check} (h : ∀ c ∈ l, c = none) (c : Check) : lowestFail (c :: l) = c := by
  cases c <;> simp [lowestFail, (lowestFail_eq_none l).2 h]

/-- A command with a commit stroke of which nothing else than that stroke can be wrong. -/
structure AllButStroke (o : OpInfo) (rq : Req) (k : Checks) (s : State) : Prop where
  runs : alive s = true
  level : levelCheck o rq s = none
  role : ∀ c ∈ k.role, c = none
  mode : modeCheck o s = none
  unit : ∀ c ∈ k.unit, c = none
  takes : o.cmt ≠ .never
  cmt : rq.cmt = true
  rsv : rq.rsv = 0#3
  mac : macCheck rq = none
  par : ∀ c ∈ k.par, c = none
  late : ∀ c ∈ k.late, c = none

/-- BAD_PARAM of a commit stroke too far ahead; DETAIL names the word in which it exceeds the last one allowed (DEDUCED, log entry 13). -/
def tooFar (rq : Req) (s : State) : Rej := { st := .badParam, detail := if (scnt s + 16777216) >>> 32 < hi16 rq.commit then 2 else 3 }

theorem levelCheck_of_le {o : OpInfo} {rq : Req} {s : State} (h : opcodeLevel o s ≤ packetLevel rq s) : levelCheck o rq s = none :=
  (need_eq_none _ _).2 (decide_eq_true h)

theorem modeCheck_of_operating {o : OpInfo} {s : State} (hrom : s.boot.rom = false) (hquench : inQuench s = false) : modeCheck o s = none := by
  simp [modeCheck, hrom, hquench]

theorem macCheck_of_reserved {rq : Req} (h : (rq.mac.all fun m => m.rsv = 0#13) = true) : macCheck rq = none := by
  unfold macCheck
  cases hm : rq.mac with
  | none => rfl
  | some m => exact (need_eq_none _ _).2 (by simpa [hm] using h)

/-- A command that checks nothing but its parameters, with a packet that is in order but for the commit stroke. -/
theorem AllButStroke.of_par {o : OpInfo} {rq : Req} {s : State} {par : List Check} (ha : alive s = true) (hlevel : opcodeLevel o s ≤ packetLevel rq s)
    (hrom : s.boot.rom = false) (hquench : inQuench s = false) (htakes : o.cmt ≠ .never) (hcmt : rq.cmt = true) (hrsv : rq.rsv = 0#3)
    (hmac : (rq.mac.all fun m => m.rsv = 0#13) = true) (hpar : ∀ c ∈ par, c = none) : AllButStroke o rq { par := par } s where
  runs := ha
  level := levelCheck_of_le hlevel
  role := List.forall_mem_nil _
  mode := modeCheck_of_operating hrom hquench
  unit := List.forall_mem_nil _
  takes := htakes
  cmt := hcmt
  rsv := hrsv
  mac := macCheck_of_reserved hmac
  par := hpar
  late := List.forall_mem_nil _

section
variable {o : OpInfo} {rq : Req} {k : Checks} {s : State} (h : AllButStroke o rq k s)
include h

/-- Of the checks of the header only the range of the commit stroke is left. -/
theorem AllButStroke.headerCheck_eq : headerCheck o rq s = need (rq.commit.toNat ≤ scnt s + 16777216) (tooFar rq s) := by
  unfold headerCheck
  refine (firstFail_append_of_pass (l := [_, _, _]) ?_ [_]).trans ?_
  · simp [h.takes, h.cmt, h.rsv]
  · simp only [h.cmt, Bool.not_true, Bool.false_or, tooFar, gt_iff_lt]
    cases need (rq.commit.toNat ≤ scnt s + 16777216) _ <;> rfl

/-- Three checks are left: the range of the stroke, the room in the table, and whether its row 0 has begun. -/
theorem AllButStroke.refusal_eq : refusal o rq k s = firstFail [need (rq.commit.toNat ≤ scnt s + 16777216) (tooFar rq s),
    need (pendingCount s < 4096) { st := .capacity, detail := 0 }, need (scnt s < rq.commit.toNat) { st := .strokePast }] := by
  have hbefore : ∀ c ∈ [levelCheck o rq s] ++ k.role ++ [modeCheck o s] ++ k.unit, c = none := by
    simp only [List.mem_append, List.mem_singleton, or_imp, forall_and, forall_eq]
    exact ⟨⟨⟨h.level, h.role⟩, h.mode⟩, h.unit⟩
  have hpar : ∀ c ∈ macCheck rq :: k.par, c = none := List.forall_mem_cons.2 ⟨h.mac, h.par⟩
  unfold refusal tableCheck
  rw [List.append_assoc, List.append_assoc, firstFail_append_of_pass hbefore, lowestFail_cons_of_pass hpar, h.headerCheck_eq, if_pos h.cmt, List.singleton_append]
  cases need (rq.commit.toNat ≤ scnt s + 16777216) (tooFar rq s) with
  | some r => rfl
  | none =>
    simp only [firstFail, firstFail_append_of_pass h.late]
    cases need (pendingCount s < 4096) { st := .capacity, detail := 0 } with
    | some r => rfl
    | none => cases need (scnt s < rq.commit.toNat) { st := .strokePast } <;> rfl

/-- A stroke too far ahead is refused first, then a full table, then a stroke whose row 0 has begun. -/
theorem AllButStroke.refuses (eff : State → Answer) :
    (scnt s + 16777216 < rq.commit.toNat → ok (command o rq k s eff) = .next (reply o.code rq (keyOf rq s) (tooFar rq s) [] s)) ∧
    (rq.commit.toNat ≤ scnt s + 16777216 → 4096 ≤ pendingCount s →
      ok (command o rq k s eff) = .next (reply o.code rq (keyOf rq s) { st := .capacity, detail := 0 } [] s)) ∧
    (rq.commit.toNat ≤ scnt s → pendingCount s < 4096 → ok (command o rq k s eff) = .next (reply o.code rq (keyOf rq s) { st := .strokePast } [] s)) := by
  have hreply {r : Rej} (hr : refusal o rq k s = some r) : ok (command o rq k s eff) = .next (reply o.code rq (keyOf rq s) r [] s) :=
    congrArg Host.Outcome.next (command_of_refusal o rq k s eff r h.runs hr)
  refine ⟨fun hfar => hreply ?_, fun hnear hfull => hreply ?_, fun hpast hroom => hreply ?_⟩ <;> rw [h.refusal_eq]
  · rw [need_of_false _ _ (decide_eq_false (by omega))]; rfl
  · rw [(need_eq_none _ _).2 (decide_eq_true hnear), need_of_false _ _ (decide_eq_false (by omega))]; rfl
  · rw [(need_eq_none _ _).2 (decide_eq_true (by omega)), (need_eq_none _ _).2 (decide_eq_true hroom), need_of_false _ _ (decide_eq_false (by omega))]; rfl

end

/-- Settles O12: each of the three commands checks only its parameters beside the commit stroke. -/
theorem commitStrokeIsChecked : Obligations.CommitStrokeIsChecked := by
  refine ⟨fun rq s ha hlevel hrom hquench hrsv hmac hn hcmt => ?_, fun rq s ha hlevel hrom hquench hrsv hmac hn hforeign hcmt => ?_,
    fun rq s ha hlevel hrom hquench hrsv hmac hn hbits hranges hcmt => ?_⟩
  · have hpass : AllButStroke opPmSnap rq { par := [countIs 0 rq] } s :=
      .of_par ha hlevel hrom hquench (by decide) hcmt hrsv hmac (by simp [hn])
    exact hpass.refuses _
  · have hpass : AllButStroke opStrokeJoin rq { par := [countIs 0 rq, causeOk 0x8007 (!s.root.foreign.isEmpty)] } s :=
      .of_par ha hlevel hrom hquench (by decide) hcmt hrsv hmac (by simp [hn, hforeign])
    exact hpass.refuses _
  · have hpass : AllButStroke opModeCfg rq { par := [countIs 1 rq, onlyBits 0 0x80FF0FFF#32 rq,
        wordOk 0 (decide (1 ≤ fld (rq.p 0) 23 16) && decide (1 ≤ fld (rq.p 0) 11 0) && decide (fld (rq.p 0) 11 0 ≤ 3600))] } s :=
      .of_par ha hlevel hrom hquench (by decide) hcmt hrsv hmac (List.forall_mem_cons.2 ⟨(countIs_eq_none 1 rq).2 hn,
        List.forall_mem_cons.2 ⟨(onlyBits_eq_none 0 _ rq).2 hbits, by simp [hranges]⟩⟩)
    exact hpass.refuses _

end Sys2Proof.Machine
end

section
/-! O52: what the writes of the containers, the groups, the lines' overhead, the lanes, the security contexts, the optics, the modes and the windows do at their row 0. -/

namespace Sys2Proof.Machine

/-! ### What is read of a unit after an update of one of them -/

@[simp] theorem srcOf_onSrc (k : Nat) (f : SrcSt → SrcSt) (s : State) (i : Nat) : srcOf (onSrc k f s) i = if i = k then f (srcOf s k) else srcOf s i := tget_tmod ..
@[simp] theorem groupOf_onGroup (g : Nat) (f : GroupSt → GroupSt) (s : State) (i : Nat) :
    groupOf (onGroup g f s) i = if i = g then f (groupOf s g) else groupOf s i := tget_tmod ..
@[simp] theorem otnOf_onOtnE (e : Nat) (f : OtnSt → OtnSt) (s : State) (i : Nat) : otnOf (onOtnE e f s) i = if i = e then f (otnOf s e) else otnOf s i := tget_tmod ..
@[simp] theorem ctxOf_onCtx (k : Nat) (f : CtxSt → CtxSt) (s : State) (i : Nat) : ctxOf (onCtx k f s) i = if i = k then f (ctxOf s k) else ctxOf s i := tget_tmod ..
@[simp] theorem hkOf_onHk (n : Nat) (f : HkSt → HkSt) (s : State) (i : Nat) : hkOf (onHk n f s) i = if i = n then f (hkOf s n) else hkOf s i := tget_tmod ..
@[simp] theorem outOf_onOut (n : Nat) (f : OutSt → OutSt) (s : State) (i : Nat) : outOf (onOut n f s) i = if i = n then f (outOf s n) else outOf s i := tget_tmod ..

/-- Lanes 0 to 47 are client lanes and those from 64 on fabric lanes; there are none between. -/
theorem laneOf_onLane {n : Nat} (hn : n < 48 ∨ 64 ≤ n) (f : LaneSt → LaneSt) (s : State) {i : Nat} (hi : i < 48 ∨ 64 ≤ i) :
    laneOf (onLane n f s) i = if i = n then f (laneOf s n) else laneOf s i := by
  unfold laneOf onLane
  by_cases hn48 : n < 48 <;> by_cases hi48 : i < 48 <;> simp only [hn48, hi48, if_true, if_false, State.onCli_self, tget_tmod]
  · exact (if_neg (by omega)).symm
  · exact (if_neg (by omega)).symm
  · simp only [show i - 64 = n - 64 ↔ i = n by omega]

theorem outCfg2_setOutCfg2 (n : Nat) (w : W32) (s : State) (i : Nat) : outCfg2 (setOutCfg2 n w s) i = if i = n then w else outCfg2 s i := by
  unfold outCfg2 setOutCfg2
  by_cases hn : n < 32 <;> by_cases hi : i < 32 <;> simp only [hn, hi, if_true, if_false, State.onOpt_self, tget_tset]
  · exact (if_neg (by omega)).symm
  · exact (if_neg (by omega)).symm

/-! ### Containers: BA_CFG and ERR_INJECT (R145, R146) -/

theorem baOf_applyBaCfg (c : Commit) (s : State) (i : Nat) : baOf (applyBaCfg c s) i = if i = baObj (c.p 0) then { w1 := c.p 1, w2 := c.p 2 } else baOf s i :=
  tget_tset ..

theorem applyErrInject_of_source {c : Commit} {s : State} (hkind : fld (c.p 0) 31 30 = 0) (hsrc : (contEntry s (contObj (c.p 0))).srcEn = true) :
    applyErrInject c s = onSrc (contObj (c.p 0)) (fun x => { x with bipFlip := (c.p 1).toNat }) s := by rw [applyErrInject, if_pos hkind, if_pos hsrc]

theorem applyErrInject_of_no_source {c : Commit} {s : State} (hkind : fld (c.p 0) 31 30 = 0) (hsrc : (contEntry s (contObj (c.p 0))).srcEn = false) :
    applyErrInject c s = s := by rw [applyErrInject, if_pos hkind, hsrc]; rfl

theorem applyErrInject_of_position {c : Commit} {s : State} (hkind : fld (c.p 0) 31 30 ≠ 0) :
    applyErrInject c s = s.onRows fun v => { v with inject := v.inject ++ [{ pos := fld (c.p 0) 18 0, left := (c.p 1).toNat }] } := by
  rw [applyErrInject, if_neg hkind]

/-! ### Groups: PG_CMD and ALN_REALIGN (R158, R167, R171) -/

theorem applyPgCmd_of_off {c : Commit} {s : State} (hoff : pgEn (pgCfgOf s (pgObj (c.p 0))) = false) : applyPgCmd c s = s := by
  rw [applyPgCmd, hoff]; rfl

theorem applyPgCmd_of_command {c : Commit} {s : State} (hon : pgEn (pgCfgOf s (pgObj (c.p 0))) = true) (hv : (c.p 1).toNat < 8) :
    applyPgCmd c s = onGroup (pgObj (c.p 0)) (fun x => { x with cmdDue := some (c.p 1).toNat }) s := by
  rw [applyPgCmd, hon, if_neg (by decide), if_neg (by omega)]

theorem applyPgCmd_of_selector {c : Commit} {s : State} (herr : pgErrorless (pgCfgOf s (pgObj (c.p 0))) = true) (hv : 8 ≤ (c.p 1).toNat) :
    applyPgCmd c s = onGroup (pgObj (c.p 0)) (fun x => { x with alnSel := (c.p 1).toNat - 8 }) s := by
  obtain ⟨hon, hmode⟩ := Bool.and_eq_true_iff.1 herr
  rw [applyPgCmd, hon, if_neg (by decide), if_pos hv, if_pos (of_decide_eq_true hmode)]

theorem groupOf_applyPgCmd_other (c : Commit) (s : State) {i : Nat} (hi : i ≠ pgObj (c.p 0)) : groupOf (applyPgCmd c s) i = groupOf s i := by
  unfold applyPgCmd
  dsimp only
  split
  · rfl
  split
  · split
    · exact (groupOf_onGroup ..).trans (if_neg hi)
    · rfl
  · exact (groupOf_onGroup ..).trans (if_neg hi)

/-- The playout moves where the group has a copy in frame: at once where it did not play, else by a step. -/
theorem groupOf_applyAlnRealign {c : Commit} {s : State} {n : Nat} (herr : pgErrorless (pgCfgOf s (pgObj (c.p 0))) = true)
    (hn : playTarget (pgCfgOf s (pgObj (c.p 0))) (groupOf s (pgObj (c.p 0))) = some n) :
    let g := pgObj (c.p 0)
    ((groupOf s g).play = none → (groupOf (applyAlnRealign c s) g).play = some n) ∧
    (∀ m, (groupOf s g).play = some m → (groupOf (applyAlnRealign c s) g).play = some m ∧ (m ≠ n → (groupOf (applyAlnRealign c s) g).stepTo = some n)) := by
  intro g
  unfold applyAlnRealign
  dsimp only
  rw [herr, if_neg (by decide), groupOf_onGroup, if_pos rfl, hn]
  refine ⟨fun hplay => ?_, fun m hplay => ?_⟩
  · rw [hplay]
  · rw [hplay]
    dsimp only
    split
    · exact ⟨hplay, fun hm => absurd ‹m = n› hm⟩
    · exact ⟨rfl, fun _ => rfl⟩

/-! ### Overhead: LINE_TTI_WRITE and LINE_REALIGN (R285, R288) -/

/-- A trace of zeros is not stored, and a trace that is not stored reads as zeros. -/
theorem ttiWords_tset (t : List (Nat × List W32)) (l : Nat) (k : Commit) (i : Nat) :
    ttiWords (tset [] t l (if engParams k 16 = List.replicate 16 0#32 then [] else engParams k 16)) i = if i = l then engParams k 16 else ttiWords t i := by
  unfold ttiWords
  rw [tget_tset]
  split
  · split
    · rename_i hzero
      rw [hzero]
      rfl
    · rfl
  · rfl

/-- The overhead of an engine with a trace written: the one that is sent, or the one that is expected. -/
def ttiWritten (k : Commit) (x : OtnSt) : OtnSt :=
  let l := flag (bit (k.p 0) 8)
  let w := if engParams k 16 = List.replicate 16 0#32 then [] else engParams k 16
  if bit (k.p 0) 9 then { x with ttiExp := tset [] x.ttiExp l w } else { x with ttiTx := tset [] x.ttiTx l w }

theorem applyLineTtiWrite_eq (k : Commit) (s : State) : applyLineTtiWrite k s = onOtnE (engObj (k.p 0)) (ttiWritten k) s := rfl

theorem ttiWords_ttiWritten (k : Commit) (x : OtnSt) (i : Nat) :
    ttiWords (if bit (k.p 0) 9 then (ttiWritten k x).ttiExp else (ttiWritten k x).ttiTx) i =
      if i = flag (bit (k.p 0) 8) then engParams k 16 else ttiWords (if bit (k.p 0) 9 then x.ttiExp else x.ttiTx) i := by
  unfold ttiWritten
  cases bit (k.p 0) 9 <;> exact ttiWords_tset ..

theorem ttiWritten_other (k : Commit) (x : OtnSt) : if bit (k.p 0) 9 then (ttiWritten k x).ttiTx = x.ttiTx else (ttiWritten k x).ttiExp = x.ttiExp := by
  unfold ttiWritten
  cases bit (k.p 0) 9 <;> rfl

@[simp] theorem otnOf_note (e : Ev) (inst n : Nat) (s : State) (i : Nat) : otnOf (note e inst n s) i = otnOf s i := by rw [note_eq]; rfl

/-- The move from delay `old` to delay `new`, modulo 2^16 strokes of 125 rows, the shorter way round. -/
def delayMove (new old : Int) : Int := (new - old + 4096000) % 8192000 - 4096000

theorem delayMove_spec (new old : Int) : (new - old - delayMove new old) % 8192000 = 0 ∧ -4096000 ≤ delayMove new old ∧ delayMove new old < 4096000 := by
  unfold delayMove
  omega

theorem counter_lineSlip (e : Nat) (s : State) : counter (note evLinLineSlip e 1 s) evLinLineSlip e = counter s evLinLineSlip e + 1#48 := by
  have hother : evId evLinLineSlip e ≠ evId evIntEvtLogOvf 0 := by
    simp only [evId, evLinLineSlip, evIntEvtLogOvf]
    omega
  rw [counter_note hother, if_pos rfl]

/-- The delay is refixed to the greatest age of a slice under the class of the mode in force, and one slip is counted. -/
theorem realign_of_fixed {e : Nat} {s : State} {old : Nat} (hold : (otnOf s e).align = some old) :
    let x := otnOf s e; let t := realign e s
    let ages := ((List.range (rxRate s e)).filter fun k => (sliceOf x k).sync).map fun k => (localRow s + rowMod - ((sliceOf x k).last).getD 0) % rowMod
    let least : Int := (ages.foldl max 0 : Nat) + (if baseMode s = .draw then 12 else 40) - (if x.latDraw then 12 else 40)
    ∃ (new : Nat) (k : Int), (otnOf t e).align = some new ∧ (otnOf t e).lastRealign = k ∧ (otnOf t e).latDraw = decide (baseMode s = .draw) ∧
      (new : Int) = least % 8192000 ∧ ((new : Int) - old - k) % 8192000 = 0 ∧ -4096000 ≤ k ∧ k < 4096000 ∧ counter t evLinLineSlip e = counter s evLinLineSlip e + 1#48 := by
  intro x t ages least
  let new := (least % 8192000).toNat
  have ht : t = note evLinLineSlip e 1 (onOtnE e (fun y => { y with
      align := some new, latDraw := decide (baseMode s = .draw), lastRealign := delayMove new old, gapRows := (delayMove new old).toNat }) s) := by
    simp only [t, realign, hold, decide_eq_true_eq]
    rfl
  have hnew : (new : Int) = least % 8192000 := Int.toNat_of_nonneg (Int.emod_nonneg _ (by decide))
  obtain ⟨hmod, hlow, hhigh⟩ := delayMove_spec new old
  refine ⟨new, delayMove new old, ?_, ?_, ?_, hnew, hmod, hlow, hhigh, ht ▸ counter_lineSlip e _⟩ <;> rw [ht, otnOf_note, otnOf_onOtnE, if_pos rfl]

theorem realign_of_unfixed {e : Nat} {s : State} (hold : (otnOf s e).align = none) : realign e s = s := by simp only [realign, hold]

/-! ### Lanes: LANE_CFG (R321) -/

/-- The lane with its words written; the static taps of a lane that does not train are those of the words. -/
def laneWritten (c : Commit) (x : LaneSt) : LaneSt :=
  let w := c.p 1
  let y := { x with
    cfg1 := if x.test.isSome then (w &&& 0x3FFFFFFF#32) ||| (x.cfg1 &&& 0xC0000000#32) else w
    cfg2 := c.p 2
    loopPend := if x.test.isSome then some (fld w 31 30) else none
    chk := if fld w 26 25 ≠ lnChk x then {} else x.chk
    gen := if fld w 28 27 ≠ lnGen x then 0 else x.gen
    out := if fld w 31 27 ≠ fld x.cfg1 31 27 then [] else x.out }
  if lnTrain y then y else { y with pre := fld y.cfg2 31 27, main := fld y.cfg2 26 20, post := fld y.cfg2 19 15 }

theorem applyLaneCfg_eq (c : Commit) (s : State) : applyLaneCfg c s = onLane (laneObj (c.p 0)) (laneWritten c) s := rfl

theorem laneWritten_cfg2 (c : Commit) (x : LaneSt) : (laneWritten c x).cfg2 = c.p 2 :=
  (apply_ite LaneSt.cfg2 ..).trans (ite_self _)

theorem laneWritten_cfg1 (c : Commit) {x : LaneSt} (htest : x.test = none) : (laneWritten c x).cfg1 = c.p 1 :=
  (apply_ite LaneSt.cfg1 ..).trans ((ite_self _).trans (if_neg (by simp [htest])))

theorem laneWritten_taps {c : Commit} {x : LaneSt} (htest : x.test = none) (htrain : bit (c.p 1) 29 = false) :
    (laneWritten c x).pre = fld (c.p 2) 31 27 ∧ (laneWritten c x).main = fld (c.p 2) 26 20 ∧ (laneWritten c x).post = fld (c.p 2) 19 15 := by
  simp [laneWritten, lnTrain, htest, htrain]

/-! ### Security: KEY_SWITCH and SEC_CLEAR_LOSS (R358, R364) -/

@[simp] theorem ctxOf_noteClear (e : Ev) (inst : Nat) (s : State) (i : Nat) : ctxOf (noteClear e inst s) i = ctxOf s i := by
  unfold noteClear logEvent
  dsimp only
  (repeat' split) <;> rfl

/-- The key loss of a context ends; its key stays. -/
theorem ctxOf_clearLoss (k : Nat) (s : State) :
    (ctxOf (clearLoss k s) k).keyLoss = false ∧ (ctxOf (clearLoss k s) k).cur = (ctxOf s k).cur ∧ ∀ i, i ≠ k → ctxOf (clearLoss k s) i = ctxOf s i := by
  unfold clearLoss
  split
  · exact ⟨by simp, by simp, fun i hi => by simp [hi]⟩
  · rename_i hloss
    exact ⟨Bool.eq_false_of_not_eq_true hloss, rfl, fun _ _ => rfl⟩

theorem ctxOf_applyKeySwitch (c : Commit) (s : State) : let k := secObj (c.p 0); let t := applyKeySwitch c s
    (ctxOf t k).cur = 1 - (ctxOf s k).cur ∧ (ctxOf t k).keyLoss = false ∧ ∀ i, i ≠ k → ctxOf t i = ctxOf s i := by
  intro k t
  obtain ⟨hloss, hcur, hother⟩ := ctxOf_clearLoss k (onCtx k (fun y => { y with cur := 1 - y.cur, failRun := if y.lossDue then 0 else y.failRun, lossDue := false }) s)
  exact ⟨hcur.trans (by simp), hloss, fun i hi => (hother i hi).trans (by simp [hi])⟩

/-! ### Optics: HK_CFG, HK_TRIGGER, OUT_CFG and BL_CFG (R373, R374, R380, R384) -/

/-- Emptying filters leaves the configuration of every converter. -/
theorem hkOf_emptyFilts_cfg (c : Nat) (l : List Nat) (s : State) (i : Nat) : (hkOf (emptyFilts c l s) i).cfg = (hkOf s i).cfg := by
  induction l generalizing s with
  | nil => rfl
  | cons e l ih =>
    rw [emptyFilts, ih, onFilt, hkOf_onHk]
    split
    · rename_i hi; rw [hi]
    · rfl

theorem hkOf_applyHkCfg_cfg (c : Commit) (s : State) (i : Nat) :
    (hkOf (applyHkCfg c s) i).cfg = if i = fld (c.p 0) 0 0 then c.params.drop 1 else (hkOf s i).cfg := by
  unfold applyHkCfg
  dsimp only
  rw [hkOf_emptyFilts_cfg, hkOf_onHk]
  split <;> rfl

theorem hkOf_applyHkTrigger_trig (c : Commit) (s : State) (i : Nat) :
    (hkOf (applyHkTrigger c s) i).trig = if i = fld (c.p 0) 0 0 then true else (hkOf s i).trig := by
  rw [applyHkTrigger, hkOf_onHk]
  split <;> rfl

theorem outOf_setOutCfg2 (n : Nat) (w : W32) (s : State) (i : Nat) : outOf (setOutCfg2 n w s) i = outOf s i := by
  unfold setOutCfg2 outOf
  simp only [State.onOpt_self]
  split <;> rfl

theorem applyOutCfg_of_no_loop {c : Commit} {s : State} (h : ∀ l < 8, (blOf s l).t0.isSome = true → blOut (blOf s l).cfg ≠ outObj (c.p 0)) :
    applyOutCfg c s = setOutCfg2 (outObj (c.p 0)) (c.p 2) (onOut (outObj (c.p 0)) (fun o => { o with cfg1 := c.p 1 }) s) := by
  have hnone : ((List.range 8).find? fun l => (blOf s l).t0.isSome && blOut (blOf s l).cfg = outObj (c.p 0)) = none :=
    List.find?_eq_none.2 fun l hl => by simpa using h l (List.mem_range.1 hl)
  simp only [applyOutCfg, hnone]

theorem outOf_applyOutCfg {c : Commit} {s : State} (h : ∀ l < 8, (blOf s l).t0.isSome = true → blOut (blOf s l).cfg ≠ outObj (c.p 0)) :
    let n := outObj (c.p 0); let t := applyOutCfg c s
    (outOf t n).cfg1 = c.p 1 ∧ outCfg2 t n = c.p 2 ∧ ∀ i, i ≠ n → outOf t i = outOf s i ∧ outCfg2 t i = outCfg2 s i := by
  intro n t
  have hout (i : Nat) : outOf t i = if i = n then { outOf s n with cfg1 := c.p 1 } else outOf s i := by
    rw [show t = _ from applyOutCfg_of_no_loop h, outOf_setOutCfg2, outOf_onOut]
  have hcfg2 (i : Nat) : outCfg2 t i = if i = n then c.p 2 else outCfg2 s i := by
    rw [show t = _ from applyOutCfg_of_no_loop h, outCfg2_setOutCfg2]
    rfl
  exact ⟨by rw [hout, if_pos rfl], (hcfg2 n).trans (if_pos rfl), fun i hi => ⟨(hout i).trans (if_neg hi), (hcfg2 i).trans (if_neg hi)⟩⟩

/-- The words are written; what else becomes of the loop leaves them. A disabled loop does not run. -/
theorem blOf_applyBlCfg (c : Commit) (s : State) : let l := blObj (c.p 0); let t := applyBlCfg c s
    (blOf t l).cfg = [c.p 1, c.p 2, c.p 3] ∧ (bit (c.p 1) 31 = false → (blOf t l).t0 = none) ∧ ∀ i, i ≠ l → blOf t i = blOf s i := by
  intro l t
  have hkeep (g : BlSt → BlSt) (hg : ∀ b, (g b).cfg = b.cfg) : let u := onBl l g (onBl l (fun b => { b with cfg := [c.p 1, c.p 2, c.p 3] }) s)
      (blOf u l).cfg = [c.p 1, c.p 2, c.p 3] ∧ ∀ i, i ≠ l → blOf u i = blOf s i :=
    ⟨by simp [blOf_onBl, hg], fun i hi => by simp [blOf_onBl, hi]⟩
  have hset : let u := onBl l (fun b => { b with cfg := [c.p 1, c.p 2, c.p 3] }) s
      (blOf u l).cfg = [c.p 1, c.p 2, c.p 3] ∧ ∀ i, i ≠ l → blOf u i = blOf s i :=
    ⟨by simp [blOf_onBl], fun i hi => by simp [blOf_onBl, hi]⟩
  by_cases hon : blEnable [c.p 1, c.p 2, c.p 3] = true
  · have hrun : bit (c.p 1) 31 = false → (blOf t l).t0 = none := fun h => absurd (hon.symm.trans h) (by decide)
    suffices h : (blOf t l).cfg = [c.p 1, c.p 2, c.p 3] ∧ ∀ i, i ≠ l → blOf t i = blOf s i from ⟨h.1, hrun, h.2⟩
    simp only [t, applyBlCfg, hon, Bool.not_true, Bool.false_eq_true, if_false]
    split
    · exact hset
    · split
      · exact hset
      · exact hkeep _ fun _ => rfl
  · have ht : t = blStop l (onBl l (fun b => { b with cfg := [c.p 1, c.p 2, c.p 3] }) s) := by
      simp only [t, applyBlCfg, hon, Bool.not_false, if_true]
      rfl
    rw [ht, blStop]
    obtain ⟨hcfg, hother⟩ := hkeep (fun b => { b with t0 := none, sign := false, samples := [], window := 0, newBase := none }) fun _ => rfl
    exact ⟨hcfg, fun _ => by simp [blOf_onBl], hother⟩

/-! ### Modes and windows: MODE_SET, PROFILE_RESTORE and WIN_CFG (R394, R396, R421, R452) -/

@[simp] theorem realign_mode (e : Nat) (s : State) : (realign e s).mode = s.mode := by
  unfold realign
  dsimp only
  split
  · rfl
  · rw [note_eq]; rfl

/-- What changes with a mode leaves the mode and its ORIGIN. -/
theorem modeEntered_mode (was : Mode) (s : State) : (modeEntered was s).mode.mode = s.mode.mode ∧ (modeEntered was s).mode.origin = s.mode.origin := by
  have hrealign (l : List Nat) (u : State) : (l.foldl (fun s e => if (otnOf s e).latDraw then realign e s else s) u).mode = u.mode := by
    induction l generalizing u with
    | nil => rfl
    | cons e l ih =>
      rw [List.foldl_cons, ih]
      split <;> simp
  unfold modeEntered
  dsimp only
  split
  · rw [hrealign]; exact ⟨rfl, rfl⟩
  · exact ⟨rfl, rfl⟩

/-- The device enters mode `m`, or ANNEAL with it as ORIGIN. -/
theorem enterMode_mode (m : Mode) (s : State) :
    baseMode (enterMode m s) = m ∧ (enterMode m s).mode.mode = if s.mode.mode = .anneal ∨ annealing s = true then .anneal else m := by
  obtain ⟨hmode, horigin⟩ := modeEntered_mode (baseMode s)
    (s.onMode fun v => if v.mode = .anneal || annealing s then { v with mode := .anneal, origin := m } else { v with mode := m, origin := m })
  unfold baseMode enterMode
  dsimp only
  rw [hmode, horigin]
  simp only [State.onMode_self, Bool.or_eq_true, decide_eq_true_eq]
  split <;> simp

theorem applyProfileRestore_of_ready {b : Bool} {q : Profile} {s : State} (hready : kindleReady s = true) (hq : latestProfile s = some (b, q)) :
    applyProfileRestore s = restoreProfile q s := by
  rw [applyProfileRestore, hready, if_neg (by decide), hq]

/-- A windowed counter with its words written. -/
def winWritten (c : Commit) (w : WinSt) : WinSt :=
  let n := fld (c.p 1) 15 0
  let id := (c.p 2).toNat
  if !bit (c.p 1) 31 then { w with enable := false, window := n, id := id, base := none }
  else if w.enable && w.window = n && w.id = id then w
  else { w with enable := true, window := n, id := id, base := none, valid := false }

theorem winOf_applyWinCfg (c : Commit) (s : State) (i : Nat) :
    winOf (applyWinCfg c s) i = if i = winObj (c.p 0) then winWritten c (winOf s (winObj (c.p 0))) else winOf s i := by
  have happly : applyWinCfg c s = s.onEv fun v => { v with win := tmod {} v.win (winObj (c.p 0)) (winWritten c) } := rfl
  rw [happly]
  exact tget_tmod ..

theorem winWritten_words (c : Commit) (w : WinSt) :
    (winWritten c w).enable = bit (c.p 1) 31 ∧ (winWritten c w).window = fld (c.p 1) 15 0 ∧ (winWritten c w).id = (c.p 2).toNat := by
  unfold winWritten
  dsimp only
  split
  · rename_i hoff
    exact ⟨by simpa using hoff, rfl, rfl⟩
  · rename_i hon
    have hen : bit (c.p 1) 31 = true := by simpa using hon
    split
    · rename_i hsame
      simp only [Bool.and_eq_true, decide_eq_true_eq] at hsame
      obtain ⟨⟨henable, hwindow⟩, hid⟩ := hsame
      exact ⟨henable.trans hen.symm, hwindow, hid⟩
    · exact ⟨hen.symm, rfl, rfl⟩

end Sys2Proof.Machine
end

section
/-! O52: what TX_CFG, TX_PREEMPH and TX_CAL_CFG do at their row 0 (R214, R223, R227, R236). -/

namespace Sys2Proof.Machine

@[simp] theorem txEng_onTxEng (e : Nat) (f : TxSt → TxSt) (s : State) (i : Nat) : txEng (onTxEng e f s) i = if i = e then f (txEng s e) else txEng s i := tget_tmod ..

/-- Superframes that begin anew leave the engines what they are but for their place in the superframe. -/
theorem restartFrames_spec (es : List Nat) (s : State) :
    (restartFrames es s).tx.bond = s.tx.bond ∧ ∀ i, ∃ p, txEng (restartFrames es s) i = { txEng s i with symPos := p } := by
  unfold restartFrames
  induction es generalizing s with
  | nil => exact ⟨rfl, fun i => ⟨_, rfl⟩⟩
  | cons e es ih =>
    obtain ⟨hbond, heng⟩ := ih (onTxEng e (fun x => { x with symPos := 0 }) s)
    refine ⟨hbond, fun i => ?_⟩
    obtain ⟨p, hp⟩ := heng i
    refine ⟨p, hp.trans ?_⟩
    rw [txEng_onTxEng]
    split
    · rename_i hi; rw [hi]
    · rfl

/-- The rate of an engine is judged by BOND, the TX_CFG words and its MAX_RS. -/
theorem txOverRate_congr {s t : State} {e : Nat} (hbond : t.tx.bond = s.tx.bond) (hcfg : ∀ i, (txEng t i).cfg = (txEng s i).cfg)
    (hmax : (txEng t e).maxRs = (txEng s e).maxRs) : txOverRate t e = txOverRate s e := by
  unfold txOverRate txSymbolRate txRule bondedNow
  rw [hbond, hcfg, hmax]

/-- The state that an enable makes of a state, and a disable. -/
def TxState.enabled : TxState → TxState
  | .dark => .laserWait
  | .rampDown => .rampUp
  | x => x

def TxState.disabled : TxState → TxState
  | .laserWait => .dark
  | .rampUp => .rampDown
  | .on => .rampDown
  | x => x

theorem txEng_txEnable (e : Nat) (s : State) :
    (txEng (txEnable e s) e).cfg = (txEng s e).cfg ∧ (txEng (txEnable e s) e).state = (txEng s e).state.enabled := by
  rw [txEnable, txEng_onTxEng, if_pos rfl]
  dsimp only
  cases h : (txEng s e).state <;> simp [TxState.enabled, h]

theorem txEng_txDisable (e : Nat) (s : State) :
    (txEng (txDisable e s) e).cfg = (txEng s e).cfg ∧ (txEng (txDisable e s) e).rateLimit = (txEng s e).rateLimit ∧
      (txEng (txDisable e s) e).state = (txEng s e).state.disabled := by
  rw [txDisable, txEng_onTxEng, if_pos rfl]
  dsimp only
  cases h : (txEng s e).state <;> simp [TxState.disabled, h]

/-- TX_RATE_LIMIT leaves the engine limited and without ENABLE. -/
theorem txEng_txRateLimit (e : Nat) (s : State) : lcEn (txEng (txRateLimit e s) e).cfg = false ∧ (txEng (txRateLimit e s) e).rateLimit = true := by
  unfold txRateLimit
  extract_lets s1 was s2
  have hs2 : txEng s2 e = { txEng s1 e with rateLimit := true, cfg := lowerEnable (txEng s1 e).cfg } := (txEng_onTxEng ..).trans (if_pos rfl)
  have hlimited : lcEn (txEng s2 e).cfg = false ∧ (txEng s2 e).rateLimit = true := by rw [hs2]; exact ⟨lcEn_lowerEnable _, rfl⟩
  split
  · obtain ⟨hcfg, hlimit, -⟩ := txEng_txDisable e s2
    rw [hcfg, hlimit]
    exact hlimited
  · exact hlimited

/-- What TX_CFG makes of its engine: beyond MAX_RS, or retired, it is limited; else it holds the words, and a changed ENABLE starts or ends it. -/
theorem txEng_applyTxCfg (k : Commit) (s : State) : let e := engObj (k.p 0); let w := engParams k 3; let t := applyTxCfg k s
    let beyond := lcEn w && (txOverRate (onTxEng e (fun x => { x with cfg := w }) s) e || (txEng s e).retired)
    (beyond = true → lcEn (txEng t e).cfg = false ∧ (txEng t e).rateLimit = true) ∧
    (beyond = false → (txEng t e).cfg = w ∧ (txEng t e).state =
      if lcEn w = lcEn (txEng s e).cfg then (txEng s e).state else if lcEn w then (txEng s e).state.enabled else (txEng s e).state.disabled) := by
  intro e w t beyond
  let s1 := onTxEng e (fun x => { x with cfg := w }) s
  have hs1 : txEng s1 e = { txEng s e with cfg := w } := (txEng_onTxEng ..).trans (if_pos rfl)
  obtain ⟨u, ht, ⟨p, hu⟩, hover⟩ : ∃ u, t = (if lcEn (txEng u e).cfg && (txOverRate u e || (txEng u e).retired) then
        txRateLimit e (if lcEn (txEng s e).cfg then u else onTxEng e (fun x => { x with cfg := lowerEnable x.cfg }) u)
      else if lcEn (txEng u e).cfg && !lcEn (txEng s e).cfg then txEnable e u else if !lcEn (txEng u e).cfg && lcEn (txEng s e).cfg then txDisable e u else u) ∧
      (∃ p, txEng u e = { txEng s e with cfg := w, symPos := p }) ∧ txOverRate u e = txOverRate s1 e := by
    refine ⟨_, rfl, ?_⟩
    split
    · obtain ⟨hbond, heng⟩ := restartFrames_spec (if bondedNow s1 then List.range 4 else [e]) s1
      obtain ⟨p, hp⟩ := heng e
      refine ⟨⟨p, hp.trans (by rw [hs1])⟩, txOverRate_congr hbond (fun i => ?_) (by rw [hp])⟩
      obtain ⟨q, hq⟩ := heng i
      rw [hq]
    · exact ⟨⟨_, hs1⟩, rfl⟩
  rw [hover, hu] at ht
  change t = if beyond then _ else if _ then _ else if _ then _ else _ at ht
  refine ⟨fun hb => ?_, fun hb => ?_⟩
  · rw [ht, if_pos hb]
    exact txEng_txRateLimit ..
  · rw [ht, if_neg (Bool.eq_false_iff.1 hb)]
    obtain ⟨henCfg, henState⟩ := txEng_txEnable e u
    obtain ⟨hdisCfg, -, hdisState⟩ := txEng_txDisable e u
    cases hw : lcEn w <;> cases hs : lcEn (txEng s e).cfg <;> simp [hu, henCfg, henState, hdisCfg, hdisState]

theorem txEng_applyTxPreemph (k : Commit) (s : State) (i : Nat) :
    txEng (applyTxPreemph k s) i = if i = engObj (k.p 0) then { txEng s (engObj (k.p 0)) with pre := engParams k 16 } else txEng s i := txEng_onTxEng ..

theorem txEng_applyTxCalCfg (k : Commit) (s : State) : let e := engObj (k.p 0); let t := applyTxCalCfg k s; let l := fld (k.p 1) 31 28
    tget 1 (txEng t e).calMode l = fld (k.p 1) 27 26 ∧ tget 0 (txEng t e).calTarget l = signed 16 (fld (k.p 1) 15 0) ∧
    (∀ i, i ≠ l → tget 1 (txEng t e).calMode i = tget 1 (txEng s e).calMode i ∧ tget 0 (txEng t e).calTarget i = tget 0 (txEng s e).calTarget i) ∧
    ∀ i, i ≠ e → txEng t i = txEng s i := by
  intro e t l
  have ht : txEng t e = { txEng s e with
      calMode := tset 1 (txEng s e).calMode l (fld (k.p 1) 27 26), calTarget := tset 0 (txEng s e).calTarget l (signed 16 (fld (k.p 1) 15 0)) } :=
    (txEng_onTxEng ..).trans (if_pos rfl)
  rw [ht]
  exact ⟨by simp, by simp, fun i hi => by simp [hi], fun i hi => (txEng_onTxEng ..).trans (if_neg hi)⟩

end Sys2Proof.Machine
end

section
/-! O52: what RX_CFG and RX_REACQUIRE do at their row 0 (R236, R239, R247, R248). -/

namespace Sys2Proof.Machine

/-! ### Receivers, and what leaves them -/

@[simp] theorem rxEng_onRxEng (e : Nat) (f : RxSt → RxSt) (s : State) (i : Nat) : rxEng (onRxEng e f s) i = if i = e then f (rxEng s e) else rxEng s i := tget_tmod ..

@[simp] theorem note_rx (e : Ev) (inst n : Nat) (s : State) : (note e inst n s).rx = s.rx := by rw [note_eq]
@[simp] theorem noteClear_rx (e : Ev) (inst : Nat) (s : State) : (noteClear e inst s).rx = s.rx := by
  unfold noteClear logEvent
  dsimp only
  (repeat' split) <;> rfl
@[simp] theorem noteChange_rx (e : Ev) (inst : Nat) (was now : Bool) (s : State) : (noteChange e inst was now s).rx = s.rx := by
  unfold noteChange
  (repeat' split) <;> simp
@[simp] theorem onOtnE_rx (e : Nat) (f : OtnSt → OtnSt) (s : State) : (onOtnE e f s).rx = s.rx := rfl
@[simp] theorem otnDefect_rx (e : Nat) (d : LineDefect) (ev : Ev) (now : Bool) (s : State) : (otnDefect e d ev now s).rx = s.rx := by
  unfold otnDefect
  rw [noteChange_rx]
  split <;> simp
@[simp] theorem otnOff_rx (e : Nat) (s : State) : (otnOff e s).rx = s.rx := by
  simp only [otnOff, LineDefect.all, List.foldl, otnDefect_rx, onOtnE_rx]
@[simp] theorem sourceLost_rx (c : Nat) (s : State) : (sourceLost c s).rx = s.rx := by
  unfold sourceLost failRef
  dsimp only
  (repeat' split) <;> simp [State.onClk]

/-- What RX_READ and RX_STATUS show of the words, the state, the acquired value and the rate limit of a receiver. -/
structure RxView where
  cfg : List W32
  state : RxState
  acqCd : Option Int
  rateLimit : Bool

def RxSt.view (x : RxSt) : RxView where
  cfg := x.cfg
  state := x.state
  acqCd := x.acqCd
  rateLimit := x.rateLimit

def rxView (s : State) (e : Nat) : RxView := (rxEng s e).view

@[simp] theorem rxView_cfg (s : State) (e : Nat) : (rxView s e).cfg = (rxEng s e).cfg := rfl

theorem rxView_of_rx {s t : State} (h : t.rx = s.rx) : rxView t = rxView s := by
  funext e
  simp only [rxView, rxEng, h]

theorem rxView_onRxEng (e : Nat) (f : RxSt → RxSt) (s : State) : rxView (onRxEng e f s) = Function.update (rxView s) e (f (rxEng s e)).view := by
  funext i
  simp only [rxView, rxEng_onRxEng, Function.update_apply]
  exact apply_ite RxSt.view ..

/-- An update of a receiver that leaves its view. -/
@[simp] theorem rxView_onRxEng_same (e : Nat) (f : RxSt → RxSt) (s : State)
    (h : ∀ x, (f x).cfg = x.cfg ∧ (f x).state = x.state ∧ (f x).acqCd = x.acqCd ∧ (f x).rateLimit = x.rateLimit) : rxView (onRxEng e f s) = rxView s := by
  obtain ⟨hcfg, hstate, hacq, hlimit⟩ := h (rxEng s e)
  have hview : (f (rxEng s e)).view = rxView s e := by simp only [RxSt.view, hcfg, hstate, hacq, hlimit, rxView]
  rw [rxView_onRxEng, hview]
  exact Function.update_eq_self ..

@[simp] theorem note_rxView (e : Ev) (inst n : Nat) (s : State) : rxView (note e inst n s) = rxView s := rxView_of_rx (note_rx ..)
@[simp] theorem noteClear_rxView (e : Ev) (inst : Nat) (s : State) : rxView (noteClear e inst s) = rxView s := rxView_of_rx (noteClear_rx ..)
@[simp] theorem noteChange_rxView (e : Ev) (inst : Nat) (was now : Bool) (s : State) : rxView (noteChange e inst was now s) = rxView s :=
  rxView_of_rx (noteChange_rx ..)
@[simp] theorem onOtnE_rxView (e : Nat) (f : OtnSt → OtnSt) (s : State) : rxView (onOtnE e f s) = rxView s := rfl
@[simp] theorem otnOff_rxView (e : Nat) (s : State) : rxView (otnOff e s) = rxView s := rxView_of_rx (otnOff_rx ..)
@[simp] theorem sourceLost_rxView (c : Nat) (s : State) : rxView (sourceLost c s) = rxView s := rxView_of_rx (sourceLost_rx ..)

@[simp] theorem rxLosf_rxView (e : Nat) (now : Bool) (s : State) : rxView (rxLosf e now s) = rxView s := by
  unfold rxLosf
  split <;> simp
@[simp] theorem rxLos_rxView (e : Nat) (now : Bool) (s : State) : rxView (rxLos e now s) = rxView s := by simp [rxLos]
@[simp] theorem clearDescMm_rxView (e : Nat) (s : State) : rxView (clearDescMm e s) = rxView s := by
  unfold clearDescMm
  split <;> simp
@[simp] theorem cdLimitClear_rxView (e : Nat) (s : State) : rxView (cdLimitClear e s) = rxView s := by
  unfold cdLimitClear
  split <;> simp

/-! ### States of acquisition -/

@[simp] theorem rxEnter_rxView (st : RxState) (e : Nat) (s : State) :
    rxView (rxEnter st e s) = Function.update (rxView s) e { rxView s e with state := st } := by
  unfold rxEnter
  extract_lets was s1 s2
  have hs1 : rxView s1 = Function.update (rxView s) e { rxView s e with state := st } := rxView_onRxEng ..
  rw [rxLosf_rxView, ← hs1]
  simp only [s2]
  split <;> simp

/-- Discarding ACQ_CD, whatever else changes outside the view. -/
theorem rxView_discardCd (e : Nat) (f : RxSt → RxSt) (s : State) (h : ∀ x, (f x).view = { x.view with acqCd := none }) :
    rxView (onRxEng e f s) = Function.update (rxView s) e { rxView s e with acqCd := none } := by
  rw [rxView_onRxEng, h]
  rfl

@[simp] theorem rxScan_rxView (e : Nat) (s : State) :
    rxView (rxScan e s) = Function.update (rxView s) e { rxView s e with state := .scan, acqCd := none } := by
  rw [rxScan, rxView_discardCd]
  · simp
  · exact fun _ => rfl

/-- HUNT, or SCAN where an expiry that VERIFY held takes effect with CD_MODE 1. -/
theorem rxHunt_rxView (e : Nat) (s : State) : let x := rxEng s e
    rxView (rxHunt e s) = Function.update (rxView s) e (if x.state = .verify ∧ x.huntHeld = true ∧ rcCdMode x.cfg = true then
      { rxView s e with state := .scan, acqCd := none } else { rxView s e with state := .hunt }) := by
  intro x
  unfold rxHunt
  extract_lets was held s1
  have hs1 : rxView s1 = Function.update (rxView s) e { rxView s e with state := .hunt } := by simp [s1]
  have hcfg : (rxEng (note evLinHuntTimeout e 1 s1) e).cfg = x.cfg := by
    have h := congrArg RxView.cfg (congrFun ((note_rxView evLinHuntTimeout e 1 s1).trans hs1) e)
    rwa [Function.update_self] at h
  by_cases hheld : x.state = .verify ∧ x.huntHeld = true
  · rw [if_pos (by simpa [held] using hheld), huntExpire, hcfg]
    cases hmode : rcCdMode x.cfg
    · simp [hs1]
      rfl
    · simp [hheld, hs1]
      rfl
  · rw [if_neg (by simpa [held] using hheld), hs1, if_neg fun h => hheld ⟨h.1, h.2.1⟩]

@[simp] theorem rxOff_rxView (e : Nat) (s : State) : rxView (rxOff e s) = Function.update (rxView s) e { rxView s e with state := .off, acqCd := none } := by
  rw [rxOff, otnOff_rxView, cdLimitClear_rxView, clearDescMm_rxView, rxLos_rxView, rxView_discardCd]
  · simp
  · exact fun _ => rfl

/-- Without light NOSIG, else SCAN or HUNT by CD_MODE. -/
@[simp] theorem rxStart_rxView (e : Nat) (s : State) : rxView (rxStart e s) = Function.update (rxView s) e { rxView s e with
    state := if s.rx.dark.contains e then .nosig else if rcCdMode (rxEng s e).cfg then .scan else .hunt, acqCd := none } := by
  have hcd : rxView (onRxEng e (fun x => { x with acqCd := none }) s) = Function.update (rxView s) e { rxView s e with acqCd := none } :=
    rxView_discardCd _ _ _ fun _ => rfl
  unfold rxStart
  extract_lets s1
  rw [show s1.rx.dark = s.rx.dark from rfl]
  split
  · rw [rxEnter_rxView, rxLos_rxView, hcd, Function.update_self, Function.update_idem]
  · have hu : rxView (rxLos e false s1) = Function.update (rxView s) e { rxView s e with acqCd := none } := (rxLos_rxView ..).trans hcd
    have hue : rxView (rxLos e false s1) e = { rxView s e with acqCd := none } := by rw [hu, Function.update_self]
    have hcfg : (rxEng (rxLos e false s1) e).cfg = (rxEng s e).cfg := congrArg RxView.cfg hue
    have hacq : (rxEng (rxLos e false s1) e).acqCd = none := congrArg RxView.acqCd hue
    unfold rxLeaveNosig
    dsimp only
    rw [hcfg, hacq]
    cases hmode : rcCdMode (rxEng s e).cfg
    · rw [if_pos (by rfl), rxHunt_rxView, if_neg (by simp [hcfg, hmode]), hue, hu, Function.update_idem]
      rfl
    · rw [if_neg (by decide), rxScan_rxView, hue, hu, Function.update_idem]
      rfl

/-! ### RX_CFG -/

/-- RX_RATE_LIMIT leaves the receiver limited and without ENABLE. -/
theorem rxEng_rxRateLimit (e : Nat) (s : State) : lcEn (rxView (rxRateLimit e s) e).cfg = false ∧ (rxView (rxRateLimit e s) e).rateLimit = true := by
  unfold rxRateLimit
  extract_lets s1 was s2
  have hs2 : rxView s2 = Function.update (rxView s1) e { rxView s1 e with rateLimit := true, cfg := lowerEnable (rxView s1 e).cfg } := rxView_onRxEng ..
  have hlow : lcEn (lowerEnable (rxView s1 e).cfg) = false := lcEn_lowerEnable _
  split
  · rw [rxOff_rxView, hs2, Function.update_self, Function.update_self]
    exact ⟨hlow, rfl⟩
  · rw [hs2, Function.update_self]
    exact ⟨hlow, rfl⟩

/-- A restart leaves the words of its receiver, and the other receivers. -/
theorem rxRestart_rxView (e : Nat) (s : State) :
    (rxView (rxRestart e s) e).cfg = (rxView s e).cfg ∧ ∀ i, i ≠ e → rxView (rxRestart e s) i = rxView s i := by
  rw [rxRestart, rxStart_rxView, rxEnter_rxView, note_rxView]
  exact ⟨by simp, fun i hi => by simp [hi]⟩

theorem rxRestart_foldl_rxView {l : List Nat} {e : Nat} (hl : ∀ i ∈ l, i ≠ e) (s : State) : rxView (l.foldl (fun s i => rxRestart i s) s) e = rxView s e := by
  induction l generalizing s with
  | nil => rfl
  | cons i l ih =>
    obtain ⟨hi, hrest⟩ := List.forall_mem_cons.1 hl
    rw [List.foldl_cons, ih hrest, (rxRestart_rxView i s).2 e hi.symm]

/-- The rate of a receiver is judged by BOND, the RX_CFG words and its MAX_RS. -/
theorem rxOverRate_congr {s t : State} {e : Nat} (hbond : t.tx.bond = s.tx.bond) (hcfg : ∀ i, (rxEng t i).cfg = (rxEng s i).cfg)
    (hmax : (rxEng t e).maxRs = (rxEng s e).maxRs) : rxOverRate t e = rxOverRate s e := by
  unfold rxOverRate rxSymbolRate rxRule ruling bondedNow
  rw [hbond, hcfg, hmax]

/-- The receiver with the words written. A fixed dispersion that is new applies at once, but in SCAN. -/
def rxWritten (w : List W32) (refix : Bool) (x : RxSt) : RxSt :=
  { x with cfg := w, cd := if refix && decide (x.state ≠ .scan) then rcCdSet w else x.cd }

/-- What the words make of their receiver, whose ENABLE was `was` and whose rate has changed or not. -/
def rxConfigured (e : Nat) (was changed : Bool) (u : State) : State :=
  if lcEn (rxEng u e).cfg && (rxOverRate u e || (rxEng u e).retired) then
    rxRateLimit e (if was then u else onRxEng e (fun x => { x with cfg := lowerEnable x.cfg }) u)
  else if lcEn (rxEng u e).cfg && !was then rxStart e u
  else if lcEn (rxEng u e).cfg && changed then rxRestart e u
  else if !lcEn (rxEng u e).cfg && was then rxOff e u
  else u

/-- RX_CFG writes the words and configures its receiver; the others restart at most. -/
theorem applyRxCfg_spec (k : Commit) (s : State) : ∃ refix changed, let e := engObj (k.p 0)
    rxView (applyRxCfg k s) e = rxView (rxConfigured e (lcEn (rxEng s e).cfg) changed (onRxEng e (rxWritten (engParams k 5) refix) s)) e := by
  refine ⟨!rcCdMode (engParams k 5) && (rcCdMode (rxEng s (engObj (k.p 0))).cfg || decide (rcCdSet (rxEng s (engObj (k.p 0))).cfg ≠ rcCdSet (engParams k 5))),
    decide (lcRate (rxEng s (engObj (k.p 0))).cfg ≠ lcRate (engParams k 5)) && ruling s (engObj (k.p 0)) = engObj (k.p 0), ?_⟩
  unfold applyRxCfg
  extract_lets e was changed refix u en tooFast v
  change rxView (if changed && bondedNow v then _ else v) e = rxView v e
  split
  · refine rxRestart_foldl_rxView (fun i hi => ?_) v
    have hne := (List.mem_filter.1 hi).2
    simp only [Bool.and_eq_true, decide_eq_true_eq] at hne
    exact hne.1
  · rfl

theorem rxConfigured_of_beyond {e : Nat} {u : State} (was changed : Bool) (h : (lcEn (rxEng u e).cfg && (rxOverRate u e || (rxEng u e).retired)) = true) :
    lcEn (rxView (rxConfigured e was changed u) e).cfg = false ∧ (rxView (rxConfigured e was changed u) e).rateLimit = true := by
  rw [rxConfigured, if_pos h]
  exact rxEng_rxRateLimit ..

theorem rxConfigured_of_within {e : Nat} {u : State} (was changed : Bool) (h : (lcEn (rxEng u e).cfg && (rxOverRate u e || (rxEng u e).retired)) = false) :
    let v := rxView (rxConfigured e was changed u) e
    v.cfg = (rxEng u e).cfg ∧ (lcEn (rxEng u e).cfg = false → was = true → v.state = .off) ∧
    (lcEn (rxEng u e).cfg = true → was = false → v.state = if u.rx.dark.contains e then .nosig else if rcCdMode (rxEng u e).cfg then .scan else .hunt) := by
  intro v
  have hv : v = rxView (rxConfigured e was changed u) e := rfl
  rw [rxConfigured, h, if_neg Bool.false_ne_true] at hv
  cases hen : lcEn (rxEng u e).cfg <;> cases was
  case false.false => simp [hv, hen]
  case false.true => simp [hv, hen]
  case true.false => simp [hv, hen]
  case true.true =>
    cases changed
    · simp [hv, hen]
    · exact ⟨by simpa [hv, hen] using (rxRestart_rxView e u).1, by simp, by simp⟩

/-- What RX_CFG makes of its receiver: beyond MAX_RS, or retired, it is limited; else it holds the words, and a changed ENABLE ends or starts it. -/
theorem rxView_applyRxCfg (k : Commit) (s : State) : let e := engObj (k.p 0); let w := engParams k 5; let t := applyRxCfg k s
    let beyond := lcEn w && (rxOverRate (onRxEng e (fun x => { x with cfg := w }) s) e || (rxEng s e).retired)
    (beyond = true → lcEn (rxView t e).cfg = false ∧ (rxView t e).rateLimit = true) ∧
    (beyond = false → (rxView t e).cfg = w ∧ (lcEn w = false → lcEn (rxEng s e).cfg = true → (rxView t e).state = .off) ∧
      (lcEn w = true → lcEn (rxEng s e).cfg = false → (rxView t e).state = if s.rx.dark.contains e then .nosig else if rcCdMode w then .scan else .hunt)) := by
  intro e w t beyond
  obtain ⟨refix, changed, ht⟩ := applyRxCfg_spec k s
  let u := onRxEng e (rxWritten w refix) s
  have hu : rxEng u e = rxWritten w refix (rxEng s e) := (rxEng_onRxEng ..).trans (if_pos rfl)
  have hcfg : (rxEng u e).cfg = w := by rw [hu]; rfl
  have hover : rxOverRate u e = rxOverRate (onRxEng e (fun x => { x with cfg := w }) s) e := by
    refine rxOverRate_congr rfl (fun i => ?_) ?_
    · rw [rxEng_onRxEng, rxEng_onRxEng]
      split <;> rfl
    · rw [hu, rxEng_onRxEng, if_pos rfl]
      rfl
  have hbeyond : (lcEn (rxEng u e).cfg && (rxOverRate u e || (rxEng u e).retired)) = beyond := by rw [hcfg, hover, hu]; rfl
  rw [show rxView t e = _ from ht]
  refine ⟨fun h => rxConfigured_of_beyond _ _ (hbeyond.trans h), fun h => ?_⟩
  have hwithin := rxConfigured_of_within (lcEn (rxEng s e).cfg) changed (hbeyond.trans h)
  rwa [hcfg] at hwithin

/-! ### RX_REACQUIRE -/

theorem applyRxReacquire_spec (k : Commit) (s : State) : let e := engObj (k.p 0); let t := applyRxReacquire k s
    ((rxEng s e).state = .off → t = s) ∧ ((rxEng s e).state = .nosig → (rxView t e).state = .nosig) ∧
    ((rxEng s e).state ≠ .off → (rxEng s e).state ≠ .nosig → bit (k.p 1) 0 = true → (rxView t e).state = .scan ∧ (rxView t e).acqCd = none) ∧
    ((rxEng s e).state ≠ .off → (rxEng s e).state ≠ .nosig → bit (k.p 1) 0 = false → (rxEng s e).huntHeld = false → (rxView t e).state = .hunt) := by
  intro e t
  have ht : t = applyRxReacquire k s := rfl
  unfold applyRxReacquire at ht
  dsimp only at ht
  refine ⟨fun hoff => ?_, fun hnosig => ?_, fun hoff hnosig hforce => ?_, fun hoff hnosig hforce hheld => ?_⟩
  · rw [ht, if_pos hoff]
  · rw [ht, if_neg (by rw [hnosig]; decide), if_pos hnosig]
    split
    · rw [rxView_discardCd _ _ _ fun _ => rfl, Function.update_self]
      exact hnosig
    · exact hnosig
  · rw [ht, if_neg hoff, if_neg hnosig, if_pos hforce, rxScan_rxView, Function.update_self]
    exact ⟨rfl, rfl⟩
  · have hkeep : ¬((rxEng s e).state = .verify ∧ (rxEng s e).huntHeld = true ∧ rcCdMode (rxEng s e).cfg = true) := by simp [hheld]
    rw [ht, if_neg hoff, if_neg hnosig, hforce, if_neg Bool.false_ne_true, rxHunt_rxView, Function.update_self, if_neg hkeep]

end Sys2Proof.Machine
end

section
/-! O52: each write of the other opcodes is the operation that `commitOps` gives for its opcode. -/

namespace Sys2Proof.Machine

/-- The state after TX_CFG: kept with the ENABLE that was; an enable starts the engine and a disable ends it. -/
theorem state_applyTxCfg {k : Commit} {s : State} (h : let e := engObj (k.p 0); let w := engParams k 3
    (lcEn w && (txOverRate (onTxEng e (fun x => { x with cfg := w }) s) e || (txEng s e).retired)) = false) :
    let e := engObj (k.p 0); let w := engParams k 3; let t := applyTxCfg k s
    (lcEn w = lcEn (txEng s e).cfg → (txEng t e).state = (txEng s e).state) ∧
    (lcEn w = true → lcEn (txEng s e).cfg = false → (txEng t e).state = (txEng s e).state.enabled) ∧
    (lcEn w = false → lcEn (txEng s e).cfg = true → (txEng t e).state = (txEng s e).state.disabled) := by
  intro e w t
  obtain ⟨-, hstate⟩ := (txEng_applyTxCfg k s).2 h
  refine ⟨fun hkeep => hstate.trans (if_pos hkeep), fun hen hwas => ?_, fun hdis hwas => ?_⟩
  · simpa [w, e, hen, hwas] using hstate
  · simpa [w, e, hdis, hwas] using hstate

theorem applyProfileRestore_spec (s : State) : (kindleReady s = false → applyProfileRestore s = s) ∧
    (∀ b q, kindleReady s = true → latestProfile s = some (b, q) →
      applyProfileRestore s = restoreProfile q s ∧ (applyProfileRestore s).store.restored = true ∧ (applyProfileRestore s).boot.stage = .ready) := by
  refine ⟨fun h => by rw [applyProfileRestore, h]; rfl, fun b q hready hq => ?_⟩
  have hrestore := applyProfileRestore_of_ready hready hq
  rw [hrestore]
  exact ⟨rfl, rfl, rfl⟩

theorem applyModeSet_spec (c : Commit) (s : State) : let m := modeOfCode (fld (c.p 0) 3 0)
    (inQuench s = true → applyModeSet c s = s) ∧
    (inQuench s = false → baseMode (applyModeSet c s) = m ∧ (applyModeSet c s).mode.mode = if s.mode.mode = .anneal ∨ annealing s = true then .anneal else m) := by
  refine ⟨fun h => if_pos h, fun h => ?_⟩
  rw [applyModeSet, h, if_neg Bool.false_ne_true]
  exact enterMode_mode _ s

/-- STROKE_JOIN does nothing but make the stroke step. -/
theorem applyCommit_strokeJoin {c : Commit} (h : c.opcode = opStrokeJoin.code) (s : State) : applyCommit c s = s := by
  rw [applyCommit, if_neg (by rw [h]; decide), applyOp, h]
  rfl

theorem nextStep_of_join {s : State} {a : W48 × Int} (hdue : joinDue s = true) (hjoin : joinStep s = some a) : nextStep s = some (a.1, a.2, true) := by
  simp [nextStep, hdue, hjoin]

/-- Settles O52: each of these writes is the operation that `commitOps` gives for its opcode, whose effect on its unit is stated above; PROFILE_RESTORE and
STROKE_JOIN stand apart. -/
theorem actionsTakeEffectAtTheirRow0 : Obligations.ActionsTakeEffectAtTheirRow0 := by
  have happly {o : OpInfo} (f : Commit → State → State) (h : (o.code, f) ∈ commitOps) {c : Commit} (hc : c.opcode = o.code) (s : State) :
      applyCommit c s = f c s := applyCommit_of_mem h hc s
  refine ⟨fun c s => ?early, fun c s => ?lines, fun c s => ?late, fun a s => nextStep_of_join⟩
  case early =>
    refine ⟨fun h => ?refForce, fun h => ?baCfg, fun h => ?errInject, fun h => ?pgCmd, fun h => ?alnRealign⟩
    case refForce => rw [happly applyRefForce (by simp [commitOps]) h]; rfl
    case baCfg => rw [happly applyBaCfg (by simp [commitOps]) h]; exact baOf_applyBaCfg c s
    case errInject =>
      rw [happly applyErrInject (by simp [commitOps]) h]
      refine ⟨fun hkind hsrc => ?_, applyErrInject_of_no_source, fun hkind => congrArg (·.rows.inject) (applyErrInject_of_position hkind)⟩
      rw [applyErrInject_of_source hkind hsrc]
      exact ⟨by simp, fun i hi => by simp [hi]⟩
    case pgCmd =>
      rw [happly applyPgCmd (by simp [commitOps]) h]
      refine ⟨applyPgCmd_of_off, fun hon hv => ?_, fun herr hv => ?_, fun i => groupOf_applyPgCmd_other c s⟩
      · simp [applyPgCmd_of_command hon hv]
      · simp [applyPgCmd_of_selector herr hv]
    case alnRealign =>
      rw [happly applyAlnRealign (by simp [commitOps]) h]
      exact fun n => groupOf_applyAlnRealign
  case lines =>
    refine ⟨fun h => ?txCfg, fun h => ?txPreemph, fun h => ?txCalCfg, fun h => ?rxCfg, fun h => ?rxReacquire, fun h => ?lineOhCfg, fun h => ?lineTtiWrite,
      fun h => ?lineRealign⟩
    case txCfg =>
      rw [happly applyTxCfg (by simp [commitOps]) h]
      obtain ⟨hbeyond, hwithin⟩ := txEng_applyTxCfg c s
      refine ⟨hbeyond, fun hin => ⟨(hwithin hin).1, ?_⟩⟩
      obtain ⟨hkeep, hen, hdis⟩ := state_applyTxCfg hin
      refine ⟨hkeep, fun h1 h0 => ⟨fun hx => ?_, fun hx => ?_⟩, fun h0 h1 => ⟨fun hx => ?_, fun hx => ?_⟩⟩
      · rw [hen h1 h0, hx]; rfl
      · rw [hen h1 h0, hx]; rfl
      · rw [hdis h0 h1, hx]; rfl
      · rw [hdis h0 h1]
        obtain hx | hx := hx <;> rw [hx] <;> rfl
    case txPreemph =>
      rw [happly applyTxPreemph (by simp [commitOps]) h]
      exact ⟨by simp [txEng_applyTxPreemph], fun i hi => (txEng_applyTxPreemph ..).trans (if_neg hi)⟩
    case txCalCfg => rw [happly applyTxCalCfg (by simp [commitOps]) h]; exact txEng_applyTxCalCfg c s
    case rxCfg => rw [happly applyRxCfg (by simp [commitOps]) h]; exact rxView_applyRxCfg c s
    case rxReacquire => rw [happly applyRxReacquire (by simp [commitOps]) h]; exact applyRxReacquire_spec c s
    case lineOhCfg =>
      rw [happly applyLineOhCfg (by simp [commitOps]) h]
      exact ⟨by simp [applyLineOhCfg], fun i hi => by simp [applyLineOhCfg, hi]⟩
    case lineTtiWrite =>
      rw [happly applyLineTtiWrite (by simp [commitOps]) h, applyLineTtiWrite_eq]
      simp only [otnOf_onOtnE, if_true]
      exact ⟨ttiWords_ttiWritten c _, ttiWritten_other c _, fun i hi => if_neg hi⟩
    case lineRealign =>
      rw [happly applyLineRealign (by simp [commitOps]) h]
      exact ⟨realign_of_unfixed, fun old => realign_of_fixed⟩
  case late =>
    refine ⟨fun h => ?laneCfg, fun h => ?keySwitch, fun h => ?secClearLoss, fun h => ?hkCfg, fun h => ?hkTrigger, fun h => ?outCfg, fun h => ?blCfg,
      fun h => ?modeSet, fun h => ?profileRestore, fun h => ?pmSnap, fun h => ?winCfg, fun h => applyCommit_strokeJoin h s⟩
    case laneCfg =>
      rw [happly applyLaneCfg (by simp [commitOps]) h, applyLaneCfg_eq]
      intro n hn htest
      have hlane : laneOf (onLane n (laneWritten c) s) n = laneWritten c (laneOf s n) := (laneOf_onLane hn _ s hn).trans (if_pos rfl)
      rw [hlane]
      exact ⟨laneWritten_cfg1 c htest, laneWritten_cfg2 c _, laneWritten_taps htest, fun i hi hrange => (laneOf_onLane hn _ s hrange).trans (if_neg hi)⟩
    case keySwitch => rw [happly applyKeySwitch (by simp [commitOps]) h]; exact ctxOf_applyKeySwitch c s
    case secClearLoss => rw [happly applySecClearLoss (by simp [commitOps]) h]; exact ctxOf_clearLoss _ s
    case hkCfg => rw [happly applyHkCfg (by simp [commitOps]) h]; exact hkOf_applyHkCfg_cfg c s
    case hkTrigger => rw [happly applyHkTrigger (by simp [commitOps]) h]; exact hkOf_applyHkTrigger_trig c s
    case outCfg => rw [happly applyOutCfg (by simp [commitOps]) h]; exact outOf_applyOutCfg
    case blCfg => rw [happly applyBlCfg (by simp [commitOps]) h]; exact blOf_applyBlCfg c s
    case modeSet => rw [happly applyModeSet (by simp [commitOps]) h]; exact applyModeSet_spec c s
    case profileRestore => rw [applyCommit, if_pos h]; exact applyProfileRestore_spec s
    case pmSnap => exact happly (fun _ s => s.onPm fun v => { v with snapAsked := true }) (by simp [commitOps]) h s
    case winCfg =>
      rw [happly applyWinCfg (by simp [commitOps]) h]
      intro k
      have hwin : winOf (applyWinCfg c s) k = winWritten c (winOf s k) := (winOf_applyWinCfg c s k).trans (if_pos rfl)
      obtain ⟨hen, hwindow, hid⟩ := winWritten_words c (winOf s k)
      rw [hwin]
      exact ⟨hen, hwindow, hid, fun i hi => (winOf_applyWinCfg c s i).trans (if_neg hi)⟩

end Sys2Proof.Machine
end

section
/-! O50: what MAP_WRITE, the swap at row 0 and MAP_SYNC make of the two banks of the connection map. -/

namespace Sys2Proof.Machine

/-! ### The Anvil through the shared operations -/

@[simp] theorem anvil_ite (c : Prop) [Decidable c] (a b : State) : (if c then a else b).anvil = if c then a.anvil else b.anvil := apply_ite State.anvil c a b

theorem anvil_foldl {α : Type} {g : State → α → State} (h : ∀ s a, (g s a).anvil = s.anvil) (l : List α) (s : State) : (l.foldl g s).anvil = s.anvil := by
  induction l generalizing s with
  | nil => rfl
  | cons a l ih => exact (ih _).trans (h s a)

@[simp] theorem note_anvil (e : Ev) (inst n : Nat) (s : State) : (note e inst n s).anvil = s.anvil := by rw [note_eq]
@[simp] theorem noteClear_anvil (e : Ev) (inst : Nat) (s : State) : (noteClear e inst s).anvil = s.anvil := by simp [noteClear, logEvent]
@[simp] theorem noteChange_anvil (e : Ev) (inst : Nat) (was now : Bool) (s : State) : (noteChange e inst was now s).anvil = s.anvil := by simp [noteChange]
@[simp] theorem rqPush_anvil (q : Nat) (p : List W32) (s : State) : (rqPush q p s).anvil = s.anvil := by rw [rqPush_eq]
@[simp] theorem reply_anvil (opcode : Nat) (rq : Req) (key : Option (BitVec 256)) (r : Rej) (res : List W32) (s : State) :
    (reply opcode rq key r res s).anvil = s.anvil := by rw [reply_eq]
@[simp] theorem unaccept_anvil (rq : Req) (s : State) : (unaccept rq s).anvil = s.anvil := by unfold unaccept; split <;> rfl
@[simp] theorem replyDeferred_anvil (d : Deferred) (r : Rej) (res : List W32) (s : State) : (replyDeferred d r res s).anvil = s.anvil := by
  simp [replyDeferred, freeCq]
@[simp] theorem cleanWords_anvil (t i n : Nat) (s : State) : (cleanWords t i n s).anvil = s.anvil := by simp [cleanWords]

/-! ### The two banks (R111, R112) -/

/-- Which bank is the active one swaps the roles of the two and not their form. -/
theorem mapsCanonical_iff (s : State) : MapsCanonical s ↔ twf 0#32 (activeBank s) = true ∧ twf 0#32 (shadowBank s) = true := by
  unfold MapsCanonical activeBank shadowBank
  cases s.anvil.activeB
  · exact .rfl
  · exact and_comm

/-- A write of shadow entries, by the bank that is active. -/
theorem writeShadow_anvil (k : Nat) (ws : List W32) (s : State) : (writeShadow k ws s).anvil =
    if s.anvil.activeB then { s.anvil with bankA := tsetMany 0#32 s.anvil.bankA k ws, goldA := tsetMany 0#32 s.anvil.goldA k ws }
    else { s.anvil with bankB := tsetMany 0#32 s.anvil.bankB k ws, goldB := tsetMany 0#32 s.anvil.goldB k ws } := by
  simp [writeShadow]

theorem activeBank_writeShadow (k : Nat) (ws : List W32) (s : State) : activeBank (writeShadow k ws s) = activeBank s := by
  unfold activeBank
  rw [writeShadow_anvil]
  cases h : s.anvil.activeB <;> simp [h]

theorem shadowBank_writeShadow (k : Nat) (ws : List W32) (s : State) : shadowBank (writeShadow k ws s) = tsetMany 0#32 (shadowBank s) k ws := by
  unfold shadowBank
  rw [writeShadow_anvil]
  cases h : s.anvil.activeB <;> simp [h]

theorem mapsCanonical_writeShadow (k : Nat) (ws : List W32) {s : State} (h : MapsCanonical s) : MapsCanonical (writeShadow k ws s) := by
  rw [mapsCanonical_iff] at h ⊢
  rw [activeBank_writeShadow, shadowBank_writeShadow]
  exact ⟨h.1, tsetMany_wf k ws h.2⟩

/-! ### The swap (R113) and MAP_SYNC (R115) -/

/-- The swap, whether or not the shed limit ends with it. -/
theorem applyMapCommit_anvil (s : State) : (applyMapCommit s).anvil =
    { s.anvil with activeB := !s.anvil.activeB, shadow := .stale, shedLimit := (applyMapCommit s).anvil.shedLimit } := by
  unfold applyMapCommit
  dsimp only
  split <;> rfl

theorem applyMapCommit_swaps (s : State) : activeBank (applyMapCommit s) = shadowBank s ∧ shadowBank (applyMapCommit s) = activeBank s := by
  unfold activeBank shadowBank
  rw [applyMapCommit_anvil]
  cases s.anvil.activeB <;> simp

/-- MAP_SYNC_DONE of a running MAP_SYNC whose words read back as written. -/
theorem execMapSyncDone_anvil {d : Deferred} {s t : State} (hsync : s.anvil.sync = some d) (hback : backDiffers (shadowTable s) 0 524288 s = false)
    (h : exec .mapSyncDone s = .next t) : t.anvil =
      if s.anvil.activeB then { s.anvil with bankA := s.anvil.bankB, goldA := s.anvil.bankB, shadow := .synced, sync := none }
      else { s.anvil with bankB := s.anvil.bankA, goldB := s.anvil.bankA, shadow := .synced, sync := none } := by
  rw [exec, execMapSyncDone, hsync, hback] at h
  obtain rfl := Host.Outcome.next.inj h
  simp

/-- Settles O50: a write of shadow entries is a table write of the shadow bank, the swap exchanges which bank is which, and MAP_SYNC_DONE makes the
shadow the active bank; that the banks stay canonical follows from what each becomes. -/
theorem mapWriteAndSwap : Obligations.MapWriteAndSwap := by
  refine ⟨fun k d ws s => ?write, fun c s hc => ?swap, fun d s t hsync hback h => ?sync⟩
  case write =>
    refine ⟨?_, activeBank_writeShadow k ws s, mapsCanonical_writeShadow k ws⟩
    rw [shadowBank_writeShadow, tget_tsetMany]
  case swap =>
    rw [applyCommit_of_mem (f := fun _ s => applyMapCommit s) (by simp [commitOps]) hc]
    obtain ⟨hactive, hshadow⟩ := applyMapCommit_swaps s
    refine ⟨hactive, hshadow, by rw [applyMapCommit_anvil], fun hwf => ?_⟩
    rw [mapsCanonical_iff, hactive, hshadow]
    exact ((mapsCanonical_iff s).1 hwf).symm
  case sync =>
    have ht := execMapSyncDone_anvil hsync hback h
    have hbanks : activeBank t = activeBank s ∧ shadowBank t = activeBank s ∧ t.anvil.shadow = .synced ∧ t.anvil.sync = none := by
      unfold activeBank shadowBank
      rw [ht]
      cases hb : s.anvil.activeB <;> simp [hb]
    obtain ⟨hactive, hshadow, hsynced, hended⟩ := hbanks
    refine ⟨hshadow, hactive, hsynced, hended, fun hwf => ?_⟩
    rw [mapsCanonical_iff, hactive, hshadow]
    exact ⟨((mapsCanonical_iff s).1 hwf).1, ((mapsCanonical_iff s).1 hwf).1⟩

end Sys2Proof.Machine
end

section
/-! O17: MAP_WRITE writes the shadow bank only, and no command writes the active bank. -/

namespace Sys2Proof.Machine

/-! ### A command and the Anvil -/

/-- Which bank is active, and its entries. -/
def AnvilSt.active (v : AnvilSt) : Bool × List (Nat × W32) := (v.activeB, if v.activeB then v.bankB else v.bankA)

/-- An answer whose state, if it brings one, has an Anvil with `p`. -/
def Answer.Anvil (p : AnvilSt → Prop) : Answer → Prop
  | .done s _ | .slagged s _ _ | .fail s _ | .wait s => p s.anvil
  | .rej _ => True

@[simp] theorem Answer.anvil_done (p : AnvilSt → Prop) (s : State) (res : List W32) : (Answer.done s res).Anvil p ↔ p s.anvil := .rfl
@[simp] theorem Answer.anvil_slagged (p : AnvilSt → Prop) (s : State) (res : List W32) (i : Nat) : (Answer.slagged s res i).Anvil p ↔ p s.anvil := .rfl
@[simp] theorem Answer.anvil_fail (p : AnvilSt → Prop) (s : State) (r : Rej) : (Answer.fail s r).Anvil p ↔ p s.anvil := .rfl
@[simp] theorem Answer.anvil_wait (p : AnvilSt → Prop) (s : State) : (Answer.wait s).Anvil p ↔ p s.anvil := .rfl
@[simp] theorem Answer.anvil_rej (p : AnvilSt → Prop) (r : Rej) : (Answer.rej r).Anvil p ↔ True := .rfl
@[simp] theorem internalAnswer_anvil (p : AnvilSt → Prop) (o : OpInfo) (s : State) : (internalAnswer o s).Anvil p ↔ p s.anvil := .rfl

theorem answer_anvil {p : AnvilSt → Prop} (o : OpInfo) (rq : Req) {s : State} {a : Answer} (hs : p s.anvil) (ha : a.Anvil p) : p (answer o rq s a).anvil := by
  cases a with
  | rej r => simpa [answer] using hs
  | _ => simpa [answer, holdCq] using ha

/-- A refusal and a fault of the command leave the Anvil; else its effect says what becomes of it. -/
theorem command_anvil {p : AnvilSt → Prop} {o : OpInfo} {rq : Req} {k : Checks} {s : State} {eff : State → Answer} (hs : p s.anvil)
    (heff : refusal o rq k s = none → (eff (accepted rq s)).Anvil p) : p (command o rq k s eff).anvil := by
  unfold command
  split
  · exact hs
  split
  · simpa using hs
  split
  · exact answer_anvil o rq hs hs
  · exact answer_anvil o rq hs (heff ‹_›)

/-- A refusal and a fault of the command leave the active bank; else its effect says what becomes of it. -/
theorem command_active {o : OpInfo} {rq : Req} {k : Checks} {s : State} {eff : State → Answer}
    (heff : (eff (accepted rq s)).Anvil fun v => v.active = s.anvil.active) : (command o rq k s eff).anvil.active = s.anvil.active :=
  command_anvil (p := fun v => v.active = s.anvil.active) rfl fun _ => heff

/-- The command leaves which bank is active and the entries of that bank. -/
def KeepsActive (c : Req → Instr) : Prop := ∀ (rq : Req) (s t : State), exec (c rq) s = .next t → t.anvil.active = s.anvil.active

/-- A command that is the operation `f`, which leaves the active bank. -/
theorem keepsActive_of_do {c : Req → Instr} {f : Req → State → State} (hexec : ∀ rq s, exec (c rq) s = .next (f rq s))
    (hf : ∀ rq s, (f rq s).anvil.active = s.anvil.active) : KeepsActive c := fun rq s t ht => by
  obtain rfl := Host.Outcome.next.inj ((hexec rq s).symm.trans ht)
  exact hf rq s

/-- The checks of a command, and an effect that leaves the active bank. -/
theorem keepsActive_of_effect {c : Req → Instr} (h : ∀ (rq : Req) (s : State), ∃ (o : OpInfo) (k : Checks) (eff : State → Answer),
    exec (c rq) s = .next (command o rq k s eff) ∧ (eff (accepted rq s)).Anvil fun v => v.active = s.anvil.active) : KeepsActive c := fun rq s t ht => by
  obtain ⟨o, k, eff, hexec, heff⟩ := h rq s
  obtain rfl := Host.Outcome.next.inj (hexec.symm.trans ht)
  exact command_active heff

/-! ### The Anvil through the operations of other units -/

@[simp] theorem askRestore_anvil (t i : Nat) (s : State) : (askRestore t i s).anvil = s.anvil := by simp [askRestore]
@[simp] theorem tableSlag_anvil (t i : Nat) (s : State) : (tableSlag t i s).anvil = s.anvil := by simp [tableSlag]

@[simp] theorem noteReads_anvil (t i : Nat) (l : List WordRead) (s : State) : (noteReads t i l s).anvil = s.anvil := by
  induction l generalizing i s with
  | nil => rfl
  | cons r l ih => simp [noteReads, ih]

@[simp] theorem readAnswer_anvil (p : AnvilSt → Prop) (t i : Nat) (ws pre : List W32) (s : State) : (readAnswer t i ws pre s).Anvil p ↔ p s.anvil := by
  unfold readAnswer
  dsimp only
  split <;> simp

@[simp] theorem setCycle_anvil (q : Nat) (c : Option InCycle) (s : State) : (setCycle q c s).anvil = s.anvil := by simp [setCycle]
@[simp] theorem rqRefill_anvil (s : State) : (rqRefill s).anvil = s.anvil := by
  unfold rqRefill
  rw [anvil_foldl fun _ _ => rqPush_anvil ..]
  rfl
@[simp] theorem flushQueue_anvil (q : Nat) (s : State) : (flushQueue q s).anvil = s.anvil := by simp [flushQueue]

@[simp] theorem flushMask_anvil (l : List Nat) (s : State) : (flushMask l s).anvil = s.anvil := by
  induction l generalizing s with
  | nil => rfl
  | cons q l ih => simp [flushMask, ih]

@[simp] theorem zeroCounters_anvil (l : List W32) (s : State) : (zeroCounters l s).anvil = s.anvil := by
  induction l generalizing s with
  | nil => rfl
  | cons w l ih => simp [zeroCounters, zeroCounter, ih]

@[simp] theorem onI2c_anvil (m : Nat) (f : I2cSt → I2cSt) (s : State) : (onI2c m f s).anvil = s.anvil := rfl
@[simp] theorem onSigner_anvil (k : Nat) (f : SignerSlot → SignerSlot) (s : State) : (onSigner k f s).anvil = s.anvil := rfl
@[simp] theorem onGroup_anvil (g : Nat) (f : GroupSt → GroupSt) (s : State) : (onGroup g f s).anvil = s.anvil := rfl
@[simp] theorem drawn_anvil (s : State) : (drawn s).anvil = s.anvil := rfl
@[simp] theorem addCommit_anvil (o : OpInfo) (rq : Req) (s : State) : (addCommit o rq s).anvil = s.anvil := rfl
@[simp] theorem commitOnly_anvil (p : AnvilSt → Prop) (o : OpInfo) (rq : Req) (s : State) : (commitOnly o rq s).Anvil p ↔ p s.anvil := .rfl
@[simp] theorem restartAlignment_anvil (s : State) : (restartAlignment s).anvil = s.anvil := rfl
@[simp] theorem onTxEng_anvil (e : Nat) (f : TxSt → TxSt) (s : State) : (onTxEng e f s).anvil = s.anvil := by simp [onTxEng]
@[simp] theorem onRxEng_anvil (e : Nat) (f : RxSt → RxSt) (s : State) : (onRxEng e f s).anvil = s.anvil := by simp [onRxEng]
@[simp] theorem bootFail_anvil (code : Nat) (s : State) : (bootFail code s).anvil = s.anvil := by simp [bootFail]
@[simp] theorem famRelease_anvil (s : State) : (famRelease s).anvil = s.anvil := anvil_foldl (fun s e => onTxEng_anvil e _ s) _ _

/-- A sequence of the key engine, at once or when KEY_LOCK comes free (R357, R367). -/
@[simp] theorem withKeyLock_anvil (p : AnvilSt → Prop) (o : OpInfo) (rq : Req) (s : State) : (withKeyLock o rq s).Anvil p ↔ p s.anvil := by
  unfold withKeyLock
  split
  · simp
  split <;> simp [keyWaits, keyServiceTake]

@[simp] theorem drainCheck_anvil (s : State) : (drainCheck s).anvil = s.anvil := by simp [drainCheck]
@[simp] theorem onSlot_anvil (g : Nat) (f : SlotSt → SlotSt) (s : State) : (onSlot g f s).anvil = s.anvil := by simp [onSlot]
@[simp] theorem slotDiscard_anvil (g : Nat) (s : State) : (slotDiscard g s).anvil = s.anvil := by simp [slotDiscard]
@[simp] theorem dropFlight_anvil (p : Nat) (s : State) : (dropFlight p s).anvil = s.anvil := by simp [dropFlight]

@[simp] theorem dropParts_anvil (s : State) (l : List Nat) : (dropParts s l).anvil = s.anvil := by
  induction l generalizing s with
  | nil => rfl
  | cons g l ih => simp [dropParts, ih]

@[simp] theorem grmFlush_anvil (q : Nat) (s : State) : (grmFlush q s).anvil = s.anvil := by simp [grmFlush]

theorem eachNat_anvil {f : Nat → State → State} (h : ∀ n s, (f n s).anvil = s.anvil) (l : List Nat) (s : State) : (eachNat f l s).anvil = s.anvil := by
  induction l generalizing s with
  | nil => rfl
  | cons n l ih => exact (ih _).trans (h n s)

@[simp] theorem groomPortOff_anvil (p : Nat) (s : State) : (groomPortOff p s).anvil = s.anvil := by
  unfold groomPortOff
  dsimp only
  rw [eachNat_anvil slotDiscard_anvil]
  simp

@[simp] theorem groomQuench_anvil (s : State) : (groomQuench s).anvil = s.anvil := by
  unfold groomQuench
  dsimp only
  rw [drainCheck_anvil]
  exact eachNat_anvil grmFlush_anvil _ s

/-! ### Commands of one effect -/

theorem scheduledWrites_keepActive {c : Req → Instr} (h : ScheduledWrites c) : KeepsActive c := by
  obtain ⟨o, ho⟩ := exists_scheduledOp h
  refine keepsActive_of_effect fun rq s => ?_
  obtain ⟨k, res, hexec⟩ := scheduledOps_schedule _ ho rq s
  exact ⟨o, k, _, hexec, by simp⟩

/-- The commands that read, or update one other unit. -/
def plainCommands : List (Req → Instr) :=
  [(.echo : Req → Instr), .capsRead, .sysStatusRead, .queueStatusRead, .accessPolicyRead, .strokeRead, .refStatusRead, .mapStatusRead,
    .contStatusRead, .baRead, .alnStatusRead, .pgSummaryRead, .fabStatusRead, .fabPortStatusRead, .fabLsdbRead, .txRead, .txStatusRead,
    .txPreemphRead, .txCalRead, .rxRead, .rxStatusRead, .rxQualityRead, .rxCalRead, .lineOhRead, .lineOtnStatusRead, .clPortRead, .clPortStatusRead,
    .flexoTribRead, .laneStatusRead, .lanePrbsRead, .groomRead, .groomStatusRead, .slotRead, .slotStatusRead, .secStatusRead, .keStatusRead, .hkRead,
    .hkResultRead, .outStatusRead, .blRead, .blStatusRead, .optStatusRead, .modeStatusRead, .bootStatusRead, .keySlotsRead, .idRead,
    .storeStatusRead, .retireRead, .integStatusRead, .queueCfg, .queueFlush, .accessPolicyWrite, .intClear, .strokeSet, .pgRead, .lineFecStatusRead,
    .ruleSync, .grmQueueCfg, .grmQueueFlush, .secRead, .keyLoad, .keyClear, .tkLoad, .i2cCfg, .quenchExit, .faultAck, .sysRestart, .attest,
    .faultExport, .profileErase, .arbCfg]

theorem plainCommands_keepActive : ∀ c ∈ plainCommands, KeepsActive c := by
  simp only [plainCommands, List.forall_mem_cons, List.not_mem_nil, false_implies, implies_true, and_true]
  and_intros <;> exact keepsActive_of_effect fun _ _ => ⟨_, _, _, rfl, by simp⟩

/-- The same, where the operation first names a field of the parameters. -/
def fieldCommands : List (Req → Instr) :=
  [(.commitListRead : Req → Instr), .testRead, .lineTtiRead, .outRead, .faultRead, .winRead, .evtMaskRead, .commitCancel, .mapRead, .pgStatusRead,
    .fabRouteRead, .txCfg, .rxCfg, .i2cXfer, .imageStage, .signerSlotProgram, .authKeyLoad, .evtMaskWrite, .signerRevoke, .evtPop]

theorem fieldCommands_keepActive : ∀ c ∈ fieldCommands, KeepsActive c := by
  simp only [fieldCommands, List.forall_mem_cons, List.not_mem_nil, false_implies, implies_true, and_true]
  and_intros
  all_goals
    refine keepsActive_of_do (fun _ _ => rfl) fun rq s => ?_
    simp only [doCommitListRead, doTestRead, doLineTtiRead, doOutRead, doFaultRead, doWinRead, doEvtMaskRead, doCommitCancel, doMapRead,
      doPgStatusRead, doFabRouteRead, doTxCfg, doRxCfg, doI2cXfer, doImageStage, doSignerSlotProgram, doAuthKeyLoad, doEvtMaskWrite, doSignerRevoke, doEvtPop]
    exact command_active (by simp)

/-! ### Commands whose effect has several cases -/

/-- The two tables of a container are read one after the other. -/
theorem contRead_keepsActive : KeepsActive .contRead := keepsActive_of_do (fun _ _ => rfl) fun rq s => by
  unfold doContRead
  refine command_active ?_
  generalize contObj (rq.p 0) = c
  have hentry := (readAnswer_anvil (fun v => v.active = s.anvil.active) 2 (4 * c) (contEntry (accepted rq s) c).words [] (accepted rq s)).2 (by simp)
  generalize readAnswer 2 (4 * c) (contEntry (accepted rq s) c).words [] (accepted rq s) = a at hentry ⊢
  cases a with
  | done s' res => exact (readAnswer_anvil (fun v => v.active = s.anvil.active) ..).2 hentry
  | slagged s' res i =>
    have hruns := (readAnswer_anvil (fun v => v.active = s.anvil.active) 3 (poolIndex s' c) (contEntry s' c).runs res s').2 hentry
    dsimp only
    generalize readAnswer 3 (poolIndex s' c) (contEntry s' c).runs res s' = b at hruns ⊢
    cases b <;> exact hruns
  | _ => exact hentry

theorem ruleRead_keepsActive : KeepsActive .ruleRead := keepsActive_of_do (fun _ _ => rfl) fun rq s => by
  unfold doRuleRead
  refine command_active ?_
  split <;> simp

theorem rollbackAdvance_keepsActive : KeepsActive .rollbackAdvance := keepsActive_of_do (fun _ _ => rfl) fun rq s => by
  unfold doRollbackAdvance
  refine command_active ?_
  split <;> simp

theorem imageInstall_keepsActive : KeepsActive .imageInstall := keepsActive_of_do (fun _ _ => rfl) fun rq s => by
  unfold doImageInstall
  refine command_active ?_
  dsimp only
  (repeat' split) <;> simp

theorem pkSet_keepsActive : KeepsActive .pkSet := keepsActive_of_do (fun _ _ => rfl) fun rq s => by
  unfold doPkSet
  refine command_active ?_
  split <;> simp

theorem store_keepsActive : KeepsActive .store := keepsActive_of_do (fun _ _ => rfl) fun rq s => by
  unfold doStore
  refine command_active ?_
  split <;> simp [keyWaits]

theorem evcRead_keepsActive : KeepsActive .evcRead := keepsActive_of_do (fun _ _ => rfl) fun rq s => by
  unfold doEvcRead
  refine command_active ?_
  dsimp only
  split <;> simp

theorem pmRead_keepsActive : KeepsActive .pmRead := keepsActive_of_do (fun _ _ => rfl) fun rq s => by
  unfold doPmRead
  refine command_active ?_
  dsimp only
  split <;> simp

/-! ### QUENCH (R27, R39, R400) -/

@[simp] theorem onSnk_anvil (c : Nat) (f : SinkSt → SinkSt) (s : State) : (onSnk c f s).anvil = s.anvil := by simp [onSnk]
@[simp] theorem onBody_anvil (c : Nat) (f : BodyRx → BodyRx) (s : State) : (onBody c f s).anvil = s.anvil := by simp [onBody]

@[simp] theorem dropUnit_anvil (c : Nat) (s : State) : (dropUnit c s).anvil = s.anvil := by
  unfold dropUnit applyVerdict
  split <;> simp

@[simp] theorem sinksQuench_anvil (l : List (Nat × ContEntry)) (s : State) : (sinksQuench l s).anvil = s.anvil := by
  induction l generalizing s with
  | nil => rfl
  | cons x l ih => simp [sinksQuench, ih]

@[simp] theorem onLane_anvil (n : Nat) (f : LaneSt → LaneSt) (s : State) : (onLane n f s).anvil = s.anvil := by simp [onLane]

theorem eachLane_anvil {f : Nat → State → State} (h : ∀ n s, (f n s).anvil = s.anvil) (l : List Nat) (s : State) : (eachLane f l s).anvil = s.anvil := by
  induction l generalizing s with
  | nil => rfl
  | cons n l ih => exact (ih _).trans (h n s)

@[simp] theorem laneIdle_anvil (base n : Nat) (s : State) : (laneIdle base n s).anvil = s.anvil := eachLane_anvil (fun _ _ => by simp) _ _

@[simp] theorem onCliPort_anvil (p : Nat) (f : CliPortSt → CliPortSt) (s : State) : (onCliPort p f s).anvil = s.anvil := by simp [onCliPort]
@[simp] theorem instsOff_anvil (p : Nat) (s : State) : (instsOff p s).anvil = s.anvil :=
  anvil_foldl (fun s _ => anvil_foldl (fun _ _ => noteChange_anvil ..) _ s) _ s

@[simp] theorem applyClPort_anvil (c : Commit) (s : State) : (applyClPort c s).anvil = s.anvil := by
  unfold applyClPort
  extract_lets p old w s1 s2 s3
  split
  · simp [eachLane_anvil, s1]
  split <;> simp [s3, s2, s1]

@[simp] theorem onPort_anvil (p : Nat) (f : PortSt → PortSt) (s : State) : (onPort p f s).anvil = s.anvil := by simp [onPort]
@[simp] theorem ctlPurge_anvil (p : Nat) (s : State) : (ctlPurge p s).anvil = s.anvil := by simp [ctlPurge]
@[simp] theorem adjNone_anvil (p : Nat) (s : State) : (adjNone p s).anvil = s.anvil := by simp [adjNone, adjDrop]
@[simp] theorem enterDown_anvil (p : Nat) (s : State) : (enterDown p s).anvil = s.anvil := by simp [enterDown]

@[simp] theorem onOtnE_anvil (e : Nat) (f : OtnSt → OtnSt) (s : State) : (onOtnE e f s).anvil = s.anvil := by simp [onOtnE]

@[simp] theorem otnOff_anvil (e : Nat) (s : State) : (otnOff e s).anvil = s.anvil := by
  unfold otnOff
  rw [anvil_foldl fun _ _ => by simp [otnDefect], onOtnE_anvil]

@[simp] theorem sourceLost_anvil (c : Nat) (s : State) : (sourceLost c s).anvil = s.anvil := by simp [sourceLost, failRef]
@[simp] theorem cdLimitClear_anvil (e : Nat) (s : State) : (cdLimitClear e s).anvil = s.anvil := by simp [cdLimitClear]
@[simp] theorem rxEnter_anvil (st : RxState) (e : Nat) (s : State) : (rxEnter st e s).anvil = s.anvil := by simp [rxEnter, rxLosf]
@[simp] theorem rxOff_anvil (e : Nat) (s : State) : (rxOff e s).anvil = s.anvil := by simp [rxOff, rxLos, clearDescMm]

@[simp] theorem linesQuench_anvil (s : State) : (linesQuench s).anvil = s.anvil := by
  rw [linesQuench_eq]
  exact anvil_foldl (fun _ _ => by simp [lineQuench]) _ s

@[simp] theorem clientsQuench_anvil (s : State) : (clientsQuench s).anvil = s.anvil := by
  rw [clientsQuench_eq]
  exact anvil_foldl (fun _ _ => by simp [clientQuench]) _ s

@[simp] theorem fabricQuench_anvil (s : State) : (fabricQuench s).anvil = s.anvil := by
  rw [fabricQuench_eq]
  exact anvil_foldl (fun _ _ => by simp [fabricPortQuench]) _ s

@[simp] theorem optQuench_anvil (s : State) : (optQuench s).anvil = s.anvil := by
  rw [optQuench_eq, anvil_foldl fun _ _ => by simp [i2cQuench], anvil_foldl fun _ _ => by simp [loopQuench, blStop, onBl],
    anvil_foldl fun _ _ => by simp [outQuench, onOut]]

/-- An entry into QUENCH ends a running MAP_SYNC, with its shadow STALE (R115). -/
theorem abortMapSync_active (s : State) : (abortMapSync s).anvil.active = s.anvil.active := by
  unfold abortMapSync
  split
  · rfl
  · rw [replyDeferred_anvil]; rfl

theorem quenchBegun_active (s : State) : (quenchBegun s).anvil.active = s.anvil.active := by
  unfold quenchBegun
  dsimp only
  rw [sinksQuench_anvil, abortMapSync_active]
  simp [discardCommits]

theorem enterQuench_active (s : State) : (enterQuench s).anvil.active = s.anvil.active := by
  cases h : inQuench s
  · rw [enterQuench_eq h]
    simp [quenchEnded, zeroiseContexts, driversQuench, quenchBegun_active]
  · rw [enterQuench, if_pos h]

theorem quench_keepsActive : KeepsActive .quench := keepsActive_of_do (fun _ _ => rfl) fun rq s => by
  unfold doQuench
  exact command_active (by simp [enterQuench_active])

/-! ### Commands that write the Anvil (R112, R115, R398) -/

/-- Of the Anvil no more than the shadow bank, its golden copy, the state of the shadow and the note of words that read back differently has changed. -/
def AnvilSt.ShadowWritten (v w : AnvilSt) : Prop :=
  w = if v.activeB then { v with bankA := w.bankA, goldA := w.goldA, shadow := w.shadow, backBad := w.backBad }
    else { v with bankB := w.bankB, goldB := w.goldB, shadow := w.shadow, backBad := w.backBad }

theorem AnvilSt.ShadowWritten.active {v w : AnvilSt} (h : v.ShadowWritten w) : w.active = v.active := by
  rw [h]
  unfold AnvilSt.active
  cases v.activeB <;> simp

theorem AnvilSt.ShadowWritten.refl (v : AnvilSt) : v.ShadowWritten v := by unfold ShadowWritten; split <;> rfl

/-- The same with another state of the shadow and another note of words. -/
theorem AnvilSt.ShadowWritten.marked {v w : AnvilSt} (h : v.ShadowWritten w) (sh : ShadowState) (bad : List (Nat × Nat)) :
    v.ShadowWritten { w with shadow := sh, backBad := bad } := by
  unfold ShadowWritten at h ⊢
  rw [h]
  split <;> rfl

theorem writeShadow_shadowWritten (k : Nat) (ws : List W32) (s : State) : s.anvil.ShadowWritten (writeShadow k ws s).anvil := by
  unfold AnvilSt.ShadowWritten
  rw [writeShadow_anvil]
  split <;> rfl

theorem noteDropped_shadowWritten (s : State) : s.anvil.ShadowWritten (s.onAnvil fun v => { v with backBad := [] }).anvil :=
  (AnvilSt.ShadowWritten.refl s.anvil).marked s.anvil.shadow []

theorem doMapWrite_shadowWritten (rq : Req) (s : State) : s.anvil.ShadowWritten (doMapWrite rq s).anvil := by
  unfold doMapWrite
  refine command_anvil (.refl _) fun _ => ?_
  rw [← accepted_anvil rq s]
  split
  · exact noteDropped_shadowWritten _
  · exact (writeShadow_shadowWritten ..).marked _ _

theorem mapWrite_keepsActive : KeepsActive .mapWrite := keepsActive_of_do (fun _ _ => rfl) fun rq s => (doMapWrite_shadowWritten rq s).active

theorem mapSync_keepsActive : KeepsActive .mapSync := keepsActive_of_do (fun _ _ => rfl) fun rq s => by
  unfold doMapSync
  exact command_active (by rw [← accepted_anvil rq s]; rfl)

theorem progWrite_keepsActive : KeepsActive .progWrite := keepsActive_of_do (fun _ _ => rfl) fun rq s => by
  unfold doProgWrite
  refine command_active ?_
  rw [← accepted_anvil rq s]
  split
  · exact (noteDropped_shadowWritten _).active
  · simp [grmModified]

theorem ruleWrite_keepsActive : KeepsActive .ruleWrite := keepsActive_of_do (fun _ _ => rfl) fun rq s => by
  unfold doRuleWrite
  refine command_active ?_
  rw [← accepted_anvil rq s]
  split
  · exact (noteDropped_shadowWritten _).active
  · simp [grmModified]

/-! ### FAB_PATH_SET, whose hops write shadow entries too (R207, R209) -/

/-- SYNC_FIRST on a STALE shadow. -/
theorem pathSync_shadowWritten (rq : Req) (s : State) : s.anvil.ShadowWritten (pathSync rq s).anvil := by
  unfold pathSync
  split
  · simp only [State.onAnvil_self, cleanWords_anvil]
    unfold AnvilSt.ShadowWritten
    split <;> rfl
  · exact .refl _

theorem pathWrite_active (k : Nat) (rq : Req) (s : State) : (pathWrite k rq s).anvil.active = s.anvil.active :=
  calc (pathWrite k rq s).anvil.active
    _ = (writeShadow (recOut rq k) (pathEntries rq k) (pathSync rq s)).anvil.active := rfl
    _ = (pathSync rq s).anvil.active := (writeShadow_shadowWritten ..).active
    _ = s.anvil.active := (pathSync_shadowWritten rq s).active

theorem pathNext_anvil (k level hops origin : Nat) (rq : Req) (packet : List W32) (s : State) : (pathNext k level hops origin rq packet s).anvil = s.anvil := by
  simp [pathNext, enqueue]

theorem fabPathSet_keepsActive : KeepsActive .fabPathSet := keepsActive_of_do (fun _ _ => rfl) fun rq s => by
  unfold doFabPathSet
  refine command_active ?_
  rw [← accepted_anvil rq s]
  dsimp only
  split
  · exact (noteDropped_shadowWritten _).active
  · rw [Answer.anvil_done, pathNext_anvil, pathWrite_active]
    simp [addRecord]

/-! ### Every command -/

/-- While the firmware runs, BOOT_EXEC is refused (R411). -/
theorem bootExec_active {rq : Req} {s t : State} (hrom : s.boot.rom = false) (h : exec (.bootExec rq) s = .next t) : t.anvil.active = s.anvil.active := by
  obtain rfl := Host.Outcome.next.inj h
  unfold doBootExec
  refine command_anvil (p := fun v => v.active = s.anvil.active) rfl fun hpass => ?_
  obtain ⟨-, hrole, -⟩ := (refusal_eq_none ..).1 hpass
  simp [hrom] at hrole

/-- The commands of the lemmas above: they branch, read one table after the other, or reach the Anvil. -/
def branchingCommands : List (Req → Instr) :=
  [(.contRead : Req → Instr), .ruleRead, .rollbackAdvance, .imageInstall, .pkSet, .store, .evcRead, .pmRead, .quench, .mapWrite, .mapSync,
    .progWrite, .ruleWrite, .fabPathSet]

theorem branchingCommands_keepActive : ∀ c ∈ branchingCommands, KeepsActive c := by
  simp only [branchingCommands, List.forall_mem_cons, List.not_mem_nil, false_implies, implies_true, and_true]
  exact ⟨contRead_keepsActive, ruleRead_keepsActive, rollbackAdvance_keepsActive, imageInstall_keepsActive, pkSet_keepsActive, store_keepsActive,
    evcRead_keepsActive, pmRead_keepsActive, quench_keepsActive, mapWrite_keepsActive, mapSync_keepsActive, progWrite_keepsActive,
    ruleWrite_keepsActive, fabPathSet_keepsActive⟩

theorem isCommand_cases : ∀ e, IsCommand e →
    e.2 ∈ plainCommands ∨ e.2 ∈ fieldCommands ∨ e.2 ∈ branchingCommands ∨ ScheduledWrites e.2 ∨ e = (opBootExec, .bootExec) := by
  simp only [IsCommand, or_imp, forall_and]
  simp only [IsCommandSystem, IsCommandStrokes, IsCommandAnvil, IsCommandContainers, IsCommandProtection, IsCommandFabric, IsCommandLineTx,
    IsCommandLineRx, IsCommandLineOtn, IsCommandClient, IsCommandGroom, IsCommandSecurity, IsCommandOptics, IsCommandModes, IsCommandBoot,
    IsCommandCommits, IsCommandCounters, List.forall_mem_cons, List.not_mem_nil, false_implies, implies_true, and_true]
  and_intros <;> simp only [plainCommands, fieldCommands, branchingCommands, ScheduledWrites, List.mem_cons, true_or, or_true]

/-- Settles O17: a command leaves the Anvil, ends MAP_SYNC or starts it, writes no more than the shadow, or is BOOT_EXEC, which the running firmware refuses. -/
theorem noCommandWritesTheActiveBank : Obligations.NoCommandWritesTheActiveBank := by
  refine ⟨fun e he rq s t hrom h => ?_, fun rq s t h => ?_⟩
  · have hactive : t.anvil.active = s.anvil.active := by
      rcases isCommand_cases e he with hplain | hfield | hbranching | hwaits | rfl
      · exact plainCommands_keepActive _ hplain rq s t h
      · exact fieldCommands_keepActive _ hfield rq s t h
      · exact branchingCommands_keepActive _ hbranching rq s t h
      · exact scheduledWrites_keepActive hwaits rq s t h
      · exact bootExec_active (hrom.resolve_right fun hcode => hcode rfl) h
    exact ⟨congrArg Prod.snd hactive, congrArg Prod.fst hactive⟩
  · obtain rfl := Host.Outcome.next.inj h
    exact doMapWrite_shadowWritten rq s

end Sys2Proof.Machine
end

section
/-! O59: what the OTP keeps, its signer slots and its anti-rollback fuses. -/

namespace Sys2Proof.Machine

/-! ### The signer slots and the fuses (R409, R410) -/

/-- How a command or event can move the OTP: the slots hold while the fuses stay, or the end of ROLLBACK_ADVANCE sets the fuses and leaves the slots. -/
inductive OtpMove (s t : State) : Instr → Prop
  | holds (i : Instr) (hslots : SlotsHold s.boot.slots t.boot.slots) (hfuses : t.boot.fuses = s.boot.fuses) : OtpMove s t i
  | advances (hslots : t.boot.slots = s.boot.slots) (hfuses : t.boot.fuses = s.boot.runSvn.toNat) : OtpMove s t .rollbackAdvanceDone

theorem SlotsHold.of_eq {a b : List (Nat × SignerSlot)} (h : b = a) : SlotsHold a b := by
  subst h
  exact fun _ => ⟨fun h => ⟨h, rfl⟩, id⟩

theorem OtpMove.of_holds {i : Instr} {s t : State} (h : HoldsOtp (kept s) (kept t)) : OtpMove s t i :=
  .holds i h.2 (congrArg Kept.fuses h.1)

/-- What moves no more of `Kept` than the stroke number and the row leaves the OTP. -/
theorem OtpMove.of_time {i : Instr} {s t : State} {scnt : W48} {row : Nat} (h : kept t = { kept s with scnt := scnt, row := row }) : OtpMove s t i :=
  .holds i (.of_eq (congrArg Kept.slots h)) (congrArg Kept.fuses h)

theorem OtpMove.of_reset {i : Instr} {s t : State} (h : kept t = kept s ∨ kept t = { kept s with scnt := 0#48, row := 0 }) : OtpMove s t i :=
  h.elim (fun h => .of_time h) fun h => .of_time h

/-- A clock event moves no more of `Kept` than the stroke number and the row, and only under its condition. -/
theorem OtpMove.of_clock {i : Instr} {s t : State} {c : Prop} [Decidable c] {scnt : W48} {row : Nat}
    (h : kept t = if c then { kept s with scnt := scnt, row := row } else kept s) : OtpMove s t i := by
  split at h
  · exact .of_time h
  · exact .of_time h

theorem rollbackAdvanceDone_otpMove {s t : State} (h : exec .rollbackAdvanceDone s = .next t) : OtpMove s t .rollbackAdvanceDone := by
  rcases execRollbackAdvanceDone_kept s t h with hk | hk
  · exact .of_time hk
  · exact .advances (congrArg Kept.slots hk) (congrArg Kept.fuses hk)

theorem exec_otpMove {i : Instr} {s t : State} (h : exec i s = .next t) : OtpMove s t i := by
  by_cases hi : MovesKept i
  · cases hi with
    | rstnLow ns => exact .of_reset (execRstnLow_kept ns s t h)
    | powerLoss mv => exact .of_reset (execPowerLoss_kept mv s t h)
    | powerUp => exact .of_reset (execPowerUp_kept s t h)
    | sysRestartPulse => exact .of_reset (execSysRestartPulse_kept s t h)
    | rowTick x => exact .of_clock (execRowTick_kept x s t h)
    | strokeBoundary x => exact .of_clock (execStrokeBoundary_kept x s t h)
    | pciePacketFetch ch ws f => exact .of_holds (execPciePacketFetch_holds ch ws f s t h)
    | pktWrite p => exact .of_holds (execPktWrite_holds p s t h)
    | commandTake => exact .of_holds (execCommandTake_holds s t h)
    | signerSlotProgram rq => exact .of_holds (Host.Outcome.next.inj h ▸ doSignerSlotProgram_holds rq s)
    | signerRevoke rq => exact .of_holds (Host.Outcome.next.inj h ▸ doSignerRevoke_holds rq s)
    | rollbackAdvanceDone => exact rollbackAdvanceDone_otpMove h
  · obtain ⟨u, hu, hk⟩ := exec_kept hi s
    obtain rfl : t = u := Host.Outcome.next.inj (h.symm.trans hu)
    exact .of_time hk

/-- Settles O59: the command in front moves the OTP only as `OtpMove` allows; an empty queue moves nothing. That ROLLBACK_ADVANCE_DONE sets the fuses at
once and nothing else moves them, resets included, is the model's choice (log entry 44). -/
theorem otpIsWrittenOnce : Obligations.OtpIsWrittenOnce := by
  intro s t h
  rcases step_cases h with ⟨-, rfl⟩ | ⟨i, l, hp, hexec⟩
  · exact ⟨.of_eq rfl, .inl rfl⟩
  · cases exec_otpMove hexec with
    | holds _ hslots hfuses => exact ⟨hslots, .inl hfuses⟩
    | advances hslots hfuses => exact ⟨.of_eq hslots, .inr ⟨⟨l, hp⟩, hfuses⟩⟩

end Sys2Proof.Machine
end

section
/-! O54: which bit errors of a stored byte a read mends, and which it delivers with the slag mark. -/

namespace Sys2Proof.Machine

/-! ### The code is linear (R426): what a read makes of an error does not depend on the byte -/

/-- Six flags in a word, the first one highest. -/
theorem ofNat_flags (a b c d e f : Bool) :
    BitVec.ofNat 6 (flag a * 32 + flag b * 16 + flag c * 8 + flag d * 4 + flag e * 2 + flag f) =
      BitVec.cons a (BitVec.cons b (BitVec.cons c (BitVec.cons d (BitVec.cons e (BitVec.cons f 0#0))))) := by
  revert a b c d e f
  decide

/-- The check bits are two row parities and four column parities. -/
theorem checkBits_eq (b : Byte) :
    let d := b.getLsbD
    checkBits b = BitVec.cons (d 7 ^^ d 6 ^^ d 5 ^^ d 4) (BitVec.cons (d 3 ^^ d 2 ^^ d 1 ^^ d 0)
      (BitVec.cons (d 7 ^^ d 3) (BitVec.cons (d 6 ^^ d 2) (BitVec.cons (d 5 ^^ d 1) (BitVec.cons (d 4 ^^ d 0) 0#0))))) := by
  unfold checkBits
  rw [ofNat_flags]
  simp

theorem checkBits_xor (b d : Byte) : checkBits (b ^^^ d) = checkBits b ^^^ checkBits d := by
  simp only [checkBits_eq, BitVec.cons_xor_cons, BitVec.getLsbD_xor, BitVec.xor_self]
  simp only [Bool.xor_assoc, Bool.xor_left_comm, Bool.xor_comm]

/-- The syndrome of a byte read with flipped data bits `d` and check bits `c` is that of the error alone. -/
theorem syndrome_flipped (b d : Byte) (c : BitVec 6) : checkBits b ^^^ c ^^^ checkBits (b ^^^ d) = c ^^^ checkBits d := by
  rw [checkBits_xor, BitVec.xor_comm (checkBits b) c, BitVec.xor_assoc, ← BitVec.xor_assoc (checkBits b), BitVec.xor_self, BitVec.zero_xor]

/-- A read of `b` with flipped data bits `d` and check bits `c` mends and marks what a read of the zero byte with these errors does. -/
theorem decodeByte_flipped (b d : Byte) (c : BitVec 6) :
    decodeByte (b ^^^ d) (checkBits b ^^^ c) = { decodeByte d c with val := b ^^^ (decodeByte d c).val } := by
  unfold decodeByte
  simp only [syndrome_flipped]
  split <;> simp only [BitVec.xor_assoc]

theorem decodeByte_flippedData (b d : Byte) :
    decodeByte (b ^^^ d) (checkBits b) = { decodeByte d 0#6 with val := b ^^^ (decodeByte d 0#6).val } := by
  simpa using decodeByte_flipped b d 0#6

theorem decodeByte_flippedCheck (b : Byte) (c : BitVec 6) :
    decodeByte b (checkBits b ^^^ c) = { decodeByte 0#8 c with val := b ^^^ (decodeByte 0#8 c).val } := by
  simpa using decodeByte_flipped b 0#8 c

/-! ### The errors of the zero byte (R427, R428) -/

theorem decodeByte_noError : decodeByte 0#8 0#6 = ⟨0#8, false, false⟩ := by decide

theorem decodeByte_dataBit : ∀ i < 8, decodeByte (BitVec.ofNat 8 (2 ^ i)) 0#6 = ⟨0#8, false, true⟩ := by decide

theorem decodeByte_checkBit : ∀ j < 6, decodeByte 0#8 (BitVec.ofNat 6 (2 ^ j)) = ⟨0#8, false, true⟩ := by decide

theorem slag_of_two_dataBits :
    ∀ i < 8, ∀ k < 8, i ≠ k → (decodeByte (BitVec.ofNat 8 (2 ^ i) ^^^ BitVec.ofNat 8 (2 ^ k)) 0#6).slag = true := by decide

theorem slag_of_mark : (decodeByte 0#8 0x3F#6).slag = true := by decide

theorem slag_of_mark_dataBit : ∀ i < 8, (decodeByte (BitVec.ofNat 8 (2 ^ i)) 0x3F#6).slag = true := by decide

theorem slag_of_mark_checkBit : ∀ j < 6, (decodeByte 0#8 (0x3F#6 ^^^ BitVec.ofNat 6 (2 ^ j))).slag = true := by decide

/-- Settles O54: the code is linear, so each error is decoded as that of the zero byte, where it is one of finitely many. -/
theorem singleBitErrorsAreMended : Obligations.SingleBitErrorsAreMended := by
  intro b
  refine ⟨?noError, fun i hi => ?dataBit, fun j hj => ?checkBit, fun i hi k hk hik => ?twoDataBits, ?mark, fun i hi => ?markDataBit, fun j hj => ?markCheckBit⟩
  case noError => simpa [decodeByte_noError] using decodeByte_flipped b 0#8 0#6
  case dataBit => rw [decodeByte_flippedData, decodeByte_dataBit i hi, BitVec.xor_zero]
  case checkBit => rw [decodeByte_flippedCheck, decodeByte_checkBit j hj, BitVec.xor_zero]
  case twoDataBits =>
    rw [BitVec.xor_assoc, decodeByte_flippedData]
    exact slag_of_two_dataBits i hi k hk hik
  case mark =>
    rw [decodeByte_flippedCheck]
    exact slag_of_mark
  case markDataBit =>
    rw [decodeByte_flipped]
    exact slag_of_mark_dataBit i hi
  case markCheckBit =>
    rw [BitVec.xor_assoc, decodeByte_flippedCheck]
    exact slag_of_mark_checkBit j hj

end Sys2Proof.Machine
end

section
/-! O55: what an event and its clearing do to the counters. -/

namespace Sys2Proof.Machine

/-! ### Occurrences and clearings (R449, R454) -/

/-- A clearing is entered in the log and counted nowhere. -/
theorem counter_noteClear {f : Ev} {j : Nat} (h : evId f j ≠ evId evIntEvtLogOvf 0) (e : Ev) (inst : Nat) (s : State) :
    counter (noteClear e inst s) f j = counter s f j := by
  unfold noteClear
  split
  · exact counter_logEvent h e inst 1 true s
  · rfl

/-- Settles O55: `counter_note` says what an occurrence adds, to the event's own counter and to another; `counter_noteClear` that a clearing adds nothing. -/
theorem eventsCountModulo48Bits : Obligations.EventsCountModulo48Bits := by
  intro e inst n s
  refine ⟨fun hovf => ?own, fun f j hne hovf => ?other, fun f j hovf => counter_noteClear hovf e inst s⟩
  case own => rw [counter_note hovf, if_pos rfl]
  case other => rw [counter_note hovf, if_neg hne]

end Sys2Proof.Machine
end

section
/-! O1, O2, O3: the front of the queue, the values at reset, and that every command goes on. -/

namespace Sys2Proof.Machine

/-! ### The step, and the outcomes of commands and events -/

theorem step_front (c : Instr) (rest : List Instr) (s : State) : step { s with pending := c :: rest } = exec c { s with pending := rest } := rfl

theorem step_idle {s : State} (h : s.pending = []) : step s = .next s := by rw [step, h]

/-- Settles O1: the two cases of `step`. -/
theorem stepRunsTheFrontCommand : Obligations.StepRunsTheFrontCommand := ⟨step_front, fun _ => step_idle⟩

/-- What can move `Kept` is an operation on the state too. -/
theorem exec_next_of_movesKept {i : Instr} (hi : MovesKept i) (s : State) : ∃ t, exec i s = .next t := by
  cases hi <;> exact ⟨_, rfl⟩

theorem exec_next (i : Instr) (s : State) : ∃ t, exec i s = .next t := by
  by_cases hi : MovesKept i
  · exact exec_next_of_movesKept hi s
  · obtain ⟨t, ht, -⟩ := exec_kept hi s
    exact ⟨t, ht⟩

/-- Settles O3: `exec_kept` gives the next state of what keeps `Kept`, and the others are operations too. -/
theorem everyCommandGoesOn : Obligations.EveryCommandGoesOn := exec_next

/-! ### The values at reset -/

theorem pgEn_pgCfgOf_reset (g : Nat) : pgEn (pgCfgOf .reset g) = false := show pgEn pgReset = false by decide
theorem cpEn_cliPort_reset (p : Nat) : cpEn (cliPort .reset p) = false := show cpEn 0x01000000#32 = false by decide
theorem fpEn_fpCfg_reset (p : Nat) : fpEn (fpCfg .reset p) = false := show fpEn fabPortReset = false by decide

/-- Settles O2: each value is the default of its field, and an empty table reads the default everywhere. -/
theorem resetAsTheSpecGives : Obligations.ResetAsTheSpecGives := by
  refine ⟨⟨rfl, rfl, rfl, rfl, rfl, rfl⟩, ⟨rfl, rfl, rfl, rfl, ?policy, rfl, rfl⟩, ⟨rfl, rfl, rfl, rfl⟩, ⟨rfl, rfl, rfl, rfl, rfl, rfl, rfl, rfl⟩,
    fun _ => rfl, pgEn_pgCfgOf_reset, cpEn_cliPort_reset, fpEn_fpCfg_reset, Nat.zero_le _, rfl, rfl⟩
  case policy => decide

end Sys2Proof.Machine
end

section
/-! O32: when the pin events, the resets and the fault events act. -/

namespace Sys2Proof.Machine

/-! ### Events that act where a condition holds -/

/-- An event that acts where `c` holds, does. -/
theorem ok_pos {c : Prop} [Decidable c] (h : c) (a b : State) : ok (if c then a else b) = .next a := congrArg ok (if_pos h)

/-- An event that acts where `c` does not hold, does. -/
theorem ok_neg {c : Prop} [Decidable c] (h : ¬ c) (a b : State) : ok (if c then a else b) = .next b := congrArg ok (if_neg h)

/-! ### Pins and faults -/

/-- A restart that is due resets the device and releases it. -/
theorem exec_sysRestartPulse_due {r : Nat} {s : State} (hr : s.boot.restart = some r) (hrun : r < s.stk.run) (hrow : s.stk.row = 0) :
    exec .sysRestartPulse s = .next (releaseReset (resetState s)) := by
  simp [exec, execSysRestartPulse, ok, hr, hrun, hrow]

/-- A severe fault that forces QUENCH: it is counted, recorded and latched, and QUENCH is entered. -/
theorem declareFault_forcing {f : SevereFault} {s : State} (hf : f ≠ .keFail) (h : s.mode.present.contains f = false) :
    declareFault f s = enterQuench (faultDeclared f s) := (declareFault_eq h).trans (if_neg hf)

theorem jtagLoad_reset {l : JtagLoad} {s : State} (hp : s.pins.powered = true) (ht : l.trstLow = true) :
    jtagLoad l s = s.onPins fun v => { v with jtag := .idcode } := by
  simp [jtagLoad, hp, ht]

/-- With TRST_N high the instruction is loaded; one that holds the pins of a living device forces QUENCH. -/
theorem jtagLoad_loads {l : JtagLoad} {s : State} (hp : s.pins.powered = true) (ht : l.trstLow = false) :
    let t := s.onPins fun v => { v with scan := scanned l v, jtag := l.instr }
    jtagLoad l s = if jtagForces l.instr && alive t then enterQuench (t.onPins fun v => { v with jtagForced := true }) else t := by
  simp [jtagLoad, hp, ht]

theorem powered_of_alive {s : State} (h : alive s = true) : s.pins.powered = true := (Bool.and_eq_true_iff.1 h).1

/-- A core in self-test leaves it; one that fails is retired, if it is not yet. -/
theorem coreSelfTest_inTest {c : Nat} {pass : Bool} {s : State} (h : s.mode.coreTest.contains c = true) :
    let t := s.onMode fun v => { v with coreTest := del v.coreTest c }
    coreSelfTest c pass s = if pass || s.mode.coresLost.contains c then t else retireCore c t := by
  simp [coreSelfTest, List.contains_iff_mem.1 h]

/-- Settles O32: each event acts where its guard holds, which the conditions give. -/
theorem pinAndFaultEventsAct : Obligations.PinAndFaultEventsAct := by
  refine ⟨?rstnLow, ?rstnRelease, ?perstNAssert, ?perstNRelease, ?powerLoss, ?powerUp, ?sysRestartPulse, ?jtagLoads, ?jtagForces, ?jtagReset, ?railFault,
    ?pllUnlock, ?thermTrip, ?thermWarn, ?keFail, ?severeFaultClear, ?lockstepMiscompare, ?corePasses, ?coreFails, ?busDecerr, ?arbWdog, ?debugPortAccess,
    ?sliceRetire, ?depthSettled⟩
  case rstnLow => exact fun ns s hp hns => ok_pos (by simp [hp, hns]) _ _
  case rstnRelease => exact fun s hp hr => ok_pos (by simp [hp, hr]) _ _
  case perstNAssert => exact fun s => rfl
  case perstNRelease => exact fun s => rfl
  case powerLoss => exact fun mv s hp hmv => ok_pos (by simp [hp, hmv]) _ _
  case powerUp => exact fun s hp => ok_neg (by simp [hp]) _ _
  case sysRestartPulse => exact fun r s => exec_sysRestartPulse_due
  case jtagLoads => exact fun l s hp ht hf => congrArg ok ((jtagLoad_loads hp ht).trans (if_neg (by simp [hf])))
  case jtagForces =>
    intro l s ha ht hf
    have halive : alive (s.onPins fun v => { v with scan := scanned l v, jtag := l.instr }) = true := ha
    exact congrArg ok ((jtagLoad_loads (powered_of_alive ha) ht).trans (if_pos (by simp [hf, halive])))
  case jtagReset => exact fun l s hp ht => congrArg ok (jtagLoad_reset hp ht)
  case railFault =>
    exact fun rail uv rows s ha hout hrows hn => (ok_pos (by simp [ha, hout, hrows]) _ _).trans (congrArg ok (declareFault_forcing (by decide) hn))
  case pllUnlock => exact fun rows s ha hrows hn => (ok_pos (by simp [ha, hrows]) _ _).trans (congrArg ok (declareFault_forcing (by decide) hn))
  case thermTrip => exact fun temp rows s ha ht hrows => ok_pos (by simp [ha, ht, hrows]) _ _
  case thermWarn => exact fun temp rows s ha ht hrows => ok_pos (by simp [ha, ht, hrows]) _ _
  case keFail => exact fun s hage hk => ok_pos (by simp [hage, hk]) _ _
  case severeFaultClear =>
    intro f strokes n s hf hpresent hn htrip hcool
    subst htrip
    refine congrArg ok ?_
    unfold severeClear
    rw [hf]
    exact if_pos (by simp [List.contains_iff_mem.1 hpresent, absentFor, hn, hcool])
  case lockstepMiscompare => exact fun pair s ha hl => ok_pos (by simp [ha, hl]) _ _
  case corePasses => exact fun core pass s hc hp => congrArg ok ((coreSelfTest_inTest hc).trans (if_pos (by simp [hp])))
  case coreFails => exact fun core pass s hc hp hl => congrArg ok ((coreSelfTest_inTest hc).trans (if_neg (by rw [hp, hl]; decide)))
  case busDecerr => exact fun master inCmd s ha => ok_pos ha _ _
  case arbWdog => exact fun requester inCmd s h => ok_pos (decide_eq_true h) _ _
  case debugPortAccess => exact fun s ha hd => ok_neg (by simp [ha, hd]) _ _
  case sliceRetire => exact fun e dac lane slice s ha he hb => ok_pos (by simp [ha, he, hb]) _ _
  case depthSettled => exact fun s h => ok_pos h _ _

end Sys2Proof.Machine
end

section
/-! O33: when the clock events and the row tick act. -/

namespace Sys2Proof.Machine

theorem latchQl_locked {s : State} (h : s.clk.state = .locked) : latchQl s = s.onClk fun v => { v with lastQl := refQl s s.clk.selected } := if_pos h

theorem noteClear_clk (e : Ev) (inst : Nat) (s : State) : (noteClear e inst s).clk = s.clk := by
  unfold noteClear logEvent
  dsimp only
  (repeat' split) <;> rfl

theorem note_clk (e : Ev) (inst n : Nat) (s : State) : (note e inst n s).clk = s.clk := by rw [note_eq]

/-- The stroke unit enters a clock state with the candidate it had. -/
theorem enterClk_selected (n : ClkState) (s : State) : (enterClk n s).clk.selected = s.clk.selected := by
  simp only [enterClk, State.onClk_self, apply_ite State.clk, noteClear_clk, note_clk, ite_self]

theorem rowTick_before_last (x : RowIn) {s : State} (ha : alive s = true) (hrow : s.stk.row < 124) :
    rowTick x s = rowWork x ((clientTxIdle s).onStk fun v => { v with row := v.row + 1 }) := if_neg (by simp [ha, hrow])

/-- Settles O33: each event acts where its guard holds, which the conditions give; the clock that locks is LOCKED when its QL is latched. -/
theorem clockEventsAct : Obligations.ClockEventsAct := by
  refine ⟨?strkInEdge, ?refFail, ?refWtrClear, ?clockLock, ?acqTimeout, ?historyValid, ?holdoverExpired, ?lostListExpiry, ?rootCandidateTimeout, ?rowTick⟩
  case strkInEdge => exact fun t s hk hf => ok_pos (by simp [hk, hf]) _ _
  case refFail => exact fun c why s hen habs hcond => ok_pos (by simp [hen, habs, hcond]) _ _
  case refWtrClear => exact fun c s hfailed hwhy hsince => ok_pos (by simp [List.contains_iff_mem.1 hfailed, hwhy, hsince]) _ _
  case clockLock =>
    intro s hst hrun
    have hlatch := latchQl_locked (s := enterClk .locked s) rfl
    rw [enterClk_selected] at hlatch
    exact (ok_pos (by simp [hst, hrun]) _ _).trans (congrArg ok hlatch)
  case acqTimeout => exact fun s hst hrun => ok_pos (by simp [hst, hrun]) _ _
  case historyValid => exact fun s hst hrun => ok_pos (by simp [hst, hrun]) _ _
  case holdoverExpired => exact fun s hst hrun => ok_pos (by simp [hst, hrun]) _ _
  case lostListExpiry => exact fun s => rfl
  case rootCandidateTimeout => exact fun s hal hann => ok_pos (by simp [hal, hann]) _ _
  case rowTick => exact fun x s ha hrow => congrArg ok (rowTick_before_last x ha hrow)

end Sys2Proof.Machine
end

section
/-! O34: when the events of the PCIe and SPI transports act. -/

namespace Sys2Proof.Machine

/-! ### BAR0 and the rings (R83 to R87) -/

theorem cmdSizeWrite_accepted {c : Nat} {v : W32} {s : State} (h : v = 0#32 ∨ (chanOf s c).cmdSize = 0#32 ∧ ringSizeOk v = true) :
    cmdSizeWrite c v s = onChan c (fun h => { h with cmdSize := v, cmdHead := 0#32, cmdTail := 0#32 }) s := if_pos (by simpa using h)

theorem rplSizeWrite_accepted {c : Nat} {v : W32} {s : State} (h : v = 0#32 ∨ (chanOf s c).rplSize = 0#32 ∧ ringSizeOk v = true) :
    rplSizeWrite c v s = onChan c (fun h => { h with rplSize := v, rplHead := 0#32, rplTail := 0#32 }) s := if_pos (by simpa using h)

theorem bar0Write_intMask (v : W32) (s : State) : bar0Write 0x00C v s = s.onCmd fun x => { x with intMask := v &&& 0xFFF#32 } := rfl

/-- Offsets that are not listed ignore a write. -/
theorem bar0Write_unlisted {off : Nat} (v : W32) (s : State) (h4 : off ≠ 0x004) (h8 : off ≠ 0x008) (hC : off ≠ 0x00C) (hch : off < 0x100 ∨ 0x200 ≤ off) :
    bar0Write off v s = s := by
  have hrange : ¬ (0x100 ≤ off ∧ off < 0x200) := by omega
  simp only [bar0Write, if_neg h4, if_neg h8, if_neg hC, if_neg hrange]

/-- A good packet that has arrived whole and finds room is committed. -/
theorem fetch_commits (push : Nat → List W32 → State → State) {ch : Fin 4} {ws : List W32} {s : State} (hon : pcieOn s = true)
    (hsize : (chanOf s ch).cmdSize ≠ 0#32) (hrun : (chanOf s ch).stopped = false) (hlen : 3 ≤ ws.length) (hok : lengthOk ws = true)
    (hwhole : ws.length = lengthField ws) (havail : lengthField ws ≤ ringAvail (chanOf s ch)) (hroom : qfill s ch + lengthField ws ≤ 8192)
    (hhead : 3 ≤ ringAvail (chanOf s ch)) (hcrc : crcOk ws = true) : fetch push ch ws true s = push ch ws (advanceHead ch (lengthField ws) s) := by
  have hfetched : ¬ (!pcieOn s || (chanOf s ch).cmdSize = 0#32 || (chanOf s ch).stopped || ws.length < 3 || ringAvail (chanOf s ch) < 3) = true := by
    simp [hon, hsize, hrun]; omega
  have hfits : ¬ (ringAvail (chanOf s ch) < lengthField ws || 8192 < qfill s ch + lengthField ws || ws.length ≠ lengthField ws) = true := by
    simp; omega
  unfold fetch
  dsimp only
  rw [if_neg hfetched, if_neg (by simp [hok]), if_neg hfits, if_neg (by simp), if_neg (by simp [hcrc])]

theorem ringNext_fits {ch : Fin 4} {head : Option W32} {p : List W32} {r : List (List W32)} {s : State} (hq : rqOf s ch = p :: r) (hon : pcieOn s = true)
    (hsize : (ringAt ch head s).rplSize ≠ 0#32) (hroom : ringFill (ringAt ch head s) + p.length + 1 ≤ (ringAt ch head s).rplSize.toNat) :
    ringNext ch head s = some p := by
  simp [ringNext, hq, hon, hsize]; omega

theorem ringNext_empty {ch : Fin 4} {head : Option W32} {s : State} (hq : rqOf s ch = []) : ringNext ch head s = none := by simp [ringNext, hq]

theorem ringWrite_next {ch : Fin 4} {head : Option W32} {p : List W32} {s : State} (h : ringNext ch head s = some p) :
    ringWrite ch head s = ringPut ch head p s := by
  unfold ringWrite
  rw [h]

theorem ringWrite_head {ch : Fin 4} {v : W32} {s : State} (h : ringNext ch (some v) s = none) (hon : pcieOn s = true) :
    ringWrite ch (some v) s = rplHeadWrite ch v s := by
  unfold ringWrite
  rw [h]
  exact if_pos hon

/-! ### The SPI target (R88 to R90) -/

theorem spiPacket_commits (push : Nat → List W32 → State → State) {bs : List Byte} {s : State} (hlen : 3 ≤ (wordsOfBytes bs).length)
    (hok : lengthOk (wordsOfBytes bs) = true) (hroom : qfill s 4 + lengthField (wordsOfBytes bs) ≤ 8192)
    (hwhole : lengthField (wordsOfBytes bs) ≤ (wordsOfBytes bs).length) (hcrc : crcOk ((wordsOfBytes bs).take (lengthField (wordsOfBytes bs))) = true) :
    spiPacket push bs s = push 4 ((wordsOfBytes bs).take (lengthField (wordsOfBytes bs))) s := by
  unfold spiPacket
  dsimp only
  rw [if_neg (by omega), if_neg (by simp [hok]), if_neg (by omega), if_neg (by omega), if_neg (by simp [hcrc])]

theorem spiRead_empty {s : State} (clocked : Nat) (h : rqOf s 4 = []) : spiRead clocked s = s.onCmd fun v => { v with spiOut := [0#32] } := by
  rw [spiRead, h]

theorem spiRead_whole {clocked : Nat} {p : List W32} {r : List (List W32)} {s : State} (h : rqOf s 4 = p :: r) (hn : 4 * p.length ≤ clocked) :
    spiRead clocked s = (rqPop 4 s).onCmd fun v => { v with spiOut := p } := by
  rw [spiRead, h]
  exact if_pos hn

/-- Settles O34: each event acts where its transport is up, and then its operation takes the branch that the conditions give. -/
theorem transportEventsAct : Obligations.TransportEventsAct := by
  refine ⟨?cmdTailDoorbell, ?cmdSizeWrite, ?rplSizeWrite, ?rplHeadWrite, ?cmdFlush, ?rplFlush, ?intStatusW1c, ?intMask, ?unlisted, ?fetch, ?ringPut, ?ringHead,
    ?pktWrite, ?rplReadEmpty, ?rplReadWhole, ?statusRead, ?flush, ?spiBad⟩
  case cmdTailDoorbell => exact fun ch v s hon => ok_pos hon _ _
  case cmdSizeWrite => exact fun ch v s hon hv => (ok_pos hon _ _).trans (congrArg ok (cmdSizeWrite_accepted hv))
  case rplSizeWrite => exact fun ch v s hon hv => (ok_pos hon _ _).trans (congrArg ok (rplSizeWrite_accepted hv))
  case rplHeadWrite => exact fun ch v s hon => ok_pos hon _ _
  case cmdFlush => exact fun mask s hon => ok_pos hon _ _
  case rplFlush => exact fun mask s hon => ok_pos hon _ _
  case intStatusW1c => exact fun w s hon => ok_pos hon _ _
  case intMask =>
    rintro _ v s hon rfl
    exact (ok_pos hon _ _).trans (congrArg ok (bar0Write_intMask v s))
  case unlisted =>
    intro off v s hon h4 h8 hC hch
    have hne {k : W12} (h : off ≠ k) : off.toNat ≠ k.toNat := mt BitVec.eq_of_toNat_eq h
    exact (ok_pos hon _ _).trans (congrArg ok (bar0Write_unlisted v s (hne h4) (hne h8) (hne hC) hch))
  case fetch =>
    rintro ch ws _ cyc s hon hsize hrun hlen hok hwhole havail hroom hhead rfl hcrc
    exact congrArg ok (fetch_commits _ hon hsize hrun hlen hok hwhole havail hroom hhead hcrc)
  case ringPut => exact fun ch head p r s hq hon hsize hroom => congrArg ok (ringWrite_next (ringNext_fits hq hon hsize hroom))
  case ringHead =>
    rintro ch v _ s hq hon rfl
    exact congrArg ok (ringWrite_head (ringNext_empty hq) hon)
  case pktWrite =>
    exact fun bs cyc s hon hlen hok hroom hwhole hcrc => (ok_pos hon _ _).trans (congrArg ok (spiPacket_commits _ hlen hok hroom hwhole hcrc))
  case rplReadEmpty => exact fun clocked s hon hq => (ok_pos hon _ _).trans (congrArg ok (spiRead_empty clocked hq))
  case rplReadWhole => exact fun clocked p r s hon hq hn => (ok_pos hon _ _).trans (congrArg ok (spiRead_whole hq hn))
  case statusRead => exact fun s hon => ok_pos hon _ _
  case flush => exact fun b s hon => ok_pos hon _ _
  case spiBad =>
    intro b s hon hb
    have hout : ¬ (1 ≤ b.toNat ∧ b.toNat ≤ 4) := by
      rcases hb with rfl | hb
      · decide
      · omega
    exact ok_pos (by simp [hon]; omega) _ _

end Sys2Proof.Machine
end

section
/-! O35: when the events that end a running command or a forwarding record act. -/

namespace Sys2Proof.Machine

/-! ### Events that end what runs -/

/-- The oldest reply from the fabric closes the unicast record that it matches and goes to the reply queue of that record. -/
theorem fabricReplyNext_delivers {ws : List W32} {l : List (List W32)} {r : FwdRec} {s : State} (hrpl : s.cmd.fabRpl = ws :: l)
    (hrec : s.cmd.fwd.find? (matchesReply ws) = some r) (hb : recBroadcast r = false) (hroom : rqRoom (r.queue + 6) ws.length s = true) :
    fabricReplyNext ws s = rqPush (r.queue + 6) ws (s.onCmd fun v => { v with fabRpl := l, fwd := v.fwd.erase r }) := by
  have htail : (s.onCmd fun v => { v with fabRpl := v.fabRpl.tail }) = s.onCmd fun v => { v with fabRpl := l } := by simp [State.onCmd, hrpl]
  rw [fabricReplyNext, if_pos (by rw [hrpl]; rfl), htail]
  unfold fabricReply
  rw [State.onCmd_self, hrec]
  simp only [hb, Bool.false_eq_true, if_false]
  exact if_pos hroom

theorem execMapSyncDone_ends {d : Deferred} {s : State} (hsync : s.anvil.sync = some d) (hback : backDiffers (shadowTable s) 0 524288 s = false) :
    execMapSyncDone s = .next (replyDeferred d { st := .ok } [] ((cleanWords (shadowTable s) 0 524288 s).onAnvil fun v =>
      if v.activeB then { v with bankA := v.bankB, goldA := v.bankB, shadow := .synced, sync := none }
      else { v with bankB := v.bankA, goldB := v.bankA, shadow := .synced, sync := none })) := by
  unfold execMapSyncDone
  rw [hsync]
  exact ok_neg (by simp [hback]) _ _

theorem storeDone_wrapped {r : StoreRun} {p : Profile} {s : State} (hrun : s.store.store = some r) (hp : r.content = some p) (hw : r.wrapped = true) :
    storeDone s = replyDeferred r.cmd { st := .ok } [] (putProfile r.toB (some { p with seq := latestSeq s + 1#32 }) (s.onStore fun v => { v with store := none })) := by
  unfold storeDone
  rw [hrun]
  dsimp only
  rw [hp]
  exact if_neg (by simp [hw])

/-! ### KEY_LOCK (R367, R369) -/

/-- KEY_LOCK that is free goes to the sequence that has waited longest. -/
theorem keyLockGrant_free {w : KeyWait} {r : List KeyWait} {s : State} (hwait : s.sec.wait = w :: r) (hfree : s.sec.owner = 0) (hke : s.sec.keFailed = false) :
    keyLockGrant s = if w.cmd.opcode = opStore.code then s.onSec fun v => { v with wait := r, owner := 6, held := 0 }
      else s.onSec fun v => { v with wait := r, owner := 7, held := 0, seq := some w.cmd } := by
  unfold keyLockGrant
  rw [hwait]
  dsimp only
  rw [if_neg (not_not_intro hfree), State.onSec_self, if_neg (by simp [hke])]
  rfl

theorem keyWaitExpiry_one {w : KeyWait} {s : State} (hwait : s.sec.wait = [w]) (hdue : w.since + 5000 ≤ s.stk.run) :
    keyWaitExpiry s.sec.wait s = replyDeferred w.cmd { st := .busy, detail := 2 } [] (storeEnds w.cmd (s.onSec fun v => { v with wait := [] })) := by
  have hdel : (s.onSec fun v => { v with wait := del v.wait w }) = s.onSec fun v => { v with wait := [] } := by simp [State.onSec, hwait, del]
  rw [hwait, keyWaitExpiry, if_pos hdue, hdel, keyWaitExpiry]

/-- The command whose sequence holds KEY_LOCK: that of the key service, or the STORE that runs. -/
def keyHolder (s : State) : Option Deferred := match s.sec.seq with | some d => some d | none => s.store.store.map fun r => r.cmd

theorem keyLockTimeout_aborts {d : Deferred} {s : State} (howner : s.sec.owner ≠ 0) (hheld : 500 < s.sec.held) (hd : keyHolder s = some d) :
    keyLockTimeout s = internalReply d (storeEnds d (note evKeKeyLockTimeout 0 1 (keyRelease s))) := by
  unfold keyHolder at hd
  unfold keyLockTimeout
  rw [if_neg (by simp [howner, hheld])]
  cases hseq : s.sec.seq with
  | some e =>
    rw [hseq] at hd
    obtain rfl := Option.some.inj hd
    rfl
  | none =>
    rw [hseq] at hd
    dsimp only at hd ⊢
    rw [hd]

/-- Settles O35: each event finds what it ends, which the conditions give. -/
theorem completionEventsAct : Obligations.CompletionEventsAct := by
  refine ⟨?fabricReplyRx, ?fwdTimeout, ?mapSyncDone, ?ruleSyncDone, ?i2cXferDone, ?attestDone, ?storeDone, ?profileEraseDone, ?imageInstallDone,
    ?rollbackAdvanceDone, ?keyLockGrant, ?keyLockWaitExpiry, ?sequenceTimeout, ?storeTimeout⟩
  case fabricReplyRx => exact fun ws l r s hrpl hrec hb hroom => congrArg ok (fabricReplyNext_delivers hrpl hrec hb hroom)
  case fwdTimeout => exact fun s => rfl
  case mapSyncDone => exact fun d s => execMapSyncDone_ends
  case ruleSyncDone =>
    intro d s hsync hrules hprog
    change execRuleSyncDone s = _
    unfold execRuleSyncDone
    rw [hsync]
    exact ok_neg (by simp [hrules, hprog]) _ _
  case i2cXferDone =>
    intro m r d s hx
    refine congrArg ok ?_
    unfold i2cXferDone
    rw [hx]
  case attestDone =>
    intro d r s h
    change execAttestDone s = _
    unfold execAttestDone
    rw [h]
    rfl
  case storeDone => exact fun r p s hrun hp hw => congrArg ok (storeDone_wrapped hrun hp hw)
  case profileEraseDone =>
    intro d s h
    refine congrArg ok ?_
    unfold profileEraseDone
    rw [h]
  case imageInstallDone =>
    intro b img d s h
    change execImageInstallDone s = _
    unfold execImageInstallDone
    rw [h]
    rfl
  case rollbackAdvanceDone =>
    intro d s h
    change execRollbackAdvanceDone s = _
    unfold execRollbackAdvanceDone
    rw [h]
    rfl
  case keyLockGrant => exact fun w r s hwait hfree hke => congrArg ok (keyLockGrant_free hwait hfree hke)
  case keyLockWaitExpiry => exact fun w s hwait hdue => congrArg ok (keyWaitExpiry_one hwait hdue)
  case sequenceTimeout => exact fun d s howner hheld hseq => congrArg ok (keyLockTimeout_aborts howner hheld (by simp [keyHolder, hseq]))
  case storeTimeout => exact fun r s howner hheld hseq hrun => congrArg ok (keyLockTimeout_aborts howner hheld (by simp [keyHolder, hseq, hrun]))

end Sys2Proof.Machine
end

section
/-! O36: when the protection events and received container frames act. -/

namespace Sys2Proof.Machine

/-! ### What waits for a time in a protection group -/

theorem holdoffPass_protect {g : Nat} {s : State} (h : pgEn (pgCfgOf s g) = true) :
    let due := fun since : Option Nat => match since with | some t => decide (t + holdStrokes (pgCfgOf s g) ≤ s.stk.run) | none => false
    holdoffPass g true s = onMon g true (fun m => { m with sf := m.sf || (m.sfRaw && due m.sfSince), sd := m.sd || (m.sdRaw && due m.sdSince) }) s := by
  unfold holdoffPass
  dsimp only
  rw [if_neg (by simp [h])]
  exact if_neg (by simp)

theorem wtrExpire_due {g k : Nat} {s : State} (hwtr : (groupOf s g).wtr = some k) (hk : pgWtr (pgCfgOf s g) * 3000000 ≤ k) :
    wtrExpire g s = onGroup g (fun x => { x with wtrDone := true }) s := by
  unfold wtrExpire
  rw [hwtr]
  exact if_pos hk

theorem dfopPmDeclare_due {g t : Nat} {s : State} (hsince : (groupOf s g).fopPmSince = some t) (hen : pgEn (pgCfgOf s g) = true) (ht : t + 2500 ≤ s.stk.run) :
    dfopPmDeclare g s = setFopPm g true s := by
  unfold dfopPmDeclare
  rw [hsince]
  exact if_pos (by simp [hen, ht])

theorem dfopNrDeclare_due {g t : Nat} {s : State} (hsince : (groupOf s g).fopNrSince = some t) (hen : pgEn (pgCfgOf s g) = true)
    (hbidir : pgBidir (pgCfgOf s g) = true) (ht : t + 2500 ≤ s.stk.run) : dfopNrDeclare g s = setFopNr g true s := by
  unfold dfopNrDeclare
  rw [hsince]
  exact if_pos (by simp [hen, hbidir, ht])

/-- Settles O36: each event finds the time at which its condition began, which the conditions give. -/
theorem protectionEventsAct : Obligations.ProtectionEventsAct := by
  refine ⟨?containerFrameRx, ?pgHoldoffExpiry, ?pgWtrExpiry, ?dfopPm, ?dfopNr⟩
  case containerFrameRx => exact fun sink n rho s => by cases sink <;> rfl
  case pgHoldoffExpiry =>
    rintro g _ s hen rfl
    exact congrArg ok (holdoffPass_protect hen)
  case pgWtrExpiry => exact fun g k s hwtr hk => congrArg ok (wtrExpire_due hwtr hk)
  case dfopPm => exact fun g t s hsince hen ht => congrArg ok (dfopPmDeclare_due hsince hen ht)
  case dfopNr => exact fun g t s hsince hen hbidir ht => congrArg ok (dfopNrDeclare_due hsince hen hbidir ht)

end Sys2Proof.Machine
end

section
/-! O37: when the fabric events act. -/

namespace Sys2Proof.Machine

/-! ### Link rows (R183, R187) -/

/-- LOOPBACK FAR writes lanes only, so no port changes with it. -/
theorem resendLanes_fab (p : Nat) (r : LinkRow) (ls : List Nat) (s : State) : (resendLanes p r ls s).fab = s.fab := by
  induction ls generalizing s with
  | nil => rfl
  | cons l ls ih =>
    rw [resendLanes, ih]
    split <;> rfl

theorem resendLanes_portOf (p q : Nat) (r : LinkRow) (ls : List Nat) (s : State) : portOf (resendLanes p r ls s) q = portOf s q := by
  rw [portOf, resendLanes_fab, portOf]

theorem linkRow_down {p : Nat} {s : State} (row : LinkRow) (h : (portOf s p).state = .down) : linkRow p row s = resendLanes p row (List.range 8) s := by
  unfold linkRow
  simp [resendLanes_portOf, h]

theorem linkRow_train {p : Nat} {row : LinkRow} {s : State} (h : (portOf s p).state = .train) (hrow : row.missing = false)
    (hseen : (portOf s p).tr.seen = true) (huse : rxChoose (resendLanes p row (List.range 8) s) p ≠ []) :
    linkRow p row s =
      let a := resendLanes p row (List.range 8) s
      onPort p (fun x => { x with state := .hunt, huntRun := 0, validRun := 0, lastRow := none, rxUse := rxChoose a p, lanes6Rx := decide ((rxChoose a p).length = 6) }) a := by
  unfold linkRow
  simp [resendLanes_portOf, h, hrow, hseen, huse]

theorem note_fab (e : Ev) (p n : Nat) (s : State) : (note e p n s).fab = s.fab := by
  rw [note_eq]

theorem fecCount_portSynced (p : Nat) (r : RowGot) (s : State) : portSynced (fecCount p r s) p = portSynced s p := by
  have hfab : (fecCount p r s).fab = s.fab := by
    unfold fecCount
    split
    · rfl
    · rw [note_fab, note_fab]
  unfold portSynced portOf
  rw [hfab]

theorem judgeRow_hunt {p : Nat} {r : RowGot} {s : State} (h : (portOf s p).state = .hunt) : judgeRow p r s = huntRow p r (fecCount p r s) := by
  have hsync : portSynced s p = false := by simp [portSynced, h]
  exact if_neg (by simp [fecCount_portSynced, hsync])

theorem judgeRow_synced {p : Nat} {r : RowGot} {s : State} (h : portSynced s p = true) : judgeRow p r s = syncRow p r (fecCount p r s) :=
  if_pos ((fecCount_portSynced p r s).trans h)

theorem linkRow_hunt {p : Nat} (row : LinkRow) {s : State} (h : (portOf s p).state = .hunt) :
    linkRow p row s =
      let a := resendLanes p row (List.range 8) s
      huntRow p (rowOfLanes a p row) (fecCount p (rowOfLanes a p row) a) := by
  rw [← judgeRow_hunt (by rw [resendLanes_portOf, h])]
  unfold linkRow
  simp [resendLanes_portOf, h]

theorem linkRow_synced {p : Nat} (row : LinkRow) {s : State} (h : portSynced s p = true) :
    linkRow p row s =
      let a := resendLanes p row (List.range 8) s
      syncRow p (rowOfLanes a p row) (fecCount p (rowOfLanes a p row) a) := by
  rw [← judgeRow_synced (by rw [portSynced, resendLanes_portOf]; exact h)]
  have hst : (portOf s p).state = .sync ∨ (portOf s p).state = .up := by simpa [portSynced] using h
  unfold linkRow
  rcases hst with hst | hst <;> simp [resendLanes_portOf, hst]

/-! ### Envelopes -/

/-- The highest class goes first. -/
theorem envelopeSend_q0 {p : Nat} {e : List W32} {r : List (List W32)} {s : State}
    (hst : (portOf (ctlPurge p s) p).state = .hunt ∨ portSynced (ctlPurge p s) p = true) (hroom : (portOf (ctlPurge p s) p).ccOut.length < 19)
    (hq : (portOf (ctlPurge p s) p).q0 = e :: r) :
    envelopeSend p s = onPort p (fun x => { x with q0 := r, wire := x.wire ++ [e], ccOut := x.ccOut ++ envStream e }) (ctlPurge p s) := by
  unfold envelopeSend
  dsimp only
  rw [if_neg (by rcases hst with h | h <;> simp [h, hroom]), hq]

theorem helloRx_takes {p : Nat} {ws : List W32} {a s : State} (ht : takeEnvelope p 1 ws s = some a) (hsync : portSynced a p = true)
    (hlen : (envBody ws).length = 6) (hver : fld ((envBody ws).getD 0 0#32) 31 28 = 1) : helloRx p ws s = helloTake p (envBody ws) a := by
  unfold helloRx
  rw [ht]
  exact if_pos (by rw [hsync, hlen, hver]; rfl)

/-- A HELLO that is due by the stroke or by the entry into SYNC does not wait for the gap, and does not begin one. -/
theorem helloSend_due {p : Nat} {s : State} (hsync : portSynced s p = true)
    (hdue : (s.stk.row = 0 ∧ scnt s % 1000 = 0) ∨ (portOf s p).helloSync = true) :
    helloSend p s =
      let s' := onPort p (fun x => { x with helloSeq := x.helloSeq + 1#16, helloSync := false, helloDue := false }) s
      enqueue true p (envelope 1 0 s'.fab.nodeAddr.toNat 0 (helloBody s' p)) s' := by
  have hdue' : ((s.stk.row = 0 && scnt s % 1000 = 0) || (portOf s p).helloSync) = true := by simpa using hdue
  unfold helloSend
  simp [hsync, hdue']

theorem helloSend_driven {p : Nat} {s : State} (hsync : portSynced s p = true) (htime : s.stk.row ≠ 0 ∨ scnt s % 1000 ≠ 0)
    (hentry : (portOf s p).helloSync = false) (hdue : (portOf s p).helloDue = true) (hgap : 50 ≤ (portOf s p).helloGap) :
    helloSend p s =
      let s' := onPort p (fun x => { x with helloSeq := x.helloSeq + 1#16, helloSync := false, helloDue := false, helloGap := 0 }) s
      enqueue true p (envelope 1 0 s'.fab.nodeAddr.toNat 0 (helloBody s' p)) s' := by
  have htime' : (s.stk.row = 0 && scnt s % 1000 = 0) = false := by
    rcases htime with h | h <;> simp [h]
  unfold helloSend
  simp [hsync, htime', hentry, hdue, hgap]

theorem lspRx_takes {p : Nat} {ws : List W32} {a s : State} {l : Lsp} (ht : takeEnvelope p 2 ws s = some a) (hport : (ctlPorts a).contains p = true)
    (hl : lspRead (envBody ws) = some l) : lspRx p ws s = lspTake p (envOrigin ws) l a := by
  unfold lspRx
  rw [ht]
  dsimp only
  rw [if_neg (by rw [hport]; exact Bool.false_ne_true), hl]

/-- With room in the database this device's own LSP enters it, whether it stood there or not. -/
theorem lspOriginate_due {s : State} (hrow : s.stk.row = 0) (hdue : s.fab.lspDue = true) (hroom : s.fab.lsdb.length < 2048) :
    lspOriginate s =
      let s' := s.onFab fun v => { v with lseq := if v.lseq = 0xFFFFFFFF#32 then 1#32 else v.lseq + 1#32, lspDue := false, lspAge := 0, routesDue := true, lspLast := ownLsp s }
      let t := s'.onFab fun v => { v with lsdb := lspPut (ownLsp s') v.lsdb }
      enqueueAll true (lspEnvelope t.fab.nodeAddr.toNat (ownLsp s')) (ctlPorts t) t := by
  unfold lspOriginate
  rw [if_neg (by simp [hrow, hdue])]
  dsimp only
  rw [if_pos (by simp [State.onFab, hroom])]
  rfl

/-- An LSP too old makes the list that is kept a shorter one. -/
theorem lspAgeing_old {s : State} (h : ∃ l ∈ s.fab.lsdb, l.uid ≠ s.fused.uid ∧ 150000 ≤ l.age) :
    lspAgeing s = s.onFab fun v => { v with lsdb := v.lsdb.filter (fun l => l.uid = s.fused.uid || decide (l.age < 150000)), routesDue := true } := by
  obtain ⟨l, hl, huid, hage⟩ := h
  refine if_neg (Nat.ne_of_lt ?_)
  rw [List.length_filter_lt_length_iff_exists]
  exact ⟨l, hl, by simp [huid, hage]⟩

theorem addrWaitEnd_exchanged {t : Nat} {s : State} (hw : s.fab.waitSince = some t) (hm : addrMode s = true) (hx : s.fab.exchanged = true) :
    addrWaitEnd s = chooseAddr s := by
  unfold addrWaitEnd
  rw [hw]
  exact if_pos (by simp [hm, hx])

theorem polastRx_takes {p : Nat} {ws : List W32} {a s : State} (ht : takeEnvelope p 3 ws s = some a) (hport : (ctlPorts a).contains p = true) :
    polastRx p ws s = polastTake p ws a := by
  unfold polastRx
  rw [ht]
  exact if_pos hport

theorem pathHopRx_takes {p : Nat} {ws : List W32} {a s : State} (ht : takeEnvelope p 4 ws s = some a) (hup : portUp a p = true) (htwo : twoWay a p = true)
    (hlevel : fld ((envBody ws).getD 0 0#32) 31 30 = 1 ∨ fld ((envBody ws).getD 0 0#32) 31 30 = 2) (hop : rawOpcode ((envBody ws).drop 1) = opFabPathSet.code)
    (hlen : lengthOk ((envBody ws).drop 1) = true) (hcrc : crcOk ((envBody ws).drop 1) = true) :
    pathHopRx p ws s = pathHop p (fld ((envBody ws).getD 0 0#32) 31 30) (fld ((envBody ws).getD 0 0#32) 2 0) (envHops ws) (envOrigin ws) ((envBody ws).drop 1) a := by
  have hbad : (!(portUp a p && twoWay a p) || !(fld ((envBody ws).getD 0 0#32) 31 30 = 1 || fld ((envBody ws).getD 0 0#32) 31 30 = 2)
      || decide (rawOpcode ((envBody ws).drop 1) ≠ opFabPathSet.code) || !lengthOk ((envBody ws).drop 1) || !crcOk ((envBody ws).drop 1)) = false := by
    rw [hup, htwo, hop, hlen, hcrc]
    rcases hlevel with h | h <;> rw [h] <;> rfl
  unfold pathHopRx
  rw [ht]
  exact if_neg (by rw [hbad]; exact Bool.false_ne_true)

/-- Settles O37: a row is judged by the port's state, and every other event by the conditions given. -/
theorem fabricEventsAct : Obligations.FabricEventsAct := by
  refine ⟨?rowDown, ?rowTrain, ?rowHunt, ?rowSynced, ?fabHuntTimeout, ?envelopeTransmit, ?helloRx, ?helloDue, ?helloDriven, ?helloLoss, ?lspRx, ?lspOriginate,
    ?lspAgeing, ?routeRecompute, ?addrWaitEnd, ?addrClaimed, ?polastEnvelopeRx, ?broadcastRecordExpiry, ?pathHopRx⟩
  case rowDown => exact fun p row s h => congrArg ok (linkRow_down row h)
  case rowTrain => exact fun p row s h hrow hseen huse => congrArg ok (linkRow_train h hrow hseen huse)
  case rowHunt => exact fun p row s h => congrArg ok (linkRow_hunt row h)
  case rowSynced => exact fun p row s h => congrArg ok (linkRow_synced row h)
  case fabHuntTimeout => exact fun p s h hrun => ok_pos (by simp [h, hrun]) _ _
  case envelopeTransmit => exact fun p e r s hst hroom hq => congrArg ok (envelopeSend_q0 hst hroom hq)
  case helloRx => exact fun p ws a s ht hsync hlen hver => congrArg ok (helloRx_takes ht hsync hlen hver)
  case helloDue => exact fun p s hsync hdue => congrArg ok (helloSend_due hsync hdue)
  case helloDriven => exact fun p s hsync htime hentry hdue hgap => congrArg ok (helloSend_driven hsync htime hentry hdue hgap)
  case helloLoss => exact fun p s hadj hage => ok_pos (by simp [hadj, hage]) _ _
  case lspRx => exact fun p ws a l s ht hport hl => congrArg ok (lspRx_takes ht hport hl)
  case lspOriginate => exact fun s hrow hdue hroom => congrArg ok (lspOriginate_due hrow hdue hroom)
  case lspAgeing => exact fun s h => congrArg ok (lspAgeing_old h)
  case routeRecompute => exact fun s h => ok_pos h _ _
  case addrWaitEnd => exact fun t s hw hm hx => congrArg ok (addrWaitEnd_exchanged hw hm hx)
  case addrClaimed => exact fun s hst hrun => ok_pos (by simp [hst, hrun]) _ _
  case polastEnvelopeRx => exact fun p ws a s ht hport => congrArg ok (polastRx_takes ht hport)
  case broadcastRecordExpiry => exact fun s => rfl
  case pathHopRx => exact fun p ws a s ht hup htwo hlevel hop hlen hcrc => congrArg ok (pathHopRx_takes ht hup htwo hlevel hop hlen hcrc)

end Sys2Proof.Machine
end

section
/-! O38: when the line events act. -/

namespace Sys2Proof.Machine

/-! ### Transmitter (R225, R226, R232) -/

/-- Two changes of an engine that agree on what it holds are one change. -/
theorem onTxEng_congr {e : Nat} {f g : TxSt → TxSt} {s : State} (h : f (txEng s e) = g (txEng s e)) : onTxEng e f s = onTxEng e g s :=
  congrArg (fun y => { s with tx := { s.tx with eng := tset {} s.tx.eng e y } }) h

theorem rampDone_up {e : Fin 4} {s : State} (hrow : s.stk.row = 0) (hm : (txEng s e).m ≤ (txEng s e).j) (h : (txEng s e).state = .rampUp) :
    rampDone e s = note evLinTxRampDone e 1 (onTxEng e (fun x => { x with state := .on }) s) := by
  have hstate : onTxEng e (fun x => { x with state := if x.state = .rampUp then .on else .dark }) s = onTxEng e (fun x => { x with state := .on }) s :=
    onTxEng_congr (by simp [h])
  unfold rampDone
  simp [hrow, hm, h, hstate]

/-- An engine that reaches DARK has left the ramp before its row is sent. -/
theorem rampDone_down {e : Fin 4} {s : State} (hrow : s.stk.row = 0) (hm : (txEng s e).m ≤ (txEng s e).j) (h : (txEng s e).state = .rampDown) :
    rampDone e s =
      engineRow e (onTxEng e (fun x => { x with past := [], sent := [], symPos := x.symAt, sfc := x.sfcAt })
        (note evLinTxRampDone e 1 (onTxEng e (fun x => { x with state := .dark }) s))) := by
  have hstate : onTxEng e (fun x => { x with state := if x.state = .rampUp then .on else .dark }) s = onTxEng e (fun x => { x with state := .dark }) s :=
    onTxEng_congr (by simp [h])
  unfold rampDone
  simp [hrow, hm, h, hstate]

theorem calLimit_reached {e l i : Nat} {s : State} (hl : l ≤ 8) (hi : i ∈ loopIdx l) (hlim : 100 ≤ tget 0 (txEng s e).calLim i)
    (hdecl : (txEng s e).calLimDecl.contains l = false) :
    calLimit e l s = note evLinCalLimit e 1 (onTxEng e (fun x => { x with calLimDecl := ins x.calLimDecl l }) s) := by
  have hany : (loopIdx l).any (fun i => decide (100 ≤ tget 0 (txEng s e).calLim i)) = true := List.any_eq_true.2 ⟨i, hi, decide_eq_true hlim⟩
  refine if_pos ?_
  rw [hany, hdecl, decide_eq_true hl]
  rfl

/-! ### Receiver (R247–R252, R258) -/

theorem drxlos_declares {e : Nat} {lanes : List Nat} {rows : Nat} {s : State} (hcal : startCal s = false) (hpresent : enginePresent s e = true)
    (hoff : (rxEng s e).state ≠ .off) (hlos : (rxEng s e).los = false) (hlen : lanes.length = 4)
    (hlow : (lanes.all fun v => decide (v < rcLosThr (rxEng s e).cfg)) = true) (hrows : 2 ≤ rows) :
    drxlos e lanes rows s = rxEnter .nosig e (rxLos e true s) := by
  unfold drxlos
  dsimp only
  rw [if_neg (by rw [hcal]; exact Bool.false_ne_true)]
  refine if_pos ?_
  rw [hlow]
  simp [hpresent, hoff, hlos, hlen, hrows]

theorem drxlosClear_clears {e : Nat} {lanes : List Nat} {rows : Nat} {s : State} (hcal : startCal s = false) (h : (rxEng s e).state = .nosig)
    (hlos : (rxEng s e).los = true) (hhigh : (lanes.any fun v => decide (rcLosThr (rxEng s e).cfg ≤ v)) = true) (hrows : 125 ≤ rows) :
    drxlosClear e lanes rows s = rxLeaveNosig e (rxLos e false s) := by
  refine if_pos ?_
  rw [hhigh]
  simp [hcal, h, hlos, hrows]

theorem headerCandidate_hunt {e : Nat} {pk : Peak} {s : State} (hcal : startCal s = false) (h : (rxEng s e).state = .hunt)
    (hlargest : (peakView (rxEng s e).afc pk.wave).largest = true) (hthr : reaches (peakView (rxEng s e).afc pk.wave).pfr (rcHuntThr (rxEng s e).cfg) 2 = true)
    (hfreq : freqWithin s e (peakView (rxEng s e).afc pk.wave).df 4000000 = true) :
    headerCandidate e pk s =
      let v := peakView (rxEng s e).afc pk.wave
      takeCand (candOf e pk v) e (onRxEng e (fun x => { agcStep e 0 pk.level x with runner := none }) (onRxEng e (fun x => { x with afc := v.df }) s)) := by
  unfold headerCandidate
  simp [qualifies, hcal, h, hlargest, hthr, hfreq]

theorem headerWindowEnd_verify {e : Nat} (hw : HeaderWindow) {k : Cand} {s : State} (hcal : startCal s = false) (h : (rxEng s e).state = .verify)
    (hk : (rxEng s e).cand = some k) : headerWindowEnd e hw s = verifyWindow e k hw s := by
  unfold headerWindowEnd
  simp [hcal, h, hk]

theorem headerWindowEnd_locked {e : Nat} (hw : HeaderWindow) {k : Cand} {s : State} (hcal : startCal s = false) (h : (rxEng s e).state = .locked)
    (hk : (rxEng s e).cand = some k) : headerWindowEnd e hw s = lockedWindow e k hw s := by
  unfold headerWindowEnd
  simp [hcal, h, hk]

theorem huntTimeout_hunt {e : Nat} {s : State} (h : (rxEng s e).state = .hunt)
    (ht : superframes s e (rcHuntTimeout (rxEng s e).cfg) ≤ (rxEng s e).huntSym + rowGain s e) :
    huntTimeout e s = huntExpire ((rxEng s e).huntSym - superframes s e (rcHuntTimeout (rxEng s e).cfg)) e s := by
  unfold huntTimeout
  simp [elapsed, h, ht]

theorem huntTimeout_verify {e : Nat} {s : State} (h : (rxEng s e).state = .verify)
    (ht : superframes s e (rcHuntTimeout (rxEng s e).cfg) ≤ (rxEng s e).huntSym + rowGain s e) :
    huntTimeout e s = onRxEng e (fun x => { x with huntHeld := true }) s := by
  unfold huntTimeout
  simp [elapsed, h, ht]

/-- Settles O38: each event acts in the state of the engine that its row names, at the time it gives. -/
theorem lineEventsAct : Obligations.LineEventsAct := by
  refine ⟨?laserWaitEnd, ?rampUp, ?rampDown, ?calLimit, ?drxlos, ?drxlosClear, ?cdScanDone, ?headerCandidate, ?windowVerify, ?windowLocked, ?huntExpires,
    ?huntHeld, ?cdTrackLimit⟩
  case laserWaitEnd => exact fun e s h hrow hwait => ok_pos (by simp [h, hrow, hwait]) _ _
  case rampUp => exact fun e s hrow hm h => congrArg ok (rampDone_up hrow hm h)
  case rampDown => exact fun e s hrow hm h => congrArg ok (rampDone_down hrow hm h)
  case calLimit => exact fun e loop i s hl hi hlim hdecl => congrArg ok (calLimit_reached hl hi hlim hdecl)
  case drxlos => exact fun e lanes rows s hcal hp hoff hlos hlen hlow hrows => congrArg ok (drxlos_declares hcal hp hoff hlos hlen hlow hrows)
  case drxlosClear => exact fun e lanes rows s hcal h hlos hhigh hrows => congrArg ok (drxlosClear_clears hcal h hlos hhigh hrows)
  case cdScanDone => exact fun e tones s h ht => ok_pos (by simp [elapsed, h, ht]) _ _
  case headerCandidate => exact fun e pk s hcal h hl hthr hf => congrArg ok (headerCandidate_hunt hcal h hl hthr hf)
  case windowVerify => exact fun e hw k s hcal h hk => congrArg ok (headerWindowEnd_verify hw hcal h hk)
  case windowLocked => exact fun e hw k s hcal h hk => congrArg ok (headerWindowEnd_locked hw hcal h hk)
  case huntExpires => exact fun e s h ht => congrArg ok (huntTimeout_hunt h ht)
  case huntHeld => exact fun e s h ht => congrArg ok (huntTimeout_verify h ht)
  case cdTrackLimit => exact fun e s h hrun hlim => ok_pos (by simp [h, hrun, hlim]) _ _

end Sys2Proof.Machine
end

section
/-! O39: when the FEC and overhead events and the lane events act. -/

namespace Sys2Proof.Machine

/-! ### Codewords (R273–R275) -/

theorem codewordDecode_counts {e : Nat} {cw : CodewordIn} {s : State} (hpresent : enginePresent s e = true) (hlocked : (rxEng s e).state = .locked)
    (hlock : (otnOf s e).cwLock = true) (hphase : cw.phase = (otnOf s e).cwPhase) (hiter : cw.iter ≤ cwLimit s e cw.began) :
    codewordDecode e cw s = cwCount e cw (decodeCodeword (lcFormat (rxRule s e)) (lcEntropy (rxRule s e)) cw) s := by
  unfold codewordDecode
  rw [if_neg (by simp [hpresent, hlocked, hiter])]
  simp [hlock, hphase]

theorem codewordDecode_tests {e : Nat} {cw : CodewordIn} {s : State} (hpresent : enginePresent s e = true) (hlocked : (rxEng s e).state = .locked)
    (hlock : (otnOf s e).cwLock = false) (hiter : cw.iter ≤ cwLimit s e cw.began) :
    codewordDecode e cw s = cwTestStep e cw.phase (decodeCodeword (lcFormat (rxRule s e)) (lcEntropy (rxRule s e)) cw).good s := by
  unfold codewordDecode
  rw [if_neg (by simp [hpresent, hlocked, hiter])]
  simp [hlock]

/-! ### Frames (R270, R279, R280, R283) -/

theorem otucFrameTx_line {e : Fin 4} (opu : List (List Byte)) {s : State} (hpresent : enginePresent s e = true) (hsend : txSending (txEng s e) = true)
    (hroom : (txEng s e).bits.length < 122368 * txRate s e) :
    otucFrameTx (.line e) opu s =
      let r := sendSlices (.line e) opu (List.range (txRate s e)) s
      onTxEng e (fun x => { x with bits := x.bits ++ bitsOfBytes (otucStream r.2) }) (onOtnId (.line e) (fun x => { x with txFrame := r.2, txMfas := x.txMfas + 1#8 }) r.1) :=
  if_pos (by simp [hpresent, hsend, hroom])

theorem otucFrameRx_stream {id : OtnId} (fr : OtucFrame) {s : State} (h : otnStream s id = true) :
    otucFrameRx id fr s =
      match id with
      | .line e => lineFrameRx e s
      | .flexo p i => if (otnSt s (.flexo p i)).inFrame then otnFrame (.flexo p i) fr.slices s else huntFrames (.flexo p i) fr.hits s := by
  unfold otucFrameRx
  rw [if_neg (by simp [h])]
  cases id <;> rfl

theorem lineFrameRx_frame {e : Fin 4} {s : State} (hin : (otnOf s e).inFrame = true) (hlen : frameBits (rxRate s e) ≤ (otnOf s e).rxBits.length) :
    lineFrameRx e s =
      otnFrame (.line e) (unround (rxRate s e) (markedBytes (15296 * rxRate s e) ((otnOf s e).rxBits.take (frameBits (rxRate s e)))))
        (onOtnE e (dropBits (frameBits (rxRate s e))) s) := by
  unfold lineFrameRx
  simp [hin, Nat.not_lt.2 hlen]

theorem lineFrameRx_hunt {e : Fin 4} {s : State} (hin : (otnOf s e).inFrame = false) (hlen : frameBits (rxRate s e) + 55 ≤ (otnOf s e).rxBits.length) :
    lineFrameRx e s =
      let hits := fasHits (frameBits (rxRate s e)) 0 ((otnOf s e).rxBits.map Prod.fst)
      let won := (huntCands hits (otnOf s e).fasCands).find? fun c => 3 ≤ c.hits && 2 ≤ c.adv
      onOtnE e (dropBits (frameBits (rxRate s e) + (match won with | some c => c.off | none => 0))) (huntFrames (.line e) hits s) := by
  unfold lineFrameRx
  exact (if_neg (by simp [hin])).trans (if_neg (Nat.not_lt.2 hlen))

/-- A block in sync with a correct header that follows the last one is queued. -/
theorem rowBlockRx_follows {e : Fin 4} {k : Nat} {s : State} (hstream : otnStream s (.line e) = true) (hin : (otnOf s e).inFrame = true) (hk : k < rxRate s e)
    (hsync : (sliceOf (otnOf s e) k).sync = true) (hresync : (sliceOf (otnOf s e) k).resync = 0) (hlen : 2080 ≤ (sliceOf (otnOf s e) k).rx.length)
    (hhec : rhecOk ((sliceOf (otnOf s e) k).rx.take 2080) = true) (hnext : rbFollows 0 (sliceOf (otnOf s e) k).last ((sliceOf (otnOf s e) k).rx.take 2080) = true) :
    rowBlockRx e k s =
      onSlice (.line e) k (rbQueue (rbRow ((sliceOf (otnOf s e) k).rx.take 2080)) ((sliceOf (otnOf s e) k).rx.take 2080)) s := by
  unfold rowBlockRx
  dsimp only
  rw [if_neg (by simp [hstream, hin, hk]), if_pos (by simp [hsync, hresync]), if_neg (Nat.not_lt.2 hlen), if_neg (by simp [hhec]), if_neg (by simp [hnext])]

/-! ### Lanes (R312–R317) -/

/-- A training frame is the one received, or under LOOPBACK NEAR the port's own. -/
theorem trainingFrameRx_reads {p : TrainPort} {ws w : List W32} {s : State} (hw : (nearLane s p = none ∧ w = ws) ∨ ∃ k, nearLane s p = some k ∧ w = trainWords s p k)
    (htrain : training s p = true) (hok : trainFrameOk w = true) :
    trainingFrameRx p ws s =
      let a := onTr p (fun x => { x with
        seen := true, got := true, rxSet := BitVec.ofNat 8 (fld (w.getD 2 0#32) 23 16), txSet := BitVec.ofNat 8 (fld (w.getD 2 0#32) 15 8)
        ready := BitVec.ofNat 8 (bitsOf ((List.range 8).filter fun k => (laneField w k).testBit 9)) }) s
      let b := eachLane (trainLane (trBase p) w) (List.range (trLanes a p)) a
      onTr p (fun x => { x with readyRun := if trReady b p then x.readyRun + 1 else 0 }) b := by
  have hact : (training s p && trainFrameOk w) = true := by rw [htrain, hok]; rfl
  unfold trainingFrameRx
  rcases hw with ⟨hnear, rfl⟩ | ⟨k, hnear, rfl⟩
  · rw [hnear]
    exact if_pos hact
  · rw [hnear]
    exact if_pos hact

theorem execTrainTimeout_silent {p : Fin 12} {s : State} (h : (portOf s p).state = .train) (hrun : 2500 ≤ (portOf s p).tr.run) (hgot : (portOf s p).tr.got = false) :
    execTrainTimeout p s = .next (onPort p (fun x => { x with tr := { x.tr with run := 0, got := false } }) s) := by
  unfold execTrainTimeout
  simp [ok, h, hrun, hgot]

theorem execLaneTestEnd_due {lane n : Nat} (pass : Bool) {s : State} (htest : (laneOf s lane).test = some n) (hn : 50 ≤ n) :
    execLaneTestEnd lane pass s = .next (
      let s' := onLane lane (fun x => { x with
        test := none, loopPend := none, extFail := pass
        cfg1 := match x.loopPend with | some l => (x.cfg1 &&& 0x3FFFFFFF#32) ||| BitVec.ofNat 32 (l <<< 30) | none => x.cfg1 }) s
      if pass then note evLaneLaneExtFail lane 1 s' else note evLaneLaneRetired lane 1 (retireResource 3 ((lane - 64) / 8) ((lane - 64) % 8) s')) := by
  unfold execLaneTestEnd
  rw [htest]
  exact ok_neg (Nat.not_lt.2 hn) _ _

/-- Settles O39: each event acts on what its stream, its engine or its lane is in. -/
theorem overheadAndLaneEventsAct : Obligations.OverheadAndLaneEventsAct := by
  refine ⟨?decodes, ?tests, ?frameTx, ?flexoFrame, ?flexoHunt, ?lineFrame, ?lineHunt, ?dlof, ?dlom, ?rowBlockRx, ?dllos, ?trainingFrame, ?trainingNear,
    ?trainTimeout, ?laneTestEnd, ?dloa⟩
  case decodes => exact fun e cw s hp hl hlock hphase hiter => congrArg ok (codewordDecode_counts hp hl hlock hphase hiter)
  case tests => exact fun e cw s hp hl hlock hiter => congrArg ok (codewordDecode_tests hp hl hlock hiter)
  case frameTx =>
    rintro _ opu e s rfl hp hsend hroom
    exact congrArg ok (otucFrameTx_line opu hp hsend hroom)
  case flexoFrame =>
    rintro _ fr p i s rfl hstream hin
    exact congrArg ok ((otucFrameRx_stream fr hstream).trans (if_pos hin))
  case flexoHunt =>
    rintro _ fr p i s rfl hstream hin
    exact congrArg ok ((otucFrameRx_stream fr hstream).trans (if_neg (by simp [hin])))
  case lineFrame =>
    rintro _ fr e s rfl hstream hin hlen
    exact congrArg ok ((otucFrameRx_stream fr hstream).trans (lineFrameRx_frame hin hlen))
  case lineHunt =>
    rintro _ fr e s rfl hstream hin hlen
    exact congrArg ok ((otucFrameRx_stream fr hstream).trans (lineFrameRx_hunt hin hlen))
  case dlof => exact fun id s hen hin ht => ok_pos (by simp [strokes150, hen, hin, ht]) _ _
  case dlom => exact fun id s hen hin ht => ok_pos (by simp [strokes150, hen, hin, ht]) _ _
  case rowBlockRx => exact fun e k s hstream hin hk hsync hre hlen hhec hnext => congrArg ok (rowBlockRx_follows hstream hin hk hsync hre hlen hhec hnext)
  case dllos => exact fun lane s h => ok_pos h _ _
  case trainingFrame => exact fun p ws s hnear htrain hok => congrArg ok (trainingFrameRx_reads (.inl ⟨hnear, rfl⟩) htrain hok)
  case trainingNear => exact fun p ws k s hnear htrain hok => congrArg ok (trainingFrameRx_reads (.inr ⟨k, hnear, rfl⟩) htrain hok)
  case trainTimeout => exact fun p s h hrun hgot => execTrainTimeout_silent h hrun hgot
  case laneTestEnd => exact fun lane pass n s htest hn => execLaneTestEnd_due pass htest hn
  case dloa => exact fun p lost s hp hen hflexo => ok_pos (by simp [hp, hen, hflexo]) _ _

end Sys2Proof.Machine
end

section
/-! O40: when the grooming events act. -/

namespace Sys2Proof.Machine

/-! ### Client frames (R324) -/

/-- What a port's MAC receives: in LOOPBACK NEAR its own frame, without an error. -/
def macReceived (s : State) (p : Nat) (bs : List SByte) : List SByte := if portNear s p then (cliSt s p).txFrame.map (·, false) else bs

/-- A good frame for which its queue has room enters it. -/
theorem execClientFrameRx_enters {p : Nat} {bs : List SByte} {bad : Bool} {f : List Byte} {s : State} (hport : groomedPort s p = true) (hquench : inQuench s = false)
    (hserdes : (cliSt s p).hiSer = false) (hf : (macReceived s p bs).map Prod.fst = f) (hbad : (bad && !portNear s p) = false)
    (hclean : (macReceived s p bs).any Prod.snd = false) (hown : (portNear s p && f.isEmpty) = false) (hlen : f.length ≤ 9600) (hfcs : fcsOk f = true)
    (hroom : bytesIn (inqOf s p) + f.length ≤ 262144) :
    execClientFrameRx p bs bad s = .next (
      grmLevel p (grmBytes s p) (grmBytes s p + f.length) (note evCliRxBytes p f.length (note evCliRxFrames p 1
        (s.onGrm fun v => { v with inq := tset [] v.inq p (inqOf s p ++ [f]) })))) := by
  unfold execClientFrameRx
  dsimp only
  rw [← macReceived, hf, hbad, hserdes, hclean, hown, hfcs, hport, hquench]
  rw [if_neg (by decide), if_neg (by decide), if_neg (by simpa using hlen), if_neg (Nat.not_lt.2 hroom)]
  rfl

theorem macReceived_far {s : State} {p : Nat} (h : portNear s p = false) (bs : List SByte) : macReceived s p bs = bs := if_neg (by simp [h])

theorem macReceived_near {s : State} {p : Nat} (h : portNear s p = true) (bs : List SByte) : macReceived s p bs = (cliSt s p).txFrame.map (·, false) := if_pos h

/-! ### Passes (R325–R328) -/

theorem execFluxDispatch_starts {p c : Nat} {f : List Byte} {r : List (List Byte)} {s : State} (hp : nextPort s = some p)
    (hc : ((List.range 128).find? fun c => !ctxBusy s c) = some c) (hsecond : (s.grm.flight.any fun k => k.second && k.ended.isNone) = false)
    (hq : inqOf s p = f :: r) :
    execFluxDispatch s = .next (
      s.onGrm fun v => { v with inq := tset [] v.inq p r, rr := p, ordNo := v.ordNo + 1, flight := v.flight ++
        [{ port := p, no := s.grm.ordNo, ctx := c, gen1 := s.grm.activeIs1, bytes := f, v := [f.length - 4, p, 0, 0, 0, 0, 0, 0] }] }) := by
  unfold execFluxDispatch
  rw [hp, hc]
  dsimp only
  rw [if_neg (by rw [hsecond]; exact Bool.false_ne_true), hq]
  rfl

/-- The pass that waits on a context runs until it ends. -/
theorem execFluxPass_waits {ctx : Nat} {p : Packet} {s : State} (hp : (s.grm.flight.find? fun p => p.ctx = ctx && p.ended.isNone) = some p) :
    execFluxPass ctx s = .next (
      let r := fluxRun s (freeNat s) 64 { pk := p, pc := p.start }
      let a := if p.second || !r.pk.second then s else drawn s
      let b := match r.slagInstr with | some i => tableSlag (8 + bankOf p.gen1) i a | none => a
      let c := match r.slagRule with | some i => tableSlag (6 + bankOf p.gen1) (17 * i) b | none => b
      let d := note evIntChkCorr 0 r.mends c
      replacePacket r.pk (if r.budget then note evCliFlxBudget p.port 1 d else d)) := by
  unfold execFluxPass
  rw [hp]
  rfl

theorem execPacketRetire_ended {p : Nat} {k : Packet} {s : State} (hk : (s.grm.flight.find? fun k => k.port = p) = some k) (hended : k.ended ≠ none) :
    execPacketRetire p s = .next (
      let r := packetOutcome k (s.onGrm fun v => { v with flight := v.flight.filter fun x => x.no ≠ k.no })
      drainCheck (match r.2 with | some g => toSlot k g (storeFragment k r.2 r.1) | none => storeFragment k r.2 r.1)) := by
  unfold execPacketRetire
  rw [hk]
  exact ok_neg (by simpa using hended) _ _

/-! ### Frames that leave (R340) -/

/-- The state after the frame `f` of a slot's container has been taken from its sink, `r` being the frames that remain. -/
def frameTaken (slot : Nat) (r : List (List Byte × Bool)) (s : State) : State :=
  (s.onCont fun v => { v with snk := tmod {} v.snk (slCont (slotCfg s slot)) fun x => { x with frames := r } }).onGrm
    fun v => { v with rrOut := tset 0 v.rrOut (slOut (slotCfg s slot)) (slot + 1) }

/-- A frame that is bad is counted; a good one goes to the queue of its port, or is dropped. -/
theorem execUnpackFrame_takes {slot : Nat} {f : List Byte × Bool} {r : List (List Byte × Bool)} {s : State} (hslot : slot < 1024) (hwaits : slotWaits s slot = true)
    (hnext : nextSlot s (slOut (slotCfg s slot)) = some slot) (hf : contOut s (slCont (slotCfg s slot)) = f :: r) :
    execUnpackFrame slot s = .next (
      let q := slOut (slotCfg s slot)
      let a := frameTaken slot r s
      if f.2 then note evCliGrmUnpackBad q 1 a
      else if !groomedPort s q || decide (524288 < grmBytes s (2048 + q) + f.1.length) then note evCliGrmTxDrop q 1 a
      else grmLevel (2048 + q) (grmBytes s (2048 + q)) (grmBytes s (2048 + q) + f.1.length) (a.onGrm fun v => { v with outq := tset [] v.outq q (outqOf s q ++ [(slot, f.1)]) })) := by
  unfold execUnpackFrame
  dsimp only
  rw [if_pos (by simp [hslot, hwaits, hnext]), hf]
  rfl

theorem execEgressMacTake_takes {p : Nat} {f : Nat × List Byte} {r : List (Nat × List Byte)} {s : State} (hport : groomedPort s p = true) (hq : outqOf s p = f :: r) :
    execEgressMacTake p s =
      .next (note evCliTxBytes p f.2.length (note evCliTxFrames p 1 (onCliPort p (fun x => { x with txFrame := f.2 }) (s.onGrm fun v => { v with outq := tset [] v.outq p r })))) := by
  unfold execEgressMacTake
  rw [if_pos hport, hq]
  rfl

/-- Settles O40: frames and packets move on as their queues and passes stand. -/
theorem groomingEventsAct : Obligations.GroomingEventsAct := by
  refine ⟨?received, ?receivedNear, ?fluxDispatch, ?fluxPass, ?packetRetire, ?fragAgeExpiry, ?unpackBad, ?unpackQueued, ?unpackDropped, ?egressMacTake⟩
  case received =>
    rintro p bs bad s hport hnear hquench rfl hser hclean hlen hfcs hroom
    have hbs := macReceived_far hnear bs
    exact execClientFrameRx_enters hport hquench hser (by rw [hbs]) (by simp) (by rw [hbs, hclean]) (by rw [hnear]; rfl) hlen hfcs hroom
  case receivedNear =>
    intro p bs bad s hport hnear hquench hser hne hlen hfcs hroom
    have hbs := macReceived_near hnear bs
    exact execClientFrameRx_enters hport hquench hser (by simp [hbs, Function.comp_def]) (by simp [hnear]) (by simp [hbs]) (by simp [hne]) hlen hfcs hroom
  case fluxDispatch => exact fun p c f r s hp hc hsecond hq => execFluxDispatch_starts hp hc hsecond hq
  case fluxPass => exact fun ctx p s hp => execFluxPass_waits hp
  case packetRetire => exact fun p k s hk hended => execPacketRetire_ended hk hended
  case fragAgeExpiry => exact fun s => rfl
  case unpackBad =>
    intro slot f r s hslot hwaits hnext hf hbad
    exact (execUnpackFrame_takes hslot hwaits hnext hf).trans (ok_pos hbad _ _)
  case unpackQueued =>
    intro slot f r s hslot hwaits hnext hf hgood hport hroom
    exact (execUnpackFrame_takes hslot hwaits hnext hf).trans ((ok_neg (by simp [hgood]) _ _).trans (ok_neg (by simp [hport, hroom]) _ _))
  case unpackDropped =>
    intro slot f r s hslot hwaits hnext hf hgood hdrop
    exact (execUnpackFrame_takes hslot hwaits hnext hf).trans ((ok_neg (by simp [hgood]) _ _).trans (ok_pos (by simpa using hdrop) _ _))
  case egressMacTake => exact fun p f r s hport hq => execEgressMacTake_takes hport hq

end Sys2Proof.Machine
end

section
/-! O41: when the optics, entropy, boot and restoration events act. -/

namespace Sys2Proof.Machine

/-! ### Housekeeping and bias loops (R374, R386) -/

theorem hkConversionDone_delivers {c e : Nat} {pins : List (Fin 32 × Int)} {r : HkRun} {s : State} (hrun : (hkOf s c).running = some r) (he : r.next = e)
    (hend : hkEnds s r = true) : hkConversionDone c e pins s = hkDeliver c r (hkInput (hkEntry r.cfg r.next) pins) s := by
  subst he
  unfold hkConversionDone
  rw [hrun]
  exact if_pos (by simp [hend])

/-- A window that is over is judged by the samples before its end; the others stay for the next one. -/
theorem blWindowEnd_over {l t0 : Nat} {s : State} (ht0 : (blOf s l).t0 = some t0) (hover : blWindowOver s (blOf s l) t0 = true) :
    let fin := blBegin (blOf s l).cfg t0 ((blOf s l).window + 1)
    let a := onBl l (fun b => { b with window := b.window + 1, samples := b.samples.filter fun x => decide (fin ≤ x.1) }) s
    blWindowEnd l s = match blDetect (blOf s l).cfg t0 ((blOf s l).samples.filter fun x => x.1 < fin) with | none => note evOptBlNodata l 1 a | some c => blCorrect l c a := by
  unfold blWindowEnd
  dsimp only
  rw [ht0]
  exact if_neg (by simp [hover])

/-! ### The boot (R406, R411) -/

theorem romStartDone_begins {s : State} (halive : alive s = true) (hrom : s.boot.rom = true) (hstage : s.boot.stage = .romStart) (hrun : s.boot.stopped = false) :
    let a := s.onBoot fun v => { v with stage := .loading }
    romStartDone s = match nextCopy a with | some _ => a | none => bootFail (flashHeader a false) (a.onBoot fun v => { v with stage := .waitHost }) :=
  if_neg (by simp [halive, hrom, hstage, hrun])

/-- The copy that is read is started if it passes its check, and else marked as tried. -/
theorem imageLoadDone_reads {copy : Bool} {s : State} (halive : alive s = true) (hrom : s.boot.rom = true) (hstage : s.boot.stage = .loading) (hrun : s.boot.stopped = false)
    (hcopy : nextCopy s = some copy) :
    imageLoadDone copy s =
      if (imageCheck s true (flashWord (flashOf s copy))).1 = 0 then
        startImage (1 + flag copy) (imageCheck s true (flashWord (flashOf s copy))).2 (flashWord (flashOf s copy)) s
      else
        let a := bootFail (imageCheck s true (flashWord (flashOf s copy))).1 (s.onBoot fun v => { v with tried := v.tried ++ [flag copy] })
        match nextCopy a with
        | some _ => a
        | none => a.onBoot fun v => { v with stage := .waitHost } :=
  if_neg (by simp [halive, hrom, hstage, hrun, hcopy])

theorem fwStartDone_calibrates {badBanks : List Nat} {s : State} (h : stageIs .fwStart s = true) :
    fwStartDone badBanks s =
      ((((badBanks.filter fun b => b < 34).foldl (fun s b => retireResource 2 b 0 s) s).onBoot fun v => { v with stage := .calibrating, calib := false }).onOpt
        fun v => { v with vrefDue := true }) :=
  if_neg (by simp [h])

theorem calibrationDone_ends {s : State} (h : stageIs .calibrating s = true) (hcal : calibrated s = true) :
    calibrationDone s =
      ((List.range 4).foldl (fun s e => onTxEng e (fun x => if x.state = .dark then { x with famHold := true } else x) s) s).onBoot fun v => { v with
        stage := if !s.boot.calib && restoresAtBoot s then .restoring else .ready, calib := false } :=
  if_neg (by simp [h, hcal])

/-! ### Golden copies (R434) -/

/-- An awaited entry whose golden words are all readable gets them back. -/
theorem restoreEntry_readable {t i : Nat} {s : State} (hwait : s.integ.restore.contains (t, i) = true)
    (hgood : (s.integ.goldBad.find? fun x => x.1 = t && entryBase t x.2.1 = i) = none) :
    restoreEntry t i s = countCfi (note evIntGoldRestore t 1 (rewriteEntry t i (tableWord true s t) s)) := by
  unfold restoreEntry
  rw [if_neg (by rw [hwait]; exact Bool.false_ne_true), hgood]

/-- Settles O41: each event acts in the stage, or on the entry or window, that its row names. -/
theorem opticsBootAndIntegrityEventsAct : Obligations.OpticsBootAndIntegrityEventsAct := by
  refine ⟨?drbgReseed, ?entFail, ?entropyRestartPass, ?hkConversionDone, ?blNoData, ?blCorrects, ?romStart, ?romStartNoCopy, ?imageLoadDone, ?fwStartDone,
    ?calibrationDone, ?restoreDone, ?goldRestore⟩
  case drbgReseed => exact fun r s hok hup hfail hke hdue => ok_pos (by simp [hok, hup, hfail, hke, hdue]) _ _
  case entFail => exact fun s => rfl
  case entropyRestartPass => exact fun s => rfl
  case hkConversionDone => exact fun conv entry pins r s hrun he hend => congrArg ok (hkConversionDone_delivers hrun he hend)
  case blNoData =>
    intro loop t0 s ht0 hover hnone
    refine congrArg ok ((blWindowEnd_over ht0 hover).trans ?_)
    rw [hnone]
  case blCorrects =>
    intro loop t0 c s ht0 hover hc
    refine congrArg ok ((blWindowEnd_over ht0 hover).trans ?_)
    rw [hc]
  case romStart =>
    intro b s halive hrom hstage hrun hcopy
    refine congrArg ok ((romStartDone_begins halive hrom hstage hrun).trans ?_)
    rw [hcopy]
  case romStartNoCopy =>
    intro s halive hrom hstage hrun hcopy
    refine congrArg ok ((romStartDone_begins halive hrom hstage hrun).trans ?_)
    rw [hcopy]
  case imageLoadDone => exact fun copy s halive hrom hstage hrun hcopy => congrArg ok (imageLoadDone_reads halive hrom hstage hrun hcopy)
  case fwStartDone => exact fun badBanks s h => congrArg ok (fwStartDone_calibrates h)
  case calibrationDone => exact fun s h hcal => congrArg ok (calibrationDone_ends h hcal)
  case restoreDone => exact fun s h => ok_pos h _ _
  case goldRestore => exact fun table index s hwait hgood => congrArg ok (restoreEntry_readable hwait hgood)

end Sys2Proof.Machine
end

section
/-! The parts of the state outside those that an operation writes, carried through the updates that meanings are built from. -/

namespace Sys2Proof.Machine

/-- The parts of the state, one for each of its fields. -/
inductive Part where
  | pending | commits | free | otn | fused | pins | stk | clk | root | cmd | ev | anvil | rows | cont | diag | prot | fab | tx | rx | cli | grm | sec | opt
  | mode | boot | keys | store | pm | integ
  deriving DecidableEq

/-- `s` with the parts `own` taken from `t`. -/
def State.take (s : State) (own : List Part) (t : State) : State where
  pending := if .pending ∈ own then t.pending else s.pending
  commits := if .commits ∈ own then t.commits else s.commits
  free := if .free ∈ own then t.free else s.free
  otn := if .otn ∈ own then t.otn else s.otn
  fused := if .fused ∈ own then t.fused else s.fused
  pins := if .pins ∈ own then t.pins else s.pins
  stk := if .stk ∈ own then t.stk else s.stk
  clk := if .clk ∈ own then t.clk else s.clk
  root := if .root ∈ own then t.root else s.root
  cmd := if .cmd ∈ own then t.cmd else s.cmd
  ev := if .ev ∈ own then t.ev else s.ev
  anvil := if .anvil ∈ own then t.anvil else s.anvil
  rows := if .rows ∈ own then t.rows else s.rows
  cont := if .cont ∈ own then t.cont else s.cont
  diag := if .diag ∈ own then t.diag else s.diag
  prot := if .prot ∈ own then t.prot else s.prot
  fab := if .fab ∈ own then t.fab else s.fab
  tx := if .tx ∈ own then t.tx else s.tx
  rx := if .rx ∈ own then t.rx else s.rx
  cli := if .cli ∈ own then t.cli else s.cli
  grm := if .grm ∈ own then t.grm else s.grm
  sec := if .sec ∈ own then t.sec else s.sec
  opt := if .opt ∈ own then t.opt else s.opt
  mode := if .mode ∈ own then t.mode else s.mode
  boot := if .boot ∈ own then t.boot else s.boot
  keys := if .keys ∈ own then t.keys else s.keys
  store := if .store ∈ own then t.store else s.store
  pm := if .pm ∈ own then t.pm else s.pm
  integ := if .integ ∈ own then t.integ else s.integ

/-- What a state holds outside the parts `own`. -/
def rest (own : List Part) (s : State) : State := s.take own .reset

/-- States that agree outside the parts `own` differ in those parts alone. -/
theorem eq_take_of_rest {own : List Part} {s t : State} (h : rest own t = rest own s) : t = s.take own t := by
  cases s
  cases t
  simp only [rest, State.take, State.mk.injEq] at h ⊢
  and_intros <;> split <;> simp_all

section
variable {own : List Part}

@[simp] theorem rest_onPending (h : .pending ∈ own) (s : State) (f : List Instr → List Instr) : rest own (s.onPending f) = rest own s := by
  simp [rest, State.take, State.onPending, h]
@[simp] theorem rest_onCommits (h : .commits ∈ own) (s : State) (f : List Commit → List Commit) : rest own (s.onCommits f) = rest own s := by
  simp [rest, State.take, State.onCommits, h]
@[simp] theorem rest_onFree (h : .free ∈ own) (s : State) (f : Nat → Nat) : rest own (s.onFree f) = rest own s := by
  simp [rest, State.take, State.onFree, h]
@[simp] theorem rest_onOtn (h : .otn ∈ own) (s : State) (f : List (Nat × OtnSt) → List (Nat × OtnSt)) : rest own (s.onOtn f) = rest own s := by
  simp [rest, State.take, State.onOtn, h]
@[simp] theorem rest_onFused (h : .fused ∈ own) (s : State) (f : Fused → Fused) : rest own (s.onFused f) = rest own s := by
  simp [rest, State.take, State.onFused, h]
@[simp] theorem rest_onPins (h : .pins ∈ own) (s : State) (f : PinSt → PinSt) : rest own (s.onPins f) = rest own s := by
  simp [rest, State.take, State.onPins, h]
@[simp] theorem rest_onStk (h : .stk ∈ own) (s : State) (f : StrokeSt → StrokeSt) : rest own (s.onStk f) = rest own s := by
  simp [rest, State.take, State.onStk, h]
@[simp] theorem rest_onClk (h : .clk ∈ own) (s : State) (f : ClkSt → ClkSt) : rest own (s.onClk f) = rest own s := by
  simp [rest, State.take, State.onClk, h]
@[simp] theorem rest_onRoot (h : .root ∈ own) (s : State) (f : RootSt → RootSt) : rest own (s.onRoot f) = rest own s := by
  simp [rest, State.take, State.onRoot, h]
@[simp] theorem rest_onCmd (h : .cmd ∈ own) (s : State) (f : CmdSt → CmdSt) : rest own (s.onCmd f) = rest own s := by
  simp [rest, State.take, State.onCmd, h]
@[simp] theorem rest_onEv (h : .ev ∈ own) (s : State) (f : EvSt → EvSt) : rest own (s.onEv f) = rest own s := by
  simp [rest, State.take, State.onEv, h]
@[simp] theorem rest_onAnvil (h : .anvil ∈ own) (s : State) (f : AnvilSt → AnvilSt) : rest own (s.onAnvil f) = rest own s := by
  simp [rest, State.take, State.onAnvil, h]
@[simp] theorem rest_onRows (h : .rows ∈ own) (s : State) (f : RowSt → RowSt) : rest own (s.onRows f) = rest own s := by
  simp [rest, State.take, State.onRows, h]
@[simp] theorem rest_onCont (h : .cont ∈ own) (s : State) (f : ContSt → ContSt) : rest own (s.onCont f) = rest own s := by
  simp [rest, State.take, State.onCont, h]
@[simp] theorem rest_onDiag (h : .diag ∈ own) (s : State) (f : DiagSt → DiagSt) : rest own (s.onDiag f) = rest own s := by
  simp [rest, State.take, State.onDiag, h]
@[simp] theorem rest_onProt (h : .prot ∈ own) (s : State) (f : ProtSt → ProtSt) : rest own (s.onProt f) = rest own s := by
  simp [rest, State.take, State.onProt, h]
@[simp] theorem rest_onFab (h : .fab ∈ own) (s : State) (f : FabSt → FabSt) : rest own (s.onFab f) = rest own s := by
  simp [rest, State.take, State.onFab, h]
@[simp] theorem rest_onTx (h : .tx ∈ own) (s : State) (f : LineTxSt → LineTxSt) : rest own (s.onTx f) = rest own s := by
  simp [rest, State.take, State.onTx, h]
@[simp] theorem rest_onRx (h : .rx ∈ own) (s : State) (f : LineRxSt → LineRxSt) : rest own (s.onRx f) = rest own s := by
  simp [rest, State.take, State.onRx, h]
@[simp] theorem rest_onCli (h : .cli ∈ own) (s : State) (f : CliSt → CliSt) : rest own (s.onCli f) = rest own s := by
  simp [rest, State.take, State.onCli, h]
@[simp] theorem rest_onGrm (h : .grm ∈ own) (s : State) (f : GrmSt → GrmSt) : rest own (s.onGrm f) = rest own s := by
  simp [rest, State.take, State.onGrm, h]
@[simp] theorem rest_onSec (h : .sec ∈ own) (s : State) (f : SecSt → SecSt) : rest own (s.onSec f) = rest own s := by
  simp [rest, State.take, State.onSec, h]
@[simp] theorem rest_onOpt (h : .opt ∈ own) (s : State) (f : OptSt → OptSt) : rest own (s.onOpt f) = rest own s := by
  simp [rest, State.take, State.onOpt, h]
@[simp] theorem rest_onMode (h : .mode ∈ own) (s : State) (f : ModeSt → ModeSt) : rest own (s.onMode f) = rest own s := by
  simp [rest, State.take, State.onMode, h]
@[simp] theorem rest_onBoot (h : .boot ∈ own) (s : State) (f : BootSt → BootSt) : rest own (s.onBoot f) = rest own s := by
  simp [rest, State.take, State.onBoot, h]
@[simp] theorem rest_onKeys (h : .keys ∈ own) (s : State) (f : KeySt → KeySt) : rest own (s.onKeys f) = rest own s := by
  simp [rest, State.take, State.onKeys, h]
@[simp] theorem rest_onStore (h : .store ∈ own) (s : State) (f : StoreSt → StoreSt) : rest own (s.onStore f) = rest own s := by
  simp [rest, State.take, State.onStore, h]
@[simp] theorem rest_onPm (h : .pm ∈ own) (s : State) (f : PmSt → PmSt) : rest own (s.onPm f) = rest own s := by
  simp [rest, State.take, State.onPm, h]
@[simp] theorem rest_onInteg (h : .integ ∈ own) (s : State) (f : IntegSt → IntegSt) : rest own (s.onInteg f) = rest own s := by
  simp [rest, State.take, State.onInteg, h]

@[simp] theorem rest_ite (c : Prop) [Decidable c] (a b : State) : rest own (if c then a else b) = if c then rest own a else rest own b := apply_ite (rest own) c a b

@[simp] theorem rest_dite (c : Prop) [Decidable c] (a : c → State) (b : ¬c → State) :
    rest own (if h : c then a h else b h) = if h : c then rest own (a h) else rest own (b h) := apply_dite (rest own) c a b

/-- Operations that each leave the rest, one after the other. -/
@[simp] theorem rest_foldl {α : Type} {g : State → α → State} (hg : ∀ s a, rest own (g s a) = rest own s) (l : List α) (s : State) :
    rest own (l.foldl g s) = rest own s := by
  induction l generalizing s with
  | nil => rfl
  | cons a l ih => exact (ih _).trans (hg s a)

/-! ### Events, queues and replies (R71–R82, R449) -/

@[simp] theorem logEvent_rest (h : .ev ∈ own) (e : Ev) (inst n : Nat) (clear : Bool) (s : State) : rest own (logEvent e inst n clear s) = rest own s := by
  simp [logEvent, h]

@[simp] theorem note_rest (h : .ev ∈ own) (e : Ev) (inst n : Nat) (s : State) : rest own (note e inst n s) = rest own s := by simp [note, h]
@[simp] theorem noteClear_rest (h : .ev ∈ own) (e : Ev) (inst : Nat) (s : State) : rest own (noteClear e inst s) = rest own s := by simp [noteClear, h]

@[simp] theorem noteChange_rest (h : .ev ∈ own) (e : Ev) (inst : Nat) (was now : Bool) (s : State) : rest own (noteChange e inst was now s) = rest own s := by
  simp [noteChange, h]

@[simp] theorem tally_rest (h : .ev ∈ own) (e : Ev) (inst n : Nat) (s : State) : rest own (tally e inst n s) = rest own s := by simp [tally, h]
@[simp] theorem noteClip_rest (h : .ev ∈ own) (e : Nat) (b : Bool) (s : State) : rest own (noteClip e b s) = rest own s := by simp [noteClip, h]
@[simp] theorem drawn_rest (h : .free ∈ own) (s : State) : rest own (drawn s) = rest own s := by simp [drawn, h]
@[simp] theorem onChan_rest (h : .cmd ∈ own) (c : Nat) (f : ChanSt → ChanSt) (s : State) : rest own (onChan c f s) = rest own s := by simp [onChan, h]
@[simp] theorem raiseInt_rest (h : .cmd ∈ own) (i : Nat) (s : State) : rest own (raiseInt i s) = rest own s := by simp [raiseInt, h]
@[simp] theorem levelCross_rest (h : .cmd ∈ own) (q before after : Nat) (s : State) : rest own (levelCross q before after s) = rest own s := by simp [levelCross, h]
@[simp] theorem setCycle_rest (h : .cmd ∈ own) (q : Nat) (c : Option InCycle) (s : State) : rest own (setCycle q c s) = rest own s := by simp [setCycle, h]

@[simp] theorem levelEvent_rest (h : .cmd ∈ own) (q before after : Nat) (s : State) : rest own (levelEvent q before after s) = rest own s := by
  unfold levelEvent
  (repeat' split) <;> simp [h]

@[simp] theorem joinChanges_rest (h : .cmd ∈ own) (qs : List Nat) (s : State) : rest own (joinChanges qs s) = rest own s := by
  unfold joinChanges
  split
  · rfl
  · refine (rest_onCmd h _ _).trans (rest_foldl (fun s j => ?_) _ s)
    split <;> simp [h]

@[simp] theorem flushedPush_rest (h : .cmd ∈ own ∧ .ev ∈ own) (q : Nat) (s : State) : rest own (flushedPush q s) = rest own s := by simp [flushedPush, h]
@[simp] theorem cqPush_rest (h : .cmd ∈ own ∧ .ev ∈ own) (q : Nat) (p : List W32) (s : State) : rest own (cqPush q p s) = rest own s := by simp [cqPush, h]
@[simp] theorem rqPush_rest (h : .cmd ∈ own ∧ .ev ∈ own) (q : Nat) (p : List W32) (s : State) : rest own (rqPush q p s) = rest own s := by simp [rqPush, h]
@[simp] theorem rqRefill_rest (h : .cmd ∈ own ∧ .ev ∈ own) (s : State) : rest own (rqRefill s) = rest own s := by simp [rqRefill, h]
@[simp] theorem rqPop_rest (h : .cmd ∈ own ∧ .ev ∈ own) (c : Nat) (s : State) : rest own (rqPop c s) = rest own s := by simp [rqPop, h]
@[simp] theorem flushQueue_rest (h : .cmd ∈ own ∧ .ev ∈ own) (q : Nat) (s : State) : rest own (flushQueue q s) = rest own s := by simp [flushQueue, h]

@[simp] theorem reply_rest (h : .cmd ∈ own ∧ .ev ∈ own) (opcode : Nat) (rq : Req) (key : Option (BitVec 256)) (r : Rej) (res : List W32) (s : State) :
    rest own (reply opcode rq key r res s) = rest own s := by
  simp [reply, h]

@[simp] theorem freeCq_rest (h : .cmd ∈ own) (q : Nat) (s : State) : rest own (freeCq q s) = rest own s := by simp [freeCq, h]

@[simp] theorem faultRecord_rest (h : .store ∈ own) (code unit detail : Nat) (s : State) : rest own (faultRecord code unit detail s) = rest own s := by
  simp [faultRecord, h]

@[simp] theorem internalEntry_rest (h : .store ∈ own) (opcode : Nat) (s : State) : rest own (internalEntry opcode s) = rest own s := by simp [internalEntry, h]

@[simp] theorem unaccept_rest (h : .keys ∈ own) (rq : Req) (s : State) : rest own (unaccept rq s) = rest own s := by
  unfold unaccept
  (repeat' split) <;> simp [h]

@[simp] theorem replyDeferred_rest (h : .cmd ∈ own ∧ .ev ∈ own ∧ .keys ∈ own) (d : Deferred) (r : Rej) (res : List W32) (s : State) :
    rest own (replyDeferred d r res s) = rest own s := by
  simp [replyDeferred, h]

@[simp] theorem internalReply_rest (h : .cmd ∈ own ∧ .ev ∈ own ∧ .keys ∈ own ∧ .store ∈ own) (d : Deferred) (s : State) :
    rest own (internalReply d s) = rest own s := by
  simp [internalReply, h]

/-! ### Words of the tables and the cross-connect (R110–R121, R427–R434) -/

@[simp] theorem cleanWords_rest (h : .integ ∈ own) (t i n : Nat) (s : State) : rest own (cleanWords t i n s) = rest own s := by simp [cleanWords, h]
@[simp] theorem askRestore_rest (h : .fab ∈ own ∧ .integ ∈ own) (t i : Nat) (s : State) : rest own (askRestore t i s) = rest own s := by simp [askRestore, h]

@[simp] theorem tableSlag_rest (h : .ev ∈ own ∧ .fab ∈ own ∧ .integ ∈ own) (t i : Nat) (s : State) : rest own (tableSlag t i s) = rest own s := by
  simp [tableSlag, h]

@[simp] theorem noteReads_rest (h : .ev ∈ own ∧ .fab ∈ own ∧ .integ ∈ own) (t i : Nat) (l : List WordRead) (s : State) :
    rest own (noteReads t i l s) = rest own s := by
  induction l generalizing i s with
  | nil => rfl
  | cons r l ih => simp [noteReads, ih, h]

@[simp] theorem noteEntry_rest (h : .ev ∈ own ∧ .fab ∈ own ∧ .integ ∈ own) (t i : Nat) (ws : List W32) (s : State) : rest own (noteEntry t i ws s) = rest own s := by
  simp [noteEntry, h]

@[simp] theorem writeShadow_rest (h : .anvil ∈ own ∧ .integ ∈ own) (k : Nat) (ws : List W32) (s : State) : rest own (writeShadow k ws s) = rest own s := by
  simp [writeShadow, h]

@[simp] theorem abortMapSync_rest (h : .cmd ∈ own ∧ .ev ∈ own ∧ .anvil ∈ own ∧ .keys ∈ own) (s : State) : rest own (abortMapSync s) = rest own s := by
  unfold abortMapSync
  (repeat' split) <;> simp [h]

@[simp] theorem noteMapRead_rest (h : .ev ∈ own ∧ .fab ∈ own ∧ .integ ∈ own) (t d : Nat) (r : WordRead) (s : State) :
    rest own (noteMapRead t d r s) = rest own s := by
  simp [noteMapRead, h]

@[simp] theorem transitFrom_rest (h : .ev ∈ own ∧ .fab ∈ own ∧ .integ ∈ own) (t : Nat) (offset : Nat → Nat) (l : List (Nat × W32 × Bool)) (s : State) (m : List
    (Nat × Cell)) :
    rest own (transitFrom t offset l s m).1 = rest own s := by
  induction l generalizing s m with
  | nil => rfl
  | cons a r ih => simp [transitFrom, ih, h]

@[simp] theorem noteSwUe_rest (h : .ev ∈ own ∧ .anvil ∈ own ∧ .mode ∈ own) (b : Nat) (s : State) : rest own (noteSwUe b s) = rest own s := by simp [noteSwUe, h]

@[simp] theorem applySwErr_rest (h : .ev ∈ own ∧ .anvil ∈ own ∧ .rows ∈ own ∧ .mode ∈ own) (e : SwErr) (s : State) : rest own (applySwErr e s) = rest own s := by
  unfold applySwErr
  (repeat' split) <;> simp [h]

@[simp] theorem applySwErrs_rest (h : .ev ∈ own ∧ .anvil ∈ own ∧ .rows ∈ own ∧ .mode ∈ own) (l : List SwErr) (s : State) :
    rest own (applySwErrs l s) = rest own s := by
  induction l generalizing s with
  | nil => rfl
  | cons a r ih => simp [applySwErrs, ih, h]

@[simp] theorem transit_rest (h : .ev ∈ own ∧ .anvil ∈ own ∧ .rows ∈ own ∧ .fab ∈ own ∧ .mode ∈ own ∧ .integ ∈ own) (offset : Nat → Nat) (errs : List SwErr)
    (s : State) :
    rest own (transit offset errs s) = rest own s := by
  simp [transit, h]

/-! ### Container ends, contexts and references -/

@[simp] theorem onSrc_rest (h : .cont ∈ own) (c : Nat) (f : SrcSt → SrcSt) (s : State) : rest own (onSrc c f s) = rest own s := by simp [onSrc, h]
@[simp] theorem onSnk_rest (h : .cont ∈ own) (c : Nat) (f : SinkSt → SinkSt) (s : State) : rest own (onSnk c f s) = rest own s := by simp [onSnk, h]
@[simp] theorem contAsk_rest (h : .ev ∈ own ∧ .fab ∈ own ∧ .integ ∈ own) (c : Nat) (s : State) : rest own (contAsk c s) = rest own s := by simp [contAsk, h]
@[simp] theorem secAsk_rest (h : .ev ∈ own ∧ .fab ∈ own ∧ .integ ∈ own) (k : Nat) (s : State) : rest own (secAsk k s) = rest own s := by simp [secAsk, h]
@[simp] theorem onCtx_rest (h : .sec ∈ own) (k : Nat) (f : CtxSt → CtxSt) (s : State) : rest own (onCtx k f s) = rest own s := by simp [onCtx, h]
@[simp] theorem reportSecMm_rest (h : .ev ∈ own ∧ .sec ∈ own) (k : Nat) (s : State) : rest own (reportSecMm k s) = rest own s := by simp [reportSecMm, h]
@[simp] theorem failRef_rest (h : .clk ∈ own ∧ .ev ∈ own) (c : Nat) (s : State) : rest own (failRef c s) = rest own s := by simp [failRef, h]
@[simp] theorem sourceLost_rest (h : .clk ∈ own ∧ .ev ∈ own) (c : Nat) (s : State) : rest own (sourceLost c s) = rest own s := by simp [sourceLost, h]
@[simp] theorem laneSourceLost_rest (h : .clk ∈ own ∧ .ev ∈ own) (l : Nat) (s : State) : rest own (laneSourceLost l s) = rest own s := by simp [laneSourceLost, h]

@[simp] theorem retireResource_rest (h : .mode ∈ own ∧ .store ∈ own) (code unit detail : Nat) (s : State) :
    rest own (retireResource code unit detail s) = rest own s := by
  simp [retireResource, h]

@[simp] theorem countCfi_rest (h : .mode ∈ own) (s : State) : rest own (countCfi s) = rest own s := by simp [countCfi, h]

/-! ### Client ports, lanes and their training (R312–R320) -/

@[simp] theorem onLane_rest (h : .cli ∈ own) (n : Nat) (f : LaneSt → LaneSt) (s : State) : rest own (onLane n f s) = rest own s := by simp [onLane, h]
@[simp] theorem onCliPort_rest (h : .cli ∈ own) (p : Nat) (f : CliPortSt → CliPortSt) (s : State) : rest own (onCliPort p f s) = rest own s := by simp [onCliPort, h]

@[simp] theorem instsOff_rest (h : .ev ∈ own) (p : Nat) (s : State) : rest own (instsOff p s) = rest own s :=
  rest_foldl (fun s _ => rest_foldl (fun s _ => noteChange_rest h _ _ _ _ s) _ s) _ s

@[simp] theorem eachLane_rest (f : Nat → State → State) (l : List Nat) (s : State) (hf : ∀ a s, rest own (f a s) = rest own s) :
    rest own (eachLane f l s) = rest own s := by
  induction l generalizing s with
  | nil => rfl
  | cons a r ih => simp [eachLane, ih, hf]

@[simp] theorem laneIdle_rest (h : .cli ∈ own) (base n : Nat) (s : State) : rest own (laneIdle base n s) = rest own s := by simp [laneIdle, h]

@[simp] theorem applyClPort_rest (h : .ev ∈ own ∧ .cli ∈ own ∧ .mode ∈ own) (c : Commit) (s : State) : rest own (applyClPort c s) = rest own s := by
  simp [applyClPort, h]

@[simp] theorem clientTxIdle_rest (h : .cli ∈ own) (s : State) : rest own (clientTxIdle s) = rest own s := by simp [clientTxIdle, h]
@[simp] theorem clientLanesIdle_rest (h : .cli ∈ own) (s : State) : rest own (clientLanesIdle s) = rest own s := by simp [clientLanesIdle, h]

@[simp] theorem demapRows_rest (h : .cli ∈ own) (l : List Nat) (s : State) : rest own (demapRows l s) = rest own s := by
  induction l generalizing s with
  | nil => rfl
  | cons a r ih => simp [demapRows, ih, h]

@[simp] theorem lanesRow_rest (h : .ev ∈ own ∧ .cli ∈ own) (locked : List Nat) (s : State) : rest own (lanesRow locked s) = rest own s := by simp [lanesRow, h]

@[simp] theorem trainLane_rest (h : .free ∈ own ∧ .cli ∈ own) (base : Nat) (ws : List W32) (k : Nat) (s : State) :
    rest own (trainLane base ws k s) = rest own s := by
  simp [trainLane, h]

@[simp] theorem onPort_rest (h : .fab ∈ own) (p : Nat) (f : PortSt → PortSt) (s : State) : rest own (onPort p f s) = rest own s := by simp [onPort, h]

@[simp] theorem onTr_rest (h : .fab ∈ own ∧ .cli ∈ own) (tp : TrainPort) (f : TrainSt → TrainSt) (s : State) : rest own (onTr tp f s) = rest own s := by
  unfold onTr
  (repeat' split) <;> simp [h]

@[simp] theorem sendTraining_rest (h : .fab ∈ own ∧ .cli ∈ own) (tp : TrainPort) (s : State) : rest own (sendTraining tp s) = rest own s := by simp [sendTraining, h]
@[simp] theorem clientTraining_rest (h : .fab ∈ own ∧ .cli ∈ own) (s : State) : rest own (clientTraining s) = rest own s := by simp [clientTraining, h]

@[simp] theorem trainingFrameRx_rest (h : .free ∈ own ∧ .fab ∈ own ∧ .cli ∈ own) (p : TrainPort) (ws : List W32) (s : State) :
    rest own (trainingFrameRx p ws s) = rest own s := by
  simp [trainingFrameRx, h]

@[simp] theorem clientDataRow_rest (h : .fab ∈ own ∧ .cli ∈ own) (ports : List Nat) (s : State) : rest own (clientDataRow ports s) = rest own s := by
  simp [clientDataRow, h]

@[simp] theorem startTest_rest (h : .cli ∈ own) (n : Nat) (s : State) : rest own (startTest n s) = rest own s := by simp [startTest, h]

@[simp] theorem laneSource_rest (h : .cli ∈ own) (got : Option (List Nat)) (n : Nat) (s : State) : rest own (laneSource got n s) = rest own s := by
  unfold laneSource
  (repeat' split) <;> simp [h]

@[simp] theorem laneCheck_rest (h : .cli ∈ own) (got : Option (List Nat)) (n : Nat) (s : State) : rest own (laneCheck got n s) = rest own s := by simp [laneCheck, h]
@[simp] theorem laneSignals_rest (h : .cli ∈ own) (rx : List (Nat × List Nat)) (s : State) : rest own (laneSignals rx s) = rest own s := by simp [laneSignals, h]

/-! ### Grooming (R323–R345) -/

@[simp] theorem onSlot_rest (h : .grm ∈ own) (g : Nat) (f : SlotSt → SlotSt) (s : State) : rest own (onSlot g f s) = rest own s := by simp [onSlot, h]
@[simp] theorem grmLevel_rest (h : .ev ∈ own) (q before after : Nat) (s : State) : rest own (grmLevel q before after s) = rest own s := by simp [grmLevel, h]

@[simp] theorem dropParts_rest (h : .cont ∈ own) (s : State) (l : List Nat) : rest own (dropParts s l) = rest own s := by
  induction l generalizing s with
  | nil => rfl
  | cons a r ih => simp [dropParts, ih, h]

@[simp] theorem grmFlush_rest (h : .ev ∈ own ∧ .cont ∈ own ∧ .grm ∈ own) (q : Nat) (s : State) : rest own (grmFlush q s) = rest own s := by simp [grmFlush, h]
@[simp] theorem replacePacket_rest (h : .grm ∈ own) (pk : Packet) (s : State) : rest own (replacePacket pk s) = rest own s := by simp [replacePacket, h]

@[simp] theorem packetOutcome_rest (h : .ev ∈ own ∧ .grm ∈ own) (p : Packet) (s : State) : rest own (packetOutcome p s).1 = rest own s := by
  unfold packetOutcome
  (repeat' split) <;> simp [h]

@[simp] theorem storeFragment_rest (h : .ev ∈ own ∧ .grm ∈ own) (p : Packet) (out : Option Nat) (s : State) : rest own (storeFragment p out s) = rest own s := by
  unfold storeFragment
  (repeat' split) <;> simp [h]

@[simp] theorem toSlot_rest (h : .ev ∈ own ∧ .grm ∈ own) (p : Packet) (g : Nat) (s : State) : rest own (toSlot p g s) = rest own s := by simp [toSlot, h]
@[simp] theorem drainCheck_rest (h : .grm ∈ own) (s : State) : rest own (drainCheck s) = rest own s := by simp [drainCheck, h]
@[simp] theorem slotDiscard_rest (h : .ev ∈ own ∧ .grm ∈ own) (g : Nat) (s : State) : rest own (slotDiscard g s) = rest own s := by simp [slotDiscard, h]

@[simp] theorem streamGone_rest (h : .ev ∈ own ∧ .cont ∈ own) (c : Nat) (s : State) : rest own (streamGone c s) = rest own s := by
  unfold streamGone
  dsimp only
  (repeat' split) <;> simp [h]

@[simp] theorem eachNat_rest (f : Nat → State → State) (l : List Nat) (s : State) (hf : ∀ a s, rest own (f a s) = rest own s) :
    rest own (eachNat f l s) = rest own s := by
  induction l generalizing s with
  | nil => rfl
  | cons a r ih => simp [eachNat, ih, hf]

@[simp] theorem dropFlight_rest (h : .ev ∈ own ∧ .grm ∈ own) (p : Nat) (s : State) : rest own (dropFlight p s) = rest own s := by simp [dropFlight, h]

@[simp] theorem groomPortOff_rest (h : .ev ∈ own ∧ .cont ∈ own ∧ .grm ∈ own) (p : Nat) (s : State) : rest own (groomPortOff p s) = rest own s := by
  simp [groomPortOff, h]

@[simp] theorem groomQuench_rest (h : .ev ∈ own ∧ .cont ∈ own ∧ .grm ∈ own) (s : State) : rest own (groomQuench s) = rest own s := by simp [groomQuench, h]

/-! ### Containers and their frames (R123–R146) -/

@[simp] theorem onPmRec_rest (h : .pm ∈ own) (n i : Nat) (f : PmRec → PmRec) (s : State) : rest own (onPmRec n i f s) = rest own s := by simp [onPmRec, h]

@[simp] theorem pmErrored_rest (h : .pm ∈ own) (n i : Nat) (far : Bool) (k : Nat) (s : State) : rest own (pmErrored n i far k s) = rest own s := by
  simp [pmErrored, h]

@[simp] theorem pmDefect_rest (h : .pm ∈ own) (n i : Nat) (far : Bool) (s : State) : rest own (pmDefect n i far s) = rest own s := by simp [pmDefect, h]

@[simp] theorem noteDefects_rest (h : .ev ∈ own) (c : Nat) (was : List Defect) (now : List Defect) (l : List Defect) (s : State) :
    rest own (noteDefects c was now l s) = rest own s := by
  induction l generalizing s with
  | nil => rfl
  | cons a r ih => simp [noteDefects, ih, h]

@[simp] theorem enterBytes_rest (h : .cont ∈ own) (c : Nat) (bs : List SByte) (s : State) : rest own (enterBytes c bs s) = rest own s := by simp [enterBytes, h]

@[simp] theorem enterFrame_rest (h : .cont ∈ own) (p : Nat) (bs : List SByte) (err : Bool) (s : State) : rest own (enterFrame p bs err s) = rest own s := by
  unfold enterFrame
  (repeat' split) <;> simp [h]

@[simp] theorem enterClient_rest (h : .cont ∈ own) (x : ClientIn) (s : State) : rest own (enterClient x s) = rest own s := by simp [enterClient, h]

@[simp] theorem sourceRow_rest (h : .free ∈ own ∧ .cont ∈ own) (c : Nat) (s : State) : rest own (sourceRow c s).1 = rest own s := by
  unfold sourceRow
  dsimp only
  (repeat' split) <;> simp [h]

@[simp] theorem sourcesRow_rest (h : .free ∈ own ∧ .rows ∈ own ∧ .cont ∈ own) (line : Bool) (l : List (Nat × ContEntry)) (s : State) :
    rest own (sourcesRow line l s) = rest own s := by
  induction l generalizing s with
  | nil => rfl
  | cons a r ih => simp [sourcesRow, ih, h]

@[simp] theorem clearLineTest_rest (h : .rows ∈ own) (s : State) : rest own (clearLineTest s) = rest own s := by simp [clearLineTest, h]
@[simp] theorem injectRow_rest (h : .rows ∈ own) (s : State) : rest own (injectRow s) = rest own s := by simp [injectRow, h]

@[simp] theorem analysersRow_rest (h : .diag ∈ own) (s : State) : rest own (analysersRow s) = rest own s :=
  rest_foldl (fun s _ => rest_foldl (fun s _ => rest_onDiag h s _) _ s) _ s

@[simp] theorem slotUsed_rest (h : .sec ∈ own) (k n : Nat) (s : State) : rest own (slotUsed k n s) = rest own s := by simp [slotUsed, h]

@[simp] theorem deliverItems_rest (h : .free ∈ own ∧ .cont ∈ own) (c : Nat) (e : ContEntry) (l : List StreamItem) (s : State) :
    rest own (deliverItems c e l s) = rest own s := by
  simp [deliverItems, h]

@[simp] theorem deliver_rest (h : .free ∈ own ∧ .ev ∈ own ∧ .cont ∈ own) (c : Nat) (e : ContEntry) (bs : List SByte) (s : State) :
    rest own (deliver c e bs s) = rest own s := by
  simp [deliver, h]

@[simp] theorem releaseFrameRow_rest (h : .free ∈ own ∧ .ev ∈ own ∧ .cont ∈ own ∧ .sec ∈ own) (c : Nat) (e : ContEntry) (s : State) :
    rest own (releaseFrameRow c e s) = rest own s := by
  unfold releaseFrameRow
  dsimp only
  (repeat' split) <;> simp [h]

@[simp] theorem releaseFrameRows_rest (h : .free ∈ own ∧ .ev ∈ own ∧ .cont ∈ own ∧ .sec ∈ own) (c : Nat) (e : ContEntry) (n : Nat) (s : State) :
    rest own (releaseFrameRows c e n s) = rest own s := by
  induction n generalizing s with
  | zero => rfl
  | succ n ih => simp [releaseFrameRows, ih, h]

@[simp] theorem releaseDue_rest (h : .free ∈ own ∧ .ev ∈ own ∧ .cont ∈ own ∧ .sec ∈ own) (c : Nat) (e : ContEntry) (s : State) :
    rest own (releaseDue c e s) = rest own s := by
  simp [releaseDue, h]

@[simp] theorem onBody_rest (h : .cont ∈ own) (c : Nat) (f : BodyRx → BodyRx) (s : State) : rest own (onBody c f s) = rest own s := by simp [onBody, h]

@[simp] theorem applyVerdict_rest (h : .ev ∈ own ∧ .cont ∈ own ∧ .sec ∈ own) (c : Nat) (e : ContEntry) (v : UnitVerdict) (s : State) :
    rest own (applyVerdict c e v s) = rest own s := by
  unfold applyVerdict
  (repeat' split) <;> simp [h]

@[simp] theorem dropUnit_rest (h : .ev ∈ own ∧ .cont ∈ own ∧ .sec ∈ own) (c : Nat) (s : State) : rest own (dropUnit c s) = rest own s := by simp [dropUnit, h]

@[simp] theorem sinksQuench_rest (h : .ev ∈ own ∧ .cont ∈ own ∧ .sec ∈ own) (l : List (Nat × ContEntry)) (s : State) : rest own (sinksQuench l s) = rest own s := by
  induction l generalizing s with
  | nil => rfl
  | cons a r ih => simp [sinksQuench, ih, h]

@[simp] theorem secLckFrame_rest (h : .ev ∈ own ∧ .sec ∈ own) (k : Nat) (unit0 : Bool) (s : State) : rest own (secLckFrame k unit0 s) = rest own s := by
  simp [secLckFrame, h]

@[simp] theorem secMmFrame_rest (h : .ev ∈ own ∧ .cont ∈ own ∧ .sec ∈ own) (c : Nat) (k : Option Nat) (mm : Bool) (s : State) :
    rest own (secMmFrame c k mm s) = rest own s := by
  unfold secMmFrame
  (repeat' split) <;> simp [h]

@[simp] theorem takenFrame_rest (h : .ev ∈ own ∧ .cont ∈ own ∧ .sec ∈ own ∧ .pm ∈ own) (c : Nat) (e : ContEntry) (now : W48) (v : FrameView) (oh : List SByte)
    (s : State) :
    rest own (takenFrame c e now v oh s).1 = rest own s := by
  unfold takenFrame
  extract_lets s1 s2 s3 s4 k req mm s5 s6 locked unit
  have hcount : rest own s2 = rest own s := by simp [s2, s1, h]
  clear_value s2
  have hbdi : rest own s3 = rest own s := by simp [s3, hcount, h]
  clear_value s3
  have hbei : rest own s4 = rest own s := by simp [s4, hbdi, h]
  clear_value s4
  have hmm : rest own s5 = rest own s := by simp [s5, hbei, h]
  clear_value s5 mm req k
  change rest own s6 = rest own s
  cases k <;> simp [s6, hmm, h]

@[simp] theorem contOverhead_rest (h : .free ∈ own ∧ .ev ∈ own ∧ .cont ∈ own ∧ .fab ∈ own ∧ .sec ∈ own ∧ .pm ∈ own ∧ .integ ∈ own) (c rho : Nat) (now : W48)
    (oh : List SByte) (s : State) :
    rest own (contOverhead c rho now oh s) = rest own s := by
  unfold contOverhead
  extract_lets e x unread here s1 verdict s2 y r s3 s4 s5 was t s6 a
  have hssf : rest own s1 = rest own s := by simp [s1, h]
  clear_value s1
  have hverdict : rest own s2 = rest own s := by simp [s2, hssf, h]
  clear_value s2
  have hsink : rest own s3 = rest own s := by simp [s3, hverdict, h]
  clear_value s3
  have hask : rest own s4 = rest own s := by
    cases hk : boundCtx s3 c <;> simp [s4, hk, hsink, h]
  clear_value s4
  have hslag : rest own s5 = rest own s := by simp [s5, hask, h]
  clear_value s5
  have htaken : rest own s6 = rest own s := by simp [s6, t, hslag, h]
  simp [hslag, htaken, h]

@[simp] theorem contFrame_rest (h : .free ∈ own ∧ .ev ∈ own ∧ .cont ∈ own ∧ .fab ∈ own ∧ .sec ∈ own ∧ .pm ∈ own ∧ .integ ∈ own) (c rho : Nat) (s : State) :
    rest own (contFrame c rho s) = rest own s := by
  unfold contFrame
  dsimp only
  (repeat' split) <;> simp [h]

@[simp] theorem sinkRow_rest (h : .free ∈ own ∧ .ev ∈ own ∧ .cont ∈ own ∧ .sec ∈ own) (c : Nat) (e : ContEntry) (s : State) :
    rest own (sinkRow c e s) = rest own s := by
  simp [sinkRow, h]

@[simp] theorem sinksRow_rest (h : .free ∈ own ∧ .ev ∈ own ∧ .cont ∈ own ∧ .sec ∈ own) (l : List (Nat × ContEntry)) (s : State) :
    rest own (sinksRow l s) = rest own s := by
  induction l generalizing s with
  | nil => rfl
  | cons a r ih => simp [sinksRow, ih, h]

/-! ### The transports (R83–R90) -/

@[simp] theorem cmdSizeWrite_rest (h : .cmd ∈ own) (c : Nat) (v : W32) (s : State) : rest own (cmdSizeWrite c v s) = rest own s := by simp [cmdSizeWrite, h]
@[simp] theorem rplSizeWrite_rest (h : .cmd ∈ own) (c : Nat) (v : W32) (s : State) : rest own (rplSizeWrite c v s) = rest own s := by simp [rplSizeWrite, h]
@[simp] theorem rplHeadWrite_rest (h : .cmd ∈ own) (c : Nat) (v : W32) (s : State) : rest own (rplHeadWrite c v s) = rest own s := by simp [rplHeadWrite, h]
@[simp] theorem cmdFlush_rest (h : .cmd ∈ own ∧ .ev ∈ own) (c : Nat) (s : State) : rest own (cmdFlush c s) = rest own s := by simp [cmdFlush, h]
@[simp] theorem rplFlush_rest (h : .cmd ∈ own ∧ .ev ∈ own) (c : Nat) (s : State) : rest own (rplFlush c s) = rest own s := by simp [rplFlush, h]

@[simp] theorem eachOf_rest (f : Nat → State → State) (l : List Nat) (s : State) (hf : ∀ a s, rest own (f a s) = rest own s) :
    rest own (eachOf f l s) = rest own s := by
  induction l generalizing s with
  | nil => rfl
  | cons a r ih => simp [eachOf, ih, hf]

@[simp] theorem intStatusWrite_rest (h : .cmd ∈ own) (w : W32) (s : State) : rest own (intStatusWrite w s) = rest own s := by simp [intStatusWrite, h]
@[simp] theorem bar0Write_rest (h : .cmd ∈ own ∧ .ev ∈ own) (off : Nat) (v : W32) (s : State) : rest own (bar0Write off v s) = rest own s := by simp [bar0Write, h]

@[simp] theorem rawReply_rest (h : .cmd ∈ own ∧ .ev ∈ own) (q : Fin 6) (ws : List W32) (r : Rej) (s : State) : rest own (rawReply q ws r s) = rest own s := by
  simp [rawReply, h]

@[simp] theorem ringPut_rest (h : .cmd ∈ own ∧ .ev ∈ own) (ch : Fin 4) (head : Option W32) (p : List W32) (s : State) :
    rest own (ringPut ch head p s) = rest own s := by
  simp [ringPut, h]

@[simp] theorem ringWrite_rest (h : .cmd ∈ own ∧ .ev ∈ own) (ch : Fin 4) (head : Option W32) (s : State) : rest own (ringWrite ch head s) = rest own s := by
  unfold ringWrite
  (repeat' split) <;> simp [h]

@[simp] theorem spiRead_rest (h : .cmd ∈ own ∧ .ev ∈ own) (clocked : Nat) (s : State) : rest own (spiRead clocked s) = rest own s := by
  unfold spiRead
  (repeat' split) <;> simp [h]

@[simp] theorem advanceHead_rest (h : .cmd ∈ own) (c n : Nat) (s : State) : rest own (advanceHead c n s) = rest own s := by simp [advanceHead, h]

theorem fetch_rest (h : .cmd ∈ own ∧ .ev ∈ own) {push : Nat → List W32 → State → State} (hpush : ∀ q p s, rest own (push q p s) = rest own s) (ch : Fin 4)
    (ws : List W32) (good : Bool) (s : State) : rest own (fetch push ch ws good s) = rest own s := by
  simp [fetch, hpush, h]

theorem spiPacket_rest (h : .cmd ∈ own ∧ .ev ∈ own) {push : Nat → List W32 → State → State} (hpush : ∀ q p s, rest own (push q p s) = rest own s)
    (bs : List Byte) (s : State) : rest own (spiPacket push bs s) = rest own s := by
  simp [spiPacket, hpush, h]

/-- A commit with no removal in its cycle, in which a command would act too. -/
theorem cqCommit_rest (h : .cmd ∈ own ∧ .ev ∈ own) {cyc : CycleOf} (hcyc : cyc ≠ .removal) (q : Nat) (p : List W32) (s : State) :
    rest own (cqCommit cyc q p s) = rest own s := by
  cases cyc with
  | alone => simp [cqCommit, h]
  | flush => simp [cqCommit, h]
  | removal => exact absurd rfl hcyc

/-! ### Protection (R152–R177) -/

@[simp] theorem onGroup_rest (h : .prot ∈ own) (g : Nat) (f : GroupSt → GroupSt) (s : State) : rest own (onGroup g f s) = rest own s := by simp [onGroup, h]
@[simp] theorem onMon_rest (h : .prot ∈ own) (g : Nat) (prot : Bool) (f : MonSt → MonSt) (s : State) : rest own (onMon g prot f s) = rest own s := by simp [onMon, h]

@[simp] theorem monRefresh_rest (h : .prot ∈ own ∧ .pm ∈ own) (g : Nat) (prot : Bool) (s : State) : rest own (monRefresh g prot s) = rest own s := by
  simp [monRefresh, h]

@[simp] theorem holdoffPass_rest (h : .prot ∈ own) (g : Nat) (prot : Bool) (s : State) : rest own (holdoffPass g prot s) = rest own s := by simp [holdoffPass, h]

@[simp] theorem wtrExpire_rest (h : .prot ∈ own) (g : Nat) (s : State) : rest own (wtrExpire g s) = rest own s := by
  unfold wtrExpire
  (repeat' split) <;> simp [h]

@[simp] theorem groupSelect_rest (h : .ev ∈ own ∧ .prot ∈ own ∧ .fab ∈ own ∧ .integ ∈ own) (g : Nat) (c : List W32) (s : State) :
    rest own (groupSelect g c s) = rest own s := by
  simp [groupSelect, h]

@[simp] theorem setFopPm_rest (h : .ev ∈ own ∧ .prot ∈ own) (g : Nat) (on : Bool) (s : State) : rest own (setFopPm g on s) = rest own s := by simp [setFopPm, h]
@[simp] theorem setFopNr_rest (h : .ev ∈ own ∧ .prot ∈ own) (g : Nat) (on : Bool) (s : State) : rest own (setFopNr g on s) = rest own s := by simp [setFopNr, h]

@[simp] theorem acceptAps_rest (h : .ev ∈ own ∧ .prot ∈ own) (g : Nat) (v : List Byte) (s : State) : rest own (acceptAps g v s) = rest own s := by
  simp [acceptAps, h]

@[simp] theorem judgeFop_rest (h : .ev ∈ own ∧ .prot ∈ own) (g : Nat) (c : List W32) (s : State) : rest own (judgeFop g c s) = rest own s := by simp [judgeFop, h]

@[simp] theorem apsFrame_rest (h : .ev ∈ own ∧ .prot ∈ own) (g : Nat) (c : List W32) (fr : List SByte) (s : State) : rest own (apsFrame g c fr s) = rest own s := by
  simp [apsFrame, h]

@[simp] theorem dfopPmDeclare_rest (h : .ev ∈ own ∧ .prot ∈ own) (g : Nat) (s : State) : rest own (dfopPmDeclare g s) = rest own s := by
  unfold dfopPmDeclare
  (repeat' split) <;> simp [h]

@[simp] theorem dfopNrDeclare_rest (h : .ev ∈ own ∧ .prot ∈ own) (g : Nat) (s : State) : rest own (dfopNrDeclare g s) = rest own s := by
  unfold dfopNrDeclare
  (repeat' split) <;> simp [h]

@[simp] theorem playInFrame_rest (h : .prot ∈ own) (g : Nat) (c : List W32) (s : State) : rest own (playInFrame g c s) = rest own s := by simp [playInFrame, h]

@[simp] theorem alnFrame_rest (h : .ev ∈ own ∧ .prot ∈ own) (g : Nat) (prot : Bool) (c : List W32) (s : State) : rest own (alnFrame g prot c s) = rest own s := by
  simp [alnFrame, h]

@[simp] theorem monOverhead_rest (h : .ev ∈ own ∧ .prot ∈ own ∧ .pm ∈ own) (g : Nat) (prot : Bool) (rho : Nat) (now : W48) (oh : List SByte) (s : State) :
    rest own (monOverhead g prot rho now oh s) = rest own s := by
  simp [monOverhead, h]

@[simp] theorem monFrame_rest (h : .ev ∈ own ∧ .prot ∈ own ∧ .pm ∈ own) (g : Nat) (prot : Bool) (rho : Nat) (s : State) :
    rest own (monFrame g prot rho s) = rest own s := by
  unfold monFrame
  dsimp only
  (repeat' split) <;> simp [h]

@[simp] theorem containerFrame_rest (h : .free ∈ own ∧ .ev ∈ own ∧ .cont ∈ own ∧ .prot ∈ own ∧ .fab ∈ own ∧ .sec ∈ own ∧ .pm ∈ own ∧ .integ ∈ own) (k : SinkKind)
    (n rho : Nat) (s : State) :
    rest own (containerFrame k n rho s) = rest own s := by
  cases k <;> simp [containerFrame, h]

@[simp] theorem monRow_rest (h : .prot ∈ own) (g : Nat) (prot : Bool) (c : List W32) (s : State) : rest own (monRow g prot c s) = rest own s := by simp [monRow, h]

@[simp] theorem eachGroup_rest (f : Nat → List W32 → State → State) (l : List (Nat × List W32)) (s : State) (hf : ∀ a b s, rest own (f a b s) = rest own s) :
    rest own (eachGroup f l s) = rest own s := by
  induction l generalizing s with
  | nil => rfl
  | cons a r ih => simp [eachGroup, ih, hf]

@[simp] theorem serverStep_rest (h : .prot ∈ own ∧ .pm ∈ own) (g : Nat) (c : List W32) (prot : Bool) (s : State) :
    rest own (serverStep g c prot s) = rest own s := by
  simp [serverStep, h]

@[simp] theorem groupRow_rest (h : .ev ∈ own ∧ .prot ∈ own ∧ .fab ∈ own ∧ .pm ∈ own ∧ .integ ∈ own) (g : Nat) (c : List W32) (s : State) :
    rest own (groupRow g c s) = rest own s := by
  simp [groupRow, h]

@[simp] theorem storeRow_rest (h : .ev ∈ own ∧ .prot ∈ own) (x : RowIn) (g : Nat) (c : List W32) (prot : Bool) (s : State) :
    rest own (storeRow x g c prot s) = rest own s := by
  simp [storeRow, h]

@[simp] theorem absentRow_rest (h : .free ∈ own ∧ .ev ∈ own ∧ .prot ∈ own) (g : Nat) (c : List W32) (prot : Bool) (fw r : Nat) (s : State) :
    rest own (absentRow g c prot fw r s).1 = rest own s := by
  simp [absentRow, h]

@[simp] theorem readRow_rest (h : .free ∈ own ∧ .ev ∈ own ∧ .prot ∈ own) (x : RowIn) (g : Nat) (c : List W32) (prot : Bool) (fw r : Nat) (s : State) :
    rest own (readRow x g c prot fw r s).1 = rest own s := by
  unfold readRow
  dsimp only
  (repeat' split) <;> simp [h]

@[simp] theorem chooseRow_rest (h : .ev ∈ own) (g sel : Nat) (cur : Bool) (w : PlayRow) (p : PlayRow) (s : State) :
    rest own (chooseRow g sel cur w p s).1 = rest own s := by
  unfold chooseRow
  (repeat' split) <;> simp [h]

@[simp] theorem putIngress_rest (h : .rows ∈ own) (cs : List (Nat × Cell)) (s : State) : rest own (putIngress cs s) = rest own s := by simp [putIngress, h]
@[simp] theorem fillOut_rest (h : .rows ∈ own) (first len : Nat) (f : Fill) (s : State) : rest own (fillOut first len f s) = rest own s := by simp [fillOut, h]

@[simp] theorem stepPlay_rest (h : .ev ∈ own ∧ .prot ∈ own) (g play : Nat) (s : State) : rest own (stepPlay g play s) = rest own s := by
  unfold stepPlay
  (repeat' split) <;> simp [h]

@[simp] theorem playRow_rest (h : .free ∈ own ∧ .ev ∈ own ∧ .rows ∈ own ∧ .prot ∈ own) (x : RowIn) (g : Nat) (c : List W32) (s : State) :
    rest own (playRow x g c s) = rest own s := by
  unfold playRow
  dsimp only
  (repeat' split) <;> simp [h]

@[simp] theorem alnGroupRow_rest (h : .free ∈ own ∧ .ev ∈ own ∧ .rows ∈ own ∧ .prot ∈ own) (x : RowIn) (g : Nat) (c : List W32) (s : State) :
    rest own (alnGroupRow x g c s) = rest own s := by
  simp [alnGroupRow, h]

@[simp] theorem offOutputs_rest (h : .rows ∈ own) (l : List (Nat × GroupSt)) (s : State) : rest own (offOutputs l s) = rest own s := by
  induction l generalizing s with
  | nil => rfl
  | cons y l ih =>
    obtain ⟨n, y⟩ := y
    cases hy : y.offOut <;> simp [offOutputs, ih, hy, h]

@[simp] theorem protRow_rest (h : .free ∈ own ∧ .ev ∈ own ∧ .rows ∈ own ∧ .prot ∈ own) (x : RowIn) (s : State) : rest own (protRow x s) = rest own s := by
  simp [protRow, h]

/-! ### Clocks and the root (R46–R58) -/

@[simp] theorem enterClk_rest (h : .clk ∈ own ∧ .ev ∈ own) (n : ClkState) (s : State) : rest own (enterClk n s) = rest own s := by simp [enterClk, h]
@[simp] theorem loseRef_rest (h : .clk ∈ own ∧ .ev ∈ own) (s : State) : rest own (loseRef s) = rest own s := by simp [loseRef, h]
@[simp] theorem latchQl_rest (h : .clk ∈ own) (s : State) : rest own (latchQl s) = rest own s := by simp [latchQl, h]
@[simp] theorem declareLoss_rest (h : .root ∈ own ∧ .ev ∈ own) (s : State) : rest own (declareLoss s) = rest own s := by simp [declareLoss, h]

@[simp] theorem annReceive_rest (h : .root ∈ own ∧ .ev ∈ own) (p : Nat) (ws : List W32) (arr : Int) (s : State) : rest own (annReceive p ws arr s) = rest own s := by
  simp [annReceive, h]

/-! ### The fabric: envelopes (R192–R212) -/

@[simp] theorem enqueue_rest (h : .ev ∈ own ∧ .fab ∈ own) (high : Bool) (p : Nat) (ws : List W32) (s : State) : rest own (enqueue high p ws s) = rest own s := by
  simp [enqueue, h]

@[simp] theorem enqueueAll_rest (h : .ev ∈ own ∧ .fab ∈ own) (high : Bool) (ws : List W32) (l : List Nat) (s : State) :
    rest own (enqueueAll high ws l s) = rest own s := by
  induction l generalizing s with
  | nil => rfl
  | cons a r ih => simp [enqueueAll, ih, h]

@[simp] theorem ctlPurge_rest (h : .fab ∈ own) (p : Nat) (s : State) : rest own (ctlPurge p s) = rest own s := by simp [ctlPurge, h]

@[simp] theorem envelopeSend_rest (h : .fab ∈ own) (p : Nat) (s : State) : rest own (envelopeSend p s) = rest own s := by
  unfold envelopeSend
  dsimp only
  (repeat' split) <;> simp [h]

@[simp] theorem ccRow_rest (h : .ev ∈ own ∧ .fab ∈ own) (p ptr : Nat) (bs : List Byte) (s : State) : rest own (ccRow p ptr bs s) = rest own s := by simp [ccRow, h]
@[simp] theorem ccLost_rest (h : .ev ∈ own ∧ .fab ∈ own) (p : Nat) (s : State) : rest own (ccLost p s) = rest own s := by simp [ccLost, h]

theorem takeEnvelope_rest (h : .fab ∈ own) {p k : Nat} {ws : List W32} {s t : State} (ht : takeEnvelope p k ws s = some t) : rest own t = rest own s := by
  unfold takeEnvelope at ht
  split at ht
  · obtain rfl := Option.some.inj ht
    simp [h]
  · cases ht

@[simp] theorem helloSend_rest (h : .ev ∈ own ∧ .fab ∈ own) (p : Nat) (s : State) : rest own (helloSend p s) = rest own s := by simp [helloSend, h]
@[simp] theorem helloChange_rest (h : .fab ∈ own) (s : State) : rest own (helloChange s) = rest own s := by simp [helloChange, h]
@[simp] theorem adjDrop_rest (h : .fab ∈ own) (p : Nat) (a : Adj) (s : State) : rest own (adjDrop p a s) = rest own s := by simp [adjDrop, h]
@[simp] theorem adjNone_rest (h : .fab ∈ own) (p : Nat) (s : State) : rest own (adjNone p s) = rest own s := by simp [adjNone, h]
@[simp] theorem helloLoss_rest (h : .ev ∈ own ∧ .fab ∈ own) (p : Nat) (s : State) : rest own (helloLoss p s) = rest own s := by simp [helloLoss, h]
@[simp] theorem lspOriginate_rest (h : .ev ∈ own ∧ .fab ∈ own) (s : State) : rest own (lspOriginate s) = rest own s := by simp [lspOriginate, h]
@[simp] theorem lspAgeing_rest (h : .fab ∈ own) (s : State) : rest own (lspAgeing s) = rest own s := by simp [lspAgeing, h]

@[simp] theorem sendDb_rest (h : .ev ∈ own ∧ .fab ∈ own) (p : Nat) (l : List Lsp) (s : State) : rest own (sendDb p l s) = rest own s := by
  induction l generalizing s with
  | nil => rfl
  | cons a r ih => simp [sendDb, ih, h]

@[simp] theorem helloFresh_rest (h : .fab ∈ own) (p : Nat) (b : List W32) (s : State) : rest own (helloFresh p b s) = rest own s := by simp [helloFresh, h]
@[simp] theorem helloSeen_rest (h : .ev ∈ own ∧ .fab ∈ own) (p : Nat) (b : List W32) (s : State) : rest own (helloSeen p b s) = rest own s := by simp [helloSeen, h]

@[simp] theorem helloTake_rest (h : .ev ∈ own ∧ .fab ∈ own) (p : Nat) (b : List W32) (s : State) : rest own (helloTake p b s) = rest own s := by
  unfold helloTake
  extract_lets s1 old adj t t2
  have hfresh : rest own s1 = rest own s := helloFresh_rest h.2 _ _ _
  clear_value s1
  have hseen : rest own t = rest own s := (helloSeen_rest h _ _ _).trans hfresh
  clear_value t
  have hadj : rest own t2 = rest own s := (rest_onFab h.2 _ _).trans hseen
  clear_value t2
  simp [hseen, hadj, h]

@[simp] theorem helloRx_rest (h : .ev ∈ own ∧ .fab ∈ own) (p : Nat) (ws : List W32) (s : State) : rest own (helloRx p ws s) = rest own s := by
  unfold helloRx
  split
  · rfl
  · next t ht =>
    have htake := takeEnvelope_rest (own := own) h.2 ht
    simp [htake, h]

@[simp] theorem chooseAddr_rest (h : .fab ∈ own) (s : State) : rest own (chooseAddr s) = rest own s := by simp [chooseAddr, h]

@[simp] theorem addrWaitEnd_rest (h : .fab ∈ own) (s : State) : rest own (addrWaitEnd s) = rest own s := by
  unfold addrWaitEnd
  (repeat' split) <;> simp [h]

@[simp] theorem addrClaimed_rest (h : .fab ∈ own) (s : State) : rest own (addrClaimed s) = rest own s := by simp [addrClaimed, h]
@[simp] theorem addrConflict_rest (h : .fab ∈ own) (s : State) : rest own (addrConflict s) = rest own s := by simp [addrConflict, h]

@[simp] theorem lspTake_rest (h : .ev ∈ own ∧ .fab ∈ own) (p origin : Nat) (l : Lsp) (s : State) : rest own (lspTake p origin l s) = rest own s := by
  unfold lspTake
  dsimp only
  (repeat' split) <;> simp [h]

@[simp] theorem lspRx_rest (h : .ev ∈ own ∧ .fab ∈ own) (p : Nat) (ws : List W32) (s : State) : rest own (lspRx p ws s) = rest own s := by
  unfold lspRx
  split
  · rfl
  · next t ht =>
    have htake := takeEnvelope_rest (own := own) h.2 ht
    (repeat' split) <;> simp [htake, h]

@[simp] theorem routeRecompute_rest (h : .fab ∈ own) (s : State) : rest own (routeRecompute s) = rest own s := by simp [routeRecompute, h]

@[simp] theorem routePacket_rest (h : .ev ∈ own ∧ .fab ∈ own ∧ .integ ∈ own) (hops origin : Nat) (ws : List W32) (s : State) :
    rest own (routePacket hops origin ws s) = rest own s := by
  simp [routePacket, h]

@[simp] theorem fabricCommand_rest (h : .cmd ∈ own ∧ .ev ∈ own) (ws : List W32) (s : State) : rest own (fabricCommand ws s) = rest own s := by
  simp [fabricCommand, h]

@[simp] theorem fabricReply_rest (h : .cmd ∈ own ∧ .ev ∈ own) (ws : List W32) (s : State) : rest own (fabricReply ws s) = rest own s := by
  unfold fabricReply
  (repeat' split) <;> simp [h]

@[simp] theorem fabricReplyNext_rest (h : .cmd ∈ own ∧ .ev ∈ own) (ws : List W32) (s : State) : rest own (fabricReplyNext ws s) = rest own s := by
  simp [fabricReplyNext, h]

theorem bcTake_rest (h : .fab ∈ own) {origin bseq : Nat} {s t : State} (ht : bcTake origin bseq s = some t) : rest own t = rest own s := by
  unfold bcTake at ht
  split at ht
  · obtain rfl := Option.some.inj ht
    simp [h]
  · obtain ⟨q, -, rfl⟩ := Option.map_eq_some_iff.mp ht
    simp [h]

@[simp] theorem bcExpiry_rest (h : .fab ∈ own) (s : State) : rest own (bcExpiry s) = rest own s := by simp [bcExpiry, h]
@[simp] theorem floodOn_rest (h : .ev ∈ own ∧ .fab ∈ own) (p : Nat) (ws : List W32) (s : State) : rest own (floodOn p ws s) = rest own s := by simp [floodOn, h]

@[simp] theorem polastTake_rest (h : .cmd ∈ own ∧ .ev ∈ own ∧ .fab ∈ own ∧ .integ ∈ own) (p : Nat) (ws : List W32) (s : State) :
    rest own (polastTake p ws s) = rest own s := by
  simp only [polastTake]
  split
  · simp [h]
  · split
    · split
      · simp [h]
      · next t ht =>
        have hbc := bcTake_rest (own := own) (by simp [h]) ht
        simp [hbc, h]
    · (repeat' split) <;> simp [h]

@[simp] theorem polastRx_rest (h : .cmd ∈ own ∧ .ev ∈ own ∧ .fab ∈ own ∧ .integ ∈ own) (p : Nat) (ws : List W32) (s : State) :
    rest own (polastRx p ws s) = rest own s := by
  unfold polastRx
  split
  · rfl
  · next t ht =>
    have htake := takeEnvelope_rest (own := own) (by simp [h]) ht
    simp [htake, h]

@[simp] theorem drainRq5_rest (h : .cmd ∈ own ∧ .ev ∈ own ∧ .fab ∈ own ∧ .integ ∈ own) (s : State) : rest own (drainRq5 s) = rest own s := by
  unfold drainRq5
  (repeat' split) <;> simp [h]

@[simp] theorem pathSync_rest (h : .anvil ∈ own ∧ .integ ∈ own) (rq : Req) (s : State) : rest own (pathSync rq s) = rest own s := by simp [pathSync, h]

@[simp] theorem pathWrite_rest (h : .anvil ∈ own ∧ .integ ∈ own) (k : Nat) (rq : Req) (s : State) : rest own (pathWrite k rq s) = rest own s := by
  simp [pathWrite, h]

@[simp] theorem pathNext_rest (h : .commits ∈ own ∧ .ev ∈ own ∧ .fab ∈ own) (k level hops origin : Nat) (rq : Req) (packet : List W32) (s : State) :
    rest own (pathNext k level hops origin rq packet s) = rest own s := by
  simp [pathNext, h]

@[simp] theorem pathHop_rest (h : .commits ∈ own ∧ .cmd ∈ own ∧ .ev ∈ own ∧ .anvil ∈ own ∧ .fab ∈ own ∧ .store ∈ own ∧ .integ ∈ own) (p level k hops origin : Nat)
    (packet : List W32) (s : State) :
    rest own (pathHop p level k hops origin packet s) = rest own s := by
  unfold pathHop
  dsimp only
  (repeat' split) <;> simp [h]

@[simp] theorem pathHopRx_rest (h : .commits ∈ own ∧ .cmd ∈ own ∧ .ev ∈ own ∧ .anvil ∈ own ∧ .fab ∈ own ∧ .store ∈ own ∧ .integ ∈ own) (p : Nat) (ws : List W32)
    (s : State) :
    rest own (pathHopRx p ws s) = rest own s := by
  unfold pathHopRx
  split
  · rfl
  · next t ht =>
    have htake := takeEnvelope_rest (own := own) (by simp [h]) ht
    simp [htake, h]

/-! ### The fabric: ports and link rows (R178–R191) -/

@[simp] theorem enterTrain_rest (h : .fab ∈ own ∧ .cli ∈ own) (p : Nat) (s : State) : rest own (enterTrain p s) = rest own s := by simp [enterTrain, h]
@[simp] theorem enterDown_rest (h : .ev ∈ own ∧ .fab ∈ own ∧ .cli ∈ own) (p : Nat) (s : State) : rest own (enterDown p s) = rest own s := by simp [enterDown, h]
@[simp] theorem enterSync_rest (h : .ev ∈ own ∧ .fab ∈ own ∧ .pm ∈ own) (p : Nat) (s : State) : rest own (enterSync p s) = rest own s := by simp [enterSync, h]

@[simp] theorem declareFlos_rest (h : .clk ∈ own ∧ .root ∈ own ∧ .ev ∈ own ∧ .fab ∈ own ∧ .pm ∈ own) (p : Nat) (s : State) :
    rest own (declareFlos p s) = rest own s := by
  simp [declareFlos, h]

@[simp] theorem huntTimeoutFab_rest (h : .fab ∈ own ∧ .cli ∈ own) (p : Nat) (s : State) : rest own (huntTimeoutFab p s) = rest own s := by simp [huntTimeoutFab, h]

@[simp] theorem sendLanes_rest (h : .ev ∈ own ∧ .cli ∈ own) (p : Nat) (syms : List Nat) (l : List Nat) (s : State) :
    rest own (sendLanes p syms l s) = rest own s := by
  induction l generalizing s with
  | nil => rfl
  | cons a r ih => simp [sendLanes, ih, h]

@[simp] theorem fabSend_rest (h : .ev ∈ own ∧ .fab ∈ own ∧ .cli ∈ own) (p : Nat) (s : State) : rest own (fabSend p s) = rest own s := by simp [fabSend, h]

@[simp] theorem resendLanes_rest (h : .cli ∈ own) (p : Nat) (r : LinkRow) (l : List Nat) (s : State) : rest own (resendLanes p r l s) = rest own s := by
  induction l generalizing s with
  | nil => rfl
  | cons a r ih => simp [resendLanes, ih, h]

@[simp] theorem fecCount_rest (h : .ev ∈ own) (p : Nat) (r : RowGot) (s : State) : rest own (fecCount p r s) = rest own s := by simp [fecCount, h]

@[simp] theorem alignPush_rest (h : .ev ∈ own ∧ .fab ∈ own) (p t : Nat) (cells : List (Nat × Cell)) (s : State) : rest own (alignPush p t cells s) = rest own s := by
  simp [alignPush, h]

@[simp] theorem rowHeader_rest (h : .root ∈ own ∧ .ev ∈ own ∧ .fab ∈ own ∧ .pm ∈ own) (p : Nat) (r : RowGot) (s : State) :
    rest own (rowHeader p r s) = rest own s := by
  simp [rowHeader, h]

@[simp] theorem huntRow_rest (h : .ev ∈ own ∧ .fab ∈ own ∧ .pm ∈ own) (p : Nat) (r : RowGot) (s : State) : rest own (huntRow p r s) = rest own s := by
  simp [huntRow, h]

@[simp] theorem syncRow_rest (h : .clk ∈ own ∧ .root ∈ own ∧ .ev ∈ own ∧ .fab ∈ own ∧ .pm ∈ own) (p : Nat) (r : RowGot) (s : State) :
    rest own (syncRow p r s) = rest own s := by
  simp [syncRow, h]

@[simp] theorem judgeRow_rest (h : .clk ∈ own ∧ .root ∈ own ∧ .ev ∈ own ∧ .fab ∈ own ∧ .pm ∈ own) (p : Nat) (r : RowGot) (s : State) :
    rest own (judgeRow p r s) = rest own s := by
  simp [judgeRow, h]

@[simp] theorem linkRow_rest (h : .clk ∈ own ∧ .root ∈ own ∧ .ev ∈ own ∧ .fab ∈ own ∧ .cli ∈ own ∧ .pm ∈ own) (p : Nat) (r : LinkRow) (s : State) :
    rest own (linkRow p r s) = rest own s := by
  unfold linkRow
  dsimp only
  (repeat' split) <;> simp [h]

@[simp] theorem releaseRow_rest (h : .ev ∈ own ∧ .fab ∈ own) (p : Nat) (s : State) : rest own (releaseRow p s).1 = rest own s := by
  unfold releaseRow
  dsimp only
  (repeat' split) <;> simp [h]

@[simp] theorem fabIngress_rest (h : .ev ∈ own ∧ .rows ∈ own ∧ .fab ∈ own) (l : List Nat) (s : State) : rest own (fabIngress l s) = rest own s := by
  induction l generalizing s with
  | nil => rfl
  | cons p l ih =>
    simp only [fabIngress, ih]
    split <;> simp [h]

/-! ### Line engines (R222–R265) -/

@[simp] theorem onTxEng_rest (h : .tx ∈ own) (e : Nat) (f : TxSt → TxSt) (s : State) : rest own (onTxEng e f s) = rest own s := by simp [onTxEng, h]
@[simp] theorem rampRow_rest (h : .tx ∈ own) (s : State) : rest own (rampRow s) = rest own s := by simp [rampRow, h]
@[simp] theorem calLimit_rest (h : .ev ∈ own ∧ .tx ∈ own) (e l : Nat) (s : State) : rest own (calLimit e l s) = rest own s := by simp [calLimit, h]
@[simp] theorem onRxEng_rest (h : .rx ∈ own) (e : Nat) (f : RxSt → RxSt) (s : State) : rest own (onRxEng e f s) = rest own s := by simp [onRxEng, h]
@[simp] theorem rxTimers_rest (h : .rx ∈ own) (e : Nat) (s : State) : rest own (rxTimers e s) = rest own s := by simp [rxTimers, h]
@[simp] theorem onOtnE_rest (h : .otn ∈ own) (e : Nat) (f : OtnSt → OtnSt) (s : State) : rest own (onOtnE e f s) = rest own s := by simp [onOtnE, h]

@[simp] theorem otnDefect_rest (h : .otn ∈ own ∧ .ev ∈ own) (e : Nat) (d : LineDefect) (ev : Ev) (now : Bool) (s : State) :
    rest own (otnDefect e d ev now s) = rest own s := by
  simp [otnDefect, h]

@[simp] theorem otnOff_rest (h : .otn ∈ own ∧ .ev ∈ own) (e : Nat) (s : State) : rest own (otnOff e s) = rest own s := by simp [otnOff, h]

@[simp] theorem rxLosf_rest (h : .clk ∈ own ∧ .ev ∈ own ∧ .rx ∈ own) (e : Nat) (now : Bool) (s : State) : rest own (rxLosf e now s) = rest own s := by
  simp [rxLosf, h]

@[simp] theorem rxLos_rest (h : .ev ∈ own ∧ .rx ∈ own) (e : Nat) (now : Bool) (s : State) : rest own (rxLos e now s) = rest own s := by simp [rxLos, h]
@[simp] theorem clearDescMm_rest (h : .ev ∈ own ∧ .rx ∈ own) (e : Nat) (s : State) : rest own (clearDescMm e s) = rest own s := by simp [clearDescMm, h]
@[simp] theorem countDescMm_rest (h : .ev ∈ own ∧ .rx ∈ own) (e : Nat) (s : State) : rest own (countDescMm e s) = rest own s := by simp [countDescMm, h]
@[simp] theorem cdLimitClear_rest (h : .ev ∈ own ∧ .rx ∈ own) (e : Nat) (s : State) : rest own (cdLimitClear e s) = rest own s := by simp [cdLimitClear, h]

@[simp] theorem rxEnter_rest (h : .otn ∈ own ∧ .clk ∈ own ∧ .ev ∈ own ∧ .rx ∈ own) (st : RxState) (e : Nat) (s : State) :
    rest own (rxEnter st e s) = rest own s := by
  simp [rxEnter, h]

@[simp] theorem rxScan_rest (h : .otn ∈ own ∧ .clk ∈ own ∧ .ev ∈ own ∧ .rx ∈ own) (e : Nat) (s : State) : rest own (rxScan e s) = rest own s := by simp [rxScan, h]

@[simp] theorem huntExpire_rest (h : .otn ∈ own ∧ .clk ∈ own ∧ .ev ∈ own ∧ .rx ∈ own) (left e : Nat) (s : State) : rest own (huntExpire left e s) = rest own s := by
  simp [huntExpire, h]

@[simp] theorem rxHunt_rest (h : .otn ∈ own ∧ .clk ∈ own ∧ .ev ∈ own ∧ .rx ∈ own) (e : Nat) (s : State) : rest own (rxHunt e s) = rest own s := by simp [rxHunt, h]

@[simp] theorem rxLeaveNosig_rest (h : .otn ∈ own ∧ .clk ∈ own ∧ .ev ∈ own ∧ .rx ∈ own) (e : Nat) (s : State) : rest own (rxLeaveNosig e s) = rest own s := by
  simp [rxLeaveNosig, h]

@[simp] theorem rxOff_rest (h : .otn ∈ own ∧ .clk ∈ own ∧ .ev ∈ own ∧ .rx ∈ own) (e : Nat) (s : State) : rest own (rxOff e s) = rest own s := by simp [rxOff, h]

@[simp] theorem drxlos_rest (h : .otn ∈ own ∧ .clk ∈ own ∧ .ev ∈ own ∧ .rx ∈ own) (e : Nat) (lanes : List Nat) (rows : Nat) (s : State) :
    rest own (drxlos e lanes rows s) = rest own s := by
  simp [drxlos, h]

@[simp] theorem drxlosClear_rest (h : .otn ∈ own ∧ .clk ∈ own ∧ .ev ∈ own ∧ .rx ∈ own) (e : Nat) (lanes : List Nat) (rows : Nat) (s : State) :
    rest own (drxlosClear e lanes rows s) = rest own s := by
  simp [drxlosClear, h]

@[simp] theorem cdScanDone_rest (h : .otn ∈ own ∧ .clk ∈ own ∧ .ev ∈ own ∧ .rx ∈ own) (e : Nat) (tones : List Nat) (s : State) :
    rest own (cdScanDone e tones s) = rest own s := by
  simp [cdScanDone, h]

@[simp] theorem huntTimeout_rest (h : .otn ∈ own ∧ .clk ∈ own ∧ .ev ∈ own ∧ .rx ∈ own) (e : Nat) (s : State) : rest own (huntTimeout e s) = rest own s := by
  unfold huntTimeout
  dsimp only
  (repeat' split) <;> simp [h]

@[simp] theorem descNote_rest (h : .ev ∈ own ∧ .rx ∈ own) (e : Nat) (d : W64) (n : Nat) (v : DescView) (s : State) : rest own (descNote e d n v s) = rest own s := by
  unfold descNote
  (repeat' split) <;> simp [h]

@[simp] theorem takeCand_rest (h : .ev ∈ own ∧ .rx ∈ own) (k : Cand) (e : Nat) (s : State) : rest own (takeCand k e s) = rest own s := by simp [takeCand, h]

@[simp] theorem verifyPeak_rest (h : .ev ∈ own ∧ .rx ∈ own) (e : Nat) (k : Cand) (c : Cand) (s : State) : rest own (verifyPeak e k c s) = rest own s := by
  simp [verifyPeak, h]

@[simp] theorem headerCandidate_rest (h : .ev ∈ own ∧ .rx ∈ own) (e : Nat) (pk : Peak) (s : State) : rest own (headerCandidate e pk s) = rest own s := by
  unfold headerCandidate
  dsimp only
  (repeat' split) <;> simp [h]

@[simp] theorem rxLocked_rest (h : .otn ∈ own ∧ .clk ∈ own ∧ .ev ∈ own ∧ .rx ∈ own) (e : Nat) (s : State) : rest own (rxLocked e s) = rest own s := by
  simp [rxLocked, h]

@[simp] theorem candFail_rest (h : .otn ∈ own ∧ .clk ∈ own ∧ .ev ∈ own ∧ .rx ∈ own) (e n : Nat) (s : State) : rest own (candFail e n s) = rest own s := by
  unfold candFail
  dsimp only
  (repeat' split) <;> simp [h]

@[simp] theorem windowSeen_rest (h : .rx ∈ own) (e : Nat) (k : Cand) (hw : HeaderWindow) (v : PeakView) (s : State) :
    rest own (windowSeen e k hw v s) = rest own s := by
  simp [windowSeen, h]

@[simp] theorem headerRefine_rest (h : .rx ∈ own) (e : Nat) (df : Int) (w : RxWave) (s : State) : rest own (headerRefine e df w s) = rest own s := by
  simp [headerRefine, h]

@[simp] theorem verifyWindow_rest (h : .otn ∈ own ∧ .clk ∈ own ∧ .ev ∈ own ∧ .rx ∈ own) (e : Nat) (k : Cand) (hw : HeaderWindow) (s : State) :
    rest own (verifyWindow e k hw s) = rest own s := by
  simp [verifyWindow, h]

@[simp] theorem lockedTrack_rest (h : .ev ∈ own ∧ .rx ∈ own) (e sfc : Nat) (desc : Option W64) (w : RxWave) (s : State) :
    rest own (lockedTrack e sfc desc w s) = rest own s := by
  simp [lockedTrack, h]

@[simp] theorem lockedWindow_rest (h : .otn ∈ own ∧ .clk ∈ own ∧ .ev ∈ own ∧ .rx ∈ own) (e : Nat) (k : Cand) (hw : HeaderWindow) (s : State) :
    rest own (lockedWindow e k hw s) = rest own s := by
  simp [lockedWindow, h]

@[simp] theorem headerWindowEnd_rest (h : .otn ∈ own ∧ .clk ∈ own ∧ .ev ∈ own ∧ .rx ∈ own) (e : Nat) (hw : HeaderWindow) (s : State) :
    rest own (headerWindowEnd e hw s) = rest own s := by
  unfold headerWindowEnd
  dsimp only
  (repeat' split) <;> simp [h]

@[simp] theorem cdTrackLimit_rest (h : .ev ∈ own ∧ .rx ∈ own) (e : Nat) (s : State) : rest own (cdTrackLimit e s) = rest own s := by simp [cdTrackLimit, h]

@[simp] theorem slipRow_rest (h : .ev ∈ own) (l : List (Nat × Nat)) (s : State) : rest own (slipRow l s) = rest own s := by
  induction l generalizing s with
  | nil => rfl
  | cons a r ih => simp [slipRow, ih, h]

/-! ### Optics (R373–R393) -/

@[simp] theorem onHk_rest (h : .opt ∈ own) (c : Nat) (f : HkSt → HkSt) (s : State) : rest own (onHk c f s) = rest own s := by simp [onHk, h]
@[simp] theorem onOut_rest (h : .opt ∈ own) (n : Nat) (f : OutSt → OutSt) (s : State) : rest own (onOut n f s) = rest own s := by simp [onOut, h]
@[simp] theorem onBl_rest (h : .opt ∈ own) (l : Nat) (f : BlSt → BlSt) (s : State) : rest own (onBl l f s) = rest own s := by simp [onBl, h]
@[simp] theorem onI2c_rest (h : .opt ∈ own) (m : Nat) (f : I2cSt → I2cSt) (s : State) : rest own (onI2c m f s) = rest own s := by simp [onI2c, h]
@[simp] theorem onFilt_rest (h : .opt ∈ own) (c e : Nat) (f : HkFilter → HkFilter) (s : State) : rest own (onFilt c e f s) = rest own s := by simp [onFilt, h]

@[simp] theorem hkResult_rest (h : .ev ∈ own ∧ .opt ∈ own) (c e raw : Nat) (ovr stale : Bool) (w : W32) (s : State) :
    rest own (hkResult c e raw ovr stale w s) = rest own s := by
  simp [hkResult, h]

@[simp] theorem blStop_rest (h : .opt ∈ own) (l : Nat) (s : State) : rest own (blStop l s) = rest own s := by simp [blStop, h]

@[simp] theorem eachBl_rest (f : Nat → State → State) (l : List Nat) (s : State) (hf : ∀ a s, rest own (f a s) = rest own s) :
    rest own (eachBl f l s) = rest own s := by
  induction l generalizing s with
  | nil => rfl
  | cons a r ih => simp [eachBl, ih, hf]

@[simp] theorem blSample_rest (h : .opt ∈ own) (c e raw start l : Nat) (s : State) : rest own (blSample c e raw start l s) = rest own s := by
  unfold blSample
  dsimp only
  (repeat' split) <;> simp [h]

@[simp] theorem hkDeliver_rest (h : .ev ∈ own ∧ .opt ∈ own) (c : Nat) (r : HkRun) (nv : Int) (s : State) : rest own (hkDeliver c r nv s) = rest own s := by
  simp [hkDeliver, h]

@[simp] theorem hkConversionDone_rest (h : .ev ∈ own ∧ .opt ∈ own) (c e : Nat) (vin : List (Fin 32 × Int)) (s : State) :
    rest own (hkConversionDone c e vin s) = rest own s := by
  unfold hkConversionDone
  (repeat' split) <;> simp [h]

@[simp] theorem blCorrect_rest (h : .ev ∈ own ∧ .opt ∈ own) (l : Nat) (c : Int) (s : State) : rest own (blCorrect l c s) = rest own s := by simp [blCorrect, h]

@[simp] theorem blWindowEnd_rest (h : .ev ∈ own ∧ .opt ∈ own) (l : Nat) (s : State) : rest own (blWindowEnd l s) = rest own s := by
  unfold blWindowEnd
  dsimp only
  (repeat' split) <;> simp [h]

@[simp] theorem optQuench_rest (h : .opt ∈ own) (s : State) : rest own (optQuench s) = rest own s := by simp [optQuench, h]

@[simp] theorem i2cXferDone_rest (h : .cmd ∈ own ∧ .ev ∈ own ∧ .opt ∈ own ∧ .keys ∈ own) (m : Nat) (r : I2cResult) (s : State) :
    rest own (i2cXferDone m r s) = rest own s := by
  unfold i2cXferDone
  (repeat' split) <;> simp [h]

/-! ### Codewords, frames and row blocks (R273–R295) -/

@[simp] theorem iterRow_rest (h : .otn ∈ own) (e : Nat) (s : State) : rest own (iterRow e s) = rest own s := by simp [iterRow, h]

@[simp] theorem cwTestStep_rest (h : .otn ∈ own ∧ .ev ∈ own) (e phase : Nat) (good : Bool) (s : State) : rest own (cwTestStep e phase good s) = rest own s := by
  simp [cwTestStep, h]

@[simp] theorem cwCount_rest (h : .otn ∈ own ∧ .ev ∈ own) (e : Nat) (r : CodewordIn) (v : CodewordView) (s : State) : rest own (cwCount e r v s) = rest own s := by
  simp [cwCount, h]

@[simp] theorem codewordDecode_rest (h : .otn ∈ own ∧ .ev ∈ own) (e : Nat) (r : CodewordIn) (s : State) : rest own (codewordDecode e r s) = rest own s := by
  simp [codewordDecode, h]

@[simp] theorem onOtnId_rest (h : .otn ∈ own ∧ .cli ∈ own) (id : OtnId) (f : OtnSt → OtnSt) (s : State) : rest own (onOtnId id f s) = rest own s := by
  unfold onOtnId
  (repeat' split) <;> simp [h]

@[simp] theorem idDefect_rest (h : .otn ∈ own ∧ .ev ∈ own ∧ .cli ∈ own) (id : OtnId) (d : LineDefect) (now : Bool) (s : State) :
    rest own (idDefect id d now s) = rest own s := by
  simp [idDefect, h]

@[simp] theorem commonDefect_rest (h : .otn ∈ own ∧ .ev ∈ own ∧ .cli ∈ own) (id : OtnId) (d : LineDefect) (now : Bool) (s : State) :
    rest own (commonDefect id d now s) = rest own s := by
  simp [commonDefect, h]

@[simp] theorem onSlice_rest (h : .otn ∈ own ∧ .cli ∈ own) (id : OtnId) (i : Nat) (f : SliceSt → SliceSt) (s : State) :
    rest own (onSlice id i f s) = rest own s := by
  simp [onSlice, h]

@[simp] theorem huntFrames_rest (h : .otn ∈ own ∧ .cli ∈ own) (id : OtnId) (hits : List (Nat × Byte)) (s : State) :
    rest own (huntFrames id hits s) = rest own s := by
  simp [huntFrames, h]

@[simp] theorem framePersist_rest (h : .otn ∈ own ∧ .ev ∈ own ∧ .cli ∈ own) (id : OtnId) (d : LineDefect) (k on off : Nat) (cond : Bool) (s : State) :
    rest own (framePersist id d k on off cond s) = rest own s := by
  simp [framePersist, h]

@[simp] theorem ttiAccept_rest (h : .otn ∈ own ∧ .ev ∈ own ∧ .cli ∈ own) (id : OtnId) (pm : Bool) (t : List Byte) (s : State) :
    rest own (ttiAccept id pm t s) = rest own s := by
  simp [ttiAccept, h]

@[simp] theorem ttiByte_rest (h : .otn ∈ own ∧ .ev ∈ own ∧ .cli ∈ own) (id : OtnId) (pm : Bool) (k : Nat) (b : Byte) (s : State) :
    rest own (ttiByte id pm k b s) = rest own s := by
  simp [ttiByte, h]

@[simp] theorem ptByte_rest (h : .otn ∈ own ∧ .ev ∈ own ∧ .cli ∈ own) (id : OtnId) (b : Byte) (s : State) : rest own (ptByte id b s) = rest own s := by
  simp [ptByte, h]

@[simp] theorem framePm_rest (h : .pm ∈ own) (id : OtnId) (v : List SliceView) (s : State) : rest own (framePm id v s) = rest own s := by simp [framePm, h]
@[simp] theorem frameCount_rest (h : .ev ∈ own) (id : OtnId) (v : List SliceView) (s : State) : rest own (frameCount id v s) = rest own s := by simp [frameCount, h]
@[simp] theorem farDefect_rest (h : .pm ∈ own) (id : OtnId) (pm : Bool) (s : State) : rest own (farDefect id pm s) = rest own s := by simp [farDefect, h]

@[simp] theorem frameOverhead_rest (h : .otn ∈ own ∧ .ev ∈ own ∧ .cli ∈ own ∧ .pm ∈ own) (id : OtnId) (fr : List SByte) (s : State) :
    rest own (frameOverhead id fr s) = rest own s := by
  simp [frameOverhead, h]

@[simp] theorem otnFrame_rest (h : .otn ∈ own ∧ .ev ∈ own ∧ .cli ∈ own ∧ .pm ∈ own) (id : OtnId) (slices : List (List SByte)) (s : State) :
    rest own (otnFrame id slices s) = rest own s := by
  simp [otnFrame, h]

@[simp] theorem lineFrameRx_rest (h : .otn ∈ own ∧ .ev ∈ own ∧ .cli ∈ own ∧ .pm ∈ own) (e : Fin 4) (s : State) : rest own (lineFrameRx e s) = rest own s := by
  simp [lineFrameRx, h]

@[simp] theorem otucFrameRx_rest (h : .otn ∈ own ∧ .ev ∈ own ∧ .cli ∈ own ∧ .pm ∈ own) (id : OtnId) (fr : OtucFrame) (s : State) :
    rest own (otucFrameRx id fr s) = rest own s := by
  unfold otucFrameRx
  (repeat' split) <;> simp [h]

@[simp] theorem dlof_rest (h : .otn ∈ own ∧ .ev ∈ own ∧ .cli ∈ own) (id : OtnId) (s : State) : rest own (dlof id s) = rest own s := by simp [dlof, h]
@[simp] theorem dlom_rest (h : .otn ∈ own ∧ .ev ∈ own ∧ .cli ∈ own) (id : OtnId) (s : State) : rest own (dlom id s) = rest own s := by simp [dlom, h]
@[simp] theorem lineTxRow_rest (h : .otn ∈ own ∧ .cli ∈ own) (e : Nat) (s : State) : rest own (lineTxRow e s) = rest own s := by simp [lineTxRow, h]

@[simp] theorem sendSlice_rest (h : .free ∈ own ∧ .otn ∈ own ∧ .cli ∈ own) (id : OtnId) (opu : List (List Byte)) (k : Nat) (s : State) :
    rest own (sendSlice id opu k s).1 = rest own s := by
  simp [sendSlice, h]

@[simp] theorem sendSlices_rest (h : .free ∈ own ∧ .otn ∈ own ∧ .cli ∈ own) (id : OtnId) (opu : List (List Byte)) (l : List Nat) (s : State) :
    rest own (sendSlices id opu l s).1 = rest own s := by
  induction l generalizing s with
  | nil => rfl
  | cons a r ih => simp [sendSlices, ih, h]

@[simp] theorem sendFrame_rest (h : .free ∈ own ∧ .otn ∈ own ∧ .cli ∈ own) (id : OtnId) (opu : List (List Byte)) (n : Nat) (s : State) :
    rest own (sendFrame id opu n s).1 = rest own s := by
  simp [sendFrame, h]

@[simp] theorem otucFrameTx_rest (h : .free ∈ own ∧ .otn ∈ own ∧ .tx ∈ own ∧ .cli ∈ own) (id : OtnId) (opu : List (List Byte)) (s : State) :
    rest own (otucFrameTx id opu s) = rest own s := by
  unfold otucFrameTx
  (repeat' split) <;> simp [h]

@[simp] theorem fixAlign_rest (h : .otn ∈ own) (e row : Nat) (s : State) : rest own (fixAlign e row s) = rest own s := by simp [fixAlign, h]

@[simp] theorem rowBlockRx_rest (h : .otn ∈ own ∧ .ev ∈ own ∧ .cli ∈ own) (e : Fin 4) (k : Nat) (s : State) : rest own (rowBlockRx e k s) = rest own s := by
  unfold rowBlockRx
  dsimp only
  (repeat' split) <;> simp [h]

@[simp] theorem lineSsf_rest (h : .otn ∈ own ∧ .ev ∈ own ∧ .cli ∈ own) (id : OtnId) (s : State) : rest own (lineSsf id s) = rest own s := by
  unfold lineSsf
  (repeat' split) <;> simp [h]

@[simp] theorem otnPmRow_rest (h : .pm ∈ own) (id : OtnId) (s : State) : rest own (otnPmRow id s) = rest own s := by simp [otnPmRow, h]
@[simp] theorem lineFill_rest (h : .rows ∈ own) (e : Nat) (f : Fill) (s : State) : rest own (lineFill e f s) = rest own s := by simp [lineFill, h]
@[simp] theorem alignOverflow_rest (h : .otn ∈ own ∧ .ev ∈ own) (e : Nat) (s : State) : rest own (alignOverflow e s) = rest own s := by simp [alignOverflow, h]

@[simp] theorem lineIngress_rest (h : .otn ∈ own ∧ .ev ∈ own ∧ .rows ∈ own) (e : Nat) (s : State) : rest own (lineIngress e s) = rest own s := by
  unfold lineIngress
  dsimp only
  (repeat' split) <;> simp [h]

@[simp] theorem framesRow_rest (h : .otn ∈ own ∧ .ev ∈ own ∧ .cli ∈ own) (id : OtnId) (s : State) : rest own (framesRow id s) = rest own s := by simp [framesRow, h]

/-! ### QUENCH and faults (R400–R402, R423) -/

@[simp] theorem keyServiceTake_rest (h : .sec ∈ own) (d : Deferred) (s : State) : rest own (keyServiceTake d s) = rest own s := by simp [keyServiceTake, h]
@[simp] theorem keyRelease_rest (h : .sec ∈ own) (s : State) : rest own (keyRelease s) = rest own s := by simp [keyRelease, h]
@[simp] theorem zeroiseContexts_rest (h : .sec ∈ own) (s : State) : rest own (zeroiseContexts s) = rest own s := by simp [zeroiseContexts, h]
@[simp] theorem discardCommits_rest (h : .commits ∈ own ∧ .ev ∈ own) (s : State) : rest own (discardCommits s) = rest own s := by simp [discardCommits, h]

@[simp] theorem linesQuench_rest (h : .otn ∈ own ∧ .clk ∈ own ∧ .ev ∈ own ∧ .tx ∈ own ∧ .rx ∈ own) (s : State) : rest own (linesQuench s) = rest own s := by
  simp [linesQuench, h]

@[simp] theorem clientsQuench_rest (h : .ev ∈ own ∧ .cont ∈ own ∧ .cli ∈ own ∧ .grm ∈ own ∧ .mode ∈ own) (s : State) : rest own (clientsQuench s) = rest own s := by
  simp [clientsQuench, h]

@[simp] theorem fabricQuench_rest (h : .ev ∈ own ∧ .fab ∈ own ∧ .cli ∈ own) (s : State) : rest own (fabricQuench s) = rest own s := by simp [fabricQuench, h]

section
variable (h : .commits ∈ own ∧ .otn ∈ own ∧ .clk ∈ own ∧ .cmd ∈ own ∧ .ev ∈ own ∧ .anvil ∈ own ∧ .cont ∈ own ∧ .fab ∈ own ∧ .tx ∈ own ∧ .rx ∈ own ∧ .cli ∈ own ∧
  .grm ∈ own ∧ .sec ∈ own ∧ .opt ∈ own ∧ .mode ∈ own ∧ .boot ∈ own ∧ .keys ∈ own ∧ .store ∈ own)
include h

@[simp] theorem enterQuench_rest (s : State) : rest own (enterQuench s) = rest own s := by simp [enterQuench, h]
@[simp] theorem declareFault_rest (f : SevereFault) (s : State) : rest own (declareFault f s) = rest own s := by simp [declareFault, h]
@[simp] theorem retireCore_rest (c : Nat) (s : State) : rest own (retireCore c s) = rest own s := by simp [retireCore, h]
@[simp] theorem coreSelfTest_rest (c : Nat) (pass : Bool) (s : State) : rest own (coreSelfTest c pass s) = rest own s := by simp [coreSelfTest, h]

end

@[simp] theorem clearFault_rest (h : .ev ∈ own ∧ .mode ∈ own) (f : SevereFault) (s : State) : rest own (clearFault f s) = rest own s := by simp [clearFault, h]

@[simp] theorem severeClear_rest (h : .ev ∈ own ∧ .mode ∈ own) (f : SevereFault) (strokes : Nat) (s : State) : rest own (severeClear f strokes s) = rest own s := by
  unfold severeClear
  (repeat' split) <;> simp [h]

/-! ### The boot, the key lock and the store (R367–R369, R404–R422) -/

@[simp] theorem bootFail_rest (h : .boot ∈ own) (code : Nat) (s : State) : rest own (bootFail code s) = rest own s := by simp [bootFail, h]

@[simp] theorem romStartDone_rest (h : .boot ∈ own) (s : State) : rest own (romStartDone s) = rest own s := by
  unfold romStartDone
  dsimp only
  (repeat' split) <;> simp [h]

@[simp] theorem fwStartDone_rest (h : .opt ∈ own ∧ .mode ∈ own ∧ .boot ∈ own ∧ .store ∈ own) (badBanks : List Nat) (s : State) :
    rest own (fwStartDone badBanks s) = rest own s := by
  simp [fwStartDone, h]

@[simp] theorem calibrationDone_rest (h : .tx ∈ own ∧ .boot ∈ own) (s : State) : rest own (calibrationDone s) = rest own s := by simp [calibrationDone, h]
@[simp] theorem storeEnds_rest (h : .store ∈ own) (d : Deferred) (s : State) : rest own (storeEnds d s) = rest own s := by simp [storeEnds, h]

@[simp] theorem keyLockGrant_rest (h : .cmd ∈ own ∧ .ev ∈ own ∧ .sec ∈ own ∧ .keys ∈ own ∧ .store ∈ own) (s : State) : rest own (keyLockGrant s) = rest own s := by
  unfold keyLockGrant
  dsimp only
  (repeat' split) <;> simp [h]

@[simp] theorem keyWaitExpiry_rest (h : .cmd ∈ own ∧ .ev ∈ own ∧ .sec ∈ own ∧ .keys ∈ own ∧ .store ∈ own) (l : List KeyWait) (s : State) :
    rest own (keyWaitExpiry l s) = rest own s := by
  induction l generalizing s with
  | nil => rfl
  | cons a r ih => simp [keyWaitExpiry, ih, h]

@[simp] theorem keyLockTimeout_rest (h : .cmd ∈ own ∧ .ev ∈ own ∧ .sec ∈ own ∧ .keys ∈ own ∧ .store ∈ own) (s : State) :
    rest own (keyLockTimeout s) = rest own s := by
  unfold keyLockTimeout
  dsimp only
  (repeat' split) <;> simp [h]

@[simp] theorem putProfile_rest (h : .store ∈ own) (b : Bool) (p : Option Profile) (s : State) : rest own (putProfile b p s) = rest own s := by simp [putProfile, h]

@[simp] theorem storeDone_rest (h : .cmd ∈ own ∧ .ev ∈ own ∧ .keys ∈ own ∧ .store ∈ own) (s : State) : rest own (storeDone s) = rest own s := by
  unfold storeDone
  (repeat' split) <;> simp [h]

@[simp] theorem profileEraseDone_rest (h : .cmd ∈ own ∧ .ev ∈ own ∧ .keys ∈ own ∧ .store ∈ own) (s : State) : rest own (profileEraseDone s) = rest own s := by
  unfold profileEraseDone
  (repeat' split) <;> simp [h]

/-! ### Scrubbing and restoration (R427–R436) -/

@[simp] theorem setTableWord_rest (h : .anvil ∈ own ∧ .cont ∈ own ∧ .prot ∈ own ∧ .fab ∈ own ∧ .grm ∈ own ∧ .sec ∈ own ∧ .integ ∈ own) (t i : Nat) (w : W32)
    (s : State) :
    rest own (setTableWord t i w s) = rest own s := by
  unfold setTableWord
  dsimp only
  (repeat' split) <;> simp [h]

@[simp] theorem eachWord_rest (f : Nat → State → State) (l : List Nat) (s : State) (hf : ∀ a s, rest own (f a s) = rest own s) :
    rest own (eachWord f l s) = rest own s := by
  induction l generalizing s with
  | nil => rfl
  | cons a r ih => simp [eachWord, ih, hf]

@[simp] theorem upset_rest (h : .prot ∈ own ∧ .grm ∈ own ∧ .integ ∈ own) (u : Nat × Nat × Nat) (s : State) : rest own (upset u s) = rest own s := by simp [upset, h]

@[simp] theorem upsets_rest (h : .prot ∈ own ∧ .grm ∈ own ∧ .integ ∈ own) (l : List (Nat × Nat × Nat)) (s : State) : rest own (upsets l s) = rest own s := by
  induction l generalizing s with
  | nil => rfl
  | cons a r ih => simp [upsets, ih, h]

@[simp] theorem scrubBad_rest (h : .ev ∈ own ∧ .fab ∈ own ∧ .integ ∈ own) (t i : Nat) (s : State) : rest own (scrubBad t i s) = rest own s := by simp [scrubBad, h]

section
variable (h : .ev ∈ own ∧ .anvil ∈ own ∧ .cont ∈ own ∧ .prot ∈ own ∧ .fab ∈ own ∧ .grm ∈ own ∧ .sec ∈ own ∧ .integ ∈ own)
include h

@[simp] theorem scrubWord_rest (t i : Nat) (s : State) : rest own (scrubWord t i s) = rest own s := by simp [scrubWord, h]

@[simp] theorem scrubMapWords_rest (n : Nat) (s : State) : rest own (scrubMapWords n s) = rest own s := by
  induction n generalizing s with
  | zero => rfl
  | succ n ih => simp [scrubMapWords, ih, h]

@[simp] theorem scrubTableWords_rest (n : Nat) (s : State) : rest own (scrubTableWords n s) = rest own s := by
  induction n generalizing s with
  | zero => rfl
  | succ n ih =>
    cases hat : tableAt s otherTables s.integ.tablePos <;> simp [scrubTableWords, ih, hat, h]

@[simp] theorem scrubRow_rest (x : RowIn) (s : State) : rest own (scrubRow x s) = rest own s := by simp [scrubRow, h]
@[simp] theorem rewriteEntry_rest (t i : Nat) (val : Nat → W32) (s : State) : rest own (rewriteEntry t i val s) = rest own s := by simp [rewriteEntry, h]

end

@[simp] theorem hbmErr_rest (h : .ev ∈ own) (crc : Bool) (stack : Nat) (s : State) : rest own (hbmErr crc stack s) = rest own s := by simp [hbmErr, h]

@[simp] theorem grmBlocks_rest (h : .ev ∈ own ∧ .grm ∈ own) (l : List (Nat × Bool × Nat × Nat × Nat)) (s : State) : rest own (grmBlocks l s) = rest own s := by
  induction l generalizing s with
  | nil => rfl
  | cons a r ih => simp [grmBlocks, ih, h]

@[simp] theorem stackFixes_rest (h : .ev ∈ own) (l : List (Nat × Nat)) (s : State) : rest own (stackFixes l s) = rest own s := by
  induction l generalizing s with
  | nil => rfl
  | cons a r ih => simp [stackFixes, ih, h]

@[simp] theorem memoryRow_rest (h : .ev ∈ own ∧ .anvil ∈ own ∧ .cont ∈ own ∧ .prot ∈ own ∧ .fab ∈ own ∧ .grm ∈ own ∧ .sec ∈ own ∧ .pm ∈ own ∧ .integ ∈ own)
    (x : RowIn) (s : State) :
    rest own (memoryRow x s) = rest own s := by
  simp [memoryRow, h]

@[simp] theorem restoreEntry_rest (h : .ev ∈ own ∧ .anvil ∈ own ∧ .cont ∈ own ∧ .prot ∈ own ∧ .fab ∈ own ∧ .grm ∈ own ∧ .sec ∈ own ∧ .mode ∈ own ∧ .integ ∈ own)
    (t i : Nat) (s : State) :
    rest own (restoreEntry t i s) = rest own s := by
  unfold restoreEntry
  dsimp only
  (repeat' split) <;> simp [h]

@[simp] theorem goldRestore_rest (h : .ev ∈ own ∧ .anvil ∈ own ∧ .cont ∈ own ∧ .prot ∈ own ∧ .fab ∈ own ∧ .grm ∈ own ∧ .sec ∈ own ∧ .mode ∈ own ∧ .integ ∈ own)
    (t i : Nat) (s : State) :
    rest own (goldRestore t i s) = rest own s := by
  simp [goldRestore, h]

/-! ### Reset, pins and forwarding records (R92–R94, R463–R473) -/

@[simp] theorem failCommand_rest (h : .mode ∈ own) (inCmd : Bool) (s : State) : rest own (failCommand inCmd s) = rest own s := by simp [failCommand, h]
@[simp] theorem releaseReset_rest (h : .pins ∈ own ∧ .cmd ∈ own ∧ .mode ∈ own) (s : State) : rest own (releaseReset s) = rest own s := by simp [releaseReset, h]

@[simp] theorem flushAll_rest (h : .cmd ∈ own ∧ .ev ∈ own) (l : List Nat) (s : State) : rest own (flushAll l s) = rest own s := by
  induction l generalizing s with
  | nil => rfl
  | cons a r ih => simp [flushAll, ih, h]

@[simp] theorem jtagLoad_rest (h : .commits ∈ own ∧ .otn ∈ own ∧ .pins ∈ own ∧ .clk ∈ own ∧ .cmd ∈ own ∧ .ev ∈ own ∧ .anvil ∈ own ∧ .cont ∈ own ∧ .fab ∈ own ∧
    .tx ∈ own ∧ .rx ∈ own ∧ .cli ∈ own ∧ .grm ∈ own ∧ .sec ∈ own ∧ .opt ∈ own ∧ .mode ∈ own ∧ .boot ∈ own ∧ .keys ∈ own ∧ .store ∈ own) (l : JtagLoad) (s : State) :
    rest own (jtagLoad l s) = rest own s := by
  simp [jtagLoad, h]

@[simp] theorem expireRec_rest (h : .cmd ∈ own ∧ .ev ∈ own ∧ .fab ∈ own) (r : FwdRec) (s : State) : rest own (expireRec r s) = rest own s := by simp [expireRec, h]

@[simp] theorem expireRecs_rest (h : .cmd ∈ own ∧ .ev ∈ own ∧ .fab ∈ own) (l : List FwdRec) (s : State) : rest own (expireRecs l s) = rest own s := by
  induction l generalizing s with
  | nil => rfl
  | cons a r ih => simp [expireRecs, ih, h]

@[simp] theorem fwdTimeouts_rest (h : .cmd ∈ own ∧ .ev ∈ own ∧ .fab ∈ own) (s : State) : rest own (fwdTimeouts s) = rest own s := by simp [fwdTimeouts, h]

/-! ### The rows of the line transmitter (R224–R235, R270) -/

@[simp] theorem feedFrame_rest (h : .free ∈ own ∧ .otn ∈ own ∧ .tx ∈ own ∧ .cli ∈ own) (e : Fin 4) (s : State) : rest own (feedFrame e s) = rest own s := by
  simp [feedFrame, h]

@[simp] theorem formCodeword_rest (h : .free ∈ own ∧ .otn ∈ own ∧ .tx ∈ own ∧ .cli ∈ own) (e : Fin 4) (s : State) : rest own (formCodeword e s) = rest own s := by
  simp [formCodeword, h]

@[simp] theorem formCodewords_rest (h : .free ∈ own ∧ .otn ∈ own ∧ .tx ∈ own ∧ .cli ∈ own) (e : Fin 4) (n k : Nat) (s : State) :
    rest own (formCodewords e n k s) = rest own s := by
  induction k generalizing s with
  | zero => rfl
  | succ n ih => simp [formCodewords, ih, h]

@[simp] theorem trafficRow_rest (h : .free ∈ own ∧ .otn ∈ own ∧ .tx ∈ own ∧ .cli ∈ own) (e : Fin 4) (n first : Nat) (s : State) :
    rest own (trafficRow e n first s) = rest own s := by
  simp [trafficRow, h]

@[simp] theorem calRow_rest (h : .tx ∈ own) (e : Fin 4) (n first : Nat) (s : State) : rest own (calRow e n first s) = rest own s := by simp [calRow, h]
@[simp] theorem silentRow_rest (h : .tx ∈ own) (e : Nat) (s : State) : rest own (silentRow e s) = rest own s := by simp [silentRow, h]

@[simp] theorem engineRow_rest (h : .free ∈ own ∧ .otn ∈ own ∧ .ev ∈ own ∧ .tx ∈ own ∧ .cli ∈ own) (e : Fin 4) (s : State) :
    rest own (engineRow e s) = rest own s := by
  simp [engineRow, h]

@[simp] theorem streamBegin_rest (h : .tx ∈ own) (e : Nat) (s : State) : rest own (streamBegin e s) = rest own s := by simp [streamBegin, h]

@[simp] theorem laserWaitEnd_rest (h : .free ∈ own ∧ .otn ∈ own ∧ .ev ∈ own ∧ .tx ∈ own ∧ .cli ∈ own) (e : Fin 4) (s : State) :
    rest own (laserWaitEnd e s) = rest own s := by
  simp [laserWaitEnd, h]

@[simp] theorem rampDone_rest (h : .free ∈ own ∧ .otn ∈ own ∧ .ev ∈ own ∧ .tx ∈ own ∧ .cli ∈ own) (e : Fin 4) (s : State) :
    rest own (rampDone e s) = rest own s := by
  simp [rampDone, h]

@[simp] theorem ociFormed_rest (h : .otn ∈ own ∧ .tx ∈ own ∧ .cli ∈ own) (e : Fin 4) (s : State) : rest own (ociFormed e s) = rest own s := by simp [ociFormed, h]
@[simp] theorem ociRow_rest (h : .otn ∈ own ∧ .tx ∈ own ∧ .cli ∈ own) (s : State) : rest own (ociRow s) = rest own s := by simp [ociRow, h]

@[simp] theorem enginesRow_rest (h : .free ∈ own ∧ .otn ∈ own ∧ .ev ∈ own ∧ .tx ∈ own ∧ .cli ∈ own) (s : State) : rest own (enginesRow s) = rest own s := by
  simp [enginesRow, h]

/-! ### The work of a row (R30) -/

@[simp] theorem bufUpset_rest (h : .otn ∈ own ∧ .cmd ∈ own ∧ .ev ∈ own ∧ .cont ∈ own ∧ .fab ∈ own ∧ .cli ∈ own ∧ .grm ∈ own) (u : BufUpset) (s : State) :
    rest own (bufUpset u s) = rest own s := by
  unfold bufUpset
  dsimp only
  (repeat' split) <;> simp [h]

@[simp] theorem bufUpsets_rest (h : .otn ∈ own ∧ .cmd ∈ own ∧ .ev ∈ own ∧ .cont ∈ own ∧ .fab ∈ own ∧ .cli ∈ own ∧ .grm ∈ own) (l : List BufUpset) (s : State) :
    rest own (bufUpsets l s) = rest own s := by
  induction l generalizing s with
  | nil => rfl
  | cons a r ih => simp [bufUpsets, ih, h]

@[simp] theorem eachNum_rest (f : Nat → State → State) (l : List Nat) (s : State) (hf : ∀ a s, rest own (f a s) = rest own s) :
    rest own (eachNum f l s) = rest own s := by
  induction l generalizing s with
  | nil => rfl
  | cons a r ih => simp [eachNum, ih, hf]

@[simp] theorem eachClient_rest (h : .cont ∈ own) (l : List ClientIn) (s : State) : rest own (eachClient l s) = rest own s := by
  induction l generalizing s with
  | nil => rfl
  | cons a r ih => simp [eachClient, ih, h]

@[simp] theorem eachOtnId_rest (f : OtnId → State → State) (l : List OtnId) (s : State) (hf : ∀ a s, rest own (f a s) = rest own s) :
    rest own (eachOtnId f l s) = rest own s := by
  induction l generalizing s with
  | nil => rfl
  | cons a r ih => simp [eachOtnId, ih, hf]

@[simp] theorem turnIngress_rest (h : .rows ∈ own) (s : State) : rest own (turnIngress s) = rest own s := by simp [turnIngress, h]

@[simp] theorem ingressWork_rest (h : .free ∈ own ∧ .otn ∈ own ∧ .ev ∈ own ∧ .rows ∈ own ∧ .cont ∈ own ∧ .prot ∈ own ∧ .fab ∈ own ∧ .cli ∈ own) (x : RowIn)
    (s : State) :
    rest own (ingressWork x s) = rest own s := by
  simp [ingressWork, h]

@[simp] theorem egressWork_rest (h : .free ∈ own ∧ .otn ∈ own ∧ .ev ∈ own ∧ .anvil ∈ own ∧ .rows ∈ own ∧ .cont ∈ own ∧ .diag ∈ own ∧ .fab ∈ own ∧ .cli ∈ own ∧
    .sec ∈ own ∧ .mode ∈ own ∧ .integ ∈ own) (x : RowIn) (s : State) :
    rest own (egressWork x s) = rest own s := by
  simp [egressWork, h]

@[simp] theorem rowWork_rest (h : .free ∈ own ∧ .otn ∈ own ∧ .cmd ∈ own ∧ .ev ∈ own ∧ .anvil ∈ own ∧ .rows ∈ own ∧ .cont ∈ own ∧ .diag ∈ own ∧ .prot ∈ own ∧
    .fab ∈ own ∧ .tx ∈ own ∧ .rx ∈ own ∧ .cli ∈ own ∧ .grm ∈ own ∧ .sec ∈ own ∧ .mode ∈ own ∧ .pm ∈ own ∧ .integ ∈ own) (x : RowIn) (s : State) :
    rest own (rowWork x s) = rest own s := by
  simp [rowWork, h]

end

end Sys2Proof.Machine
end

section
/-! O43: what the pin, fault, clock, transport and completion events leave unchanged. -/

namespace Sys2Proof.Machine

/-- An event whose outcome leaves the rest beside the parts `own` changes those parts alone. -/
theorem of_next {own : List Part} {s t u : State} (hu : rest own u = rest own s) (h : ok u = .next t) : t = s.take own t :=
  Host.Outcome.next.inj h ▸ eq_take_of_rest hu

/-- The parts that QUENCH writes (R400, R423). -/
def quenched : List Part :=
  [.commits, .otn, .clk, .cmd, .ev, .anvil, .cont, .fab, .tx, .rx, .cli, .grm, .sec, .opt, .mode, .boot, .keys, .store]

/-- What QUENCH leaves unchanged. -/
theorem untouched_by_quench {s t : State} (h : t = s.take quenched t) :
    t.pending = s.pending ∧ t.fused = s.fused ∧ t.free = s.free ∧ t.pins = s.pins ∧ t.stk = s.stk ∧ t.root = s.root ∧
      t.rows = s.rows ∧ t.diag = s.diag ∧ t.prot = s.prot ∧ t.pm = s.pm ∧ t.integ = s.integ := by
  rw [h]
  and_intros <;> rfl

/-- Settles O43: each event leaves what lies outside the parts that its operation writes. -/
theorem controlEventsWriteTheirOwnUnits : Obligations.ControlEventsWriteTheirOwnUnits := by
  intro s t
  refine ⟨?rstnRelease, ?perstNAssert, ?perstNRelease, ?railFault, ?thermTrip, ?thermWarn, ?pllUnlock, ?severeFaultClear, ?jtagInstructionLoad, ?strkInEdge,
    ?rowTick, ?refFail, ?refWtrClear, ?clockLock, ?acqTimeout, ?historyValid, ?holdoverExpired, ?lostListExpiry, ?rootCandidateTimeout, ?cmdTailDoorbell,
    ?cmdSizeWrite, ?rplSizeWrite, ?rplHeadWrite, ?cmdFlush, ?rplFlush, ?intStatusW1c, ?bar0RegisterWrite, ?pciePacketFetch, ?replyRingWrite, ?pktWrite,
    ?rplRead, ?statusRead, ?flush, ?spiBad, ?fabricReplyRx, ?fwdTimeout, ?mapSyncDone, ?sliceRetire, ?ruleSyncDone, ?keyLockGrant, ?keyLockWaitExpiry,
    ?keyLockTimeout, ?keFail, ?i2cXferDone, ?lockstepMiscompare, ?coreSelfTestDone, ?depthSettled, ?imageInstallDone, ?attestDone, ?storeDone,
    ?profileEraseDone, ?busDecerr, ?arbWdog, ?rollbackAdvanceDone, ?debugPortAccess⟩
  case rstnRelease => exact fun h => of_next (own := [.cmd, .mode, .pins]) (by simp) h
  case perstNAssert => exact fun h => of_next (own := [.cmd, .ev, .pins]) (by simp) h
  case perstNRelease => exact fun h => of_next (own := [.cmd, .pins]) (by simp) h
  case railFault => exact fun _ _ _ h => untouched_by_quench (of_next (by simp [quenched]) h)
  case thermTrip => exact fun _ _ h => untouched_by_quench (of_next (by simp [quenched]) h)
  case thermWarn => exact fun _ _ h => of_next (own := [.ev, .mode]) (by simp) h
  case pllUnlock => exact fun _ h => untouched_by_quench (of_next (by simp [quenched]) h)
  case severeFaultClear => exact fun _ _ h => of_next (own := [.ev, .mode]) (by simp) h
  case jtagInstructionLoad =>
    intro _ h
    have ht : t = s.take _ t := of_next (own := .pins :: quenched) (by simp [quenched]) h
    rw [ht]
    and_intros <;> rfl
  case strkInEdge => exact fun _ h => of_next (own := [.stk]) (by simp) h
  case rowTick =>
    intro _ h
    have ht : t = s.take _ t :=
      of_next (own := [.free, .otn, .stk, .cmd, .ev, .anvil, .rows, .cont, .diag, .prot, .fab, .tx, .rx, .cli, .grm, .sec, .mode, .keys, .store, .pm, .integ])
        (by simp [rowTick]) h
    rw [ht]
    and_intros <;> rfl
  case refFail => exact fun _ _ h => of_next (own := [.clk, .ev]) (by simp) h
  case refWtrClear => exact fun _ h => of_next (own := [.clk, .ev]) (by simp) h
  case clockLock => exact fun h => of_next (own := [.clk, .ev]) (by simp) h
  case acqTimeout => exact fun h => of_next (own := [.clk, .ev]) (by simp) h
  case historyValid => exact fun h => of_next (own := [.clk]) (by simp) h
  case holdoverExpired => exact fun h => of_next (own := [.clk, .ev]) (by simp) h
  case lostListExpiry => exact fun h => of_next (own := [.root]) (by simp) h
  case rootCandidateTimeout => exact fun h => of_next (own := [.root]) (by simp) h
  case cmdTailDoorbell => exact fun _ _ h => of_next (own := [.cmd]) (by simp) h
  case cmdSizeWrite => exact fun _ _ h => of_next (own := [.cmd]) (by simp) h
  case rplSizeWrite => exact fun _ _ h => of_next (own := [.cmd]) (by simp) h
  case rplHeadWrite => exact fun _ _ h => of_next (own := [.cmd]) (by simp) h
  case cmdFlush => exact fun _ h => of_next (own := [.cmd, .ev]) (by simp) h
  case rplFlush => exact fun _ h => of_next (own := [.cmd, .ev]) (by simp) h
  case intStatusW1c => exact fun _ h => of_next (own := [.cmd]) (by simp) h
  case bar0RegisterWrite => exact fun _ _ h => of_next (own := [.cmd, .ev]) (by simp) h
  case pciePacketFetch => exact fun _ _ _ hcyc h => of_next (own := [.cmd, .ev]) (fetch_rest (by simp) (cqCommit_rest (by simp) hcyc) _ _ _ _) h
  case replyRingWrite => exact fun _ h => of_next (own := [.cmd, .ev]) (by simp) h
  case pktWrite => exact fun _ hcyc h => of_next (own := [.cmd, .ev]) (by simp [spiPacket_rest, cqCommit_rest, hcyc]) h
  case rplRead => exact fun _ h => of_next (own := [.cmd, .ev]) (by simp) h
  case statusRead => exact fun h => of_next (own := [.cmd]) (by simp) h
  case flush => exact fun _ h => of_next (own := [.cmd, .ev]) (by simp) h
  case spiBad => exact fun _ h => of_next (own := [.ev]) (by simp) h
  case fabricReplyRx => exact fun _ h => of_next (own := [.cmd, .ev]) (by simp) h
  case fwdTimeout => exact fun h => of_next (own := [.cmd, .ev, .fab]) (by simp) h
  case mapSyncDone => exact fun h => of_next (own := [.anvil, .cmd, .ev, .integ, .keys, .store]) (by split <;> simp) h
  case sliceRetire => exact fun _ _ _ _ h => of_next (own := [.mode, .store]) (by simp) h
  case ruleSyncDone => exact fun h => of_next (own := [.anvil, .cmd, .ev, .grm, .integ, .keys, .store]) (by split <;> simp) h
  case keyLockGrant => exact fun h => of_next (own := [.cmd, .ev, .keys, .sec, .store]) (by simp) h
  case keyLockWaitExpiry => exact fun h => of_next (own := [.cmd, .ev, .keys, .sec, .store]) (by simp) h
  case keyLockTimeout => exact fun h => of_next (own := [.cmd, .ev, .keys, .sec, .store]) (by simp) h
  case keFail => exact fun h => untouched_by_quench (of_next (by simp [quenched]) h)
  case i2cXferDone => exact fun _ _ h => of_next (own := [.cmd, .ev, .keys, .opt]) (by simp) h
  case lockstepMiscompare => exact fun _ h => of_next (own := [.mode, .store]) (by simp) h
  case coreSelfTestDone => exact fun _ _ h => untouched_by_quench (of_next (by simp [quenched]) h)
  case depthSettled => exact fun h => of_next (own := [.mode]) (by simp) h
  case imageInstallDone => exact fun h => of_next (own := [.boot, .cmd, .ev, .keys]) (by split <;> simp) h
  case attestDone => exact fun h => of_next (own := [.cmd, .ev, .free, .keys, .store]) (by split <;> simp) h
  case storeDone => exact fun h => of_next (own := [.cmd, .ev, .keys, .store]) (by simp) h
  case profileEraseDone => exact fun h => of_next (own := [.cmd, .ev, .keys, .store]) (by simp) h
  case busDecerr => exact fun _ _ h => of_next (own := [.ev, .mode]) (by simp) h
  case arbWdog => exact fun _ _ h => of_next (own := [.ev, .integ, .mode]) (by simp) h
  case rollbackAdvanceDone => exact fun h => of_next (own := [.boot, .cmd, .ev, .keys]) (by split <;> simp) h
  case debugPortAccess => exact fun h => of_next (own := [.ev, .integ]) (by simp) h

end Sys2Proof.Machine
end

section
/-! O44: what the events of the traffic units, of the boot and of the memories leave unchanged. -/

namespace Sys2Proof.Machine

theorem execFluxPass_take {own : List Part} (h : .free ∈ own ∧ .ev ∈ own ∧ .fab ∈ own ∧ .grm ∈ own ∧ .integ ∈ own) {ctx : Nat} {s t : State} (ht : execFluxPass ctx s = .next t) :
    t = s.take own t := by
  refine of_next ?_ ht
  split
  · rfl
  · next p _ =>
    extract_lets r s1 s2 s3 s4 s5
    have hdraw : rest own s1 = rest own s := by simp [s1, h]
    clear_value s1
    have hinstr : rest own s2 = rest own s := by cases hi : r.slagInstr <;> simp [s2, hi, hdraw, h]
    clear_value s2
    have hrule : rest own s3 = rest own s := by cases hi : r.slagRule <;> simp [s3, hi, hinstr, h]
    clear_value s3
    have hmends : rest own s4 = rest own s := by simp [s4, hrule, h]
    clear_value s4
    simp [s5, hmends, h]

theorem execPacketRetire_take {own : List Part} (h : .ev ∈ own ∧ .grm ∈ own) {p : Nat} {s t : State} (ht : execPacketRetire p s = .next t) : t = s.take own t := by
  refine of_next ?_ ht
  split
  · rfl
  · next k _ =>
    split
    · rfl
    · extract_lets s1 r s2
      have hstored : rest own s2 = rest own s := by simp [s2, r, s1, h]
      clear_value s2 r
      cases hslot : r.2 <;> simp [hstored, h]

/-- Settles O44: each event leaves what lies outside the parts that its operation writes. -/
theorem trafficEventsWriteTheirOwnUnits : Obligations.TrafficEventsWriteTheirOwnUnits := by
  intro s t
  refine ⟨?containerFrameRx, ?pgHoldoffExpiry, ?pgWtrExpiry, ?dfopPm, ?dfopNr, ?fabLinkRowRx, ?fabHuntTimeout, ?envelopeTransmit, ?helloRx, ?helloSend,
    ?helloLoss, ?lspRx, ?lspOriginate, ?lspAgeing, ?routeRecompute, ?addrWaitEnd, ?addrClaimed, ?polastEnvelopeRx, ?broadcastRecordExpiry, ?pathHopRx,
    ?txLaserWaitEnd, ?txRampDone, ?calLimit, ?drxlos, ?drxlosClear, ?cdScanDone, ?headerCandidate, ?headerWindowEnd, ?huntTimeout, ?cdTrackLimit,
    ?codewordDecode, ?otucFrameTx, ?otucFrameRx, ?dlof, ?dlom, ?rowBlockRx, ?dllos, ?trainingFrameRx, ?trainTimeout, ?laneTestEnd, ?clientFrameRx,
    ?fluxDispatch, ?fluxPass, ?packetRetire, ?fragAgeExpiry, ?unpackFrame, ?egressMacTake, ?drbgReseed, ?entFail, ?hkConversionDone, ?blWindowEnd,
    ?romStartDone, ?fwStartDone, ?kindleCalibrationDone, ?restoreDone, ?goldRestore, ?dloa, ?entropyRestartPass⟩
  case containerFrameRx =>
    intro _ _ _ h
    have ht : t = s.take _ t := of_next (own := [.free, .ev, .cont, .prot, .fab, .sec, .pm, .integ]) (by simp) h
    rw [ht]
    and_intros <;> rfl
  case pgHoldoffExpiry => exact fun _ _ h => of_next (own := [.prot]) (by simp) h
  case pgWtrExpiry => exact fun _ h => of_next (own := [.prot]) (by simp) h
  case dfopPm => exact fun _ h => of_next (own := [.ev, .prot]) (by simp) h
  case dfopNr => exact fun _ h => of_next (own := [.ev, .prot]) (by simp) h
  case fabLinkRowRx => exact fun _ _ h => of_next (own := [.cli, .clk, .ev, .fab, .pm, .root]) (by simp) h
  case fabHuntTimeout => exact fun _ h => of_next (own := [.cli, .fab]) (by simp) h
  case envelopeTransmit => exact fun _ h => of_next (own := [.fab]) (by simp) h
  case helloRx => exact fun _ _ h => of_next (own := [.ev, .fab]) (by simp) h
  case helloSend => exact fun _ h => of_next (own := [.ev, .fab]) (by simp) h
  case helloLoss => exact fun _ h => of_next (own := [.ev, .fab]) (by simp) h
  case lspRx => exact fun _ _ h => of_next (own := [.ev, .fab]) (by simp) h
  case lspOriginate => exact fun h => of_next (own := [.ev, .fab]) (by simp) h
  case lspAgeing => exact fun h => of_next (own := [.fab]) (by simp) h
  case routeRecompute => exact fun h => of_next (own := [.fab]) (by simp) h
  case addrWaitEnd => exact fun h => of_next (own := [.fab]) (by simp) h
  case addrClaimed => exact fun h => of_next (own := [.fab]) (by simp) h
  case polastEnvelopeRx => exact fun _ _ h => of_next (own := [.cmd, .ev, .fab, .integ]) (by simp) h
  case broadcastRecordExpiry => exact fun h => of_next (own := [.fab]) (by simp) h
  case pathHopRx => exact fun _ _ h => of_next (own := [.anvil, .cmd, .commits, .ev, .fab, .integ, .store]) (by simp) h
  case txLaserWaitEnd => exact fun _ h => of_next (own := [.cli, .ev, .free, .otn, .tx]) (by simp) h
  case txRampDone => exact fun _ h => of_next (own := [.cli, .ev, .free, .otn, .tx]) (by simp) h
  case calLimit => exact fun _ _ h => of_next (own := [.ev, .tx]) (by simp) h
  case drxlos => exact fun _ _ _ h => of_next (own := [.clk, .ev, .otn, .rx]) (by simp) h
  case drxlosClear => exact fun _ _ _ h => of_next (own := [.clk, .ev, .otn, .rx]) (by simp) h
  case cdScanDone => exact fun _ _ h => of_next (own := [.clk, .ev, .otn, .rx]) (by simp) h
  case headerCandidate => exact fun _ _ h => of_next (own := [.ev, .rx]) (by simp) h
  case headerWindowEnd => exact fun _ _ h => of_next (own := [.clk, .ev, .otn, .rx]) (by simp) h
  case huntTimeout => exact fun _ h => of_next (own := [.clk, .ev, .otn, .rx]) (by simp) h
  case cdTrackLimit => exact fun _ h => of_next (own := [.ev, .rx]) (by simp) h
  case codewordDecode => exact fun _ _ h => of_next (own := [.ev, .otn]) (by simp) h
  case otucFrameTx => exact fun _ _ h => of_next (own := [.cli, .free, .otn, .tx]) (by simp) h
  case otucFrameRx => exact fun _ _ h => of_next (own := [.cli, .ev, .otn, .pm]) (by simp) h
  case dlof => exact fun _ h => of_next (own := [.cli, .ev, .otn]) (by simp) h
  case dlom => exact fun _ h => of_next (own := [.cli, .ev, .otn]) (by simp) h
  case rowBlockRx => exact fun _ _ h => of_next (own := [.cli, .ev, .otn]) (by simp) h
  case dllos => exact fun _ h => of_next (own := [.cli, .clk, .ev]) (by simp) h
  case trainingFrameRx => exact fun _ _ h => of_next (own := [.cli, .fab, .free]) (by simp) h
  case trainTimeout => exact fun _ h => of_next (own := [.cli, .fab]) (by simp) h
  case laneTestEnd => exact fun _ _ h => of_next (own := [.cli, .ev, .mode, .store]) (by split <;> simp) h
  case clientFrameRx => exact fun _ _ _ h => of_next (own := [.ev, .grm]) (by simp) h
  case fluxDispatch => exact fun h => of_next (own := [.grm]) (by (repeat' split) <;> simp) h
  case fluxPass => exact fun _ h => execFluxPass_take (own := [.ev, .fab, .free, .grm, .integ]) (by simp) h
  case packetRetire => exact fun _ h => execPacketRetire_take (own := [.ev, .grm]) (by simp) h
  case fragAgeExpiry => exact fun h => of_next (own := [.grm]) (by simp) h
  case unpackFrame => exact fun _ h => of_next (own := [.cont, .ev, .grm]) (by (repeat' split) <;> simp) h
  case egressMacTake => exact fun _ h => of_next (own := [.cli, .ev, .grm]) (by (repeat' split) <;> simp) h
  case drbgReseed => exact fun _ h => of_next (own := [.sec]) (by simp) h
  case entFail => exact fun h => of_next (own := [.ev, .sec]) (by simp) h
  case hkConversionDone => exact fun _ _ _ h => of_next (own := [.ev, .opt]) (by simp) h
  case blWindowEnd => exact fun _ h => of_next (own := [.ev, .opt]) (by simp) h
  case romStartDone => exact fun h => of_next (own := [.boot]) (by simp) h
  case fwStartDone => exact fun _ h => of_next (own := [.boot, .mode, .opt, .store]) (by simp) h
  case kindleCalibrationDone => exact fun h => of_next (own := [.boot, .tx]) (by simp) h
  case restoreDone => exact fun h => of_next (own := [.store]) (by simp) h
  case goldRestore =>
    intro _ _ h
    have ht : t = s.take _ t := of_next (own := [.ev, .anvil, .cont, .prot, .fab, .grm, .sec, .mode, .integ]) (by simp) h
    rw [ht]
    and_intros <;> rfl
  case dloa => exact fun _ _ h => of_next (own := [.cli, .ev]) (by simp) h
  case entropyRestartPass => exact fun h => of_next (own := [.ev, .sec]) (by simp) h

end Sys2Proof.Machine
end

section
/-! O9, O10, O11, O13: what every command of the opcode tables is refused with, and when. -/

namespace Sys2Proof.Machine

/-! ### The opcode table (R103) -/

/-- The assigned opcodes with their commands. -/
def commandTable : List (OpInfo × (Req → Instr)) :=
  [(opEcho, .echo), (opCapsRead, .capsRead), (opSysStatusRead, .sysStatusRead), (opQueueStatusRead, .queueStatusRead), (opQueueCfg, .queueCfg),
    (opQueueFlush, .queueFlush), (opAccessPolicyRead, .accessPolicyRead), (opAccessPolicyWrite, .accessPolicyWrite), (opIntClear, .intClear),
    (opStrokeRead, .strokeRead), (opStrokeSet, .strokeSet), (opStrokeCfg, .strokeCfg), (opStrokeJoin, .strokeJoin), (opRefCfg, .refCfg),
    (opRefStatusRead, .refStatusRead), (opRefForce, .refForce), (opClkCfg, .clkCfg), (opCommitListRead, .commitListRead), (opCommitCancel, .commitCancel),
    (opMapWrite, .mapWrite), (opMapCommit, .mapCommit), (opMapSync, .mapSync), (opMapRead, .mapRead), (opMapStatusRead, .mapStatusRead), (opContCfg, .contCfg),
    (opContRead, .contRead), (opContStatusRead, .contStatusRead), (opBaCfg, .baCfg), (opBaRead, .baRead), (opTestRead, .testRead), (opErrInject, .errInject),
    (opPgCfg, .pgCfg), (opPgRead, .pgRead), (opPgStatusRead, .pgStatusRead), (opPgCmd, .pgCmd), (opAlnRealign, .alnRealign), (opAlnStatusRead, .alnStatusRead),
    (opPgSummaryRead, .pgSummaryRead), (opFabCfg, .fabCfg), (opFabStatusRead, .fabStatusRead), (opFabPortCfg, .fabPortCfg),
    (opFabPortStatusRead, .fabPortStatusRead), (opFabRouteRead, .fabRouteRead), (opFabLsdbRead, .fabLsdbRead), (opFabPathSet, .fabPathSet), (opTxCfg, .txCfg),
    (opTxRead, .txRead), (opTxStatusRead, .txStatusRead), (opTxPreemph, .txPreemph), (opTxPreemphRead, .txPreemphRead), (opLineBondCfg, .lineBondCfg),
    (opTxCalCfg, .txCalCfg), (opTxCalRead, .txCalRead), (opRxCfg, .rxCfg), (opRxRead, .rxRead), (opRxStatusRead, .rxStatusRead), (opRxQualityRead, .rxQualityRead),
    (opRxCalRead, .rxCalRead), (opRxReacquire, .rxReacquire), (opLineOhCfg, .lineOhCfg), (opLineOhRead, .lineOhRead), (opLineTtiWrite, .lineTtiWrite),
    (opLineTtiRead, .lineTtiRead), (opLineOtnStatusRead, .lineOtnStatusRead), (opLineFecStatusRead, .lineFecStatusRead), (opLineRealign, .lineRealign),
    (opClPortCfg, .clPortCfg), (opClPortRead, .clPortRead), (opClPortStatusRead, .clPortStatusRead), (opFlexoTribCfg, .flexoTribCfg),
    (opFlexoTribRead, .flexoTribRead), (opLaneCfg, .laneCfg), (opLaneStatusRead, .laneStatusRead), (opLanePrbsRead, .lanePrbsRead), (opGroomCfg, .groomCfg),
    (opGroomRead, .groomRead), (opGroomStatusRead, .groomStatusRead), (opSlotCfg, .slotCfg), (opSlotRead, .slotRead), (opSlotStatusRead, .slotStatusRead),
    (opProgWrite, .progWrite), (opRuleWrite, .ruleWrite), (opRuleCommit, .ruleCommit), (opRuleSync, .ruleSync), (opRuleRead, .ruleRead),
    (opGrmQueueCfg, .grmQueueCfg), (opGrmQueueFlush, .grmQueueFlush), (opSecCfg, .secCfg), (opSecRead, .secRead), (opSecStatusRead, .secStatusRead),
    (opKeyLoad, .keyLoad), (opKeySwitch, .keySwitch), (opKeyClear, .keyClear), (opSecClearLoss, .secClearLoss), (opKeStatusRead, .keStatusRead), (opHkCfg, .hkCfg),
    (opHkRead, .hkRead), (opHkTrigger, .hkTrigger), (opHkResultRead, .hkResultRead), (opOutCfg, .outCfg), (opOutRead, .outRead), (opOutStatusRead, .outStatusRead),
    (opBlCfg, .blCfg), (opBlRead, .blRead), (opBlStatusRead, .blStatusRead), (opI2cCfg, .i2cCfg), (opI2cXfer, .i2cXfer), (opOptStatusRead, .optStatusRead),
    (opModeSet, .modeSet), (opQuench, .quench), (opQuenchExit, .quenchExit), (opModeCfg, .modeCfg), (opModeStatusRead, .modeStatusRead), (opFaultAck, .faultAck),
    (opBootStatusRead, .bootStatusRead), (opImageStage, .imageStage), (opBootExec, .bootExec), (opImageInstall, .imageInstall),
    (opRollbackAdvance, .rollbackAdvance), (opSignerSlotProgram, .signerSlotProgram), (opSignerRevoke, .signerRevoke), (opSysRestart, .sysRestart),
    (opPkSet, .pkSet), (opAuthKeyLoad, .authKeyLoad), (opTkLoad, .tkLoad), (opKeySlotsRead, .keySlotsRead), (opIdRead, .idRead), (opAttest, .attest),
    (opFaultRead, .faultRead), (opFaultExport, .faultExport), (opRetireRead, .retireRead), (opStore, .store), (opStoreStatusRead, .storeStatusRead),
    (opProfileRestore, .profileRestore), (opProfileErase, .profileErase), (opEvcRead, .evcRead), (opPmRead, .pmRead), (opPmSnap, .pmSnap), (opWinCfg, .winCfg),
    (opWinRead, .winRead), (opEvtMaskWrite, .evtMaskWrite), (opEvtMaskRead, .evtMaskRead), (opEvtPop, .evtPop), (opIntegStatusRead, .integStatusRead),
    (opArbCfg, .arbCfg)]

theorem isCommand_iff_mem (e : OpInfo × (Req → Instr)) : IsCommand e ↔ e ∈ commandTable := by
  simp only [IsCommand, IsCommandSystem, IsCommandStrokes, IsCommandAnvil, IsCommandContainers, IsCommandProtection, IsCommandFabric, IsCommandLineTx,
    IsCommandLineRx, IsCommandLineOtn, IsCommandClient, IsCommandGroom, IsCommandSecurity, IsCommandOptics, IsCommandModes, IsCommandBoot,
    IsCommandCommits, IsCommandCounters, commandTable, List.mem_cons, List.not_mem_nil, or_false, or_assoc]

/-- What is checked of every row of the table holds of every assigned opcode. -/
theorem IsCommand.of_all {p : OpInfo → Bool} (h : (commandTable.map Prod.fst).all p = true) {e : OpInfo × (Req → Instr)} (he : IsCommand e) : p e.1 = true :=
  List.all_eq_true.1 h _ (List.mem_map_of_mem ((isCommand_iff_mem e).1 he))

/-! ### The refusals of a list of checks (R74, R95, R475) -/

/-- No refusal of the check has status OK. -/
def Check.Refuses (c : Check) : Prop := ∀ r, c = some r → r.st ≠ .ok

/-- Every refusal of the check is a NOT_PERMITTED. -/
def Check.Forbids (c : Check) : Prop := ∀ r, c = some r → r.st = .notPermitted

@[simp] theorem Check.refuses_none : Check.Refuses none := nofun
@[simp] theorem Check.refuses_some (r : Rej) : Check.Refuses (some r) ↔ r.st ≠ .ok := by simp [Check.Refuses]
@[simp] theorem Check.forbids_none : Check.Forbids none := nofun
@[simp] theorem Check.forbids_some (r : Rej) : Check.Forbids (some r) ↔ r.st = .notPermitted := by simp [Check.Forbids]

@[simp] theorem Check.refuses_need (b : Bool) (r : Rej) (h : r.st ≠ .ok) : (need b r).Refuses := by cases b <;> simp [need, h]
@[simp] theorem Check.forbids_need (b : Bool) (r : Rej) (h : r.st = .notPermitted) : (need b r).Forbids := by cases b <;> simp [need, h]

@[simp] theorem Check.refuses_wordOk (i : Nat) (b : Bool) : (wordOk i b).Refuses := refuses_need _ _ nofun
@[simp] theorem Check.refuses_causeOk (i : Nat) (b : Bool) : (causeOk i b).Refuses := refuses_need _ _ nofun
@[simp] theorem Check.refuses_countIs (n : Nat) (rq : Req) : (countIs n rq).Refuses := refuses_need _ _ nofun
@[simp] theorem Check.refuses_countIn (a b : Nat) (rq : Req) : (countIn a b rq).Refuses := refuses_need _ _ nofun
@[simp] theorem Check.refuses_onlyBits (i : Nat) (m : W32) (rq : Req) : (onlyBits i m rq).Refuses := refuses_wordOk _ _

theorem mem_of_firstFail {l : List Check} {r : Rej} (h : firstFail l = some r) : some r ∈ l := by
  induction l with
  | nil => simp [firstFail] at h
  | cons c l ih =>
    cases c with
    | none => exact .tail _ (ih h)
    | some _ => exact h ▸ .head _

/-- Of two refusals of step 11 one is answered. -/
theorem mem_of_lowestFail {l : List Check} {r : Rej} (h : lowestFail l = some r) : some r ∈ l := by
  induction l generalizing r with
  | nil => simp [lowestFail] at h
  | cons c l ih =>
    cases c with
    | none => exact .tail _ (ih h)
    | some a =>
      cases hl : lowestFail l with
      | none => simp_all [lowestFail]
      | some b =>
        have hb := ih hl
        simp only [lowestFail, hl, earlier] at h
        split at h <;> simp_all

/-- No refusal of any of the checks has status OK. -/
def AllRefuse (l : List Check) : Prop := ∀ c ∈ l, Check.Refuses c

@[simp] theorem allRefuse_nil : AllRefuse [] := nofun
@[simp] theorem allRefuse_cons (c : Check) (l : List Check) : AllRefuse (c :: l) ↔ c.Refuses ∧ AllRefuse l := List.forall_mem_cons
@[simp] theorem allRefuse_append (l m : List Check) : AllRefuse (l ++ m) ↔ AllRefuse l ∧ AllRefuse m := List.forall_mem_append
@[simp] theorem allRefuse_map {α : Type} (f : α → Check) (l : List α) : AllRefuse (l.map f) ↔ ∀ a ∈ l, (f a).Refuses := List.forall_mem_map
@[simp] theorem allRefuse_flatMap {α : Type} (f : α → List Check) (l : List α) : AllRefuse (l.flatMap f) ↔ ∀ a ∈ l, AllRefuse (f a) :=
  List.forall_mem_flatMap
@[simp] theorem allRefuse_ite {p : Prop} [Decidable p] {l m : List Check} : AllRefuse (if p then l else m) ↔ (p → AllRefuse l) ∧ (¬p → AllRefuse m) := by
  split <;> simp_all

@[simp] theorem Check.refuses_lowestFail {l : List Check} (h : AllRefuse l) : Check.Refuses (lowestFail l) := fun r hr => h _ (mem_of_lowestFail hr) r rfl

@[simp] theorem Check.refuses_firstFail {l : List Check} (h : AllRefuse l) : Check.Refuses (firstFail l) := fun r hr => h _ (mem_of_firstFail hr) r rfl

/-- What the checks that an opcode makes beside the shared ones may refuse with. -/
structure Checks.Sound (o : OpInfo) (k : Checks) : Prop where
  ranks : k.role = [] ∨ RanksAtStep7 o
  role : ∀ c ∈ k.role, Check.Forbids c
  other : AllRefuse (k.unit ++ k.par ++ k.late)

/-- The command of an opcode is `command` of that opcode, with checks that are sound. -/
def HasSoundForm (e : OpInfo × (Req → Instr)) : Prop :=
  ∀ (rq : Req) (s : State), ∃ k eff, exec (e.2 rq) s = .next (command e.1 rq k s eff) ∧ k.Sound e.1

theorem Checks.sound_of_noRole {o : OpInfo} {k : Checks} (hr : k.role = []) (h : AllRefuse (k.unit ++ k.par ++ k.late)) : k.Sound o :=
  ⟨.inl hr, by simp [hr], h⟩

/-! ### The checks that several opcodes share -/

@[simp] theorem mapEntryCheck_refuses (rq : Req) (s : State) : (mapEntryCheck rq s).Refuses := by
  unfold mapEntryCheck
  dsimp only
  split <;> simp

@[simp] theorem mapCheckIf_refuses (rq : Req) (s : State) : Check.Refuses (if mapCountOk rq then mapEntryCheck rq s else none) := by split <;> simp

@[simp] theorem mapBusy_refuses (s : State) : (mapBusy s).Refuses := Check.refuses_need _ _ nofun
@[simp] theorem grmBusy_refuses (s : State) : (grmBusy s).Refuses := Check.refuses_need _ _ nofun
@[simp] theorem storeBusy_refuses (s : State) : (storeBusy s).Refuses := Check.refuses_need _ _ nofun
@[simp] theorem keySlotFree_refuses (s : State) (k : Nat) : (keySlotFree s k).Refuses := Check.refuses_need _ _ nofun
@[simp] theorem engUnit_refuses (rq : Req) (s : State) : (engUnit rq s).Refuses := Check.refuses_need _ _ nofun
@[simp] theorem portOk_refuse (rq : Req) : AllRefuse (portOk rq) := by simp [portOk]
@[simp] theorem laneOk_refuse (rq : Req) : AllRefuse (laneOk rq) := by simp [laneOk]
@[simp] theorem fpOk_refuse (rq : Req) : AllRefuse (fpOk rq) := by simp [fpOk]
@[simp] theorem engPar_refuse (n : Nat) (rq : Req) : AllRefuse (engPar n rq) := by simp [engPar]
@[simp] theorem grmQueueChecks_refuse (rq : Req) : AllRefuse (grmQueueChecks rq) := by simp [grmQueueChecks]
@[simp] theorem grmUnit_refuse (s : State) : AllRefuse (grmUnit s) := by simp [grmUnit]
@[simp] theorem txUnit_refuse (rq : Req) (s : State) : AllRefuse (txUnit rq s) := by simp [txUnit]
@[simp] theorem rxUnit_refuse (rq : Req) (s : State) : AllRefuse (rxUnit rq s) := by simp [rxUnit]
@[simp] theorem lineUnit_refuse (rq : Req) (s : State) : AllRefuse (lineUnit rq s) := by simp [lineUnit]
@[simp] theorem secUnit_refuse (s : State) : AllRefuse (secUnit s) := by simp [secUnit]
@[simp] theorem allRunsOk_refuse (s : State) (c : Nat) (e : ContEntry) : AllRefuse (allRunsOk s c e) := by simp [allRunsOk]
@[simp] theorem pathPar_refuse (k : Nat) (rq : Req) (s : State) : AllRefuse (pathPar k rq s) := by simp [pathPar]
@[simp] theorem pathLate_refuse (k : Nat) (rq : Req) (s : State) : AllRefuse (pathLate k rq s) := by simp [pathLate]
@[simp] theorem modeChecks_refuse (m : Mode) (n : Nat) (s : State) : AllRefuse (modeChecks m n s) := by simp [modeChecks]

@[simp] theorem recordCheck_refuse (q : Fin 6) (tag : W16) (target : W12) (s : State) : AllRefuse (recordCheck q tag target s) := by simp [recordCheck]

/-! ### The checks of every command -/

theorem HasSoundForm.of_do {o : OpInfo} {c : Req → Instr} {f : Req → State → State} (hf : ∀ rq s, exec (c rq) s = .next (f rq s))
    (h : ∀ rq s, ∃ k eff, f rq s = command o rq k s eff ∧ k.Sound o) : HasSoundForm (o, c) := fun rq s => by
  obtain ⟨k, eff, hk, hs⟩ := h rq s
  exact ⟨k, eff, (hf rq s).trans (congrArg _ hk), hs⟩

/-- The opcodes with a NOT_PERMITTED of their own at step 7 (R475). -/
def rankedOps : List (OpInfo × (Req → Instr)) :=
  [(opStrokeSet, .strokeSet), (opBootExec, .bootExec), (opSignerSlotProgram, .signerSlotProgram), (opSignerRevoke, .signerRevoke),
    (opRollbackAdvance, .rollbackAdvance), (opPgStatusRead, .pgStatusRead)]

theorem rankedOps_sound : ∀ e ∈ rankedOps, HasSoundForm e := by
  simp only [rankedOps, List.forall_mem_cons, List.not_mem_nil, false_implies, implies_true, and_true]
  and_intros
  all_goals
    refine .of_do (fun _ _ => rfl) fun rq s => ?_
    simp only [doStrokeSet, doBootExec, doSignerSlotProgram, doSignerRevoke, doRollbackAdvance, doPgStatusRead]
    exact ⟨_, _, rfl, .inr (by simp [RanksAtStep7]), by simp [underAdminMac], by simp⟩

/-- The opcodes whose operation first names a field of the parameters, and then uses it in its effect. -/
def fieldOps : List (OpInfo × (Req → Instr)) :=
  [(opCommitListRead, .commitListRead), (opCommitCancel, .commitCancel), (opMapRead, .mapRead), (opContRead, .contRead), (opTestRead, .testRead),
    (opFabRouteRead, .fabRouteRead), (opFabPathSet, .fabPathSet), (opTxCfg, .txCfg), (opRxCfg, .rxCfg), (opLineTtiRead, .lineTtiRead),
    (opProgWrite, .progWrite), (opRuleWrite, .ruleWrite), (opRuleRead, .ruleRead), (opOutRead, .outRead), (opI2cXfer, .i2cXfer),
    (opImageStage, .imageStage), (opImageInstall, .imageInstall), (opFaultRead, .faultRead), (opEvcRead, .evcRead), (opPmRead, .pmRead),
    (opWinRead, .winRead), (opEvtMaskWrite, .evtMaskWrite), (opEvtMaskRead, .evtMaskRead), (opEvtPop, .evtPop)]

theorem fieldOps_sound : ∀ e ∈ fieldOps, HasSoundForm e := by
  simp only [fieldOps, List.forall_mem_cons, List.not_mem_nil, false_implies, implies_true, and_true]
  and_intros
  all_goals
    refine .of_do (fun _ _ => rfl) fun rq s => ?_
    simp only [doCommitListRead, doCommitCancel, doMapRead, doContRead, doTestRead, doFabRouteRead, doFabPathSet, doTxCfg, doRxCfg, doLineTtiRead,
      doProgWrite, doRuleWrite, doRuleRead, doOutRead, doI2cXfer, doImageStage, doImageInstall, doFaultRead, doEvcRead, doPmRead, doWinRead,
      doEvtMaskWrite, doEvtMaskRead, doEvtPop]
    exact ⟨_, _, rfl, Checks.sound_of_noRole rfl (by simp)⟩

theorem isCommand_sound (e : OpInfo × (Req → Instr)) (he : IsCommand e) : HasSoundForm e := by
  have hranked := rankedOps_sound
  have hfield := fieldOps_sound
  simp only [rankedOps, fieldOps, List.forall_mem_cons] at hranked hfield
  revert e
  simp only [isCommand_iff_mem, commandTable, List.forall_mem_cons, List.not_mem_nil, false_implies, implies_true, and_true, hranked, hfield, true_and]
  and_intros
  all_goals exact fun rq s => ⟨_, _, rfl, Checks.sound_of_noRole rfl (by simp)⟩

/-! ### The refusal that is answered (R95, R475) -/

theorem firstFail_append (l m : List Check) : firstFail (l ++ m) = (firstFail l).or (firstFail m) := by
  induction l with
  | nil => rfl
  | cons c l ih => cases c <;> simp [firstFail, ih]

@[simp] theorem levelCheck_refuses (o : OpInfo) (rq : Req) (s : State) : (levelCheck o rq s).Refuses := Check.refuses_need _ _ nofun
@[simp] theorem modeCheck_refuses (o : OpInfo) (s : State) : (modeCheck o s).Refuses := by unfold modeCheck; split <;> simp
@[simp] theorem headerCheck_refuses (o : OpInfo) (rq : Req) (s : State) : (headerCheck o rq s).Refuses := by simp [headerCheck]
@[simp] theorem macCheck_refuses (rq : Req) : (macCheck rq).Refuses := by unfold macCheck; split <;> simp
@[simp] theorem tableCheck_refuses (rq : Req) (s : State) : (tableCheck rq s).Refuses := by unfold tableCheck; split <;> simp

/-- A command is refused with a status other than OK. -/
theorem Checks.Sound.refusal_ne_ok {o : OpInfo} {k : Checks} (h : k.Sound o) {rq : Req} {s : State} {r : Rej} (hr : refusal o rq k s = some r) : r.st ≠ .ok := by
  have hrole : AllRefuse k.role := fun c hc r hr => by simp [h.role c hc r hr]
  have hother := h.other
  refine Check.refuses_firstFail ?_ r hr
  simp_all

theorem modeCheck_eq_none (o : OpInfo) (s : State) : modeCheck o s = none ↔ (s.boot.rom = true → o.rom = true) ∧ (inQuench s = true → o.q = true) := by
  cases hrom : s.boot.rom <;> cases hq : inQuench s <;> cases ho : o.rom <;> simp [modeCheck, hrom, hq, ho, need]

theorem headerCheck_eq_none (o : OpInfo) (rq : Req) (s : State) : headerCheck o rq s = none ↔
    rq.rsv = 0#3 ∧ (if rq.cmt then o.cmt ≠ .never ∧ rq.commit.toNat ≤ scnt s + 16777216 else o.cmt ≠ .required ∧ rq.commit = 0#48) := by
  have hzero : rq.commit = 0#48 ↔ hi16 rq.commit = 0 ∧ lo32 rq.commit = 0 := by
    simp only [hi16, lo32, ← BitVec.toNat_inj, Nat.shiftRight_eq_div_pow, BitVec.toNat_ofNat]
    omega
  cases hc : rq.cmt <;> simp [headerCheck, firstFail_eq_none, hc, hzero] <;> tauto

/-- A command whose checks all pass is admitted. -/
theorem admitted_of_refusal_none {o : OpInfo} {rq : Req} {k : Checks} {s : State} (ha : alive s = true) (hm : s.mode.miscompare = false)
    (h : refusal o rq k s = none) : Admitted o rq s := by
  obtain ⟨hlevel, -, hmode, -, hheader, hmac, -, -, htable⟩ := (refusal_eq_none ..).1 h
  rw [levelCheck, need_eq_none, decide_eq_true_eq] at hlevel
  obtain ⟨hrom, hq⟩ := (modeCheck_eq_none ..).1 hmode
  obtain ⟨hrsv, hcmt⟩ := (headerCheck_eq_none ..).1 hheader
  refine ⟨ha, hm, hlevel, hrom, hq, fun hc => ?_, fun hc => ?_, hrsv, ?_⟩
  · rw [if_pos hc] at hcmt
    rw [tableCheck, if_pos hc, firstFail_eq_none] at htable
    simp only [List.forall_mem_cons, need_eq_none, decide_eq_true_eq] at htable
    exact ⟨hcmt.1, htable.2.1, hcmt.2, htable.1⟩
  · simpa [hc] using hcmt
  · unfold macCheck at hmac
    cases hmac' : rq.mac <;> simp_all

/-- Settles O9: a command whose checks all pass is admitted, and every refusal has a status other than OK. -/
theorem notAdmittedIsRefused : Obligations.NotAdmittedIsRefused := by
  intro e he rq s ha hm hadm
  obtain ⟨k, eff, hexec, hk⟩ := isCommand_sound e he rq s
  obtain ⟨r, hr⟩ := Option.ne_none_iff_exists'.1 fun h => hadm (admitted_of_refusal_none ha hm h)
  exact ⟨r, hk.refusal_ne_ok hr, hexec.trans (congrArg _ (command_of_refusal _ _ _ _ _ _ ha hr))⟩

/-! ### Levels (R95 step 7, R96) -/

theorem provisioned_iff (s : State) : provisioned s = true ↔ ∃ n < 8, (akOf s n).key.isSome = true ∧ (akOf s n).level = 3 := by
  simp [provisioned]

theorem unauthCode_bounds (l : UnauthLevel) : unauthCode l = 1 ∨ unauthCode l = 2 := by cases l <;> simp [unauthCode]

@[simp] theorem unauthCode_ne_admin (l : UnauthLevel) : unauthCode l ≠ 3 := by cases l <;> simp [unauthCode]

/-- UNAUTH_LEVEL of a queue in word 0 of ACCESS_POLICY. -/
theorem fld_unauthWord (v : Vector UnauthLevel 6) (q : Fin 6) : fld (unauthWord v) (2 * q.val + 1) (2 * q.val) = unauthCode (v.toList.getD q .observer) := by
  have hlt : ∀ l, unauthCode l < 4 := fun l => by cases l <;> simp [unauthCode]
  obtain ⟨⟨l⟩, hl⟩ := v
  match l, hl with
  | [a, b, c, d, e, f], _ =>
    have ha := hlt a
    have hb := hlt b
    have hc := hlt c
    have hd := hlt d
    have he := hlt e
    have hf := hlt f
    fin_cases q <;> simp only [unauthWord, word, fld, Nat.shiftLeft_eq, Nat.shiftRight_eq_div_pow] <;> simp <;> omega

theorem packetLevel_of_noMac {rq : Req} {s : State} (h : rq.mac = none) :
    packetLevel rq s = if rq.cq.val ≤ 4 ∧ provisioned s = false then 3 else unauthCode (s.cmd.unauth.toList.getD rq.cq .observer) := by
  simp [packetLevel, h, unauthLevel]

/-- Settles O10: step 7 is the first check of every command, and the level of a packet is that of its slot or of its queue. -/
theorem levelIsCheckedFirst : Obligations.LevelIsCheckedFirst := by
  refine ⟨fun e he rq s ha hlow => ?_, fun rq m s hmac hkey => ?_, provisioned_iff, fun rq s hmac hq => ?_, fun rq s hmac hq => ?_⟩
  · obtain ⟨k, eff, hexec, -⟩ := isCommand_sound e he rq s
    rw [hexec, command_of_refusal _ _ _ _ _ _ ha (refusal_of_low_level _ _ _ _ hlow)]
  · simp [packetLevel, hmac, hkey]
  · rw [packetLevel_of_noMac hmac]
    cases provisioned s <;> simp [hq]
  · have hcond : ¬(rq.cq.val ≤ 4 ∧ provisioned s = false) := by
      rintro ⟨hle, hp⟩
      rcases hq with h | h
      · omega
      · simp [hp] at h
    rw [packetLevel_of_noMac hmac, if_neg hcond, fld_unauthWord]
    exact ⟨rfl, unauthCode_bounds _⟩

/-! ### RSTN, the boot ROM and QUENCH (R98) -/

theorem fetch_of_pcieOff {s : State} (h : pcieOn s = false) (push : Nat → List W32 → State → State) (ch : Fin 4) (ws : List W32) (good : Bool) :
    fetch push ch ws good s = s := by
  simp [fetch, h]

theorem ringWrite_of_pcieOff {s : State} (h : pcieOn s = false) (ch : Fin 4) (head : Option W32) : ringWrite ch head s = s := by
  have hnext : ringNext ch head s = none := by simp [ringNext, h]
  unfold ringWrite
  rw [hnext]
  cases head <;> simp [h]

/-- With no refusal of its level, a command that the boot stage or the mode does not accept gets that refusal, or a NOT_PERMITTED of its own before (R475). -/
theorem Checks.Sound.refusal_of_modeCheck {o : OpInfo} {k : Checks} (hk : k.Sound o) {rq : Req} {s : State} {r : Rej} (hl : opcodeLevel o s ≤ packetLevel rq s)
    (hmode : modeCheck o s = some r) : ∃ r', refusal o rq k s = some r' ∧ (r' = r ∨ r'.st = .notPermitted ∧ RanksAtStep7 o) := by
  have hlevel : levelCheck o rq s = none := by simp [levelCheck, hl]
  have hfirst : refusal o rq k s = (firstFail k.role).or (some r) := by simp [refusal, firstFail_append, firstFail, hlevel, hmode]
  cases hrole : firstFail k.role with
  | none => exact ⟨r, by simp [hfirst, hrole], .inl rfl⟩
  | some r' =>
    have hmem := mem_of_firstFail hrole
    refine ⟨r', by simp [hfirst, hrole], .inr ⟨hk.role _ hmem r' rfl, hk.ranks.resolve_left fun h => ?_⟩⟩
    simp [h] at hmem

/-- Only the refusal by the boot stage or the mode, or a NOT_PERMITTED of the opcode's own before it, is answered. -/
theorem exec_of_modeCheck {e : OpInfo × (Req → Instr)} (he : IsCommand e) {rq : Req} {s : State} {r : Rej} (ha : alive s = true)
    (hl : opcodeLevel e.1 s ≤ packetLevel rq s) (hmode : modeCheck e.1 s = some r) :
    ∃ r', exec (e.2 rq) s = .next (reply e.1.code rq (keyOf rq s) r' [] s) ∧ (r' = r ∨ r'.st = .notPermitted ∧ RanksAtStep7 e.1) := by
  obtain ⟨k, eff, hexec, hk⟩ := isCommand_sound e he rq s
  obtain ⟨r', hr', hcases⟩ := hk.refusal_of_modeCheck hl hmode
  exact ⟨r', hexec.trans (congrArg _ (command_of_refusal _ _ _ _ _ _ ha hr')), hcases⟩

/-- The boot ROM serves five opcodes. -/
theorem rom_iff (e : OpInfo × (Req → Instr)) (he : IsCommand e) :
    e.1.rom = true ↔ e.1.code ∈ [opEcho.code, opSysStatusRead.code, opBootStatusRead.code, opImageStage.code, opBootExec.code] := by
  have hall := he.of_all
    (p := fun o => o.rom == decide (o.code ∈ [opEcho.code, opSysStatusRead.code, opBootStatusRead.code, opImageStage.code, opBootExec.code])) (by decide)
  rw [eq_of_beq hall, decide_eq_true_eq]

/-- Settles O11: with RSTN low neither transport runs, and the boot stage and the mode are checked right after step 7. -/
theorem onlyAcceptedOpcodesExecute : Obligations.OnlyAcceptedOpcodesExecute := by
  refine ⟨fun s hlow => ?_, rom_iff, fun e he rq s ha hl hrom hnot => ?_, fun e he rq s ha hl hrom hq hnot => ?_⟩
  · have hpcie : pcieOn s = false := by simp [pcieOn, hlow]
    have hspi : spiOn s = false := by simp [spiOn, hlow]
    have halive : alive s = false := by simp [alive, hlow]
    refine ⟨fun ch v => ⟨?_, ?_, ?_, ?_, fun head => congrArg ok (ringWrite_of_pcieOff hpcie ch head)⟩, fun m => ⟨?_, ?_⟩, fun w off => ⟨?_, ?_⟩,
      fun ch ws f => congrArg ok (fetch_of_pcieOff hpcie _ ch ws f.good), fun p n b => ⟨?_, ?_, ?_, ?_, congrArg ok (by simp [hspi])⟩, ok_neg (by simp [halive]) _ _⟩
    all_goals exact ok_neg (by simp [*]) _ _
  · exact exec_of_modeCheck he ha hl (by simp [modeCheck, hrom, hnot])
  · exact exec_of_modeCheck he ha hl (by simp [modeCheck, hrom, hq, hnot, need])

/-! ### A fault that meets the command in progress (R74, R398, R440, R445) -/

/-- The state once the mark of the fault has been taken. -/
def markTaken (s : State) : State := s.onMode fun v => { v with miscompare := false }

/-- Where a fault has met it, a command that is not refused returns INTERNAL and keeps no effect. -/
theorem command_of_miscompare {o : OpInfo} {rq : Req} {k : Checks} {s : State} {eff : State → Answer} (ha : alive s = true) (hm : s.mode.miscompare = true)
    (h : refusal o rq k s = none) :
    command o rq k s eff = reply o.code rq (keyOf rq s) (internalRej (internalEntry o.code (markTaken s))) [] (internalEntry o.code (markTaken s)) := by
  simp only [command, ha, h, hm]
  rfl

theorem internalEntry_eq (opcode : Nat) (s : State) : internalEntry opcode s =
    { s with store := { s.store with record := (internalEntry opcode s).store.record, serial := s.store.serial + 1#32 } } := by
  unfold internalEntry faultRecord
  rfl

/-- The fault record is a ring of 64 entries (R423). -/
theorem length_record_internalEntry (opcode : Nat) (s : State) :
    (internalEntry opcode s).store.record.length = min 64 (s.store.record.length + 1) := by
  simp [internalEntry, faultRecord]
  omega

theorem getLast?_record_internalEntry (opcode : Nat) (s : State) :
    ((internalEntry opcode s).store.record.getLast?.map fun x => (x.code, x.detail, x.serial, x.scnt)) = some (0x20, opcode, s.store.serial, s.stk.scnt) := by
  simp [internalEntry, faultRecord, List.getLast?_drop]

theorem refusal_of_admitted {o : OpInfo} {rq : Req} {s : State} (k : Checks) (h : Admitted o rq s) (hr : ∀ c ∈ k.role, c = none) (hu : ∀ c ∈ k.unit, c = none)
    (hp : ∀ c ∈ k.par, c = none) (hl : ∀ c ∈ k.late, c = none) : refusal o rq k s = none := by
  have hheader := headerCheck_of_admitted h
  obtain ⟨-, -, hlevel, hrom, hq, hcmt, -, -, hrsv⟩ := h
  refine (refusal_eq_none ..).2 ⟨by simp [levelCheck, hlevel], hr, (modeCheck_eq_none ..).2 ⟨hrom, hq⟩, hu, hheader, ?_, hp, hl, ?_⟩
  · unfold macCheck
    cases hm : rq.mac <;> simp_all
  · unfold tableCheck
    split
    next hc => simp [firstFail_eq_none, hcmt hc]
    next => rfl

/-- A command that would be admitted without the mark, and checks only its parameters beside. -/
theorem command_of_markTaken {o : OpInfo} {rq : Req} {l : List Check} {s : State} (eff : State → Answer) (hm : s.mode.miscompare = true)
    (h : Admitted o rq (markTaken s)) (hp : ∀ c ∈ l, c = none) : command o rq { par := l } s eff =
      reply o.code rq (keyOf rq s) (internalRej (internalEntry o.code (markTaken s))) [] (internalEntry o.code (markTaken s)) :=
  have hpass : refusal o rq { par := l } (markTaken s) = none := refusal_of_admitted _ h nofun nofun hp nofun
  command_of_miscompare h.1 hm hpass

theorem reply_mode (opcode : Nat) (rq : Req) (key : Option (BitVec 256)) (r : Rej) (res : List W32) (s : State) :
    (reply opcode rq key r res s).mode = s.mode := by rw [reply_eq]

theorem reply_store (opcode : Nat) (rq : Req) (key : Option (BitVec 256)) (r : Rej) (res : List W32) (s : State) :
    (reply opcode rq key r res s).store = s.store := by rw [reply_eq]

/-- Settles O13: the mark is taken with the INTERNAL that it makes of the command, or stays with a refusal. That the next executed command meets
the fault is the model's choice (log entry 45), as is the entry from which DETAIL counts (log entry 13). -/
theorem internalUndoesTheCommand : Obligations.InternalUndoesTheCommand := by
  refine ⟨fun e he rq s t ha hm ht => ?_, fun opcode s => ⟨internalEntry_eq opcode s, length_record_internalEntry opcode s⟩,
    getLast?_record_internalEntry, fun rq s => ?_⟩
  · obtain ⟨k, eff, hexec, hk⟩ := isCommand_sound e he rq s
    obtain rfl := Host.Outcome.next.inj (hexec.symm.trans ht)
    cases hr : refusal e.1 rq k s with
    | some r =>
      rw [command_of_refusal _ _ _ _ _ _ ha hr]
      refine ⟨.inl ⟨r, hk.refusal_ne_ok hr, rfl⟩, ?_⟩
      conv_lhs => rw [reply_eq]
      rw [reply_mode, reply_store]
    | none =>
      rw [command_of_miscompare ha hm hr]
      refine ⟨.inr rfl, ?_⟩
      conv_lhs => rw [reply_eq]
      rw [reply_mode, reply_store]
      conv_lhs => rw [internalEntry_eq]
      rfl
  · intro a hm
    refine ⟨fun hadm hn => ?_, fun hadm hn hbits h1 h2 h3 => ?_, fun hadm hn hbits h1 h2 => ?_⟩
    · exact congrArg ok (command_of_markTaken _ hm hadm (by simp [hn]))
    · exact congrArg ok (command_of_markTaken _ hm hadm (by simp [-BitVec.reduceNot, *]))
    · refine congrArg ok (?_ : doEvtPop rq s = _)
      unfold doEvtPop
      exact command_of_markTaken _ hm hadm (by simp [-BitVec.reduceNot, *])

end Sys2Proof.Machine
end

section
/-! O4, O5: the packets that the encoding of R67 to R72 writes, and what is read of them. -/

namespace Sys2Proof.Machine

/-! ### Words and their fields -/

theorem word_toNat (l : List (Nat × Nat)) : (word l).toNat = (l.map fun p => p.1 <<< p.2).sum % 4294967296 := by
  have hfold : ∀ (l : List (Nat × Nat)) (a : Nat), l.foldl (fun a p => a + p.1 <<< p.2) a = a + (l.map fun p => p.1 <<< p.2).sum := by
    intro l
    induction l with
    | nil => intro a; rfl
    | cons p l ih => intro a; rw [List.foldl_cons, ih, List.map_cons, List.sum_cons, Nat.add_assoc]
  rw [word, BitVec.toNat_ofNat, hfold, Nat.zero_add]

theorem fld_eq_div (w : W32) (hi lo : Nat) : fld w hi lo = w.toNat / 2 ^ lo % 2 ^ (hi + 1 - lo) := by rw [fld, Nat.shiftRight_eq_div_pow]

theorem bit_of_flag {w : W32} {i : Nat} {b : Bool} (h : w.toNat / 2 ^ i % 2 = flag b) : bit w i = b := by
  rw [bit, BitVec.getLsbD, Nat.testBit_eq_decide_div_mod_eq, h]
  cases b <;> simp [flag]

theorem flag_lt_two (b : Bool) : flag b < 2 := by cases b <;> simp [flag]

theorem hi16_lt (v : W48) : hi16 v < 65536 := by
  have := v.isLt
  rw [hi16, Nat.shiftRight_eq_div_pow]
  omega

theorem hi16_lo32 (v : W48) : hi16 v * 4294967296 + lo32 v = v.toNat := by
  rw [hi16, lo32, Nat.shiftRight_eq_div_pow]
  omega

theorem lo32_word (v : W48) : (BitVec.ofNat 32 (lo32 v)).toNat = lo32 v := by simp [lo32]

/-- A stroke number is read back from its two words, whatever stands above its upper 16 bits. -/
theorem w48_of_words {w : W32} {v : W48} (h : w.toNat % 65536 = hi16 v) : w48 w (BitVec.ofNat 32 (lo32 v)) = v := by
  have := hi16_lo32 v
  apply BitVec.eq_of_toNat_eq
  rw [w48, BitVec.toNat_ofNat, lo32_word, Nat.shiftLeft_eq]
  have := v.isLt
  omega

@[simp] theorem flag_false : flag false = 0 := rfl
@[simp] theorem flag_true : flag true = 1 := rfl

/-- Header word 0 of a command (R67). -/
theorem header0_toNat (cmt mac quiet : Bool) (tgt src : W12) :
    (word [(1, 28), (flag cmt, 26), (flag mac, 25), (flag quiet, 24), (tgt.toNat, 12), (src.toNat, 0)]).toNat =
      268435456 + flag cmt * 67108864 + flag mac * 33554432 + flag quiet * 16777216 + tgt.toNat * 4096 + src.toNat := by
  have h1 := flag_lt_two cmt
  have h2 := flag_lt_two mac
  have h3 := flag_lt_two quiet
  simp only [word_toNat, List.map_cons, List.map_nil, List.sum_cons, List.sum_nil]
  simp only [Nat.shiftLeft_eq]
  omega

theorem header0_read (cmt mac quiet : Bool) (tgt src : W12) :
    let w := word [(1, 28), (flag cmt, 26), (flag mac, 25), (flag quiet, 24), (tgt.toNat, 12), (src.toNat, 0)]
    (fld w 31 28 = 1 ∧ bit w 27 = false ∧ bit w 26 = cmt ∧ bit w 25 = mac ∧ bit w 24 = quiet) ∧ fld w 23 12 = tgt.toNat ∧ fld w 11 0 = src.toNat := by
  have h1 := flag_lt_two cmt
  have h2 := flag_lt_two mac
  have h3 := flag_lt_two quiet
  have hw := header0_toNat cmt mac quiet tgt src
  intro w
  refine ⟨⟨?_, bit_of_flag (b := false) ?_, bit_of_flag ?_, bit_of_flag ?_, bit_of_flag ?_⟩, ?_, ?_⟩
  all_goals
    simp only [fld_eq_div, w, hw, flag_false]
    clear hw w
  all_goals omega

/-- Two halves of a word. -/
theorem halves_read {a b : Nat} (ha : a < 65536) (hb : b < 65536) : fld (word [(a, 16), (b, 0)]) 31 16 = a ∧ fld (word [(a, 16), (b, 0)]) 15 0 = b := by
  have hw : (word [(a, 16), (b, 0)]).toNat = a * 65536 + b := by
    simp only [word_toNat, List.map_cons, List.map_nil, List.sum_cons, List.sum_nil]
    simp only [Nat.shiftLeft_eq]
    omega
  simp only [fld_eq_div, hw]
  omega

/-- LENGTH, three more bits and the upper half of COMMIT in header word 2 (R67). -/
theorem header2_read {n r : Nat} (v : W48) (hn : n < 8192) (hr : r < 8) :
    let w := word [(n, 19), (r, 16), (hi16 v, 0)]
    fld w 31 19 = n ∧ fld w 18 16 = r ∧ w.toNat % 65536 = hi16 v := by
  intro w
  have hv := hi16_lt v
  have hw : w.toNat = n * 524288 + r * 65536 + hi16 v := by
    simp only [w, word_toNat, List.map_cons, List.map_nil, List.sum_cons, List.sum_nil]
    simp only [Nat.shiftLeft_eq]
    omega
  simp only [fld_eq_div, hw]
  omega

/-- Word A0 of the authentication block (R68, R70). -/
theorem authWord_read {r : Nat} (k : Fin 8) (v : W48) (hr : r < 8192) :
    let w := word [(hi16 v, 16), (r, 3), (k, 0)]
    fld w 31 16 = hi16 v ∧ fld w 15 3 = r ∧ fld w 2 0 = k := by
  intro w
  have hv := hi16_lt v
  have hw : w.toNat = hi16 v * 65536 + r * 8 + k := by
    simp only [w, word_toNat, List.map_cons, List.map_nil, List.sum_cons, List.sum_nil]
    simp only [Nat.shiftLeft_eq]
    omega
  simp only [fld_eq_div, hw]
  omega

/-! ### The shape of a packet (R67, R69, R70) -/

theorem length_wordsOfNat (n v : Nat) : (wordsOfNat n v).length = n := by
  induction n with
  | zero => rfl
  | succ n ih => simp [wordsOfNat, ih]

theorem length_macOver (key : BitVec 256) (mask w : W32) (ws : List W32) : (macOver key mask (w :: ws)).length = 4 := length_wordsOfNat _ _

/-- The packet of `b` and its CRC. -/
theorem crcOk_append (b : List W32) : crcOk (b ++ [crcWords b]) = true := by simp [crcOk]

/-- The authentication block is read back from the end of its packet. -/
theorem macInfo_append (b : List W32) (m : MacInfo) {c : List W32} (hc : c.length = 5) :
    macInfo (b ++ [word [(hi16 m.seq, 16), (m.rsv.toNat, 3), (m.slot, 0)], BitVec.ofNat 32 (lo32 m.seq)] ++ c) = m := by
  have hdrop : (b ++ [word [(hi16 m.seq, 16), (m.rsv.toNat, 3), (m.slot, 0)], BitVec.ofNat 32 (lo32 m.seq)] ++ c).drop
      ((b ++ [word [(hi16 m.seq, 16), (m.rsv.toNat, 3), (m.slot, 0)], BitVec.ofNat 32 (lo32 m.seq)] ++ c).length - 7)
      = word [(hi16 m.seq, 16), (m.rsv.toNat, 3), (m.slot, 0)] :: BitVec.ofNat 32 (lo32 m.seq) :: c := by
    rw [List.append_assoc]
    exact List.drop_left' (by simp [hc])
  obtain ⟨hseq, hrsv, hslot⟩ := authWord_read m.slot m.seq m.rsv.isLt
  unfold macInfo
  simp only [hdrop, List.getD_cons_zero, List.getD_cons_succ, hseq, hrsv, hslot, lo32_word, hi16_lo32]
  simp [Nat.mod_eq_of_lt m.slot.isLt]

/-- The CMAC of a packet that ends with it and the CRC verifies. -/
theorem cmacOk_append (key : BitVec 256) (w : W32) (ws : List W32) (x : W32) :
    cmacOk key (w :: ws ++ macOver key 0xFFFFF000#32 (w :: ws) ++ [x]) = true := by
  have hlen := length_macOver key 0xFFFFF000#32 w ws
  have hn : (w :: ws ++ macOver key 0xFFFFF000#32 (w :: ws) ++ [x]).length - 5 = (w :: ws).length := by simp [hlen]
  rw [cmacOk, hn, List.append_assoc, List.drop_left, List.take_left, List.take_left' hlen]
  simp

/-- The header of a command of `n` words (R67). -/
def headerWords (opcode : Nat) (rq : Req) (src : W12) (n : Nat) : List W32 :=
  [word [(1, 28), (flag rq.cmt, 26), (flag rq.mac.isSome, 25), (flag rq.quiet, 24), (rq.tgt.toNat, 12), (src.toNat, 0)],
    word [(opcode, 16), (rq.tag.toNat, 0)], word [(n, 19), (rq.rsv.toNat, 16), (hi16 rq.commit, 0)], BitVec.ofNat 32 (lo32 rq.commit)]

theorem length_headerWords (opcode : Nat) (rq : Req) (src : W12) (n : Nat) : (headerWords opcode rq src n).length = 4 := rfl

/-- Words A0 and A1 of the authentication block (R70). -/
def authWords (m : MacInfo) : List W32 := [word [(hi16 m.seq, 16), (m.rsv.toNat, 3), (m.slot, 0)], BitVec.ofNat 32 (lo32 m.seq)]

/-- What a packet carries after its parameters: nothing, or its authentication block. -/
def packetBlock (rq : Req) (key : BitVec 256) (a : List W32) : List W32 :=
  match rq.mac with
  | some m => authWords m ++ macOver key 0xFFFFF000#32 (a ++ authWords m)
  | none => []

/-- A packet is its header, its parameters, its block and the CRC of all these. -/
theorem rebuild_eq (opcode : Nat) (rq : Req) (src : W12) (key : BitVec 256) :
    let h := headerWords opcode rq src (4 + rq.params.length + (if rq.mac.isSome then 6 else 0) + 1)
    let b := h ++ rq.params ++ packetBlock rq key (h ++ rq.params)
    rebuild opcode rq src.toNat (some key) = b ++ [crcWords b] := by
  cases hm : rq.mac <;> simp [rebuild, headerWords, packetBlock, authWords, hm]

theorem length_packetBlock (rq : Req) (key : BitVec 256) (w : W32) (a : List W32) :
    (packetBlock rq key (w :: a)).length = if rq.mac.isSome then 6 else 0 := by
  cases hm : rq.mac <;> simp [packetBlock, authWords, hm, length_macOver]

/-- What the later steps read of a packet with the header of a command, `c` standing between its parameters and its end. -/
theorem packetReq_of_header {q : Fin 6} {opcode n : Nat} {rq : Req} {src : W12} {c : List W32} (hop : opcode < 65536) (hn : n < 8192)
    (hc : c.length = (if rq.mac.isSome then 6 else 0) + 1) :
    packetReq q (headerWords opcode rq src n ++ rq.params ++ c) = { rq with cq := q, src := src, mac := none } := by
  obtain ⟨⟨-, -, hcmt, hmac, hquiet⟩, htgt, hsrc⟩ := header0_read rq.cmt rq.mac.isSome rq.quiet rq.tgt src
  obtain ⟨-, htag⟩ := halves_read hop rq.tag.isLt
  obtain ⟨-, hrsv, hcommit⟩ := header2_read rq.commit hn rq.rsv.isLt
  have hparams : rq.params.length + c.length + 4 - 5 - (if rq.mac.isSome then 6 else 0) = rq.params.length := by omega
  simp [packetReq, headerWords, *, w48_of_words]

/-- Settles O5: the header, the parameters, the block and the CRC each are read back from their place. -/
theorem packetsSpellTheirCommand : Obligations.PacketsSpellTheirCommand := by
  intro q opcode rq src key hop hlen ws
  have hws : ws = _ := rebuild_eq opcode rq src key
  generalize hn : 4 + rq.params.length + (if rq.mac.isSome then 6 else 0) + 1 = n at hws
  have hblock : (packetBlock rq key (headerWords opcode rq src n ++ rq.params)).length = if rq.mac.isSome then 6 else 0 := length_packetBlock ..
  generalize hb : headerWords opcode rq src n ++ rq.params ++ packetBlock rq key (headerWords opcode rq src n ++ rq.params) = b at hws
  have hlength : ws.length = n := by
    simp only [hws, ← hb, List.length_append, hblock, length_headerWords, List.length_cons, List.length_nil]
    omega
  have hmax : n ≤ 4096 := by cases hm : rq.mac <;> simp [hm] at hlen hn <;> omega
  obtain ⟨⟨hversion, hreply, -, hmac, -⟩, htgt, -⟩ := header0_read rq.cmt rq.mac.isSome rq.quiet rq.tgt src
  obtain ⟨hcode, -⟩ := halves_read hop rq.tag.isLt
  obtain ⟨hfield, -, -⟩ := header2_read rq.commit (by omega : n < 8192) rq.rsv.isLt
  have h0 : ws.getD 0 0#32 = word [(1, 28), (flag rq.cmt, 26), (flag rq.mac.isSome, 25), (flag rq.quiet, 24), (rq.tgt.toNat, 12), (src.toNat, 0)] := by
    rw [hws, ← hb]; rfl
  have h1 : ws.getD 1 0#32 = word [(opcode, 16), (rq.tag.toNat, 0)] := by rw [hws, ← hb]; rfl
  have h2 : ws.getD 2 0#32 = word [(n, 19), (rq.rsv.toNat, 16), (hi16 rq.commit, 0)] := by rw [hws, ← hb]; rfl
  have hlf : lengthField ws = n := by rw [lengthField, h2, hfield]
  refine ⟨⟨hlf.trans hlength.symm, ?_, hws ▸ crcOk_append b, h0 ▸ hversion, h0 ▸ hreply⟩, ⟨?_, ?_, h0 ▸ hmac⟩, ?_, fun m hm => ⟨?_, ?_⟩⟩
  · rw [lengthOk, hlf, h0, hmac]
    cases hm : rq.mac <;> simp [hm] at hn ⊢ <;> omega
  · rw [rawOpcode, h1, hcode]
  · rw [pktTarget, h0, htgt]
  · rw [hws, ← hb, List.append_assoc]
    exact packetReq_of_header hop (by omega) (by simp [hblock])
  · rw [hws, ← hb, packetBlock, hm, ← List.append_assoc, List.append_assoc]
    exact macInfo_append _ m (by rw [List.length_append]; exact congrArg (· + 1) (length_macOver ..))
  · rw [hws, ← hb, packetBlock, hm, ← List.append_assoc]
    exact cmacOk_append ..

/-! ### The shape of a reply (R72) -/

/-- Header word 0 of a reply. -/
theorem replyHeader0_read (mac : Bool) (tgt src : W12) :
    let w := word [(1, 28), (1, 27), (1, 26), (flag mac, 25), (tgt.toNat, 12), (src.toNat, 0)]
    (fld w 31 28 = 1 ∧ bit w 27 = true ∧ bit w 26 = true ∧ bit w 25 = mac ∧ bit w 24 = false) ∧ fld w 23 12 = tgt.toNat ∧ fld w 11 0 = src.toNat := by
  have hmac := flag_lt_two mac
  have hw : (word [(1, 28), (1, 27), (1, 26), (flag mac, 25), (tgt.toNat, 12), (src.toNat, 0)]).toNat =
      469762048 + flag mac * 33554432 + tgt.toNat * 4096 + src.toNat := by
    simp only [word_toNat, List.map_cons, List.map_nil, List.sum_cons, List.sum_nil]
    simp only [Nat.shiftLeft_eq]
    omega
  intro w
  refine ⟨⟨?_, bit_of_flag (b := true) ?_, bit_of_flag (b := true) ?_, bit_of_flag ?_, bit_of_flag (b := false) ?_⟩, ?_, ?_⟩
  all_goals
    simp only [fld_eq_div, w, hw, flag_false, flag_true]
    clear hw w
  all_goals omega

/-- A field that holds 0 adds nothing. -/
theorem word_skip (a b : Nat) : word [(a, 16), (b, 0)] = word [(a, 16), (0, 3), (b, 0)] := by simp [word]

/-- The header of a reply of `n` words, with its status word (R72). -/
def replyWords (opcode : Nat) (rq : Req) (r : Rej) (s : State) (n : Nat) : List W32 :=
  [word [(1, 28), (1, 27), (1, 26), (flag rq.mac.isSome, 25), (rq.src.toNat, 12), (s.fab.nodeAddr.toNat, 0)], word [(opcode, 16), (rq.tag.toNat, 0)],
    word [(n, 19), (0, 16), (hi16 s.stk.scnt, 0)], BitVec.ofNat 32 (lo32 s.stk.scnt), statusWord r]

/-- What a reply carries after its result words. -/
def replyBlock (rq : Req) (key : BitVec 256) (a : List W32) : List W32 :=
  match rq.mac with
  | some m => authWords { m with rsv := 0#13 } ++ macOver key 0xFF000FFF#32 (a ++ authWords { m with rsv := 0#13 })
  | none => []

theorem mkReply_eq (opcode : Nat) (rq : Req) (key : Option (BitVec 256)) (r : Rej) (res : List W32) (s : State) :
    let h := replyWords opcode rq r s (4 + 1 + res.length + (if rq.mac.isSome then 6 else 0) + 1)
    let b := h ++ res ++ replyBlock rq (key.getD 0#256) (h ++ res)
    mkReply opcode rq key r res s = b ++ [crcWords b] := by
  have hskip : ∀ a b, word [(a, 19), (0, 16), (b, 0)] = word [(a, 19), (b, 0)] := by simp [word]
  cases hm : rq.mac <;> simp [mkReply, replyWords, replyBlock, authWords, hm, hskip, word_skip]

theorem length_replyBlock (rq : Req) (key : BitVec 256) (w : W32) (a : List W32) :
    (replyBlock rq key (w :: a)).length = if rq.mac.isSome then 6 else 0 := by
  cases hm : rq.mac <;> simp [replyBlock, authWords, hm, length_macOver]

theorem length_replyWords (opcode : Nat) (rq : Req) (r : Rej) (s : State) (n : Nat) : (replyWords opcode rq r s n).length = 5 := rfl

theorem Status.code_lt (st : Status) : st.code < 65536 := by cases st <;> simp [Status.code]

/-- Settles O4: the header, the status word, the results and the block each are read back from their place. -/
theorem replyHasTheFormOfR72 : Obligations.ReplyHasTheFormOfR72 := by
  intro opcode rq key r res s hop hdetail hlen p
  have hp : p = _ := mkReply_eq opcode rq key r res s
  generalize hn : 4 + 1 + res.length + (if rq.mac.isSome then 6 else 0) + 1 = n at hp
  have hblock : (replyBlock rq (key.getD 0#256) (replyWords opcode rq r s n ++ res)).length = if rq.mac.isSome then 6 else 0 := length_replyBlock ..
  generalize hb : replyWords opcode rq r s n ++ res ++ replyBlock rq (key.getD 0#256) (replyWords opcode rq r s n ++ res) = b at hp
  have hlength : p.length = n := by
    simp only [hp, ← hb, List.length_append, hblock, length_replyWords, List.length_cons, List.length_nil]
    omega
  have hmax : n < 8192 := by split at hn <;> omega
  have h0 : p.getD 0 0#32 = word [(1, 28), (1, 27), (1, 26), (flag rq.mac.isSome, 25), (rq.src.toNat, 12), (s.fab.nodeAddr.toNat, 0)] := by
    rw [hp, ← hb]; rfl
  have h1 : p.getD 1 0#32 = word [(opcode, 16), (rq.tag.toNat, 0)] := by rw [hp, ← hb]; rfl
  have h2 : p.getD 2 0#32 = word [(n, 19), (0, 16), (hi16 s.stk.scnt, 0)] := by rw [hp, ← hb]; rfl
  have h3 : p.getD 3 0#32 = BitVec.ofNat 32 (lo32 s.stk.scnt) := by rw [hp, ← hb]; rfl
  have h4 : p.getD 4 0#32 = statusWord r := by rw [hp, ← hb]; rfl
  obtain ⟨hflags, htgt, hsrc⟩ := replyHeader0_read rq.mac.isSome rq.src s.fab.nodeAddr
  obtain ⟨hcode, htag⟩ := halves_read hop rq.tag.isLt
  obtain ⟨hfield, -, hscnt⟩ := header2_read s.stk.scnt hmax (by omega : 0 < 8)
  obtain ⟨hst, hdet⟩ := halves_read r.st.code_lt hdetail
  rw [h0, h1, h2, h3, h4]
  refine ⟨hflags, ⟨htgt, hsrc, hcode, htag⟩, ⟨?_, w48_of_words hscnt, hst, hdet⟩, ⟨?_, hp ▸ crcOk_append b⟩, fun m hm => ?_⟩
  · rw [lengthField, h2, hfield, hlength]
  · rw [hp, ← hb, List.append_assoc, List.append_assoc, List.drop_left' (length_replyWords ..), List.take_left]
  · have hmac : macInfo p = { m with rsv := 0#13 } := by
      rw [hp, ← hb, replyBlock, hm, ← List.append_assoc, List.append_assoc]
      exact macInfo_append _ { m with rsv := 0#13 } (by rw [List.length_append]; exact congrArg (· + 1) (length_macOver ..))
    simp [hmac]

end Sys2Proof.Machine
end

section
/-! O6, O7, O8: how a packet reaches its command. -/

namespace Sys2Proof.Machine

/-! ### Dispatch (R103) -/

/-- Each row of the table runs the operation that the handlers give for its code. -/
theorem commandTable_dispatched : ∀ e ∈ commandTable, ∀ (rq : Req) (s : State), exec (e.2 rq) s = .next (dispatchReq e.1.code rq s) := by
  simp only [commandTable, List.forall_mem_cons, List.not_mem_nil, false_implies, implies_true, and_true]
  and_intros <;> exact fun _ _ => rfl

/-- Every code with a handler is one of the table. -/
theorem handlers_code_mem : ∀ h ∈ handlers, h.1 ∈ commandTable.map fun e => e.1.code := by
  have hall : (handlers.map Prod.fst).all (fun c => (commandTable.map fun e => e.1.code).contains c) = true := by decide
  exact fun h hh => List.contains_iff_mem.1 (List.all_eq_true.1 hall _ (List.mem_map_of_mem hh))

theorem dispatchReq_of_unassigned {code : Nat} (hcode : ∀ e, IsCommand e → e.1.code ≠ code) (rq : Req) (s : State) :
    dispatchReq code rq s = reply code rq (keyOf rq s) { st := .badOpcode } [] s := by
  have hnone : (handlers.find? fun h => h.1 = code) = none := by
    refine List.find?_eq_none.2 fun h hh => ?_
    obtain ⟨e, he, heq⟩ := List.mem_map.1 (handlers_code_mem h hh)
    simpa [← heq] using hcode e ((isCommand_iff_mem e).2 he)
  simp only [dispatchReq, hnone]

/-- No two rows of the table have one code. -/
theorem commandTable_codes_nodup : (commandTable.map fun e => e.1.code).Nodup := by decide +kernel

/-- Settles O6: the table and the handlers have the same codes, each once. -/
theorem dispatchRunsEachOpcode : Obligations.DispatchRunsEachOpcode := by
  refine ⟨fun e he => commandTable_dispatched e ((isCommand_iff_mem e).1 he), fun code rq s h => dispatchReq_of_unassigned h rq s, fun e he => ?_,
    fun e f he hf hcode rq => ?_⟩
  · have hall := he.of_all (p := fun o => decide (0 < o.code) && decide (o.code < 0x0D00)) (by decide)
    simpa using hall
  · rw [isCommand_iff_mem] at he hf
    rw [List.inj_on_of_nodup_map commandTable_codes_nodup he hf hcode]

/-! ### Authentication (R71, R95 step 5) -/

theorem execPacket_of_authFail {q : Fin 6} {ws : List W32} {s : State} {d : Nat} (hmac : bit (ws.getD 0 0#32) 25 = true) (h : authFail ws s = some d) :
    execPacket q ws s = rawReply q ws { st := .authFail, detail := d } (note evCmdAuthFail (macInfo ws).slot.val 1 s) := by
  unfold execPacket
  rw [if_pos hmac, h]

theorem execPacket_of_authentic {q : Fin 6} {ws : List W32} {s : State} (hmac : bit (ws.getD 0 0#32) 25 = true) (h : authFail ws s = none) :
    execPacket q ws s = dispatchReq (rawOpcode ws) { packetReq q ws with mac := some (macInfo ws) } s := by
  unfold execPacket
  rw [if_pos hmac, h]

/-- Settles O7: the slot, the CMAC and the sequence number are checked in this order. -/
theorem authenticationIsChecked : Obligations.AuthenticationIsChecked := by
  intro q ws s hmac hke
  refine ⟨fun k hk hok hseq => ?_, fun hk => ?_, fun k hk hok => ?_, fun k hk hok hseq => ?_⟩
  · exact execPacket_of_authentic hmac (by simp [authFail, hke, hk, hok, hseq])
  · exact execPacket_of_authFail hmac (by simp [authFail, hke, hk])
  · exact execPacket_of_authFail hmac (by simp [authFail, hke, hk, hok])
  · exact execPacket_of_authFail hmac (by simp [authFail, hke, hk, hok, hseq])

/-! ### The turns of the command queues (R87, R99) -/

@[simp] theorem levelEvent_cq (q b a : Nat) (s : State) : (levelEvent q b a s).cmd.cq = s.cmd.cq := by rw [levelEvent_eq]; rfl
@[simp] theorem levelEvent_rr (q b a : Nat) (s : State) : (levelEvent q b a s).cmd.rr = s.cmd.rr := by rw [levelEvent_eq]; rfl

theorem cqOf_cqPop (q p : Nat) (s : State) : cqOf (cqPop q s) p = if p = q then (cqOf s q).tail else cqOf s p := by
  simp [cqOf, cqPop, State.onCmd]

theorem takeFrom_eq_none (q : Fin 6) (s : State) : takeFrom q s = none ↔
    s.cmd.busyCq.contains q.val = true ∨ cqOf s q = [] ∨ ∃ ws r, cqOf s q = ws :: r ∧ roomLeft q s (runPacket q ws (cqPop q s)) = false := by
  unfold takeFrom
  cases s.cmd.busyCq.contains q.val <;> cases cqOf s q <;> simp

theorem takeFrom_of_room {q : Fin 6} {ws : List W32} {r : List (List W32)} {s : State} (hbusy : s.cmd.busyCq.contains q.val = false) (hq : cqOf s q = ws :: r)
    (hroom : roomLeft q s (runPacket q ws (cqPop q s)) = true) : takeFrom q s = some (runPacket q ws (cqPop q s)) := by
  unfold takeFrom
  rw [hbusy, hq]
  exact if_pos hroom

/-- Queues from which nothing is taken pass their turn on. -/
theorem takeFirst_append {l : List (Fin 6)} {s : State} (h : ∀ p ∈ l, takeFrom p s = none) (m : List (Fin 6)) : takeFirst (l ++ m) s = takeFirst m s := by
  induction l with
  | nil => rfl
  | cons p l ih =>
    obtain ⟨hp, hl⟩ := List.forall_mem_cons.1 h
    rw [List.cons_append, takeFirst, hp]
    exact ih hl

theorem roomLeft_iff (q : Fin 6) (s t : State) :
    roomLeft q s t = true ↔ q = 4 ∨ (qfill s (q + 6) + 6 ≤ 8192 ∧ (∀ x ∈ s.cmd.late, x.1 ≠ q + 6) ∧ ∀ x ∈ t.cmd.late, x.1 ≠ q + 6) := by
  simp [roomLeft, rqRoom, Fin.ext_iff, and_assoc]

/-- Settles O8: the first queue in turn from which a packet can be taken gives it, and it leaves its queue as it is run. That nothing is taken while the
device does not run (log entry 75) and that RQ5 is held to the rule of the other reply queues (log entry 52) are the model's choice. -/
theorem commandTakeRunsThePacket : Obligations.CommandTakeRunsThePacket := by
  refine ⟨fun q l m ws r s ha hturns hl hbusy hq hroom => ?_, fun s hnone => ?_, takeFrom_eq_none, roomLeft_iff, fun q s => ⟨?_, ?_, fun p hp => ?_⟩, fun s => ?_,
    fun q ws s ht hv hr => ?_, fun s ha => ok_neg (by simp [ha]) _ _⟩
  · refine (ok_pos ha _ _).trans (congrArg _ ?_)
    rw [hturns, takeFirst_append hl, takeFirst, takeFrom_of_room hbusy hq hroom]
  · have hall := takeFirst_append (l := turns s) (fun q _ => hnone q) []
    rw [List.append_nil] at hall
    exact congrArg ok ((ite_congr rfl (fun _ => hall) fun _ => rfl).trans (ite_self _))
  · rw [cqOf_cqPop, if_pos rfl]
  · simp [cqPop, State.onCmd]
  · rw [cqOf_cqPop, if_neg hp]
  · refine ⟨by simp [turns], fun i hi => ?_⟩
    simp [turns, hi]
  · unfold runPacket
    dsimp only
    rw [if_neg (by simp only [hv, ne_eq, not_true, not_false_eq_true]), if_neg (by simp only [hr, Bool.false_eq_true, not_false_eq_true]), if_pos (by simp [ht])]

end Sys2Proof.Machine
end

section
/-! O45 to O49: FILL and the level events of the queues, and what falls in one Bellows clock cycle. -/

namespace Sys2Proof.Machine

/-! ### What the shared operations leave of the queues -/

@[simp] theorem note_cmd (e : Ev) (inst n : Nat) (s : State) : (note e inst n s).cmd = s.cmd := by rw [note_eq]

@[simp] theorem levelEvent_rq (q b a : Nat) (s : State) : (levelEvent q b a s).cmd.rq = s.cmd.rq := by rw [levelEvent_eq]; rfl
@[simp] theorem levelEvent_levels (q b a : Nat) (s : State) : (levelEvent q b a s).cmd.levels = s.cmd.levels := by rw [levelEvent_eq]; rfl
@[simp] theorem levelEvent_chan (q b a : Nat) (s : State) : (levelEvent q b a s).cmd.chan = s.cmd.chan := by rw [levelEvent_eq]; rfl
@[simp] theorem levelEvent_late (q b a : Nat) (s : State) : (levelEvent q b a s).cmd.late = s.cmd.late := by rw [levelEvent_eq]; rfl

@[simp] theorem rqPush_cq (q : Nat) (p : List W32) (s : State) : (rqPush q p s).cmd.cq = s.cmd.cq := by rw [rqPush_eq]
@[simp] theorem rqPush_levels (q : Nat) (p : List W32) (s : State) : (rqPush q p s).cmd.levels = s.cmd.levels := by rw [rqPush_eq]
@[simp] theorem rqPush_chan (q : Nat) (p : List W32) (s : State) : (rqPush q p s).cmd.chan = s.cmd.chan := by rw [rqPush_eq]

@[simp] theorem reply_cq (opcode : Nat) (rq : Req) (key : Option (BitVec 256)) (r : Rej) (res : List W32) (s : State) :
    (reply opcode rq key r res s).cmd.cq = s.cmd.cq := by rw [reply_eq]

theorem cqOf_of_cq {s t : State} (h : t.cmd.cq = s.cmd.cq) (q : Nat) : cqOf t q = cqOf s q := by rw [cqOf, h, cqOf]
theorem rqOf_of_rq {s t : State} (h : t.cmd.rq = s.cmd.rq) (c : Nat) : rqOf t c = rqOf s c := by rw [rqOf, h, rqOf]
theorem levelOf_of_levels {s t : State} (h : t.cmd.levels = s.cmd.levels) (q : Nat) : levelOf t q = levelOf s q := by rw [levelOf, h, levelOf]
theorem inCycle_of_joined {s t : State} (h : t.cmd.joined = s.cmd.joined) (q : Nat) : inCycle t q = inCycle s q := by rw [inCycle, h, inCycle]
theorem chanOf_of_chan {s t : State} (h : t.cmd.chan = s.cmd.chan) (c : Nat) : chanOf t c = chanOf s c := by rw [chanOf, h, chanOf]

theorem wordsIn_append (l : List (List W32)) (p : List W32) : wordsIn (l ++ [p]) = wordsIn l + p.length := by simp [wordsIn]
theorem wordsIn_le_cons (p : List W32) (l : List (List W32)) : wordsIn l ≤ wordsIn (p :: l) := by simp [wordsIn]
theorem wordsIn_tail_le (l : List (List W32)) : wordsIn l.tail ≤ wordsIn l := by cases l <;> simp [wordsIn]

theorem qfill_cq {q : Nat} (h : q ≤ 5) (s : State) : qfill s q = wordsIn (cqOf s q) := if_pos h
theorem qfill_rq {q : Nat} (h : 6 ≤ q) (s : State) : qfill s q = wordsIn (rqOf s (q - 6)) := if_neg (by omega)

/-! ### Two changes of a cycle (R81) -/

@[simp] theorem inCycle_setCycle_self (q : Nat) (c : Option InCycle) (s : State) : inCycle (setCycle q c s) q = c := by
  have hgone : (s.cmd.joined.filter fun j => j.1 ≠ q).find? (fun j => j.1 = q) = none := List.find?_eq_none.2 (by simp)
  unfold inCycle setCycle State.onCmd
  dsimp only
  rw [List.find?_append, hgone]
  cases c <;> simp

theorem inCycle_setCycle_ne {q k : Nat} (h : k ≠ q) (c : Option InCycle) (s : State) : inCycle (setCycle q c s) k = inCycle s k := by
  have hkeep : (s.cmd.joined.filter fun j => j.1 ≠ q).find? (fun j => j.1 = k) = s.cmd.joined.find? fun j => j.1 = k := by
    rw [List.find?_filter]
    congr 1
    funext j
    by_cases hj : j.1 = k <;> simp [hj, h]
  unfold inCycle setCycle State.onCmd
  dsimp only
  rw [List.find?_append, hkeep]
  cases c <;> simp [h.symm]

@[simp] theorem setCycle_intStatus (q : Nat) (c : Option InCycle) (s : State) : (setCycle q c s).cmd.intStatus = s.cmd.intStatus := rfl

/-! ### The level event (R80) -/

theorem levelCross_joined (q b a : Nat) (s : State) : (levelCross q b a s).cmd.joined = s.cmd.joined := by
  unfold levelCross
  split <;> rfl

/-- A level event sets the flag of its queue where FILL comes from below LEVEL to LEVEL or above. -/
theorem levelCross_intStatus (q b a : Nat) (s : State) : (levelCross q b a s).cmd.intStatus =
    if levelOf s q ≠ 0 ∧ b < levelOf s q ∧ levelOf s q ≤ a then s.cmd.intStatus ||| BitVec.ofNat 32 (2 ^ levelBit q) else s.cmd.intStatus := by
  unfold levelCross
  simp only [crosses, Bool.and_eq_true, decide_eq_true_eq, and_assoc, apply_ite State.cmd, apply_ite CmdSt.intStatus]
  simp only [raiseInt, State.onCmd, Nat.one_shiftLeft]

/-- A level event changes nothing but its flag. -/
theorem levelCross_eq (q b a : Nat) (s : State) : levelCross q b a s = s.onCmd fun v => { v with
    intStatus := if levelOf s q ≠ 0 ∧ b < levelOf s q ∧ levelOf s q ≤ a then v.intStatus ||| BitVec.ofNat 32 (2 ^ levelBit q) else v.intStatus } := by
  have hcmd : levelCross q b a s = s.onCmd fun v => { v with intStatus := (levelCross q b a s).cmd.intStatus } := by
    unfold levelCross
    split <;> rfl
  rw [hcmd, levelCross_intStatus]
  rfl

/-- A change that does not raise FILL is no level event. -/
theorem levelCross_of_le {q b a : Nat} (h : a ≤ b) (s : State) : levelCross q b a s = s := by
  refine if_neg ?_
  simp only [crosses, Bool.and_eq_true, decide_eq_true_eq, not_and]
  omega

theorem levelEvent_alone {q : Nat} {s : State} (h : inCycle s q = none) (b a : Nat) : levelEvent q b a s = levelCross q b a s := by
  simp only [levelEvent, h]

theorem levelEvent_opened {q : Nat} {s : State} (h : inCycle s q = some .opened) (b a : Nat) : levelEvent q b a s = setCycle q (some (.changed b)) s := by
  simp only [levelEvent, h]

theorem levelEvent_changed {q b : Nat} {s : State} (h : inCycle s q = some (.changed b)) (m a : Nat) :
    levelEvent q m a s = levelCross q b a (setCycle q none s) := by
  simp only [levelEvent, h]

/-- A change of another queue is none of this one's cycle. -/
theorem inCycle_levelEvent_ne {q k : Nat} (h : k ≠ q) (b a : Nat) (s : State) : inCycle (levelEvent q b a s) k = inCycle s k := by
  unfold levelEvent
  split
  · exact inCycle_of_joined (levelCross_joined ..) k
  · exact inCycle_setCycle_ne h _ s
  · exact (inCycle_of_joined (levelCross_joined ..) k).trans (inCycle_setCycle_ne h _ s)
  · exact (inCycle_of_joined (levelCross_joined ..) k).trans (inCycle_setCycle_ne h _ s)

/-! ### Commits to a command queue (R77, R80) -/

theorem qfill_cqPush {q : Nat} (hq : q ≤ 5) {s : State} (h : inCycle s q ≠ some .flushed) (p : List W32) : qfill (cqPush q p s) q = qfill s q + p.length := by
  have hcq : cqOf (cqPush q p s) q = cqOf s q ++ [p] := by simp [cqPush, h, cqOf, State.onCmd]
  rw [qfill_cq hq, qfill_cq hq, hcq, wordsIn_append]

theorem cqPush_intStatus {q : Nat} {s : State} (h : inCycle s q = none) (p : List W32) : (cqPush q p s).cmd.intStatus =
    if levelOf s q ≠ 0 ∧ qfill s q < levelOf s q ∧ levelOf s q ≤ qfill s q + p.length then s.cmd.intStatus ||| BitVec.ofNat 32 (2 ^ levelBit q)
    else s.cmd.intStatus := by
  unfold cqPush
  dsimp only
  rw [if_neg (by simp [h]), levelEvent_alone]
  · exact levelCross_intStatus ..
  · exact h

/-! ### Replies (R80, R87, R89) -/

theorem rqPush_of_room {q : Nat} (hq : q = 10 ∨ q = 11) {p : List W32} {s : State} (hc : inCycle s q ≠ some .flushed) (hroom : rqRoom q p.length s = true) :
    rqPush q p s = levelEvent q (qfill s q) (qfill s q + p.length) (s.onCmd fun v => { v with rq := tset [] v.rq (q - 6) (rqOf s (q - 6) ++ [p]) }) := by
  unfold rqPush
  dsimp only
  rw [if_neg hc, if_neg (by simp [hroom]), if_pos (by simpa using hq)]

/-- A reply that finds no room is counted, or waits. -/
theorem rqPush_of_noRoom {q : Nat} {p : List W32} {s : State} (hc : inCycle s q ≠ some .flushed) (hroom : rqRoom q p.length s = false) :
    rqPush q p s = if q = 10 then note evCmdRplDrop 0 1 s else s.onCmd fun v => { v with late := v.late ++ [(q, p)] } := by
  unfold rqPush
  dsimp only
  rw [if_neg hc, if_pos (by simp [hroom])]

/-- FILL and the level event of RQ4 and RQ5 as a reply comes. -/
theorem rqPush_alone {q : Nat} (hq : q = 10 ∨ q = 11) (p : List W32) {s : State} (h : inCycle s q = none) :
    if rqRoom q p.length s then qfill (rqPush q p s) q = qfill s q + p.length ∧ (rqPush q p s).cmd.intStatus =
        if levelOf s q ≠ 0 ∧ qfill s q < levelOf s q ∧ levelOf s q ≤ qfill s q + p.length then s.cmd.intStatus ||| BitVec.ofNat 32 (2 ^ levelBit q)
        else s.cmd.intStatus
    else qfill (rqPush q p s) q = qfill s q ∧ (rqPush q p s).cmd.intStatus = s.cmd.intStatus := by
  have hq6 : 6 ≤ q := by omega
  have hc : inCycle s q ≠ some .flushed := by simp [h]
  split
  next hroom =>
    rw [rqPush_of_room hq hc hroom]
    constructor
    · rw [qfill_rq hq6, qfill_rq hq6, rqOf_of_rq (levelEvent_rq ..)]
      simp [rqOf, State.onCmd, wordsIn]
    · rw [levelEvent_alone]
      · exact levelCross_intStatus ..
      · exact h
  next hroom =>
    rw [rqPush_of_noRoom hc (by simpa using hroom)]
    have hrq : ∀ t, t = (if q = 10 then note evCmdRplDrop 0 1 s else s.onCmd fun v => { v with late := v.late ++ [(q, p)] }) →
        t.cmd.rq = s.cmd.rq ∧ t.cmd.intStatus = s.cmd.intStatus := by
      rintro t rfl
      split <;> simp [State.onCmd]
    obtain ⟨h1, h2⟩ := hrq _ rfl
    exact ⟨by rw [qfill_rq hq6, qfill_rq hq6, rqOf_of_rq h1], h2⟩

/-- A reply that comes is the last of its queue, or waits, or is discarded. -/
theorem rqOf_rqPush (q : Nat) (p : List W32) (s : State) (c : Nat) : ∃ l, rqOf (rqPush q p s) c = rqOf s c ++ l ∧ (q - 6 ≠ c → l = []) := by
  have hkeep {t : State} (h : t.cmd.rq = s.cmd.rq) : ∃ l, rqOf t c = rqOf s c ++ l ∧ (q - 6 ≠ c → l = []) := ⟨[], by simp [rqOf_of_rq h], fun _ => rfl⟩
  have hput {t : State} (h : t.cmd.rq = tset [] s.cmd.rq (q - 6) (rqOf s (q - 6) ++ [p])) : ∃ l, rqOf t c = rqOf s c ++ l ∧ (q - 6 ≠ c → l = []) := by
    by_cases hc : c = q - 6
    · exact ⟨[p], by simp [rqOf, h, hc], fun h => absurd hc.symm h⟩
    · exact ⟨[], by simp [rqOf, h, hc], fun _ => rfl⟩
  unfold rqPush
  dsimp only
  (repeat' split)
  · exact hkeep (by rw [flushedPush, note_cmd]; rfl)
  · exact hkeep (by rw [note_cmd])
  · exact hkeep rfl
  · exact hput (levelEvent_rq ..)
  · exact hput rfl

theorem inCycle_rqPush {k q : Nat} (p : List W32) {s : State} (hk : k ≠ 10 ∧ k ≠ 11) (h : inCycle s k = none) : inCycle (rqPush q p s) k = none := by
  unfold rqPush
  dsimp only
  split
  next hf =>
    have hne : k ≠ q := by rintro rfl; simp [h] at hf
    exact (inCycle_of_joined (by rw [flushedPush, note_cmd]) k).trans ((inCycle_setCycle_ne hne none s).trans h)
  split
  · split
    · exact (inCycle_of_joined (by rw [note_cmd]) k).trans h
    · exact h
  split
  next hq =>
    have hne : k ≠ q := by simp at hq; omega
    exact (inCycle_levelEvent_ne hne ..).trans h
  · exact h

theorem levelEvent_intStatus_or (q b a : Nat) (s : State) : (levelEvent q b a s).cmd.intStatus = s.cmd.intStatus
    ∨ (levelEvent q b a s).cmd.intStatus = s.cmd.intStatus ||| BitVec.ofNat 32 (2 ^ levelBit q) := by
  have hcross (b : Nat) (t : State) : (levelCross q b a t).cmd.intStatus = t.cmd.intStatus
      ∨ (levelCross q b a t).cmd.intStatus = t.cmd.intStatus ||| BitVec.ofNat 32 (2 ^ levelBit q) := by
    rw [levelCross_intStatus]
    split <;> simp
  unfold levelEvent
  split
  · exact hcross b s
  · exact .inl rfl
  · exact hcross _ _
  · exact hcross _ _

/-- Only a reply to RQ4 or RQ5 can set a flag. -/
theorem rqPush_intStatus_of_ring {q : Nat} (h : q ≠ 10 ∧ q ≠ 11) (p : List W32) (s : State) : (rqPush q p s).cmd.intStatus = s.cmd.intStatus := by
  unfold rqPush
  dsimp only
  rw [if_neg (show ¬ (decide (q = 10) || decide (q = 11)) = true by simp [h])]
  (repeat' split)
  · rw [flushedPush, note_cmd]; rfl
  · rw [note_cmd]
  · rfl
  · rfl

theorem rqPush_levelFlags {i : Nat} (hi : i < 8) (q : Nat) (p : List W32) (s : State) : (rqPush q p s).cmd.intStatus.getLsbD i = s.cmd.intStatus.getLsbD i := by
  by_cases hq : q ≠ 10 ∧ q ≠ 11
  · rw [rqPush_intStatus_of_ring hq]
  · have hbit : (BitVec.ofNat 32 (2 ^ levelBit q)).getLsbD i = false := by
      obtain rfl | rfl : q = 10 ∨ q = 11 := by omega
      · interval_cases i <;> rfl
      · interval_cases i <;> rfl
    unfold rqPush
    dsimp only
    (repeat' split)
    · rw [flushedPush, note_cmd]; rfl
    · rw [note_cmd]
    · rfl
    · obtain h | h := levelEvent_intStatus_or q (qfill s q) (qfill s q + p.length) (s.onCmd fun v => { v with rq := tset [] v.rq (q - 6) (rqOf s (q - 6) ++ [p]) })
      · rw [h]; rfl
      · rw [h, BitVec.getLsbD_or, hbit, Bool.or_false]; rfl
    · rfl

/-- What holds as the waiting replies begin to enter, and holds on after each, holds at the end. -/
theorem rqRefill_induct {P : State → Prop} {s : State} (h0 : P (s.onCmd fun v => { v with late := [] })) (hstep : ∀ x ∈ s.cmd.late, ∀ u, P u → P (rqPush x.1 x.2 u)) :
    P (rqRefill s) := by
  unfold rqRefill
  exact List.foldlRecOn s.cmd.late _ h0 fun u hu x hx => hstep x hx u hu

theorem rqRefill_of_noLate {s : State} (h : s.cmd.late = []) : rqRefill s = s.onCmd fun v => { v with late := [] } := by rw [rqRefill, h]; rfl

theorem rqOf_rqRefill (c : Nat) (s : State) : ∃ l, rqOf (rqRefill s) c = rqOf s c ++ l ∧ ((∀ x ∈ s.cmd.late, x.1 - 6 ≠ c) → l = []) := by
  refine rqRefill_induct (P := fun u => ∃ l, rqOf u c = rqOf s c ++ l ∧ ((∀ x ∈ s.cmd.late, x.1 - 6 ≠ c) → l = [])) ⟨[], by simp [rqOf, State.onCmd], fun _ => rfl⟩ ?_
  rintro x hx u ⟨l, hl, hnone⟩
  obtain ⟨m, hm, hother⟩ := rqOf_rqPush x.1 x.2 u c
  exact ⟨l ++ m, by rw [hm, hl, List.append_assoc], fun h => by rw [hnone h, hother (h x hx)]; rfl⟩

/-! ### The reply rings (R80, R87) -/

theorem ringWrite_stays {ch : Fin 4} {s : State} (h : ringNext ch none s = none) : ringWrite ch none s = s := by
  unfold ringWrite
  rw [h]

/-- What the replies that enter RQ4 and RQ5 leave of the ring of a channel. -/
structure KeepsRing (ch : Fin 4) (s u : State) : Prop where
  cycle : inCycle u (6 + ch) = none
  levels : u.cmd.levels = s.cmd.levels
  flag : u.cmd.intStatus.getLsbD ch = s.cmd.intStatus.getLsbD ch
  flags : (∀ x ∈ s.cmd.late, x.1 ≠ 10 ∧ x.1 ≠ 11) → u.cmd.intStatus = s.cmd.intStatus

theorem rqPop_keepsRing {ch : Fin 4} {s : State} (h : inCycle s (6 + ch) = none) : KeepsRing ch s (rqPop ch s) := by
  have hch : ¬ 4 ≤ ch.val := by omega
  unfold rqPop
  dsimp only
  rw [if_neg hch]
  refine rqRefill_induct ⟨h, rfl, rfl, fun _ => rfl⟩ ?_
  rintro x hx u ⟨hcycle, hlevels, hflag, hflags⟩
  exact ⟨inCycle_rqPush x.2 (by omega) hcycle, by rw [rqPush_levels, hlevels], by rw [rqPush_levelFlags (by omega), hflag],
    fun hlate => by rw [rqPush_intStatus_of_ring (hlate x hx), hflags hlate]⟩

theorem KeepsRing.onChan {ch : Fin 4} {s u : State} (h : KeepsRing ch s u) (c : Nat) (f : ChanSt → ChanSt) : KeepsRing ch s (onChan c f u) := by
  obtain ⟨hcycle, hlevels, hflag, hflags⟩ := h
  exact ⟨hcycle, hlevels, hflag, hflags⟩

theorem levelBit_ring (ch : Fin 4) : levelBit (6 + ch) = ch := by
  have h1 : ¬ (6 + ch.val ≤ 5 ∨ 6 + ch.val = 11) := by omega
  have h2 : ¬ 6 + ch.val = 10 := by omega
  rw [levelBit, if_neg h1, if_neg h2]
  omega

/-- A change of a ring sets the flag of its channel where its FILL crosses LEVEL, and no other. -/
theorem ring_levelEvent {ch : Fin 4} {s u : State} (h : KeepsRing ch s u) (a b : Nat) :
    (levelEvent (6 + ch) a b u).cmd.intStatus.getLsbD ch
        = (s.cmd.intStatus.getLsbD ch || decide (levelOf s (6 + ch) ≠ 0 ∧ a < levelOf s (6 + ch) ∧ levelOf s (6 + ch) ≤ b)) ∧
      ((∀ x ∈ s.cmd.late, x.1 ≠ 10 ∧ x.1 ≠ 11) → (levelEvent (6 + ch) a b u).cmd.intStatus
        = if levelOf s (6 + ch) ≠ 0 ∧ a < levelOf s (6 + ch) ∧ levelOf s (6 + ch) ≤ b then s.cmd.intStatus ||| BitVec.ofNat 32 (2 ^ ch.val) else s.cmd.intStatus) := by
  have hbit : (BitVec.ofNat 32 (2 ^ ch.val)).getLsbD ch = true := by clear h; revert ch; decide
  obtain ⟨hcycle, hlevels, hflag, hflags⟩ := h
  rw [levelEvent_alone hcycle, levelCross_intStatus, levelOf_of_levels hlevels, levelBit_ring]
  constructor
  · split
    next hx => rw [BitVec.getLsbD_or, hbit, decide_eq_true hx]; simp
    next hx => rw [hflag, decide_eq_false hx, Bool.or_false]
  · intro hlate
    rw [hflags hlate]

/-- Settles O45: `levelCross` sets the flag of a queue exactly where FILL comes from below LEVEL to LEVEL or above; a commit, a reply and a write into a ring each are one such change. -/
theorem levelEventsOfR80 : Obligations.LevelEventsOfR80 := by
  refine ⟨?cq, fun p s h => rqPush_alone (.inr rfl) p h, fun p s h => rqPush_alone (.inl rfl) p h, ?ring⟩
  case cq =>
    intro q p s hq h
    have hbit : levelBit q = 9 := if_pos (.inl hq)
    refine ⟨qfill_cqPush hq (by simp [h]) p, ?_⟩
    rw [cqPush_intStatus h, hbit]
    rfl
  case ring =>
    intro ch head s t hcycle hexec
    dsimp only
    have hkeep : KeepsRing ch s s := ⟨hcycle, rfl, rfl, fun _ => rfl⟩
    obtain rfl : ringWrite ch head s = t := by simpa [exec, execReplyRingWrite, ok] using hexec
    cases hnext : ringNext ch head s with
    | some p =>
      rw [ringWrite_next hnext, ringPut]
      rw [chanOf_of_chan (levelEvent_chan ..)]
      exact ring_levelEvent ((rqPop_keepsRing hcycle).onChan ..) ..
    | none =>
      have hsame := ring_levelEvent hkeep (ringFill (chanOf s ch)) (ringFill (chanOf s ch))
      rw [levelEvent_alone hcycle, levelCross_of_le le_rfl] at hsame
      cases head with
      | none =>
        rw [ringWrite_stays hnext]
        exact hsame
      | some v =>
        cases hon : pcieOn s with
        | true =>
          rw [ringWrite_head hnext hon, rplHeadWrite]
          rw [chanOf_of_chan (levelEvent_chan ..)]
          exact ring_levelEvent (hkeep.onChan ..) ..
        | false =>
          rw [ringWrite_of_pcieOff hon]
          exact hsame

/-! ### The SPI target and the fabric (R90, R93) -/

/-- Settles O46: the reply that has been clocked out whole leaves by `rqPop`, whose change of FILL is no level event. -/
theorem replyLeavesRq4WithItsLastByte : Obligations.ReplyLeavesRq4WithItsLastByte := by
  intro n p r s hon hfront
  have hfill : qfill s 10 = wordsIn (p :: r) := (qfill_rq (by decide) s).trans (congrArg wordsIn hfront)
  have hpop : rqPop 4 s = rqRefill (levelEvent 10 (wordsIn (p :: r)) (wordsIn r) (s.onCmd fun v => { v with rq := tset [] v.rq 4 r })) := by
    simp only [rqPop, hfront, List.tail_cons, hfill, Nat.le_refl, if_true]
  refine ⟨fun hn => ?_, fun hn => ?_⟩
  · have hexec : exec (.rplRead n) s = .next ((rqPop 4 s).onCmd fun v => { v with spiOut := p }) :=
      (ok_pos hon _ _).trans (congrArg ok (spiRead_whole hfront hn))
    constructor
    · intro hcycle
      rw [hexec, hpop, levelEvent_alone, levelCross_of_le (wordsIn_le_cons p r)]
      exact hcycle
    · obtain ⟨l, hl, hnone⟩ := rqOf_rqRefill 4 (levelEvent 10 (wordsIn (p :: r)) (wordsIn r) (s.onCmd fun v => { v with rq := tset [] v.rq 4 r }))
      have hput : rqOf (levelEvent 10 (wordsIn (p :: r)) (wordsIn r) (s.onCmd fun v => { v with rq := tset [] v.rq 4 r })) 4 = r := by
        rw [rqOf_of_rq (levelEvent_rq ..)]
        simp [rqOf, State.onCmd]
      rw [hput, ← hpop] at hl
      refine ⟨_, hexec, rfl, ⟨l, hl⟩, fun hlate => ?_⟩
      rw [levelEvent_late] at hnone
      exact hl.trans (by rw [hnone fun x hx => by have := hlate x hx; omega, List.append_nil])
  · have hpart : spiRead n s = s.onCmd fun v => { v with spiOut := p.take (n / 4) } := by
      rw [spiRead, hfront]
      exact if_neg (by omega)
    refine ⟨_, (ok_pos hon _ _).trans (congrArg ok hpart), rfl, fun m hm => ?_⟩
    exact ⟨_, (ok_pos hon _ _).trans (congrArg ok (spiRead_whole hfront hm)), rfl⟩

/-- Settles O47: of several matching records `find?` takes the oldest (the model's choice, log entry 90), and a reply that finds no room closes its unicast record
all the same (the model's choice, log entry 116); `rqRoom` does not look at the records. -/
theorem fabricRepliesMeetTheirRecord : Obligations.FabricRepliesMeetTheirRecord := by
  intro ws l s hfront
  dsimp only
  have hexec : exec (.fabricReplyRx ws) s = .next (fabricReply ws (s.onCmd fun v => { v with fabRpl := l })) := by
    show ok (fabricReplyNext ws s) = _
    rw [fabricReplyNext, if_pos (by simp [hfront])]
    simp only [State.onCmd, hfront, List.tail_cons, ok]
  rw [hexec]
  refine ⟨fun hnone => ?_, fun r hr => ?_⟩
  · rw [fabricReply, show (s.onCmd _).cmd.fwd.find? _ = none from hnone]
  · unfold fabricReply
    rw [show (s.onCmd _).cmd.fwd.find? _ = some r from hr]
    refine ⟨fun hroom => congrArg Host.Outcome.next (if_pos ?_), fun hroom => congrArg Host.Outcome.next (if_neg ?_)⟩
    · split <;> exact hroom
    · split <;> exact Bool.eq_false_iff.1 hroom

/-! ### Two changes in one cycle (R81) -/

theorem levelOf_setCycle (q : Nat) (c : Option InCycle) (s : State) (k : Nat) : levelOf (setCycle q c s) k = levelOf s k := rfl

theorem levelCross_levels (q b a : Nat) (s : State) (k : Nat) : levelOf (levelCross q b a s) k = levelOf s k := by
  unfold levelCross
  split <;> rfl

theorem evId_flushDiscard_ne (q : Nat) (h : q ≤ 11) : evId evCmdCmdqFlushDiscard q ≠ evId evIntEvtLogOvf 0 := by
  interval_cases q <;> decide

theorem counter_discarded (q : Nat) (h : q ≤ 11) (n : Nat) (s : State) :
    counter (note evCmdCmdqFlushDiscard q n s) evCmdCmdqFlushDiscard q = counter s evCmdCmdqFlushDiscard q + BitVec.ofNat 48 n := by
  rw [counter_note (evId_flushDiscard_ne q h), if_pos rfl]

theorem flushQueue_cq {q : Nat} (hq : q ≤ 5) (s : State) : (flushQueue q s).cmd.cq = tset [] s.cmd.cq q [] := by
  unfold flushQueue
  dsimp only
  rw [if_pos hq]
  split <;> simp [setCycle, State.onCmd]

theorem flushQueue_intStatus {q : Nat} (hq : q ≤ 5) (s : State) : (flushQueue q s).cmd.intStatus = s.cmd.intStatus := by
  unfold flushQueue
  dsimp only
  rw [if_pos hq]
  split <;> simp [setCycle, State.onCmd]

theorem counter_flushQueue {q : Nat} (hq : q ≤ 5) (s : State) :
    counter (flushQueue q s) evCmdCmdqFlushDiscard q = counter s evCmdCmdqFlushDiscard q + BitVec.ofNat 48 (cqOf s q).length := by
  unfold flushQueue
  dsimp only
  rw [if_pos hq]
  split
  · exact counter_discarded q (by omega) ..
  · exact counter_discarded q (by omega) ..

theorem inCycle_flushQueue_opened {q : Nat} {s : State} (h : inCycle s q = some .opened) : inCycle (flushQueue q s) q = some .flushed := by
  unfold flushQueue
  dsimp only
  rw [if_pos h, inCycle_setCycle_self]

/-- With no reply waiting a flush of RQ4 or RQ5 empties it and counts its replies. -/
theorem flushQueue_rq {q : Nat} (hq : 5 < q) {s : State} (hlate : s.cmd.late = []) (h : inCycle s q = some .opened) :
    flushQueue q s = setCycle q (some .flushed) ((note evCmdCmdqFlushDiscard q (rqOf s (q - 6)).length
      ((setCycle q none s).onCmd fun v => { v with rq := tset [] v.rq (q - 6) [] })).onCmd fun v => { v with late := [] }) := by
  unfold flushQueue
  dsimp only
  rw [if_pos h, if_neg (by omega), rqRefill_of_noLate]
  rw [note_cmd]
  exact hlate

theorem cqPush_flushed {q : Nat} {s : State} (h : inCycle s q = some .flushed) (p : List W32) : cqPush q p s = flushedPush q s := if_pos h
theorem rqPush_flushed {q : Nat} {s : State} (h : inCycle s q = some .flushed) (p : List W32) : rqPush q p s = flushedPush q s := if_pos h

theorem flushedPush_cmd (q : Nat) (s : State) : (flushedPush q s).cmd = (setCycle q none s).cmd := note_cmd ..

theorem counter_flushedPush (q : Nat) (h : q ≤ 11) (s : State) :
    counter (flushedPush q s) evCmdCmdqFlushDiscard q = counter s evCmdCmdqFlushDiscard q + 1#48 := counter_discarded q h 1 _

theorem ofNat_add_one (a : BitVec 48) (n : Nat) : a + BitVec.ofNat 48 n + 1#48 = a + BitVec.ofNat 48 (n + 1) := by
  rw [BitVec.add_assoc, BitVec.ofNat_add]

/-- A queue with no packet has no turn. -/
theorem nextTurn_of_empty {q : Fin 6} {s : State} (h : cqOf s q = []) : nextTurn s ≠ some q := by
  intro hturn
  have hnone : takeFrom q s = none := by
    unfold takeFrom
    simp only [h, ite_self]
  simpa [hnone] using List.find?_some hturn

theorem map_val_eq_some {o : Option (Fin 6)} {q : Fin 6} : o.map Fin.val = some q.val ↔ o = some q := by
  cases o <;> simp [Fin.ext_iff]

/-- Settles O48: a flush or a removal in the cycle of a commit acts in `cqCommit`; for the queues that a row names, `InCycle` keeps what the first of the two changes was
(the model's choice, log entry 91). -/
theorem oneBellowsCycle : Obligations.OneBellowsCycle := by
  refine ⟨?flush, ?removal, ?removalEmpty, ?join, ?net, ?flushedCq, ?flushedRq⟩
  case flush =>
    intro q p s
    have hq : q.val ≤ 5 := by omega
    dsimp only [cqCommit]
    have hcq : cqOf (note evCmdCmdqFlushDiscard q 1 (flushQueue q s)) q = [] := by simp [cqOf, flushQueue_cq hq]
    refine ⟨hcq, (qfill_cq hq _).trans (by rw [hcq]; rfl), by rw [note_cmd, flushQueue_intStatus hq], ?_⟩
    rw [counter_discarded q (by omega), counter_flushQueue hq]
    exact ofNat_add_one ..
  case removal =>
    intro q p w r s hfront hcycle
    have hq : q.val ≤ 5 := by omega
    have hbit : levelBit q = 9 := if_pos (.inl hq)
    dsimp only
    refine ⟨?_, fun hturn => ?_, fun hturn => if_neg (mt map_val_eq_some.1 hturn)⟩
    · rw [qfill_cq hq, qfill_cq hq, hfront]
      simp [cqOf, State.onCmd, wordsIn]
      omega
    · refine (if_pos (map_val_eq_some.2 hturn)).trans (congrArg (takeFirst (turns s)) ?_)
      rw [levelEvent_alone, hfront]
      · rw [levelCross_eq, hbit]
        rfl
      · exact hcycle
  case removalEmpty => exact fun q p s h => if_neg (mt map_val_eq_some.1 (nextTurn_of_empty h))
  case join =>
    intro qs s
    unfold joinChanges
    split
    next h => simp at h; simp [h]
    · rfl
  case net =>
    intro q b m a s h
    dsimp only
    rw [levelEvent_opened h]
    refine ⟨rfl, fun c => ?_⟩
    rw [levelEvent_changed (inCycle_setCycle_self ..), levelCross_intStatus]
    rfl
  case flushedCq =>
    intro q p s h
    have hq : q.val ≤ 5 := by omega
    dsimp only
    rw [cqPush_flushed (inCycle_flushQueue_opened h), counter_flushedPush q (by omega), counter_flushQueue hq, ofNat_add_one, flushedPush_cmd]
    refine ⟨?_, flushQueue_intStatus hq s, ?_, rfl⟩
    · simp [cqOf, flushedPush_cmd, setCycle, State.onCmd, flushQueue_cq hq]
    · rw [inCycle_of_joined (congrArg CmdSt.joined (flushedPush_cmd ..)), inCycle_setCycle_self]
  case flushedRq =>
    intro q p s hq hlate h
    dsimp only
    have hq6 : 5 < q := by omega
    rw [rqPush_flushed (inCycle_flushQueue_opened h), counter_flushedPush q (by omega), flushedPush_cmd, flushQueue_rq hq6 hlate h]
    refine ⟨?_, ?_, ?_, ?_⟩
    · simp [rqOf, flushedPush_cmd, setCycle, State.onCmd]
    · simp [setCycle, State.onCmd]
    · rw [inCycle_of_joined (congrArg CmdSt.joined (flushedPush_cmd ..)), inCycle_setCycle_self]
    · exact (congrArg (· + 1#48) (counter_discarded q (by omega) (rqOf s (q - 6)).length
        ((setCycle q none s).onCmd fun v => { v with rq := tset [] v.rq (q - 6) [] }))).trans (ofNat_add_one ..)

/-! ### The size of the queues (R76, R85, R89) -/

@[simp] theorem rawReply_cq (q : Fin 6) (ws : List W32) (r : Rej) (s : State) : (rawReply q ws r s).cmd.cq = s.cmd.cq := reply_cq ..

/-- What a commit, or no commit, leaves: queue `q` within its 8,192 words, and the other command queues as they were. -/
def HoldsSize (q : Nat) (s t : State) : Prop := qfill t q ≤ 8192 ∧ ∀ k, k ≤ 5 → k ≠ q → cqOf t k = cqOf s k

theorem HoldsSize.of_cq {q : Nat} (hq : q ≤ 5) {s t : State} (hfill : qfill s q ≤ 8192) (h : t.cmd.cq = s.cmd.cq) : HoldsSize q s t :=
  ⟨by rwa [qfill_cq hq, cqOf_of_cq h, ← qfill_cq hq], fun k _ _ => cqOf_of_cq h k⟩

theorem HoldsSize.of_tset {q : Nat} (hq : q ≤ 5) {s t : State} {l : List (List W32)} (hl : wordsIn l ≤ 8192) (h : t.cmd.cq = tset [] s.cmd.cq q l) : HoldsSize q s t :=
  ⟨by rw [qfill_cq hq]; simpa [cqOf, h] using hl, fun k _ hk => by simp [cqOf, h, hk]⟩

theorem HoldsSize.cqPush {q : Nat} (hq : q ≤ 5) {s u : State} (hu : u.cmd.cq = s.cmd.cq) {p : List W32} (hroom : qfill s q + p.length ≤ 8192) :
    HoldsSize q s (cqPush q p u) := by
  unfold Machine.cqPush
  dsimp only
  split
  · exact .of_cq hq (by omega) (by rw [flushedPush_cmd]; exact hu)
  · refine .of_tset (l := cqOf s q ++ [p]) hq ?_ ?_
    · rwa [wordsIn_append, ← qfill_cq hq]
    · simp [State.onCmd, hu, cqOf]

theorem HoldsSize.commit {cyc : CycleOf} (hcyc : cyc ≠ .removal) {q : Nat} (hq : q ≤ 5) {s u : State} (hu : u.cmd.cq = s.cmd.cq) {p : List W32}
    (hroom : qfill s q + p.length ≤ 8192) : HoldsSize q s (cqCommit cyc q p u) := by
  cases cyc with
  | alone => exact .cqPush hq hu hroom
  | flush => exact .of_tset (l := []) hq (Nat.zero_le _) (by rw [← hu, ← flushQueue_cq hq]; simp [cqCommit])
  | removal => exact absurd rfl hcyc

/-- Settles O49: a packet is committed only where `qfill` with its words stays within 8,192; everything else that a fetch and a PKT_WRITE do leaves the command queues alone. -/
theorem queuesHoldTheirSize : Obligations.QueuesHoldTheirSize := by
  refine fun cyc hcyc => ⟨fun ch ws good s t hfill hexec => ?_, fun bs s t hfill hexec => ?_⟩
  · have hch : ch.val ≤ 5 := by omega
    obtain rfl : fetch (cqCommit cyc) ch ws good s = t := by simpa [exec, execPciePacketFetch, ok] using hexec
    have hkeep {u : State} (h : u.cmd.cq = s.cmd.cq) : HoldsSize ch s u := .of_cq hch hfill h
    show HoldsSize ch s _
    unfold fetch
    dsimp only
    split
    · exact hkeep rfl
    split
    · exact hkeep (by simp [raiseInt, State.onCmd, advanceHead, onChan])
    split
    · exact hkeep rfl
    next hroom =>
    split
    · exact hkeep (by simp [advanceHead, onChan, State.onCmd])
    split
    · exact hkeep (by simp [advanceHead, onChan, State.onCmd])
    · simp at hroom
      have hcq : (advanceHead ch (lengthField ws) s).cmd.cq = s.cmd.cq := rfl
      have hfits : qfill s ch + ws.length ≤ 8192 := by omega
      exact HoldsSize.commit hcyc hch hcq hfits
  · obtain rfl : (if spiOn s then spiPacket (cqCommit cyc) bs s else s) = t := by simpa [exec, execPktWrite, ok] using hexec
    have hkeep {u : State} (h : u.cmd.cq = s.cmd.cq) : HoldsSize 4 s u := .of_cq (by decide) hfill h
    show HoldsSize 4 s _
    unfold spiPacket
    dsimp only
    split
    case isFalse => exact hkeep rfl
    split
    · split
      · exact hkeep (by simp)
      · exact hkeep (by simp)
    split
    · exact hkeep (by simp)
    split
    · exact hkeep (by simp)
    next hroom =>
    split
    · exact hkeep (by simp)
    split
    · exact hkeep (by simp)
    · exact .commit hcyc (by decide) rfl (by simp; omega)

end Sys2Proof.Machine
end

section
/-! O14: the commands that only read. -/

namespace Sys2Proof.Machine

/-- The commands of `Reads` with their opcodes. -/
def readOps : List (OpInfo × (Req → Instr)) :=
  [(opEcho, .echo), (opCapsRead, .capsRead), (opSysStatusRead, .sysStatusRead), (opQueueStatusRead, .queueStatusRead), (opAccessPolicyRead, .accessPolicyRead),
    (opStrokeRead, .strokeRead), (opRefStatusRead, .refStatusRead), (opCommitListRead, .commitListRead), (opMapStatusRead, .mapStatusRead),
    (opContStatusRead, .contStatusRead), (opBaRead, .baRead), (opTestRead, .testRead), (opAlnStatusRead, .alnStatusRead), (opPgSummaryRead, .pgSummaryRead),
    (opFabStatusRead, .fabStatusRead), (opFabPortStatusRead, .fabPortStatusRead), (opFabLsdbRead, .fabLsdbRead), (opTxRead, .txRead), (opTxStatusRead, .txStatusRead),
    (opTxPreemphRead, .txPreemphRead), (opTxCalRead, .txCalRead), (opRxRead, .rxRead), (opRxStatusRead, .rxStatusRead), (opRxQualityRead, .rxQualityRead),
    (opRxCalRead, .rxCalRead), (opLineOhRead, .lineOhRead), (opLineTtiRead, .lineTtiRead), (opLineOtnStatusRead, .lineOtnStatusRead), (opClPortRead, .clPortRead),
    (opClPortStatusRead, .clPortStatusRead), (opFlexoTribRead, .flexoTribRead), (opLaneStatusRead, .laneStatusRead), (opLanePrbsRead, .lanePrbsRead),
    (opGroomRead, .groomRead), (opGroomStatusRead, .groomStatusRead), (opSlotRead, .slotRead), (opSlotStatusRead, .slotStatusRead), (opSecStatusRead, .secStatusRead),
    (opKeStatusRead, .keStatusRead), (opHkRead, .hkRead), (opHkResultRead, .hkResultRead), (opOutRead, .outRead), (opOutStatusRead, .outStatusRead),
    (opBlRead, .blRead), (opBlStatusRead, .blStatusRead), (opOptStatusRead, .optStatusRead), (opModeStatusRead, .modeStatusRead), (opBootStatusRead, .bootStatusRead),
    (opKeySlotsRead, .keySlotsRead), (opIdRead, .idRead), (opStoreStatusRead, .storeStatusRead), (opFaultRead, .faultRead), (opRetireRead, .retireRead),
    (opWinRead, .winRead), (opEvtMaskRead, .evtMaskRead), (opIntegStatusRead, .integStatusRead)]

theorem exists_readOp {c : Req → Instr} (h : Reads c) : ∃ o, (o, c) ∈ readOps := by
  obtain ⟨⟨o, _⟩, ho, rfl⟩ := List.mem_map.1 (show c ∈ readOps.map Prod.snd from h)
  exact ⟨o, ho⟩

/-- The command of an opcode is its checks, and it answers result words without any other effect. -/
def OnlyAnswers (e : OpInfo × (Req → Instr)) : Prop :=
  ∀ (rq : Req) (s : State), ∃ (k : Checks) (res : State → List W32), exec (e.2 rq) s = .next (command e.1 rq k s fun s => .done s (res s))

theorem OnlyAnswers.of_do {e : OpInfo × (Req → Instr)} {f : Req → State → State} (hexec : ∀ rq s, exec (e.2 rq) s = .next (f rq s))
    (h : ∀ rq s, ∃ (k : Checks) (res : State → List W32), f rq s = command e.1 rq k s fun s => .done s (res s)) : OnlyAnswers e := by
  intro rq s
  obtain ⟨k, res, hf⟩ := h rq s
  exact ⟨k, res, (hexec rq s).trans (congrArg _ hf)⟩

/-- The reading opcodes whose operation first names a field of the parameters. -/
def fieldReads : List (OpInfo × (Req → Instr)) :=
  [(opCommitListRead, .commitListRead), (opTestRead, .testRead), (opLineTtiRead, .lineTtiRead), (opOutRead, .outRead), (opFaultRead, .faultRead), (opWinRead, .winRead),
    (opEvtMaskRead, .evtMaskRead)]

theorem fieldReads_onlyAnswer : ∀ e ∈ fieldReads, OnlyAnswers e := by
  simp only [fieldReads, List.forall_mem_cons, List.not_mem_nil, false_implies, implies_true, and_true]
  and_intros
  all_goals
    refine .of_do (fun _ _ => rfl) fun rq s => ?_
    simp only [doCommitListRead, doTestRead, doLineTtiRead, doOutRead, doFaultRead, doWinRead, doEvtMaskRead]
    exact ⟨_, _, rfl⟩

theorem readOps_onlyAnswer : ∀ e ∈ readOps, OnlyAnswers e := by
  have hfield := fieldReads_onlyAnswer
  simp only [fieldReads, List.forall_mem_cons] at hfield
  simp only [readOps, List.forall_mem_cons, List.not_mem_nil, false_implies, implies_true, and_true, hfield, true_and]
  and_intros <;> exact fun _ _ => ⟨_, _, rfl⟩

/-- A reply once the sequence number is accepted changes what a reply changes and the key slots. -/
theorem reply_accepted_eq (o : OpInfo) (rq : Req) (key : Option (BitVec 256)) (r : Rej) (res : List W32) (s : State) :
    let t := reply o.code rq key r res (accepted rq s)
    t = { s with cmd := { s.cmd with rq := t.cmd.rq, intStatus := t.cmd.intStatus, late := t.cmd.late, joined := t.cmd.joined }, ev := t.ev, keys := t.keys } := by
  intro t
  have ht : t = _ := reply_eq o.code rq key r res (accepted rq s)
  rw [accepted_eq] at ht
  rw [ht]

/-- Settles O14: a reading command does nothing, is refused with a reply, or replies with its words once its sequence number is accepted. -/
theorem readsWriteNothing : Obligations.ReadsWriteNothing := by
  intro c hc rq s t hm ht
  obtain ⟨o, ho⟩ := exists_readOp hc
  obtain ⟨k, res, hexec⟩ := readOps_onlyAnswer _ ho rq s
  obtain rfl : command o rq k s (fun s => .done s (res s)) = t := Host.Outcome.next.inj (hexec.symm.trans ht)
  rcases command_cases o rq k s (fun s => .done s (res s)) hm with h | ⟨r, -, h⟩ | h
  · rw [h]
    exact ⟨rfl, .inl rfl⟩
  · rw [h]
    exact ⟨(reply_eq ..).trans (by rw [reply_keys]), .inl (reply_keys ..)⟩
  · rw [h]
    exact ⟨reply_accepted_eq .., .inr (reply_keys ..)⟩

end Sys2Proof.Machine
end

section
/-! O16: the commands that write one unit. -/

namespace Sys2Proof.Machine

/-! ### A command and what its effect keeps (R71, R74, R99) -/

/-- `f` looks at nothing that a reply and an accepted sequence number change. -/
structure Outside {α : Type} (f : State → α) : Prop where
  cmd : ∀ g s, f (s.onCmd g) = f s
  ev : ∀ g s, f (s.onEv g) = f s
  keys : ∀ g s, f (s.onKeys g) = f s

/-- The state that an answer carries is as `s` to `f`. -/
def Answer.Leaves {α : Type} (f : State → α) (s : State) : Answer → Prop
  | .done t _ | .slagged t _ _ | .fail t _ | .wait t => f t = f s
  | .rej _ => True

section
variable {α : Type} {f : State → α} (hf : Outside f)
include hf

theorem Outside.reply (opcode : Nat) (rq : Req) (key : Option (BitVec 256)) (r : Rej) (res : List W32) (s : State) : f (reply opcode rq key r res s) = f s := by
  rw [reply_eq]
  exact (hf.ev (fun _ => (Machine.reply opcode rq key r res s).ev) _).trans
    (hf.cmd (fun v => { v with
      rq := (Machine.reply opcode rq key r res s).cmd.rq, intStatus := (Machine.reply opcode rq key r res s).cmd.intStatus,
      late := (Machine.reply opcode rq key r res s).cmd.late, joined := (Machine.reply opcode rq key r res s).cmd.joined }) s)

theorem Outside.accepted (rq : Req) (s : State) : f (accepted rq s) = f s := by
  rw [accepted_eq]
  exact hf.keys (fun _ => _) s

theorem Outside.answer (o : OpInfo) (rq : Req) {s : State} {a : Answer} (h : a.Leaves f s) : f (answer o rq s a) = f s := by
  cases a with
  | done t res => exact (hf.reply ..).trans h
  | slagged t res i => exact (hf.reply ..).trans ((hf.keys ..).trans h)
  | rej r => exact hf.reply ..
  | fail t r => exact (hf.reply ..).trans ((hf.keys ..).trans h)
  | wait t => exact (hf.cmd (fun _ => (holdCq rq s t).cmd) t).trans h

/-- A command that no fault meets keeps what its effect keeps. -/
theorem Outside.command (o : OpInfo) (rq : Req) (k : Checks) {s : State} {eff : State → Answer} (hm : s.mode.miscompare = false) (h : ∀ u, (eff u).Leaves f u) :
    f (command o rq k s eff) = f s := by
  rcases command_cases o rq k s eff hm with hc | ⟨r, -, hc⟩ | hc
  · rw [hc]
  · rw [hc, hf.reply]
  · rw [hc]
    have ha := h (Machine.accepted rq s)
    rw [Answer.Leaves.eq_def] at ha
    exact hf.answer o rq (by rw [Answer.Leaves.eq_def]; simpa only [hf.accepted] using ha)

end

theorem outside_rest {own : List Part} (h : .cmd ∈ own ∧ .ev ∈ own ∧ .keys ∈ own) : Outside (rest own) :=
  ⟨fun g s => rest_onCmd h.1 s g, fun g s => rest_onEv h.2.1 s g, fun g s => rest_onKeys h.2.2 s g⟩

/-- A command whose effect leaves the rest beside the parts `own` changes those parts alone. -/
theorem command_take {own : List Part} (hown : .cmd ∈ own ∧ .ev ∈ own ∧ .keys ∈ own) {o : OpInfo} {rq : Req} {k : Checks} {s t : State} {eff : State → Answer}
    (hm : s.mode.miscompare = false) (ht : ok (command o rq k s eff) = .next t) (h : ∀ u, (eff u).Leaves (rest own) u) : t = s.take own t :=
  of_next ((outside_rest hown).command o rq k hm h) ht

@[simp] theorem leaves_done {α : Type} (f : State → α) (s t : State) (res : List W32) : (Answer.done t res).Leaves f s ↔ f t = f s := Iff.rfl
@[simp] theorem leaves_slagged {α : Type} (f : State → α) (s t : State) (res : List W32) (i : Nat) : (Answer.slagged t res i).Leaves f s ↔ f t = f s := Iff.rfl
@[simp] theorem leaves_fail {α : Type} (f : State → α) (s t : State) (r : Rej) : (Answer.fail t r).Leaves f s ↔ f t = f s := Iff.rfl
@[simp] theorem leaves_wait {α : Type} (f : State → α) (s t : State) : (Answer.wait t).Leaves f s ↔ f t = f s := Iff.rfl
@[simp] theorem leaves_rej {α : Type} (f : State → α) (s : State) (r : Rej) : (Answer.rej r).Leaves f s ↔ True := Iff.rfl

theorem Answer.Leaves.trans {α : Type} {f : State → α} {s t : State} {a : Answer} (ha : a.Leaves f t) (h : f t = f s) : a.Leaves f s := by
  cases a with
  | rej r => trivial
  | done | slagged | fail | wait => exact Eq.trans ha h

/-! ### Where only a part of a unit is written -/

/-- What a state holds outside the parts `own` and outside the fault record. -/
def besideRecord (own : List Part) (s : State) : State × StoreSt := (rest (.store :: own) s, { s.store with record := [], serial := 0#32 })

/-- What a state holds outside the parts `own` and outside the request for the recomputation of the routes. -/
def besideRoutes (own : List Part) (s : State) : State × FabSt := (rest (.fab :: own) s, { s.fab with routesDue := false })

theorem outside_besideRecord {own : List Part} (h : .cmd ∈ own ∧ .ev ∈ own ∧ .keys ∈ own) : Outside (besideRecord own) := by
  obtain ⟨hcmd, hev, hkeys⟩ := outside_rest (own := .store :: own) (by simp [h])
  exact ⟨fun g s => Prod.ext (hcmd g s) rfl, fun g s => Prod.ext (hev g s) rfl, fun g s => Prod.ext (hkeys g s) rfl⟩

theorem outside_besideRoutes {own : List Part} (h : .cmd ∈ own ∧ .ev ∈ own ∧ .keys ∈ own) : Outside (besideRoutes own) := by
  obtain ⟨hcmd, hev, hkeys⟩ := outside_rest (own := .fab :: own) (by simp [h])
  exact ⟨fun g s => Prod.ext (hcmd g s) rfl, fun g s => Prod.ext (hev g s) rfl, fun g s => Prod.ext (hkeys g s) rfl⟩

theorem take_cons_store (own : List Part) (s t : State) : s.take (.store :: own) t = { s.take own t with store := t.store } := by simp [State.take]
theorem take_cons_fab (own : List Part) (s t : State) : s.take (.fab :: own) t = { s.take own t with fab := t.fab } := by simp [State.take]

theorem rest_cons_of_rest {own : List Part} {s t : State} (p : Part) (h : rest own t = rest own s) : rest (p :: own) t = rest (p :: own) s := by
  rw [eq_take_of_rest h]
  simp only [rest, State.take, List.mem_cons, State.mk.injEq]
  and_intros <;> split <;> simp_all

/-- An operation that leaves the profile store alone leaves what lies outside the fault record. -/
theorem besideRecord_of_rest {own : List Part} (hstore : .store ∉ own) {s t : State} (h : rest own t = rest own s) : besideRecord own t = besideRecord own s := by
  refine Prod.ext (rest_cons_of_rest .store h) ?_
  have ht : t.store = s.store := by rw [eq_take_of_rest h]; exact if_neg hstore
  simp only [besideRecord, ht]

@[simp] theorem internalEntry_besideRecord (own : List Part) (opcode : Nat) (s : State) : besideRecord own (internalEntry opcode s) = besideRecord own s :=
  Prod.ext (internalEntry_rest List.mem_cons_self ..) rfl

theorem internalAnswer_leaves {own : List Part} (hstore : .store ∉ own) (o : OpInfo) {s t : State} (h : rest own t = rest own s) :
    (internalAnswer o t).Leaves (besideRecord own) s := by
  rw [internalAnswer, leaves_fail, internalEntry_besideRecord]
  exact besideRecord_of_rest hstore h

/-- A command whose effect leaves the rest beside the parts `own` and the fault record changes those alone. -/
theorem command_takeRecord {own : List Part} (hown : .cmd ∈ own ∧ .ev ∈ own ∧ .keys ∈ own) {o : OpInfo} {rq : Req} {k : Checks} {s t : State} {eff : State → Answer}
    (hm : s.mode.miscompare = false) (ht : ok (command o rq k s eff) = .next t) (h : ∀ u, (eff u).Leaves (besideRecord own) u) :
    t = { s.take own t with store := { s.store with record := t.store.record, serial := t.store.serial } } := by
  have hleft : besideRecord own t = besideRecord own s := Host.Outcome.next.inj ht ▸ (outside_besideRecord hown).command o rq k hm h
  have ht : t = s.take (.store :: own) t := eq_take_of_rest (congrArg Prod.fst hleft)
  have hstore : t.store = { s.store with record := t.store.record, serial := t.store.serial } :=
    congrArg (fun v : StoreSt => { v with record := t.store.record, serial := t.store.serial }) (congrArg Prod.snd hleft)
  rw [take_cons_store] at ht
  exact ht.trans (congrArg (fun v => { s.take own t with store := v }) hstore)

theorem command_takeRoutes {own : List Part} (hown : .cmd ∈ own ∧ .ev ∈ own ∧ .keys ∈ own) {o : OpInfo} {rq : Req} {k : Checks} {s t : State} {eff : State → Answer}
    (hm : s.mode.miscompare = false) (ht : ok (command o rq k s eff) = .next t) (h : ∀ u, (eff u).Leaves (besideRoutes own) u) :
    t = { s.take own t with fab := { s.fab with routesDue := t.fab.routesDue } } := by
  have hleft : besideRoutes own t = besideRoutes own s := Host.Outcome.next.inj ht ▸ (outside_besideRoutes hown).command o rq k hm h
  have ht : t = s.take (.fab :: own) t := eq_take_of_rest (congrArg Prod.fst hleft)
  have hfab : t.fab = { s.fab with routesDue := t.fab.routesDue } :=
    congrArg (fun v : FabSt => { v with routesDue := t.fab.routesDue }) (congrArg Prod.snd hleft)
  rw [take_cons_fab] at ht
  exact ht.trans (congrArg (fun v => { s.take own t with fab := v }) hfab)

/-! ### Reads of protected tables (R427, R429) -/

section
variable {own : List Part}

theorem tableSlag_rest_of_ne {t : Nat} (ht : t ≠ 10) (h : .ev ∈ own ∧ .integ ∈ own) (i : Nat) (s : State) : rest own (tableSlag t i s) = rest own s := by
  simp [tableSlag, askRestore, ht, h]

theorem noteReads_rest_of_ne {t : Nat} (ht : t ≠ 10) (h : .ev ∈ own ∧ .integ ∈ own) (i : Nat) (l : List WordRead) (s : State) :
    rest own (noteReads t i l s) = rest own s := by
  induction l generalizing i s with
  | nil => rfl
  | cons r l ih => simp [noteReads, ih, tableSlag_rest_of_ne ht h, h]

theorem readAnswer_leaves {α : Type} {f : State → α} {t i : Nat} {ws : List W32} {s : State} (h : f (noteReads t i (readWords s t i ws) s) = f s) (pre : List W32) :
    (readAnswer t i ws pre s).Leaves f s := by
  unfold readAnswer
  dsimp only
  split <;> exact h

/-- A read of a table beside that of the routes asks at most for the restoration of an entry. -/
theorem readAnswer_leaves_rest {t : Nat} (ht : t ≠ 10) (h : .ev ∈ own ∧ .integ ∈ own) (i : Nat) (ws pre : List W32) (s : State) :
    (readAnswer t i ws pre s).Leaves (rest own) s := readAnswer_leaves (noteReads_rest_of_ne ht h ..) pre

theorem tableSlag_besideRoutes (h : .ev ∈ own) (i : Nat) (s : State) : besideRoutes own (tableSlag 10 i s) = besideRoutes own s :=
  Prod.ext (by simp [besideRoutes, tableSlag, askRestore, h]) (by rw [tableSlag, note_eq]; rfl)

theorem noteReads_besideRoutes (h : .ev ∈ own) (i : Nat) (l : List WordRead) (s : State) : besideRoutes own (noteReads 10 i l s) = besideRoutes own s := by
  induction l generalizing i s with
  | nil => rfl
  | cons r l ih =>
    have hnote : besideRoutes own (note evIntChkCorr 0 r.mends s) = besideRoutes own s := Prod.ext (by simp [besideRoutes, h]) (by rw [note_eq]; rfl)
    unfold noteReads
    dsimp only
    rw [ih]
    split
    · exact (tableSlag_besideRoutes h ..).trans hnote
    · exact hnote

@[simp] theorem flushMask_rest (h : .cmd ∈ own ∧ .ev ∈ own) (l : List Nat) (s : State) : rest own (flushMask l s) = rest own s := by
  induction l generalizing s with
  | nil => rfl
  | cons q l ih => simp [flushMask, ih, h]

@[simp] theorem zeroCounters_rest (h : .ev ∈ own) (l : List W32) (s : State) : rest own (zeroCounters l s) = rest own s := by
  induction l generalizing s with
  | nil => rfl
  | cons w l ih => simp [zeroCounters, zeroCounter, ih, h]

@[simp] theorem grmModified_rest (h : .grm ∈ own) (s : State) : rest own (grmModified s) = rest own s := by simp [grmModified, h]
@[simp] theorem onSigner_rest (h : .boot ∈ own) (k : Nat) (f : SignerSlot → SignerSlot) (s : State) : rest own (onSigner k f s) = rest own s := by simp [onSigner, h]
@[simp] theorem keyWaits_rest (h : .sec ∈ own) (d : Deferred) (s : State) : rest own (keyWaits d s) = rest own s := by simp [keyWaits, h]
@[simp] theorem famRelease_rest (h : .tx ∈ own) (s : State) : rest own (famRelease s) = rest own s := by simp [famRelease, h]
@[simp] theorem restartAlignment_rest (h : .root ∈ own) (s : State) : rest own (restartAlignment s) = rest own s := by simp [restartAlignment, h]
@[simp] theorem addCommit_rest (h : .commits ∈ own) (o : OpInfo) (rq : Req) (s : State) : rest own (addCommit o rq s) = rest own s := by simp [addCommit, h]
@[simp] theorem addRecord_rest (h : .cmd ∈ own) (q : Fin 6) (tag : W16) (target src : W12) (opcode : Nat) (s : State) :
    rest own (addRecord q tag target src opcode s) = rest own s := by simp [addRecord, h]

end

/-! ### The commands (R74) -/

theorem withKeyLock_leaves {own : List Part} (hstore : .store ∉ own) (hsec : .sec ∈ own) (o : OpInfo) (rq : Req) (s : State) :
    (withKeyLock o rq s).Leaves (besideRecord own) s := by
  unfold withKeyLock
  split
  · exact internalAnswer_leaves hstore o rfl
  split
  · exact besideRecord_of_rest hstore (keyWaits_rest hsec ..)
  · exact besideRecord_of_rest hstore (keyServiceTake_rest hsec ..)

/-- Settles O16: each command's effect leaves what lies outside the unit that it writes, and so does its reply. -/
theorem otherCommandsWriteTheirOwnUnit : Obligations.OtherCommandsWriteTheirOwnUnit := by
  intro rq s t hm
  refine ⟨?queues, ?commitCancel, ?strokeSet, ?mapSync, ?mapWrite, ?tableReads, ?fabRouteRead, ?pgStatusRead, ?txCfg, ?rxCfg, ?drawing, ?ruleWrites, ?grooming, ?grmQueueFlush,
    ?keys, ?pkSet, ?store, ?i2c, ?boot, ?imageInstall, ?faultAck, ?profiles, ?pmRead, ?fabPathSet, ?quenchExit⟩
  case queues =>
    rintro (h | h | h | h | h | h | h)
    · exact command_take (own := [.cmd, .ev, .keys]) (by simp) hm h fun u => by simp
    · exact command_take (own := [.cmd, .ev, .keys]) (by simp) hm h fun u => by simp
    · exact command_take (own := [.cmd, .ev, .keys]) (by simp) hm h fun u => by simp
    · exact command_take (own := [.cmd, .ev, .keys]) (by simp) hm h fun u => by simp
    · simp only [exec, execEvtMaskWrite, doEvtMaskWrite] at h
      exact command_take (own := [.cmd, .ev, .keys]) (by simp) hm h fun u => by simp
    · simp only [exec, execEvtPop, doEvtPop] at h
      exact command_take (own := [.cmd, .ev, .keys]) (by simp) hm h fun u => by simp
    · simp only [exec, execEvcRead, doEvcRead] at h
      exact command_take (own := [.cmd, .ev, .keys]) (by simp) hm h fun u => by split <;> simp
  case commitCancel =>
    intro h
    simp only [exec, execCommitCancel, doCommitCancel] at h
    exact command_take (own := [.cmd, .ev, .keys, .commits]) (by simp) hm h fun u => by simp
  case strokeSet => exact fun h => command_take (own := [.cmd, .ev, .keys, .stk]) (by simp) hm h fun u => by simp
  case mapSync => exact fun h => command_take (own := [.cmd, .ev, .keys, .anvil]) (by simp) hm h fun u => by simp
  case mapWrite =>
    refine fun h => command_takeRecord (own := [.cmd, .ev, .keys, .anvil, .integ]) (by simp) hm h fun u => ?_
    split
    · exact internalAnswer_leaves (by simp) _ (by simp)
    · exact besideRecord_of_rest (by simp) (by simp)
  case tableReads =>
    rintro (h | h | h | h | h | h)
    · simp only [exec, execMapRead, doMapRead] at h
      exact command_take (own := [.cmd, .ev, .keys, .integ]) (by simp) hm h fun u => readAnswer_leaves_rest (by simp only [shadowTable, activeTable]; (repeat' split) <;> decide) (by simp) ..
    · simp only [exec, execContRead, doContRead] at h
      refine command_take (own := [.cmd, .ev, .keys, .integ]) (by simp) hm h fun u => ?_
      have hhead := readAnswer_leaves_rest (own := [.cmd, .ev, .keys, .integ]) (t := 2) (by decide) (by simp) (4 * contObj (rq.p 0)) (contEntry u (contObj (rq.p 0))).words [] u
      have hruns {v : State} (hv : rest [.cmd, .ev, .keys, .integ] v = rest [.cmd, .ev, .keys, .integ] u) (i : Nat) (ws pre : List W32) :
          (readAnswer 3 i ws pre v).Leaves (rest [.cmd, .ev, .keys, .integ]) u := (readAnswer_leaves_rest (by decide) (by simp) ..).trans hv
      split
      next v res h =>
        have hv : (Answer.done v res).Leaves _ u := h ▸ hhead
        exact hruns (v := v) hv ..
      next v res i h =>
        have hv : (Answer.slagged v res i).Leaves _ u := h ▸ hhead
        have hboth := hruns (v := v) hv (poolIndex v (contObj (rq.p 0))) (contEntry v (contObj (rq.p 0))).runs res
        split
        next w res' h' => rwa [h'] at hboth
        next w res' j h' => rwa [h'] at hboth
        next => exact hboth
      next => exact hhead
    · exact command_take (own := [.cmd, .ev, .keys, .integ]) (by simp) hm h fun u => readAnswer_leaves_rest (by simp) (by simp) ..
    · simp only [exec, execRuleRead, doRuleRead] at h
      refine command_take (own := [.cmd, .ev, .keys, .integ]) (by simp) hm h fun u => ?_
      split
      · exact readAnswer_leaves_rest (by unfold bankOf; (repeat' split) <;> decide) (by simp) ..
      · exact readAnswer_leaves_rest (by unfold bankOf; (repeat' split) <;> decide) (by simp) ..
    · exact command_take (own := [.cmd, .ev, .keys, .integ]) (by simp) hm h fun u => readAnswer_leaves_rest (by simp) (by simp) ..
    · exact command_take (own := [.cmd, .ev, .keys, .integ]) (by simp) hm h fun u => by simp
  case fabRouteRead =>
    intro h
    simp only [exec, execFabRouteRead, doFabRouteRead] at h
    exact command_takeRoutes (own := [.cmd, .ev, .keys]) (by simp) hm h fun u => readAnswer_leaves (noteReads_besideRoutes (by simp) ..) _
  case pgStatusRead =>
    intro h
    simp only [exec, execPgStatusRead, doPgStatusRead] at h
    exact command_take (own := [.cmd, .ev, .keys, .prot]) (by simp) hm h fun u => by simp
  case txCfg =>
    intro h
    simp only [exec, execTxCfg, doTxCfg] at h
    exact command_take (own := [.cmd, .ev, .keys, .commits, .tx]) (by simp) hm h fun u => by simp [commitOnly]
  case rxCfg =>
    intro h
    simp only [exec, execRxCfg, doRxCfg] at h
    exact command_take (own := [.cmd, .ev, .keys, .commits, .rx]) (by simp) hm h fun u => by simp [commitOnly]
  case drawing =>
    rintro (h | h)
    · exact command_take (own := [.cmd, .ev, .keys, .free]) (by simp) hm h fun u => by simp
    · exact command_take (own := [.cmd, .ev, .keys, .free]) (by simp) hm h fun u => by simp
  case ruleWrites =>
    rintro (h | h)
    · simp only [exec, execProgWrite, doProgWrite] at h
      refine command_takeRecord (own := [.cmd, .ev, .keys, .anvil, .grm, .integ]) (by simp) hm h fun u => ?_
      split
      · exact internalAnswer_leaves (by simp) _ (by simp)
      · exact besideRecord_of_rest (by simp) (by simp)
    · simp only [exec, execRuleWrite, doRuleWrite] at h
      refine command_takeRecord (own := [.cmd, .ev, .keys, .anvil, .grm, .integ]) (by simp) hm h fun u => ?_
      split
      · exact internalAnswer_leaves (by simp) _ (by simp)
      · exact besideRecord_of_rest (by simp) (by simp)
  case grooming =>
    rintro (h | h)
    · exact command_take (own := [.cmd, .ev, .keys, .grm]) (by simp) hm h fun u => by simp
    · exact command_take (own := [.cmd, .ev, .keys, .grm]) (by simp) hm h fun u => by simp
  case grmQueueFlush => exact fun h => command_take (own := [.cmd, .ev, .keys, .cont, .grm]) (by simp) hm h fun u => by simp
  case keys =>
    rintro (h | h | h | h)
    · exact command_takeRecord (own := [.cmd, .ev, .keys, .sec]) (by simp) hm h fun u => withKeyLock_leaves (by simp) (by simp) ..
    · exact command_takeRecord (own := [.cmd, .ev, .keys, .sec]) (by simp) hm h fun u => withKeyLock_leaves (by simp) (by simp) ..
    · exact command_takeRecord (own := [.cmd, .ev, .keys, .sec]) (by simp) hm h fun u => withKeyLock_leaves (by simp) (by simp) ..
    · exact command_takeRecord (own := [.cmd, .ev, .keys, .sec]) (by simp) hm h fun u => withKeyLock_leaves (by simp) (by simp) ..
  case pkSet => exact fun h => command_take (own := [.cmd, .ev, .keys]) (by simp) hm h fun u => by split <;> simp
  case store =>
    refine fun h => command_take (own := [.cmd, .ev, .keys, .sec, .store]) (by simp) hm h fun u => ?_
    split
    · simp [internalAnswer]
    · simp
  case i2c =>
    rintro (h | h)
    · exact command_take (own := [.cmd, .ev, .keys, .opt]) (by simp) hm h fun u => by simp
    · simp only [exec, execI2cXfer, doI2cXfer] at h
      exact command_take (own := [.cmd, .ev, .keys, .opt]) (by simp) hm h fun u => by simp
  case boot =>
    rintro (h | h | h | h | h)
    · simp only [exec, execImageStage, doImageStage] at h
      exact command_take (own := [.cmd, .ev, .keys, .boot]) (by simp) hm h fun u => by simp
    · exact command_take (own := [.cmd, .ev, .keys, .boot]) (by simp) hm h fun u => by split <;> simp
    · simp only [exec, execSignerSlotProgram, doSignerSlotProgram] at h
      exact command_take (own := [.cmd, .ev, .keys, .boot]) (by simp) hm h fun u => by simp
    · simp only [exec, execSignerRevoke, doSignerRevoke] at h
      exact command_take (own := [.cmd, .ev, .keys, .boot]) (by simp) hm h fun u => by simp
    · exact command_take (own := [.cmd, .ev, .keys, .boot]) (by simp) hm h fun u => by simp
  case imageInstall =>
    intro h
    simp only [exec, execImageInstall, doImageInstall] at h
    exact command_take (own := [.cmd, .ev, .keys, .boot]) (by simp) hm h fun u => by (repeat' split) <;> simp
  case faultAck => exact fun h => command_take (own := [.cmd, .ev, .keys, .mode]) (by simp) hm h fun u => by simp
  case profiles =>
    rintro (h | h)
    · exact command_take (own := [.cmd, .ev, .keys, .store]) (by simp) hm h fun u => by simp
    · exact command_take (own := [.cmd, .ev, .keys, .store]) (by simp) hm h fun u => by simp
  case pmRead =>
    intro h
    simp only [exec, execPmRead, doPmRead] at h
    exact command_take (own := [.cmd, .ev, .keys, .pm]) (by simp) hm h fun u => by split <;> simp
  case fabPathSet =>
    intro h
    simp only [exec, execFabPathSet, doFabPathSet] at h
    refine command_takeRecord (own := [.cmd, .ev, .keys, .anvil, .commits, .fab, .integ]) (by simp) hm h fun u => ?_
    split
    · exact internalAnswer_leaves (by simp) _ (by simp)
    · exact besideRecord_of_rest (by simp) (by simp)
  case quenchExit => exact fun h => command_take (own := [.cmd, .ev, .keys, .boot, .mode, .opt, .root, .tx]) (by simp) hm h fun u => by simp

end Sys2Proof.Machine
end

section
/-! O18 to O23: the commands that are admitted and pass the checks of their own, of the system to the fabric. -/

namespace Sys2Proof.Machine

/-- The checks of one command find nothing. -/
def Checks.Pass (k : Checks) : Prop := ∀ c ∈ k.role ++ k.unit ++ k.par ++ k.late, c = none

theorem Checks.pass_iff (k : Checks) : k.Pass ↔ (∀ c ∈ k.role, c = none) ∧ (∀ c ∈ k.unit, c = none) ∧ (∀ c ∈ k.par, c = none) ∧ ∀ c ∈ k.late, c = none := by
  simp only [Checks.Pass, List.forall_mem_append, and_assoc]

/-- When checks find nothing, list by list and check by check, with the conditions as the checks write them: the rules by which the hypotheses about a command close its checks. -/
theorem check_rules :
    (∀ k : Checks, k.Pass ↔ (∀ c ∈ k.role, c = none) ∧ (∀ c ∈ k.unit, c = none) ∧ (∀ c ∈ k.par, c = none) ∧ ∀ c ∈ k.late, c = none)
    ∧ ((∀ x ∈ ([] : List Check), x = none) ↔ True)
    ∧ (∀ (c : Check) (l : List Check), (∀ x ∈ c :: l, x = none) ↔ c = none ∧ ∀ x ∈ l, x = none)
    ∧ (∀ l m : List Check, (∀ x ∈ l ++ m, x = none) ↔ (∀ x ∈ l, x = none) ∧ ∀ x ∈ m, x = none)
    ∧ (∀ (n : Nat) (f : Nat → Check), (∀ x ∈ (List.range n).map f, x = none) ↔ ∀ i < n, f i = none)
    ∧ (∀ l : List Check, lowestFail l = none ↔ ∀ x ∈ l, x = none)
    ∧ (∀ (b : Bool) (r : Rej), need b r = none ↔ b = true)
    ∧ (∀ (i : Nat) (b : Bool), wordOk i b = none ↔ b = true)
    ∧ (∀ (i : Nat) (b : Bool), causeOk i b = none ↔ b = true)
    ∧ (∀ (n : Nat) (rq : Req), countIs n rq = none ↔ rq.params.length = n)
    ∧ (∀ (a b : Nat) (rq : Req), countIn a b rq = none ↔ a ≤ rq.params.length ∧ rq.params.length ≤ b)
    ∧ (∀ (i : Nat) (m : W32) (rq : Req), onlyBits i m rq = none ↔ rq.p i &&& ~~~m = 0#32)
    ∧ (∀ s : State, mapBusy s = none ↔ mapSealed s = false ∧ s.anvil.sync = none)
    ∧ (∀ s : State, grmBusy s = none ↔ grmSealed s = false ∧ s.grm.pend ≠ .draining ∧ s.grm.sync = none)
    ∧ (∀ s : State, storeBusy s = none ↔ s.store.store = none ∧ s.store.erase = none)
    ∧ (∀ a b : Bool, (a && b) = true ↔ a = true ∧ b = true) ∧ (∀ a : Bool, (!a) = true ↔ a = false) ∧ (∀ (p : Prop) [Decidable p], decide p = true ↔ p)
    ∧ (∀ a b : Nat, a ≠ b ↔ ¬ a = b) ∧ (∀ a b : GenState, a ≠ b ↔ ¬ a = b) ∧ (¬ False ↔ True) ∧ (True ∧ True ↔ True) := by
  refine ⟨Checks.pass_iff, by simp, fun _ _ => List.forall_mem_cons, fun _ _ => List.forall_mem_append, by simp, lowestFail_eq_none, need_eq_none, wordOk_eq_none,
    causeOk_eq_none, countIs_eq_none, countIn_eq_none, onlyBits_eq_none, ?_, ?_, ?_, by simp, by simp, by simp, fun _ _ => Iff.rfl, fun _ _ => Iff.rfl, by simp, by simp⟩
  · simp [mapBusy]
  · simp [grmBusy, and_assoc]
  · simp [storeBusy]

/-- A command that is admitted and passes its checks ends as its effect answers. -/
theorem ends_of_pass {o : OpInfo} {rq : Req} {k : Checks} {s : State} {eff : State → Answer} (h : Admitted o rq s) (hk : k.Pass) :
    ok (command o rq k s eff) = .next (answered o rq s eff) := by
  obtain ⟨hrole, hunit, hpar, hlate⟩ := (Checks.pass_iff k).1 hk
  exact congrArg ok (command_of_admitted k eff h hrole hunit hpar hlate)

/-- Where the condition of an effect does not hold, its other branch is what it answers. -/
theorem answered_else {o : OpInfo} {rq : Req} {s : State} {c : State → Bool} (a : State → Answer) {b : State → Answer} (h : c (accepted rq s) = false) :
    answered o rq s (fun s => if c s then a s else b s) = answered o rq s b := by
  simp only [answered, h, Bool.false_eq_true, if_false]

/-- Settles O18: each command passes its checks by the conditions given, and ends as its effect answers. That QUEUE_CFG accepts a LEVEL of a ring queue whose ring is off
(`levelMax`) is the model's choice (log entry 15). -/
theorem systemCommandsComplete : Obligations.SystemCommandsComplete := by
  refine ⟨?echo, ?capsRead, ?sysStatusRead, ?queueStatusRead, ?queueCfg, ?queueFlush, ?accessPolicyRead, ?accessPolicyWrite, ?intClear⟩
  case echo => exact fun rq s h hn => ends_of_pass h (by simp only [check_rules, Nat.zero_le, hn])
  case capsRead => exact fun rq s h hn => ends_of_pass h (by simp only [check_rules, hn])
  case sysStatusRead => exact fun rq s h hn => ends_of_pass h (by simp only [check_rules, hn])
  case queueStatusRead => exact fun rq s h hn => ends_of_pass h (by simp only [check_rules, hn])
  case queueCfg => exact fun rq s h hn hlevels htimeout h13 h14 => ends_of_pass h (by simpa only [check_rules, hn, htimeout, h13, h14, true_and, and_true] using hlevels)
  case queueFlush => exact fun rq s h hn h0 => ends_of_pass h (by simp only [check_rules, hn, h0])
  case accessPolicyRead => exact fun rq s h hn => ends_of_pass h (by simp only [check_rules, hn])
  case accessPolicyWrite => exact fun rq s h hn h0 h1 => ends_of_pass h (by simpa only [check_rules, hn, h1, true_and, and_true] using h0)
  case intClear => exact fun rq s h hn h0 => ends_of_pass h (by simp only [check_rules, hn, h0])

/-- Settles O19: each command passes its checks by the conditions given, and ends as its effect answers. That REF_FORCE completes for candidates 4 to 7 of an absent engine
and what `isolatedRoot` asks of STROKE_SET are the model's choices (log entries 86 and 17). -/
theorem strokeCommandsComplete : Obligations.StrokeCommandsComplete := by
  refine ⟨?strokeRead, ?strokeSet, ?strokeCfg, ?strokeJoin, ?refCfg, ?refStatusRead, ?refForce, ?clkCfg, ?commitListRead, ?commitCancel⟩
  case strokeRead => exact fun rq s h hn => ends_of_pass h (by simp only [check_rules, hn])
  case strokeSet => exact fun rq s h hIsolatedRoot hn hbits0 => ends_of_pass h (by simp only [check_rules, hIsolatedRoot, hn, hbits0])
  case strokeCfg => exact fun rq s h hn hbits0 hword0 hSigned => ends_of_pass h (by simp only [check_rules, hn, hbits0, hword0, hSigned])
  case strokeJoin => exact fun rq s h hn hIsEmpty => ends_of_pass h (by simp only [check_rules, hn, hIsEmpty])
  case refCfg =>
    intro rq s
    simp only [exec, execRefCfg, doRefCfg]
    exact fun h hRefAbsent hn hbits0 hrange hbits1 hword1 hword1A => ends_of_pass h (by simp only [check_rules, hRefAbsent, hn, hbits0, hrange, hbits1, hword1, hword1A])
  case refStatusRead => exact fun rq s h hn => ends_of_pass h (by simp only [check_rules, hn])
  case refForce =>
    intro rq s
    simp only [exec, execRefForce, doRefForce]
    exact fun h hn hbits0 hrange => ends_of_pass h (by simp only [check_rules, hn, hbits0, hrange])
  case clkCfg =>
    exact fun rq s h hn hbits0 hword0 hword0A hbits1 hword1 hbits2 hword2 =>
      ends_of_pass h (by simp only [check_rules, hn, hbits0, hword0, hword0A, hbits1, hword1, hbits2, hword2])
  case commitListRead =>
    intro rq s
    simp only [exec, execCommitListRead, doCommitListRead]
    exact fun h hn hbits0 => ends_of_pass h (by simp only [check_rules, hn, hbits0])
  case commitCancel =>
    intro rq s
    simp only [exec, execCommitCancel, doCommitCancel]
    exact fun h hn hbits0 => ends_of_pass h (by simp only [check_rules, hn, hbits0])

theorem mapEntryCheck_eq_none {rq : Req} {s : State} (h : ∀ e < fld (rq.p 1) 14 0, entryOk s (fld (rq.p 0) 18 0 + e) (mapEntry rq e) = true) : mapEntryCheck rq s = none := by
  have hfind : ((List.range (fld (rq.p 1) 14 0)).find? fun e => !entryOk s (fld (rq.p 0) 18 0 + e) (mapEntry rq e)) = none := by simpa using h
  simp only [mapEntryCheck, hfind]

/-- Settles O20: each command passes its checks by the conditions given, and ends as its effect answers; MAP_WRITE meets no word that reads back differently. -/
theorem anvilCommandsComplete : Obligations.AnvilCommandsComplete := by
  refine ⟨?mapWrite, ?mapCommit, ?mapSync, ?mapRead, ?mapStatusRead⟩
  case mapWrite =>
    intro rq s h hmin hmax hbits0 hbits1 hcount hentries hsealed hsync hback
    have hchecked := mapEntryCheck_eq_none hentries
    refine (ends_of_pass h ?_).trans (congrArg _ (answered_else (c := fun s => backDiffers (shadowTable s) (fld (rq.p 0) 18 0) (fld (rq.p 1) 14 0) s) _ ?_))
    · simp only [check_rules, hmin, hmax, hbits0, hbits1, hcount, if_true, hchecked, hsealed, hsync]
    · simpa using hback
  case mapCommit => exact fun rq s h hn hMapSealed hSync hInUse => ends_of_pass h (by simp only [check_rules, hn, hMapSealed, hSync, hInUse])
  case mapSync => exact fun rq s h hn hMapSealed hSync => ends_of_pass h (by simp only [check_rules, hn, hMapSealed, hSync])
  case mapRead =>
    intro rq s
    simp only [exec, execMapRead, doMapRead]
    exact fun h hn hbits0 hbits1 hrange => ends_of_pass h (by simp only [check_rules, hn, hbits0, hbits1, hrange])
  case mapStatusRead => exact fun rq s h hn => ends_of_pass h (by simp only [check_rules, hn])

theorem allRunsOk_pass {s : State} {c : Nat} {e : ContEntry}
    (h : ∀ i < e.runs.length, runInHome s e (e.runs.getD i 0#32) = true ∧ runOverlaps (takenRuns s c) e.runs i = false) : ∀ x ∈ allRunsOk s c e, x = none := by
  simpa [allRunsOk] using h

/-- Settles O21: each command passes its checks by the conditions given, and ends as its effect answers. That BA_READ completes for a disabled analyser and the conditions
`runsChangeOk` and `minBillets` of CONT_CFG are the model's choices (log entries 118 and 20). -/
theorem containerCommandsComplete : Obligations.ContainerCommandsComplete := by
  refine ⟨?contCfg, ?contRead, ?contStatusRead, ?baCfg, ?baRead, ?testRead, ?errInject⟩
  case contCfg =>
    intro rq s
    simp only [exec, execContCfg, doContCfg]
    intro h hengine hgroom hmin hmax h0 h1 hhome hpt hunit hlive hbound h3 hdeg h4 hruns hbillets hn hfit hfewest hleast hall hchange hpool
    refine ends_of_pass h ?_
    simp only [check_rules]
    exact ⟨trivial, ⟨hengine, hgroom, trivial⟩, ⟨⟨⟨⟨hmin, hmax⟩, h0, h1, hhome, hpt, hunit, hlive, hbound, h3, hdeg, h4, hruns, hbillets, hn, hfit, hfewest, hleast, trivial⟩,
      allRunsOk_pass hall⟩, hchange, trivial⟩, hpool, trivial⟩
  case contRead =>
    intro rq s
    simp only [exec, execContRead, doContRead]
    exact fun h hn hbits0 => ends_of_pass h (by simp only [check_rules, hn, hbits0])
  case contStatusRead => exact fun rq s h hn hbits0 => ends_of_pass h (by simp only [check_rules, hn, hbits0])
  case baCfg =>
    intro rq s
    simp only [exec, execBaCfg, doBaCfg]
    exact fun h hn hbits0 hbits1 hword1 hbits2 hrange => ends_of_pass h (by simp only [check_rules, hn, hbits0, hbits1, hword1, hbits2, hrange])
  case baRead => exact fun rq s h hn hbits0 => ends_of_pass h (by simp only [check_rules, hn, hbits0])
  case testRead =>
    intro rq s
    simp only [exec, execTestRead, doTestRead]
    exact fun h hn hbits0 hContEntry => ends_of_pass h (by simp only [check_rules, hn, hbits0, hContEntry])
  case errInject =>
    intro rq s
    simp only [exec, execErrInject, doErrInject]
    exact fun h hn hrange hbits0 hbits1 hrangeA => ends_of_pass h (by simp only [check_rules, hn, hrange, hbits0, hbits1, hrangeA])

/-- Settles O22: each command passes its checks by the conditions given, and ends as its effect answers. That PG_CMD is judged by the MODE in force, and words 64 to 95 of
PG_SUMMARY by `groupDefect`, are the model's choices (log entries 32 and 78). -/
theorem protectionCommandsComplete : Obligations.ProtectionCommandsComplete := by
  refine ⟨?pgCfg, ?pgRead, ?pgCmd, ?alnRealign, ?pgStatusRead, ?alnStatusRead, ?pgSummaryRead⟩
  case pgCfg =>
    intro rq s
    simp only [exec, execPgCfg, doPgCfg]
    exact fun h hn hbits0 hbits1 hbits2 hbits3 hbits4 hbits5 hbits6 hbits7 hbits8 hPgMode hPgModeA hKeep hPgRangeOk hKeepA hPgOffset hPgLen hKeepB hPgLenA
        hKeepC hPgAps hPgDiff hKeepD hPgModeB hPgSlack hrange hrangeA hPgErrorless =>
      ends_of_pass h (by simp only [check_rules, hn, hbits0, hbits1, hbits2, hbits3, hbits4, hbits5, hbits6, hbits7, hbits8, hPgMode, hPgModeA, hKeep, hPgRangeOk,
        hKeepA, hPgOffset, hPgLen, hKeepB, hPgLenA, hKeepC, hPgAps, hPgDiff, hKeepD, hPgModeB, hPgSlack, hrange, hrangeA, hPgErrorless])
  case pgRead => exact fun rq s h hn hbits0 => ends_of_pass h (by simp only [check_rules, hn, hbits0])
  case pgCmd =>
    intro rq s
    simp only [exec, execPgCmd, doPgCmd]
    exact fun h hn hbits0 hM => ends_of_pass h (by simp only [check_rules, hn, hbits0, hM])
  case alnRealign =>
    intro rq s
    simp only [exec, execAlnRealign, doAlnRealign]
    exact fun h hn hbits0 hInFrame => ends_of_pass h (by simp only [check_rules, hn, hbits0, hInFrame])
  case pgStatusRead =>
    intro rq s
    simp only [exec, execPgStatusRead, doPgStatusRead]
    exact fun h hClr hn hbits0 => ends_of_pass h (by simp only [check_rules, hClr, hn, hbits0])
  case alnStatusRead => exact fun rq s h hn hbits0 => ends_of_pass h (by simp only [check_rules, hn, hbits0])
  case pgSummaryRead => exact fun rq s h hn => ends_of_pass h (by simp only [check_rules, hn])

/-- Settles O23: each command passes its checks by the conditions given, and ends as its effect answers. That FAB_PATH_SET answers at once with SYNC_FIRST too, and the order
of `recordCheck`, are the model's choices (log entries 64 and 89). -/
theorem fabricCommandsComplete : Obligations.FabricCommandsComplete := by
  refine ⟨?fabPathSet, ?fabCfg, ?fabStatusRead, ?fabPortCfg, ?fabPortStatusRead, ?fabRouteRead, ?fabLsdbRead⟩
  case fabPathSet =>
    intro rq s
    simp only [exec, execFabPathSet, doFabPathSet]
    intro h hpar hlate hrecord hback
    refine (ends_of_pass h ?_).trans (congrArg _ (answered_else (c := fun _ => pathBack 0 rq s) _ hback))
    exact (Checks.pass_iff _).2 ⟨by simp, by simp, hpar, List.forall_mem_append.2 ⟨hlate, hrecord⟩⟩
  case fabCfg =>
    intro rq s
    simp only [exec, execFabCfg, doFabCfg]
    exact fun h hn hbits0 hrange => ends_of_pass h (by simp only [check_rules, hn, hbits0, hrange])
  case fabStatusRead => exact fun rq s h hn => ends_of_pass h (by simp only [check_rules, hn])
  case fabPortCfg =>
    intro rq s
    simp only [exec, execFabPortCfg, doFabPortCfg]
    exact fun h hP hn hbits0 hFpObj hbits1 hword1 hbits2 hword2 =>
      ends_of_pass h (by simp only [check_rules, fpOk, hP, hn, hbits0, hFpObj, hbits1, hword1, hbits2, hword2])
  case fabPortStatusRead => exact fun rq s h hn hbits0 hFpObj => ends_of_pass h (by simp only [check_rules, fpOk, hn, hbits0, hFpObj])
  case fabRouteRead =>
    intro rq s
    simp only [exec, execFabRouteRead, doFabRouteRead]
    exact fun h hn hbits0 hbits1 hrange => ends_of_pass h (by simp only [check_rules, hn, hbits0, hbits1, hrange])
  case fabLsdbRead => exact fun rq s h hn hbits0 => ends_of_pass h (by simp only [check_rules, hn, hbits0])

end Sys2Proof.Machine
end

section
/-! O24 to O27, O29 and O31: the commands of the line, the clients, the grooming, the optics and the counters. -/

namespace Sys2Proof.Machine

/-- Settles O24: each command passes its checks by the conditions given, and ends as its effect answers. -/
theorem lineTxCommandsComplete : Obligations.LineTxCommandsComplete := by
  refine ⟨?txCfg, ?txRead, ?txPreemph, ?txPreemphRead, ?lineBondCfg, ?txStatusRead, ?txCalCfg, ?txCalRead⟩
  case txCfg =>
    intro rq s
    simp only [exec, execTxCfg, doTxCfg]
    intro h hpresent hretired hn hbits0 hbits1 hrate hbounds hspacing hbits2 hramp hbits3 hdrive hfree hcapacity
    refine ends_of_pass h ?_
    simp only [check_rules, hrate] at hspacing hcapacity ⊢
    simp only [check_rules, txUnit, engUnit, hpresent, hretired, hn, hbits0, hbits1, hbounds, hspacing, hbits2, hramp, hbits3, hdrive, hfree, hcapacity]
  case txRead => exact fun rq s h hEnginePresent hn hbits0 => ends_of_pass h (by simp only [check_rules, engUnit, engPar, hEnginePresent, hn, hbits0])
  case txPreemph =>
    exact fun rq s h hpresent hretired hn hbits0 htaps =>
      ends_of_pass h (by simpa only [check_rules, txUnit, engPar, engUnit, hpresent, hretired, hn, hbits0, true_and, and_true] using htaps)
  case txPreemphRead => exact fun rq s h hEnginePresent hn hbits0 => ends_of_pass h (by simp only [check_rules, engUnit, engPar, hEnginePresent, hn, hbits0])
  case lineBondCfg =>
    intro rq s
    simp only [exec, execLineBondCfg, doLineBondCfg]
    exact fun h hChanges hn hbits0 hrange hSpacingOk hChangesA hChangesB =>
      ends_of_pass h (by simp only [check_rules, hChanges, hn, hbits0, hrange, hSpacingOk, hChangesA, hChangesB])
  case txStatusRead => exact fun rq s h hEnginePresent hn hbits0 => ends_of_pass h (by simp only [check_rules, engUnit, engPar, hEnginePresent, hn, hbits0])
  case txCalCfg =>
    intro rq s
    simp only [exec, execTxCalCfg, doTxCalCfg]
    exact fun h hEnginePresent hTxEng hn hbits0 hbits1 hL hLA =>
      ends_of_pass h (by simp only [check_rules, txUnit, engPar, engUnit, hEnginePresent, hTxEng, hn, hbits0, hbits1, hL, hLA])
  case txCalRead => exact fun rq s h hEnginePresent hn hbits0 => ends_of_pass h (by simp only [check_rules, engUnit, engPar, hEnginePresent, hn, hbits0])

/-- Settles O25: each command passes its checks by the conditions given, and ends as its effect answers. -/
theorem lineRxCommandsComplete : Obligations.LineRxCommandsComplete := by
  refine ⟨?rxCfg, ?rxRead, ?rxStatusRead, ?rxQualityRead, ?rxCalRead, ?rxReacquire, ?lineOhCfg, ?lineOhRead, ?lineTtiWrite, ?lineTtiRead, ?lineOtnStatusRead, ?lineFecStatusRead, ?lineRealign⟩
  case rxCfg =>
    intro rq s
    simp only [exec, execRxCfg, doRxCfg]
    intro h hpresent hretired hn hbits0 hbits1 hrate hbounds hpilot hscan hbits3 hhunt hdeskew4 hdeskew5 hcapacity
    refine ends_of_pass h ?_
    simp only [check_rules] at hcapacity ⊢
    simp only [check_rules, rxUnit, engUnit, hpresent, hretired, hn, hbits0, hbits1, hrate, hbounds, hpilot, hscan, hbits3, hhunt, hdeskew4, hdeskew5, hcapacity]
  case rxRead => exact fun rq s h hEnginePresent hn hbits0 => ends_of_pass h (by simp only [check_rules, engUnit, engPar, hEnginePresent, hn, hbits0])
  case rxStatusRead => exact fun rq s h hEnginePresent hn hbits0 => ends_of_pass h (by simp only [check_rules, engUnit, engPar, hEnginePresent, hn, hbits0])
  case rxQualityRead => exact fun rq s h hEnginePresent hn hbits0 => ends_of_pass h (by simp only [check_rules, engUnit, engPar, hEnginePresent, hn, hbits0])
  case rxCalRead => exact fun rq s h hEnginePresent hn hbits0 => ends_of_pass h (by simp only [check_rules, engUnit, engPar, hEnginePresent, hn, hbits0])
  case rxReacquire =>
    exact fun rq s h hEnginePresent hRxEng hn hbits0 hbits1 hLcEn =>
      ends_of_pass h (by simp only [check_rules, rxUnit, engPar, engUnit, hEnginePresent, hRxEng, hn, hbits0, hbits1, hLcEn])
  case lineOhCfg =>
    intro rq s
    simp only [exec, execLineOhCfg, doLineOhCfg]
    exact fun h hEnginePresent hn hbits0 hbits1 hbits2 hDeg hbits3 hDegA hbits4 hword4 =>
      ends_of_pass h (by simp only [check_rules, lineUnit, engPar, engUnit, hEnginePresent, hn, hbits0, hbits1, hbits2, hDeg, hbits3, hDegA, hbits4, hword4])
  case lineOhRead => exact fun rq s h hEnginePresent hn hbits0 => ends_of_pass h (by simp only [check_rules, lineUnit, engPar, engUnit, hEnginePresent, hn, hbits0])
  case lineTtiWrite => exact fun rq s h hEnginePresent hn hbits0 => ends_of_pass h (by simp only [check_rules, lineUnit, engUnit, hEnginePresent, hn, hbits0])
  case lineTtiRead =>
    intro rq s
    simp only [exec, execLineTtiRead, doLineTtiRead]
    exact fun h hEnginePresent hn hbits0 => ends_of_pass h (by simp only [check_rules, lineUnit, engUnit, hEnginePresent, hn, hbits0])
  case lineOtnStatusRead =>
    exact fun rq s h hEnginePresent hn hbits0 =>
      ends_of_pass h (by simp only [check_rules, lineUnit, engPar, engUnit, hEnginePresent, hn, hbits0])
  case lineFecStatusRead =>
    exact fun rq s h hEnginePresent hn hbits0 =>
      ends_of_pass h (by simp only [check_rules, lineUnit, engPar, engUnit, hEnginePresent, hn, hbits0])
  case lineRealign =>
    exact fun rq s h hEnginePresent hn hbits0 hOtnOf =>
      ends_of_pass h (by simp only [check_rules, lineUnit, engPar, engUnit, hEnginePresent, hn, hbits0, hOtnOf])

/-- Settles O26: each command passes its checks by the conditions given, and ends as its effect answers. -/
theorem clientCommandsComplete : Obligations.ClientCommandsComplete := by
  refine ⟨?clPortCfg, ?clPortRead, ?clPortStatusRead, ?flexoTribCfg, ?flexoTribRead, ?laneCfg, ?laneStatusRead, ?lanePrbsRead⟩
  case clPortCfg =>
    intro rq s
    simp only [exec, execClPortCfg, doClPortCfg]
    exact fun h hCpGroomed hn hbits0 hCliObj hbits1 hCpWidth hP hCpGroomedA hLanesOverlap hTribsForbid hShapeChanges =>
      ends_of_pass h (by simp only [check_rules, portOk, hCpGroomed, hn, hbits0, hCliObj, hbits1, hCpWidth, hP, hCpGroomedA, hLanesOverlap, hTribsForbid, hShapeChanges])
  case clPortRead => exact fun rq s h hn hbits0 hCliObj => ends_of_pass h (by simp only [check_rules, portOk, hn, hbits0, hCliObj])
  case clPortStatusRead => exact fun rq s h hn hbits0 hCliObj => ends_of_pass h (by simp only [check_rules, portOk, hn, hbits0, hCliObj])
  case flexoTribCfg =>
    intro rq s
    simp only [exec, execFlexoTribCfg, doFlexoTribCfg]
    exact fun h hn hbits0 hP hbits1 hTrType hTrFirst hbits2 hTrCount hV hVA hVB hVC hVD hVE hVF =>
      ends_of_pass h (by simp only [check_rules, hn, hbits0, hP, hbits1, hTrType, hTrFirst, hbits2, hTrCount, hV, hVA, hVB, hVC, hVD, hVE, hVF])
  case flexoTribRead => exact fun rq s h hn hbits0 hCliObj => ends_of_pass h (by simp only [check_rules, hn, hbits0, hCliObj])
  case laneCfg =>
    intro rq s
    simp only [exec, execLaneCfg, doLaneCfg]
    intro h hretired hn hbits0 hvalid hbits1 hfields hlane hbits2 htaps hidle
    simp only [hvalid, Bool.true_and] at hretired
    exact ends_of_pass h (by simp only [check_rules, laneOk, hvalid, Bool.true_and, hretired, hn, hbits0, hbits1, hfields, hlane, hbits2, htaps, hidle])
  case laneStatusRead => exact fun rq s h hn hbits0 hLaneValid => ends_of_pass h (by simp only [check_rules, laneOk, hn, hbits0, hLaneValid])
  case lanePrbsRead => exact fun rq s h hn hbits0 hLaneValid => ends_of_pass h (by simp only [check_rules, laneOk, hn, hbits0, hLaneValid])

/-- Settles O27: each command passes its checks by the conditions given, and ends as its effect answers. PROG_WRITE and RULE_WRITE meet no word that reads back differently. -/
theorem groomCommandsComplete : Obligations.GroomCommandsComplete := by
  refine ⟨?groomCfg, ?groomRead, ?groomStatusRead, ?slotCfg, ?slotRead, ?slotStatusRead, ?progWrite, ?ruleWrite, ?ruleCommit, ?ruleSync, ?ruleRead, ?grmQueueCfg, ?grmQueueFlush⟩
  case groomCfg =>
    exact fun rq s h hGroomPresent hn hbits0 hToNat hbits1 hbits2 =>
      ends_of_pass h (by simp only [check_rules, grmUnit, hGroomPresent, hn, hbits0, hToNat, hbits1, hbits2])
  case groomRead => exact fun rq s h hGroomPresent hn => ends_of_pass h (by simp only [check_rules, grmUnit, hGroomPresent, hn])
  case groomStatusRead => exact fun rq s h hGroomPresent hn => ends_of_pass h (by simp only [check_rules, grmUnit, hGroomPresent, hn])
  case slotCfg =>
    intro rq s
    simp only [exec, execSlotCfg, doSlotCfg]
    exact fun h hGroomPresent hn hbits0 hbits1 hSlMib hbits2 hPortField hContNamed hSlEn hSlotMib =>
      ends_of_pass h (by simp only [check_rules, grmUnit, hGroomPresent, hn, hbits0, hbits1, hSlMib, hbits2, hPortField, hContNamed, hSlEn, hSlotMib])
  case slotRead => exact fun rq s h hGroomPresent hn hbits0 => ends_of_pass h (by simp only [check_rules, grmUnit, hGroomPresent, hn, hbits0])
  case slotStatusRead => exact fun rq s h hGroomPresent hn hbits0 => ends_of_pass h (by simp only [check_rules, grmUnit, hGroomPresent, hn, hbits0])
  case progWrite =>
    intro rq s
    simp only [exec, execProgWrite, doProgWrite]
    intro h hpresent hmin hmax hbits0 hbits1 hrange hn hinstr hsealed hpend hsync hback
    refine (ends_of_pass h ?_).trans (congrArg _ (answered_else (c := fun s => backDiffers (8 + pendBank s) (fld (rq.p 0) 7 0) (fld (rq.p 1) 8 0) s) _ ?_))
    · simp only [check_rules, grmUnit, hpresent]
      exact ⟨trivial, trivial, ⟨⟨⟨hmin, hmax⟩, hbits0, hbits1, hrange, hn, trivial⟩, hinstr⟩, ⟨hsealed, hpend, hsync⟩, trivial⟩
    · simpa using hback
  case ruleWrite =>
    intro rq s
    simp only [exec, execRuleWrite, doRuleWrite]
    intro h hpresent hmin hmax hbits0 hbits1 hrange hn hbits hsealed hpend hsync hback
    refine (ends_of_pass h ?_).trans
      (congrArg _ (answered_else (c := fun s => backDiffers (6 + pendBank s) (17 * fld (rq.p 0) 15 0) (17 * fld (rq.p 1) 7 0) s) _ ?_))
    · simp only [check_rules, grmUnit, hpresent]
      exact ⟨trivial, trivial, ⟨⟨⟨hmin, hmax⟩, hbits0, hbits1, ⟨⟨hrange.1, hrange.2.1⟩, hrange.2.2⟩, hn, trivial⟩, hbits⟩, ⟨hsealed, hpend, hsync⟩, trivial⟩
    · simpa using hback
  case ruleCommit =>
    exact fun rq s h hGroomPresent hn hGrmSealed hPend hSync =>
      ends_of_pass h (by simp only [check_rules, grmUnit, hGroomPresent, hn, hGrmSealed, hPend, hSync])
  case ruleSync =>
    exact fun rq s h hGroomPresent hn hGrmSealed hPend hSync =>
      ends_of_pass h (by simp only [check_rules, grmUnit, hGroomPresent, hn, hGrmSealed, hPend, hSync])
  case ruleRead =>
    intro rq s
    simp only [exec, execRuleRead, doRuleRead]
    exact fun h hGroomPresent hn hbits0 hProg hbits1 hProgA => ends_of_pass h (by simp only [check_rules, grmUnit, hGroomPresent, hn, hbits0, hProg, hbits1, hProgA])
  case grmQueueCfg =>
    exact fun rq s h hGroomPresent hn hbits0 hGrmQueueOk hbits1 =>
      ends_of_pass h (by simp only [check_rules, grmUnit, grmQueueChecks, hGroomPresent, hn, hbits0, hGrmQueueOk, hbits1])
  case grmQueueFlush =>
    exact fun rq s h hGroomPresent hn hbits0 hGrmQueueOk =>
      ends_of_pass h (by simp only [check_rules, grmUnit, grmQueueChecks, hGroomPresent, hn, hbits0, hGrmQueueOk])

/-- Settles O29: each command passes its checks by the conditions given, and ends as its effect answers. -/
theorem opticsCommandsComplete : Obligations.OpticsCommandsComplete := by
  refine ⟨?hkCfg, ?hkRead, ?hkTrigger, ?outCfg, ?outRead, ?blCfg, ?blRead, ?hkResultRead, ?outStatusRead, ?blStatusRead, ?optStatusRead, ?i2cCfg, ?i2cXfer⟩
  case hkCfg =>
    intro rq s
    simp only [exec, execHkCfg, doHkCfg]
    intro h hn hbits0 hbits1 hcount hbits2 hguard hentries
    refine ends_of_pass h ?_
    simp only [check_rules, hbits0, hbits1, hcount, hbits2, hguard]
    exact ⟨trivial, trivial, ⟨⟨hn, trivial⟩, hentries⟩, trivial⟩
  case hkRead => exact fun rq s h hn hbits0 => ends_of_pass h (by simp only [check_rules, hn, hbits0])
  case hkTrigger => exact fun rq s h hn hbits0 => ends_of_pass h (by simp only [check_rules, hn, hbits0])
  case outCfg =>
    intro rq s
    simp only [exec, execOutCfg, doOutCfg]
    exact fun h hn hbits0 hrange hbits1 hword1 hOwnedView hword2 => ends_of_pass h (by simp only [check_rules, hn, hbits0, hrange, hbits1, hword1, hOwnedView, hword2])
  case outRead =>
    intro rq s
    simp only [exec, execOutRead, doOutRead]
    exact fun h hn hbits0 hrange => ends_of_pass h (by simp only [check_rules, hn, hbits0, hrange])
  case blCfg =>
    intro rq s
    simp only [exec, execBlCfg, doBlCfg]
    exact fun h hn hbits0 hbits1 hBlOut hRange hBlEnable hBlAmp hBlCycles =>
      ends_of_pass h (by simp only [check_rules, hn, hbits0, hbits1, hBlOut, hRange, hBlEnable, hBlAmp, hBlCycles])
  case blRead => exact fun rq s h hn hbits0 => ends_of_pass h (by simp only [check_rules, hn, hbits0])
  case hkResultRead => exact fun rq s h hn hbits0 => ends_of_pass h (by simp only [check_rules, hn, hbits0])
  case outStatusRead => exact fun rq s h hn => ends_of_pass h (by simp only [check_rules, hn])
  case blStatusRead => exact fun rq s h hn hbits0 => ends_of_pass h (by simp only [check_rules, hn, hbits0])
  case optStatusRead => exact fun rq s h hn => ends_of_pass h (by simp only [check_rules, hn])
  case i2cCfg => exact fun rq s h hn hbits0 hbits1 hword1 => ends_of_pass h (by simp only [check_rules, hn, hbits0, hbits1, hword1])
  case i2cXfer =>
    intro rq s
    simp only [exec, execI2cXfer, doI2cXfer]
    exact fun h hn hbits0 hbits1 hXferW hI2cOf => ends_of_pass h (by simp only [check_rules, hn, hbits0, hbits1, hXferW, hI2cOf, Option.isNone_none])

/-- Settles O31: each command passes its checks by the conditions given, and ends as its effect answers. That EVC_READ gives one SCNT twice is the model's choice
(log entry 50). -/
theorem counterCommandsComplete : Obligations.CounterCommandsComplete := by
  refine ⟨?evcRead, ?pmRead, ?pmSnap, ?winCfg, ?winRead, ?evtMaskWrite, ?evtMaskRead, ?evtPop, ?integStatusRead, ?arbCfg⟩
  case evcRead =>
    intro rq s
    simp only [exec, execEvcRead, doEvcRead]
    intro h hmin hmax hbits0 hcount hn hids
    refine ends_of_pass h ?_
    simp only [check_rules, hbits0, hcount]
    exact ⟨trivial, trivial, ⟨⟨⟨hmin, hmax⟩, trivial, trivial, hn, trivial⟩, hids⟩, trivial⟩
  case pmRead =>
    intro rq s
    simp only [exec, execPmRead, doPmRead]
    exact fun h hn hbits0 hrange hbits1 hrangeA => ends_of_pass h (by simp only [check_rules, hn, hbits0, hrange, hbits1, hrangeA])
  case pmSnap => exact fun rq s h hn => ends_of_pass h (by simp only [check_rules, hn])
  case winCfg =>
    intro rq s
    simp only [exec, execWinCfg, doWinCfg]
    exact fun h hn hbits0 hWinCls hbits1 hword1 hId => ends_of_pass h (by simp only [check_rules, hn, hbits0, hWinCls, hbits1, hword1, hId])
  case winRead =>
    intro rq s
    simp only [exec, execWinRead, doWinRead]
    exact fun h hn hbits0 hWinCls => ends_of_pass h (by simp only [check_rules, hn, hbits0, hWinCls])
  case evtMaskWrite =>
    intro rq s
    simp only [exec, execEvtMaskWrite, doEvtMaskWrite]
    exact fun h hn hbits0 hEvAssigned => ends_of_pass h (by simp only [check_rules, hn, hbits0, hEvAssigned])
  case evtMaskRead =>
    intro rq s
    simp only [exec, execEvtMaskRead, doEvtMaskRead]
    exact fun h hn hbits0 hWinCls => ends_of_pass h (by simp only [check_rules, hn, hbits0, hWinCls])
  case evtPop =>
    intro rq s
    simp only [exec, execEvtPop, doEvtPop]
    exact fun h hn hbits0 hrange => ends_of_pass h (by simp only [check_rules, hn, hbits0, hrange])
  case integStatusRead => exact fun rq s h hn => ends_of_pass h (by simp only [check_rules, hn])
  case arbCfg => exact fun rq s h hn hbits1 => ends_of_pass h (by simp only [check_rules, hn, hbits1])

end Sys2Proof.Machine
end

section
/-! O28 and O30: the commands of the container security, of the modes, the boot, the trust and the profile store. -/

namespace Sys2Proof.Machine

/-- With the key engine working and KEY_LOCK free, a key-service command takes KEY_LOCK and runs on. -/
theorem withKeyLock_takes (o : OpInfo) {rq : Req} {s : State} (hfailed : s.sec.keFailed = false) (howner : s.sec.owner = 0) :
    answered o rq s (withKeyLock o rq) = runsOn rq s fun s => keyServiceTake (deferred o rq s) s := by
  simp only [answered, withKeyLock, accepted_sec, hfailed, howner, Bool.false_eq_true, if_false, ne_eq, not_true, answer, runsOn]

theorem keySlotFree_eq_none {s : State} {k : Nat} (hswitch : switchPending s k = false) (hbusy : slotBusy s k (1 - (ctxOf s k).cur) = false) : keySlotFree s k = none := by
  simp only [keySlotFree, check_rules, hswitch, hbusy]

/-- The end of a key-service sequence by what the sequence does once KEY_LOCK is released. -/
theorem keySequenceEnd_of_seq {d : Deferred} {s : State} (hseq : s.sec.seq = some d) (hfailed : s.sec.keFailed = false) :
    keySequenceEnd false s = match keyAct d (keyRelease s) with
      | .ok u => replyDeferred d { st := .ok } [] u
      | .error e => replyDeferred d e [] (keyRelease s) := by
  have hreleased : (keyRelease s).sec.keFailed = false := hfailed
  simp only [keySequenceEnd, Bool.false_eq_true, if_false, hseq, hreleased] <;> rfl

theorem keyAct_keyLoad {d : Deferred} (s : State) (hop : d.opcode = opKeyLoad.code) : keyAct d s = keyLoadAct d.req s := if_pos hop

theorem keyAct_keyClear {d : Deferred} (s : State) (hop : d.opcode = opKeyClear.code) : keyAct d s = keyClearAct d.req s := by
  rw [keyAct, hop, if_neg (by decide), if_pos rfl]

theorem keyAct_authKeyLoad {d : Deferred} (s : State) (hop : d.opcode = opAuthKeyLoad.code) : keyAct d s = authLoadAct d.req s := by
  rw [keyAct, hop, if_neg (by decide), if_neg (by decide), if_pos rfl]

theorem keyAct_tkLoad {d : Deferred} (s : State) (hop : d.opcode = opTkLoad.code) : keyAct d s = tkLoadAct d.req s := by
  rw [keyAct, hop, if_neg (by decide), if_neg (by decide), if_neg (by decide)]

/-- The pending-switch and slot conditions look at nothing that the release of KEY_LOCK changes. -/
theorem keySlotFree_keyRelease (s : State) (k : Nat) : keySlotFree (keyRelease s) k = keySlotFree s k := rfl

/-- Nor do the keys under which a key comes wrapped. -/
theorem tkOf_keyRelease (s : State) (n : Nat) : tkOf (keyRelease s) n = tkOf s n := rfl

theorem wrapKey_keyRelease (s : State) (n : Nat) : wrapKey (keyRelease s) n = wrapKey s n := rfl

/-- Settles O28: each command passes its checks by the conditions given, and ends as its effect answers; a key sequence ends as what it does decides. -/
theorem securityCommandsComplete : Obligations.SecurityCommandsComplete := by
  refine ⟨?secCfg, ?secRead, ?secStatusRead, ?keyLoad, ?keyLoadEnds, ?keyClear, ?keyClearEnds, ?keySwitch, ?secClearLoss, ?keStatusRead⟩
  case secCfg =>
    intro rq s
    simp only [exec, execSecCfg, doSecCfg]
    exact fun h hpresent hn hbits0 hbits1 hlimit hbind hunbound hmoved hpeers hbits4 =>
      ends_of_pass h (by simp only [check_rules, secUnit, hpresent, hn, hbits0, hbits1, hlimit, hbind, hunbound, hmoved, hpeers, hbits4])
  case secRead => exact fun rq s h hpresent hn hbits0 => ends_of_pass h (by simp only [check_rules, secUnit, hpresent, hn, hbits0])
  case secStatusRead => exact fun rq s h hpresent hn hbits0 => ends_of_pass h (by simp only [check_rules, secUnit, hpresent, hn, hbits0])
  case keyLoad =>
    intro rq s h hpresent hn hbits0 hbits1 hswitch hbusy hfailed howner
    refine (ends_of_pass h ?_).trans (congrArg _ (withKeyLock_takes _ hfailed howner))
    simp only [check_rules, secUnit, keySlotFree_eq_none hswitch hbusy, hpresent, hn, hbits0, hbits1]
  case keyLoadEnds =>
    intro d s hseq hfailed hop hswitch hbusy
    rw [keySequenceEnd_of_seq hseq hfailed, keyAct_keyLoad _ hop, keyLoadAct, keySlotFree_keyRelease, keySlotFree_eq_none hswitch hbusy, tkOf_keyRelease]
    cases unwrapWords d.req (tkOf s (fld (d.req.p 1) 1 0)) <;> rfl
  case keyClear =>
    intro rq s h hpresent hn hbits0 hswitch hbusy hfailed howner
    refine (ends_of_pass h ?_).trans (congrArg _ (withKeyLock_takes _ hfailed howner))
    simp only [check_rules, secUnit, keySlotFree_eq_none hswitch hbusy, hpresent, hn, hbits0]
  case keyClearEnds =>
    intro d s hseq hfailed hop hswitch hbusy
    rw [keySequenceEnd_of_seq hseq hfailed, keyAct_keyClear _ hop, keyClearAct, keySlotFree_keyRelease, keySlotFree_eq_none hswitch hbusy]
  case keySwitch =>
    intro rq s
    simp only [exec, execKeySwitch, doKeySwitch]
    exact fun h hpresent hn hbits0 hkey hswitch => ends_of_pass h (by simp only [check_rules, secUnit, hpresent, hn, hbits0, hkey, hswitch])
  case secClearLoss => exact fun rq s h hpresent hn hbits0 => ends_of_pass h (by simp only [check_rules, secUnit, hpresent, hn, hbits0])
  case keStatusRead => exact fun rq s h hn => ends_of_pass h (by simp only [check_rules, hn])

/-- The conditions of a change of mode, one check each. -/
theorem modeChecks_pass {m : Mode} {n : Nat} {s : State} (hbond : m = .forge ∨ bondAny s = false) (hcores : m ≠ .temper ∨ 2 ≤ coresWorking s)
    (hkindle : s.mode.mode = .kindle → s.boot.stage = .ready) (hwaiting : waiting opModeSet s = []) (hused : m ≠ .temper ∨ inUse (bankAt s n) ≤ limitIn .temper s) :
    ∀ c ∈ modeChecks m n s, c = none := by
  simp only [modeChecks, List.forall_mem_cons, need_eq_none]
  refine ⟨by simpa using hbond, by simpa using hcores, ?_, by simpa using hused, by simp⟩
  simpa [hwaiting, ← imp_iff_not_or] using hkindle

/-- Settles O30: each command passes its checks by the conditions given, and ends as its effect answers; a key sequence ends as what it does decides. The check of
PK_SET's reserved word 0, the BUSY of a second IMAGE_INSTALL and what `bootFail` leaves of an image refused are the model's choices (log entries 47, 53 and 46). -/
theorem modeAndBootCommandsComplete : Obligations.ModeAndBootCommandsComplete := by
  refine ⟨?quench, ?quenchExit, ?faultAck, ?modeSet, ?modeCfg, ?modeStatusRead, ?imageStage, ?bootExec, ?imageInstall, ?signerSlotProgram, ?signerRevoke,
    ?rollbackAdvance, ?rollbackAdvance2, ?sysRestart, ?bootStatusRead, ?pkSet, ?authKeyLoad, ?authKeyLoadEnds, ?tkLoad, ?tkLoadEnds, ?keySlotsRead, ?idRead,
    ?attest, ?faultRead, ?faultExport, ?retireRead, ?profileRestore, ?store, ?storeStatusRead, ?profileErase⟩
  case quench => exact fun rq s h hn => ends_of_pass h (by simp only [check_rules, hn])
  case quenchExit => exact fun rq s h hn hheld => ends_of_pass h (by simp only [check_rules, hn, hheld])
  case faultAck => exact fun rq s h hn hgone => ends_of_pass h (by simp only [check_rules, hn, hgone])
  case modeSet =>
    intro rq s
    simp only [exec, execModeSet, doModeSet]
    intro h hn hbits0 hcode hbond hcores hkindle hwaiting hused
    refine ends_of_pass h ?_
    simp only [check_rules, hn, hbits0, hcode, true_and, and_true]
    exact modeChecks_pass hbond hcores hkindle hwaiting hused
  case modeCfg => exact fun rq s h hn hbits0 hword0 => ends_of_pass h (by simp only [check_rules, hn, hbits0, hword0])
  case modeStatusRead => exact fun rq s h hn => ends_of_pass h (by simp only [check_rules, hn])
  case imageStage =>
    intro rq s
    simp only [exec, execImageStage, doImageStage]
    exact fun h hmin hmax hbits0 hend => ends_of_pass h (by simp only [check_rules, hmin, hmax, hbits0, hend])
  case bootExec => exact fun rq s h hrom hn => ends_of_pass h (by simp only [check_rules, hrom, hn])
  case imageInstall =>
    intro rq s
    simp only [exec, execImageInstall, doImageInstall]
    exact fun h hn hbits0 => ends_of_pass h (by simp only [check_rules, hn, hbits0])
  case signerSlotProgram =>
    intro rq s
    simp only [exec, execSignerSlotProgram, doSignerSlotProgram]
    exact fun h hmac hn hbits0 hslot hunused => ends_of_pass h (by simp only [check_rules, underAdminMac, hmac, hn, hbits0, hslot, hunused])
  case signerRevoke =>
    intro rq s
    simp only [exec, execSignerRevoke, doSignerRevoke]
    exact fun h hmac hn hbits0 hslot hrunning => ends_of_pass h (by simp only [check_rules, underAdminMac, hmac, hn, hbits0, hslot, hrunning])
  case rollbackAdvance =>
    intro rq s h hmac hn hnone hfuses
    refine (ends_of_pass h ?_).trans (congrArg _ ?_)
    · simp only [check_rules, underAdminMac, hmac, hn, hnone, Option.isNone_none]
    · simp only [answered, accepted_boot, if_pos hfuses, answer, completed]
  case rollbackAdvance2 =>
    intro rq s h hmac hn hnone hfuses
    refine (ends_of_pass h ?_).trans (congrArg _ ?_)
    · simp only [check_rules, underAdminMac, hmac, hn, hnone, Option.isNone_none]
    · simp only [answered, accepted_boot, if_neg (Nat.not_le.2 hfuses), answer, runsOn]
  case sysRestart => exact fun rq s h hn => ends_of_pass h (by simp only [check_rules, hn])
  case bootStatusRead => exact fun rq s h hn => ends_of_pass h (by simp only [check_rules, hn])
  case pkSet =>
    intro rq s
    simp only [exec, execPkSet, doPkSet]
    generalize oaepDecrypt identityModulus Config.rsaPrivate (rq.params.drop 1) = key
    cases key <;> exact fun h hn hbits0 => ends_of_pass h (by simp only [check_rules, hn, hbits0])
  case authKeyLoad =>
    intro rq s
    simp only [exec, execAuthKeyLoad, doAuthKeyLoad]
    intro h hn hbits0 hbits1 hwrap hadmin hfailed howner
    refine (ends_of_pass h ?_).trans (congrArg _ (withKeyLock_takes _ hfailed howner))
    simp only [check_rules, hn, hbits0, hbits1, hwrap, hadmin]
  case authKeyLoadEnds =>
    intro d s a l hseq hfailed hop hadmin
    have hkeeps : ¬ losesAdmin a l (keyRelease s) = true := (Bool.eq_false_iff (b := losesAdmin a l s)).1 hadmin
    rw [keySequenceEnd_of_seq hseq hfailed, keyAct_authKeyLoad _ hop, authLoadAct, if_neg hkeeps]
    by_cases hl : l = 0
    · rw [if_pos hl, if_pos hl]
    · rw [if_neg hl, if_neg hl, wrapKey_keyRelease]
      cases unwrapWords d.req (wrapKey s (fld (d.req.p 1) 2 0)) <;> rfl
  case tkLoad =>
    intro rq s h hn hbits0 hbits1 hwrap hfailed howner
    refine (ends_of_pass h ?_).trans (congrArg _ (withKeyLock_takes _ hfailed howner))
    simp only [check_rules, hn, hbits0, hbits1, hwrap]
  case tkLoadEnds =>
    intro d s t w hseq hfailed hop
    rw [keySequenceEnd_of_seq hseq hfailed, keyAct_tkLoad _ hop, tkLoadAct]
    by_cases hclear : bit (d.req.p 0) 8 = true
    · rw [if_pos hclear, if_pos hclear]
    · rw [if_neg hclear, if_neg hclear, wrapKey_keyRelease]
      cases unwrapWords d.req (if w = t then none else wrapKey s w) <;> rfl
  case keySlotsRead => exact fun rq s h hn => ends_of_pass h (by simp only [check_rules, hn])
  case idRead => exact fun rq s h hn => ends_of_pass h (by simp only [check_rules, hn])
  case attest => exact fun rq s h hn => ends_of_pass h (by simp only [check_rules, hn])
  case faultRead =>
    intro rq s
    simp only [exec, execFaultRead, doFaultRead]
    exact fun h hn hbits0 hend => ends_of_pass h (by simp only [check_rules, hn, hbits0, hend])
  case faultExport => exact fun rq s h hn => ends_of_pass h (by simp only [check_rules, hn])
  case retireRead => exact fun rq s h hn => ends_of_pass h (by simp only [check_rules, hn])
  case profileRestore => exact fun rq s h hn hprofile hready => ends_of_pass h (by simp only [check_rules, hn, hprofile, hready])
  case store =>
    intro rq s h hslots hn hbits0 hstore herase hfailed howner
    refine (ends_of_pass h ?_).trans (congrArg _ ?_)
    · simp only [check_rules, hslots, hn, hbits0, hstore, herase]
    · simp only [answered, accepted_sec, hfailed, Bool.false_eq_true, if_false, answer, runsOn]
      rw [if_pos (show ((accepted rq s).onStore _).sec.owner = 0 by simpa using howner)]
  case storeStatusRead => exact fun rq s h hn => ends_of_pass h (by simp only [check_rules, hn])
  case profileErase => exact fun rq s h hn hstore herase => ends_of_pass h (by simp only [check_rules, hn, hstore, herase])

end Sys2Proof.Machine
end
